-- ==== Sys2Proof/Word.lean ====
section
/-! DEFINITION. The word types of the CZ-EFN-384: a byte of memory, the 32-bit words of a frond, and the
64-bit word of a register (R7, R35, R66). -/

namespace Sys2Proof

/-- A byte of memory, of a tile or of flash. -/
abbrev Byte := BitVec 8

/-- A 32-bit word of a frond (R66). -/
abbrev Word32 := BitVec 32

/-- The 64-bit word of a register (R35). -/
abbrev Word := BitVec 64

end Sys2Proof
end

