-- ==== Sys2Proof/Syntax.lean ====
section
/-! DEFINITION. The commands the block takes from outside and the events on its pins, buses and links: one
constructor of `Instr` for each row of the opcode table, with the row's operands. -/

namespace Sys2Proof

/-- A master of the register and address space (R29, R478). -/
inductive Master where
  /-- The host of port `n`. -/
  | pcie (n : Fin 2)
  /-- The management core. -/
  | mgmt
  /-- The sequencer of region `r`. -/
  | seq (r : Fin 8)
  /-- A stream channel of region `r`. -/
  | strm (r : Fin 8)
deriving DecidableEq, Repr

/-- A frond in a region: its queue and its free-running count in that queue (R74). -/
structure FrondRef where
  region : Fin 8
  queue : Fin 4
  idx : Word32
deriving DecidableEq, Repr

/-- A token counter: region token `k` of a region, or a global token (R78). -/
inductive TokenRef where
  | region (r : Fin 8) (k : Fin 256)
  | global (n : Fin 1024)
deriving DecidableEq, Repr

/-- The queue configuration registers of R77. -/
inductive QueueCfg where
  | qbase | crbase | crcfg | qctrl
deriving DecidableEq, Repr

/-- The supply rails (R505). -/
inductive Rail where
  | vcore0 | vcore1 | vbase | vdram | vddq | vpp | vserdes | vserdesh | vmgmt | vio
deriving DecidableEq, Repr

/-- Why a canary's slack fell: the causes of BEAT_STRETCH (R44). -/
inductive StretchCause where
  | slack | thermal | pwrcap
deriving DecidableEq, Repr

/-- Which block of a frond's engines a detection falls in, counted in the order of R434's unit index. -/
abbrev UnitSel := Fin 8

/-- A block and cell that fails a self-test: the block by its bit in the fail mask of R449, and the logical cell. -/
structure CellSel where
  block : Fin 16
  cell : Fin 8
deriving DecidableEq, Repr

/-- The margins measured on one pseudo-channel (R177, R179). -/
structure MarginRec where
  rdLeft : BitVec 6
  rdRight : BitVec 6
  wrLeft : BitVec 6
  wrRight : BitVec 6
  vrefLo : BitVec 8
  vrefHi : BitVec 8
  temp : BitVec 8
deriving DecidableEq, Repr

/-- What start-up step 5 finds at one tower (R175). -/
structure TowerStart where
  trained : Bool
  margins : List MarginRec
deriving DecidableEq, Repr

/-- What start-up samples and measures (R493, R509): the straps, whether the reference locks and the flash reads,
the towers, and the results of the entropy source's start-up test. -/
structure StartEnv where
  domid : BitVec 4
  mbusSel : Bool
  testEn : Bool
  /-- Both reference inputs lock within 50 ms and agree (R493, R510). -/
  refOk : Bool
  flashOk : Bool
  towers : List TowerStart
  entropyRuns : List Bool
deriving DecidableEq, Repr

/-- What link training reports (R372). -/
structure TrainInfo where
  lanes : BitVec 8
  peerCoord : Word32
  peerPort : BitVec 4
  /-- Round trip in 1/16 bt. -/
  rtt : BitVec 16
  /-- Frequency offset against the partner's reference, in units of 0.1 ppm (R60). -/
  ppm10 : Nat
deriving DecidableEq, Repr

/-- The header of a link packet (R373). -/
structure LinkHdr where
  type : BitVec 8
  vc : BitVec 2
  poison : Bool
  detour : Bool
  ddim : BitVec 2
  len : Nat
  lseq : BitVec 12
  ack : BitVec 12
  ackv : Bool
  nak : Bool
  destP : Word32
  destL : Word32
  srcL : Word32
  tag : Word32
  offset : BitVec 40
  cvc : BitVec 2
  credits : BitVec 12
  cv : Bool
deriving DecidableEq, Repr

/-- The content of a link packet, by its type (R374, R388, R391, R392, R413). -/
inductive Body where
  | idle
  /-- DATA and TEE payload, and MAINT messages: the payload's bytes without what fills it up to a multiple of 32. -/
  | bytes (d : List Byte)
  /-- DATA of a GEMMA_FILL or an EPOCH_SNAPSHOT: the absolute address at the target and the bytes (R410, R418). -/
  | fill (addr : Nat) (d : List Byte)
  /-- RTS: the byte count of the SEND (R388). -/
  | rts (count : Nat)
  /-- CTS: the byte count granted, or acknowledged under R390. -/
  | cts (count : Nat)
  /-- A collective chunk (R385–R387): the group's ID, the frond's opcode, element count and format, the dimension of
  the stage, the phase (false reduce-scatter, true all-gather), the ring step, the half, and the elements. -/
  | coll (group opcode e fmt dim : Nat) (gather : Bool) (step : Nat) (half : Bool) (elems : List Nat)
  | heartbeat (beat : Word) (phase : BitVec 6) (coord : Word32)
  | align (stamp : Word) (phase : BitVec 6) (hops : BitVec 8)
  /-- BAR_ARRIVE: the group, the sender's rank and stretch level, and the FRESH bit of R406. -/
  | barArrive (group rank level : Nat) (fresh : Bool)
  /-- BAR_RELEASE: the group, T, and the drop list of R406. -/
  | barRelease (group : Nat) (t : Word) (drops : List Word32)
  | loss (deadL deadP standinP originP : Word32) (declBeat : Word) (cause : BitVec 8) (confirm rollback : Bool)
  | adopt (logical gemmaP symbiontP : Word32) (step : Word) (kind : BitVec 8)
  | ready (kind : BitVec 8) (senderL : Word32) (value value2 : Word) (domain board : BitVec 16)
deriving DecidableEq, Repr

/-- A link packet. -/
structure Packet where
  hdr : LinkHdr
  body : Body
deriving DecidableEq, Repr

/-- The BARs of a host port (R477). -/
inductive Bar where
  | register | memory | doorbell
deriving DecidableEq, Repr

/-- An answer to an ATS translation request (R482, R483): the page is absent, or a translation of 2^`log2` bytes. -/
inductive AtsResult where
  | absent
  | page (log2 : Nat)
deriving DecidableEq, Repr

/-- A page response (R483). -/
inductive PageResp where
  | success | invalid | failure
deriving DecidableEq, Repr

/-- The configuration-space controls a host writes (R476, R477, R482). -/
inductive PcieCfg where
  | busMaster | ats | pri | priAlloc | msixEnable | msixMask | barSize
deriving DecidableEq, Repr

/-- How a flash command ends (R496). -/
inductive FlashErr where
  | none | flash | verify
deriving DecidableEq, Repr

/-- The activities of the maintenance arbiter (R443). -/
inductive Activity where
  | scrub | margin | retrain | drain | fill | epoch | thermal | selftest
deriving DecidableEq, Repr

/-- A request of the board controller (R487). -/
inductive MctpReq where
  | telemetry
  | powerCap (watts : BitVec 16)
deriving DecidableEq, Repr

/-- The commands the block takes: one constructor for each row of the opcode table. -/
inductive Instr where
  /-- POWER_GOOD_RISE. PWRGOOD rises; `e` holds the straps and what start-up measures. -/
  | powerGoodRise (e : StartEnv)
  /-- POWER_GOOD_FALL. PWRGOOD is held low for 1 µs or more. -/
  | powerGoodFall
  /-- RESET_N_FALL. RESET_N is held low for 1 µs or more. -/
  | resetNFall
  /-- RESET_N_RISE. RESET_N is released; `e` as for a power-good start. -/
  | resetNRise (e : StartEnv)
  /-- PERST_ASSERT. PEnPERST_N of port `p` goes low. -/
  | perstAssert (p : Fin 2)
  /-- RAIL_OUT_OF_TOLERANCE. A rail leaves its tolerance while PWRGOOD is high. -/
  | railOutOfTolerance (rail : Rail)
  /-- VMGMT_LOSS. VMGMT leaves its tolerance. -/
  | vmgmtLoss
  /-- SYSREF_LOCK_TIMEOUT. A reference input has not locked within 50 ms, or the two inputs differ. -/
  | sysrefLockTimeout
  /-- REF_LOSS. The reference is lost after lock. -/
  | refLoss
  /-- THERMAL_THROTTLE. A sensor of die `d` reads `t` °C, 103 or above. -/
  | thermalThrottle (d : Fin 2) (t : BitVec 8)
  /-- HOT_CLEAR. The hottest sensors of the two dies read `t0` and `t1` °C. -/
  | hotClear (t0 : BitVec 8) (t1 : BitVec 8)
  /-- THERMTRIP. A sensor of die `d` reads `t` °C, 115 or above, for 10 µs. -/
  | thermtrip (d : Fin 2) (t : BitVec 8)
  /-- LINK_TRAINING_TIMEOUT. BOOT_CFG.LINK_WD_S expires in start-up step 6. -/
  | linkTrainingTimeout
  /-- ALIGN_TIMEOUT. BOOT_CFG.ALIGN_WD_S expires in start-up step 7. -/
  | alignTimeout
  /-- VOLTAGE_LOOP_TICK. Firmware reads a minimum slack of `slack`/64 bt; `full` says that it stayed at or above 10/64 bt for the whole 1 µs window. -/
  | voltageLoopTick (slack : BitVec 8) (full : Bool)
  /-- POWER_ESTIMATE. The device estimates a module power of `watts` W. -/
  | powerEstimate (watts : Nat)
  /-- BEAT_STRETCH. A canary of die `d` reports a slack below 3/64 bt. -/
  | beatStretch (d : Fin 2) (cause : StretchCause)
  /-- BEAT_UNSTRETCH. The margin conditions have held for HOLD_US. -/
  | beatUnstretch (d : Fin 2)
  /-- HEARTBEAT_SEND. The next multiple of 1,000 counter beats. -/
  | heartbeatSend
  /-- HEARTBEAT. Port `p` receives a HEARTBEAT; `err` is the phase error in 1/64 bt. -/
  | heartbeat (p : Fin 16) (k : Packet) (err : Int)
  /-- ALIGN. Port `p` receives an ALIGN packet. -/
  | align (p : Fin 16) (k : Packet)
  /-- QTAIL_WRITE. SEQ.QTAILq of region `r` is written with `t`, directly or through the doorbell. -/
  | qtailWrite (m : Master) (r : Fin 8) (q : Fin 4) (t : Word32)
  /-- CRTAIL_WRITE. SEQ.CRTAILq of region `r` is written with `t`. -/
  | crtailWrite (m : Master) (r : Fin 8) (q : Fin 4) (t : Word32)
  /-- QUEUE_ENABLE_WRITE. QCTRLq.ENABLE is written, the other fields with the values they hold. -/
  | queueEnableWrite (m : Master) (r : Fin 8) (q : Fin 4) (en : Bool)
  /-- QUEUE_RESTART. QCTRLq.RESTART is written 1. -/
  | queueRestart (m : Master) (r : Fin 8) (q : Fin 4)
  /-- QUEUE_CFG_WRITE. QBASEq, CRBASEq, CRCFGq or QCTRLq is written with `v`. -/
  | queueCfgWrite (m : Master) (r : Fin 8) (q : Fin 4) (k : QueueCfg) (v : Word)
  /-- TOKEN_WRITE. A token counter is written with `v`. -/
  | tokenWrite (m : Master) (t : TokenRef) (v : Word)
  /-- FROND_DECODE. The sequencer of region `r` decodes its next undecoded frond. -/
  | frondDecode (r : Fin 8)
  /-- FROND_ACCEPT. The sequencer of region `r` accepts the next frond whose conditions hold. -/
  | frondAccept (r : Fin 8)
  /-- SKIPPED_FROND_RELEASE. The fourth work beat after the acceptance of a skipped or aborted frond. -/
  | skippedFrondRelease (f : FrondRef)
  /-- FROND_COMPLETE. The work of `f` completes on counter beat `b`. -/
  | frondComplete (f : FrondRef) (b : Word)
  /-- PACED_RELEASE. Counter beat P of a PACED frond that has completed. -/
  | pacedRelease (f : FrondRef)
  /-- ABORT_SINGLE. SEQ.ABORT is written with SCOPE 0. -/
  | abortSingle (m : Master) (r : Fin 8) (q : Fin 4) (seq : Word32)
  /-- ABORT_THROUGH. SEQ.ABORT is written with SCOPE 1. -/
  | abortThrough (m : Master) (r : Fin 8) (q : Fin 4) (seq : Word32)
  /-- ABORT_QUEUE. SEQ.ABORT is written with SCOPE 2. -/
  | abortQueue (m : Master) (r : Fin 8) (q : Fin 4) (seq : Word32)
  /-- PREEMPT_DRAIN. SEQ.PREEMPT is written with MODE 0. -/
  | preemptDrain (m : Master) (r : Fin 8) (q : Fin 4)
  /-- PREEMPT_SUSPEND. SEQ.PREEMPT is written with MODE 1. -/
  | preemptSuspend (m : Master) (r : Fin 8) (q : Fin 4)
  /-- PREEMPT_RESUME. SEQ.PREEMPT is written with RESUME. -/
  | preemptResume (m : Master) (r : Fin 8) (q : Fin 4)
  /-- PREEMPT_DONE. Every frond of a preempted queue is held or released. -/
  | preemptDone (r : Fin 8) (q : Fin 4)
  /-- TILE_SUSPEND_DISCARD. 4,096 bt after a suspension, a row of `f` is still in flight. -/
  | tileSuspendDiscard (f : FrondRef)
  /-- CELL_REPLAY. A cell of an engine of `f` detects an error in the next granule. -/
  | cellReplay (f : FrondRef) (u : UnitSel) (cell : Fin 8)
  /-- CELL_FAULT. The cell detects an error again in the replay of the granule. -/
  | cellFault (f : FrondRef) (u : UnitSel) (cell : Fin 8)
  /-- SEQUENCER_PARITY. The sequencer of region `r` detects a parity error. -/
  | sequencerParity (r : Fin 8)
  /-- BLOCK_FAULT. The copy engine that runs `f` detects a parity error. -/
  | blockFault (f : FrondRef)
  /-- BRIDGE_REPLAY. A die-bridge transfer sent by die `d` is found in error and replayed. -/
  | bridgeReplay (d : Fin 2)
  /-- PERI_PARITY. The peristome network detects a parity error in the work of `f`. -/
  | periParity (f : FrondRef)
  /-- SPORE_EXPANDER_REPLAY. A spore-expander cell finds a lane-parity mismatch in the work of `f`. -/
  | sporeExpanderReplay (f : FrondRef) (cell : Fin 8)
  /-- HANDOFF_ACCESS_GRANT. A parked handoff access of `f` is presented again. -/
  | handoffAccessGrant (f : FrondRef)
  /-- HANDOFF_TIMEOUT. A parked handoff access of `f` reaches HANDOFF_WD. -/
  | handoffTimeout (f : FrondRef)
  /-- CIRC_ACCESS_GRANT. A waiting circular access of `f` is presented again. -/
  | circAccessGrant (f : FrondRef)
  /-- CIRC_TIMEOUT. A waiting circular access of `f` reaches HANDOFF_WD. -/
  | circTimeout (f : FrondRef)
  /-- MAT_MODE_WRITE. MAT.CTRL is written. -/
  | matModeWrite (m : Master) (r : Fin 8) (v : Word)
  /-- HOFF_CFG_WRITE. MAT.HOFFh_CFG is written. -/
  | hoffCfgWrite (m : Master) (r : Fin 8) (h : Fin 16) (v : Word)
  /-- CIRC_CFG_WRITE. MAT.CIRCk_CFG is written. -/
  | circCfgWrite (m : Master) (r : Fin 8) (k : Fin 4) (v : Word)
  /-- CIRC_POINTER_WRITE. MAT.CIRCk_HEAD or, with `tail`, CIRCk_TAIL is written. -/
  | circPointerWrite (m : Master) (r : Fin 8) (k : Fin 4) (tail : Bool) (v : Word)
  /-- PCLASS_WRITE. MAT.PCLASSk is written. -/
  | pclassWrite (m : Master) (r : Fin 8) (k : Fin 16) (v : Word)
  /-- CHCFG_WRITE. STRM.CHCFGc is written. -/
  | chcfgWrite (m : Master) (r : Fin 8) (c : Fin 32) (v : Word)
  /-- RUN_AHEAD. Run-ahead fetches the next `n` elements of a source slot of `f`. -/
  | runAhead (f : FrondRef) (slot : Fin 4) (n : Nat)
  /-- REFRESH. A refresh of tower `t` falls due on beat `b` and delays requests of the fronds `hits`. -/
  | refresh (t : Fin 8) (b : Word) (hits : List FrondRef)
  /-- DRAM_TEMP_SAMPLE. Tower `t`'s temperature is sampled. -/
  | dramTempSample (t : Fin 8) (temp : BitVec 8)
  /-- RFSH_MODE_WRITE. TOWn.RFSH is written. -/
  | rfshModeWrite (m : Master) (t : Fin 8) (v : Word)
  /-- QUIESCE_WRITE. TOWn.CTRL is written. -/
  | quiesceWrite (m : Master) (t : Fin 8) (v : Word)
  /-- TOWER_QUIESCED. The controller of tower `t` is idle. -/
  | towerQuiesced (t : Fin 8)
  /-- TOW_QUIESCE_TIMEOUT. A quiesce of tower `t` has lasted 10 ms. -/
  | towQuiesceTimeout (t : Fin 8)
  /-- MARGIN_GO. TOWn.MARGIN is written with GO. -/
  | marginGo (m : Master) (t : Fin 8) (v : Word)
  /-- MARGIN_DONE. The margining pass of tower `t` ends, having measured `rec`. -/
  | marginDone (t : Fin 8) (rec : List MarginRec)
  /-- POISON_OP_QUERY. TOWn.POISON_OP is written with OP 1. -/
  | poisonOpQuery (m : Master) (t : Fin 8) (g : BitVec 24)
  /-- POISON_OP_SET. TOWn.POISON_OP is written with OP 2. -/
  | poisonOpSet (m : Master) (t : Fin 8) (g : BitVec 24)
  /-- POISON_OP_CLEAR. TOWn.POISON_OP is written with OP 3. -/
  | poisonOpClear (m : Master) (t : Fin 8) (g : BitVec 24)
  /-- SCRUB_STEP. The background scrub timer of tower `t` fires. -/
  | scrubStep (t : Fin 8)
  /-- KSET_GO. KSETk_CTL.GO is written 1. -/
  | ksetGo (m : Master) (r : Fin 8) (k : Fin 16)
  /-- KSET_REGISTERED. The registration of slot `k` completes. -/
  | ksetRegistered (r : Fin 8) (k : Fin 16)
  /-- KSET_CLEAR. KSETk_CTL.CLEAR is written 1. -/
  | ksetClear (m : Master) (r : Fin 8) (k : Fin 16)
  /-- KSET_BASE_WRITE. KSETk_BASE is written. -/
  | ksetBaseWrite (m : Master) (r : Fin 8) (k : Fin 16) (v : Word)
  /-- ENTROPY_HEALTH_FAIL. A continuous health test fails (the adaptive proportion test if `apt`); `rerun` is the result of the start-up test that follows. -/
  | entropyHealthFail (apt : Bool) (rerun : Bool)
  /-- ENTROPY_RECOVERED. A rerun of the start-up test passes. -/
  | entropyRecovered
  /-- RNG_RETRY. RNG_CTRL.RETRY is written 1; `pass` is the result of the rerun. -/
  | rngRetry (m : Master) (pass : Bool)
  /-- DRBG_RESEED. DRBG instance `k` is due to reseed and the pool holds 64 B. -/
  | drbgReseed (k : Fin 9)
  /-- SHAKE256. PKE command 1 is written to PKE.CMD with GO. `v` is the whole word written to PKE.CMD; the command code it carries is taken to be this one. -/
  | shake256 (m : Master) (v : Word)
  /-- ED448_VERIFY. PKE command 2. `v` is the whole word written to PKE.CMD; the command code it carries is taken to be this one. -/
  | ed448Verify (m : Master) (v : Word)
  /-- ED448_SIGN. PKE command 3. `v` is the whole word written to PKE.CMD; the command code it carries is taken to be this one. -/
  | ed448Sign (m : Master) (v : Word)
  /-- X448. PKE command 4. `v` is the whole word written to PKE.CMD; the command code it carries is taken to be this one. -/
  | x448 (m : Master) (v : Word)
  /-- KEYGEN. PKE command 5. `v` is the whole word written to PKE.CMD; the command code it carries is taken to be this one. -/
  | keygen (m : Master) (v : Word)
  /-- PUBKEY. PKE command 6. `v` is the whole word written to PKE.CMD; the command code it carries is taken to be this one. -/
  | pubkey (m : Master) (v : Word)
  /-- KDF. PKE command 7. `v` is the whole word written to PKE.CMD; the command code it carries is taken to be this one. -/
  | kdf (m : Master) (v : Word)
  /-- MAC. PKE command 8. `v` is the whole word written to PKE.CMD; the command code it carries is taken to be this one. -/
  | mac (m : Master) (v : Word)
  /-- CLEAR. PKE command 9. `v` is the whole word written to PKE.CMD; the command code it carries is taken to be this one. -/
  | clear (m : Master) (v : Word)
  /-- ATTEST. PKE command 10. `v` is the whole word written to PKE.CMD; the command code it carries is taken to be this one. -/
  | attest (m : Master) (v : Word)
  /-- PKE_COMPLETE. The running PKE command ends after `beats` counter beats. -/
  | pkeComplete (beats : Word32)
  /-- LOG_RING_ENTRY. The first held event enters the log ring. -/
  | logRingEntry
  /-- LOG_RD_SEL_WRITE. LOG.RD_SEL is written. -/
  | logRdSelWrite (m : Master) (v : Word)
  /-- LOG_TAIL_WRITE. LOG.TAIL is written. -/
  | logTailWrite (m : Master) (v : Word)
  /-- DRAIN_TAIL_WRITE. LOG.DRAIN_TAIL is written. -/
  | drainTailWrite (m : Master) (v : Word)
  /-- MAINT_REQ_SCRUB. MAINT.REQ is written with ACT 1. -/
  | maintReqScrub (m : Master) (scope : BitVec 8)
  /-- MAINT_REQ_RETRAIN. MAINT.REQ is written with ACT 3. -/
  | maintReqRetrain (m : Master) (scope : BitVec 8)
  /-- MAINT_REQ_DRAIN. MAINT.REQ is written with ACT 4. -/
  | maintReqDrain (m : Master) (scope : BitVec 8)
  /-- MAINT_REQ_THERMAL. MAINT.REQ is written with ACT 7. -/
  | maintReqThermal (m : Master) (scope : BitVec 8)
  /-- MAINT_START. The arbiter starts the first queued request that no longer conflicts. -/
  | maintStart
  /-- MAINT_DONE. A running activity ends; `corr` is the largest sensor correction of a THERMAL. -/
  | maintDone (act : Activity) (scope : Nat) (corr : BitVec 16)
  /-- THERMAL_RECALIBRATION. The THERM_CFG timer fires for die `d`. -/
  | thermalRecalibration (d : Fin 2)
  /-- LINK_UP. Port `p` completes training with the facts `t`. -/
  | linkUp (p : Fin 16) (t : TrainInfo)
  /-- LINK_ENABLE_WRITE. LINKn.CTRL.ENABLE is written. -/
  | linkEnableWrite (m : Master) (p : Fin 16) (en : Bool)
  /-- LINK_RETRAIN_WRITE. LINKn.CTRL.RETRAIN is written 1. -/
  | linkRetrainWrite (m : Master) (p : Fin 16)
  /-- CRC_FAILURE. Port `p` receives a packet with a bad CRC, or with an unexpected LSEQ. -/
  | crcFailure (p : Fin 16) (badCrc : Bool)
  /-- LINK_REPLAY. Port `p` receives a NAK in the header of `k`. -/
  | linkReplay (p : Fin 16) (k : Packet)
  /-- LINK_BAD_TYPE. Port `p` receives a packet with a reserved TYPE or a wrong VC. -/
  | linkBadType (p : Fin 16) (k : Packet)
  /-- IDLE. Port `p` receives an IDLE packet. -/
  | idle (p : Fin 16) (k : Packet)
  /-- DATA. Port `p` receives a DATA packet. -/
  | data (p : Fin 16) (k : Packet)
  /-- RTS. Port `p` receives an RTS. -/
  | rts (p : Fin 16) (k : Packet)
  /-- CTS. Port `p` receives a CTS. -/
  | cts (p : Fin 16) (k : Packet)
  /-- COLL. Port `p` receives a COLL packet. -/
  | coll (p : Fin 16) (k : Packet)
  /-- TEE. Port `p` receives a TEE packet. -/
  | tee (p : Fin 16) (k : Packet)
  /-- BAR_ARRIVE. Port `p` receives a BAR_ARRIVE. -/
  | barArrive (p : Fin 16) (k : Packet)
  /-- BAR_RELEASE. Port `p` receives a BAR_RELEASE. -/
  | barRelease (p : Fin 16) (k : Packet)
  /-- BARRIER_RELEASE_AT_T. The first work beat at or after the release beat of barrier `f`. -/
  | barrierReleaseAtT (f : FrondRef)
  /-- COLL_TIMEOUT. A peer packet of `f` has not been seen within RECV_WD. -/
  | collTimeout (f : FrondRef)
  /-- TEE_FAIL. Tee entry `k` of region `r` has had no CTS within RECV_WD. -/
  | teeFail (r : Fin 8) (k : Nat)
  /-- MAINT. Port `p` receives a MAINT packet. -/
  | maint (p : Fin 16) (k : Packet)
  /-- ALIAS_COMMIT. ALIAS_Fi is written with COMMIT. -/
  | aliasCommit (m : Master) (k : BitVec 8) (v : Word)
  /-- GROUP_WRITE. GROUP_Ag or, with `b`, GROUP_Bg is written. -/
  | groupWrite (m : Master) (g : Fin 64) (b : Bool) (v : Word)
  /-- ARM_WRITE. FAIL.CTRL is written. -/
  | armWrite (m : Master) (v : Word)
  /-- READY_SYNC. A SYNC arrives. -/
  | readySync (p : Fin 16) (k : Packet)
  /-- CFG_PARTNER_ABSENT. No SYNC has arrived within RECV_WD. -/
  | cfgPartnerAbsent
  /-- READY_COLD_DIRTY. A COLD_DIRTY arrives. -/
  | readyColdDirty (p : Fin 16) (k : Packet)
  /-- READY_DIRTY_ACK. A DIRTY_ACK arrives. -/
  | readyDirtyAck (p : Fin 16) (k : Packet)
  /-- UNPROTECTED. No DIRTY_ACK for PT entry `k` within RECV_WD. -/
  | unprotected (k : Nat)
  /-- READY_DIGEST. A DIGEST arrives. -/
  | readyDigest (p : Fin 16) (k : Packet)
  /-- LOSS_DECLARED. No heartbeat on port `p` for 5,000 counter beats. -/
  | lossDeclared (p : Fin 16)
  /-- SELF_FENCED. No heartbeat on any port for 5,000 counter beats. -/
  | selfFenced
  /-- LOSS_RECEIVED. A LOSS packet arrives. -/
  | lossReceived (p : Fin 16) (k : Packet)
  /-- GEMMA_CLAIM. Firmware claims the nearest idle gemma. -/
  | gemmaClaim
  /-- ADOPT_CLAIM. An ADOPT of kind CLAIM arrives. -/
  | adoptClaim (p : Fin 16) (k : Packet)
  /-- READY_ACCEPT. A READY of kind ACCEPT arrives. -/
  | readyAccept (p : Fin 16) (k : Packet)
  /-- READY_BUSY. A READY of kind BUSY arrives. -/
  | readyBusy (p : Fin 16) (k : Packet)
  /-- GEMMA_FILL_DONE. The background gemma fill completes. -/
  | gemmaFillDone
  /-- ADOPT_COMMIT. An ADOPT of kind COMMIT arrives. -/
  | adoptCommit (p : Fin 16) (k : Packet)
  /-- ADOPT_RELEASE. An ADOPT of kind RELEASE arrives. -/
  | adoptRelease (p : Fin 16) (k : Packet)
  /-- HOST_BAR_READ. A host read of `len` bytes at offset `o` of a BAR of port `p`. -/
  | hostBarRead (p : Fin 2) (bar : Bar) (o : Nat) (len : Nat)
  /-- HOST_BAR_WRITE. A host posted write at offset `o` of a BAR of port `p`. -/
  | hostBarWrite (p : Fin 2) (bar : Bar) (o : Nat) (data : List Byte)
  /-- MGMT_CORE_ACCESS. A management-core store (`wr`) or load. -/
  | mgmtCoreAccess (wr : Bool) (a : BitVec 40) (data : List Byte) (len : Nat)
  /-- ATS_TRANSLATION_COMPLETION. A translation of untranslated address `u` arrives. -/
  | atsTranslationCompletion (p : Fin 2) (u : Word) (res : AtsResult)
  /-- ATS_INVALIDATION. An ATS invalidation of 2^`log2` bytes at `u` arrives. -/
  | atsInvalidation (p : Fin 2) (u : Word) (log2 : Nat)
  /-- PAGE_RESPONSE. A page response arrives. -/
  | pageResponse (p : Fin 2) (u : Word) (code : PageResp)
  /-- PAGE_REQ_TIMEOUT. No page response within PRI_CFG.WD. -/
  | pageReqTimeout (p : Fin 2) (u : Word)
  /-- HOST_CPL_ERR. A read completion of `f` carries an error, or, with `ep`, poisoned data. -/
  | hostCplErr (f : FrondRef) (ep : Bool)
  /-- PCIE_LINK_DOWN. Port `p` goes down: link down, hot reset or FLR. -/
  | pcieLinkDown (p : Fin 2)
  /-- PCIE_LINK_UP. The host link of port `p` comes up. -/
  | pcieLinkUp (p : Fin 2) (speed : BitVec 4) (width : BitVec 5)
  /-- PCIE_CONFIG_WRITE. A host writes configuration space of port `p`. -/
  | pcieConfigWrite (p : Fin 2) (k : PcieCfg) (v : Word)
  /-- SEM_ACQUIRE. MGMT.SEMk is written with ACQUIRE. -/
  | semAcquire (m : Master) (k : Fin 16)
  /-- SEM_RELEASE. MGMT.SEMk is written with RELEASE. -/
  | semRelease (m : Master) (k : Fin 16)
  /-- MBOX_DATA_WRITE. MBOX_Dd_j is written. -/
  | mboxDataWrite (m : Master) (d : Fin 3) (j : Fin 8) (v : Word)
  /-- MBOX_SEND. MBOX_CTLd.FULL is written 1 by a sender. -/
  | mboxSend (m : Master) (d : Fin 3)
  /-- MBOX_CLEAR. MBOX_CTLd.FULL is written 1 by the recipient. -/
  | mboxClear (m : Master) (d : Fin 3)
  /-- NVCFG_READ. NVCFG.CMD is written with GO and OP 1. -/
  | nvcfgRead (m : Master) (len : BitVec 9)
  /-- NVCFG_PROGRAM. NVCFG.CMD is written with GO and OP 2. -/
  | nvcfgProgram (m : Master) (len : BitVec 9)
  /-- NVCFG_ERASE. NVCFG.CMD is written with GO and OP 3. -/
  | nvcfgErase (m : Master) (len : BitVec 9)
  /-- NVCFG_DONE. The flash command ends. -/
  | nvcfgDone (err : FlashErr)
  /-- WDT_KICK. MGMT.WDT.KICK is written 1. -/
  | wdtKick (m : Master)
  /-- FW_WATCHDOG. The firmware watchdog expires. -/
  | fwWatchdog
  /-- FW_TRAP. Firmware takes an exception it does not handle. -/
  | fwTrap (cause : Word)
  /-- MCTP_MESSAGE. An MCTP request from the board controller. -/
  | mctpMessage (q : MctpReq)
  /-- PWRCAP_WRITE. SYS.PWRCAP.CAP_W is written. -/
  | pwrcapWrite (m : Master) (w : BitVec 16)
  /-- MEMCFG_WRITE. SYS.MEMCFG is written. -/
  | memcfgWrite (m : Master) (v : Word)
  /-- ND_CLR. BEAT.CTRL.ND_CLR is written 1. -/
  | ndClr (m : Master)
  /-- MISS_CLR. BEAT.CTRL.MISS_CLR is written 1. -/
  | missClr (m : Master)
  /-- REGISTER_WRITE. A register is written at device address `a`, `len` bytes wide. -/
  | registerWrite (m : Master) (a : BitVec 40) (len : Nat) (v : Word)
  /-- INSTANTIATE_UNSEEDED. Unseeded DRBG instances are instantiated. -/
  | instantiateUnseeded
  /-- NOP. The engines run up to `n` unit groups of the accepted frond `f`, whose opcode is NOP. -/
  | nop (f : FrondRef) (n : Nat)
  /-- WAIT. The engines run up to `n` unit groups of the accepted frond `f`, whose opcode is WAIT. -/
  | wait (f : FrondRef) (n : Nat)
  /-- SIGNAL. The engines run up to `n` unit groups of the accepted frond `f`, whose opcode is SIGNAL. -/
  | signal (f : FrondRef) (n : Nat)
  /-- FENCE. The engines run up to `n` unit groups of the accepted frond `f`, whose opcode is FENCE. -/
  | fence (f : FrondRef) (n : Nat)
  /-- BARRIER. The engines run up to `n` unit groups of the accepted frond `f`, whose opcode is BARRIER. -/
  | barrier (f : FrondRef) (n : Nat)
  /-- MOVE. The engines run up to `n` unit groups of the accepted frond `f`, whose opcode is MOVE. -/
  | move (f : FrondRef) (n : Nat)
  /-- FILL. The engines run up to `n` unit groups of the accepted frond `f`, whose opcode is FILL. -/
  | fill (f : FrondRef) (n : Nat)
  /-- PREFETCH. The engines run up to `n` unit groups of the accepted frond `f`, whose opcode is PREFETCH. -/
  | prefetch (f : FrondRef) (n : Nat)
  /-- COPY. The engines run up to `n` unit groups of the accepted frond `f`, whose opcode is COPY. -/
  | copy (f : FrondRef) (n : Nat)
  /-- RELAYOUT. The engines run up to `n` unit groups of the accepted frond `f`, whose opcode is RELAYOUT. -/
  | relayout (f : FrondRef) (n : Nat)
  /-- TRANSPOSE. The engines run up to `n` unit groups of the accepted frond `f`, whose opcode is TRANSPOSE. -/
  | transpose (f : FrondRef) (n : Nat)
  /-- PERMUTE. The engines run up to `n` unit groups of the accepted frond `f`, whose opcode is PERMUTE. -/
  | permute (f : FrondRef) (n : Nat)
  /-- MATMUL. The engines run up to `n` unit groups of the accepted frond `f`, whose opcode is MATMUL. -/
  | matmul (f : FrondRef) (n : Nat)
  /-- MATMUL_ACC. The engines run up to `n` unit groups of the accepted frond `f`, whose opcode is MATMUL_ACC. -/
  | matmulAcc (f : FrondRef) (n : Nat)
  /-- MATMUL_EPI. The engines run up to `n` unit groups of the accepted frond `f`, whose opcode is MATMUL_EPI. -/
  | matmulEpi (f : FrondRef) (n : Nat)
  /-- RES_MATMUL. The engines run up to `n` unit groups of the accepted frond `f`, whose opcode is RES_MATMUL. -/
  | resMatmul (f : FrondRef) (n : Nat)
  /-- BASECONV_M. The engines run up to `n` unit groups of the accepted frond `f`, whose opcode is BASECONV_M. -/
  | baseconvM (f : FrondRef) (n : Nat)
  /-- ADD. The engines run up to `n` unit groups of the accepted frond `f`, whose opcode is ADD. -/
  | add (f : FrondRef) (n : Nat)
  /-- SUB. The engines run up to `n` unit groups of the accepted frond `f`, whose opcode is SUB. -/
  | sub (f : FrondRef) (n : Nat)
  /-- MUL. The engines run up to `n` unit groups of the accepted frond `f`, whose opcode is MUL. -/
  | mul (f : FrondRef) (n : Nat)
  /-- FMA. The engines run up to `n` unit groups of the accepted frond `f`, whose opcode is FMA. -/
  | fma (f : FrondRef) (n : Nat)
  /-- MIN. The engines run up to `n` unit groups of the accepted frond `f`, whose opcode is MIN. -/
  | min (f : FrondRef) (n : Nat)
  /-- MAX. The engines run up to `n` unit groups of the accepted frond `f`, whose opcode is MAX. -/
  | max (f : FrondRef) (n : Nat)
  /-- ABS. The engines run up to `n` unit groups of the accepted frond `f`, whose opcode is ABS. -/
  | abs (f : FrondRef) (n : Nat)
  /-- NEG. The engines run up to `n` unit groups of the accepted frond `f`, whose opcode is NEG. -/
  | neg (f : FrondRef) (n : Nat)
  /-- DIV. The engines run up to `n` unit groups of the accepted frond `f`, whose opcode is DIV. -/
  | div (f : FrondRef) (n : Nat)
  /-- SQRT. The engines run up to `n` unit groups of the accepted frond `f`, whose opcode is SQRT. -/
  | sqrt (f : FrondRef) (n : Nat)
  /-- CMP. The engines run up to `n` unit groups of the accepted frond `f`, whose opcode is CMP. -/
  | cmp (f : FrondRef) (n : Nat)
  /-- SELECT. The engines run up to `n` unit groups of the accepted frond `f`, whose opcode is SELECT. -/
  | select (f : FrondRef) (n : Nat)
  /-- LOGIC. The engines run up to `n` unit groups of the accepted frond `f`, whose opcode is LOGIC. -/
  | logic (f : FrondRef) (n : Nat)
  /-- SHIFT. The engines run up to `n` unit groups of the accepted frond `f`, whose opcode is SHIFT. -/
  | shift (f : FrondRef) (n : Nat)
  /-- RADD. The engines run up to `n` unit groups of the accepted frond `f`, whose opcode is RADD. -/
  | radd (f : FrondRef) (n : Nat)
  /-- RSUB. The engines run up to `n` unit groups of the accepted frond `f`, whose opcode is RSUB. -/
  | rsub (f : FrondRef) (n : Nat)
  /-- RMUL. The engines run up to `n` unit groups of the accepted frond `f`, whose opcode is RMUL. -/
  | rmul (f : FrondRef) (n : Nat)
  /-- LANE_PERMUTE. The engines run up to `n` unit groups of the accepted frond `f`, whose opcode is LANE_PERMUTE. -/
  | lanePermute (f : FrondRef) (n : Nat)
  /-- BROADCAST. The engines run up to `n` unit groups of the accepted frond `f`, whose opcode is BROADCAST. -/
  | broadcast (f : FrondRef) (n : Nat)
  /-- TILE_SHAPE. The engines run up to `n` unit groups of the accepted frond `f`, whose opcode is TILE_SHAPE. -/
  | tileShape (f : FrondRef) (n : Nat)
  /-- TILE_LOAD. The engines run up to `n` unit groups of the accepted frond `f`, whose opcode is TILE_LOAD. -/
  | tileLoad (f : FrondRef) (n : Nat)
  /-- TILE_STORE. The engines run up to `n` unit groups of the accepted frond `f`, whose opcode is TILE_STORE. -/
  | tileStore (f : FrondRef) (n : Nat)
  /-- TILE_SAVE. The engines run up to `n` unit groups of the accepted frond `f`, whose opcode is TILE_SAVE. -/
  | tileSave (f : FrondRef) (n : Nat)
  /-- TILE_RESTORE. The engines run up to `n` unit groups of the accepted frond `f`, whose opcode is TILE_RESTORE. -/
  | tileRestore (f : FrondRef) (n : Nat)
  /-- RSUM. The engines run up to `n` unit groups of the accepted frond `f`, whose opcode is RSUM. -/
  | rsum (f : FrondRef) (n : Nat)
  /-- RMAX. The engines run up to `n` unit groups of the accepted frond `f`, whose opcode is RMAX. -/
  | rmax (f : FrondRef) (n : Nat)
  /-- RMIN. The engines run up to `n` unit groups of the accepted frond `f`, whose opcode is RMIN. -/
  | rmin (f : FrondRef) (n : Nat)
  /-- RARGMAX. The engines run up to `n` unit groups of the accepted frond `f`, whose opcode is RARGMAX. -/
  | rargmax (f : FrondRef) (n : Nat)
  /-- MOMENTS. The engines run up to `n` unit groups of the accepted frond `f`, whose opcode is MOMENTS. -/
  | moments (f : FrondRef) (n : Nat)
  /-- LAYERNORM. The engines run up to `n` unit groups of the accepted frond `f`, whose opcode is LAYERNORM. -/
  | layernorm (f : FrondRef) (n : Nat)
  /-- RMSNORM. The engines run up to `n` unit groups of the accepted frond `f`, whose opcode is RMSNORM. -/
  | rmsnorm (f : FrondRef) (n : Nat)
  /-- FUNC. The engines run up to `n` unit groups of the accepted frond `f`, whose opcode is FUNC. -/
  | func (f : FrondRef) (n : Nat)
  /-- SOFTMAX_STEP. The engines run up to `n` unit groups of the accepted frond `f`, whose opcode is SOFTMAX_STEP. -/
  | softmaxStep (f : FrondRef) (n : Nat)
  /-- SOFTMAX_CORRECT. The engines run up to `n` unit groups of the accepted frond `f`, whose opcode is SOFTMAX_CORRECT. -/
  | softmaxCorrect (f : FrondRef) (n : Nat)
  /-- CONVERT. The engines run up to `n` unit groups of the accepted frond `f`, whose opcode is CONVERT. -/
  | convert (f : FrondRef) (n : Nat)
  /-- PACK_INT4. The engines run up to `n` unit groups of the accepted frond `f`, whose opcode is PACK_INT4. -/
  | packInt4 (f : FrondRef) (n : Nat)
  /-- UNPACK_INT4. The engines run up to `n` unit groups of the accepted frond `f`, whose opcode is UNPACK_INT4. -/
  | unpackInt4 (f : FrondRef) (n : Nat)
  /-- FIX_TO_RES. The engines run up to `n` unit groups of the accepted frond `f`, whose opcode is FIX_TO_RES. -/
  | fixToRes (f : FrondRef) (n : Nat)
  /-- RES_TO_FIX. The engines run up to `n` unit groups of the accepted frond `f`, whose opcode is RES_TO_FIX. -/
  | resToFix (f : FrondRef) (n : Nat)
  /-- GATHER. The engines run up to `n` unit groups of the accepted frond `f`, whose opcode is GATHER. -/
  | gather (f : FrondRef) (n : Nat)
  /-- SCATTER. The engines run up to `n` unit groups of the accepted frond `f`, whose opcode is SCATTER. -/
  | scatter (f : FrondRef) (n : Nat)
  /-- SCATTER_ADD. The engines run up to `n` unit groups of the accepted frond `f`, whose opcode is SCATTER_ADD. -/
  | scatterAdd (f : FrondRef) (n : Nat)
  /-- NTT. The engines run up to `n` unit groups of the accepted frond `f`, whose opcode is NTT. -/
  | ntt (f : FrondRef) (n : Nat)
  /-- INTT. The engines run up to `n` unit groups of the accepted frond `f`, whose opcode is INTT. -/
  | intt (f : FrondRef) (n : Nat)
  /-- PADD. The engines run up to `n` unit groups of the accepted frond `f`, whose opcode is PADD. -/
  | padd (f : FrondRef) (n : Nat)
  /-- PSUB. The engines run up to `n` unit groups of the accepted frond `f`, whose opcode is PSUB. -/
  | psub (f : FrondRef) (n : Nat)
  /-- PMUL. The engines run up to `n` unit groups of the accepted frond `f`, whose opcode is PMUL. -/
  | pmul (f : FrondRef) (n : Nat)
  /-- PMUL_PLAIN. The engines run up to `n` unit groups of the accepted frond `f`, whose opcode is PMUL_PLAIN. -/
  | pmulPlain (f : FrondRef) (n : Nat)
  /-- PNEG. The engines run up to `n` unit groups of the accepted frond `f`, whose opcode is PNEG. -/
  | pneg (f : FrondRef) (n : Nat)
  /-- TENSOR. The engines run up to `n` unit groups of the accepted frond `f`, whose opcode is TENSOR. -/
  | tensor (f : FrondRef) (n : Nat)
  /-- RESCALE. The engines run up to `n` unit groups of the accepted frond `f`, whose opcode is RESCALE. -/
  | rescale (f : FrondRef) (n : Nat)
  /-- MODRAISE. The engines run up to `n` unit groups of the accepted frond `f`, whose opcode is MODRAISE. -/
  | modraise (f : FrondRef) (n : Nat)
  /-- BASECONV_P. The engines run up to `n` unit groups of the accepted frond `f`, whose opcode is BASECONV_P. -/
  | baseconvP (f : FrondRef) (n : Nat)
  /-- MODDROP. The engines run up to `n` unit groups of the accepted frond `f`, whose opcode is MODDROP. -/
  | moddrop (f : FrondRef) (n : Nat)
  /-- KEYSWITCH. The engines run up to `n` unit groups of the accepted frond `f`, whose opcode is KEYSWITCH. -/
  | keyswitch (f : FrondRef) (n : Nat)
  /-- RELIN. The engines run up to `n` unit groups of the accepted frond `f`, whose opcode is RELIN. -/
  | relin (f : FrondRef) (n : Nat)
  /-- ROTATE. The engines run up to `n` unit groups of the accepted frond `f`, whose opcode is ROTATE. -/
  | rotate (f : FrondRef) (n : Nat)
  /-- CONJ. The engines run up to `n` unit groups of the accepted frond `f`, whose opcode is CONJ. -/
  | conj (f : FrondRef) (n : Nat)
  /-- HOIST_DECOMP. The engines run up to `n` unit groups of the accepted frond `f`, whose opcode is HOIST_DECOMP. -/
  | hoistDecomp (f : FrondRef) (n : Nat)
  /-- HOIST_ROTATE. The engines run up to `n` unit groups of the accepted frond `f`, whose opcode is HOIST_ROTATE. -/
  | hoistRotate (f : FrondRef) (n : Nat)
  /-- AUTOMORPH. The engines run up to `n` unit groups of the accepted frond `f`, whose opcode is AUTOMORPH. -/
  | automorph (f : FrondRef) (n : Nat)
  /-- SAMPLE_EXTRACT. The engines run up to `n` unit groups of the accepted frond `f`, whose opcode is SAMPLE_EXTRACT. -/
  | sampleExtract (f : FrondRef) (n : Nat)
  /-- LWE_KEYSWITCH. The engines run up to `n` unit groups of the accepted frond `f`, whose opcode is LWE_KEYSWITCH. -/
  | lweKeyswitch (f : FrondRef) (n : Nat)
  /-- BLIND_ROTATE. The engines run up to `n` unit groups of the accepted frond `f`, whose opcode is BLIND_ROTATE. -/
  | blindRotate (f : FrondRef) (n : Nat)
  /-- REPACK. The engines run up to `n` unit groups of the accepted frond `f`, whose opcode is REPACK. -/
  | repack (f : FrondRef) (n : Nat)
  /-- MASKED_EXPORT. The engines run up to `n` unit groups of the accepted frond `f`, whose opcode is MASKED_EXPORT. -/
  | maskedExport (f : FrondRef) (n : Nat)
  /-- MASKED_IMPORT. The engines run up to `n` unit groups of the accepted frond `f`, whose opcode is MASKED_IMPORT. -/
  | maskedImport (f : FrondRef) (n : Nat)
  /-- SHARE_SPLIT. The engines run up to `n` unit groups of the accepted frond `f`, whose opcode is SHARE_SPLIT. -/
  | shareSplit (f : FrondRef) (n : Nat)
  /-- BEAVER_MUL. The engines run up to `n` unit groups of the accepted frond `f`, whose opcode is BEAVER_MUL. -/
  | beaverMul (f : FrondRef) (n : Nat)
  /-- SHARE_OPEN. The engines run up to `n` unit groups of the accepted frond `f`, whose opcode is SHARE_OPEN. -/
  | shareOpen (f : FrondRef) (n : Nat)
  /-- RAND_ERROR. The engines run up to `n` unit groups of the accepted frond `f`, whose opcode is RAND_ERROR. -/
  | randError (f : FrondRef) (n : Nat)
  /-- RAND_UNIFORM. The engines run up to `n` unit groups of the accepted frond `f`, whose opcode is RAND_UNIFORM. -/
  | randUniform (f : FrondRef) (n : Nat)
  /-- FLOOD. The engines run up to `n` unit groups of the accepted frond `f`, whose opcode is FLOOD. -/
  | flood (f : FrondRef) (n : Nat)
  /-- MASK. The engines run up to `n` unit groups of the accepted frond `f`, whose opcode is MASK. -/
  | mask (f : FrondRef) (n : Nat)
  /-- SEND. The engines run up to `n` unit groups of the accepted frond `f`, whose opcode is SEND. -/
  | send (f : FrondRef) (n : Nat)
  /-- RECV. The engines run up to `n` unit groups of the accepted frond `f`, whose opcode is RECV. -/
  | recv (f : FrondRef) (n : Nat)
  /-- REDUCE_SCATTER. The engines run up to `n` unit groups of the accepted frond `f`, whose opcode is REDUCE_SCATTER. -/
  | reduceScatter (f : FrondRef) (n : Nat)
  /-- ALL_GATHER. The engines run up to `n` unit groups of the accepted frond `f`, whose opcode is ALL_GATHER. -/
  | allGather (f : FrondRef) (n : Nat)
  /-- ALL_REDUCE. The engines run up to `n` unit groups of the accepted frond `f`, whose opcode is ALL_REDUCE. -/
  | allReduce (f : FrondRef) (n : Nat)
  /-- BCAST. The engines run up to `n` unit groups of the accepted frond `f`, whose opcode is BCAST. -/
  | bcast (f : FrondRef) (n : Nat)
  /-- TEE_ARM. The engines run up to `n` unit groups of the accepted frond `f`, whose opcode is TEE_ARM. -/
  | teeArm (f : FrondRef) (n : Nat)
  /-- TEE_APPLY. The engines run up to `n` unit groups of the accepted frond `f`, whose opcode is TEE_APPLY. -/
  | teeApply (f : FrondRef) (n : Nat)
  /-- EPOCH_SNAPSHOT. The engines run up to `n` unit groups of the accepted frond `f`, whose opcode is EPOCH_SNAPSHOT. -/
  | epochSnapshot (f : FrondRef) (n : Nat)
  /-- EPOCH_RESTORE. The engines run up to `n` unit groups of the accepted frond `f`, whose opcode is EPOCH_RESTORE. -/
  | epochRestore (f : FrondRef) (n : Nat)
  /-- GEMMA_FILL. The engines run up to `n` unit groups of the accepted frond `f`, whose opcode is GEMMA_FILL. -/
  | gemmaFill (f : FrondRef) (n : Nat)
  /-- STANDIN_MARK_COMMIT. The engines run up to `n` unit groups of the accepted frond `f`, whose opcode is STANDIN_MARK_COMMIT. -/
  | standinMarkCommit (f : FrondRef) (n : Nat)
  /-- STANDIN_MARK_BOUNDARY. The engines run up to `n` unit groups of the accepted frond `f`, whose opcode is STANDIN_MARK_BOUNDARY. -/
  | standinMarkBoundary (f : FrondRef) (n : Nat)
  /-- SELFTEST. The engines run up to `n` unit groups of the accepted frond `f`, whose opcode is SELFTEST. -/
  | selftest (f : FrondRef) (n : Nat) (fails : List CellSel)
  /-- SCRUB_RANGE. The engines run up to `n` unit groups of the accepted frond `f`, whose opcode is SCRUB_RANGE. -/
  | scrubRange (f : FrondRef) (n : Nat)
  /-- LOG_MARK. The engines run up to `n` unit groups of the accepted frond `f`, whose opcode is LOG_MARK. -/
  | logMark (f : FrondRef) (n : Nat)
deriving DecidableEq, Repr

end Sys2Proof
end

