-- ==== Sys2Proof/Decode.lean ====
section
/-! DEFINITION. The command that a word spells by the opcode table's bits. No row of the table gives bits: the commands
of this block arrive as register accesses, packets and events with operands, and no word spells one. -/

namespace Sys2Proof

/-- The command that `w` spells in `nbits` bits: none, since no row of the opcode table has bits. -/
def decodeTableWord (_nbits _w : Nat) : Option Instr := none

end Sys2Proof
end

