-- ==== Sys2Proof/Config.lean ====
section
/-! DEFINITION. What the manual fixes without printing it, and what it leaves open: constants without a body,
so that nothing in Lean can evaluate them or prove a value of them. Each is named in a row of the assumption log. -/

namespace Sys2Proof.Config
open Sys2Proof

/-- A value the manual leaves open, one for every reading of the model's own counter `State.freeCtr`. -/
opaque freeValue : Nat → Nat

/-- Byte `j` of ROOT_HASH, in mask ROM (R457): fixed in silicon, not printed in the manual. -/
opaque rootHash : Nat → BitVec 8

/-- Function table FT1 (R351), in mask ROM, not printed in the manual: coefficient number `i` of table `t`,
segment `s`, as the raw bits the ROM holds. -/
opaque ft1 : Nat → Nat → Nat → Nat

/-- Whether the PUF helper page in flash is well formed (R463): the manual does not print its layout. -/
opaque pufHelperOk : List (BitVec 8) → Bool

/-- puf_reconstruct (R463): the key material that the PUF response yields with a helper page. -/
opaque pufKey : List (BitVec 8) → List (BitVec 8)

/-- The 16-byte check value that a helper page holds (R463), at a place the manual does not give. -/
opaque pufCheck : List (BitVec 8) → List (BitVec 8)

/-- The number of PUF response bits corrected at a start (R463, KEYS.ID_STAT.CORRECTED). -/
opaque pufCorrected : List (BitVec 8) → Nat

/-- Byte `j` that the conditioned entropy source delivers (R301); the argument counts the bytes delivered so far. -/
opaque entropyByte : Nat → BitVec 8

/-- The bytes over which TDIGEST is taken (R399): how the BASE, SIZE and CLASS of a table's entries, in index order, are
laid out as bytes, which the manual does not say. -/
opaque tableBytes : List (Nat × Nat × Nat) → List (BitVec 8)

end Sys2Proof.Config
end

