-- ==== Sys2Proof/Machine/Bits.lean ====
section
/-! DEFINITION. Bit fields, byte order, counted loops and the sparse maps in canonical form that hold
registers, memory, tiles and flash. -/

namespace Sys2Proof.Machine
open Sys2Proof

/-- Bits `lo + n - 1 : lo` of a number. -/
def nfld (x lo n : Nat) : Nat := (x >>> lo) % 2 ^ n

/-- Bit `i` of a number. -/
def nbit (x i : Nat) : Bool := (x >>> i) % 2 == 1

/-- A Bool as the number 0 or 1. -/
def b2n (b : Bool) : Nat := if b then 1 else 0

/-- Bits `lo + n - 1 : lo` of a register word, as a number. -/
def fld (w : Word) (lo n : Nat) : Nat := nfld w.toNat lo n

/-- Bit `i` of a register word. -/
def bitOf (w : Word) (i : Nat) : Bool := w.getLsbD i

/-- The word with ones in bits `lo + n - 1 : lo`. -/
def fmask (lo n : Nat) : Word := BitVec.ofNat 64 ((2 ^ n - 1) <<< lo)

/-- A register word with bits `lo + n - 1 : lo` replaced by the low `n` bits of `v`. -/
def putFld (w : Word) (lo n v : Nat) : Word :=
  (w &&& ~~~ fmask lo n) ||| BitVec.ofNat 64 ((v % 2 ^ n) <<< lo)

/-- A register word with one bit replaced. -/
def putBit (w : Word) (i : Nat) (b : Bool) : Word := putFld w i 1 (b2n b)

/-- Division rounded up; a divisor of 0 gives 0. -/
def ceilDiv (a b : Nat) : Nat := (a + b - 1) / b

/-- Addition that stops at the largest `n`-bit value. -/
def satAdd (n a b : Nat) : Nat := min (2 ^ n - 1) (a + b)

/-- The two's complement value of the low `n` bits of `x`. -/
def sext (n x : Nat) : Int :=
  if nbit x (n - 1) then (Int.ofNat (x % 2 ^ n)) - 2 ^ n else Int.ofNat (x % 2 ^ n)

/-- The `n`-bit two's complement pattern of an integer. -/
def wrapInt (n : Nat) (v : Int) : Nat := (v % (2 ^ n : Int)).toNat

/-- How far a free-running 32-bit count `b` is past `a`. -/
def countGap (a b : Nat) : Nat := (b + 2 ^ 32 - a % 2 ^ 32) % 2 ^ 32

/-- The difference of two free-running 32-bit counts as a signed 32-bit value (R77). -/
def countDiff (a b : Nat) : Int := sext 32 (countGap b a)

/-- A free-running 32-bit count advanced by `k`. -/
def countAdd (a k : Nat) : Nat := (a + k) % 2 ^ 32

/-- The number that bytes spell, least significant byte first (R7). -/
def leNat : List Byte → Nat
  | [] => 0
  | b :: t => b.toNat + 256 * leNat t

/-- The `n` bytes of a number, least significant first (R7). -/
def leBytes : Nat → Nat → List Byte
  | 0, _ => []
  | n + 1, v => BitVec.ofNat 8 v :: leBytes n (v / 256)

/-- `f` applied for `i = lo, lo + 1, …, lo + n - 1` in turn. -/
def forRange {α : Type} (lo : Nat) : Nat → (Nat → α → α) → α → α
  | 0, _, a => a
  | n + 1, f, a => forRange (lo + 1) n f (f lo a)

/-- As `forRange`, ending before the first turn on which `stop` holds. -/
def forWhile {α : Type} (stop : α → Bool) (lo : Nat) : Nat → (Nat → α → α) → α → α
  | 0, _, a => a
  | n + 1, f, a => if stop a then a else forWhile stop (lo + 1) n f (f lo a)

/-- The sum of `f i` for `i = lo … lo + n - 1`. -/
def sumRange (lo n : Nat) (f : Nat → Nat) : Nat := forRange lo n (fun i a => a + f i) 0

/-- `base ^ e mod m` by repeated squaring; the first argument bounds the bits of `e` examined. -/
def powMod : Nat → Nat → Nat → Nat → Nat
  | 0, _, _, m => 1 % m
  | k + 1, b, e, m =>
    let h := powMod k (b * b % m) (e / 2) m
    if e % 2 = 1 then b * h % m else h

/-- The binary logarithm rounded down; 0 for 0. The first argument bounds the result. -/
def log2Floor : Nat → Nat → Nat
  | 0, _ => 0
  | k + 1, x => if x < 2 then 0 else 1 + log2Floor k (x / 2)

/-! ### Sparse maps in canonical form -/

/-- The value of key `k`: the listed one, and otherwise what an unlisted key reads as. -/
def mget {β : Type} (d : Nat → β) : List (Nat × β) → Nat → β
  | [], k => d k
  | (a, v) :: t, k => if k = a then v else if k < a then d k else mget d t k

/-- The map with key `k` set to `v`; setting what an unlisted key reads as removes the entry. -/
def mset {β : Type} [DecidableEq β] (d : Nat → β) : List (Nat × β) → Nat → β → List (Nat × β)
  | [], k, v => if v = d k then [] else [(k, v)]
  | (a, w) :: t, k, v =>
    if k < a then (if v = d k then (a, w) :: t else (k, v) :: (a, w) :: t)
    else if k = a then (if v = d k then t else (k, v) :: t)
    else (a, w) :: mset d t k v

/-- Every listed key is at least `lo`, keys rise strictly, and no entry equals what an unlisted key reads as. -/
def mwfFrom {β : Type} [DecidableEq β] (d : Nat → β) : Nat → List (Nat × β) → Bool
  | _, [] => true
  | lo, (a, v) :: t => decide (lo ≤ a) && decide (v ≠ d a) && mwfFrom d (a + 1) t

/-- The canonical form of a sparse map. -/
def mwf {β : Type} [DecidableEq β] (d : Nat → β) (m : List (Nat × β)) : Bool := mwfFrom d 0 m

/-- Membership of a set of numbers kept in rising order. -/
def smem : List Nat → Nat → Bool
  | [], _ => false
  | a :: t, k => if k = a then true else if k < a then false else smem t k

/-- A set of numbers in rising order with `k` put in. -/
def sins : List Nat → Nat → List Nat
  | [], k => [k]
  | a :: t, k => if k < a then k :: a :: t else if k = a then a :: t else a :: sins t k

/-- A set of numbers in rising order with `k` taken out. -/
def sdel : List Nat → Nat → List Nat
  | [], _ => []
  | a :: t, k => if k < a then a :: t else if k = a then t else a :: sdel t k

/-- A set of numbers holds each number at most once, in rising order from `lo` on. -/
def swfFrom : Nat → List Nat → Bool
  | _, [] => true
  | lo, a :: t => decide (lo ≤ a) && swfFrom (a + 1) t

/-- The canonical form of a set of numbers. -/
def swf (m : List Nat) : Bool := swfFrom 0 m

end Sys2Proof.Machine
end

