-- ==== Sys2Proof/Machine/RegMap.lean ====
section
/-! DEFINITION. The register space (R33, R34): the blocks, one row per register of every chapter's register
tables, with the writable, write-one-to-clear and write-one-to-set bits and the reset value of each.
A register is named by its byte offset from 0x90_0000_0000. -/

namespace Sys2Proof.Machine
open Sys2Proof

/-- The register blocks and region sub-blocks of R33 and R34. -/
inductive Blk where
  | sys | beat | log | maint | fail | pke | keys | mgmt | nvcfg
  | link (n : Nat)
  | pcie (n : Nat)
  | tow (n : Nat)
  | seq (r : Nat)
  | mat (r : Nat)
  | strm (r : Nat)
  | cpy (r : Nat)
  | peri (r : Nat)
  | mb (r m : Nat)
  | vb (r v : Nat)
  | pb (r p : Nat)
  /-- An offset inside a region block's 2 MiB that lies in no sub-block of R34. -/
  | hole
deriving DecidableEq, Repr

/-- The offset of a block's first register (R33, R34). -/
def blkBase : Blk → Nat
  | .sys => 0x0 | .beat => 0x10000 | .log => 0x20000 | .maint => 0x30000 | .fail => 0x40000
  | .pke => 0x50000 | .keys => 0x60000 | .mgmt => 0x70000 | .nvcfg => 0x80000
  | .link n => 0x100000 + n * 0x10000
  | .pcie n => 0x200000 + n * 0x10000
  | .tow n => 0x300000 + n * 0x10000
  | .seq r => 0x1000000 + r * 0x200000
  | .mat r => 0x1010000 + r * 0x200000
  | .strm r => 0x1020000 + r * 0x200000
  | .cpy r => 0x1030000 + r * 0x200000
  | .peri r => 0x1040000 + r * 0x200000
  | .mb r m => 0x1080000 + r * 0x200000 + m * 0x10000
  | .vb r v => 0x1100000 + r * 0x200000 + v * 0x10000
  | .pb r p => 0x1180000 + r * 0x200000 + p * 0x10000
  | .hole => 0

/-- The sub-block of a region that the 64 KiB page `k` of its block holds (R34). -/
def subBlk (r k : Nat) : Blk :=
  if k = 0 then .seq r else if k = 1 then .mat r else if k = 2 then .strm r
  else if k = 3 then .cpy r else if k = 4 then .peri r
  else if 8 ≤ k ∧ k < 14 then .mb r (k - 8)
  else if 16 ≤ k ∧ k < 20 then .vb r (k - 16)
  else if 24 ≤ k ∧ k < 28 then .pb r (k - 24)
  else .hole

/-- The block whose extent holds a register offset; nothing for an offset in no block's extent, which is an
unmapped address (R32, R33). -/
def blkOf (o : Nat) : Option Blk :=
  let k := o / 0x10000
  if k < 9 then
    [Blk.sys, .beat, .log, .maint, .fail, .pke, .keys, .mgmt, .nvcfg][k]?
  else if 0x10 ≤ k ∧ k < 0x20 then some (.link (k - 0x10))
  else if 0x20 ≤ k ∧ k < 0x22 then some (.pcie (k - 0x20))
  else if 0x30 ≤ k ∧ k < 0x38 then some (.tow (k - 0x30))
  else if 0x100 ≤ k ∧ k < 0x200 then some (subBlk ((k - 0x100) / 32) ((k - 0x100) % 32))
  else none

/-- One row of a register table: `count` registers from `off` at `step` bytes, with the bits a write sets (RW),
clears with 1 (W1C) and sets with 1 (W1S), and the reset value of each. Bits in none of the three are RO, or WO,
which holds nothing and reads 0. -/
structure RegRow where
  off : Nat
  count : Nat
  step : Nat
  rw : Nat
  w1c : Nat
  w1s : Nat
  reset : Nat → Nat

/-- A row of one register. -/
def row1 (off rw w1c w1s reset : Nat) : RegRow := ⟨off, 1, 8, rw, w1c, w1s, fun _ => reset⟩

/-- A row of `count` registers. -/
def rowN (off count step rw reset : Nat) : RegRow := ⟨off, count, step, rw, 0, 0, fun _ => reset⟩

/-- CELLMAP at reset, before the device record is applied (DESIGN CHOICE, log entry 5): site 8 disabled. -/
def cellmapReset : Nat := 0x876543210

/-- BANKMAP`k` at reset, before the device record is applied (DESIGN CHOICE, log entry 5): bank b at site b. -/
def bankmapReset (k : Nat) : Nat :=
  forRange 0 8 (fun j a => a + ((8 * k + j) <<< (7 * j))) 0

def m16 : Nat := 0xFFFF
def m32 : Nat := 0xFFFFFFFF
def m64 : Nat := 0xFFFFFFFFFFFFFFFF
/-- Bits 39:12, a 4 KiB-aligned 40-bit address. -/
def mPage : Nat := 0xFFFFFFF000

/-- Eight bytes of ROOT_HASH as the register PKE.ROOT_HASHj shows them (R475). -/
def rootHashWord (j : Nat) : Nat :=
  leNat [Config.rootHash (8 * j), Config.rootHash (8 * j + 1), Config.rootHash (8 * j + 2), Config.rootHash (8 * j + 3),
    Config.rootHash (8 * j + 4), Config.rootHash (8 * j + 5), Config.rootHash (8 * j + 6), Config.rootHash (8 * j + 7)]

/-- SYS (R37, R38, R59–R65's tables, R100, R305, R369, R515). -/
def rowsSys : List RegRow :=
  [ row1 0x0000 0 0 0 0x0210_0808_0101_0384,
    row1 0x0008 0x3F 0 (2 ^ 63) 0,
    row1 0x0010 0xFFFF003F 0 0 (6 + 100 <<< 16),
    row1 0x0018 m16 0 0 1500,
    row1 0x0020 0 0 0 (0x01 + 0x9C417E2B <<< 8),
    row1 0x0028 0 0 0 0,
    row1 0x0030 0 0 0 0,
    rowN 0x2000 1024 8 m16 0,
    row1 0x4000 0 0 0 0,
    row1 0x4008 0 8 0 0,
    rowN 0x4010 4 8 0 0,
    rowN 0x4100 9 8 0 0 ]

/-- BEAT (R39–R65's register tables). -/
def rowsBeat : List RegRow :=
  [ row1 0x0000 0 0 0 0,
    row1 0x0008 7 0 0 0,
    row1 0x0010 0 0xC0 0 8,
    row1 0x0018 m32 0 0 2500,
    row1 0x0020 0 0 0 (350 + 16 <<< 16 + 2 <<< 32 + 32 <<< 36),
    row1 0x0028 0 0 0 0,
    row1 0x0030 0 0 0 0,
    rowN 0x0040 6 8 0 0 ]

/-- LOG (R454). -/
def rowsLog : List RegRow :=
  [ row1 0x0000 0x3FFFF 0 0 (0x90 + 1 <<< 17),
    row1 0x0008 0 0 0 0,
    row1 0x0010 m32 0 0 0,
    rowN 0x0018 2 8 0 0,
    row1 0x0028 m32 0 0 0,
    rowN 0x0030 4 8 0 0,
    row1 0x0050 mPage 0 0 0,
    row1 0x0058 0xFFFF001F 0 0 (10 + 1024 <<< 16),
    row1 0x0060 0 0 0 0,
    row1 0x0068 m32 0 0 0,
    row1 0x0070 0 m16 0 0 ]

/-- MAINT (R455). -/
def rowsMaint : List RegRow :=
  [ row1 0x0000 0 0 0 0,
    row1 0x0008 0 0 0 0,
    row1 0x0010 0x1FFFF 0 0 (24 + 1 <<< 16),
    row1 0x0018 m16 0 0 60,
    row1 0x0020 0xFFFF0F01 0 0 (3 <<< 8 + 10 <<< 16),
    rowN 0x0100 8 8 0 0 ]

/-- FAIL (R426). -/
def rowsFail : List RegRow :=
  [ row1 0x0000 7 0 (2 ^ 63) 0,
    row1 0x0008 0 0 0 0,
    row1 0x0010 0x1FFFFFFFF 0 0 0,
    row1 0x0018 0xFFFFFFF0 0 0 0,
    row1 0x0020 m64 0 0 (2 ^ 30),
    row1 0x0028 m16 0 0 3277,
    row1 0x0030 m32 0 0 0,
    row1 0x0038 m64 0 0 0,
    row1 0x0040 m16 0 0 1,
    rowN 0x0048 7 8 0 0,
    rowN 0x0100 8 8 (2 ^ 42 - 1) 0,
    rowN 0x0200 64 8 (2 ^ 40 + m32) 0,
    rowN 0x1000 256 32 mPage 0,
    rowN 0x1008 256 32 (2 ^ 30 - 1) 0,
    rowN 0x1010 256 32 mPage 0,
    rowN 0x1018 256 32 mPage 0,
    rowN 0x3000 256 32 mPage 0,
    rowN 0x3008 256 32 (2 ^ 30 - 1) 0,
    rowN 0x3010 256 32 mPage 0 ]

/-- PKE (R475). -/
def rowsPke : List RegRow :=
  [ row1 0x0000 0x3F3F03F0 0 0 0,
    rowN 0x0008 6 8 m64 0,
    row1 0x0040 0 2 0 0,
    row1 0x0048 0 0 0 0,
    rowN 0x0050 3 8 0 0,
    ⟨0x0100, 4, 8, 0, 0, 0, rootHashWord⟩ ]

/-- KEYS (R475). -/
def rowsKeys : List RegRow :=
  [ ⟨0x0000, 64, 8, 0, 0, 0, fun k => if k < 2 then 0x10 else 0⟩,
    row1 0x0200 0 0 0 0,
    row1 0x0208 0 0 0 0 ]

/-- MGMT (R496). -/
def rowsMgmt : List RegRow :=
  [ row1 0x0000 0 0 0 1,
    row1 0x0008 m32 0 0 (10 + 30 <<< 16),
    row1 0x0010 (m16 <<< 16) 0 0 (100 <<< 16),
    rowN 0x0100 16 8 0 0,
    rowN 0x0200 3 0x80 0 0,
    rowN 0x0208 8 8 m64 0, rowN 0x0288 8 8 m64 0, rowN 0x0308 8 8 m64 0 ]

/-- NVCFG (R496). -/
def rowsNvcfg : List RegRow :=
  [ row1 0x0000 0x1FF000E 0 0 0,
    row1 0x0008 m32 0 0 0,
    row1 0x0010 0 2 0 0,
    rowN 0x0100 32 8 m64 0 ]

/-- LINKn (R396); the module-wide registers from 0x8000 exist in LINK0 alone. -/
def rowsLink (n : Nat) : List RegRow :=
  [ row1 0x0000 1 0 0 1,
    row1 0x0008 0 8 0 0,
    rowN 0x0010 7 8 0 0 ] ++
  (if n = 0 then
    [ row1 0x8000 m32 0 (2 ^ 63) 0,
      row1 0x8008 0x7FFFF 0 (2 ^ 63) (1 + 1 <<< 5 + 1 <<< 10 + 1 <<< 14),
      row1 0x8010 m32 0 0 1250000,
      row1 0x8018 0 0 0 0,
      rowN 0x8100 256 16 m64 0,
      rowN 0x8108 256 16 3 0,
      rowN 0x9100 64 16 (0x1FFFF + m32 <<< 32) 0,
      rowN 0x9108 64 16 0x3FFFF (1 + 1 <<< 5 + 1 <<< 10 + 1 <<< 14) ]
   else [])

/-- PCIEn (R496). -/
def rowsPcie : List RegRow :=
  [ row1 0x0000 0 0 0 0,
    row1 0x0008 (m64 - 0xFFF) 0 0 0,
    row1 0x0010 0xFFFFFFFFFF 0 0 0,
    row1 0x0018 m32 0 0 0x4A817C80,
    rowN 0x0020 4 8 0 0,
    row1 0x0040 0 0xFFFFFFFFFF 0 0,
    ⟨0x0100, 40, 8, 0x11F, 0, 0, fun s => s % 32⟩ ]

/-- TOWn (R179, R272). -/
def rowsTow : List RegRow :=
  [ row1 0x0000 1 0 0 0,
    row1 0x0008 0 8 0 0,
    row1 0x0010 3 0 0 (4864 <<< 16),
    rowN 0x0018 5 8 0 0,
    row1 0x0040 0 (2 ^ 33) 0 0,
    row1 0x0048 0xFFFFFF 0 0 0,
    row1 0x0050 6 16 0 6,
    row1 0x0058 0 0 0 0,
    row1 0x00F0 0 0 0 0,
    row1 0x00F8 0 0 0 cellmapReset,
    rowN 0x0100 64 8 0 0,
    rowN 0x0800 4 8 0 0,
    rowN 0x1000 3 8 0 0,
    row1 0x10F8 0 0 0 cellmapReset ]

/-- SEQ (R100). -/
def rowsSeq : List RegRow :=
  [ rowN 0x0000 4 8 7 0,
    rowN 0x0020 4 8 mPage 0,
    rowN 0x0040 4 8 m32 0,
    rowN 0x0060 4 8 0 0,
    rowN 0x0080 4 8 mPage 0,
    rowN 0x00A0 4 8 0x1F 6,
    rowN 0x00C0 4 8 0 0,
    rowN 0x00E0 4 8 m32 0,
    row1 0x0100 0 0 0 0,
    row1 0x0108 0 0 0 0,
    row1 0x0110 0 0xF0 0 0,
    row1 0x0118 m16 0 0 0x0A00,
    row1 0x0120 0 0 0 0,
    rowN 0x0140 4 8 0 0,
    rowN 0x0400 128 8 mPage 0,
    rowN 0x0800 256 8 m16 0 ]

/-- MAT (R147–R162's register tables). -/
def rowsMat : List RegRow :=
  [ row1 0x0000 1 0 0 0,
    row1 0x0008 m32 0 0 1250000,
    rowN 0x0010 4 8 0 0,
    row1 0x0030 0 (2 ^ 29) 0 0,
    ⟨0x00F8, 8, 8, 0, 0, 0, bankmapReset⟩,
    rowN 0x0200 16 16 (3 + 0x1FFF000 + 0x3FFF <<< 32) 0,
    rowN 0x0208 16 16 0 0,
    rowN 0x0300 4 32 (1 + 0x1FFF000 + 0x3FFF <<< 32) 0,
    rowN 0x0308 4 32 m32 0,
    rowN 0x0310 4 32 m32 0,
    rowN 0x0400 16 8 m64 0 ]

/-- STRM (R202). -/
def rowsStrm : List RegRow :=
  [ ⟨0x0000, 32, 8, 0xFF07, 0, 0, fun c =>
      1 + (if c < 16 then 0 else if c < 24 then 2 else if c < 28 then 4 else 6) + (if c < 28 then 5 else 10) <<< 8⟩,
    rowN 0x0100 32 8 0 0,
    row1 0x0200 0 0 0 (5120 + 2560 <<< 16 + 1280 <<< 32 + 2560 <<< 48),
    row1 0x0208 0 0 0 (6880 + 3144 <<< 16 + 1568 <<< 32 + 3144 <<< 48),
    row1 0x0210 0 0 0 0,
    row1 0x0218 0 0 0 0 ]

/-- CPY (R220). -/
def rowsCpy : List RegRow := [ rowN 0x0000 5 8 0 0 ]

/-- PERI (R271). -/
def rowsPeri : List RegRow :=
  [ rowN 0x0000 4 8 0 0,
    rowN 0x0100 16 32 0 0,
    rowN 0x0108 16 32 mPage 0,
    rowN 0x0110 16 32 0 0,
    rowN 0x0118 16 32 0 0 ]

/-- MBm (R324, R25). -/
def rowsMb : List RegRow := [ rowN 0x0000 5 8 0 0, row1 0x00F8 0 0 0 cellmapReset ]

/-- VBn (R146, R347, R369, R25). -/
def rowsVb : List RegRow :=
  [ rowN 0x0000 7 8 0 0, row1 0x00F8 0 0 0 cellmapReset, rowN 0x0100 3 8 0 0,
    rowN 0x0200 64 8 0 0, rowN 0x0400 64 8 0 0 ]

/-- PBp (R245, R25). -/
def rowsPb : List RegRow :=
  [ rowN 0x0000 3 8 0 0, row1 0x00F8 0 0 0 cellmapReset, row1 0x0100 0 0 0 0, rowN 0x0400 160 8 0 0 ]

/-- The register rows of a block. -/
def blkRows : Blk → List RegRow
  | .sys => rowsSys | .beat => rowsBeat | .log => rowsLog | .maint => rowsMaint | .fail => rowsFail
  | .pke => rowsPke | .keys => rowsKeys | .mgmt => rowsMgmt | .nvcfg => rowsNvcfg
  | .link n => rowsLink n | .pcie _ => rowsPcie | .tow _ => rowsTow
  | .seq _ => rowsSeq | .mat _ => rowsMat | .strm _ => rowsStrm | .cpy _ => rowsCpy | .peri _ => rowsPeri
  | .mb _ _ => rowsMb | .vb _ _ => rowsVb | .pb _ _ => rowsPb | .hole => []

/-- Whether a row holds the register at an offset within its block. -/
def RegRow.holds (r : RegRow) (o : Nat) : Bool :=
  decide (r.off ≤ o) && (o - r.off) % r.step == 0 && decide ((o - r.off) / r.step < r.count)

/-- The row of a register, by its offset from 0x90_0000_0000 (a multiple of 8); nothing for a disabled register
offset (R33). -/
def rowOf (o : Nat) : Option RegRow :=
  match blkOf o with
  | none => none
  | some b => (blkRows b).find? (fun r => r.holds (o - blkBase b))

/-- The reset value of the register at an offset; 0 for an offset that no chapter defines. -/
def regReset (o : Nat) : Word :=
  match blkOf o with
  | none => 0
  | some b =>
    match (blkRows b).find? (fun r => r.holds (o - blkBase b)) with
    | none => 0
    | some r => BitVec.ofNat 64 (r.reset ((o - blkBase b - r.off) / r.step))

/-! ### Register names, as offsets from 0x90_0000_0000 -/

def rSysId : Nat := 0x0
def rMemcfg : Nat := 0x8
def rStretch : Nat := 0x10
def rPwrcap : Nat := 0x18
def rFuncRom : Nat := 0x20
def rTherm : Nat := 0x28
def rStrap : Nat := 0x30
/-- Global token `n` (R100). -/
def rGtok (n : Nat) : Nat := 0x2000 + 8 * n
def rRngCtrl : Nat := 0x4000
def rRngStat : Nat := 0x4008
def rRngRct : Nat := 0x4010
def rRngApt : Nat := 0x4018
def rRngReseed : Nat := 0x4020
def rRngFault : Nat := 0x4028
def rRngInst (n : Nat) : Nat := 0x4100 + 8 * n
def rBeatCount : Nat := 0x10000
def rBeatCtrl : Nat := 0x10008
def rBeatStat : Nat := 0x10010
def rHostAllow : Nat := 0x10018
def rMissCnt : Nat := 0x10028
def rStretchBt : Nat := 0x10030
def rNdCount : Nat := 0x10040
def rNdRoute : Nat := 0x10048
def rNdMutex : Nat := 0x10050
def rNdDrbg : Nat := 0x10058
def rNdRetry : Nat := 0x10060
def rNdPage : Nat := 0x10068
def rLogCtrl : Nat := 0x20000
def rLogHead : Nat := 0x20008
def rLogTail : Nat := 0x20010
def rLogOver : Nat := 0x20018
def rLogDrop : Nat := 0x20020
def rLogRdSel : Nat := 0x20028
def rLogRd (j : Nat) : Nat := 0x20030 + 8 * j
def rDrainBase : Nat := 0x20050
def rDrainCfg : Nat := 0x20058
def rDrainHead : Nat := 0x20060
def rDrainTail : Nat := 0x20068
def rLogIrq : Nat := 0x20070
def rMaintReq : Nat := 0x30000
def rMaintStat : Nat := 0x30008
def rScrubCfg : Nat := 0x30010
def rThermCfg : Nat := 0x30018
def rEscCtrl : Nat := 0x30020
def rScrubPos (t : Nat) : Nat := 0x30100 + 8 * t
def rFailCtrl : Nat := 0x40000
def rFailStat : Nat := 0x40008
def rPartner : Nat := 0x40010
def rFailIds : Nat := 0x40018
def rColdBytes : Nat := 0x40020
def rColdFraction : Nat := 0x40028
def rFailGroups : Nat := 0x40030
def rPgroups : Nat := 0x40038
def rDpN : Nat := 0x40040
def rFailStep : Nat := 0x40048
def rEpoch : Nat := 0x40050
def rStandin : Nat := 0x40058
def rGemma : Nat := 0x40060
def rLossCnt : Nat := 0x40068
def rRedoCnt : Nat := 0x40070
def rDirtyCnt : Nat := 0x40078
def rPimage (r : Nat) : Nat := 0x40100 + 8 * r
def rSpare (i : Nat) : Nat := 0x40200 + 8 * i
def rPtBase (i : Nat) : Nat := 0x41000 + 32 * i
def rPtCfg (i : Nat) : Nat := 0x41008 + 32 * i
def rPtEpoch (i : Nat) : Nat := 0x41010 + 32 * i
def rPtRemote (i : Nat) : Nat := 0x41018 + 32 * i
def rQtBase (i : Nat) : Nat := 0x43000 + 32 * i
def rQtCfg (i : Nat) : Nat := 0x43008 + 32 * i
def rQtLocal (i : Nat) : Nat := 0x43010 + 32 * i
def rPkeCmd : Nat := 0x50000
def rPkeArg (j : Nat) : Nat := 0x50008 + 8 * j
def rPkeStat : Nat := 0x50040
def rPkeTime : Nat := 0x50048
def rPkeOpCnt : Nat := 0x50050
def rPkeRejCnt : Nat := 0x50058
def rPkeInvCnt : Nat := 0x50060
def rKeySlot (k : Nat) : Nat := 0x60000 + 8 * k
def rBootStat : Nat := 0x60200
def rIdStat : Nat := 0x60208
def rBoot : Nat := 0x70000
def rBootCfg : Nat := 0x70008
def rWdt : Nat := 0x70010
def rSem (k : Nat) : Nat := 0x70100 + 8 * k
def rMboxCtl (d : Nat) : Nat := 0x70200 + 0x80 * d
def rMboxD (d j : Nat) : Nat := 0x70208 + 0x80 * d + 8 * j
def rNvCmd : Nat := 0x80000
def rNvAddr : Nat := 0x80008
def rNvStat : Nat := 0x80010
def rNvBuf (j : Nat) : Nat := 0x80100 + 8 * j
def rLinkCtrl (n : Nat) : Nat := 0x100000 + n * 0x10000
def rLinkStat (n : Nat) : Nat := 0x100008 + n * 0x10000
def rLinkPeer (n : Nat) : Nat := 0x100010 + n * 0x10000
def rLinkLat (n : Nat) : Nat := 0x100018 + n * 0x10000
def rLinkFecCe (n : Nat) : Nat := 0x100020 + n * 0x10000
def rLinkFecUe (n : Nat) : Nat := 0x100028 + n * 0x10000
def rLinkCrc (n : Nat) : Nat := 0x100030 + n * 0x10000
def rLinkTx (n : Nat) : Nat := 0x100038 + n * 0x10000
def rLinkRx (n : Nat) : Nat := 0x100040 + n * 0x10000
def rCoord : Nat := 0x108000
def rTorus : Nat := 0x108008
def rRecvWd : Nat := 0x108010
def rDiscard : Nat := 0x108018
def rAliasL (i : Nat) : Nat := 0x108100 + 16 * i
def rAliasF (i : Nat) : Nat := 0x108108 + 16 * i
def rGroupA (g : Nat) : Nat := 0x109100 + 16 * g
def rGroupB (g : Nat) : Nat := 0x109108 + 16 * g
def rPcieStat (n : Nat) : Nat := 0x200000 + n * 0x10000
def rHwin (n : Nat) : Nat := 0x200008 + n * 0x10000
def rMwin (n : Nat) : Nat := 0x200010 + n * 0x10000
def rPriCfg (n : Nat) : Nat := 0x200018 + n * 0x10000
def rPageReq (n : Nat) : Nat := 0x200020 + n * 0x10000
def rPageDeny (n : Nat) : Nat := 0x200028 + n * 0x10000
def rCplErr (n : Nat) : Nat := 0x200030 + n * 0x10000
def rAtcMiss (n : Nat) : Nat := 0x200038 + n * 0x10000
def rIrqPend (n : Nat) : Nat := 0x200040 + n * 0x10000
def rIrqRoute (n s : Nat) : Nat := 0x200100 + n * 0x10000 + 8 * s
/-- Register `o` of tower `t`'s block (R179, R272). -/
def rTow (t o : Nat) : Nat := 0x300000 + t * 0x10000 + o
/-- Register `o` of region `r`'s sequencer (R100). -/
def rSeq (r o : Nat) : Nat := 0x1000000 + r * 0x200000 + o
def rQctrl (r q : Nat) : Nat := rSeq r (8 * q)
def rQbase (r q : Nat) : Nat := rSeq r (0x20 + 8 * q)
def rQtail (r q : Nat) : Nat := rSeq r (0x40 + 8 * q)
def rQhead (r q : Nat) : Nat := rSeq r (0x60 + 8 * q)
def rCrbase (r q : Nat) : Nat := rSeq r (0x80 + 8 * q)
def rCrcfg (r q : Nat) : Nat := rSeq r (0xA0 + 8 * q)
def rCrhead (r q : Nat) : Nat := rSeq r (0xC0 + 8 * q)
def rCrtail (r q : Nat) : Nat := rSeq r (0xE0 + 8 * q)
def rAbort (r : Nat) : Nat := rSeq r 0x100
def rPreempt (r : Nat) : Nat := rSeq r 0x108
def rPstat (r : Nat) : Nat := rSeq r 0x110
def rBudgetFloor (r : Nat) : Nat := rSeq r 0x118
def rDecode (r : Nat) : Nat := rSeq r 0x120
def rQfetch (r q : Nat) : Nat := rSeq r (0x140 + 8 * q)
/-- BASE (`b = 0`) or BOUND (`b = 1`) of task `t`'s pair of window kind `k` (R100). -/
def rTask (r t k b : Nat) : Nat := rSeq r (0x400 + 0x40 * t + 0x10 * k + 8 * b)
def rTok (r k : Nat) : Nat := rSeq r (0x800 + 8 * k)
/-- Register `o` of region `r`'s mat. -/
def rMat (r o : Nat) : Nat := 0x1010000 + r * 0x200000 + o
def rHoffCfg (r h : Nat) : Nat := rMat r (0x200 + 16 * h)
def rHoffStat (r h : Nat) : Nat := rMat r (0x208 + 16 * h)
def rCircCfg (r k : Nat) : Nat := rMat r (0x300 + 32 * k)
def rCircHead (r k : Nat) : Nat := rMat r (0x308 + 32 * k)
def rCircTail (r k : Nat) : Nat := rMat r (0x310 + 32 * k)
def rPclass (r k : Nat) : Nat := rMat r (0x400 + 8 * k)
/-- Register `o` of region `r`'s stream unit (R202). -/
def rStrm (r o : Nat) : Nat := 0x1020000 + r * 0x200000 + o
def rChcfg (r c : Nat) : Nat := rStrm r (8 * c)
def rChstat (r c : Nat) : Nat := rStrm r (0x100 + 8 * c)
/-- Register `o` of region `r`'s copy engine (R220). -/
def rCpy (r o : Nat) : Nat := 0x1030000 + r * 0x200000 + o
/-- Register `o` of region `r`'s peristome network (R271). -/
def rPeri (r o : Nat) : Nat := 0x1040000 + r * 0x200000 + o
def rKsetCtl (r k : Nat) : Nat := rPeri r (0x100 + 32 * k)
def rKsetBase (r k : Nat) : Nat := rPeri r (0x108 + 32 * k)
def rKsetFp (r k : Nat) : Nat := rPeri r (0x110 + 32 * k)
def rKsetSize (r k : Nat) : Nat := rPeri r (0x118 + 32 * k)
/-- Register `o` of M-block `m` of region `r` (R324). -/
def rMb (r m o : Nat) : Nat := 0x1080000 + r * 0x200000 + m * 0x10000 + o
/-- Register `o` of V-block `v` of region `r` (R347). -/
def rVb (r v o : Nat) : Nat := 0x1100000 + r * 0x200000 + v * 0x10000 + o
def rTileLive (r v : Nat) : Nat := rVb r v 0x100
def rTileShape (r v k : Nat) : Nat := rVb r v (0x200 + 8 * k)
def rTileStat (r v k : Nat) : Nat := rVb r v (0x400 + 8 * k)
/-- Register `o` of P-block `p` of region `r` (R245). -/
def rPb (r p o : Nat) : Nat := 0x1180000 + r * 0x200000 + p * 0x10000 + o

end Sys2Proof.Machine
end

