-- ==== Sys2Proof/Machine/State.lean ====
section
/-! DEFINITION. The state of the CZ-EFN-384 block, as plain data, and the state after reset. -/

namespace Sys2Proof.Machine
open Sys2Proof

/-- Why the block stops with a fault. The manual gives every command of the opcode table an effect, so a meaning stops
for nothing but operands that its row does not have. -/
inductive Fault where
  /-- Raised by a meaning, through `ifOk`, when an operand is outside the range that the command's row gives it (a packet
  of more than 512 payload bytes, a register access of a width no bus carries). Safe: the machine stops where the
  hardware is never asked. -/
  | illFormedCommand
deriving DecidableEq, Repr

/-- Why the model has no meaning for a command. -/
inductive Refusal where
  /-- Raised by an arm of `exec` whose command has no meaning yet, under its mnemonic. Safe: the machine stops. -/
  | notModelled (mnemonic : String)
deriving DecidableEq, Repr

/-- The statuses of R83. -/
inductive Status where
  | done | doneRecomputed | donePoisoned | aborted | abortLate
  | skipIllegal | skipShape | skipBudget | skipKeyset | skipOverlap | skipBound | skipScale | skipDomain | skipParam
  | notAccepted | handoffTimeout | fault | hostFault
deriving DecidableEq, Repr

/-- The life of a frond in the sequencer: decoded and not accepted, accepted and at work, at work no longer and
waiting for its release. -/
inductive Phase where
  | decoded | working | finished
deriving DecidableEq, Repr

/-- A mat access that waits (R154, R157). -/
structure Parked where
  /-- The operand slot of the access. -/
  slot : Nat
  /-- The line, counted over all mats: region × 524,288 + line. -/
  line : Nat
  write : Bool
  /-- The circular region, or nothing for a handoff line. -/
  circ : Option Nat
  /-- The counter beat on which the access was first parked. -/
  since : Nat
deriving DecidableEq, Repr

/-- A line that a handoff or circular access was granted in the progress unit in hand, with the bytes it delivered. -/
structure Grant where
  slot : Nat
  /-- For a circular slot, 1 + the number of the line in its stream; 0 for a handoff line. -/
  seq : Nat
  line : Nat
  write : Bool
  data : List Byte
deriving DecidableEq, Repr

/-- An element fetched by run-ahead (R198): its slot, its position, its raw bits, and whether it came poisoned. -/
structure PreElem where
  slot : Nat
  elem : Nat
  bits : Nat
  poison : Bool
deriving DecidableEq, Repr

/-- A frond from its decode to its release (R74–R97). -/
structure Frond where
  region : Nat
  queue : Nat
  /-- The free-running frond count in its queue. -/
  idx : Nat
  words : List Word32
  /-- The task's base/bound pairs as they stood on the decode beat (R82), by window kind. -/
  pairs : List (Nat × Nat)
  decoded : Nat
  /-- The status of the check that failed at decode, at acceptance or in execution. -/
  skip : Option Status
  /-- Skipped, refused, aborted before acceptance or released faulted: no work is done for it. -/
  noWork : Bool
  phase : Phase
  /-- Acceptance order within the module. -/
  order : Nat
  /-- A, I and P of R46–R48, and the promise of a refused frond. -/
  acc : Nat
  issue : Nat
  prom : Nat
  /-- Promises are suspended for it under R45. -/
  suspended : Bool
  /-- G of R88. -/
  group : Nat
  rep : Nat
  /-- Progress units completed in the repetition in progress. -/
  unit : Nat
  /-- U of R88, the progress units of one repetition. -/
  units : Nat
  /-- Every progress unit of every repetition is complete. -/
  worked : Bool
  /-- The destination slots, and the slots that name a destination CTD. -/
  dests : List Nat
  dctds : List Nat
  /-- The scratch area of a class 0x9 or 0xA frond once its descriptors have been read, as address and length: a
  destination (R265). -/
  scratch : List (Nat × Nat)
  /-- The destination tiles by (region × 4 + block) × 64 + tile. -/
  dtiles : List Nat
  /-- Every tile it names, by the same numbers (R129, R144). -/
  tiles : List Nat
  /-- The engines it uses, by region × 64 + engine (R48). -/
  engines : List Nat
  /-- The mat lines, granules and tiles written so far. -/
  wroteLines : List Nat
  wroteGrans : List Nat
  wroteTiles : List Nat
  /-- Tiles it names as destination of which an inactive element was left as it was (R142, R330). -/
  holes : List Nat
  /-- Runs of bytes written whole that no slot describes, as memory key and length (R91, R230). -/
  wroteSpans : List (Nat × Nat)
  /-- Stream channels by slot. -/
  chans : List (Nat × Nat)
  /-- An abort that won the race of R94. -/
  abort : Bool
  /-- An abort that came at or after the commit point. -/
  late : Bool
  /-- Held at a hold point under SUSPEND. -/
  held : Bool
  /-- The frond has passed its second tile test (R516). -/
  tested : Bool
  /-- Its outputs are unspecified under R6: a rail left its tolerance while it was at work. -/
  unspec : Bool
  poisoned : Bool
  recomputed : Bool
  clamped : Bool
  nonrep : Bool
  /-- A TILE_LOAD or TILE_STORE holds its tile PENDING: 1 to start again from NEXT_ROW, 2 once it has (R143, R145). -/
  pend : Nat
  aflags : Nat
  /-- The miss causes of R56 and R387 that apply. -/
  causes : List Nat
  /-- Refreshes and link retries met so far, of which R49's allowances cover the first ones. -/
  refreshes : Nat
  retries : Nat
  /-- Die-bridge replays met in the repetition in hand (R18). -/
  bridges : Nat
  /-- The granules replayed once, as (block, cell, unit) (R429). -/
  replays : List (Nat × Nat × Nat)
  /-- The beat on which the work ended. -/
  ended : Nat
  parked : Option Parked
  grants : List Grant
  /-- The line in hand of each handoff or circular slot, so that later units go on in it. -/
  lines : List Grant
  pre : List PreElem
  /-- An outstanding ATS page of the frond's held access: the port and the untranslated page. -/
  page : Option (Nat × Nat)
  /-- Values that the opcode keeps between its units. -/
  work : List Nat
  /-- Elements that the opcode keeps between its units. -/
  buf : List Nat
  /-- How far the exchange of the unit in hand has gone: packets of that many rounds have been sent. What they carried
  stays in the engine's buffer while the unit waits. -/
  sent : Nat
  /-- Its source reads as +0: a re-run for a dropped member (R406). -/
  zero : Bool
  /-- A barrier's release beat (R64, R73), a rendezvous or tee in progress, and other progress on the links. -/
  wake : Option Nat
deriving DecidableEq, Repr

/-- The run of a program image (R98): the frond count at which the run in progress began, the fronds in the image and
the runs still to start. -/
structure ImageRun where
  region : Nat
  queue : Nat
  base : Nat
  count : Nat
  runs : Nat
deriving DecidableEq, Repr

/-- An entry of the event log (R433). -/
structure LogEntry where
  beat : Nat
  code : Nat
  cls : Nat
  idx : Nat
  seqv : Bool
  queue : Nat
  lost : Bool
  coal : Nat
  seqno : Nat
  /-- Bytes 20–31, least significant first. -/
  pay : Nat
deriving DecidableEq, Repr

/-- What the environment does to a word. Stored (R159, R171): a corrected and an uncorrectable DRAM error, a single-bit
and a wider error in a mat line. On its way to its place (R159, R168, R201): the next checked write of the word arrives
damaged, once, or in its recompute as well. -/
inductive Upset where
  | dramCorrected | dramUncorrectable | matSingle | matMulti | arrivalOnce | arrivalTwice
deriving DecidableEq, Repr

/-- The event log (R433–R442). -/
structure LogState where
  /-- Entries waiting to enter the ring, in key order. -/
  hold : List LogEntry
  /-- The ring, by slot. -/
  ring : List (Nat × LogEntry)
  /-- The next entry that enters has LOST set. -/
  lost : Bool
  /-- The beat of the last entry's entering, and how many entered on it. -/
  inBeat : Nat
  inCount : Nat
  /-- A drain has stopped on a full drain ring (R442). -/
  stalled : Bool
deriving DecidableEq, Repr

/-- A maintenance request (R443, R445). -/
structure MaintReq where
  act : Activity
  scope : Nat
  /-- Arrival order. -/
  order : Nat
  /-- The requester is a frond of this region, or none. -/
  frond : Option (Nat × Nat × Nat)
deriving DecidableEq, Repr

/-- The maintenance arbiter and the escalation history (R430, R443–R447). -/
structure MaintState where
  running : List MaintReq
  queued : List MaintReq
  order : Nat
  /-- Cell faults as (region, unit class, unit, cell, beat). -/
  cellFaults : List (Nat × Nat × Nat × Nat × Nat)
  faultedRegions : List Nat
  isolated : List Nat
  moduleFault : Bool
  /-- Replays in a row on the die bridge, by die. -/
  bridgeRow : List (Nat × Nat)
  /-- Granules poisoned and sectors rewritten in the present scrub pass, by tower. -/
  scrubFixed : List (Nat × Nat)
  scrubBad : List (Nat × Nat)
deriving DecidableEq, Repr

/-- An address translation that a host port caches (R482). -/
structure AtcEntry where
  port : Nat
  base : Nat
  log2 : Nat
deriving DecidableEq, Repr

/-- A page that accesses wait for (R483). -/
structure PageReq where
  port : Nat
  page : Nat
  since : Nat
  /-- Requests sent for this page so far. -/
  tries : Nat
  /-- A response is outstanding. -/
  sent : Bool
deriving DecidableEq, Repr

/-- A host-side completion or message that leaves the block. -/
inductive HostOut where
  /-- Completion of a host read: data, poisoned (EP), or Unsupported Request. -/
  | cpl (port : Nat) (data : List Byte) (ep : Bool)
  | unsupported (port : Nat)
  /-- An MSI-X message of a vector. -/
  | msix (port vector : Nat)
  /-- An ATS translation request, a page request, an invalidation completion. -/
  | atsReq (port : Nat) (u : Nat)
  | pageReq (port : Nat) (u : Nat)
  | invDone (port : Nat) (u : Nat)
  /-- What a management-core access returned: its data, and whether it trapped. -/
  | mgmt (data : List Byte) (trap : Bool)
  /-- A register read by another master. -/
  | mctp (values : List Nat)
  /-- Firmware restarts, or is told of a full mailbox. -/
  | firmware (what : Nat)
deriving DecidableEq, Repr

/-- One host port beyond its registers (R476–R486). -/
structure PortState where
  msixEn : Bool
  msixMask : Bool
  barLog2 : Nat
  priAlloc : Nat
  /-- A Response Failure has stopped page requests (R483). -/
  priStopped : Bool
deriving DecidableEq, Repr

/-- The host side: ports, translations, messages and the configuration store. -/
structure HostState where
  port0 : PortState
  port1 : PortState
  /-- MSI-X table words by port × 64 + 2 × vector + half, and pending vectors by port × 32 + vector. -/
  msixTable : List (Nat × Word)
  msixPending : List Nat
  atc : List AtcEntry
  pages : List PageReq
  out : List HostOut
  flash : List Host.Cell
  flashMbit : Nat
  /-- The flash command in progress: its operation, address and length. -/
  nvJob : Option (Nat × Nat × Nat)
  /-- Beat of the last watchdog expiry after READY, and of the last kick. -/
  wdtLast : Option Nat
  wdtKick : Nat
deriving DecidableEq, Repr

/-- One link port beyond its registers (R373–R376, R392). -/
structure LinkPort where
  txSeq : Nat
  rxSeq : Nat
  /-- Packets sent and not acknowledged, oldest first. -/
  replay : List Packet
  /-- Packets that wait for credits, oldest first. -/
  out : List Packet
  /-- Replays without progress. -/
  stuck : Nat
  /-- The sender's credits, in 32-byte units, by VC. -/
  credits : List Nat
  /-- Credits to return to the partner, by VC. -/
  owed : List Nat
  /-- A NAK is due. -/
  nak : Bool
  /-- Beat of the last heartbeat received, if any. -/
  heard : Option Nat
  /-- The coordinate that heartbeat carried. -/
  heardCoord : Nat
  /-- Payload-carrying packets sent, for the alternation of VC0 and VC1 and the turn of VC3. -/
  turn : Nat
  vc3Wait : Nat
  /-- Taken down by this module itself, for retraining or by ENABLE. -/
  ownDown : Bool
deriving DecidableEq, Repr

/-- A rendezvous announced by a peer and not yet matched (R388). -/
structure RtsWait where
  src : Nat
  dst : Nat
  tag : Nat
  count : Nat
deriving DecidableEq, Repr

/-- An arrival at a barrier (R64, R391): scope-0 arrivals by region mask and region, scope-1 by group and rank. -/
structure Arrival where
  scope1 : Bool
  group : Nat
  rank : Nat
  level : Nat
  fresh : Bool
  beat : Nat
  src : Nat
deriving DecidableEq, Repr

/-- An armed tee entry (R390). -/
structure TeeEntry where
  region : Nat
  lo : Nat
  hi : Nat
  /-- The 48 bytes of slot 0, as twelve words, and the window base it was armed under. -/
  slot : List Word32
  base : Nat
  target : Nat
  tag : Nat
  count : Nat
  /-- Acceptance order of the TEE_ARM: later collectives are tee'd. -/
  order : Nat
  /-- The last collective has been tee'd: the entry is free once everything is acknowledged. -/
  done : Bool
  /-- Acceptance orders of the collectives tee'd, for their re-runs. -/
  teed : List Nat
  /-- Bytes sent and not yet acknowledged, and the beat of the last send. -/
  pending : Nat
  since : Nat
deriving DecidableEq, Repr

/-- A collective at a rank that this module plays without a frond of its own: the stood-in rank (R416). Elements carry
2^40 on top of their bits when they are poisoned. -/
structure Coll where
  opcode : Nat
  e : Nat
  fmt : Nat
  /-- Group entry index, and the transfer's TAG. -/
  group : Nat
  tag : Nat
  rank : Nat
  root : Nat
  /-- The ring step in hand, and whether its packets have been sent. -/
  unit : Nat
  sent : Bool
  buf : List Nat
  work : List Nat
deriving DecidableEq, Repr

/-- The links, routing and collectives (R370–R396). -/
structure LinkState where
  ports : List LinkPort
  /-- Committed alias entries by index: LOGICAL, PHYSICAL, DEAD (R381). -/
  coordAlias : List (Nat × Nat × Nat × Bool)
  rts : List RtsWait
  arrivals : List Arrival
  tees : List TeeEntry
  /-- Packets for collectives, tees and sends that no frond of this module takes yet. -/
  early : List Packet
  /-- Collectives at the stood-in rank. -/
  ghosts : List Coll
  /-- MAINT messages received for firmware. -/
  inbox : List Packet
  /-- Packets put on the wire, with their port, in order: what the block has sent. -/
  wire : List (Nat × Packet)
deriving DecidableEq, Repr

/-- Surviving failures (R397–R425). -/
structure FailState where
  /-- The step's protected collectives in recorded order (R405), and those that a COMMIT has still to run again (R406). -/
  replay : List Frond
  redo : List Frond
  /-- Keys of LOSS and ADOPT packets seen (R413). -/
  seen : List (Nat × Nat × Nat)
  /-- The partner map (R414): logical coordinate and its symbiont's. -/
  partners : List (Nat × Nat)
  /-- COMMITs are held for good after JOB_STATE_LOST (R422). -/
  lost : Bool
  /-- A rollback is due at the next COMMIT (R421). -/
  rollback : Bool
  /-- The step in which this module's stand-in began, and coordinates dropped in the step in hand. -/
  freshStep : Option Nat
  drops : List Nat
  /-- Coordinates whose rank contributes +0 since an earlier step, replicas dropped in the step in hand, and whether its
  COMMIT ran collectives again (R404, R420). -/
  out : List Nat
  dropped : Nat
  redone : Bool
  /-- The step whose COMMIT was released last. -/
  commitStep : Option Nat
  /-- STAT.STATE before a rollback, and whether the epoch has been restored in it (R421). -/
  was : Nat
  restored : Bool
  /-- COLD tensors whose COLD_DIRTY awaits its DIRTY_ACK, with the beat it was sent (R403). -/
  dirtyWait : List (Nat × Nat)
  /-- PT entries treated as dirty and unprotected (R403), and entries written in the step in hand (R401). -/
  unprot : List Nat
  written : List Nat
  /-- The beat a SYNC was sent, and whether one has been received (R399). -/
  syncSent : Option Nat
  syncSeen : Bool
  /-- The gemma: the physical coordinate of the claimant it accepted (R417). -/
  claimant : Option Nat
  /-- The spare index that this module's claim was sent to. -/
  claim : Option Nat
  /-- A hand-over committed and awaiting this module's boundary (R419): logical, gemma, step. -/
  handover : Option (Nat × Nat × Nat)
  /-- The symbiont's hand-over has been made and packets are relayed. -/
  relay : Option (Nat × Nat)
  /-- The own digest of the last CHECK boundary (R409). -/
  digest : Option Nat
  /-- A shadow re-seed is due at the next boundary (R409). -/
  reseed : Bool
deriving DecidableEq, Repr

/-- A private part of the key store (R464): the slot and its bytes. -/
structure KeyPart where
  slot : Nat
  secret : List Byte
  pub : List Byte
deriving DecidableEq, Repr

/-- Identity, the image and the public-key engine beyond its registers (R455–R474). -/
structure SecState where
  keys : List KeyPart
  /-- The running command: its code and the effect to be applied at completion as outputs to memory, status and slot. -/
  job : Option (Nat × Nat)
  /-- Its run time under R467: exact, or the most it takes. -/
  jobTime : Nat × Bool
  jobOut : List (Nat × List Byte)
  jobKeys : List KeyPart
  jobSlots : List (Nat × Nat)
  /-- Digest of the verified image, digest of the device record, and the verified image copy in management SRAM. -/
  imageDigest : List Byte
  recordDigest : List Byte
  image : List Byte
  /-- Command start beat. -/
  started : Nat
deriving DecidableEq, Repr

/-- A DRBG instance (R301). -/
structure Drbg where
  key : List Byte
  ctr : Nat
  /-- Requests since the last reseed. -/
  reqs : Nat
  seeded : Bool
deriving DecidableEq, Repr

/-- The entropy source and the DRBG instances beyond their registers (R301–R303). -/
structure RngState where
  inst : List Drbg
  /-- Bytes in the pool as of `since`, the beat from which the raw bits of the block in hand count. -/
  pool : Nat
  since : Nat
  /-- Conditioned bytes delivered so far. -/
  drawn : Nat
deriving DecidableEq, Repr

/-- Pins and rails (R497–R514). -/
structure PinState where
  pwrgood : Bool
  resetN : Bool
  testEn : Bool
  domid : Nat
  mbusSel : Bool
  /-- THERMTRIP_N is asserted and latched. -/
  thermtrip : Bool
  /-- FAULT_N is asserted. -/
  faultN : Bool
  perst0 : Bool
  perst1 : Bool
  /-- The board has lost VMGMT since power-good. -/
  vmgmtLost : Bool
  /-- A link partner's reference was off by more than 2 ppm, so that ALIGNED is never set (R60). -/
  noAlign : Bool
deriving DecidableEq, Repr

/-- The whole block. -/
structure State where
  /-- The commands that wait, first in, first out. -/
  pending : List Instr
  /-- The model's own: which free value is next. Nothing rests on its value. -/
  freeCtr : Nat
  /-- Registers whose value is not their reset value, by offset from 0x90_0000_0000. -/
  regs : List (Nat × Word)
  /-- Memory bytes other than 0, by canonical device address; host memory lies above the 40-bit map. -/
  mem : List Host.Cell
  /-- Tile bytes other than 0, by ((region × 4 + block) × 64 + tile) × 8,192 + byte. -/
  tiles : List Host.Cell
  /-- Poisoned mat lines, by region × 524,288 + line. -/
  matPoison : List Nat
  /-- Poisoned granules, by tower × 2^24 + granule. -/
  towPoison : List Nat
  /-- Full lines of the handoff regions. -/
  full : List Nat
  /-- Words that the environment has upset: mat lines by their number, sectors by tower × 2^31 + sector + 2^40; what upsets
  the next write of a word is listed under the word's number + 2^48. -/
  upsets : List (Nat × Upset)
  fronds : List Frond
  /-- Fronds released ahead of an earlier frond of their queue, as (region, queue, count). -/
  ahead : List (Nat × Nat × Nat)
  /-- Aborts that undecoded fronds carry, as (region, queue, count) (R92). -/
  aborts : List (Nat × Nat × Nat)
  images : List ImageRun
  /-- Promise horizons by region × 64 + engine (R48). -/
  horizons : List (Nat × Nat)
  /-- Projected tile shapes by ((region × 4 + block) × 64 + tile) (R128). -/
  proj : List (Nat × Word)
  /-- Cushion contents by (region × 4 + block) × 8 + cell: tiles, most recently named first (R132). -/
  cushions : List (Nat × List Nat)
  /-- Sub-unit remainders of the counters that count in units of 2^10 or 2^20, by register. -/
  fractions : List (Nat × Nat)
  /-- The last acceptance beat and decode beat of each region. -/
  lastAccept : List (Nat × Nat)
  lastDecode : List (Nat × Nat)
  /-- The last signals of each token counter, by register: their beat and the sum they added on it (R78). -/
  lastSignal : List (Nat × Nat × Nat)
  /-- The beat of the last tail write of a queue, by region × 4 + queue. -/
  lastTail : List (Nat × Nat)
  /-- Acceptances so far. -/
  accepted : Nat
  /-- Open episodes of R87, by region × 16 + queue × 4 + kind (0 full, 1 overwrite, 2 bad, 3 lost). -/
  episodes : List Nat
  /-- Queues under a SUSPEND, by region × 4 + queue, with the beat it was asked for. -/
  suspends : List (Nat × Nat)
  /-- Towers whose quiesce is in force, with the beat it began; and accesses that wait for its end. -/
  quiesced : List (Nat × Nat)
  heldAccess : List Instr
  log : LogState
  maint : MaintState
  host : HostState
  links : LinkState
  fail : FailState
  sec : SecState
  rng : RngState
  pins : PinState
  /-- The stretch history needed by R44: the beat of the last change of level. -/
  levelBeat : Nat
  /-- The module power estimates of the last 1 ms, newest first (R511). -/
  powerHist : List Nat
  /-- The start-up measurements of the reset in force, and the counter beat of reset release. -/
  start : Option StartEnv
deriving DecidableEq, Repr

/-- A link port at reset: the partner's buffers free (R376), nothing in flight. -/
def LinkPort.reset : LinkPort :=
  { txSeq := 0, rxSeq := 0, replay := [], out := [], stuck := 0, credits := [3072, 3072, 512, 256],
    owed := [0, 0, 0, 0], nak := false, heard := none, heardCoord := 0, turn := 0, vc3Wait := 0, ownDown := false }

/-- A host port at reset: a 16 GiB memory BAR (R477). -/
def PortState.reset : PortState :=
  { msixEn := false, msixMask := false, barLog2 := 34, priAlloc := 512, priStopped := false }

def LogState.reset : LogState :=
  { hold := [], ring := [], lost := false, inBeat := 0, inCount := 0, stalled := false }

def MaintState.reset : MaintState :=
  { running := [], queued := [], order := 0, cellFaults := [], faultedRegions := [], isolated := [],
    moduleFault := false, bridgeRow := [], scrubFixed := [], scrubBad := [] }

def HostState.reset : HostState :=
  { port0 := .reset, port1 := .reset, msixTable := [], msixPending := [], atc := [], pages := [], out := [],
    flash := [], flashMbit := 1024, nvJob := none, wdtLast := none, wdtKick := 0 }

def LinkState.reset : LinkState :=
  { ports := List.replicate 16 .reset, coordAlias := [], rts := [], arrivals := [], tees := [], early := [], ghosts := [], inbox := [], wire := [] }

def FailState.reset : FailState :=
  { replay := [], redo := [], seen := [], partners := [], lost := false, rollback := false, freshStep := none, drops := [], out := [], dropped := 0, redone := false, commitStep := none,
    was := 0, restored := false,
    dirtyWait := [], unprot := [], written := [], syncSent := none, syncSeen := false, claimant := none, claim := none,
    handover := none, relay := none, digest := none, reseed := false }

def SecState.reset : SecState :=
  { keys := [], job := none, jobTime := (0, true), jobOut := [], jobKeys := [], jobSlots := [], imageDigest := [], recordDigest := [],
    image := [], started := 0 }

def Drbg.reset : Drbg := { key := [], ctr := 0, reqs := 0, seeded := false }

def RngState.reset : RngState := { inst := List.replicate 9 .reset, pool := 0, since := 0, drawn := 0 }

/-- The pins before power-good (R508): every input low, the open-drain outputs released. -/
def PinState.reset : PinState :=
  { pwrgood := false, resetN := true, testEn := false, domid := 0, mbusSel := false, thermtrip := false, faultN := false,
    perst0 := false, perst1 := false, vmgmtLost := false, noAlign := false }

/-- The machine right after reset: every register at its reset value, every mat and tile byte 0, every queue empty,
start-up at step 1. -/
def State.reset : State :=
  { pending := [], freeCtr := 0, regs := [], mem := [], tiles := [], matPoison := [], towPoison := [], full := [],
    upsets := [], fronds := [], ahead := [], aborts := [], images := [], horizons := [], proj := [], cushions := [],
    fractions := [], lastAccept := [], lastDecode := [], lastSignal := [], lastTail := [], accepted := 0,
    episodes := [], suspends := [], quiesced := [], heldAccess := [],
    log := .reset, maint := .reset, host := .reset, links := .reset, fail := .reset, sec := .reset, rng := .reset,
    pins := .reset, levelBeat := 0, powerHist := [], start := none }

end Sys2Proof.Machine
end

