-- ==== Sys2Proof/Machine/Ops.lean ====
section
/-! DEFINITION. The named operations over registers, the beat, counters, the event log and interrupts. -/

namespace Sys2Proof.Machine
open Sys2Proof

/-! ### Association lists by a number -/

/-- The entry of a key, if there is one. -/
def aget {β : Type} : List (Nat × β) → Nat → Option β
  | [], _ => none
  | (a, v) :: t, k => if k = a then some v else aget t k

/-- The list, in rising order of key, with the entry of `k` set to `v`. -/
def aset {β : Type} : List (Nat × β) → Nat → β → List (Nat × β)
  | [], k, v => [(k, v)]
  | (a, w) :: t, k, v => if k < a then (k, v) :: (a, w) :: t else if k = a then (k, v) :: t else (a, w) :: aset t k v

/-- The entry of a key as a number; 0 where there is none. -/
def agetN (m : List (Nat × Nat)) (k : Nat) : Nat := (aget m k).getD 0

/-! ### Registers -/

/-- The stored value of a register, by its offset from 0x90_0000_0000. -/
def reg (s : State) (o : Nat) : Word := mget regReset s.regs o

/-- A register set as a whole. -/
def setReg (s : State) (o : Nat) (v : Word) : State := { s with regs := mset regReset s.regs o v }

/-- A field of a register. -/
def regF (s : State) (o lo n : Nat) : Nat := fld (reg s o) lo n

/-- One bit of a register. -/
def regB (s : State) (o i : Nat) : Bool := bitOf (reg s o) i

/-- A register with one field set. -/
def setF (s : State) (o lo n v : Nat) : State := setReg s o (putFld (reg s o) lo n v)

/-- A register with one bit set or cleared. -/
def setB (s : State) (o i : Nat) (b : Bool) : State := setF s o i 1 (b2n b)

/-- A 64-bit counter advanced by `k`, stopping at 2^64 − 1. -/
def bump (s : State) (o k : Nat) : State := setReg s o (BitVec.ofNat 64 (satAdd 64 (reg s o).toNat k))

/-- A 32-bit counter in bits 31:0 advanced by `k`, stopping at 2^32 − 1. -/
def bump32 (s : State) (o k : Nat) : State := setF s o 0 32 (satAdd 32 (regF s o 0 32) k)

/-- A counter in units of 2^`u` advanced by `k` events; the remainder is kept for the next ones. -/
def bumpUnits (s : State) (o u k : Nat) : State :=
  let t := agetN s.fractions o + k
  let s1 := { s with fractions := aset s.fractions o (t % 2 ^ u) }
  bump s1 o (t / 2 ^ u)

/-- The next free value of the model: a value that nothing constrains. -/
def takeFree (s : State) : Nat × State := (Config.freeValue s.freeCtr, { s with freeCtr := s.freeCtr + 1 })

/-! ### The beat (R39–R45, R59) -/

/-- BEAT.COUNT. -/
def beat (s : State) : Nat := (reg s rBeatCount).toNat

/-- The stretch level, 4 to 8 (R43). -/
def level (s : State) : Nat := regF s rBeatStat 0 4

/-- The positions of a group of eight counter beats that are not work beats (R43). -/
def nonWork (lvl : Nat) : List Nat :=
  if lvl = 7 then [7] else if lvl = 6 then [3, 7] else if lvl = 5 then [1, 4, 7]
  else if lvl = 4 then [1, 3, 5, 7] else []

/-- Whether counter beat `b` is a work beat at a stretch level (R40, R43). -/
def isWorkAt (lvl b : Nat) : Bool := !(nonWork lvl).contains (b % 8)

/-- The counter beats below `b` that are not work beats at a stretch level. -/
def nonWorkBelow (lvl b : Nat) : Nat :=
  (b / 8) * (nonWork lvl).length + ((nonWork lvl).filter (fun p => decide (p < b % 8))).length

/-- The first work beat at or after `b`; two non-work beats are never adjacent (R43). -/
def workFrom (s : State) (b : Nat) : Nat := if isWorkAt (level s) b then b else b + 1

/-- The `n`-th work beat after `b`. -/
def workAfter (s : State) (b : Nat) : Nat → Nat
  | 0 => b
  | n + 1 => workAfter s (workFrom s (b + 1)) n

/-- The counter moved on to beat `b`, counting the beats passed that are not work beats; it never moves back. -/
def advanceTo (s : State) (b : Nat) : State :=
  if b ≤ beat s then s
  else
    let lost := nonWorkBelow (level s) (b + 1) - nonWorkBelow (level s) (beat s + 1)
    setReg (bump s rStretchBt lost) rBeatCount (BitVec.ofNat 64 b)

/-- One kind of timing-dependent choice is counted, in its subcounter and in NDCOUNT (R58). -/
def countNd (s : State) (o k : Nat) : State := bump (bump s o k) rNdCount k

/-! ### Interrupts (R481) -/

/-- The MSI-X table word at an index; a vector is masked until the host unmasks it. -/
def msixWord (s : State) (k : Nat) : Word :=
  mget (fun i => if i % 2 = 1 then (0x100000000 : Word) else 0) s.host.msixTable k

/-- The port state of a host port. -/
def portOf (s : State) (p : Nat) : PortState := if p = 0 then s.host.port0 else s.host.port1

/-- A host port's state replaced. -/
def setPort (s : State) (p : Nat) (x : PortState) : State :=
  if p = 0 then { s with host := { s.host with port0 := x } } else { s with host := { s.host with port1 := x } }

/-- Something that leaves the block towards its hosts. -/
def emit (s : State) (x : HostOut) : State := { s with host := { s.host with out := s.host.out ++ [x] } }

/-- An MSI-X message of vector `v`, sent or, under a mask, made pending. -/
def sendVector (s : State) (p v : Nat) : State :=
  if (portOf s p).msixEn then
    if (portOf s p).msixMask || bitOf (msixWord s (p * 64 + 2 * v + 1)) 32 then
      { s with host := { s.host with msixPending := sins s.host.msixPending (p * 32 + v) } }
    else emit s (.msix p v)
  else s

/-- A source event on one port: with the source enabled its pending bit is set, and a bit that was clear sends the
routed vector's message (R481). -/
def raiseOn (s : State) (p src : Nat) : State :=
  if regB s (rIrqRoute p src) 8 then
    if regB s (rIrqPend p) src then s
    else sendVector (setB s (rIrqPend p) src true) p (regF s (rIrqRoute p src) 0 5)
  else s

/-- A source event on both ports. -/
def raiseIrq (s : State) (src : Nat) : State := raiseOn (raiseOn s 0 src) 1 src

/-! ### The event log (R433–R438) -/

/-- The die of an entry's source, which enters the key of R435 (R434). -/
def srcDie (cls idx : Nat) : Nat :=
  let i := idx % 16
  if 1 ≤ cls ∧ cls ≤ 0x0B then i / 4
  else if cls = 0x0C then i / 8
  else if cls = 0x0D ∨ cls = 0x12 ∨ cls = 0x13 then i % 2
  else 0

/-- SRC_INDEX of a unit: its region or instance, its index and its logical cell (R434). -/
def srcIndex (inst unit cell : Nat) : Nat := inst + unit * 16 + cell * 128

/-- SRC_INDEX of a source without cells. -/
def srcUnit (inst unit : Nat) : Nat := srcIndex inst unit 0xF

/-- Whether an entry's key comes before another's: (BEAT, die, SRC_CLASS, SRC_INDEX, CODE) (R435). -/
def keyLt (a b : LogEntry) : Bool :=
  decide (a.beat < b.beat) || (a.beat == b.beat &&
    (decide (srcDie a.cls a.idx < srcDie b.cls b.idx) || (srcDie a.cls a.idx == srcDie b.cls b.idx &&
      (decide (a.cls < b.cls) || (a.cls == b.cls &&
        (decide (a.idx < b.idx) || (a.idx == b.idx && decide (a.code < b.code))))))))

/-- An entry put among held entries in key order, after those with an equal key. -/
def holdInsert : List LogEntry → LogEntry → List LogEntry
  | [], e => [e]
  | a :: t, e => if keyLt e a then e :: a :: t else a :: holdInsert t e

/-- The codes that are coalesced (R436): CELL_REPLAY, MAT_CE, TOW_CE, LINK_RETRY_LIMIT. -/
def coalesces (code : Nat) : Bool := code == 0x1070 || code == 0x2020 || code == 0x2030 || code == 0x3003

/-- Whether an event folds into an entry (R436). -/
def foldsInto (e x : LogEntry) : Bool :=
  x.code == e.code && x.cls == e.cls && x.idx == e.idx && decide (e.beat - x.beat < 1250000) && decide (x.beat ≤ e.beat)

/-- A held entry into which an event folds: the last that matches, which has the latest BEAT. -/
def foldHold : List LogEntry → LogEntry → Option (List LogEntry)
  | [], _ => none
  | a :: t, e =>
    match foldHold t e with
    | some t' => some (a :: t')
    | none => if foldsInto e a then some ({ a with coal := satAdd 16 a.coal 1 } :: t) else none

/-- The count of the unconsumed ring entry, at or above `tail` and below `tail + n`, into which an event folds: the
latest one. -/
def foldRing (ring : List (Nat × LogEntry)) (e : LogEntry) (tail : Nat) : Nat → Option Nat
  | 0 => none
  | n + 1 =>
    let slot := (tail + n) % 8192
    match aget ring slot with
    | some x => if foldsInto e x then some slot else foldRing ring e tail n
    | none => foldRing ring e tail n

/-- An event is logged: folded under R436, held until it may enter the ring, or dropped when the hold buffer is full
(R435). -/
def logEntry (s : State) (e : LogEntry) : State :=
  let l := s.log
  let held := if coalesces e.code && regB s rLogCtrl 17 then foldHold l.hold e else none
  match held with
  | some h => { s with log := { l with hold := h } }
  | none =>
    let head := regF s rLogHead 0 32
    let tail := regF s rLogTail 0 32
    let ringed := if coalesces e.code && regB s rLogCtrl 17 then
        foldRing l.ring e tail (countGap tail head) else none
    match ringed with
    | some k =>
      match aget l.ring k with
      | some x => { s with log := { l with ring := aset l.ring k { x with coal := satAdd 16 x.coal 1 } } }
      | none => s
    | none =>
      if l.hold.length ≥ 256 then bump32 { s with log := { l with lost := true } } rLogDrop 1
      else { s with log := { l with hold := holdInsert l.hold e } }

/-- The default payload (R438): bytes 20–21, bytes 22–23, bytes 24–31. -/
def payDefault (opcode reason addr : Nat) : Nat :=
  opcode % 65536 + (reason % 65536) <<< 16 + (addr % 2 ^ 64) <<< 32

/-- An event with no frond, on the present beat. -/
def logEv (s : State) (code cls idx pay : Nat) : State :=
  logEntry s { beat := beat s, code := code, cls := cls, idx := idx, seqv := false, queue := 0, lost := false,
               coal := 0, seqno := 0, pay := pay }

/-- An event of a queue of a region: the sequencer is the source (R434). -/
def logQueue (s : State) (code r pay : Nat) : State := logEv s code 0x01 (srcUnit r 0) pay

/-- An event of the chip: class 0x00, SRC_INDEX 0 (R434). -/
def logChip (s : State) (code pay : Nat) : State := logEv s code 0x00 0 pay

/-- The source class and index by which an event names a master (R434). -/
def masterSrc : Master → Nat × Nat
  | .pcie n => (0x0D, srcUnit n.val 0)
  | .mgmt => (0x0E, srcUnit 0 0)
  | .seq r => (0x01, srcUnit r.val 0)
  | .strm r => (0x08, srcUnit r.val 0)

/-- An event that names the master that made an access, with the address concerned (R434, R438). -/
def logMaster (s : State) (code : Nat) (m : Master) (addr : Nat) : State :=
  logEv s code (masterSrc m).1 (masterSrc m).2 (payDefault 0 0 addr)

/-- The absolute address of a register. -/
def absReg (o : Nat) : Nat := 0x9000000000 + o

/-- The 32 bytes of a log entry (R433), as a number. -/
def entryBits (e : LogEntry) : Nat :=
  e.beat % 2 ^ 64 + e.code <<< 64 + e.cls <<< 80 +
  (b2n e.seqv + e.queue <<< 1 + (b2n e.lost) <<< 3) <<< 88 +
  e.idx <<< 96 + e.coal <<< 112 + e.seqno <<< 128 + e.pay <<< 160

/-- The ELAPSED_MS that a beat stands for: counter beats of 0.8 ns since reset release. -/
def beatsToMs (b : Nat) : Nat := b / 1250000

end Sys2Proof.Machine
end

