-- ==== Sys2Proof/Machine/Mem.lean ====
section
/-! DEFINITION. The address map (R29–R32), the mats and towers as memory, poison, the sector check and stored
errors (R147–R171). -/

namespace Sys2Proof.Machine
open Sys2Proof

/-- What a device address decodes to (R29, R30). -/
inductive Target where
  /-- A byte of the HBM range, by its HBM address (a tower-local window address through its alias). -/
  | hbm (a : Nat)
  /-- A byte of a mat: region and mat offset. -/
  | mat (r o : Nat)
  /-- A byte of the register range, by its offset. -/
  | reg (o : Nat)
  /-- A byte of a host window: port and window offset. -/
  | host (p o : Nat)
  | unmapped
deriving DecidableEq, Repr

/-- L, the tower-local size in GiB (R30, R38). -/
def localGib (s : State) : Nat := regF s rMemcfg 0 6

def gib : Nat := 2 ^ 30

/-- The end of the interleaved part of the HBM range (R30). -/
def interleavedEnd (s : State) : Nat := 8 * (48 - localGib s) * gib

/-- The first HBM address of tower `t`'s local part (R30). -/
def localBase (s : State) (t : Nat) : Nat := 0x6000000000 - (8 - t) * localGib s * gib

/-- The target of a 40-bit device address (R29, R30, R32, R33). -/
def resolve (s : State) (a : Nat) : Target :=
  if a < 0x6000000000 then .hbm a
  else if 0x8000000000 ≤ a ∧ a < 0x8010000000 then .mat ((a - 0x8000000000) / 0x2000000) ((a - 0x8000000000) % 0x2000000)
  else if 0x9000000000 ≤ a ∧ a < 0x9010000000 then
    (if (blkOf (a - 0x9000000000)).isSome then .reg (a - 0x9000000000) else .unmapped)
  else if 0xA000000000 ≤ a ∧ a < 0xB000000000 then .host 0 (a - 0xA000000000)
  else if 0xB000000000 ≤ a ∧ a < 0xC000000000 then .host 1 (a - 0xB000000000)
  else if 0xC000000000 ≤ a ∧ a < 0x10000000000 then
    let t := (a - 0xC000000000) / 0x800000000
    let u := (a - 0xC000000000) % 0x800000000
    if u < localGib s * gib then .hbm (localBase s t + u) else .unmapped
  else .unmapped

/-- The tower and the tower-local address of an HBM address (R165). -/
def towerOf (s : State) (a : Nat) : Nat × Nat :=
  if a < interleavedEnd s then
    let g := a >>> 12
    (((g ^^^ (g >>> 3) ^^^ (g >>> 6) ^^^ (g >>> 9) ^^^ (g >>> 12) ^^^ (g >>> 15) ^^^ (g >>> 18) ^^^ (g >>> 21) ^^^
        (g >>> 24)) % 8), ((g >>> 3) <<< 12) + a % 4096)
  else
    let t := (a - interleavedEnd s) / (localGib s * gib)
    (t, (48 - localGib s) * gib + (a - interleavedEnd s) % (localGib s * gib))

/-- The HBM address of a tower-local address (the inverse of `towerOf`). The granule's place in its group of eight
is the one that the hash sends to the tower. -/
def hbmOf (s : State) (t u : Nat) : Nat :=
  if u < (48 - localGib s) * gib then
    let hi := u >>> 12
    let h := (hi ^^^ (hi >>> 3) ^^^ (hi >>> 6) ^^^ (hi >>> 9) ^^^ (hi >>> 12) ^^^ (hi >>> 15) ^^^ (hi >>> 18) ^^^
      (hi >>> 21)) % 8
    ((hi * 8 + (t ^^^ h) % 8) <<< 12) + u % 4096
  else localBase s t + (u - (48 - localGib s) * gib)

/-- The memory key of host memory: the port and the untranslated address (R482). -/
def hostKey (s : State) (p o : Nat) : Nat :=
  2 ^ 64 * (p + 1) + ((reg s (rHwin p)).toNat + o) % 2 ^ 64

/-- The memory key of a target that holds bytes. -/
def memKey (s : State) : Target → Option Nat
  | .hbm a => some a
  | .mat r o => some (0x8000000000 + r * 0x2000000 + o)
  | .host p o => some (hostKey s p o)
  | .reg _ => none
  | .unmapped => none

/-- What an unlisted byte of memory reads as: 0, as R162 and R175 leave mats and towers; for host memory a
DESIGN CHOICE (log entry 2). -/
def memDefault (_ : Nat) : Byte := 0

/-- The byte under a memory key. -/
def memGet (s : State) (k : Nat) : Byte := mget memDefault s.mem k

/-- Memory with one byte set. -/
def memSet (s : State) (k : Nat) (v : Byte) : State := { s with mem := mset memDefault s.mem k v }

/-- The byte at a device address; 0 where none is held. -/
def byteAt (s : State) (a : Nat) : Byte :=
  match memKey s (resolve s a) with
  | some k => memGet s k
  | none => 0

/-- A byte stored at a device address; nothing happens where none is held. -/
def putByte (s : State) (a : Nat) (v : Byte) : State :=
  match memKey s (resolve s a) with
  | some k => memSet s k v
  | none => s

/-- `n` bytes from a device address. -/
def bytesAt (s : State) (a : Nat) : Nat → List Byte
  | 0 => []
  | n + 1 => byteAt s a :: bytesAt s (a + 1) n

/-- Bytes stored from a device address on. -/
def putBytes (s : State) (a : Nat) : List Byte → State
  | [] => s
  | b :: t => putBytes (putByte s a b) (a + 1) t

/-- The little-endian number in `n` bytes at a device address. -/
def natAt (s : State) (a n : Nat) : Nat := leNat (bytesAt s a n)

/-- The number of a mat line, counted over all mats. -/
def lineOf (r o : Nat) : Nat := r * 524288 + o / 64

/-- The granule number of an HBM address: tower × 2^24 + tower-local granule (R170). -/
def granuleOf (s : State) (a : Nat) : Nat := (towerOf s a).1 * 2 ^ 24 + (towerOf s a).2 / 4096

/-- The granules of a tower (R170). -/
def granules : Nat := 12582912

/-- Whether the byte at a target lies in a poisoned line or granule. -/
def poisonedT (s : State) : Target → Bool
  | .hbm a => smem s.towPoison (granuleOf s a)
  | .mat r o => smem s.matPoison (lineOf r o)
  | _ => false

/-- Whether the byte at a device address is poisoned. -/
def poisonedAt (s : State) (a : Nat) : Bool := poisonedT s (resolve s a)

/-- POISON_CNT follows the poison map: lines or granules now poisoned (R162's tables, R179). -/
def countMatPoison (s : State) (r : Nat) (up : Bool) : State :=
  let n := regF s (rMat r 0x28) 0 32
  setF s (rMat r 0x28) 0 32 (if up then satAdd 32 n 1 else n - 1)

def countTowPoison (s : State) (t : Nat) (up : Bool) : State :=
  let n := (reg s (rTow t 0x38)).toNat
  setReg s (rTow t 0x38) (BitVec.ofNat 64 (if up then satAdd 64 n 1 else n - 1))

/-- A mat line's poison bit set (R161). -/
def poisonLine (s : State) (l : Nat) : State :=
  if smem s.matPoison l then s
  else countMatPoison { s with matPoison := sins s.matPoison l } (l / 524288) true

/-- A mat line's poison bit cleared. -/
def clearLine (s : State) (l : Nat) : State :=
  if smem s.matPoison l then countMatPoison { s with matPoison := sdel s.matPoison l } (l / 524288) false
  else s

/-- A granule's poison bit set (R170). -/
def poisonGranule (s : State) (g : Nat) : State :=
  if smem s.towPoison g then s
  else countTowPoison { s with towPoison := sins s.towPoison g } (g / 2 ^ 24) true

/-- A granule's poison bit cleared. -/
def clearGranule (s : State) (g : Nat) : State :=
  if smem s.towPoison g then countTowPoison { s with towPoison := sdel s.towPoison g } (g / 2 ^ 24) false
  else s

/-- The line or granule of a device address poisoned; a host window keeps no poison record (R91). -/
def poisonAt (s : State) (a : Nat) : State :=
  match resolve s a with
  | .hbm h => poisonGranule s (granuleOf s h)
  | .mat r o => poisonLine s (lineOf r o)
  | _ => s

/-- The protection class of the page of a mat offset (R159). -/
def pclass (s : State) (r o : Nat) : Nat := regF s (rPclass r (o / 0x200000)) (2 * ((o / 0x10000) % 32)) 2

/-! ### The sector check (R167) -/

/-- Field `j` of a 32-byte sector. -/
def secField (v j : Nat) : Nat := nfld v (36 * j) 36

/-- The check of seven residues (R167). -/
def sectorCheck (v : Nat) : Nat :=
  forRange 0 7 (fun j a => (a + (j + 1) * (secField v j % 15)) % 15) 0

/-- The sector with its check set. -/
def withCheck (v : Nat) : Nat := v % 2 ^ 252 + (sectorCheck (v % 2 ^ 252)) <<< 252

/-- Whether a stored sector passes its check. -/
def sectorOk (v : Nat) : Bool := nfld v 252 4 == sectorCheck (v % 2 ^ 252)

/-! ### What a read finds (R159, R168, R170, R171) -/

/-- MAT.ERR_LAST and the events of a mat report (R159, R162's tables). -/
def matReport (s : State) (r o kind code : Nat) : State :=
  let c := pclass s r o
  let s1 := setF s (rMat r 0x30) 6 24 ((o / 64) + c * 2 ^ 19 + kind * 2 ^ 21 + 2 ^ 23)
  logEv s1 code 0x02 (srcUnit r 0) (payDefault 0 0 (0x8000000000 + r * 0x2000000 + o / 64 * 64))

/-- TOWn.ERR_LAST and the events of a tower report (R171, R179). -/
def towReport (s : State) (h kind code : Nat) : State :=
  let t := (towerOf s h).1
  let u := (towerOf s h).2
  let s1 := setF s (rTow t 0x40) 0 34 (u / 4096 + (u % 4096 / 32) * 2 ^ 24 + kind * 2 ^ 31 + 2 ^ 33)
  logEv s1 code 0x09 (srcUnit t 0) (payDefault 0 0 (h / 32 * 32))

/-- The key of a tower sector among stored errors. -/
def sectorKey (s : State) (h : Nat) : Nat := 2 ^ 40 + (towerOf s h).1 * 2 ^ 31 + (towerOf s h).2 / 32

/-- A stored error taken away: the word has been rewritten. -/
def dropUpset (s : State) (k : Nat) : State := { s with upsets := s.upsets.filter (fun p => p.1 != k) }

/-- A detection in a mat line on write: it is counted, and ERR_LAST names the line (R159). No event goes with it (log
entry 174). -/
def matArrival (s : State) (r o : Nat) : State :=
  setF (bump32 s (rMat r 0x20) 1) (rMat r 0x30) 6 24 ((o / 64) + pclass s r o * 2 ^ 19 + 2 * 2 ^ 21 + 2 ^ 23)

/-- A failed sector check on write at a tower, likewise (R168, R179). -/
def towArrival (s : State) (h : Nat) : State :=
  let t := (towerOf s h).1
  let u := (towerOf s h).2
  setF (bump s (rTow t 0x30) 1) (rTow t 0x40) 0 34 (u / 4096 + (u % 4096 / 32) * 2 ^ 24 + 2 * 2 ^ 31 + 2 ^ 33)

/-- The 32-byte sector that holds an address. -/
def sectorAt (s : State) (a : Nat) : Nat := natAt s (a / 32 * 32) 32

/-- One sector of a tower is read, as RES36 data if `res`: corrected and uncorrectable errors and a failed sector
check, one event for the higher (R171). -/
def readHbm (s : State) (h : Nat) (res : Bool) : State :=
  let t := (towerOf s h).1
  let up := aget s.upsets (sectorKey s h)
  let bad := res && !sectorOk (sectorAt s h)
  let s1 := match up with
    | some .dramCorrected => bump s (rTow t 0x20) 1
    | some .dramUncorrectable => bump s (rTow t 0x28) 1
    | _ => s
  let s2 := if bad then bump s1 (rTow t 0x30) 1 else s1
  if up = some .dramCorrected then
    (if bad then poisonGranule (towReport s2 h 0 0x2030) (granuleOf s h) else towReport s2 h 0 0x2030)
  else if up = some .dramUncorrectable then poisonGranule (towReport s2 h 1 0x2031) (granuleOf s h)
  else if bad then poisonGranule (towReport s2 h 3 0x2032) (granuleOf s h)
  else s

/-- Whether the extent of an unreleased frond's destination may hold the producer of a line is asked by the caller:
`producer` says that one exists, and then it recomputes (R159). The line of a mat is read. -/
def readMat (s : State) (r o : Nat) (producer : Bool) : State :=
  let l := lineOf r o
  let c := pclass s r o
  let up := aget s.upsets l
  let a := 0x8000000000 + r * 0x2000000 + o
  if c = 0 then
    match up with
    | some .matSingle => dropUpset (matReport (bump32 s (rMat r 0x10) 1) r o 0 0x2020) l
    | some .matMulti => poisonLine (matReport (bump32 s (rMat r 0x18) 1) r o 1 0x2021) l
    | _ => s
  else
    let bad := up.isSome || (c == 2 && !sectorOk (sectorAt s a))
    if bad then
      let s1 := matReport (bump32 s (rMat r 0x20) 1) r o 3 (if c = 2 then 0x2023 else 0x2022)
      if producer && up.isSome then dropUpset (countNd s1 rNdRetry 1) l else poisonLine s1 l
    else s

/-- A read of the sector that holds a device address, before its bytes are taken. -/
def noteRead (s : State) (a : Nat) (res producer : Bool) : State :=
  match resolve s a with
  | .hbm h => readHbm s h res
  | .mat r o => readMat s r o producer
  | _ => s

/-! ### Accesses from outside the regions (R32, R35, R161, R170) -/

/-- Bytes stored by a host port or the management core: a whole mat line clears its poison, a granule keeps it. -/
def externalWrite (s : State) (a : Nat) (data : List Byte) : State :=
  let s1 := putBytes s a data
  forRange 0 ((data.length + a % 64) / 64 + 1)
    (fun i x =>
      let la := (a / 64 + i) * 64
      if a ≤ la ∧ la + 64 ≤ a + data.length then
        match resolve x la with
        | .mat r o => clearLine (dropUpset x (lineOf r o)) (lineOf r o)
        | _ => x
      else x) s1

/-- Whether every byte of `n` at `a` decodes to memory or a host window. -/
def mapped (s : State) (a : Nat) : Nat → Bool
  | 0 => true
  | n + 1 => (memKey s (resolve s a)).isSome && mapped s (a + 1) n

end Sys2Proof.Machine
end

