-- ==== Sys2Proof/Machine/Slot.lean ====
section
/-! DEFINITION. A frond's fields and its operand slots: the stream descriptor (R180–R184), blocked layouts
(R203–R210), and the extents that bound and overlap checks use. -/

namespace Sys2Proof.Machine
open Sys2Proof

/-! ### Header fields (R67) -/

/-- Word `i` of a frond, as a number. -/
def fw (f : Frond) (i : Nat) : Nat := (f.words.getD i 0).toNat

/-- Bits of a frond's word. -/
def fwF (f : Frond) (i lo n : Nat) : Nat := nfld (fw f i) lo n

/-- Parameter-block word `i` (R66, R69). -/
def par (f : Frond) (i : Nat) : Nat := fw f (56 + i)

/-- Bits of a parameter-block word. -/
def parF (f : Frond) (i lo n : Nat) : Nat := nfld (par f i) lo n

def opcodeOf (f : Frond) : Nat := fwF f 0 0 12
def paced (f : Frond) : Bool := nbit (fw f 0) 12
def deadlineEn (f : Frond) : Bool := nbit (fw f 0) 13
def wantsIrq (f : Frond) : Bool := nbit (fw f 0) 14
def quiet (f : Frond) : Bool := nbit (fw f 0) 15
/-- Abort policy: 0 STOPPABLE, 1 ATOMIC, 2 UNSTOPPABLE, 3 reserved (R67). -/
def policy (f : Frond) : Nat := fwF f 0 16 2
def taskOf (f : Frond) : Nat := fwF f 0 20 4
def seqnoOf (f : Frond) : Nat := fw f 1
def repeatOf (f : Frond) : Nat := fwF f 7 0 15

/-- A token word (R67). -/
structure TokWord where
  index : Nat
  global : Bool
  valid : Bool
  count : Nat
deriving DecidableEq, Repr

def tokWord (w : Nat) : TokWord := ⟨nfld w 0 10, nbit w 10, nbit w 11, nfld w 16 16⟩

def waitsOf (f : Frond) : List TokWord := [tokWord (fw f 2), tokWord (fw f 3)].filter (·.valid)
def signalsOf (f : Frond) : List TokWord := [tokWord (fw f 4), tokWord (fw f 5)].filter (·.valid)

/-! ### Formats (R101) -/

/-- The format codes of R101 other than the empty slot. -/
def validFmt (c : Nat) : Bool := [1, 2, 3, 4, 5, 8, 9, 0xA, 0xB, 0xC, 0x10, 0x18].contains c

def isFloat (c : Nat) : Bool := [1, 2, 3, 4, 5].contains c
def isInt (c : Nat) : Bool := [8, 9, 0xA, 0xB, 0xC].contains c

/-- Bits of an element in memory: RES36 counts the 36 bits of its field. -/
def fmtBits (c : Nat) : Nat :=
  if c = 1 ∨ c = 8 then 32 else if c = 2 ∨ c = 3 ∨ c = 9 then 16 else if c = 4 ∨ c = 5 ∨ c = 0xA ∨ c = 0xB then 8
  else if c = 0xC then 4 else if c = 0x18 then 1 else if c = 0x10 then 36 else 0

/-- Bits of an element in a tile (R101): RES36 takes an 8-byte container. -/
def tileBits (c : Nat) : Nat := if c = 0x10 then 64 else fmtBits c

/-- Elements that share one unit of storage: a byte, or a sector for RES36. -/
def fmtPack (c : Nat) : Nat := if c = 0xC then 2 else if c = 0x18 then 8 else if c = 0x10 then 7 else 1

/-- Bytes of that unit. -/
def fmtUnit (c : Nat) : Nat := if c = 0x10 then 32 else if c = 0xC ∨ c = 0x18 then 1 else fmtBits c / 8

/-! ### Stream descriptors (R180) -/

/-- An operand slot, with the window it lies in (R81). -/
structure Slot where
  /-- Slot number, 0–3. -/
  no : Nat
  base : Nat
  fmt : Nat
  layout : Nat
  flags : Nat
  aux : Nat
  cnt : List Nat
  str : List Int
  win : Nat
  /-- The window's absolute base and its size. -/
  wbase : Nat
  bound : Nat
deriving DecidableEq, Repr

/-- Byte `i` of a frond. -/
def fByte (f : Frond) (i : Nat) : Nat := nfld (fw f (i / 4)) (8 * (i % 4)) 8

/-- `n` bytes of a frond from byte `i`, as a number. -/
def fNat (f : Frond) (i : Nat) : Nat → Nat
  | 0 => 0
  | n + 1 => fByte f i + 256 * fNat f (i + 1) n

/-- Slot `s` of a frond (R66, R68, R81). -/
def slotOf (f : Frond) (s : Nat) : Slot :=
  let b := 32 + 48 * s
  let win := fwF f 0 (24 + 2 * s) 2
  let pr := f.pairs.getD win (0, 0)
  { no := s, base := fNat f b 5, fmt := fByte f (b + 5), layout := fByte f (b + 6), flags := fByte f (b + 7),
    aux := fNat f (b + 8) 4,
    cnt := (List.range 6).map (fun l => fNat f (b + 12 + 6 * l) 2 + 1),
    str := (List.range 6).map (fun l => sext 32 (fNat f (b + 14 + 6 * l) 4)),
    win := win, wbase := pr.1, bound := pr.2 }

def Slot.empty (d : Slot) : Bool := d.fmt == 0
def Slot.circ (d : Slot) : Bool := nbit d.flags 0
def Slot.early (d : Slot) : Bool := nbit d.flags 1
def Slot.c (d : Slot) (l : Nat) : Nat := d.cnt.getD l 1
def Slot.s (d : Slot) (l : Nat) : Int := d.str.getD l 0

/-- E, the element count (R181). -/
def Slot.elems (d : Slot) : Nat := d.cnt.foldl (· * ·) 1

/-- Loop index `l` of element position `e` (R181). -/
def Slot.loop (d : Slot) (e l : Nat) : Nat := e / ((d.cnt.take l).foldl (· * ·) 1) % d.c l

/-- The element position of loop indices (R181). -/
def Slot.posOf (d : Slot) (js : List Nat) : Nat :=
  (List.range 6).foldr (fun l a => js.getD l 0 + d.c l * a) 0

/-- The sum of index × stride over the levels that `use` picks. -/
def Slot.affine (d : Slot) (e : Nat) (use : Nat → Bool) : Int :=
  (List.range 6).foldl (fun a l => if use l then a + (d.loop e l : Int) * d.s l else a) 0

/-- The smallest and largest value of that sum over all element positions. -/
def Slot.affineMin (d : Slot) (use : Nat → Bool) : Int :=
  (List.range 6).foldl (fun a l => if use l then a + min 0 (((d.c l : Int) - 1) * d.s l) else a) 0

def Slot.affineMax (d : Slot) (use : Nat → Bool) : Int :=
  (List.range 6).foldl (fun a l => if use l then a + max 0 (((d.c l : Int) - 1) * d.s l) else a) 0

/-- Elements in 65,536 destination bytes, the progress unit of streams and copies: RES36 in whole sectors (R201, R218,
log entry 71). -/
def unitElems (fmt : Nat) : Nat := if fmt = 0x10 then 14336 else 524288 / fmtBits fmt

/-- The number of such units. -/
def unitsOfElems (d : Slot) (n : Nat) : Nat := ceilDiv n (unitElems d.fmt)

/-! ### Blocked layouts (R203–R206, R209) -/

def layKind (lay : Nat) : Nat := nfld lay 0 3
def layG (lay : Nat) : Nat := 2 ^ nfld lay 3 3

/-- Rows and columns of the inner tile of a layout kind (R203). -/
def tileRows (kind : Nat) : Nat := if kind = 1 then 8 else if kind = 2 then 16 else if kind = 3 then 32 else 8
def tileCols (kind : Nat) : Nat := if kind = 1 then 8 else if kind = 2 then 16 else if kind = 3 then 32 else 128

def Slot.blocked (d : Slot) : Bool := layKind d.layout != 0
def Slot.tc (d : Slot) : Nat := nfld d.aux 0 12 + 1
def Slot.tr (d : Slot) : Nat := nfld d.aux 12 12 + 1
def Slot.colmask (d : Slot) : Nat := nfld d.aux 24 6
def Slot.th (d : Slot) : Nat := tileRows (layKind d.layout)
def Slot.tw (d : Slot) : Nat := tileCols (layKind d.layout)
/-- ROWS and COLS of the stored array (R204). -/
def Slot.rows (d : Slot) : Nat := d.tr * d.th
def Slot.cols (d : Slot) : Nat := d.tc * d.tw

/-- The storage index of pair (r, c) of a blocked array (R206). -/
def blockedIndex (th tw g tcCount r c : Nat) : Nat :=
  let t := (((r / th / g) * (tcCount / g) + c / tw / g) * g + (r / th) % g) * g + (c / tw) % g
  t * (th * tw) + (r % th) * tw + c % tw

/-- A row or column index clamped into [0, n) (R209). -/
def clampTo (n : Nat) (x : Int) : Nat := if x < 0 then 0 else min x.toNat (n - 1)

/-- The pair (row, column) of an element position of a blocked stream, before clamping (R205). -/
def Slot.pair (d : Slot) (e : Nat) : Int × Int :=
  (d.affine e (fun l => !nbit d.colmask l), d.affine e (fun l => nbit d.colmask l))

/-- The storage index of a pair, clamped. -/
def Slot.pairIndex (d : Slot) (r c : Int) : Nat :=
  blockedIndex d.th d.tw (layG d.layout) d.tc (clampTo d.rows r) (clampTo d.cols c)

/-- Whether a pair lies outside the array. -/
def Slot.pairOut (d : Slot) (r c : Int) : Bool :=
  decide (r < 0) || decide ((d.rows : Int) ≤ r) || decide (c < 0) || decide ((d.cols : Int) ≤ c)

/-- The storage position of element `e` in repetition `rep`: the base moves by the level-5 stride (R70). -/
def Slot.pos (d : Slot) (rep e : Nat) : Int :=
  let i : Int := if d.blocked then d.pairIndex (d.pair e).1 (d.pair e).2 else d.affine e (fun _ => true)
  i + (rep : Int) * d.s 5

/-- The storage position of pair (r, c) of a blocked slot. -/
def Slot.posPair (d : Slot) (rep : Nat) (p : Int × Int) : Int := (d.pairIndex p.1 p.2 : Int) + (rep : Int) * d.s 5

/-- How many elements a frond writes through a destination slot in one repetition: a TRANSPOSE's destination has those of
its source (R211). -/
def destElems (f : Frond) (i : Nat) : Nat := if opcodeOf f = 0x112 then (slotOf f 0).elems else (slotOf f i).elems

/-- The storage position of element `e` of a destination slot. -/
def destPos (f : Frond) (i rep e : Nat) : Int :=
  let d := slotOf f i
  if opcodeOf f = 0x112 then d.posPair rep ((slotOf f 0).pair e).swap else d.pos rep e

/-- Whether element `e` was clamped (R209). -/
def Slot.clamps (d : Slot) (e : Nat) : Bool := d.blocked && d.pairOut (d.pair e).1 (d.pair e).2

/-- The window offset of the storage unit (an element, a byte of a packed format, a sector) of position `p` (R182). -/
def Slot.offset (d : Slot) (p : Int) : Int :=
  (d.base : Int) + (p / (fmtPack d.fmt : Int)) * (fmtUnit d.fmt : Int)

/-- The device address of that unit; the window offset of an accepted frond is never negative (R81). -/
def Slot.addr (d : Slot) (p : Int) : Nat := (d.wbase + (d.offset p).toNat) % 2 ^ 40

/-- The place of position `p` within its unit. -/
def Slot.within (d : Slot) (p : Int) : Nat := (p % (fmtPack d.fmt : Int)).toNat

/-! ### Extents (R183, R210) -/

/-- The first and last row index of a blocked stream, clamped (R210). -/
def Slot.rowRange (d : Slot) : Nat × Nat :=
  (clampTo d.rows (d.affineMin (fun l => !nbit d.colmask l)), clampTo d.rows (d.affineMax (fun l => !nbit d.colmask l)))

/-- The first and last column index of a blocked stream, clamped. -/
def Slot.colRange (d : Slot) : Nat × Nat :=
  (clampTo d.cols (d.affineMin (fun l => nbit d.colmask l)), clampTo d.cols (d.affineMax (fun l => nbit d.colmask l)))

/-- The lowest position and the one past the highest in the band of super-tile rows between two row indices (R210). -/
def Slot.band (d : Slot) (lo hi : Nat) : Int × Int :=
  let n := layG d.layout * d.th
  (((lo / n) * (n * d.cols) : Nat), ((hi / n + 1) * (n * d.cols) : Nat))

/-- The lowest position and the one past the highest that a stream names. -/
def Slot.posRange (d : Slot) : Int × Int :=
  if d.blocked then d.band d.rowRange.1 d.rowRange.2
  else (d.affineMin (fun _ => true), d.affineMax (fun _ => true) + 1)

/-- Window offsets [lo, hi) of a range of positions in repetition `rep`. -/
def Slot.offsets (d : Slot) (r : Int × Int) (rep : Nat) : Int × Int :=
  let sh : Int := (rep : Int) * d.s 5
  (d.offset (r.1 + sh), d.offset (r.2 - 1 + sh) + fmtUnit d.fmt)

/-- The extent of one repetition, as window offsets [lo, hi) (R183). -/
def Slot.extentRep (d : Slot) (rep : Nat) : Int × Int := d.offsets d.posRange rep

/-- The extent of repetitions 0 to `reps` of a range of positions. -/
def Slot.spanOf (d : Slot) (r : Int × Int) (reps : Nat) : Int × Int :=
  (min (d.offsets r 0).1 (d.offsets r reps).1, max (d.offsets r 0).2 (d.offsets r reps).2)

/-- The extent of repetitions 0 to `reps` (R70, R183). -/
def Slot.span (d : Slot) (reps : Nat) : Int × Int := d.spanOf d.posRange reps

/-- V, the bytes a repetition touches (R196). -/
def Slot.bytes (d : Slot) : Nat := ((d.extentRep 0).2 - (d.extentRep 0).1).toNat

/-! ### One ascending contiguous run (R196) -/

/-- The residues modulo `q` that adding `s` up to `n` times reaches from a set. -/
def stepResidues (q : Nat) (s : Int) : Nat → List Nat → List Nat
  | 0, xs => xs
  | n + 1, xs =>
    stepResidues q s n (xs.foldl (fun (a : List Nat) (x : Nat) => sins a (((x : Int) + s) % (q : Int)).toNat) xs)

/-- Whether going from the last position of an inner block, `m` past its start, to the start of the next, `s` past it,
keeps the storage unit or moves it on by one, from every start in `xs`. -/
def stepsOk (q : Nat) (s m : Int) (xs : List Nat) : Bool :=
  xs.all (fun x =>
    let d : Int := ((x : Int) + s) / q - ((x : Int) + m) / q
    d == 0 || d == 1)

/-- The levels of a linear stream, outermost first, each joining its blocks without a gap: the starts reachable at a
level, the levels below it (outermost first), and the offset of the last position of the block inside it. -/
def runLevels (d : Slot) (q : Nat) : Nat → List Nat → Bool
  | 0, _ => true
  | l + 1, xs =>
    let s := d.s l
    let m : Int := (List.range l).foldl (fun a k => a + ((d.c k : Int) - 1) * d.s k) 0
    let ok := d.c l == 1 || stepsOk q s m (stepResidues q s (min (d.c l - 2) q) xs)
    ok && runLevels d q l (stepResidues q s (min (d.c l - 1) q) xs)

/-- The extent of a slot is one ascending contiguous run in iteration order (R196). -/
def Slot.isRun (d : Slot) : Bool :=
  if d.blocked then
    let e := d.elems
    decide (d.pos 0 0 = d.posRange.1) && decide (d.pos 0 (e - 1) = d.posRange.2 - 1) &&
      forRange 0 (e - 1) (fun i ok => ok && (let x := d.pos 0 (i + 1) - d.pos 0 i; x == 0 || x == 1)) true
  else runLevels d (fmtPack d.fmt) 6 [0]

/-- A dense operand that ends at its highest position: its elements fill their positions without a gap. -/
def Slot.dense (d : Slot) : Bool :=
  decide (d.posRange.2 - d.posRange.1 = d.elems) && decide (d.pos 0 (d.elems - 1) = d.posRange.2 - 1)

/-! ### Where a slot's memory lies (R49, R186, R195) -/

/-- The kinds of slot memory of R195's table. -/
inductive SlotMem where
  | ownMat | matSameDie | matOtherDie | towerNear | towerFar | interleaved | host | regs
deriving DecidableEq, Repr

/-- The device address at which a slot's extent of repetition `rep` begins. -/
def Slot.startAt (d : Slot) (rep : Nat) : Nat := (d.wbase + (d.extentRep rep).1.toNat) % 2 ^ 40

/-- The kind of memory that an address lies in, for a frond of region `r`. -/
def memKind (s : State) (r a : Nat) : SlotMem :=
  match resolve s a with
  | .mat m _ => if m = r then .ownMat else if m / 4 = r / 4 then .matSameDie else .matOtherDie
  | .hbm h => if h < interleavedEnd s then .interleaved
              else if (towerOf s h).1 / 4 = r / 4 then .towerNear else .towerFar
  | .host _ _ => .host
  | .reg _ => .regs
  | .unmapped => .regs

/-- The kind of memory a slot's extent lies in, for a frond of region `r`. -/
def slotMem (s : State) (r : Nat) (d : Slot) (rep : Nat) : SlotMem := memKind s r (d.startAt rep)

def SlotMem.tower : SlotMem → Bool
  | .towerNear => true | .towerFar => true | .interleaved => true | _ => false

/-- Whether traffic with an address crosses the die bridge (R49). -/
def crossesAt (s : State) (r a : Nat) : Bool :=
  match memKind s r a with
  | .matOtherDie => true
  | .towerFar => true
  | .interleaved => true
  | .host => (match resolve s a with | .host p _ => p != r / 4 | _ => false)
  | _ => false

/-- Whether a slot's traffic crosses the die bridge (R49). -/
def crosses (s : State) (r : Nat) (d : Slot) (rep : Nat) : Bool := crossesAt s r (d.startAt rep)

/-- F_s of R195. -/
def fillTerm (m : SlotMem) (dest : Bool) : Nat :=
  match m with
  | .ownMat => 0
  | .matSameDie => 8
  | .matOtherDie => 32
  | .towerNear => if dest then 48 else 96
  | .towerFar => if dest then 72 else 120
  | .interleaved => if dest then 72 else 120
  | .host => if dest then 200 else 800
  | .regs => 0

/-- Z_s of R196, for a channel of `a` bytes per work beat; `window` says that the slot is named through a tower-local
window. -/
def sizeTerm (m : SlotMem) (window run : Bool) (v a : Nat) : Nat :=
  match m with
  | .interleaved => if run then ceilDiv (32768 * (ceilDiv v 32768 + 1)) a else ceilDiv (24 * v) a
  | .towerNear => if run && window then ceilDiv (8 * v) a else ceilDiv (24 * v) a
  | .towerFar => if run && window then ceilDiv (8 * v) a else ceilDiv (24 * v) a
  | .host => ceilDiv v 24
  | _ => 0

/-- Whether an address lies in a tower-local window (R29). -/
def viaWindow (a : Nat) : Bool := decide (0xC000000000 ≤ a)

/-- The end of the mapped stretch of the address map (R29, R30, R33) that holds an address; nothing for an address that
decodes to no target. -/
def stretchEnd (s : State) (a : Nat) : Option Nat :=
  if a < 0x6000000000 then some 0x6000000000
  else if 0x8000000000 ≤ a ∧ a < 0x8010000000 then some 0x8010000000
  else if 0xA000000000 ≤ a ∧ a < 0xC000000000 then some 0xC000000000
  else if 0xC000000000 ≤ a ∧ a < 0x10000000000 then
    let w := (a - 0xC000000000) / 0x800000000
    let e := 0xC000000000 + w * 0x800000000 + localGib s * gib
    if a < e then some e else none
  else
    match [(0, 0x90000), (0x100000, 0x220000), (0x300000, 0x380000), (0x1000000, 0x2000000)].find?
        (fun (lo, hi) => decide (0x9000000000 + lo ≤ a) && decide (a < 0x9000000000 + hi)) with
    | some (_, hi) => some (0x9000000000 + hi)
    | none => none

/-- The first address of [a, e) that decodes to no target, if there is one; the last argument bounds the stretches. -/
def firstUnmapped (s : State) (e : Nat) : Nat → Nat → Option Nat
  | 0, _ => none
  | n + 1, a =>
    if e ≤ a then none
    else
      match stretchEnd s a with
      | none => some a
      | some b => firstUnmapped s e n b

/-- The first address of [a, a + n) that decodes to no target (R32). -/
def badAddress (s : State) (a n : Nat) : Option Nat := firstUnmapped s (a + n) 40 a

/-- Every byte of [a, a + n) decodes to a target (R32). -/
def extentMapped (s : State) (a n : Nat) : Bool := (badAddress s a n).isNone

/-- The absolute extent of a slot over repetitions 0 to `reps`, with a window address replaced by its HBM alias, for
overlap tests (R212): [lo, hi). -/
def absExtent (s : State) (d : Slot) (span : Int × Int) : Nat × Nat :=
  let lo := (d.wbase + span.1.toNat) % 2 ^ 40
  let n := (span.2 - span.1).toNat
  match resolve s lo with
  | .hbm h => (h, h + n)
  | _ => (lo, lo + n)

/-- Two extents share a byte (R212). -/
def overlaps (x y : Nat × Nat) : Bool := decide (x.1 < y.2) && decide (y.1 < x.2)

end Sys2Proof.Machine
end

