-- ==== Sys2Proof/Machine/Tables.lean ====
section
/-! DEFINITION. The tables of protected tensors (R400, R401), and what the release of an epoch copy does to them (R401,
R410, R418, R421). -/

namespace Sys2Proof.Machine
open Sys2Proof

/-! ### Tables (R400, R401) -/

def ptClass (s : State) (i : Nat) : Nat := regF s (rPtCfg i) 28 2
def ptCold (s : State) (i : Nat) : Bool := regB s (rPtCfg i) 30
def ptDirty (s : State) (i : Nat) : Bool := regB s (rPtCfg i) 31
def ptSize (s : State) (i : Nat) : Nat := regF s (rPtCfg i) 0 28 * 4096
def ptBase (s : State) (i : Nat) : Nat := (reg s (rPtBase i)).toNat
def ptSpan (s : State) (i : Nat) : Nat × Nat := (ptBase s i, ptBase s i + ptSize s i)
def qtClass (s : State) (i : Nat) : Nat := regF s (rQtCfg i) 28 2
def qtSize (s : State) (i : Nat) : Nat := regF s (rQtCfg i) 0 28 * 4096
def qtSpan (s : State) (i : Nat) : Nat × Nat := ((reg s (rQtBase i)).toNat, (reg s (rQtBase i)).toNat + qtSize s i)

/-- A mirror entry is treated as cold: class COLD, or AUTO with a cold effective class. -/
def qtCold (s : State) (i : Nat) : Bool := qtClass s i == 2 || (qtClass s i == 3 && regB s (rQtCfg i) 30)

/-! ### Epochs (R410, R421) -/

/-- The half of every area that a snapshot writes, and the half that holds the valid epoch. -/
def nextHalf (s : State) : Nat := regF s rEpoch 0 32 % 2
def validHalf (s : State) : Nat := (regF s rEpoch 0 32 + 1) % 2

/-- The effective class of an AUTO tensor at a snapshot: cold when it is large and seldom written (R401). -/
def autoCold (s : State) (i : Nat) : Bool :=
  decide ((reg s rColdBytes).toNat < ptSize s i) &&
  decide (regF s (rPtCfg i) 32 32 * 65536 < regF s rColdFraction 0 16 * (reg s rFailStep).toNat)

/-- A snapshot is released: SEQ moves on, the valid epoch is this step's, DIRTY is cleared on both sides, AUTO classes are
judged anew, and a background fill under way starts again (R401, R403, R410, R418). -/
def snapshotDone (s : State) : State :=
  let s1 := setF (setF s rEpoch 0 32 (countAdd (regF s rEpoch 0 32) 1)) rEpoch 32 32 ((reg s rFailStep).toNat % 2 ^ 32)
  let s2 := forRange 0 256 (fun i x =>
    let y := setB (setB x (rPtCfg i) 31 false) (rQtCfg i) 31 false
    if ptClass y i = 3 then setB y (rPtCfg i) 30 (autoCold y i) else y) { s1 with fail := { s1.fail with unprot := [] } }
  if regB s2 rGemma 32 && !regB s2 rGemma 33 then logEv s2 0x4012 0x00 0 (payDefault 0 0 (regF s2 rGemma 0 32)) else s2

/-- A restore is released: FAIL.STEP is the epoch's step (R421). -/
def restoreDone (s : State) : State :=
  let s1 := setReg s rFailStep (BitVec.ofNat 64 (regF s rEpoch 32 32))
  { s1 with fail := { s1.fail with restored := true } }

end Sys2Proof.Machine
end

