-- ==== Sys2Proof/Machine/Fronds.lean ====
section
/-! DEFINITION. Fronds in the sequencer: finding them, their status (R83, R84), tokens (R78–R80), what poisons and
clears their destinations (R91), the completion record (R85–R87) and the release (R52–R56, R74). -/

namespace Sys2Proof.Machine
open Sys2Proof

/-! ### Finding and replacing -/

/-- Whether a frond is the one a command names. -/
def Frond.is (f : Frond) (r q k : Nat) : Bool := f.region == r && f.queue == q && f.idx == k

/-- The frond that a command names, if it is decoded and not released. -/
def findFrond (s : State) (x : FrondRef) : Option Frond :=
  s.fronds.find? (fun f => f.is x.region.val x.queue.val x.idx.toNat)

/-- The state with one frond's record replaced. -/
def putFrond (s : State) (f : Frond) : State :=
  { s with fronds := s.fronds.map (fun g => if g.is f.region f.queue f.idx then f else g) }

/-- The state without a frond. -/
def dropFrond (s : State) (f : Frond) : State :=
  { s with fronds := s.fronds.filter (fun g => !g.is f.region f.queue f.idx) }

/-- Accepted and not released. -/
def Frond.live (f : Frond) : Bool := f.phase != .decoded

/-- The accepted, unreleased fronds of a region. -/
def liveOf (s : State) (r : Nat) : List Frond := s.fronds.filter (fun f => f.region == r && f.live)

/-- SEQ.DECODE.DECODED: decoded fronds of a region not yet released (R100). -/
def decodedCount (s : State) (r : Nat) : Nat := (s.fronds.filter (fun f => f.region == r)).length

/-- Whether every region's SEQ.DECODE.DECODED is 0. -/
def allIdle (s : State) : Bool := s.fronds.isEmpty

/-! ### Stopping points (R88, R323) -/

/-- Bits set in the low `n` bits of a number. -/
def popcount : Nat → Nat → Nat
  | 0, _ => 0
  | n + 1, x => x % 2 + popcount n (x / 2)

/-- The progress units that a STOPPABLE abort leaves whole: a unit group, or a round of output tiles. -/
def stopSpan (f : Frond) : Nat :=
  if f.group = 0 ∧ [0x200, 0x201, 0x202, 0x210].contains (opcodeOf f) = true then max 1 (popcount 6 (parF f 0 0 6))
  else 2 ^ f.group

/-- The frond stands within such a span. -/
def midSpan (f : Frond) : Bool := !f.worked && f.unit % stopSpan f != 0

/-! ### Status (R83, R84) -/

def statusCode : Status → Nat
  | .done => 0x00 | .doneRecomputed => 0x01 | .donePoisoned => 0x02 | .aborted => 0x08 | .abortLate => 0x09
  | .skipIllegal => 0x10 | .skipShape => 0x11 | .skipBudget => 0x12 | .skipKeyset => 0x13 | .skipOverlap => 0x14
  | .skipBound => 0x15 | .skipScale => 0x16 | .skipDomain => 0x17 | .skipParam => 0x18 | .notAccepted => 0x20
  | .handoffTimeout => 0x30 | .fault => 0x40 | .hostFault => 0x41

/-- The place of a status in the order of R84; the lowest applies. -/
def statusRank : Status → Nat
  | .fault => 1 | .hostFault => 2 | .handoffTimeout => 3 | .aborted => 5 | .donePoisoned => 6 | .abortLate => 7
  | .doneRecomputed => 8 | .done => 9
  | _ => 4

/-- A status that R89 gives a frond whose check failed. -/
def Status.isSkip (x : Status) : Bool := statusRank x == 4 && x != .notAccepted

/-- The first of two statuses in the order of R84; between two skips the one already there stays. -/
def worse (a : Option Status) (b : Status) : Option Status :=
  match a with
  | none => some b
  | some x => if statusRank b < statusRank x then some b else some x

/-- The status that the record carries (R84). -/
def finalStatus (f : Frond) : Status :=
  match f.skip with
  | some x => x
  | none =>
    if f.abort then .aborted else if f.poisoned then .donePoisoned else if f.late then .abortLate
    else if f.recomputed then .doneRecomputed else .done

/-- DONE, DONE_RECOMPUTED and ABORT_LATE: the statuses whose whole writes clear poison (R91). -/
def Status.good (x : Status) : Bool := x == .done || x == .doneRecomputed || x == .abortLate

/-- The statuses that poison every destination (R91). -/
def Status.poisons (x : Status) : Bool :=
  x == .fault || x == .hostFault || x == .handoffTimeout || x == .donePoisoned || x.isSkip || x == .notAccepted

/-! ### Tokens (R78, R79) -/

/-- The register of the counter a token word names for a frond of region `r`; nothing for a region index past 255. -/
def tokReg (r : Nat) (t : TokWord) : Option Nat :=
  if t.global then some (rGtok t.index) else if t.index < 256 then some (rTok r t.index) else none

/-- The amounts that the waits of a frond ask of each counter. -/
def tokNeeds (r : Nat) (ts : List TokWord) : List (Nat × Nat) :=
  ts.foldl (fun a t => match tokReg r t with
    | some o => aset a o (agetN a o + t.count)
    | none => a) []

/-- Every wait of a frond is satisfied (R78). -/
def waitsMet (s : State) (f : Frond) : Bool :=
  (tokNeeds f.region (waitsOf f)).all (fun p => decide (p.2 ≤ regF s p.1 0 16))

/-- The waits of a frond subtract (R78). -/
def consumeWaits (s : State) (f : Frond) : State :=
  (tokNeeds f.region (waitsOf f)).foldl (fun x p => setF x p.1 0 16 (regF x p.1 0 16 - p.2)) s

/-- What signals have added to a counter on beat `b`: no wait sees it before the next work beat (R78). -/
def freshSignal (s : State) (o b : Nat) : Nat :=
  match aget s.lastSignal o with
  | some (x, n) => if x = b then n else 0
  | none => 0

def noteSignal (s : State) (o n : Nat) : State :=
  { s with lastSignal := aset s.lastSignal o (beat s, freshSignal s o (beat s) + n) }

/-- Every wait of a frond is satisfied on beat `b` (R78). -/
def waitsSeen (s : State) (f : Frond) (b : Nat) : Bool :=
  (tokNeeds f.region (waitsOf f)).all (fun p => decide (p.2 ≤ regF s p.1 0 16 - freshSignal s p.1 b))

/-- A signal: the sum saturates at 65,535, with TOKEN_SATURATED (R78). A global counter belongs to no region, so the
event names the chip. -/
def signal (s : State) (r : Nat) (t : TokWord) : State :=
  match tokReg r t with
  | none => s
  | some o =>
    let n := regF s o 0 16 + t.count
    let s1 := noteSignal (setF s o 0 16 (min n 65535)) o (min n 65535 - regF s o 0 16)
    if n > 65535 then
      (if t.global then logChip s1 0x1030 (payDefault 0 0 (absReg o)) else logQueue s1 0x1030 r (payDefault 0 0 (absReg o)))
    else s1

/-- The signals of a frond take effect on the present beat. -/
def applySignals (s : State) (f : Frond) : State := (signalsOf f).foldl (fun x t => signal x f.region t) s

/-! ### Events about a frond -/

/-- An event about a frond: the sequencer of its region is the source (R434). -/
def logFrondAt (s : State) (f : Frond) (b code pay : Nat) : State :=
  logEntry s { beat := b, code := code, cls := 0x01, idx := srcUnit f.region 0, seqv := true, queue := f.queue,
               lost := false, coal := 0, seqno := seqnoOf f, pay := pay }

def logFrond (s : State) (f : Frond) (code pay : Nat) : State := logFrondAt s f (beat s) code pay

/-- An event that names a unit of a frond's region and carries the frond. -/
def logUnit (s : State) (f : Frond) (code cls idx pay : Nat) : State :=
  logEntry s { beat := beat s, code := code, cls := cls, idx := idx, seqv := true, queue := f.queue,
               lost := false, coal := 0, seqno := seqnoOf f, pay := pay }

/-! ### Pending tiles (R143–R145) -/

def rTileStatOf (k : Nat) : Nat := rTileStat (k / 256) (k / 64 % 4) (k % 64)
def rTileShapeOf (k : Nat) : Nat := rTileShape (k / 256) (k / 64 % 4) (k % 64)

/-- A later frond that names a tile of this one has waited for its page (R144). -/
def waitedOn (f g : Frond) : Bool :=
  g.live && !g.worked && !g.noWork && decide (f.order < g.order) && f.tiles.any (fun k => g.tiles.contains k) &&
    !g.causes.contains 5

/-- The held load or store of a tile ends: PENDING is cleared, and fronds that waited for it have cause PAGE. -/
def unpend (s : State) (f : Frond) : State :=
  if f.pend = 0 then s
  else
    let s1 := f.tiles.foldl (fun x k => setB x (rTileStatOf k) 8 false) s
    { s1 with fronds := s1.fronds.map (fun g => if waitedOn f g then { g with causes := g.causes ++ [5] } else g) }

/-- A tile load or store is held mid-way at the row in hand: NEXT_ROW and PENDING are set. -/
def pendAt (s : State) (f : Frond) : State :=
  let s1 := f.tiles.foldl (fun x k => setB (setF x (rTileStatOf k) 0 8 f.unit) (rTileStatOf k) 8 true) s
  putFrond s1 { f with pend := 1 }

/-! ### Engines' STAT registers (R220, R245, R271, R272, R324, R347, R202) -/

/-- The STAT register of an engine. -/
def statReg (e : Nat) : Option Nat :=
  let r := e / 64
  let k := e % 64
  if k < 6 then some (rMb r k 0) else if k < 10 then some (rVb r (k - 6) 0) else if k < 14 then some (rPb r (k - 10) 0)
  else if k = 14 then some (rPeri r 0) else if k = 15 then some (rCpy r 0) else if k = 16 then some (rTow r 0xF0)
  else if k < 49 then some (rChstat r (k - 17)) else none

/-- The OPCODE and SEQNO fields of a frond in a STAT word; a channel's has no OPCODE. -/
def statWord (w : Word) (e : Nat) (f : Frond) : Word :=
  let v := putFld w 32 32 (seqnoOf f)
  if 17 ≤ e % 64 then v else putFld v 12 12 (opcodeOf f)

/-- A released frond is the last that its engines served. -/
def noteServed (s : State) (f : Frond) : State :=
  f.engines.foldl (fun x e => match statReg e with
    | some o => setReg x o (statWord (reg x o) e f)
    | none => x) s

/-! ### Poison of destinations (R91, R142) -/

/-- The bytes of one destination unit, within the task window, poisoned. -/
def poisonUnit (s : State) (d : Slot) (p : Int) : State :=
  let o := d.offset p
  forRange 0 (fmtUnit d.fmt) (fun i x =>
    if 0 ≤ o + i ∧ o + i < d.bound then poisonAt x ((d.wbase + (o + i).toNat) % 2 ^ 40) else x) s

/-- Every element of destination slot `i`, over every repetition, poisoned. -/
def poisonSlot (s : State) (f : Frond) (i : Nat) : State :=
  let d := slotOf f i
  if d.empty then s
  else forRange 0 (repeatOf f + 1) (fun r x => forRange 0 (destElems f i) (fun e y => poisonUnit y d (destPos f i r e)) x) s

/-- A tile's poison bit (R142). -/
def poisonTile (s : State) (k : Nat) (b : Bool) : State := setB s (rTileStatOf k) 9 b

/-- A destination descriptor's poison flag set: bit 7 of byte 1 of a CTD (R230) and of an LWD (R274). -/
def poisonCtd (s : State) (d : Slot) : State :=
  let a := (d.wbase + d.base + 1) % 2 ^ 40
  if d.empty ∨ d.bound < d.base + 64 then s
  else putByte s a (byteAt s a ||| 0x80)

/-- The tiles that a frond with a poisoning status poisons (R140, R142): none for SKIP_ILLEGAL or a skipped TILE_SHAPE,
TILE_SAVE or TILE_RESTORE; of a TILE_RESTORE that stops part way the tile in progress alone. -/
def tilesPoisoned (f : Frond) (x : Status) : List Nat :=
  let o := opcodeOf f
  if x == .skipIllegal || (x.isSkip && (o == 0x330 || o == 0x333 || o == 0x334)) then []
  else if o == 0x334 && x != .donePoisoned then (f.dtiles.drop f.unit).take 1
  else f.dtiles

/-- All destinations of a frond poisoned (R91, R142, R231). Of a circular destination, whose lines come from the
region's pointers, the lines written are (log entry 64). -/
def poisonDests (s : State) (f : Frond) (x : Status) : State :=
  let s1 := f.dests.foldl (fun y i =>
    if (slotOf f i).circ then f.wroteLines.foldl poisonLine y else poisonSlot y f i) s
  let s2 := f.dctds.foldl (fun y i => poisonCtd y (slotOf f i)) s1
  let s3 := f.scratch.foldl (fun y p => forRange 0 (ceilDiv p.2 32) (fun i z => poisonAt z ((p.1 + 32 * i) % 2 ^ 40)) y) s2
  (tilesPoisoned f x).foldl (fun y k => poisonTile y k true) s3

/-- The mat lines, granules and tiles that the frond has written, poisoned (R91's row on aborted fronds); of a frond
whose results descriptors describe, those descriptors' flags alone (R231, log entry 95). -/
def poisonWritten (s : State) (f : Frond) : State :=
  if !f.dctds.isEmpty then f.dctds.foldl (fun y i => poisonCtd y (slotOf f i)) s
  else
  let s1 := f.wroteLines.foldl poisonLine s
  let s2 := f.wroteGrans.foldl poisonGranule s1
  f.wroteTiles.foldl (fun x k => poisonTile x k true) s2

/-- Whether the elements of destination slot `i`, over every repetition, include the byte with a memory key. -/
def slotHas (s : State) (f : Frond) (i key : Nat) : Bool :=
  let d := slotOf f i
  !d.empty && forRange 0 (repeatOf f + 1) (fun r a => a || forRange 0 (destElems f i) (fun e b =>
    b || (match memKey s (resolve s (d.addr (destPos f i r e))) with
      | some k => decide (k ≤ key) && decide (key < k + fmtUnit d.fmt)
      | none => false)) false) false

/-- The frond has written every byte of [key, key + n). -/
def wroteAll (s : State) (f : Frond) (key n : Nat) : Bool :=
  forRange 0 n (fun i a => a &&
    (f.wroteSpans.any (fun w => decide (w.1 ≤ key + i) && decide (key + i < w.1 + w.2)) ||
     f.dests.any (fun d => slotHas s f d (key + i)))) true

/-- Lines, granules and tiles that a frond completing well has written whole are no longer poisoned (R91, R142, R161,
R170). -/
def clearWhole (s : State) (f : Frond) : State :=
  let s1 := f.wroteLines.foldl (fun x l =>
    if smem x.matPoison l && wroteAll x f (0x8000000000 + l * 64) 64 then clearLine x l else x) s
  let s2 := if opcodeOf f == 0x334 || f.skip.isSome || f.noWork then s1
    else f.dtiles.foldl (fun x k => if f.wroteTiles.contains k && !f.holes.contains k then poisonTile x k false else x) s1
  f.wroteGrans.foldl (fun x g =>
    if smem x.towPoison g && wroteAll x f (hbmOf x (g / 2 ^ 24) (g % 2 ^ 24 * 4096)) 4096 then clearGranule x g
    else x) s2

/-- What a frond's final status does to the poison of its destinations. -/
def settlePoison (s : State) (f : Frond) : State :=
  let st := finalStatus f
  if st.poisons then poisonDests s f st
  else if st == .aborted && f.poisoned then poisonWritten s f
  else if st.good then clearWhole s f
  else s

/-! ### The completion record (R85–R87) -/

/-- UNITS and REPS (R85, R87, R88): after all repetitions 0 and REPEAT + 1. -/
def progressOf (f : Frond) : Nat × Nat :=
  if f.noWork then (0, 0)
  else if f.worked then (0, repeatOf f + 1)
  else (f.unit / 2 ^ f.group, f.rep)

/-- The frond is released after P (R56). A barrier and its kind carry the beat they were given (R73). -/
def isLate (f : Frond) (b : Nat) : Bool := f.wake.isNone && decide (f.prom < b)

/-- The miss cause recorded (R56, R197, R387): the lowest of the codes that apply, 0x9 and 0 last. -/
def missCause (f : Frond) : Nat :=
  match (f.causes.filter (· != 0)).foldl (fun (a : Option Nat) c => some (match a with | some x => min x c | none => c)) none with
  | some c => c
  | none => 0

/-- FLAGS of the record. -/
def recFlags (f : Frond) (late : Bool) : Nat :=
  b2n f.clamped + b2n late <<< 1 + b2n f.nonrep <<< 2 + b2n f.recomputed <<< 3

/-- The 32 bytes of the record (R85). -/
def recordBits (f : Frond) (b k log2 : Nat) : Nat :=
  let late := isLate f b
  let pr := progressOf f
  seqnoOf f + statusCode (finalStatus f) <<< 32 + recFlags f late <<< 40 + (f.aflags % 65536) <<< 48 +
  (f.wake.getD f.prom % 2 ^ 64) <<< 64 + (b % 2 ^ 64) <<< 128 +
  pr.1 <<< 192 + pr.2 <<< 208 + (opcodeOf f + f.queue <<< 12) <<< 224 +
  (taskOf f + f.region <<< 4 + b2n (!nbit k log2) <<< 7) <<< 240 +
  ((if late then missCause f else 0) + f.group <<< 4) <<< 248

/-- Whether a record is due for a QUIET frond's outcome (R67). -/
def recordDue (f : Frond) (b : Nat) : Bool :=
  !quiet f || !(finalStatus f == .done || finalStatus f == .doneRecomputed) || f.clamped || f.nonrep || isLate f b

/-- A port's window can be used: the link is up and the host has enabled bus mastering and ATS (R482, R486). -/
def hostUsable (s : State) (p : Nat) : Bool :=
  regB s (rPcieStat p) 0 && regB s (rPcieStat p) 11 && regB s (rPcieStat p) 12

/-- Episode keys (R87). -/
def epKey (r q kind : Nat) : Nat := r * 16 + q * 4 + kind
def openEp (s : State) (k : Nat) : State := { s with episodes := sins s.episodes k }
def closeEp (s : State) (k : Nat) : State := { s with episodes := sdel s.episodes k }

/-- An event logged once per episode. -/
def oncePer (s : State) (k : Nat) (ev : State → State) : State :=
  if smem s.episodes k then s else openEp (ev s) k

/-- The completion ring of a queue has no room for a record, in BLOCK mode (R87). -/
def ringBlocked (s : State) (r q : Nat) : Bool :=
  let n := 2 ^ regF s (rCrcfg r q) 0 5
  countGap (regF s (rCrtail r q) 0 32) (regF s (rCrhead r q) 0 32) == n && regF s (rQctrl r q) 2 1 == 0

/-- Record `k` of a queue is written, or dropped where its entry cannot be written (R77, R86, R486). -/
def storeRecord (s : State) (f : Frond) (bits : Nat) : State :=
  let r := f.region
  let q := f.queue
  let k := regF s (rCrhead r q) 0 32
  let log2 := regF s (rCrcfg r q) 0 5
  let a := (reg s (rCrbase r q)).toNat + 32 * (k % 2 ^ log2)
  let wr (x : State) : State := closeEp (putBytes x a (leBytes 32 bits)) (epKey r q 2)
  let s1 := match resolve s a with
    | .hbm _ => wr s
    | .host p _ =>
      if hostUsable s p then wr s
      else oncePer s (epKey r q 3) (fun x => logQueue x 0x8006 r (payDefault 0 0 a))
    | _ => oncePer s (epKey r q 2) (fun x => logQueue x 0x1036 r (payDefault 0 0 a))
  setF s1 (rCrhead r q) 0 32 (countAdd k 1)

/-- A record is put in its ring: over the oldest unconsumed one when the ring is full in OVERWRITE mode (R87). -/
def writeRecord (s : State) (f : Frond) (b : Nat) : State :=
  let r := f.region
  let q := f.queue
  let k := regF s (rCrhead r q) 0 32
  let t := regF s (rCrtail r q) 0 32
  let log2 := regF s (rCrcfg r q) 0 5
  let full := countGap t k == 2 ^ log2
  let s1 :=
    if full then
      let x := setF (setF s (rCrtail r q) 0 32 (countAdd t 1)) (rCrcfg r q) 32 32
        (satAdd 32 (regF s (rCrcfg r q) 32 32) 1)
      oncePer x (epKey r q 1) (fun y => logQueue y 0x1033 r (payDefault 0 0 (absReg (rCrbase r q))))
    else closeEp s (epKey r q 1)
  storeRecord s1 f (recordBits f b k log2)

/-! ### Release (R52–R56, R74, R78, R80, R481) -/

/-- A frond released after P: PROMISE_MISS, counted unless its promise was suspended (R45, R56). -/
def noteMiss (s : State) (f : Frond) (b : Nat) : State :=
  if isLate f b then
    let s1 := logFrondAt s f b 0x1020
      (f.prom % 2 ^ 64 + missCause f <<< 64 + opcodeOf f <<< 72)
    if f.suspended then s1
    else
      let s2 := bump s1 rMissCnt 1
      if regB s2 rBeatCtrl 2 then raiseIrq s2 33 else s2
  else s

/-- QHEADq moves past the released prefix of its queue (R74). The second argument bounds the fronds passed. -/
def advanceHead (s : State) (r q : Nat) : Nat → State
  | 0 => s
  | n + 1 =>
    let h := regF s (rQhead r q) 0 32
    if s.ahead.contains (r, q, h) then
      advanceHead (setF { s with ahead := s.ahead.filter (· != (r, q, h)) } (rQhead r q) 0 32 (countAdd h 1)) r q n
    else s

/-- The run of a queue's program image has ended when its last frond is released: the next run starts, or the image
is done (R98). -/
def imageStep (s : State) (r q : Nat) : State :=
  match s.images.find? (fun i => i.region == r && i.queue == q) with
  | none => s
  | some i =>
    if regF s (rQhead r q) 0 32 == countAdd i.base i.count then
      let rest := s.images.filter (fun j => !(j.region == r && j.queue == q))
      if i.runs > 0 then
        let b := regF s (rQhead r q) 0 32
        setF { s with images := rest ++ [{ i with base := b, runs := i.runs - 1 }] } (rQtail r q) 0 32 (countAdd b i.count)
      else
        logQueue (setB { s with images := rest } (rQctrl r q) 0 false) 0x1041 r (payDefault 0 0 (absReg (rQctrl r q)))
    else s

/-- The shapes in force of a V-block, as its live bits (R138). -/
def liveBits (s : State) (r v : Nat) : Nat :=
  forRange 0 64 (fun k a => if regF s (rTileShape r v k) 24 8 == 0 then a else a + 2 ^ k) 0

/-- TILE_SHAPE and TILE_RESTORE at their release: TILE_LIVE and the projected state take the shapes in force
(R128, R138). -/
def tileRelease (s : State) (f : Frond) : State :=
  if opcodeOf f == 0x330 || opcodeOf f == 0x334 then
    let v := parF f 0 0 2
    let r := f.region
    let s1 := setReg s (rTileLive r v) (BitVec.ofNat 64 (liveBits s r v))
    if f.worked then s1
    else { s1 with proj := forRange 0 64 (fun k m => mset (fun _ => 0) m ((r * 4 + v) * 64 + k) (reg s1 (rTileShape r v k))) s1.proj }
  else s

/-- What the release of a frond of class 0xD does: an epoch copy that has done its work, and a COMMIT, after which the
step's replay list is empty (R405, R407, R410, R421). -/
def failRelease (s : State) (f : Frond) : State :=
  let good := finalStatus f == .done || finalStatus f == .doneRecomputed || finalStatus f == .abortLate || finalStatus f == .donePoisoned
  if opcodeOf f == 0xD01 && good then (if parF f 0 0 2 = 0 then snapshotDone s else restoreDone s)
  else if opcodeOf f == 0xD03 && parF f 0 0 2 == 0 && f.skip.isNone then
    { s with fail := { s.fail with replay := [], redo := [], drops := [], commitStep := some (reg s rFailStep).toNat },
             links := { s.links with tees := s.links.tees.filter (fun t => !t.done || t.pending != 0) },
             fronds := s.fronds.map (fun g => if opcodeOf g == 0xD00 && g.live && g.wake.isNone then { g with wake := some 0 } else g) }
  else s

/-- An earlier frond of the queue waits for room in the completion ring. -/
def heldBefore (s : State) (f : Frond) : Bool :=
  s.fronds.any (fun g => g.region == f.region && g.queue == f.queue && g.phase == .finished && g.held &&
    !g.is f.region f.queue f.idx)

/-- A switching frond released DONE or DONE_RECOMPUTED counts in KS_CNT (R271). -/
def countSwitch (s : State) (f : Frond) : State :=
  if opcodeOf f / 256 == 9 && (finalStatus f == .done || finalStatus f == .doneRecomputed) then bump s (rPeri f.region 0x10) 1
  else s

/-- A frond whose work has ended is released on beat `b`, the present one: its miss, its destinations' poison, its
signals, its record, its interrupt, the queue's head. -/
def releaseNow (s : State) (f : Frond) (b : Nat) : State :=
  let s1 := noteServed (unpend (settlePoison (noteMiss (countSwitch s f) f b) f) f) f
  let s2 := applySignals (failRelease (tileRelease s1 f) f) f
  let s3 := if recordDue f b then writeRecord s2 f b else s2
  let s4 := if wantsIrq f then raiseIrq s3 (f.region * 4 + f.queue) else s3
  let s5 := dropFrond s4 f
  let s6 := advanceHead { s5 with ahead := s5.ahead ++ [(f.region, f.queue, f.idx)] } f.region f.queue
    (s5.ahead.length + 1)
  imageStep s6 f.region f.queue

/-- The release of a frond: held while its record finds no room, or behind a held release of its queue (R87). Held
fronds stand in the order in which their releases fell due. -/
def release (s : State) (f : Frond) : State :=
  let b := beat s
  if heldBefore s f || (recordDue f b && ringBlocked s f.region f.queue) then
    let g := { f with phase := .finished, held := true, causes := f.causes ++ [7] }
    let moved := dropFrond s f
    oncePer { moved with fronds := moved.fronds ++ [g] } (epKey f.region f.queue 0)
      (fun x => logQueue x 0x1032 f.region (payDefault 0 0 (absReg (rCrbase f.region f.queue))))
  else releaseNow s f b

/-- Held releases of a queue proceed, in order, while there is room (R87). The last argument bounds their number. -/
def releaseHeld (s : State) (r q : Nat) : Nat → State
  | 0 => s
  | n + 1 =>
    match s.fronds.find? (fun g => g.region == r && g.queue == q && g.phase == .finished && g.held) with
    | none => s
    | some f =>
      if recordDue f (beat s) && ringBlocked s r q then s
      else releaseHeld (releaseNow (closeEp s (epKey r q 0)) { f with held := false } (beat s)) r q n

end Sys2Proof.Machine
end

