-- ==== Sys2Proof/WellFormed.lean ====
section
/-! DEFINITION. Which commands can reach the block: the operand ranges that the types of `Instr` do not already
fix (R35, R373, R477, R480, R483, R490). -/

namespace Sys2Proof

/-- A payload of a link packet is a multiple of 32 bytes, at most 512 (R373). -/
def payloadOk (n : Nat) : Bool := n % 32 == 0 && decide (n ≤ 512)

/-- The content of a packet fits the header's TYPE and LEN (R373, R374). -/
def bodyFits (h : LinkHdr) : Body → Bool
  | .idle => h.type == 0 && h.len == 0
  | .bytes d => [1, 5, 0x30].contains h.type.toNat && decide (d.length ≤ h.len) && decide (h.len < d.length + 32)
  | .fill _ d => h.type == 1 && decide (d.length ≤ h.len) && decide (h.len < d.length + 32)
  | .rts _ => h.type == 2
  | .cts _ => h.type == 3
  | .coll _ _ _ _ _ _ _ _ _ => h.type == 4
  | .heartbeat _ _ _ => h.type == 0x10
  | .align _ _ _ => h.type == 0x11
  | .barArrive _ _ _ _ => h.type == 0x12
  | .barRelease _ _ drops => h.type == 0x13 && decide (drops.length ≤ 16)
  | .loss _ _ _ _ _ _ _ _ => h.type == 0x20 && h.len == 32
  | .adopt _ _ _ _ _ => h.type == 0x21 && h.len == 32
  | .ready _ _ _ _ _ _ => h.type == 0x22 && h.len == 32

/-- A packet is well formed. -/
def packetOk (k : Packet) : Bool := payloadOk k.hdr.len && bodyFits k.hdr k.body

/-- A packet of one type. -/
def packetOf (type : Nat) (k : Packet) : Bool := packetOk k && k.hdr.type.toNat == type

/-- A READY of one kind (R413). -/
def readyOf (kind : Nat) (k : Packet) : Bool :=
  packetOf 0x22 k && (match k.body with
    | .ready n _ _ _ _ _ => n.toNat == kind
    | _ => false)

/-- An ADOPT of one kind (R413). -/
def adoptOf (kind : Nat) (k : Packet) : Bool :=
  packetOf 0x21 k && (match k.body with
    | .adopt _ _ _ _ n => n.toNat == kind
    | _ => false)

/-- A bus access moves 1 to 64 bytes. -/
def accessOk (n : Nat) : Bool := decide (1 ≤ n) && decide (n ≤ 64)

/-- Start-up finds eight towers of 64 pseudo-channels each (R163, R177). -/
def envOk (e : StartEnv) : Bool := e.towers.length == 8 && e.towers.all (fun t => t.margins.length == 64)

/-- The command's operands are in the ranges its row gives them. -/
def wellFormed : Instr → Bool
  | .powerGoodRise e => envOk e
  | .resetNRise e => envOk e
  | .heartbeat _ k _ => packetOf 0x10 k
  | .align _ k => packetOf 0x11 k
  | .linkReplay _ k => payloadOk k.hdr.len
  | .linkBadType _ k => payloadOk k.hdr.len
  | .idle _ k => packetOf 0 k
  | .data _ k => packetOf 1 k
  | .rts _ k => packetOf 2 k
  | .cts _ k => packetOf 3 k
  | .coll _ k => packetOf 4 k
  | .tee _ k => packetOf 5 k
  | .barArrive _ k => packetOf 0x12 k
  | .barRelease _ k => packetOf 0x13 k
  | .maint _ k => packetOf 0x30 k
  | .readySync _ k => readyOf 0 k
  | .readyAccept _ k => readyOf 1 k
  | .readyBusy _ k => readyOf 2 k
  | .readyColdDirty _ k => readyOf 3 k
  | .readyDirtyAck _ k => readyOf 4 k
  | .readyDigest _ k => readyOf 5 k
  | .lossReceived _ k => packetOf 0x20 k
  | .adoptClaim _ k => adoptOf 0 k
  | .adoptCommit _ k => adoptOf 1 k
  | .adoptRelease _ k => adoptOf 2 k
  | .hostBarRead _ _ _ n => accessOk n
  | .hostBarWrite _ _ _ d => accessOk d.length
  | .mgmtCoreAccess wr _ d n => if wr then accessOk d.length else accessOk n
  | .registerWrite _ a n _ => accessOk n && decide (0x9000000000 ≤ a.toNat) && decide (a.toNat < 0x9010000000)
  | .atsInvalidation _ _ n => decide (12 ≤ n) && decide (n ≤ 64)
  | .nvcfgRead _ n => decide (1 ≤ n.toNat) && decide (n.toNat ≤ 256)
  | .nvcfgProgram _ n => decide (1 ≤ n.toNat) && decide (n.toNat ≤ 256)
  | .nvcfgErase _ n => decide (n.toNat ≤ 256)
  | _ => true

end Sys2Proof
end

