-- ==== Sys2Proof/Machine/Gate.lean ====
section
/-! DEFINITION. Which register writes a master may make before READY (R479), and the answer of a register command. -/

namespace Sys2Proof.Machine
open Sys2Proof

/-- A meaning's answer: the next state. -/
abbrev Answer := Host.Outcome State Fault Refusal

/-- MGMT.BOOT.READY. -/
def isReady (s : State) : Bool := regB s rBoot 5

/-- The registers that a host may write before READY (R479): semaphores, mailboxes and, under R492, NVCFG. -/
def earlyWritable (o : Nat) : Bool :=
  (decide (0x70100 ≤ o) && decide (o < 0x70400)) || (decide (0x80000 ≤ o) && decide (o < 0x90000))

/-- A register write by a master: a host's is dropped before READY, with HOST_NOT_READY, except where R479 serves it. -/
def gated (s : State) (m : Master) (o : Nat) (eff : State → State) : State :=
  match m with
  | .pcie _ => if isReady s || earlyWritable o then eff s else logMaster s 0x8003 m (absReg o)
  | _ => eff s

/-- A module fault or a stop of start-up keeps regions from decoding and accepting (R432, R494). -/
def moduleStopped (s : State) : Bool := s.maint.moduleFault || regB s rBoot 4

/-- The next state of a command: what it did, with the waiting commands as they were. -/
def effect (s t : State) : Answer := .next { t with pending := s.pending }

/-- The next state of a command whose operands are in the ranges of its row; a command that no bus or link carries
stops the machine. -/
def ifOk (s : State) (b : Bool) (t : State) : Answer := if b then effect s t else .fault .illFormedCommand

end Sys2Proof.Machine
end

