-- ==== Sys2Proof/Machine/QueueRegs.lean ====
section
/-! DEFINITION. Writes of the sequencer's queue, ring and token registers (R74, R77, R78, R87, R98–R100). -/

namespace Sys2Proof.Machine
open Sys2Proof

/-- QUEUE_TAIL_BAD, QUEUE_OVERRUN and QUEUE_CFG_BUSY carry the queue and the register's address (R438). -/
def logQueueReg (s : State) (code r q o : Nat) : State := logQueue s code r (payDefault 0 q (absReg o))

/-- Queue `q` is idle: disabled, with no frond decoded and unreleased (R77). -/
def queueIdle (s : State) (r q : Nat) : Bool :=
  !regB s (rQctrl r q) 0 && !s.fronds.any (fun f => f.region == r && f.queue == q)

/-- A write of QTAILq under R74 and the table of R77. -/
def wrQtail (s : State) (r q t : Nat) : State :=
  let o := rQtail r q
  if regB s (rQctrl r q) 1 then logQueueReg s 0x1034 r q o
  else if countDiff t (regF s (rQfetch r q) 0 32) < 0 then logQueueReg s 0x1035 r q o
  else if countDiff t (regF s (rQhead r q) 0 32) > 512 then logQueueReg s 0x1031 r q o
  else
    let keep := s.aborts.filter (fun (a, b, k) => !(a == r && b == q && decide (0 ≤ countDiff k t)))
    { setF { s with aborts := keep } o 0 32 t with lastTail := aset s.lastTail (r * 4 + q) (beat s) }

/-- A write of CRTAILq: a value outside [CRTAILq, CRHEADq] is stored as the nearer limit; held releases may proceed
(R77, R87). -/
def wrCrtail (s : State) (r q t : Nat) : State :=
  let tail := regF s (rCrtail r q) 0 32
  let head := regF s (rCrhead r q) 0 32
  let v := if countDiff t tail < 0 then tail else if countDiff t head > 0 then head else t
  releaseHeld (setF s (rCrtail r q) 0 32 v) r q s.fronds.length

/-- The 64-byte header of a program image is well formed (R98, R99). -/
def imageHeaderOk (v : Nat) : Bool :=
  nfld v 0 32 == 0x49505A43 && nfld v 32 16 == 1 && nfld v 48 16 == 0 && nfld v 64 32 != 0 && v >>> 128 == 0

/-- Where a queue fetches: a byte of HBM, a mat or a host window that can be used; nothing otherwise (R74, R77, R486). -/
def fetchable (s : State) (a n : Nat) : Bool :=
  extentMapped s a n &&
  (match resolve s a with
   | .reg _ => false
   | .unmapped => false
   | .host p _ => hostUsable s p
   | _ => true)

/-- A failed fetch disables the queue: QUEUE_FETCH_BAD, or HOST_RING_LOST in a port's window (R77, R486). -/
def fetchBad (s : State) (r q a : Nat) : State :=
  let s1 := setB s (rQctrl r q) 0 false
  match resolve s a with
  | .host _ _ => logQueue s1 0x8006 r (payDefault 0 0 a)
  | _ => logQueue s1 0x1037 r (payDefault 0 0 a)

/-- The image of queue `q` starts to run: its header is read and sets the tail (R98, R99). -/
def startImage (s : State) (r q : Nat) : State :=
  let a := (reg s (rQbase r q)).toNat
  if !fetchable s a 64 then fetchBad s r q a
  else
    let h := natAt s a 64
    if !imageHeaderOk h then
      logQueue (setB s (rQctrl r q) 0 false) 0x1042 r (payDefault 0 0 a)
    else
      let b := regF s (rQfetch r q) 0 32
      let count := nfld h 64 32
      let runs := nfld h 96 32
      setF { s with images := s.images ++ [{ region := r, queue := q, base := b, count := count, runs := runs - 1 }] }
        (rQtail r q) 0 32 (countAdd b count)

/-- A run of the queue's image is in progress. -/
def imageRunning (s : State) (r q : Nat) : Bool := s.images.any (fun i => i.region == r && i.queue == q)

/-- QCTRLq.ENABLE written (R77, R98). -/
def wrEnable (s : State) (r q : Nat) (en : Bool) : State :=
  let was := regB s (rQctrl r q) 0
  let s1 := setB s (rQctrl r q) 0 en
  if en && !was && regB s1 (rQctrl r q) 1 && !imageRunning s1 r q then startImage s1 r q else s1

/-- QCTRLq.RESTART written 1: the image runs again from its first frond; while a run is in progress nothing happens
(DESIGN CHOICE, log entry 12). -/
def wrRestart (s : State) (r q : Nat) : State :=
  if regB s (rQctrl r q) 1 && !imageRunning s r q then startImage (setB s (rQctrl r q) 0 true) r q else s

/-- QBASEq or CRBASEq written (R77, R100). -/
def wrQueueBase (s : State) (r q o : Nat) (v : Word) : State :=
  if queueIdle s r q then setF s o 12 28 (fld v 12 28) else logQueueReg s 0x1034 r q o

/-- LOG2 of a completion ring: values outside 6–16 are stored as the nearer limit (R100). -/
def clampLog2 (n : Nat) : Nat := max 6 (min 16 n)

/-- CRCFGq written. -/
def wrCrcfg (s : State) (r q : Nat) (v : Word) : State :=
  if queueIdle s r q then setF s (rCrcfg r q) 0 5 (clampLog2 (fld v 0 5)) else logQueueReg s 0x1034 r q (rCrcfg r q)

/-- QCTRLq written as a whole: SRC changes only while the queue is idle (R77). -/
def wrQctrl (s : State) (r q : Nat) (v : Word) : State :=
  let o := rQctrl r q
  let idle := queueIdle s r q
  let s1 := setB s o 2 (bitOf v 2)
  let s2 := if bitOf v 1 == regB s1 o 1 then s1 else if idle then setB s1 o 1 (bitOf v 1) else logQueueReg s1 0x1034 r q o
  let s3 := wrEnable s2 r q (bitOf v 0)
  if bitOf v 3 then wrRestart s3 r q else s3

/-- The queue configuration register that a command writes. -/
def queueCfgReg (r q : Nat) : QueueCfg → Nat
  | .qbase => rQbase r q | .crbase => rCrbase r q | .crcfg => rCrcfg r q | .qctrl => rQctrl r q

/-- A write of one of the configuration registers (R77). A write of CRBASEq ends the episodes of its ring (R87). -/
def wrQueueCfg (s : State) (r q : Nat) (k : QueueCfg) (v : Word) : State :=
  match k with
  | .qbase => wrQueueBase s r q (rQbase r q) v
  | .crbase => closeEp (closeEp (wrQueueBase s r q (rCrbase r q) v) (epKey r q 2)) (epKey r q 3)
  | .crcfg => wrCrcfg s r q v
  | .qctrl => wrQctrl s r q v

/-- The register of a token counter. -/
def tokenReg : TokenRef → Nat
  | .region r k => rTok r.val k.val
  | .global n => rGtok n.val

/-! ### The commands -/

/-- QTAIL_WRITE (R74, R77). -/
def execQtailWrite (m : Master) (r : Fin 8) (q : Fin 4) (t : Word32) (s : State) : Answer :=
  effect s (gated s m (rQtail r q) (fun x => wrQtail x r q t.toNat))

/-- CRTAIL_WRITE (R77, R87). -/
def execCrtailWrite (m : Master) (r : Fin 8) (q : Fin 4) (t : Word32) (s : State) : Answer :=
  effect s (gated s m (rCrtail r q) (fun x => wrCrtail x r q t.toNat))

/-- QUEUE_ENABLE_WRITE (R77, R98). -/
def execQueueEnableWrite (m : Master) (r : Fin 8) (q : Fin 4) (en : Bool) (s : State) : Answer :=
  effect s (gated s m (rQctrl r q) (fun x => wrEnable x r q en))

/-- QUEUE_RESTART (R98). -/
def execQueueRestart (m : Master) (r : Fin 8) (q : Fin 4) (s : State) : Answer :=
  effect s (gated s m (rQctrl r q) (fun x => wrRestart x r q))

/-- QUEUE_CFG_WRITE (R77). -/
def execQueueCfgWrite (m : Master) (r : Fin 8) (q : Fin 4) (k : QueueCfg) (v : Word) (s : State) : Answer :=
  effect s (gated s m (queueCfgReg r q k) (fun x => wrQueueCfg x r q k v))

/-- TOKEN_WRITE (R78, R79, R100). -/
def execTokenWrite (m : Master) (t : TokenRef) (v : Word) (s : State) : Answer :=
  effect s (gated s m (tokenReg t) (fun x => setF x (tokenReg t) 0 16 (fld v 0 16)))

end Sys2Proof.Machine
end

