-- ==== Sys2Proof/Machine/Abort.lean ====
section
/-! DEFINITION. Aborts (R92–R95) and preemption (R96, R97). -/

namespace Sys2Proof.Machine
open Sys2Proof

/-- The SEQNO of a written, undecoded frond: in its ring slot, or in the program image (R92). -/
def slotSeqno (s : State) (r q k : Nat) : Option Nat :=
  let base := (reg s (rQbase r q)).toNat
  let a := match s.images.find? (fun i => i.region == r && i.queue == q) with
    | some i => base + 64 + 256 * countGap i.base k
    | none => base + 256 * (k % 512)
  if fetchable s a 256 then some (natAt s (a + 4) 4) else none

/-- The counts of the unreleased fronds of a queue from QHEAD on, in queue order. -/
def abortCands (s : State) (r q : Nat) : List Nat :=
  let h := regF s (rQhead r q) 0 32
  let n := (countDiff (regF s (rQtail r q) 0 32) h).toNat
  ((List.range n).map (fun i => countAdd h i)).filter (fun k => !s.ahead.contains (r, q, k))

/-- The SEQNO by which a candidate is matched. -/
def candSeqno (s : State) (r q k : Nat) : Option Nat :=
  match s.fronds.find? (fun f => f.is r q k) with
  | some f => some (seqnoOf f)
  | none => slotSeqno s r q k

/-- The candidates up to and including the first whose SEQNO is `seq`; none when no one matches. -/
def throughMatch (s : State) (r q seq : Nat) : List Nat → Option (List Nat)
  | [] => none
  | k :: t =>
    if candSeqno s r q k = some seq then some [k]
    else (throughMatch s r q seq t).map (fun l => k :: l)

/-- The fronds an abort request names (R92). -/
def abortSet (s : State) (r q seq scope : Nat) : List Nat :=
  let cands := abortCands s r q
  if scope = 2 then cands
  else if scope = 1 then (throughMatch s r q seq cands).getD []
  else if scope = 0 then
    match throughMatch s r q seq cands with
    | some l => l.drop (l.length - 1)
    | none => []
  else []

/-- The frond has passed its commit point C (R93). -/
def committed (f : Frond) : Bool :=
  f.noWork || f.skip.isSome || f.phase == .finished || f.worked || policy f == 2 ||
  (f.live && (opcodeOf f / 256 == 0xC || opcodeOf f / 256 == 0xD)) ||
  (policy f == 1 && (decide (0 < f.rep) || decide (0 < f.unit) || f.grants.any (·.write))) ||
  (decide (0 < f.group) && midSpan f && f.rep == repeatOf f && f.unit / 2 ^ f.group == (f.units - 1) / 2 ^ f.group)

/-- The arrival of a scope-0 barrier is taken back (R391). -/
def withdrawArrival (s : State) (f : Frond) : State :=
  let keep := s.links.arrivals.filter (fun a => !(opcodeOf f == 0x004 && !a.scope1 && a.rank == f.region))
  { s with links := { s.links with arrivals := keep } }

/-- A decoded frond meets an abort (R94). One that stands within a round or a unit group finishes it first (R88, R323). -/
def abortFrond (s : State) (f : Frond) : State :=
  if f.phase == .decoded then
    (if f.skip.isSome then putFrond s { f with late := true } else putFrond s { f with abort := true })
  else if committed f then putFrond s { f with late := true }
  else if midSpan f then putFrond s { f with abort := true, held := false }
  else
    let g := { f with abort := true, phase := .finished, ended := beat s, held := false, parked := none, grants := [],
                      page := none }
    withdrawArrival (putFrond s g) g

/-- One frond of an abort request, decoded or not (R92). -/
def abortOne (s : State) (r q k : Nat) : State :=
  match s.fronds.find? (fun f => f.is r q k) with
  | some f => abortFrond s f
  | none => { s with aborts := s.aborts ++ [(r, q, k)] }

/-- A write of SEQ.ABORT (R92, R438). -/
def wrAbort (s : State) (r q seq scope : Nat) : State :=
  let l := abortSet s r q seq scope
  let s1 := logEntry s { beat := beat s, code := if l.isEmpty then 0x1011 else 0x1010, cls := 0x01, idx := srcUnit r 0,
                         seqv := true, queue := q, lost := false, coal := 0, seqno := seq,
                         pay := payDefault 0 (scope + 256 * q) (absReg (rAbort r)) }
  l.foldl (fun x k => abortOne x r q k) s1

/-! ### Preemption -/

/-- A frond that a SUSPEND holds at its next hold point: STOPPABLE, with more than one progress unit, still at work
(R96, and R389's table for class 0xC). -/
def holdable (f : Frond) : Bool :=
  f.phase == .working && !f.worked && !f.noWork && policy f == 0 &&
  !(opcodeOf f / 256 == 0xC || opcodeOf f / 256 == 0xD) && decide (1 < f.units * (repeatOf f + 1))

/-- A queue is preempted (R96): `mode` 0 DRAIN, 1 SUSPEND. -/
def wrPreempt (s : State) (r q mode : Nat) : State :=
  let s1 := setB { s with suspends := aset s.suspends (r * 4 + q) (beat s * 2 + mode) } (rPstat r) q true
  if mode = 1 then
    { s1 with fronds := s1.fronds.map (fun f =>
        if f.region == r && f.queue == q && holdable f then { f with held := true, ended := beat s } else f) }
  else s1

/-- A held frond goes on: its watchdog count with it (R97, R158). -/
def resumeFrond (s : State) (f : Frond) : Frond :=
  { f with held := false, causes := f.causes ++ [7],
           parked := f.parked.map (fun p => { p with since := p.since + (beat s - f.ended) }) }

/-- Acceptance of a queue restarts (R97). -/
def wrResume (s : State) (r q : Nat) : State :=
  let s1 := setB { s with suspends := s.suspends.filter (fun p => p.1 != r * 4 + q) } (rPstat r) q false
  { s1 with fronds := s1.fronds.map (fun f =>
      if f.region == r && f.queue == q && f.phase == .working && f.held then resumeFrond s f else f) }

/-- Every accepted frond of a preempted queue is held or released (R96). -/
def preemptSettled (s : State) (r q : Nat) : Bool :=
  regB s (rPstat r) q && (aget s.suspends (r * 4 + q)).isSome &&
  !s.fronds.any (fun f => f.region == r && f.queue == q && f.live && !(f.phase == .working && f.held))

/-- Decoded fronds of a queue that were not accepted become undecoded again, and keep an abort they carry (R92, R96). -/
def undecode (s : State) (r q : Nat) : State :=
  let back := s.fronds.filter (fun f => f.region == r && f.queue == q && !f.live)
  let s1 := { s with fronds := s.fronds.filter (fun f => !(f.region == r && f.queue == q && !f.live)),
                     aborts := s.aborts ++ ((back.filter (·.abort)).map (fun f => (r, q, f.idx))) }
  setF s1 (rQfetch r q) 0 32 (countGap back.length (regF s (rQfetch r q) 0 32))

/-- PSTAT.DONE is set and PREEMPT_DONE logged (R96, R438). -/
def preemptDone (s : State) (r q : Nat) : State :=
  if preemptSettled s r q then
    let mode := agetN s.suspends (r * 4 + q) % 2
    let s1 := undecode { s with suspends := s.suspends.filter (fun p => p.1 != r * 4 + q) } r q
    logQueue (setB s1 (rPstat r) (4 + q) true) 0x1040 r (payDefault 0 (q + 256 * mode) (absReg (rPreempt r)))
  else s

/-! ### The commands -/

/-- ABORT_SINGLE (R92–R95). -/
def execAbortSingle (m : Master) (r : Fin 8) (q : Fin 4) (seq : Word32) (s : State) : Answer :=
  effect s (gated s m (rAbort r) (fun x => wrAbort x r q seq.toNat 0))

/-- ABORT_THROUGH (R92–R95). -/
def execAbortThrough (m : Master) (r : Fin 8) (q : Fin 4) (seq : Word32) (s : State) : Answer :=
  effect s (gated s m (rAbort r) (fun x => wrAbort x r q seq.toNat 1))

/-- ABORT_QUEUE (R92–R95). -/
def execAbortQueue (m : Master) (r : Fin 8) (q : Fin 4) (seq : Word32) (s : State) : Answer :=
  effect s (gated s m (rAbort r) (fun x => wrAbort x r q seq.toNat 2))

/-- PREEMPT_DRAIN (R96). -/
def execPreemptDrain (m : Master) (r : Fin 8) (q : Fin 4) (s : State) : Answer :=
  effect s (gated s m (rPreempt r) (fun x => wrPreempt x r q 0))

/-- PREEMPT_SUSPEND (R96). -/
def execPreemptSuspend (m : Master) (r : Fin 8) (q : Fin 4) (s : State) : Answer :=
  effect s (gated s m (rPreempt r) (fun x => wrPreempt x r q 1))

/-- PREEMPT_RESUME (R97). -/
def execPreemptResume (m : Master) (r : Fin 8) (q : Fin 4) (s : State) : Answer :=
  effect s (gated s m (rPreempt r) (fun x => wrResume x r q))

/-- PREEMPT_DONE (R96). -/
def execPreemptDone (r : Fin 8) (q : Fin 4) (s : State) : Answer := effect s (preemptDone s r q)

end Sys2Proof.Machine
end

