-- ==== Sys2Proof/Machine/Link.lean ====
section
/-! DEFINITION. Links: ports and retry (R370–R376), coordinates, aliases and routing (R377–R382), groups (R383). -/

namespace Sys2Proof.Machine
open Sys2Proof

/-! ### Ports -/

def linkPort (s : State) (p : Nat) : LinkPort := s.links.ports.getD p LinkPort.reset

def setLinkPort (s : State) (p : Nat) (x : LinkPort) : State :=
  { s with links := { s.links with ports := s.links.ports.set p x } }

def portUp (s : State) (p : Nat) : Bool := regB s (rLinkStat p) 0

/-- The other port of a port's pair (R370). -/
def sibling (p : Nat) : Nat := (p + 8) % 16

/-- An event of a link port. -/
def logLink (s : State) (code p reason addr : Nat) : State := logEv s code 0x0C (srcUnit p 0) (payDefault 0 reason addr)

/-- A packet's credits, in 32-byte units (R376). -/
def packetUnits (k : Packet) : Nat := ceilDiv (36 + k.hdr.len) 32

/-- The bytes of the replay buffer that packets take (R375). -/
def replayBytes (l : List Packet) : Nat := l.foldl (fun a k => a + 36 + k.hdr.len) 0

/-- A VC's credits cover a packet, and the replay buffer has room for it (R375, R376). -/
def canSend (x : LinkPort) (k : Packet) : Bool :=
  decide (packetUnits k ≤ x.credits.getD k.hdr.vc.toNat 0) && decide (replayBytes x.replay + 36 + k.hdr.len ≤ 131072)

/-- A packet is put on the wire of a port: it takes the next LSEQ, the last good LSEQ received and the credits owed
for the first VC that has some, and stays in the replay buffer (R373, R375, R376). -/
def transmit (s : State) (p : Nat) (k : Packet) : State :=
  let x := linkPort s p
  let vc := k.hdr.vc.toNat
  let ov := ((List.range 4).find? (fun v => decide (0 < x.owed.getD v 0))).getD 0
  let give := min 4095 (x.owed.getD ov 0)
  let h : LinkHdr := { k.hdr with
    lseq := BitVec.ofNat 12 x.txSeq, ack := BitVec.ofNat 12 (x.rxSeq + 4095), ackv := true, nak := x.nak,
    cvc := BitVec.ofNat 2 ov, credits := BitVec.ofNat 12 give, cv := decide (0 < give) }
  let k' : Packet := { k with hdr := h }
  let y := { x with txSeq := (x.txSeq + 1) % 4096, replay := x.replay ++ [k'], nak := false,
                    credits := x.credits.set vc (x.credits.getD vc 0 - packetUnits k),
                    owed := x.owed.set ov (x.owed.getD ov 0 - give) }
  let s1 := setLinkPort (bump s (rLinkTx p) k.hdr.len) p y
  { s1 with links := { s1.links with wire := s1.links.wire ++ [(p, k')] } }

/-- The next packet that a port's output chooses (R376): VC2 first, then VC0 and VC1 in turn, then VC3, which takes
the 64th slot when it has waited through 63. -/
def chooseOut (x : LinkPort) : Option Packet :=
  let first (v : Nat) := x.out.find? (fun k => k.hdr.vc.toNat == v)
  let ready (v : Nat) := (first v).filter (canSend x)
  let d0 := if x.turn % 2 = 0 then ready 0 else ready 1
  let d1 := if x.turn % 2 = 0 then ready 1 else ready 0
  if x.vc3Wait ≥ 63 && (ready 3).isSome then ready 3
  else ((ready 2).or (d0.or (d1.or (ready 3))))

/-- A port sends what its credits allow of what waits. The last argument bounds the packets. -/
def drainPort (s : State) (p : Nat) : Nat → State
  | 0 => s
  | n + 1 =>
    if !portUp s p then s
    else
      let x := linkPort s p
      match chooseOut x with
      | none => s
      | some k =>
        let v := k.hdr.vc.toNat
        let w3 := if v = 3 then 0 else if x.out.any (fun j => j.hdr.vc.toNat == 3) then x.vc3Wait + 1 else 0
        let y := { x with out := x.out.erase k, turn := if v < 2 then v + 1 else x.turn, vc3Wait := w3 }
        drainPort (transmit (setLinkPort s p y) p k) p n

/-- A fenced module sends nothing but heartbeats (R412). -/
def fenced (s : State) : Bool := regF s rFailStat 0 3 == 6

/-- A packet is handed to a port. -/
def sendOn (s : State) (p : Nat) (k : Packet) : State :=
  if fenced s && k.hdr.type != 0x10 then s
  else
    let x := linkPort s p
    drainPort (setLinkPort s p { x with out := x.out ++ [k] }) p (x.out.length + 1)

/-- A header for a packet of this module: the link's own fields are set as it is sent. -/
def newHdr (type vc len destL srcL tag offset : Nat) : LinkHdr :=
  { type := BitVec.ofNat 8 type, vc := BitVec.ofNat 2 vc, poison := false, detour := false, ddim := 0, len := len,
    lseq := 0, ack := 0, ackv := false, nak := false, destP := BitVec.ofNat 32 destL, destL := BitVec.ofNat 32 destL,
    srcL := BitVec.ofNat 32 srcL, tag := BitVec.ofNat 32 tag, offset := BitVec.ofNat 40 offset, cvc := 0, credits := 0,
    cv := false }

/-! ### Coordinates (R373, R377, R378) -/

/-- Dimension `x` (a = 0 … d = 3) of a coordinate: one byte each, a in bits 31:24. -/
def dimOf (c x : Nat) : Nat := nfld c (8 * (3 - x)) 8

/-- A coordinate with one dimension replaced. -/
def setDim (c x v : Nat) : Nat := c - (dimOf c x) * 2 ^ (8 * (3 - x)) + (v % 256) * 2 ^ (8 * (3 - x))

/-- The torus size in dimension `x` (R377). -/
def torusK (s : State) (x : Nat) : Nat :=
  if x = 0 then regF s rTorus 0 5 else if x = 1 then regF s rTorus 5 5
  else if x = 2 then regF s rTorus 10 4 else regF s rTorus 14 4

/-- A coordinate lies within the torus sizes. -/
def inTorus (s : State) (c : Nat) : Bool := (List.range 4).all (fun x => decide (dimOf c x < torusK s x))

def ownPhys (s : State) : Nat := regF s rCoord 0 32

/-- The coordinate this module stands in for, if it does (R416). -/
def standinFor (s : State) : Option Nat := if regB s rStandin 32 then some (regF s rStandin 0 32) else none

/-- The module's own logical coordinate: its physical one unless an alias maps another logical coordinate onto it; a
coordinate it stands in for is its second identity (R378, R416). -/
def ownLogical (s : State) : Nat :=
  match s.links.coordAlias.find? (fun (_, l, p, _) => p == ownPhys s && l != ownPhys s && standinFor s != some l) with
  | some (_, l, _, _) => l
  | none => ownPhys s

/-- The module accepts packets addressed to a logical coordinate (R416). -/
def answersTo (s : State) (c : Nat) : Bool := c == ownLogical s || standinFor s == some c

/-- DEST_P of a logical coordinate as it stands (R381). -/
def physOf (s : State) (l : Nat) : Nat :=
  match s.links.coordAlias.find? (fun (_, x, _, _) => x == l) with
  | some (_, _, p, _) => p
  | none => l

/-- The module physically at a coordinate is recorded lost (R381). -/
def isDead (s : State) (p : Nat) : Bool := s.links.coordAlias.any (fun (_, l, _, d) => d && l == p)

/-! ### Routing (R379–R382) -/

/-- The neighbour of a coordinate in dimension `x`; `neg` for the − direction. -/
def neighbour (s : State) (c x : Nat) (neg : Bool) : Nat :=
  let k := torusK s x
  setDim c x (if neg then (dimOf c x + k - 1) % k else (dimOf c x + 1) % k)

/-- Hops in the + direction of a dimension. -/
def hopsUp (s : State) (c d x : Nat) : Nat := (dimOf d x + torusK s x - dimOf c x) % torusK s x

/-- The direction with fewer hops; + when they are equal (R379). -/
def goesNeg (s : State) (c d x : Nat) : Bool := decide (torusK s x < 2 * hopsUp s c d x)

/-- The first dimension in which two coordinates differ, in the order a, b, c, d. -/
def firstDim (s : State) (c d : Nat) : Option Nat :=
  (List.range 4).find? (fun x => decide (dimOf c x % torusK s x ≠ dimOf d x % torusK s x))

/-- The lower-numbered port of the pair for a dimension and direction (R370). -/
def pairPort (x : Nat) (neg : Bool) : Nat := 2 * x + b2n neg

/-- A next hop is blocked: its module is lost, or both ports of the pair are down (R382). -/
def hopBlocked (s : State) (c x : Nat) (neg : Bool) : Bool :=
  isDead s (neighbour s c x neg) || (!portUp s (pairPort x neg) && !portUp s (pairPort x neg + 8))

/-- The first dimension after `x`, in cyclic order, whose size is at least 2 (R382). -/
def detourDim (s : State) (x : Nat) : Option Nat :=
  ([1, 2, 3].map (fun i => (x + i) % 4)).find? (fun y => decide (2 ≤ torusK s y))

/-- The VC of a hop: VC1 once the wrap link of the dimension is crossed (R379). -/
def hopVc (s : State) (c x : Nat) (neg : Bool) (vc : Nat) : Nat :=
  if vc ≥ 2 then vc
  else
    let at_ := dimOf c x
    let wraps := if neg then at_ == 0 else at_ == torusK s x - 1
    if wraps then 1 else vc

/-- The hop a packet takes from this module: dimension, direction and the header it leaves with; nothing where the
destination is unreachable (R379, R382). A packet starts a dimension where it still has its source's place in it. -/
def nextHop (s : State) (h : LinkHdr) : Option (Nat × Bool × LinkHdr) :=
  let c := ownPhys s
  let d := h.destP.toNat
  if h.detour then
    let x := h.ddim.toNat
    if dimOf c x % torusK s x ≠ dimOf d x % torusK s x then
      let neg := goesNeg s c d x
      if hopBlocked s c x neg then none
      else some (x, neg, { h with vc := BitVec.ofNat 2 (hopVc s c x neg h.vc.toNat) })
    else
      match detourDim s x with
      | none => none
      | some y =>
        if hopBlocked s c y true then none
        else some (y, true, { h with detour := false, ddim := 0, vc := if h.vc.toNat < 2 then 1 else h.vc })
  else
    match firstDim s c d with
    | none => none
    | some x =>
      let neg := goesNeg s c d x
      if hopBlocked s c x neg then
        match detourDim s x with
        | none => none
        | some y =>
          if hopBlocked s c y false then none
          else some (y, false, { h with detour := true, ddim := BitVec.ofNat 2 x, vc := if h.vc.toNat < 2 then 1 else h.vc })
      else
        let starts := decide (dimOf c x = dimOf (physOf s h.srcL.toNat) x)
        let v := hopVc s c x neg (if h.vc.toNat < 2 ∧ starts then 0 else h.vc.toNat)
        some (x, neg, { h with vc := BitVec.ofNat 2 v })

/-- The port of a pair that a packet takes (R380): data by OFFSET, priority packets on the die of arrival; a port that
is down leaves its sibling; with ADAPTIVE, the port that has credits. The Bool says that the choice differs from the
rule. -/
def choosePort (s : State) (x : Nat) (neg : Bool) (h : LinkHdr) (die : Nat) (k : Packet) : Nat × Bool :=
  let lo := pairPort x neg
  let want := if h.vc.toNat ≥ 2 then lo + 8 * die else if h.offset.toNat / 4096 % 2 = 0 then lo else lo + 8
  if !portUp s want then (sibling want, false)
  else if h.vc.toNat < 2 && regB s rTorus 18 && portUp s (sibling want) && !canSend (linkPort s want) k &&
      canSend (linkPort s (sibling want)) k then (sibling want, true)
  else (want, false)

/-- A packet at this module with its DEST_P set leaves by its next hop. One whose destination is lost or unreachable
is discarded (R382). `die` is the die it arrived on, or 0. -/
def routeOut (s : State) (k : Packet) (die : Nat) : State :=
  match nextHop s k.hdr with
  | none => logChip (bump s rDiscard 1) 0x3011 (payDefault 0 0 k.hdr.destP.toNat)
  | some (x, neg, h) =>
    let c := choosePort s x neg h die { k with hdr := h }
    let s1 := if c.2 then countNd s rNdRoute 1 else s
    sendOn s1 c.1 { k with hdr := h }

/-- A packet of this module is injected: DEST_P is looked up (R381). One for this module itself waits among the packets
that its own fronds take. -/
def inject (s : State) (k : Packet) : State :=
  let d := physOf s k.hdr.destL.toNat
  let k' : Packet := { k with hdr := { k.hdr with destP := BitVec.ofNat 32 d } }
  if d == ownPhys s then { s with links := { s.links with early := s.links.early ++ [k'] } }
  else routeOut s k' 0

/-- Whether a route to a logical coordinate can be taken at its first hop under the present dead set (R382, R394). -/
def reachable (s : State) (l : Nat) : Bool :=
  let d := physOf s l
  d == ownPhys s || (!isDead s d && (nextHop s { newHdr 1 0 0 l 0 0 0 with destP := BitVec.ofNat 32 d }).isSome)

/-- Every up port sends a packet point to point to its neighbour (R392, R413). -/
def sendAll (s : State) (k : Packet) (except : Option Nat) : State :=
  forRange 0 16 (fun p x => if portUp x p && some p != except then sendOn x p k else x) s

/-! ### Latencies (R50, R379, R395) -/

/-- One-way latency of a port, in bt. -/
def linkLat (s : State) (p : Nat) : Nat := regF s (rLinkLat p) 16 16

/-- The slower of a pair's measured one-way latencies. -/
def pairLat (s : State) (x : Nat) (neg : Bool) : Nat :=
  max (linkLat s (pairPort x neg)) (linkLat s (pairPort x neg + 8))

/-- Hops of the dimension-ordered route between two coordinates, by dimension, with the longer choice where adaptive
routing may take either direction (they are equal), and two more for each blocked first hop (R50, R382). -/
def routeHops (s : State) (c d : Nat) : List (Nat × Bool × Nat) :=
  (List.range 4).map (fun x =>
    let up := hopsUp s c d x
    let neg := goesNeg s c d x
    let n := if neg then torusK s x - up else up
    (x, neg, if n > 0 && hopBlocked s c x neg then n + 2 else n))

/-- λ of R395: the sum of the hops' one-way latencies and the forwarding of each module between, 24 work beats each
(R379), the forwarding across the die bridge where consecutive hops may change die being bounded by 36. -/
def routeLat (s : State) (c d : Nat) : Nat :=
  let hs := routeHops s c d
  let n := hs.foldl (fun a (_, _, k) => a + k) 0
  hs.foldl (fun a (x, neg, k) => a + k * pairLat s x neg) 0 + 24 * (n - 1)

/-- The round trip of the slowest link on a route, for R49's allowance. -/
def slowestRtt (s : State) (c d : Nat) : Nat :=
  (routeHops s c d).foldl (fun a (x, neg, k) => if k = 0 then a else max a (2 * pairLat s x neg)) 0

/-! ### Groups (R383) -/

/-- The index of the VALID group entry with an ID. -/
def groupIdx (s : State) (id : Nat) : Option Nat :=
  (List.range 64).find? (fun g => regB s (rGroupA g) 16 && regF s (rGroupA g) 0 16 == id)

def groupExt (s : State) (g x : Nat) : Nat :=
  if x = 0 then regF s (rGroupB g) 0 5 else if x = 1 then regF s (rGroupB g) 5 5
  else if x = 2 then regF s (rGroupB g) 10 4 else regF s (rGroupB g) 14 4

def groupSize (s : State) (g : Nat) : Nat := groupExt s g 0 * groupExt s g 1 * groupExt s g 2 * groupExt s g 3

/-- The offsets o_a … o_d of a rank. -/
def rankPos (s : State) (g rank x : Nat) : Nat :=
  if x = 3 then rank % groupExt s g 3
  else if x = 2 then rank / groupExt s g 3 % groupExt s g 2
  else if x = 1 then rank / (groupExt s g 3 * groupExt s g 2) % groupExt s g 1
  else rank / (groupExt s g 3 * groupExt s g 2 * groupExt s g 1)

/-- The logical coordinate of the member with a rank. -/
def memberOf (s : State) (g rank : Nat) : Nat :=
  let base := regF s (rGroupA g) 32 32
  (List.range 4).foldl (fun c x => c + ((dimOf base x + rankPos s g rank x) % torusK s x) * 2 ^ (8 * (3 - x))) 0

/-- The rank of a logical coordinate in a group, if it is a member. -/
def rankOf (s : State) (g c : Nat) : Option Nat :=
  let base := regF s (rGroupA g) 32 32
  let o (x : Nat) := (dimOf c x + torusK s x - dimOf base x % torusK s x) % torusK s x
  if (List.range 4).all (fun x => decide (o x < groupExt s g x)) then
    some (((o 0 * groupExt s g 1 + o 1) * groupExt s g 2 + o 2) * groupExt s g 3 + o 3)
  else none

/-! ### Aliases (R381) -/

/-- Committed entries as they stand after entry `i` takes (L, P, DEAD), or leaves the table when not valid. -/
def aliasPut (m : List (Nat × Nat × Nat × Bool)) (i : Nat) (valid : Bool) (l p : Nat) (dead : Bool) :
    List (Nat × Nat × Nat × Bool) :=
  let rest := m.filter (fun (j, _) => j != i)
  if valid then rest ++ [(i, l, p, dead)] else rest

/-- An alias entry is committed as a whole: a second VALID entry of one LOGICAL is refused with ALIAS_DUP, and every
change logs ALIAS_UPDATE (R381). -/
def commitAlias (s : State) (i : Nat) (valid : Bool) (l p : Nat) (dead : Bool) : State :=
  if valid && s.links.coordAlias.any (fun (j, x, _, _) => j != i && x == l) then
    logChip s 0x3013 (payDefault 0 0 (absReg (rAliasL i)))
  else
    let s1 := setReg s (rAliasL i) (BitVec.ofNat 64 (l + p * 2 ^ 32))
    let s2 := setReg s1 (rAliasF i) (BitVec.ofNat 64 (b2n valid + 2 * b2n dead))
    logChip { s2 with links := { s2.links with coordAlias := aliasPut s2.links.coordAlias i valid l p dead } }
      0x3012 (payDefault 0 0 (absReg (rAliasL i)))

/-- An alias made by the handling of a LOSS or ADOPT: in the entry that holds the LOGICAL, or else in the first free
one; nothing when the table is full. -/
def setAlias (s : State) (l p : Nat) (dead : Bool) : Option State :=
  match s.links.coordAlias.find? (fun (_, x, _, _) => x == l) with
  | some (i, _, _, _) => some (commitAlias s i true l p dead)
  | none =>
    match (List.range 256).find? (fun i => !s.links.coordAlias.any (fun (j, _) => j == i)) with
    | some i => some (commitAlias s i true l p dead)
    | none => none

end Sys2Proof.Machine
end

