-- ==== Sys2Proof/Machine/Num.lean ====
section
/-! DEFINITION. Number formats: exact values, the five rounding modes, fast and strict mode, conversions and the
arithmetic flags (R101–R118, R123). -/

namespace Sys2Proof.Machine
open Sys2Proof

/-! ### Arithmetic flags (R123) -/

def fInvalid : Nat := 1
def fDivZero : Nat := 2
def fOverflow : Nat := 4
def fUnderflow : Nat := 8
def fInexact : Nat := 16
def fFlushed : Nat := 32
def fSaturated : Nat := 64
def fNanToInt : Nat := 128
def fResReduced : Nat := 256
def fIntOvf : Nat := 512
def fNanIn : Nat := 1024

/-- A result with the flags its computation raised. -/
abbrev Flagged (α : Type) := α × Nat

/-- The mask `m` where a condition holds, otherwise no flag. -/
def flagIf (b : Bool) (m : Nat) : Nat := if b then m else 0

/-! ### Arithmetic control (R109) -/

/-- The arithmetic control byte and the frond's SAT field. -/
structure Arith where
  strict : Bool
  /-- 0 RNE, 1 RTZ, 2 RUP, 3 RDN, 4 SR. -/
  round : Nat
  sat : Bool
deriving DecidableEq, Repr

/-- ARITH of word 6, with a SAT field. -/
def arithOf (f : Frond) (sat : Bool) : Arith :=
  { strict := nbit (par f 6) 0, round := parF f 6 1 3, sat := sat }

/-- ARITH holds no reserved value, and bits 31:8 of word 6 are as an opcode without fields there has them. -/
def arithOk (f : Frond) : Bool := decide (parF f 6 1 3 ≤ 4) && parF f 6 4 4 == 0

/-! ### Floating-point formats (R102) -/

/-- Exponent and significand field widths of a float format. -/
def expBits (fmt : Nat) : Nat := if fmt = 1 ∨ fmt = 2 then 8 else if fmt = 3 ∨ fmt = 5 then 5 else 4
def sigBits (fmt : Nat) : Nat := if fmt = 1 then 23 else if fmt = 2 then 7 else if fmt = 3 then 10 else if fmt = 4 then 3 else 2
def bias (fmt : Nat) : Nat := 2 ^ (expBits fmt - 1) - 1
/-- Exponent of the smallest normal number. -/
def emin (fmt : Nat) : Int := 1 - (bias fmt : Int)
/-- Bits of the magnitude of the largest finite number. -/
def maxMag (fmt : Nat) : Nat := if fmt = 4 then 0x7E else (2 ^ expBits fmt - 1) * 2 ^ sigBits fmt - 1
/-- The canonical NaN. -/
def canonNan (fmt : Nat) : Nat :=
  if fmt = 4 then 0x7F else (2 ^ expBits fmt - 1) * 2 ^ sigBits fmt + 2 ^ (sigBits fmt - 1)
/-- Bits of infinity's magnitude in the formats that have one. -/
def infMag (fmt : Nat) : Nat := (2 ^ expBits fmt - 1) * 2 ^ sigBits fmt
/-- A magnitude with a sign. -/
def signed (fmt : Nat) (neg : Bool) (m : Nat) : Nat := m + b2n neg * 2 ^ (fmtBits fmt - 1)

/-! ### Exact values -/

/-- A magnitude num / den × 2^exp; `more` says that the exact magnitude is greater by less than any step that is
looked at. -/
structure Mag where
  num : Nat
  den : Nat
  exp : Int
  more : Bool
deriving DecidableEq, Repr

/-- A number as an operation sees it: a NaN, an infinity or a signed magnitude; a zero keeps its sign. -/
inductive Num where
  | nan
  | inf (neg : Bool)
  | fin (neg : Bool) (m : Mag)
deriving DecidableEq, Repr

def Mag.nat (n : Nat) : Mag := ⟨n, 1, 0, false⟩
def Mag.isZero (m : Mag) : Bool := m.num == 0
def Num.zero (neg : Bool) : Num := .fin neg (Mag.nat 0)
/-- An integer as an exact value; 0 is +0. -/
def Num.int (v : Int) : Num := .fin (decide (v < 0)) (Mag.nat v.natAbs)

/-- Numerator and denominator of a magnitude in units of 2^`u`. -/
def Mag.ratio (m : Mag) (u : Int) : Nat × Nat :=
  if u ≤ m.exp then (m.num * 2 ^ (m.exp - u).toNat, m.den) else (m.num, m.den * 2 ^ (u - m.exp).toNat)

/-- The binary exponent of a magnitude other than 0: the greatest e with 2^e ≤ x. -/
def Mag.log2 (m : Mag) : Int :=
  let g : Int := (Nat.log2 m.num : Int) - (Nat.log2 m.den : Int) + m.exp
  let r := m.ratio g
  if r.1 < r.2 then g - 1 else g

/-- A magnitude in units of 2^`u` rounded to a whole number of them, and whether that changed it (R110, R111). The last
argument is the 16-bit draw of stochastic rounding. -/
def Mag.roundTo (m : Mag) (neg : Bool) (mode : Nat) (u : Int) (r16 : Nat) : Nat × Bool :=
  let p := m.ratio u
  let q := p.1 / p.2
  let r := p.1 % p.2
  let inexact := r != 0 || m.more
  let up : Bool :=
    if mode = 0 then decide (p.2 < 2 * r) || (2 * r == p.2 && (m.more || q % 2 == 1))
    else if mode = 2 then inexact && !neg
    else if mode = 3 then inexact && neg
    else if mode = 4 then decide (2 ^ 16 ≤ r * 2 ^ 16 / p.2 + r16)
    else false
  (if up then q + 1 else q, inexact)

/-! ### Stochastic draws (R113) -/

def mix32 (x0 : Nat) : Nat :=
  let x1 := ((x0 ^^^ (x0 >>> 16)) * 0x85EBCA6B) % 2 ^ 32
  let x2 := ((x1 ^^^ (x1 >>> 13)) * 0xC2B2AE35) % 2 ^ 32
  x2 ^^^ (x2 >>> 16)

def xorshift (x0 : Nat) : Nat :=
  let x1 := (x0 ^^^ (x0 <<< 13)) % 2 ^ 32
  let x2 := x1 ^^^ (x1 >>> 17)
  (x2 ^^^ (x2 <<< 5)) % 2 ^ 32

/-- Draw `n` of a repetition's seed. -/
def draw (seed n : Nat) : Nat :=
  let x := mix32 (seed ^^^ mix32 (n % 256 + 1))
  forRange 0 (n / 256 + 1) (fun _ y => xorshift y) (if x = 0 then 1 else x) / 2 ^ 16

/-- The draw of a frond in the repetition in hand (R69, R113); none is made in the other rounding modes. -/
def drawOf (f : Frond) (a : Arith) (n : Nat) : Nat := if a.round = 4 then draw ((par f 7 + f.rep) % 2 ^ 32) n else 0

/-! ### Reading (R102, R103, R106, R108) -/

/-- A value of a float format, with NAN_IN, INVALID for a signalling NaN in strict mode and FLUSHED for a subnormal in
fast mode. -/
def readFloat (fmt : Nat) (strict : Bool) (b : Nat) : Flagged Num :=
  let neg := nbit b (fmtBits fmt - 1)
  let e := nfld b (sigBits fmt) (expBits fmt)
  let m := nfld b 0 (sigBits fmt)
  let top := 2 ^ expBits fmt - 1
  if fmt = 4 ∧ e = top ∧ m = 7 then (.nan, fNanIn)
  else if fmt ≠ 4 ∧ e = top ∧ m ≠ 0 then
    (.nan, fNanIn + flagIf (strict && decide (fmt ≤ 3) && !nbit m (sigBits fmt - 1)) fInvalid)
  else if fmt ≠ 4 ∧ e = top then (.inf neg, 0)
  else if e = 0 then
    if m = 0 then (.zero neg, 0)
    else if strict then (.fin neg ⟨m, 1, emin fmt - sigBits fmt, false⟩, 0)
    else (.zero neg, fFlushed)
  else (.fin neg ⟨2 ^ sigBits fmt + m, 1, (e : Int) - bias fmt - sigBits fmt, false⟩, 0)

/-- The integer that an element of an integer format holds. -/
def readInt (fmt b : Nat) : Int := if fmt = 0xB then (b % 256 : Nat) else sext (fmtBits fmt) b

/-- Least and greatest values of an integer format. -/
def intMin (fmt : Nat) : Int := if fmt = 0xB then 0 else -(2 ^ (fmtBits fmt - 1) : Int)
def intMax (fmt : Nat) : Int := if fmt = 0xB then 255 else 2 ^ (fmtBits fmt - 1) - 1

/-- A residue reduced (R105). -/
def readRes (q b : Nat) : Flagged Nat := (b % 2 ^ 36 % q, flagIf (decide (q ≤ b % 2 ^ 36)) fResReduced)

/-- The centred lift of a reduced residue (R117). -/
def lift (q w : Nat) : Int := if w ≤ (q - 1) / 2 then (w : Int) else (w : Int) - q

/-- A signed value modulo `q`, in [0, q). -/
def modInt (q : Nat) (v : Int) : Nat := (v % (q : Int)).toNat

/-- The exact value of an element of any format; `q` is the prime of a residue. -/
def readNum (fmt : Nat) (strict : Bool) (q b : Nat) : Flagged Num :=
  if isFloat fmt then readFloat fmt strict b
  else if isInt fmt then (.int (readInt fmt b), 0)
  else if fmt = 0x10 then
    let w := readRes q b
    (.int (lift q w.1), w.2)
  else (.int (b % 2 : Nat), 0)

/-! ### Writing (R106, R110–R118) -/

/-- A float result past the largest finite number (R112, R115). -/
def overflowTo (fmt : Nat) (a : Arith) (neg : Bool) : Flagged Nat :=
  if a.sat then (signed fmt neg (maxMag fmt), fSaturated + flagIf a.strict fInexact)
  else if fmt = 4 then (canonNan 4, fOverflow)
  else
    let toInf := a.round == 0 || (a.round == 2 && !neg) || (a.round == 3 && neg)
    (signed fmt neg (if toInf then infMag fmt else maxMag fmt), fOverflow + flagIf a.strict fInexact)

/-- A magnitude other than 0 rounded once into a float format. -/
def roundMag (fmt : Nat) (a : Arith) (neg : Bool) (m : Mag) (r16 : Nat) : Flagged Nat :=
  let e := m.log2
  let p : Int := sigBits fmt + 1
  let one := 2 ^ sigBits fmt
  -- the rounding with an unbounded exponent, which decides tininess, overflow and the fast result
  let free := m.roundTo neg a.round (e - p + 1) r16
  let above := e + 1 == emin fmt && free.1 == 2 * one
  if e < emin fmt then
    if a.strict then
      let k := m.roundTo neg a.round (emin fmt - p + 1) r16
      let tiny := if a.round = 4 then decide (k.1 < one) else !above
      (signed fmt neg k.1, flagIf k.2 fInexact + flagIf (k.2 && tiny) fUnderflow)
    else if above then (signed fmt neg one, 0)
    else (signed fmt neg 0, fFlushed)
  else
    let bits (k : Nat) : Nat := (e + bias fmt).toNat * one + k - one
    let beyond : Bool :=
      if a.round = 4 then
        -- |x| itself above the largest finite value (R112)
        let k := m.roundTo neg 1 (e - p + 1) 0
        decide (maxMag fmt < bits k.1) || (bits k.1 == maxMag fmt && k.2)
      else decide (maxMag fmt < bits free.1)
    if beyond then overflowTo fmt a neg
    else (signed fmt neg (min (bits free.1) (maxMag fmt)), flagIf (a.strict && free.2) fInexact)

/-- An exact value written in a float format; NAN_IN and INVALID of a NaN are raised where it arose. -/
def writeFloat (fmt : Nat) (a : Arith) (x : Num) (r16 : Nat) : Flagged Nat :=
  match x with
  | .nan => (canonNan fmt, 0)
  | .inf neg =>
    if a.sat then (signed fmt neg (maxMag fmt), fSaturated + flagIf (fmt == 4 && a.strict) fInexact)
    else if fmt = 4 then (canonNan 4, fInvalid)
    else (signed fmt neg (infMag fmt), 0)
  | .fin neg m => if m.isZero then (signed fmt neg 0, 0) else roundMag fmt a neg m r16

/-- A signed magnitude rounded to an integer, and whether that changed it (R110, R111 with u = 1). -/
def roundInt (a : Arith) (neg : Bool) (m : Mag) (r16 : Nat) : Int × Bool :=
  let k := m.roundTo neg a.round 0 r16
  (if neg then -(k.1 : Int) else (k.1 : Int), k.2)

/-- An exact value that came from a float, written in an integer format (R116). -/
def floatToInt (fmt : Nat) (a : Arith) (x : Num) (r16 : Nat) : Flagged Nat :=
  let n := fmtBits fmt
  match x with
  | .nan => (0, fNanToInt + fInvalid)
  | .inf neg => (wrapInt n (if neg then intMin fmt else intMax fmt), fSaturated + fInvalid)
  | .fin neg m =>
    let v := roundInt a neg m r16
    if v.1 < intMin fmt then (wrapInt n (intMin fmt), fSaturated + fInvalid)
    else if intMax fmt < v.1 then (wrapInt n (intMax fmt), fSaturated + fInvalid)
    else (wrapInt n v.1, flagIf (a.strict && v.2) fInexact)

/-- An integer clamped into an integer format (R118). -/
def intToInt (fmt : Nat) (v : Int) : Flagged Nat :=
  if v < intMin fmt then (wrapInt (fmtBits fmt) (intMin fmt), fSaturated)
  else if intMax fmt < v then (wrapInt (fmtBits fmt) (intMax fmt), fSaturated)
  else (wrapInt (fmtBits fmt) v, 0)

/-- The integer that an exact value from an integer source is. -/
def Num.toInt : Num → Int
  | .fin neg m => if neg then -(m.num : Int) else (m.num : Int)
  | _ => 0

/-- Whether an exact value is other than ±0 (R118: a NaN counts as 1). -/
def Num.truth : Num → Bool
  | .fin _ m => !m.isZero
  | _ => true

/-- One element converted from a source format to a destination format (R114–R118). -/
def convertNum (src dst : Nat) (a : Arith) (qOut : Nat) (x : Num) (r16 : Nat) : Flagged Nat :=
  if isFloat dst then writeFloat dst a x r16
  else if isInt dst then (if isFloat src then floatToInt dst a x r16 else intToInt dst x.toInt)
  else if dst = 0x10 then (modInt qOut x.toInt, 0)
  else (b2n x.truth, 0)

/-- One element converted. -/
def convert (src dst : Nat) (a : Arith) (q qOut b r16 : Nat) : Flagged Nat :=
  let x := readNum src a.strict q b
  let y := convertNum src dst a qOut x.1 r16
  (y.1, x.2 ||| y.2)

/-! ### Float operations on exact values (R106, R107, R331, R336) -/

/-- Magnitudes with a common exponent. -/
def Mag.align (x y : Mag) : Nat × Nat × Int :=
  let e := min x.exp y.exp
  (x.num * 2 ^ (x.exp - e).toNat, y.num * 2 ^ (y.exp - e).toNat, e)

/-- The sum of two values that are dyadic (den = 1). An exact zero sum is −0 under RDN, or when both addends are
−0. -/
def numAdd (a : Arith) (x y : Num) : Flagged Num :=
  match x, y with
  | .nan, _ => (.nan, 0)
  | _, .nan => (.nan, 0)
  | .inf s, .inf t => if s = t then (.inf s, 0) else (.nan, fInvalid)
  | .inf s, _ => (.inf s, 0)
  | _, .inf t => (.inf t, 0)
  | .fin s m, .fin t n =>
    let p := m.align n
    let u : Int := if s then -(p.1 : Int) else p.1
    let v : Int := if t then -(p.2.1 : Int) else p.2.1
    let w := u + v
    if w = 0 then
      (.zero (if m.isZero && n.isZero && s == t then s else a.round == 3), 0)
    else (.fin (decide (w < 0)) ⟨w.natAbs, 1, p.2.2, false⟩, 0)

/-- The product of two values. -/
def numMul (x y : Num) : Flagged Num :=
  match x, y with
  | .nan, _ => (.nan, 0)
  | _, .nan => (.nan, 0)
  | .inf s, .inf t => (.inf (s != t), 0)
  | .inf s, .fin t n => if n.isZero then (.nan, fInvalid) else (.inf (s != t), 0)
  | .fin s m, .inf t => if m.isZero then (.nan, fInvalid) else (.inf (s != t), 0)
  | .fin s m, .fin t n => (.fin (s != t) ⟨m.num * n.num, m.den * n.den, m.exp + n.exp, false⟩, 0)

/-- The quotient of two values. -/
def numDiv (x y : Num) : Flagged Num :=
  match x, y with
  | .nan, _ => (.nan, 0)
  | _, .nan => (.nan, 0)
  | .inf _, .inf _ => (.nan, fInvalid)
  | .inf s, .fin t _ => (.inf (s != t), 0)
  | .fin s _, .inf t => (.zero (s != t), 0)
  | .fin s m, .fin t n =>
    if n.isZero then (if m.isZero then (.nan, fInvalid) else (.inf (s != t), fDivZero))
    else (.fin (s != t) ⟨m.num * n.den, m.den * n.num, m.exp - n.exp, false⟩, 0)

/-- The integer square root: the greatest r with r × r ≤ n, one bit at a time from bit `k - 1` down. -/
def isqrt (n : Nat) : Nat → Nat → Nat
  | 0, r => r
  | k + 1, r => isqrt n k (if (r + 2 ^ k) * (r + 2 ^ k) ≤ n then r + 2 ^ k else r)

/-- The square root of a dyadic magnitude, to 64 bits or more, with the rest in `more`. -/
def Mag.sqrt (m : Mag) : Mag :=
  let odd := m.exp % 2 ≠ 0
  let n := if odd then m.num * 2 else m.num
  let e : Int := if odd then m.exp - 1 else m.exp
  let w := n * 2 ^ 128
  let r := isqrt w (Nat.log2 w / 2 + 1) 0
  ⟨r, 1, e / 2 - 64, decide (r * r < w)⟩

/-- The square root of a value. -/
def numSqrt (x : Num) : Flagged Num :=
  match x with
  | .nan => (.nan, 0)
  | .inf s => if s then (.nan, fInvalid) else (.inf false, 0)
  | .fin s m => if m.isZero then (.zero s, 0) else if s then (.nan, fInvalid) else (.fin false m.sqrt, 0)

/-- Whether one value is below another; −0 is below +0 where `signed` says so (R331, R340). -/
def numLt (signed : Bool) (x y : Num) : Bool :=
  let v (n : Num) : Int × Mag := match n with
    | .fin s m => (if m.isZero then 0 else if s then -1 else 1, m)
    | .inf s => (if s then -2 else 2, Mag.nat 0)
    | .nan => (0, Mag.nat 0)
  let a := v x
  let b := v y
  if a.1 ≠ b.1 then decide (a.1 < b.1)
  else if a.1 = 0 then
    (signed && (match x, y with | .fin s _, .fin t _ => s && !t | _, _ => false))
  else
    let p := a.2.align b.2
    if a.1 = 1 then decide (p.1 < p.2.1) else if a.1 = -1 then decide (p.2.1 < p.1) else false

/-- Exact result of two read operands, written: flags joined. -/
def apply2 (fmt : Nat) (a : Arith) (op : Num → Num → Flagged Num) (x y r16 : Nat) : Flagged Nat :=
  let u := readFloat fmt a.strict x
  let v := readFloat fmt a.strict y
  let w := op u.1 v.1
  let z := writeFloat fmt a w.1 r16
  (z.1, u.2 ||| v.2 ||| w.2 ||| z.2)

end Sys2Proof.Machine
end

