-- ==== Sys2Proof/Machine/Coll.lean ====
section
/-! DEFINITION. Collectives as the link engines compute them: ring steps, their packets and their sums (R384–R389), the
members of a broadcast (R386), and the ranks that a stand-in plays (R416). -/

namespace Sys2Proof.Machine
open Sys2Proof

/-! ### Elements as bytes -/

/-- Elements as the bytes of a dense operand (R101–R104). -/
def packElems (fmt : Nat) (l : List Nat) : List Byte :=
  let p := fmtPack fmt
  (List.range (ceilDiv l.length p)).flatMap (fun j =>
    let v := ((l.drop (p * j)).take p).foldr (fun x a => x % 2 ^ fmtBits fmt + a * 2 ^ fmtBits fmt) 0
    leBytes (fmtUnit fmt) (if fmt = 0x10 then withCheck v else v))

/-- `n` elements from the bytes of a dense operand. -/
def unpackElems (fmt n : Nat) (b : List Byte) : List Nat :=
  let p := fmtPack fmt
  (List.range n).map (fun e =>
    nfld (leNat ((b.drop (e / p * fmtUnit fmt)).take (fmtUnit fmt))) (fmtBits fmt * (e % p)) (fmtBits fmt))

/-- Bytes of `n` elements of a dense operand. -/
def denseBytes (fmt n : Nat) : Nat := ceilDiv n (fmtPack fmt) * fmtUnit fmt

/-- A packet's bytes, filled up to a multiple of 32 (R373). -/
def padLen (n : Nat) : Nat := ceilDiv n 32 * 32

/-- A poisoned element's mark, on top of its bits. -/
def taintElem (b : Bool) (v : Nat) : Nat := v % 2 ^ 40 + b2n b * 2 ^ 40
def tainted (v : Nat) : Bool := decide (2 ^ 40 ≤ v)
def cleanElem (v : Nat) : Nat := v % 2 ^ 40

/-! ### Whose rank a frond plays (R416) -/

/-- The stand-in runs the partner's images: in MP mode, once the step of the loss has ended. -/
def standinRuns (s : State) : Bool :=
  (standinFor s).isSome && regB s rFailCtrl 1 && s.fail.freshStep != some (reg s rFailStep).toNat

/-- The logical coordinate at whose rank a frond works. -/
def identOf (s : State) (f : Frond) : Nat :=
  if standinRuns s && f.queue == 3 && decide (8 ≤ taskOf f) then (standinFor s).getD 0 else ownLogical s

/-! ### Ring steps (R385) -/

/-- One exchange of a stage: its dimension, phase, extent and step 1 … K − 1. -/
structure RingStep where
  dim : Nat
  gather : Bool
  k : Nat
  t : Nat
deriving DecidableEq, Repr

def stageSteps (s : State) (g : Nat) (gather : Bool) (x : Nat) : List RingStep :=
  (List.range (groupExt s g x - 1)).map (fun i => ⟨x, gather, groupExt s g x, i + 1⟩)

/-- The steps of a collective: reduce-scatter over d, c, b, a; all-gather over a, b, c, d. -/
def collSteps (s : State) (g opcode : Nat) : List RingStep :=
  let rs := [3, 2, 1, 0].flatMap (stageSteps s g false)
  let ag := [0, 1, 2, 3].flatMap (stageSteps s g true)
  if opcode = 0xC10 then rs else if opcode = 0xC11 then ag else rs ++ ag

/-- The rank with another position in one dimension. -/
def rankAt (s : State) (g rank x o : Nat) : Nat :=
  let p (y : Nat) : Nat := if y = x then o else rankPos s g rank y
  ((p 0 * groupExt s g 1 + p 1) * groupExt s g 2 + p 2) * groupExt s g 3 + p 3

/-- The coordinate of the member `d` positions on in a ring. -/
def ringMate (s : State) (c : Coll) (x d : Nat) : Nat :=
  memberOf s c.group (rankAt s c.group c.rank x ((rankPos s c.group c.rank x + d) % groupExt s c.group x))

/-- Half 0 or half 1 of a vector. -/
def halfOf (h : Bool) (v : List Nat) : List Nat := if h then v.drop (v.length / 2) else v.take (v.length / 2)

/-- Chunk `k` of a half, of a ring of `kk` members. -/
def chunkOf (kk : Nat) (h : Bool) (k : Nat) (v : List Nat) : List Nat :=
  let n := v.length / (2 * kk)
  ((halfOf h v).drop (k % kk * n)).take n

/-- What a member sends in a step in a half: half 0 to the next member, half 1 to the one before. -/
def stepSends (s : State) (c : Coll) (st : RingStep) (h : Bool) : List Nat :=
  let r := rankPos s c.group c.rank st.dim
  if st.t = 1 then (if st.gather then halfOf h c.buf else chunkOf st.k h (if h then r + 1 else r + st.k - 1) c.buf)
  else if st.gather then halfOf h (c.work.drop ((st.t - 2) * c.buf.length))
  else halfOf h c.work

/-- How many elements arrive in a half of a step. -/
def stepCount (c : Coll) (st : RingStep) : Nat := if st.gather then c.buf.length / 2 else c.buf.length / (2 * st.k)

/-- The sum of two elements under R384: strict, to nearest-even, the larger tag of the two. -/
def collAdd (fmt a b : Nat) : Flagged Nat :=
  let v := apply2 fmt ⟨true, 0, false⟩ (numAdd ⟨true, 0, false⟩) (cleanElem a) (cleanElem b) 0
  (taintElem (tainted a || tainted b) v.1, v.2 &&& (fInvalid ||| fOverflow ||| fNanIn))

/-- A received chunk with the member's own added. -/
def addChunk (fmt : Nat) (got own : List Nat) : Flagged (List Nat) :=
  (got.zip own).foldl (fun a p => let v := collAdd fmt p.1 p.2; (a.1 ++ [v.1], a.2 ||| v.2)) ([], 0)

/-- The blocks of an all-gather put in their places. -/
def assemble (c : Coll) (k r : Nat) : List Nat :=
  let n := c.buf.length
  let block (h : Bool) (j : Nat) : List Nat :=
    if j = r then halfOf h c.buf
    else
      let t := if h then (j + k - r) % k else (r + k - j) % k
      halfOf h ((c.work.drop ((t - 1) * n)).take n)
  (List.range k).flatMap (block false) ++ (List.range k).flatMap (block true)

/-- The vectors of a collective after what a step has received. -/
def stepTakes (s : State) (c : Coll) (st : RingStep) (got0 got1 : List Nat) : Coll × Nat :=
  let r := rankPos s c.group c.rank st.dim
  let ends := st.t + 1 == st.k
  let n : Coll := { c with unit := c.unit + 1, sent := false }
  if st.gather then
    let m := { n with work := c.work ++ got0 ++ got1 }
    (if ends then { m with buf := assemble m st.k r, work := [] } else m, 0)
  else
    let a := addChunk c.fmt got0 (chunkOf st.k false (r + 2 * st.k - 1 - st.t) c.buf)
    let b := addChunk c.fmt got1 (chunkOf st.k true (r + 1 + st.t) c.buf)
    (if ends then { n with buf := a.1 ++ b.1, work := [] } else { n with work := a.1 ++ b.1 }, a.2 ||| b.2)

/-- The number of elements of the vector in hand when step `i` begins. -/
def vectorAt (s : State) (g opcode e i : Nat) : Nat :=
  let first := if opcode = 0xC11 then e / groupSize s g else e
  ((collSteps s g opcode).take i).foldl (fun n st =>
    if st.t + 1 = st.k then (if st.gather then n * st.k else n / st.k) else n) first

/-- The positions in the whole vector that a rank's shard holds after the reduce-scatter phase. -/
def shardIndex (s : State) (g rank e : Nat) : List Nat :=
  [3, 2, 1, 0].foldl (fun v x =>
    let k := groupExt s g x
    if k < 2 then v
    else
      let r := rankPos s g rank x
      chunkOf k false r v ++ chunkOf k true r v) (List.range e)

/-! ### Packets -/

/-- Elements that one packet of 512 bytes carries. -/
def perPacket (fmt : Nat) : Nat := 512 / fmtUnit fmt * fmtPack fmt

/-- The ID of a group entry. -/
def groupId (s : State) (g : Nat) : Nat := regF s (rGroupA g) 0 16

/-- COLL packets with a chunk, in the order of their offsets from `base`. -/
def collPackets (s : State) (c : Coll) (st : RingStep) (h : Bool) (base dest : Nat) (l : List Nat) : List Packet :=
  let n := perPacket c.fmt
  (List.range (ceilDiv l.length n)).map (fun j =>
    let part := (l.drop (n * j)).take n
    let hd := newHdr 4 0 (padLen (denseBytes c.fmt part.length)) dest (memberOf s c.group c.rank) c.tag (base + 512 * j)
    { hdr := { hd with poison := part.any tainted }
      body := .coll (groupId s c.group) c.opcode c.e c.fmt st.dim st.gather st.t h (part.map cleanElem) })

/-- A packet of the collective's group and tag from one member to this rank. -/
def collFrom (s : State) (c : Coll) (src : Nat) (k : Packet) : Bool :=
  match k.body with
  | .coll gr _ _ _ _ _ _ _ _ =>
    gr == groupId s c.group && k.hdr.tag.toNat == c.tag && k.hdr.srcL.toNat == src &&
      k.hdr.destL.toNat == memberOf s c.group c.rank
  | _ => false

/-- The opcode, count and format that a packet names are the collective's (R387). -/
def collSame (c : Coll) (k : Packet) : Bool :=
  match k.body with
  | .coll _ op e fmt _ _ _ _ _ => op == c.opcode && e == c.e && fmt == c.fmt
  | _ => false

/-- The packet with the elements at an offset of a chunk. -/
def collAt (c : Coll) (st : RingStep) (h : Bool) (off : Nat) (k : Packet) : Bool :=
  collSame c k && k.hdr.offset.toNat == off &&
  (match k.body with
   | .coll _ _ _ _ dim ga t hf _ => dim == st.dim && ga == st.gather && t == st.t && hf == h
   | _ => false)

/-- The elements of a packet, poisoned where its POISON bit is set. -/
def elemsOf (k : Packet) : List Nat :=
  match k.body with
  | .coll _ _ _ _ _ _ _ _ l => l.map (taintElem k.hdr.poison)
  | _ => []

/-- A chunk of `n` elements from one member, out of the packets that wait; nothing while some of it is missing. -/
def takeChunk (s : State) (c : Coll) (st : RingStep) (h : Bool) (base src n : Nat) (early : List Packet) :
    Option (List Nat × List Packet) :=
  (List.range (ceilDiv n (perPacket c.fmt))).foldl (fun (a : Option (List Nat × List Packet)) j =>
    match a with
    | none => none
    | some (l, ks) =>
      match ks.find? (fun k => collFrom s c src k && collAt c st h (base + 512 * j) k) with
      | some k => some (l ++ elemsOf k, ks.erase k)
      | none => none) (some ([], early))

/-- A waiting packet of the collective names another opcode, count or format (R387). -/
def collClash (s : State) (c : Coll) (srcs : List Nat) : Bool :=
  s.links.early.any (fun k => srcs.any (fun x => collFrom s c x k) && !collSame c k)

/-- The state without the packets of such a peer. -/
def dropClash (c : Coll) (s : State) : State :=
  let bad (k : Packet) : Bool := !collSame c k && collFrom s c k.hdr.srcL.toNat k
  { s with links := { s.links with early := s.links.early.filter (fun k => !bad k) } }

/-- The packets that a member sends in the step in hand, with the coordinates they go to. -/
def stepPackets (s : State) (c : Coll) (st : RingStep) : List Packet :=
  collPackets s c st false 0 (ringMate s c st.dim 1) (stepSends s c st false) ++
  collPackets s c st true 0 (ringMate s c st.dim (st.k - 1)) (stepSends s c st true)

/-- The outcome of an exchange: wait, a mismatch, or the collective as it goes on, with what is left of the packets that
wait and the flags raised. -/
inductive Exchange where
  | wait
  | clash
  | go (c : Coll) (early : List Packet) (flags : Nat)

/-- What a member receives in the step in hand. -/
def stepExchange (s : State) (c : Coll) (st : RingStep) : Exchange :=
  let before := ringMate s c st.dim (st.k - 1)
  let after := ringMate s c st.dim 1
  let n := stepCount c st
  let got := match takeChunk s c st false 0 before n s.links.early with
    | none => none
    | some (a, ks) =>
      match takeChunk s c st true 0 after n ks with
      | none => none
      | some (b, ks2) => some (a, b, ks2)
  match got with
  | some (a, b, ks) =>
    let v := stepTakes s c st a b
    .go v.1 ks v.2
  | none => if collClash s c [before, after] then .clash else .wait

/-! ### Broadcast (R386) -/

/-- The member's distance from the root's position in a dimension. -/
def offRoot (s : State) (c : Coll) (x : Nat) : Nat :=
  (rankPos s c.group c.rank x + groupExt s c.group x - rankPos s c.group c.root x) % groupExt s c.group x

/-- The dimension by which the data reach a member: the last in which it stands off the root's position. -/
def bcastIn (s : State) (c : Coll) : Option Nat := [3, 2, 1, 0].find? (fun x => offRoot s c x != 0)

/-- The dimensions by which a member passes the data on. -/
def bcastOut (s : State) (c : Coll) : List Nat :=
  [0, 1, 2, 3].filter (fun x => match bcastIn s c with
    | none => decide (2 ≤ groupExt s c.group x)
    | some y => decide (y < x ∧ 2 ≤ groupExt s c.group x) || (x == y && decide (offRoot s c x + 1 < groupExt s c.group x)))

/-- The exchange of a piece in a dimension. -/
def bcastStep (x : Nat) : RingStep := ⟨x, true, 2, 0⟩

/-- The packets with which a member passes piece `i` on. -/
def bcastPackets (s : State) (c : Coll) (i : Nat) (l : List Nat) : List Packet :=
  (bcastOut s c).flatMap (fun x => collPackets s c (bcastStep x) false (65536 * i) (ringMate s c x 1) l)

/-- Elements of piece `i`. -/
def pieceCount (c : Coll) (i : Nat) : Nat := min (unitElems c.fmt) (c.e - i * unitElems c.fmt)

/-- A member receives piece `i`. -/
def bcastExchange (s : State) (c : Coll) (i : Nat) : Exchange :=
  match bcastIn s c with
  | none => .wait
  | some x =>
    let src := ringMate s c x (groupExt s c.group x - 1)
    match takeChunk s c (bcastStep x) false (65536 * i) src (pieceCount c i) s.links.early with
    | some (l, ks) => .go { c with buf := l, unit := c.unit + 1 } ks 0
    | none => if collClash s c [src] then .clash else .wait

/-! ### A frond's collective -/

/-- Slot 3 of an all-gather or a broadcast, slot 0 of the others, gives E (R393). -/
def collElems (f : Frond) : Nat :=
  if opcodeOf f = 0xC10 ∨ opcodeOf f = 0xC12 then (slotOf f 0).elems else (slotOf f 3).elems

/-- The collective of a frond, at the rank it plays. -/
def collOf (s : State) (f : Frond) : Option Coll :=
  match groupIdx s (parF f 0 0 16) with
  | none => none
  | some g =>
    match rankOf s g (identOf s f) with
    | none => none
    | some r => some { opcode := opcodeOf f, e := collElems f, fmt := (slotOf f 3).fmt, group := g, tag := par f 2, rank := r,
                       root := parF f 3 0 16, unit := f.unit, sent := f.sent != 0, buf := f.buf, work := f.work }

/-- The ring step of unit `i`. -/
def stepOf (s : State) (c : Coll) : Option RingStep := (collSteps s c.group c.opcode)[c.unit]?

/-- The packets of the step in hand that go to one coordinate are sent again (R389, R416). -/
def resendStep (s : State) (f : Frond) (dest : Nat) : State :=
  if f.sent = 0 then s
  else
    match collOf s f with
    | none => s
    | some c =>
      match stepOf s c with
      | none => s
      | some st => ((stepPackets s c st).filter (fun k => k.hdr.destL.toNat == dest)).foldl inject s

/-! ### Landing of tee data (R407) -/

/-- An accepted TEE_APPLY of a source coordinate and tag. -/
def teeApplyOf (src tag : Nat) (f : Frond) : Bool :=
  opcodeOf f == 0xD00 && f.phase == .working && !f.noWork && !f.worked && par f 1 == src && par f 2 == tag

/-- Where the tee data of a TEE_APPLY land, and how many bytes. -/
def landAt (f : Frond) : Nat := ((slotOf f 3).wbase + (slotOf f 3).base) % 2 ^ 40
def landSize (f : Frond) : Nat := (slotOf f 3).elems

/-- Bytes of the extent that have landed, as a bit mask. -/
def landed (f : Frond) : Nat := f.work.headD 0

/-- A run of bytes from an offset of the extent, as a mask. -/
def landMask (off n : Nat) : Nat := (2 ^ n - 1) * 2 ^ off

/-- Bytes land at an offset of a TEE_APPLY's extent. -/
def landBytes (s : State) (f : Frond) (off : Nat) (d : List Byte) (poison : Bool) : State :=
  let b := d.take (landSize f - off)
  let s1 := putBytes s (landAt f + off) b
  putFrond s1 { f with work := [landed f ||| landMask off b.length], sent := 1, poisoned := f.poisoned || poison }

/-! ### The stood-in rank (R416) -/

/-- The stand-in contributes +0 at the stood-in rank: in DP mode always, in MP mode in the step of the loss. -/
def ghostPlays (s : State) : Bool := (standinFor s).isSome && !standinRuns s

/-- The steps of a collective at a rank: ring steps, or the pieces of a broadcast. -/
def ghostEnd (s : State) (c : Coll) : Nat :=
  if c.opcode = 0xC13 then ceilDiv c.e (unitElems c.fmt) else (collSteps s c.group c.opcode).length

/-- A collective at the stood-in rank, from step `i` on, with +0 for all it holds. -/
def ghostAt (s : State) (g rank opcode e fmt tag root i : Nat) : Coll :=
  let c : Coll := { opcode := opcode, e := e, fmt := fmt, group := g, tag := tag, rank := rank, root := root, unit := i,
                    sent := false, buf := List.replicate (vectorAt s g opcode e i) 0, work := [] }
  match (collSteps s g opcode)[i]? with
  | some st =>
    let n := if st.gather then (st.t - 1) * c.buf.length else if st.t = 1 then 0 else c.buf.length / st.k
    { c with work := List.replicate n 0 }
  | none => c

/-- The result of the stood-in rank goes to the extent of the TEE_APPLY that names the coordinate and the tag, as far as
the extent reaches; an extent of the size of a shard takes the shard of an ALL_REDUCE. -/
def ghostWrite (s : State) (c : Coll) : Option State :=
  let src := memberOf s c.group c.rank
  match s.fronds.find? (teeApplyOf src c.tag) with
  | none => none
  | some f =>
    let all := packElems c.fmt (c.buf.map cleanElem)
    let shard := packElems c.fmt ((shardIndex s c.group c.rank c.e).map (fun i => cleanElem (c.buf.getD i 0)))
    some (landBytes s f 0 (if c.opcode = 0xC12 ∧ landSize f = shard.length then shard else all) (c.buf.any tainted))

/-- A collective at the stood-in rank that waits. -/
def keepGhost (s : State) (c : Coll) : State := { s with links := { s.links with ghosts := s.links.ghosts ++ [c] } }

/-- One collective at the stood-in rank goes as far as what has arrived lets it. The last argument bounds the steps. -/
def runGhost (s : State) (c : Coll) : Nat → State
  | 0 => keepGhost s c
  | n + 1 =>
    if c.opcode = 0xC13 then
      (if ghostEnd s c ≤ c.unit then s
       else if c.rank = c.root then
         runGhost ((bcastPackets s c c.unit (List.replicate (pieceCount c c.unit) 0)).foldl inject s) { c with unit := c.unit + 1 } n
       else
         match bcastExchange s c c.unit with
         | .go d ks _ =>
           let s1 := { s with links := { s.links with early := ks } }
           runGhost ((bcastPackets s1 c c.unit d.buf).foldl inject s1) d n
         | _ => keepGhost s c)
    else
      match stepOf s c with
      | none => (ghostWrite s c).getD (keepGhost s c)
      | some st =>
        let s1 := if c.sent then s else (stepPackets s c st).foldl inject s
        let d := { c with sent := true }
        match stepExchange s1 d st with
        | .go e ks _ => runGhost { s1 with links := { s1.links with early := ks } } e n
        | _ => keepGhost s1 d

/-- Every collective at the stood-in rank goes on. -/
def runGhosts (s : State) : State :=
  s.links.ghosts.foldl (fun x c => runGhost x c (ghostEnd s c + 1)) { s with links := { s.links with ghosts := [] } }

/-- A collective at the stood-in rank begins, unless it is under way. -/
def startGhost (s : State) (c : Coll) : State :=
  let same (d : Coll) : Bool := d.group == c.group && d.tag == c.tag
  if s.links.ghosts.any (fun d => same d && decide (d.unit < ghostEnd s d)) then s
  else { s with links := { s.links with ghosts := s.links.ghosts.filter (fun d => !same d) ++ [c] } }

/-- A frond of this module begins a collective: the stood-in rank of its group begins it too. -/
def ghostFor (s : State) (c : Coll) : State :=
  if !ghostPlays s then s
  else
    match rankOf s c.group ((standinFor s).getD 0) with
    | some r => if r = c.rank then s else startGhost s (ghostAt s c.group r c.opcode c.e c.fmt c.tag c.root 0)
    | none => s

/-- A packet for the stood-in rank finds no collective there: it begins at the step of the packet. The root of a
broadcast is not in its packets, and only a member that passes data on takes part in one so begun (log entry 113). -/
def ghostFrom (s : State) (k : Packet) : State :=
  if !ghostPlays s || standinFor s != some k.hdr.destL.toNat then s
  else
    match k.body with
    | .coll id op e fmt dim ga t _ _ =>
      (match groupIdx s id with
       | none => s
       | some g =>
         match rankOf s g k.hdr.destL.toNat with
         | none => s
         | some r =>
           if op = 0xC13 then s
           else
             let i := ((collSteps s g op).findIdx? (fun st => st.dim == dim && st.gather == ga && st.t == t)).getD 0
             startGhost s (ghostAt s g r op e fmt k.hdr.tag.toNat 0 i))
    | _ => s

end Sys2Proof.Machine
end

