-- ==== Sys2Proof/Machine/Errors.lean ====
section
/-! DEFINITION. Error detection in the datapath and its escalation (R18, R254, R270, R427–R432). -/

namespace Sys2Proof.Machine
open Sys2Proof

/-- An accepted frond stops with a status and is released as its work would be (R429, R431). -/
def stopFrond (s : State) (f : Frond) (st : Status) : State :=
  let g := { f with skip := worse f.skip st, phase := .finished, ended := beat s, held := false, parked := none,
                    grants := [], page := none }
  putFrond (unpend s f) g

/-- The fronds in flight of the regions that `here` picks complete FAULT (R431, R432). -/
def stopInFlight (s : State) (here : Nat → Bool) : State :=
  (s.fronds.filter (fun f => f.phase == .working && here f.region)).foldl (fun x f => stopFrond x f .fault) s

/-- The LOSS payload of a module that declares itself (R411, R413, R414). -/
def selfLoss (s : State) : Packet :=
  let l := ownLogical s
  let st := match s.fail.partners.find? (fun (a, _) => a == l) with
    | some (_, b) => physOf s b
    | none => 0xFFFFFFFF
  { hdr := newHdr 0x20 2 32 0 l 0 0
    body := .loss (BitVec.ofNat 32 l) (BitVec.ofNat 32 (ownPhys s)) (BitVec.ofNat 32 st) (BitVec.ofNat 32 (ownPhys s))
      (BitVec.ofNat 64 (beat s)) 2 false false }

/-- Every port stops. -/
def stopPorts (s : State) : State := forRange 0 16 (fun p x => setB x (rLinkStat p) 0 false) s

/-- The module declares itself lost: LOSS with cause SELF on every up port, and then its ports stop (R411). -/
def declareSelf (s : State) : State :=
  let s1 := sendAll s (selfLoss s) none
  stopPorts (logChip s1 0x4001 (payDefault 0 0 (ownPhys s)))

/-- A module fault, caused by the event whose low code byte is `cause`: every region stops, FAULT_N is asserted, and an
armed module declares itself (R430, R432, R502). -/
def moduleFault (s : State) (cause : Nat) : State :=
  if s.maint.moduleFault then s
  else
    let s1 := logChip s 0x4062 (payDefault 0 cause 0)
    let s2 := { s1 with maint := { s1.maint with moduleFault := true }, pins := { s1.pins with faultN := true } }
    let s3 := stopInFlight s2 (fun _ => true)
    if regB s3 rFailCtrl 0 then declareSelf s3 else s3

/-- Decoded fronds of an isolated region that were not accepted: released FAULT from the fourth work beat on (R431). -/
def faultDecoded (s : State) (r : Nat) : State :=
  let b := beat s + 4
  { s with fronds := s.fronds.map (fun f =>
      if f.region == r && f.phase == .decoded then
        { f with skip := worse f.skip .fault, noWork := true, phase := .finished, acc := beat s, prom := b, ended := beat s }
      else f) }

/-- A region fault: its fronds in flight complete FAULT, and it is isolated or faults the module (R430, R431). -/
def regionFault (s : State) (r cause : Nat) : State :=
  if s.maint.faultedRegions.contains r then s
  else
    let s1 := logQueue { s with maint := { s.maint with faultedRegions := s.maint.faultedRegions ++ [r] } } 0x1073 r
      (payDefault 0 cause 0)
    let s2 := stopInFlight s1 (· == r)
    if regB s2 rFailCtrl 0 || !regB s2 rEscCtrl 0 then moduleFault s2 0x73
    else faultDecoded { s2 with maint := { s2.maint with isolated := s2.maint.isolated ++ [r] } } r

/-! ### Units with cells -/

/-- Engines with cells: M-, V- and P-blocks, the rhizoid engine, and the spore expander beside it as number 60 (R427). -/
def hasCells (e : Nat) : Bool := decide (e % 64 < 14) || e % 64 == 16 || e % 64 == 60

/-- The units with cells that a frond uses, in the order of R434's unit index; the spore expander works beside the
rhizoid engine (R262, R286). What a SELFTEST detects is its own result, and is not replayed (R449). -/
def cellUnits (f : Frond) : List Nat :=
  let l := if opcodeOf f = 0xE00 then [] else f.engines.filter hasCells
  l ++ (l.filter (fun e => e % 64 == 16)).map (fun e => e + 44)

/-- Source class and unit index of an engine with cells (R434). -/
def unitClass (e : Nat) : Nat :=
  let k := e % 64
  if k < 6 then 3 else if k < 10 then 4 else if k < 14 then 5 else if k = 16 then 0xA else 0xB

def unitIndex (e : Nat) : Nat :=
  let k := e % 64
  if k < 6 then k else if k < 10 then k - 6 else if k < 14 then k - 10 else 0

/-- The frond works on residues in RES36 form (R427). -/
def worksResidues (s : State) (f : Frond) : Bool :=
  let o := opcodeOf f
  (o == 0x210 || o == 0x211 || o == 0x310 || o == 0x311 || o == 0x312) ||
  (List.range 4).any (fun i => (slotOf f i).fmt == 0x10) || f.dtiles.any (fun k => regF s (rTileShapeOf k) 24 8 == 0x10)

/-- The check that detects in a unit (R427, R439): 0 modulus 31, 1 modulus 127, 2 parity. -/
def checkCode (s : State) (f : Frond) (e : Nat) : Nat :=
  let k := e % 64
  if k = 60 then 2 else if k = 16 || (10 ≤ k && k < 14) then 1 else if worksResidues s f then 1 else 0

/-- The payload of CELL_REPLAY and CELL_FAULT (R439). -/
def cellPay (s : State) (f : Frond) (e : Nat) : Nat :=
  opcodeOf f + checkCode s f e <<< 16 + (f.unit % 2 ^ 32) <<< 32

/-- The unit in hand, counted over the repetitions. -/
def unitNo (f : Frond) : Nat := f.rep * (f.units + 1) + f.unit

/-- Whether a frond has met a replay in the repetition in hand: the first is covered by its allowance (R49, R56). -/
def replayedInRep (f : Frond) : Bool := f.replays.any (fun (_, _, u) => u / (f.units + 1) == f.rep)

/-- The replay counter of a unit (R272, R324, R347); P-blocks have none. -/
def replayReg (e : Nat) : Option Nat :=
  let r := e / 64
  let k := e % 64
  if k < 6 then some (rMb r k 0x18) else if k < 10 then some (rVb r (k - 6) 0x18)
  else if k = 16 then some (rTow r 0x818) else if k = 60 then some (rTow r 0x1010) else none

/-- A first detection in a granule: it is replayed (R429, R254). -/
def cellReplayAt (s : State) (f : Frond) (e cell : Nat) : State :=
  let s1 := countNd s rNdRetry 1
  let s2 := match replayReg e with
    | some o => bump s1 o 1
    | none => s1
  let s3 := logUnit s2 f 0x1070 (unitClass e) (srcIndex (e / 64) (unitIndex e) cell) (cellPay s f e)
  let g := { f with recomputed := true, replays := f.replays ++ [(e, cell, unitNo f)],
                    causes := if replayedInRep f then f.causes ++ [2] else f.causes }
  putFrond s3 g

/-- Counter beats of MAINT.ESC_CTRL's window. -/
def windowBeats (s : State) : Nat := regF s rEscCtrl 16 16 * 1250000

/-- A cell fault is counted against CELL_LIMIT within the window, and may fault the region (R430). -/
def countCellFault (s : State) (e cell : Nat) : State :=
  let key (x : Nat × Nat × Nat × Nat × Nat) : Bool :=
    x.1 == e / 64 && x.2.1 == unitClass e && x.2.2.1 == unitIndex e && x.2.2.2.1 == cell
  let near := s.maint.cellFaults.filter (fun x => decide (beat s < x.2.2.2.2 + windowBeats s) || beat s == x.2.2.2.2)
  let all := near ++ [(e / 64, unitClass e, unitIndex e, cell, beat s)]
  let s1 := { s with maint := { s.maint with cellFaults := all } }
  if max 1 (regF s rEscCtrl 8 4) ≤ (all.filter key).length then regionFault s1 (e / 64) 0x71 else s1

/-- A second detection in the replay: the frond stops FAULT (R429). -/
def cellFaultAt (s : State) (f : Frond) (e cell : Nat) : State :=
  let s1 := logUnit s f 0x1071 (unitClass e) (srcIndex (e / 64) (unitIndex e) cell) (cellPay s f e)
  countCellFault (stopFrond s1 f .fault) e cell

/-- A frond that engines are working on. -/
def atWork (f : Frond) : Bool := f.phase == .working && !f.noWork

/-- A SELFTEST's detections are its own result (R449). -/
def inTest (f : Frond) : Bool := opcodeOf f == 0xE00

/-- CELL_REPLAY. -/
def cellReplay (s : State) (x : FrondRef) (u : UnitSel) (cell : Fin 8) : State :=
  match findFrond s x with
  | none => s
  | some f =>
    match (cellUnits f)[u.val]? with
    | none => s
    | some e => if atWork f then cellReplayAt s f e cell.val else s

/-- CELL_FAULT, in the replay of a granule of the unit in hand. -/
def cellFault (s : State) (x : FrondRef) (u : UnitSel) (cell : Fin 8) : State :=
  match findFrond s x with
  | none => s
  | some f =>
    match (cellUnits f)[u.val]? with
    | none => s
    | some e => if atWork f && f.replays.contains (e, cell.val, unitNo f) then cellFaultAt s f e cell.val else s

/-- BLOCK_FAULT: parity in the copy engine has no replay (R429). -/
def blockFault (s : State) (x : FrondRef) : State :=
  match findFrond s x with
  | none => s
  | some f =>
    if atWork f && !inTest f && f.engines.contains (f.region * 64 + 15) then
      stopFrond (logUnit s f 0x1072 7 (srcUnit f.region 0) (payDefault (opcodeOf f) 0 0)) f .fault
    else s

/-- PERI_PARITY: the permutation of the limb position is repeated; a second detection on the limb ends the frond
(R270). -/
def periParity (s : State) (x : FrondRef) : State :=
  match findFrond s x with
  | none => s
  | some f =>
    let e := f.region * 64 + 14
    if atWork f && !inTest f && f.engines.contains e then
      let s1 := bump (logUnit s f 0x1064 6 (srcUnit f.region 0) (payDefault (opcodeOf f) 0 0)) (rPeri f.region 0x18) 1
      if f.replays.contains (e, 0xF, unitNo f) then stopFrond s1 f .fault
      else
        let g := { f with recomputed := true, replays := f.replays ++ [(e, 0xF, unitNo f)],
                          causes := if replayedInRep f then f.causes ++ [2] else f.causes }
        putFrond (countNd s1 rNdRetry 1) g
    else s

/-- SPORE_EXPANDER_REPLAY: a lane-parity mismatch replays the permutation from the cell's snapshot (R254, R429). -/
def sporeReplay (s : State) (x : FrondRef) (cell : Fin 8) : State :=
  match findFrond s x with
  | none => s
  | some f =>
    if atWork f && f.engines.contains (f.region * 64 + 16) then cellReplayAt s f (f.region * 64 + 60) cell.val else s

/-- BRIDGE_REPLAY: counted as a retry, of which one in a frond's path is covered (R49, R56); the eighth replay in a row of a die's transfers faults the module (R18, R430).
Replays of one transfer follow each other within the 16 bt that a replay adds (DESIGN CHOICE, log entry 13). -/
def bridgeReplay (s : State) (d : Nat) : State :=
  let last := agetN s.maint.bridgeRow (d + 2)
  let run := agetN s.maint.bridgeRow d
  let n := if run > 0 && beat s ≤ last + 16 then run + 1 else 1
  let s0 := { s with fronds := s.fronds.map (fun f =>
    if atWork f && (List.range 4).any (fun i => !(slotOf f i).empty && crosses s f.region (slotOf f i) f.rep) then
      { f with bridges := f.bridges + 1, causes := if 1 ≤ f.bridges then f.causes ++ [3] else f.causes }
    else f) }
  let s1 := countNd s0 rNdRetry 1
  let s2 := { s1 with maint := { s1.maint with bridgeRow := aset (aset s1.maint.bridgeRow d n) (d + 2) (beat s) } }
  if n = 8 then moduleFault (logEv s2 0x2050 0x12 (srcUnit d 0) (payDefault 0 0 0)) 0x50 else s2

/-! ### The commands -/

/-- CELL_REPLAY (R429). -/
def execCellReplay (f : FrondRef) (u : UnitSel) (cell : Fin 8) (s : State) : Answer := effect s (cellReplay s f u cell)

/-- CELL_FAULT (R429, R430). -/
def execCellFault (f : FrondRef) (u : UnitSel) (cell : Fin 8) (s : State) : Answer := effect s (cellFault s f u cell)

/-- SEQUENCER_PARITY (R430). -/
def execSequencerParity (r : Fin 8) (s : State) : Answer := effect s (regionFault s r.val 0)

/-- BLOCK_FAULT (R429). -/
def execBlockFault (f : FrondRef) (s : State) : Answer := effect s (blockFault s f)

/-- BRIDGE_REPLAY (R18, R430). -/
def execBridgeReplay (d : Fin 2) (s : State) : Answer := effect s (bridgeReplay s d.val)

/-- PERI_PARITY (R270). -/
def execPeriParity (f : FrondRef) (s : State) : Answer := effect s (periParity s f)

/-- SPORE_EXPANDER_REPLAY (R254). -/
def execSporeExpanderReplay (f : FrondRef) (cell : Fin 8) (s : State) : Answer := effect s (sporeReplay s f cell)

end Sys2Proof.Machine
end

