-- ==== Sys2Proof/Machine/ExtMem.lean ====
section
/-! DEFINITION. Memory accesses by host ports and the management core (R32, R159, R161, R170, R171, R176, R482). -/

namespace Sys2Proof.Machine
open Sys2Proof

/-- The read checks of every 32-byte sector, or mat line, that an access touches. -/
def noteSpan (s : State) (a n : Nat) : State :=
  forRange 0 ((a % 32 + n + 31) / 32) (fun i x =>
    let b := (a / 32 + i) * 32
    match resolve x b with
    | .mat r o => if o % 64 = 0 ∨ i = 0 ∨ pclass x r o = 2 then readMat x r o false else x
    | .hbm h => readHbm x h false
    | _ => x) s

/-- A byte of an access lies in a poisoned line or granule. -/
def poisonedSpan (s : State) (a n : Nat) : Bool := forRange 0 n (fun i b => b || poisonedAt s (a + i)) false

/-- The event of an external read of poisoned data (R161, R171): the mat or the tower controller is the source. -/
def logPoisonRead (s : State) (a : Nat) : State :=
  match resolve s a with
  | .mat r _ => logEv s 0x2024 2 (srcUnit r 0) (payDefault 0 0 a)
  | .hbm h => logEv s 0x2033 9 (srcUnit (towerOf s h).1 0) (payDefault 0 0 a)
  | _ => s

/-- A read by a host port or the management core: the state after its checks, the data, and whether it was poisoned. -/
def extRead (s : State) (a n : Nat) : State × List Byte × Bool :=
  let s1 := noteSpan s a n
  let p := poisonedSpan s1 a n
  (if p then logPoisonRead s1 a else s1, bytesAt s1 a n, p)

/-- The quiesced tower that an access has to wait for (R176). -/
def quiescedFor (s : State) (a n : Nat) : Bool :=
  forRange 0 n (fun i b => b || (match resolve s (a + i) with
    | .hbm h => regB s (rTow (towerOf s h).1 0) 0
    | _ => false)) false

/-- A port's window can be reached: its link is up and the host has enabled bus mastering and ATS (R482). -/
def windowOk (s : State) (a : Nat) : Bool :=
  match resolve s a with
  | .host p _ => regB s (rPcieStat p) 0 && regB s (rPcieStat p) 11 && regB s (rPcieStat p) 12
  | _ => true

/-- A memory read by the host of port `p`, at a device address (R32, R161, R171, R477). -/
def hostMemRead (s : State) (p a n : Nat) : State :=
  if mapped s a n && windowOk s a then
    let t := extRead s a n
    emit t.1 (.cpl p t.2.1 t.2.2)
  else emit (logEv s 0x2001 0xD (srcUnit p 0) (payDefault 0 0 a)) (.unsupported p)

/-- A memory write by the host of port `p`. -/
def hostMemWrite (s : State) (p a : Nat) (d : List Byte) : State :=
  if mapped s a d.length && windowOk s a then externalWrite s a d
  else logEv s 0x2001 0xD (srcUnit p 0) (payDefault 0 0 a)

/-- A load or store of the management core. -/
def mgmtMem (s : State) (wr : Bool) (a : Nat) (d : List Byte) (n : Nat) : State :=
  if wr then
    (if mapped s a d.length && windowOk s a then emit (externalWrite s a d) (.mgmt [] false)
     else emit (logEv s 0x2001 0xE (srcUnit 0 0) (payDefault 0 0 a)) (.mgmt [] true))
  else if mapped s a n && windowOk s a then
    let t := extRead s a n
    emit t.1 (.mgmt t.2.1 t.2.2)
  else emit (logEv s 0x2001 0xE (srcUnit 0 0) (payDefault 0 0 a)) (.mgmt (List.replicate n 0) true)

/-- An access that waits for a quiesced tower, with its device address as the offset. -/
def hold (s : State) (i : Instr) : State := { s with heldAccess := s.heldAccess ++ [i] }

/-- A held access is performed (R176). -/
def performHeld (s : State) (i : Instr) : State :=
  match i with
  | .hostBarRead p _ a n => hostMemRead s p.val a n
  | .hostBarWrite p _ a d => hostMemWrite s p.val a d
  | .mgmtCoreAccess wr a d n => mgmtMem s wr a.toNat d n
  | _ => s

/-- The device address and length of a held access. -/
def heldSpan : Instr → Nat × Nat
  | .hostBarRead _ _ a n => (a, n)
  | .hostBarWrite _ _ a d => (a, d.length)
  | .mgmtCoreAccess wr a d n => (a.toNat, if wr then d.length else n)
  | _ => (0, 0)

/-- The held accesses that no quiesced tower keeps any longer are performed, in order. -/
def releaseAccesses (s : State) : State :=
  let go := s.heldAccess.filter (fun i => !quiescedFor s (heldSpan i).1 (heldSpan i).2)
  let stay := s.heldAccess.filter (fun i => quiescedFor s (heldSpan i).1 (heldSpan i).2)
  go.foldl performHeld { s with heldAccess := stay }

end Sys2Proof.Machine
end

