-- ==== Sys2Proof/Machine/Maint.lean ====
section
/-! DEFINITION. The maintenance arbiter (R443–R447), the log drain (R442) and background scrub (R446). -/

namespace Sys2Proof.Machine
open Sys2Proof

/-- Activity codes (R443). -/
def actCode : Activity → Nat
  | .scrub => 1 | .margin => 2 | .retrain => 3 | .drain => 4 | .fill => 5 | .epoch => 6 | .thermal => 7 | .selftest => 8

/-- The place of an activity in the order in which the arbiter takes requests (R445). -/
def actRank : Activity → Nat
  | .epoch => 0 | .fill => 1 | .drain => 2 | .retrain => 3 | .thermal => 4 | .scrub => 5 | .margin => 6 | .selftest => 7

/-- Towers that a request's scope takes, as a bit mask (R443). A SCRUB has the scope `t`, or 256 and a mask for a
SCRUB_RANGE; a DRAIN takes every tower when its ring lies in HBM. -/
def towersOf (s : State) (q : MaintReq) : Nat :=
  match q.act with
  | .scrub => if q.scope < 256 then 2 ^ q.scope else q.scope % 256
  | .margin => 2 ^ q.scope
  | .drain => if (reg s rDrainBase).toNat < 0x6000000000 then 255 else 0
  | .fill => 255
  | .epoch => 255
  | _ => 0

/-- Whether two towers' scopes meet. -/
def towersMeet (s : State) (a b : MaintReq) : Bool := (towersOf s a) &&& (towersOf s b) != 0

/-- The exclusion matrix (R444). -/
def conflicts (s : State) (a b : MaintReq) : Bool :=
  match a.act, b.act with
  | .scrub, .scrub => towersMeet s a b
  | .scrub, .margin => towersMeet s a b
  | .margin, .scrub => towersMeet s a b
  | .margin, .margin => towersMeet s a b
  | .margin, .drain => towersMeet s a b
  | .drain, .margin => towersMeet s a b
  | .margin, .fill => towersMeet s a b
  | .fill, .margin => towersMeet s a b
  | .margin, .epoch => towersMeet s a b
  | .epoch, .margin => towersMeet s a b
  | .margin, .thermal => true
  | .thermal, .margin => true
  | .margin, .selftest => true
  | .selftest, .margin => true
  | .retrain, .retrain => a.scope == b.scope
  | .drain, .drain => true
  | .fill, .fill => true
  | .epoch, .epoch => true
  | .thermal, .thermal => a.scope == b.scope
  | .thermal, .selftest => true
  | .selftest, .thermal => true
  | .selftest, .selftest => a.scope == b.scope
  | _, _ => false

/-- An event of the maintenance arbiter (R439). -/
def logMaint (s : State) (code pay : Nat) : State := logEv s code 0x11 (srcUnit 0 0) pay

/-- The scope index of the log payloads. -/
def scopeIdx (q : MaintReq) : Nat := if q.scope < 256 then q.scope else 0xFF

/-- MAINT.STAT follows the arbiter (R455). -/
def maintStat (s : State) : State :=
  let run := s.maint.running.foldl (fun a q => a ||| 2 ^ (actCode q.act - 1)) 0
  setReg s rMaintStat (BitVec.ofNat 64 (run + (min 255 s.maint.queued.length) * 256))

/-! ### Background scrub (R446) -/

/-- One sector of a tower is scrubbed. A sector that fails the sector check counts only where it holds residues, which
nothing in the device tells apart: that is a free value (log entry 15). Answers with the counts of sectors rewritten
and of granules poisoned. -/
def scrubSector (s : State) (h : Nat) : State × Nat × Nat :=
  let up := aget s.upsets (sectorKey s h)
  let g := granuleOf s h
  let was := smem s.towPoison g
  let t := if sectorOk (sectorAt s h) then (0, s) else takeFree s
  let s1 := readHbm t.2 h (t.1 % 2 == 1)
  let s2 := if up == some .dramCorrected then dropUpset s1 (sectorKey s h) else s1
  (s2, b2n (up == some .dramCorrected), b2n (!was && smem s2.towPoison g))

/-- SCRUB_PASS_DONE (R439, R446). -/
def logPass (s : State) (tower fixed bad : Nat) : State :=
  logMaint s 0x6010 (tower + (fixed % 2 ^ 32) <<< 32 + (bad % 2 ^ 32) <<< 64)

/-- One granule of the background scrub of tower `t`. -/
def scrubGranule (s : State) (t g : Nat) : State :=
  forRange 0 128 (fun i x =>
    let r := scrubSector x (hbmOf x t (g * 4096 + 32 * i))
    let m := r.1.maint
    { r.1 with maint := { m with scrubFixed := aset m.scrubFixed t (agetN m.scrubFixed t + r.2.1),
                                 scrubBad := aset m.scrubBad t (agetN m.scrubBad t + r.2.2) } }) s

/-- The 64 granules of a tower from granule `g` on. -/
def scrubRun (s : State) (t g : Nat) : State := forRange g 64 (fun i x => scrubGranule x t i) s

/-- The next pass of a tower begins: its counts and its position start again, and the passes are counted. -/
def endPass (s : State) (t : Nat) : State :=
  let m := s.maint
  let s1 := { s with maint := { m with scrubFixed := aset m.scrubFixed t 0, scrubBad := aset m.scrubBad t 0 } }
  setF (setF s1 (rScrubPos t) 0 24 0) (rScrubPos t) 24 40 (satAdd 40 (regF s1 (rScrubPos t) 24 40) 1)

/-- One step: 64 granules from SCRUB_POS on, and the end of the pass after the last (R446). -/
def scrubStepOf (s : State) (t : Nat) : State :=
  let g := regF s (rScrubPos t) 0 24
  let s1 := scrubRun s t g
  if g + 64 < granules then setF s1 (rScrubPos t) 0 24 (g + 64)
  else
    endPass (logPass s1 t (agetN s1.maint.scrubFixed t) (agetN s1.maint.scrubBad t)) t

/-! ### The log drain (R442) -/

/-- Entries of the drain ring: 2^LOG2, with LOG2 held within 6–16 (DESIGN CHOICE, log entry 16). -/
def drainSize (s : State) : Nat := 2 ^ max 6 (min 16 (regF s rDrainCfg 0 5))

/-- The drain ring is full. -/
def drainFull (s : State) : Bool :=
  countGap (regF s rDrainTail 0 32) (regF s rDrainHead 0 32) == drainSize s

/-- Entries are copied from TAIL on, until HEAD or a full drain ring. The last argument bounds their number. -/
def drainFrom (s : State) : Nat → State
  | 0 => s
  | n + 1 =>
    let tail := regF s rLogTail 0 32
    if tail = regF s rLogHead 0 32 then s
    else if drainFull s then
      if s.log.stalled then s
      else logMaint { s with log := { s.log with stalled := true } } 0x6031 ((reg s rDrainBase).toNat <<< 32)
    else
      let k := regF s rDrainHead 0 32
      let a := (reg s rDrainBase).toNat + 32 * (k % drainSize s)
      let e := match aget s.log.ring (tail % 8192) with
        | some x => entryBits x
        | none => 0
      let s1 := if windowOk s a then putBytes s a (leBytes 32 e) else s
      drainFrom (setF (setF s1 rDrainHead 0 32 (countAdd k 1)) rLogTail 0 32 (countAdd tail 1)) n

/-! ### Starting and ending activities -/

/-- A pair that degrades may make the link fronds in flight late, with cause RETRY (R376). -/
def degradeFronds (s : State) : State :=
  { s with fronds := s.fronds.map (fun f =>
      if f.phase == .working && opcodeOf f / 256 == 0xC then { f with causes := f.causes ++ [3] } else f) }

/-- A link port is taken down: what it has sent and not seen acknowledged goes to its sibling, which carries the
traffic of the pair (R376). With no sibling up the packets wait for the port's return. -/
def takePortDown (s : State) (p : Nat) : State :=
  if portUp s p then
    let x := linkPort s p
    let moving := x.replay ++ x.out
    let q := sibling p
    let s1 := degradeFronds (logLink (setB s (rLinkStat p) 0 false) 0x3002 p 0 0)
    if portUp s q then
      let s2 := setLinkPort s1 p { x with replay := [], out := [], stuck := 0 }
      moving.foldl (fun y k => sendOn y q k) (setB s2 (rLinkStat q) 2 true)
    else setLinkPort s1 p { x with replay := [], out := moving, stuck := 0 }
  else s

/-- What an activity does as it starts. -/
def beginAct (s : State) (q : MaintReq) : State :=
  match q.act with
  | .scrub => if q.frond.isNone then scrubStepOf s q.scope else s
  | .margin => setB s (rTow q.scope 0x50) 3 true
  | .retrain =>
    let s1 := takePortDown s q.scope
    setB (setLinkPort s1 q.scope { linkPort s1 q.scope with ownDown := true }) (rLinkStat q.scope) 1 false
  | .drain => drainFrom s 8192
  | _ => s

/-- An activity starts. -/
def startAct (s : State) (q : MaintReq) : State :=
  let s1 := { s with maint := { s.maint with running := s.maint.running ++ [q] } }
  beginAct (logMaint s1 0x6001 (actCode q.act + scopeIdx q * 256)) q

/-- The running activity that keeps a request waiting. -/
def blocker (s : State) (q : MaintReq) : Option MaintReq := s.maint.running.find? (fun x => conflicts s q x)

/-- The same activity and scope, which a queued request joins (R445). -/
def sameReq (a b : MaintReq) : Bool := a.act == b.act && a.scope == b.scope

/-- A request: started at once, queued behind a running activity, or joined to one already queued (R445). -/
def requestAct (s : State) (act : Activity) (scope : Nat) (frond : Option (Nat × Nat × Nat)) : State :=
  let q : MaintReq := { act := act, scope := scope, order := s.maint.order, frond := frond }
  let s1 := { s with maint := { s.maint with order := s.maint.order + 1 } }
  let s2 := match blocker s1 q with
    | none => startAct s1 q
    | some b =>
      if s1.maint.queued.any (fun x => sameReq x q) then s1
      else
        logMaint { s1 with maint := { s1.maint with queued := s1.maint.queued ++ [q] } } 0x6003
          (actCode act + scopeIdx q * 256 + actCode b.act <<< 16 + scopeIdx b <<< 24)
  maintStat s2

/-- Whether one queued request goes before another (R445). -/
def before (a b : MaintReq) : Bool :=
  decide (actRank a.act < actRank b.act) || (a.act == b.act &&
    (decide (a.scope < b.scope) || (a.scope == b.scope && decide (a.order < b.order))))

/-- The first request in the arbiter's order. -/
def firstReq : List MaintReq → Option MaintReq
  | [] => none
  | a :: t =>
    match firstReq t with
    | none => some a
    | some b => if before b a then some b else some a

/-- The arbiter starts the first queued request that no longer conflicts (R445). -/
def startNext (s : State) : State :=
  match firstReq (s.maint.queued.filter (fun q => (blocker s q).isNone)) with
  | none => s
  | some q =>
    maintStat (startAct { s with maint := { s.maint with queued := s.maint.queued.filter (· != q) } } q)

/-- An activity ends, on its own or (`lost`) by its timeout. -/
def endAct (s : State) (act : Activity) (scope : Nat) (lost : Bool) : State :=
  match s.maint.running.find? (fun q => q.act == act && q.scope == scope) with
  | none => s
  | some q =>
    let s1 := { s with maint := { s.maint with running := s.maint.running.erase q } }
    maintStat (logMaint s1 (if lost then 0x6004 else 0x6002) (actCode act + scopeIdx q * 256))

/-- THERM_RECAL (R439, R447). -/
def logTherm (s : State) (die : Nat) (corr : BitVec 16) : State :=
  logMaint s 0x6040 (die + corr.toNat <<< 32)

/-- A running activity that no frond carries and no pass of margining ends by its own event. -/
def maintDone (s : State) (act : Activity) (scope : Nat) (corr : BitVec 16) : State :=
  match s.maint.running.find? (fun q => q.act == act && q.scope == scope) with
  | none => s
  | some q =>
    if q.frond.isSome || act == .margin then s
    else
      let s1 := if act == .thermal then logTherm s scope corr else s
      endAct s1 act scope false

/-! ### Ring entry of the event log -/

/-- The beat on which the first held entry enters the ring (R435). -/
def enterBeat (s : State) (e : LogEntry) : Nat :=
  let b := max (e.beat + 64) (max (beat s) s.log.inBeat)
  if b == s.log.inBeat && 2 ≤ s.log.inCount then b + 1 else b

/-- An entry is written to the ring, over the oldest when it is full (R437). -/
def ringWrite (s : State) (e : LogEntry) : State :=
  let head := regF s rLogHead 0 32
  let tail := regF s rLogTail 0 32
  let full := countGap tail head == 8192
  let s1 := if full then bump32 (setF s rLogTail 0 32 (countAdd tail 1)) rLogOver 1 else s
  let x := { e with lost := full || s.log.lost }
  setF { s1 with log := { s1.log with ring := aset s1.log.ring (head % 8192) x, lost := false } } rLogHead 0 32 (countAdd head 1)

/-- The log interrupt of an entry's class (R454, R481). -/
def logIrq (s : State) (e : LogEntry) : State :=
  let c := e.code / 4096
  if regB s rLogCtrl c then raiseIrq (setB s rLogIrq c true) 32 else s

/-- The log holds AT entries or more and drains by itself (R442). -/
def drainDue (s : State) : Bool :=
  regB s rLogCtrl 16 && decide (regF s rDrainCfg 16 16 ≤ countGap (regF s rLogTail 0 32) (regF s rLogHead 0 32))
  && !drainFull s && !s.maint.running.any (fun q => q.act == .drain)

/-- The first held event enters the log ring (R435, R437). -/
def ringEnter (s : State) : State :=
  match s.log.hold with
  | [] => s
  | e :: t =>
    let b := enterBeat s e
    let n := if b == s.log.inBeat then s.log.inCount + 1 else 1
    let s1 := advanceTo { s with log := { s.log with hold := t, inBeat := b, inCount := n } } b
    let s2 := logIrq (ringWrite s1 e) e
    if drainDue s2 then requestAct s2 .drain 0 none else s2

/-! ### Log registers -/

/-- LOG.RD_SEL written (R441). -/
def wrRdSel (s : State) (v : Word) : State :=
  let k := fld v 0 32
  let back := countGap k (regF s rLogHead 0 32)
  let hit := if 0 < back ∧ back ≤ 8192 then aget s.log.ring (k % 8192) else none
  let bits := match hit with
    | some e => entryBits e
    | none => 0
  forRange 0 4 (fun j x => setReg x (rLogRd j) (BitVec.ofNat 64 (nfld bits (64 * j) 64)))
    (setReg s rLogRdSel (BitVec.ofNat 64 (k + b2n hit.isSome <<< 32)))

/-- LOG.TAIL written: a value outside [TAIL, HEAD] is stored as the nearer limit (R441). -/
def wrLogTail (s : State) (v : Word) : State :=
  let t := regF s rLogTail 0 32
  let h := regF s rLogHead 0 32
  let x := fld v 0 32
  setF s rLogTail 0 32 (if countDiff x t < 0 then t else if 0 < countDiff x h then h else x)

/-- LOG.DRAIN_TAIL written: room ends the episode of a full drain ring (R442). -/
def wrDrainTail (s : State) (v : Word) : State :=
  let s1 := setF s rDrainTail 0 32 (fld v 0 32)
  if drainFull s1 then s1 else { s1 with log := { s1.log with stalled := false } }

/-- MAINT.REQ written: activities 1, 3, 4 and 7 (R443, R455); a scope that names no tower, port or die is ignored. -/
def wrMaintReq (s : State) (act scope : Nat) : State :=
  if act = 1 then (if scope < 8 then requestAct s .scrub scope none else s)
  else if act = 3 then (if scope < 16 then requestAct s .retrain scope none else s)
  else if act = 4 then requestAct s .drain 0 none
  else if act = 7 then (if scope < 2 then requestAct s .thermal scope none else s)
  else s

/-! ### The commands -/

/-- LOG_RING_ENTRY (R435–R437, R442). -/
def execLogRingEntry (s : State) : Answer := effect s (ringEnter s)

/-- LOG_RD_SEL_WRITE (R441). -/
def execLogRdSelWrite (m : Master) (v : Word) (s : State) : Answer := effect s (gated s m rLogRdSel (fun x => wrRdSel x v))

/-- LOG_TAIL_WRITE (R441). -/
def execLogTailWrite (m : Master) (v : Word) (s : State) : Answer := effect s (gated s m rLogTail (fun x => wrLogTail x v))

/-- DRAIN_TAIL_WRITE (R442). -/
def execDrainTailWrite (m : Master) (v : Word) (s : State) : Answer :=
  effect s (gated s m rDrainTail (fun x => wrDrainTail x v))

/-- MAINT_REQ_SCRUB (R443, R446). -/
def execMaintReqScrub (m : Master) (scope : BitVec 8) (s : State) : Answer :=
  effect s (gated s m rMaintReq (fun x => wrMaintReq x 1 scope.toNat))

/-- MAINT_REQ_RETRAIN (R443). -/
def execMaintReqRetrain (m : Master) (scope : BitVec 8) (s : State) : Answer :=
  effect s (gated s m rMaintReq (fun x => wrMaintReq x 3 scope.toNat))

/-- MAINT_REQ_DRAIN (R442, R443). -/
def execMaintReqDrain (m : Master) (scope : BitVec 8) (s : State) : Answer :=
  effect s (gated s m rMaintReq (fun x => wrMaintReq x 4 scope.toNat))

/-- MAINT_REQ_THERMAL (R443, R447). -/
def execMaintReqThermal (m : Master) (scope : BitVec 8) (s : State) : Answer :=
  effect s (gated s m rMaintReq (fun x => wrMaintReq x 7 scope.toNat))

/-- MAINT_START (R445). -/
def execMaintStart (s : State) : Answer := effect s (startNext s)

/-- MAINT_DONE (R445, R447). -/
def execMaintDone (act : Activity) (scope : Nat) (corr : BitVec 16) (s : State) : Answer :=
  effect s (maintDone s act scope corr)

/-- THERMAL_RECALIBRATION (R447). -/
def execThermalRecalibration (d : Fin 2) (s : State) : Answer := effect s (requestAct s .thermal d.val none)

/-- SCRUB_STEP (R446). -/
def execScrubStep (t : Fin 8) (s : State) : Answer :=
  effect s (if regB s rScrubCfg 16 then requestAct s .scrub t.val none else s)

end Sys2Proof.Machine
end

