-- ==== Sys2Proof/Machine/LinkCmd.lean ====
section
/-! DEFINITION. Link commands: what a port receives, retry, training and the group table (R372–R383, R388–R392). -/

namespace Sys2Proof.Machine
open Sys2Proof

/-! ### Sending IDLE, acknowledging and replaying (R373–R376) -/

/-- An IDLE packet carries ACK and credits; it takes no LSEQ (log entry 18). -/
def sendIdle (s : State) (p : Nat) : State :=
  if portUp s p && !fenced s then
    let x := linkPort s p
    let ov := ((List.range 4).find? (fun v => decide (0 < x.owed.getD v 0))).getD 0
    let give := min 4095 (x.owed.getD ov 0)
    let h : LinkHdr := { newHdr 0 0 0 0 (ownLogical s) 0 0 with
      ack := BitVec.ofNat 12 (x.rxSeq + 4095), ackv := true, nak := x.nak, cvc := BitVec.ofNat 2 ov,
      credits := BitVec.ofNat 12 give, cv := decide (0 < give) }
    let y := { x with nak := false, owed := x.owed.set ov (x.owed.getD ov 0 - give) }
    let s1 := setLinkPort s p y
    { s1 with links := { s1.links with wire := s1.links.wire ++ [(p, { hdr := h, body := .idle })] } }
  else s

/-- The replay buffer after an acknowledgement: every packet up to the one acknowledged is dropped. -/
def ackReplay (ack : BitVec 12) : List Packet → List Packet
  | l => match l.findIdx? (fun k => k.hdr.lseq == ack) with
    | some i => l.drop (i + 1)
    | none => l

/-- The receiving port's buffer of a VC in credits (R376). -/
def vcCap (v : Nat) : Nat := if v < 2 then 3072 else if v = 2 then 512 else 256

/-- The header's ACK and CREDIT fields take effect. -/
def takeHeader (s : State) (p : Nat) (h : LinkHdr) : State :=
  let x := linkPort s p
  let c := h.cvc.toNat
  let cr := if h.cv then x.credits.set c (min (vcCap c) (x.credits.getD c 0 + h.credits.toNat)) else x.credits
  let rp := if h.ackv then ackReplay h.ack x.replay else x.replay
  let st := if rp.length < x.replay.length then 0 else x.stuck
  setLinkPort s p { x with credits := cr, replay := rp, stuck := st }

/-- The link fronds whose packets are replayed: the third retry and later ones may make them late (R49, R56). -/
def countRetry (s : State) (k : Packet) : State :=
  { s with fronds := s.fronds.map (fun f =>
      if f.phase == .working && opcodeOf f / 256 == 0xC && par f 2 == k.hdr.tag.toNat then
        { f with retries := f.retries + 1, causes := if 2 ≤ f.retries then f.causes ++ [3] else f.causes }
      else f) }

/-- A port replays what is not acknowledged; the eighth replay without progress takes it down and asks for
retraining (R375, R376). -/
def replayPort (s : State) (p : Nat) : State :=
  let x := linkPort s p
  match x.replay with
  | [] => s
  | k :: _ =>
    let again := x.replay.map (fun j => (p, { j with hdr := { j.hdr with ack := BitVec.ofNat 12 (x.rxSeq + 4095) } }))
    let s1 := setLinkPort (countRetry (countNd s rNdRetry 1) k) p { x with stuck := x.stuck + 1 }
    let s2 := setF { s1 with links := { s1.links with wire := s1.links.wire ++ again } } (rLinkStat p) 16 32
      (satAdd 32 (regF s1 (rLinkStat p) 16 32) 1)
    if 8 ≤ x.stuck + 1 then
      requestAct (takePortDown (logLink s2 0x3003 p 0 0) p) .retrain p none
    else s2

/-- ACK, CREDIT and NAK of a header, and what they let the port send. -/
def onHeader (s : State) (p : Nat) (h : LinkHdr) (nak : Bool) : State :=
  let s1 := takeHeader s p h
  let s2 := if nak then replayPort s1 p else s1
  drainPort s2 p ((linkPort s2 p).out.length)

/-- A packet is not taken: NAK with the last good LSEQ (R375). -/
def refusePacket (s : State) (p : Nat) : State :=
  sendIdle (setLinkPort s p { linkPort s p with nak := true }) p

/-! ### Receiving -/

/-- The VC of a packet is permitted for its type, and the type is not reserved (R374). -/
def typeOk (h : LinkHdr) : Bool :=
  let t := h.type.toNat
  let v := h.vc.toNat
  t == 0 || ((decide (1 ≤ t) && decide (t ≤ 5)) && decide (v < 2)) ||
  ([0x10, 0x11, 0x12, 0x13, 0x20, 0x21, 0x22].contains t && v == 2) || (t == 0x30 && v == 3)

/-- Packets that every module on their way takes: heartbeats, alignment and the flooded failover packets (R374, R413). -/
def everyHop (k : Packet) : Bool :=
  k.hdr.type == 0x10 || k.hdr.type == 0x11 || k.hdr.type == 0x20 ||
  (match k.body with
   | .adopt _ _ _ _ kind => kind == 1
   | _ => false)

/-- A packet arrives at port `p`: the link takes it when its LSEQ is the next expected, and then it is discarded,
forwarded or delivered (R374, R375, R379, R419). -/
def receive (s : State) (p : Nat) (k : Packet) (deliver : State → State) : State :=
  if !portUp s p then s
  else if k.hdr.lseq.toNat != (linkPort s p).rxSeq then refusePacket s p
  else
    let s1 := onHeader s p k.hdr k.hdr.nak
    let x := linkPort s1 p
    let v := k.hdr.vc.toNat
    let s2 := setLinkPort s1 p { x with rxSeq := (x.rxSeq + 1) % 4096, owed := x.owed.set v (x.owed.getD v 0 + packetUnits k) }
    let s3 := sendIdle (bump s2 (rLinkRx p) k.hdr.len) p
    if !typeOk k.hdr then logLink s3 0x3006 p 0 0
    else if everyHop k then deliver s3
    else
      match s3.fail.relay with
      | some (l, g) =>
        if k.hdr.destL.toNat = l && k.hdr.destP.toNat = ownPhys s3 then
          routeOut s3 { k with hdr := { k.hdr with destP := BitVec.ofNat 32 g } } (p / 8)
        else if k.hdr.destP.toNat = ownPhys s3 then deliver s3 else routeOut s3 k (p / 8)
      | none => if k.hdr.destP.toNat = ownPhys s3 then deliver s3 else routeOut s3 k (p / 8)

/-- A packet waits for the frond that takes it. -/
def keepEarly (k : Packet) (s : State) : State := { s with links := { s.links with early := s.links.early ++ [k] } }

/-- A packet from this module to another logical coordinate. -/
def reply (s : State) (type vc len destL tag offset : Nat) (body : Body) : State :=
  inject s { hdr := newHdr type vc len destL (ownLogical s) tag offset, body := body }

/-- DATA: kept for the RECV it belongs to. A fill write is placed at once and acknowledged; a gemma that is being filled
takes writes of its claimant alone (R388, R410, R417, R418). -/
def takeData (k : Packet) (s : State) : State :=
  match k.body with
  | .fill a d =>
    let filling := regF s rFailStat 0 3 == 5
    let mine := match s.fail.claimant with
      | some c => physOf s k.hdr.srcL.toNat == c
      | none => false
    if filling && !mine then s
    else
      let s1 := putBytes s a d
      let s2 := if k.hdr.poison then forRange 0 d.length (fun i x => poisonAt x (a + i)) s1 else s1
      reply s2 3 0 0 k.hdr.srcL.toNat k.hdr.tag.toNat k.hdr.offset.toNat (.cts d.length)
  | _ => keepEarly k s

/-- RTS: kept for the RECV that matches it (R388). -/
def takeRts (k : Packet) (s : State) : State :=
  match k.body with
  | .rts n =>
    { s with links := { s.links with rts := s.links.rts ++ [{ src := k.hdr.srcL.toNat, dst := k.hdr.destL.toNat, tag := k.hdr.tag.toNat, count := n }] } }
  | _ => s

/-- A CTS counts against a tee whose bytes it acknowledges, and else waits for the SEND or the fill it answers (R388,
R390, R410). -/
def takeCts (k : Packet) (s : State) : State :=
  match k.body with
  | .cts n =>
    let hit (t : TeeEntry) : Bool := t.target == k.hdr.srcL.toNat && t.tag == k.hdr.tag.toNat && decide (0 < t.pending)
    match s.links.tees.find? hit with
    | some t =>
      let u := { t with pending := t.pending - n }
      let l := if u.pending = 0 && u.done && !regB s rFailCtrl 0 then s.links.tees.erase t
        else s.links.tees.map (fun x => if x = t then u else x)
      { s with links := { s.links with tees := l } }
    | none => keepEarly k s
  | _ => s

/-- The payload bytes of a packet. -/
def payloadOf (k : Packet) : List Byte :=
  match k.body with
  | .bytes d => d
  | .fill _ d => d
  | _ => []

/-- TEE: kept for the TEE_APPLY it belongs to. One for the coordinate stood in for is acknowledged and discarded while
no gemma is live (R407, R416). -/
def takeTee (k : Packet) (s : State) : State :=
  if standinFor s == some k.hdr.destL.toNat then
    reply s 3 0 0 k.hdr.srcL.toNat k.hdr.tag.toNat k.hdr.offset.toNat (.cts (payloadOf k).length)
  else keepEarly k s

/-- MAINT: handed to firmware (R374). -/
def takeMaint (k : Packet) (s : State) : State :=
  emit { s with links := { s.links with inbox := s.links.inbox ++ [k] } } (.firmware 1)

/-! ### Training (R60, R372) -/

/-- The dimension and direction of a port (R370). -/
def portDim (p : Nat) : Nat := p % 8 / 2
def portNeg (p : Nat) : Bool := p % 2 == 1

/-- A port may come up: enabled, in a dimension of size at least 2, in a module that is not stopped (R372, R377, R411,
R494), from the start-up step that trains links (R493, R514). -/
def mayTrain (s : State) (p : Nat) : Bool :=
  decide (6 ≤ regF s rBoot 0 4) && regB s (rLinkCtrl p) 0 && decide (2 ≤ torusK s (portDim p)) && !regB s rBoot 4 && !(s.maint.moduleFault && regB s rFailCtrl 0)

/-- REF_MISMATCH: the partner's reference is off by more than 2 ppm (R60). -/
def refMismatch (s : State) (p : Nat) : State :=
  let s1 := logEv (setB s rBeatStat 6 true) 0x7004 0x13 (srcUnit (p / 8) 0) (payDefault 0 0 0)
  setB { s1 with pins := { s1.pins with noAlign := true } } rBeatStat 5 false

/-- A port comes up (R372, R376). -/
def raisePort (s : State) (p : Nat) (t : TrainInfo) : State :=
  let x := linkPort s p
  let s1 := setReg s (rLinkLat p) (BitVec.ofNat 64 (t.rtt.toNat + ceilDiv t.rtt.toNat 32 * 65536))
  let s2 := setB (setB s1 (rLinkStat p) 0 true) (rLinkStat p) 1 true
  let s3 := setB (setB s2 (rLinkStat p) 2 (!portUp s2 (sibling p))) (rLinkStat (sibling p)) 2 false
  let s4 := setLinkPort s3 p { LinkPort.reset with out := x.out }
  let s5 := if 20 < t.ppm10 then refMismatch s4 p else s4
  let s6 := logLink s5 0x3001 p 0 0
  drainPort (endAct s6 .retrain p false) p x.out.length

/-- Training of a port reports (R372). -/
def linkUp (s : State) (p : Nat) (t : TrainInfo) : State :=
  if !mayTrain s p then s
  else
    let s1 := setF s (rLinkStat p) 8 8 t.lanes.toNat
    let s2 := setReg s1 (rLinkPeer p) (BitVec.ofNat 64 (t.peerCoord.toNat + t.peerPort.toNat * 2 ^ 32))
    let want := neighbour s2 (ownPhys s2) (portDim p) (portNeg p)
    if t.lanes != 0xFF then s2
    else if t.peerCoord.toNat != want || t.peerPort.toNat != p ^^^ 1 then
      logLink (setB s2 (rLinkStat p) 3 true) 0x3004 p 0 t.peerCoord.toNat
    else if 40000 < t.rtt.toNat then s2
    else raisePort s2 p t

/-- LINKn.CTRL.ENABLE written (R376). -/
def wrLinkEnable (s : State) (p : Nat) (en : Bool) : State :=
  let s1 := setB s (rLinkCtrl p) 0 en
  if en then s1
  else
    let s2 := takePortDown s1 p
    setLinkPort s2 p { linkPort s2 p with ownDown := true }

/-! ### Groups (R383) -/

/-- An accepted frond names a group: collectives and a BARRIER of scope 1 in word 0, a COMMIT by FAIL.GROUPS. -/
def namesGroup (s : State) (f : Frond) (id : Nat) : Bool :=
  let o := opcodeOf f
  f.live && !f.noWork &&
  (((0xC10 ≤ o && o ≤ 0xC13) && parF f 0 0 16 == id) ||
   (o == 0x004 && nbit (par f 2) 0 && parF f 0 0 16 == id) ||
   (o == 0xD03 && parF f 0 0 2 == 0 && regF s rFailGroups 0 16 == id))

/-- GROUP_Ag or GROUP_Bg written: dropped while an accepted frond names the group (R383). -/
def wrGroup (s : State) (g : Nat) (b : Bool) (v : Word) : State :=
  let o := if b then rGroupB g else rGroupA g
  let busy := regB s (rGroupA g) 16 && s.fronds.any (fun f => namesGroup s f (regF s (rGroupA g) 0 16))
  if busy then logLink s 0x3030 0 0 (absReg o)
  else setReg s o (if b then v &&& 0x3FFFF else v &&& BitVec.ofNat 64 (0x1FFFF + m32 <<< 32))

/-! ### Timeouts (R389–R391) -/

/-- A peer's packet has not been seen within RECV_WD: the frond stops FAULT (R389, R391). -/
def collTimeout (s : State) (x : FrondRef) : State :=
  match findFrond s x with
  | none => s
  | some f =>
    let o := opcodeOf f
    let waits := o == 0xC00 || o == 0xC01 || (0xC10 ≤ o && o ≤ 0xC13) || o == 0x004 || (o == 0xD03 && parF f 0 0 2 == 0) ||
      (o == 0xB02 && nbit (par f 1) 2)
    if f.phase == .working && !f.worked && f.wake.isNone && waits then
      let g := parF f 0 0 16
      let s1 := withdrawArrival (stopFrond (logFrond s f 0x3021 (payDefault o (statusCode .fault) 0)) f .fault) f
      let drop (a : Arrival) : Bool := a.scope1 && o == 0x004 && a.group == g
      { s1 with links := { s1.links with arrivals := s1.links.arrivals.filter (fun a => !drop a) } }
    else s

/-- A tee's target has returned no CTS within RECV_WD: the entry is disarmed (R390). -/
def teeFail (s : State) (r k : Nat) : State :=
  let mine := s.links.tees.filter (fun t => t.region == r)
  match mine[k]? with
  | none => s
  | some t =>
    if t.pending = 0 then s
    else
      logQueue { s with links := { s.links with tees := s.links.tees.erase t } } 0x3024 r (payDefault 0 0 t.lo)

/-! ### The commands -/

/-- LINK_ENABLE_WRITE (R376). -/
def execLinkEnableWrite (m : Master) (p : Fin 16) (en : Bool) (s : State) : Answer :=
  effect s (gated s m (rLinkCtrl p) (fun x => wrLinkEnable x p.val en))

/-- LINK_RETRAIN_WRITE (R443). -/
def execLinkRetrainWrite (m : Master) (p : Fin 16) (s : State) : Answer :=
  effect s (gated s m (rLinkCtrl p) (fun x => requestAct x .retrain p.val none))

/-- CRC_FAILURE (R375). -/
def execCrcFailure (p : Fin 16) (badCrc : Bool) (s : State) : Answer :=
  effect s (if portUp s p then refusePacket (if badCrc then bump s (rLinkCrc p) 1 else s) p else s)

/-- LINK_REPLAY (R375, R376): the header of the packet that carries the NAK. -/
def execLinkReplay (p : Fin 16) (k : Packet) (s : State) : Answer :=
  ifOk s (payloadOk k.hdr.len) (if portUp s p then onHeader s p k.hdr true else s)

/-- LINK_BAD_TYPE (R374). -/
def execLinkBadType (p : Fin 16) (k : Packet) (s : State) : Answer :=
  ifOk s (payloadOk k.hdr.len) (if typeOk k.hdr then s else receive s p k (fun x => x))

/-- IDLE (R374). -/
def execIdle (p : Fin 16) (k : Packet) (s : State) : Answer :=
  ifOk s (packetOf 0 k) (if portUp s p then onHeader s p k.hdr k.hdr.nak else s)

/-- DATA (R388). -/
def execData (p : Fin 16) (k : Packet) (s : State) : Answer := ifOk s (packetOf 1 k) (receive s p k (takeData k))

/-- RTS (R388). -/
def execRts (p : Fin 16) (k : Packet) (s : State) : Answer := ifOk s (packetOf 2 k) (receive s p k (takeRts k))

/-- CTS (R388, R390). -/
def execCts (p : Fin 16) (k : Packet) (s : State) : Answer := ifOk s (packetOf 3 k) (receive s p k (takeCts k))

/-- COLL: kept for the frond that adds or places it; a stand-in plays the stood-in rank (R385–R387, R416). -/
def takeColl (k : Packet) (s : State) : State := runGhosts (ghostFrom (keepEarly k s) k)

/-- COLL (R385–R387). -/
def execColl (p : Fin 16) (k : Packet) (s : State) : Answer := ifOk s (packetOf 4 k) (receive s p k (takeColl k))

/-- TEE (R390, R407). -/
def execTee (p : Fin 16) (k : Packet) (s : State) : Answer := ifOk s (packetOf 5 k) (receive s p k (takeTee k))

/-- MAINT (R374). -/
def execMaint (p : Fin 16) (k : Packet) (s : State) : Answer := ifOk s (packetOf 0x30 k) (receive s p k (takeMaint k))

/-- GROUP_WRITE (R383). -/
def execGroupWrite (m : Master) (g : Fin 64) (b : Bool) (v : Word) (s : State) : Answer :=
  effect s (gated s m (if b then rGroupB g else rGroupA g) (fun x => wrGroup x g b v))

/-- COLL_TIMEOUT (R389, R391). -/
def execCollTimeout (f : FrondRef) (s : State) : Answer := effect s (collTimeout s f)

/-- TEE_FAIL (R390). -/
def execTeeFail (r : Fin 8) (k : Nat) (s : State) : Answer := effect s (teeFail s r k)

end Sys2Proof.Machine
end

