-- ==== Sys2Proof/Machine/Barrier.lean ====
section
/-! DEFINITION. Barriers (R64, R65, R72, R73, R391) and the arrivals of a COMMIT (R404, R406, R416). -/

namespace Sys2Proof.Machine
open Sys2Proof

/-- A barrier frond of scope 1 on a group: a BARRIER that names it, or a COMMIT of the job group (R72, R404). -/
def barrierOn (s : State) (f : Frond) (id : Nat) : Bool :=
  let o := opcodeOf f
  f.phase == .working && !f.noWork && f.wake.isNone &&
  ((o == 0x004 && nbit (par f 2) 0 && parF f 0 0 16 == id) ||
   (o == 0xD03 && parF f 0 0 2 == 0 && regF s rFailGroups 0 16 == id))

/-- What a BARRIER of scope 0 is known by: its set of regions and its GROUP (log entry 129). -/
def localKey (f : Frond) : Nat := parF f 3 0 8 + 256 * parF f 0 0 16

/-- A BARRIER of scope 0 of a region, by its key. -/
def localBarrier (f : Frond) (r key : Nat) : Bool :=
  opcodeOf f == 0x004 && !nbit (par f 2) 0 && localKey f == key && f.region == r && f.phase == .working && !f.noWork &&
  f.wake.isNone && !f.work.isEmpty

/-- The release beat of a barrier reaches a member: late once T has passed, or when the member is not ALIGNED (R65). -/
def giveBeat (s : State) (f : Frond) (t : Nat) : State :=
  let late := decide (t < beat s) || !regB s rBeatStat 5
  let s1 := if late then logFrond s f 0x3020 (payDefault (opcodeOf f) 0 0) else s
  putFrond s1 { f with wake := some t }

/-! ### Scope 0 -/

/-- The regions that a key names. -/
def keyRegions (key : Nat) : List Nat := (List.range 8).filter (nbit key)

/-- Every region of a key has arrived: G is the present beat, and each member is released at G + 28 (R391). -/
def checkLocal (s : State) (key : Nat) : State :=
  let here (r : Nat) (a : Arrival) : Bool := !a.scope1 && a.group == key && a.rank == r
  if (keyRegions key).all (fun r => s.links.arrivals.any (here r)) then
    let s1 := { s with links := { s.links with
      arrivals := (keyRegions key).foldl (fun l r => match l.find? (here r) with
        | some a => l.erase a
        | none => l) s.links.arrivals } }
    (keyRegions key).foldl (fun x r =>
      match x.fronds.find? (fun f => localBarrier f r key) with
      | some f => putFrond x { f with wake := some (beat s + 28) }
      | none => x) s1
  else s

/-- A region arrives at a barrier of scope 0. -/
def arriveLocal (s : State) (f : Frond) : State :=
  let key := localKey f
  let a : Arrival := { scope1 := false, group := key, rank := f.region, level := level s, fresh := false, beat := beat s, src := 0 }
  checkLocal (putFrond { s with links := { s.links with arrivals := s.links.arrivals ++ [a] } } { f with work := [1] }) key

/-! ### Scope 1 -/

/-- The level that a member reported, by its physical coordinate; 8 for a module that is no member. -/
def levelAt (s : State) (g id c : Nat) : Nat :=
  match s.links.arrivals.find? (fun a => a.scope1 && a.group == id && physOf s (memberOf s g a.rank) == c) with
  | some a => a.level
  | none => 8

/-- One hop towards a coordinate in dimension order: the dimension, the direction and the next module. -/
def hopTo (s : State) (c d : Nat) : Option (Nat × Bool × Nat) :=
  match firstDim s c d with
  | none => none
  | some x =>
    let neg := goesNeg s c d x
    some (x, neg, neighbour s c x neg)

/-- The delay of the broadcast path to a member: link latencies in bt, and forwarding work beats in 1/840 bt, summed hop
by hop (R64, R391). -/
def pathDelay (s : State) (g id d : Nat) : Nat → Nat → Nat × Nat
  | 0, _ => (0, 0)
  | n + 1, c =>
    match hopTo s c d with
    | none => (0, 0)
    | some (x, neg, c') =>
      let r := pathDelay s g id d n c'
      (r.1 + pairLat s x neg, r.2 + 24 * 8 * 840 / levelAt s g id c)

/-- T of R64, with the whole beats rounded up (DEDUCED, log entry 21). -/
def releaseBeat (s : State) (g id : Nat) : Nat :=
  beat s + 16 + forRange 0 (groupSize s g) (fun r a =>
    let p := pathDelay s g id (physOf s (memberOf s g r)) 64 (ownPhys s)
    max a (p.1 + ceilDiv p.2 840)) 0

/-- Job state is lost: every COMMIT is held (R422). -/
def jobLost (s : State) : State :=
  if s.fail.lost then s else logChip { s with fail := { s.fail with lost := true } } 0x4060 (payDefault 0 0 0)

/-- The release beat and the drop list reach this module's member fronds: its own, and that of the images it runs for
the stood-in rank. -/
def takeRelease (s : State) (id t : Nat) (drops : List Nat) : State :=
  (s.fronds.filter (fun f => barrierOn s f id)).foldl (fun x f =>
    let y := giveBeat x f t
    if opcodeOf f == 0xD03 then { y with fail := { y.fail with drops := drops } } else y) s

/-- The root holds every arrival: it computes T and sends it to every member, with the drop list of a COMMIT (R64, R391,
R406). One packet goes to each member (log entry 22). -/
def checkRoot (s : State) (g id : Nat) : State :=
  let n := groupSize s g
  let got (r : Nat) : Bool := s.links.arrivals.any (fun a => a.scope1 && a.group == id && a.rank == r)
  if 0 < n && (List.range n).all got then
    let t := releaseBeat s g id
    let fresh := (List.range n).filter (fun r => s.links.arrivals.any (fun a => a.scope1 && a.group == id && a.rank == r && a.fresh))
    let drops := fresh.map (memberOf s g)
    let s1 := { s with links := { s.links with arrivals := s.links.arrivals.filter (fun a => !(a.scope1 && a.group == id)) } }
    if 16 < drops.length then jobLost s1
    else
      let others := (List.range n).filter (fun r => !answersTo s (memberOf s g r))
      let s2 := others.foldl (fun x r => reply x 0x13 2 (32 * ceilDiv (12 + 4 * drops.length) 32) (memberOf s g r) 0 0
        (.barRelease id (BitVec.ofNat 64 t) (drops.map (BitVec.ofNat 32)))) s1
      takeRelease s2 id t drops
  else s

/-- An arrival at the root, in place of an earlier one of the same rank. -/
def putArrival (s : State) (id rank lvl : Nat) (fresh : Bool) : State :=
  let a : Arrival := { scope1 := true, group := id, rank := rank, level := lvl, fresh := fresh, beat := beat s, src := 0 }
  { s with links := { s.links with
      arrivals := s.links.arrivals.filter (fun x => !(x.scope1 && x.group == id && x.rank == rank)) ++ [a] } }

/-- This module arrives for one rank: at the root directly, and else by BAR_ARRIVE (R391). -/
def arriveRank (s : State) (g id rank : Nat) (fresh : Bool) : State :=
  let root := memberOf s g 0
  if answersTo s root then putArrival s id rank (level s) fresh
  else reply s 0x12 2 32 root 0 0 (.barArrive id rank (level s) fresh)

/-- The ranks for which a frond arrives: the one it works at, and the stood-in rank unless the partner's images run here
and arrive by themselves (log entry 112). A COMMIT's arrival by a stand-in that began in this step is FRESH (R406,
R416). -/
def arriveFor (s : State) (g id : Nat) (f : Frond) : State :=
  let s1 := match rankOf s g (identOf s f) with
    | some r => arriveRank s g id r false
    | none => s
  if standinRuns s then s1
  else
    match standinFor s with
    | none => s1
    | some c =>
      match rankOf s g c with
      | some r => arriveRank s1 g id r (opcodeOf f == 0xD03 && s.fail.freshStep == some (reg s rFailStep).toNat)
      | none => s1

/-- The group that a barrier frond of scope 1 names. -/
def barrierGroup (s : State) (f : Frond) : Nat := if opcodeOf f == 0xD03 then regF s rFailGroups 0 16 else parF f 0 0 16

/-- This module's member of a group arrives, and the root looks whether all have. -/
def arriveGroup (s : State) (f : Frond) : State :=
  match groupIdx s (barrierGroup s f) with
  | none => s
  | some g =>
    let s1 := arriveFor s g (barrierGroup s f) f
    if answersTo s1 (memberOf s1 g 0) then checkRoot s1 g (barrierGroup s f) else s1

/-- A barrier frond arrives, once. -/
def barrierArrive (s : State) (f : Frond) : State :=
  if !f.work.isEmpty then s
  else if opcodeOf f == 0x004 && !nbit (par f 2) 0 then arriveLocal s f
  else arriveGroup (putFrond s { f with work := [1] }) f

/-- Members that wait send their arrivals anew after an alias has changed (R416). -/
def resendArrivals (s : State) : State :=
  (s.fronds.filter (fun f => f.phase == .working && f.wake.isNone && !f.work.isEmpty &&
      ((opcodeOf f == 0x004 && nbit (par f 2) 0) || (opcodeOf f == 0xD03 && parF f 0 0 2 == 0)))).foldl
    arriveGroup s

/-! ### Packets and commands -/

/-- BAR_ARRIVE at the root. -/
def takeArrive (k : Packet) (s : State) : State :=
  match k.body with
  | .barArrive id rank lvl fresh =>
    let s1 := putArrival s id rank lvl fresh
    match groupIdx s1 id with
    | some g => if answersTo s1 (memberOf s1 g 0) then checkRoot s1 g id else s1
    | none => s1
  | _ => s

/-- BAR_RELEASE at a member. -/
def takeBarRelease (k : Packet) (s : State) : State :=
  match k.body with
  | .barRelease id t drops => takeRelease s id t.toNat (drops.map BitVec.toNat)
  | _ => s

/-- ALIAS_Fi written with COMMIT: the staged LOGICAL and PHYSICAL take effect with it (R381). -/
def wrAliasF (s : State) (i : Nat) (v : Word) : State :=
  if bitOf v 2 then
    resendArrivals (commitAlias s i (bitOf v 0) (regF s (rAliasL i) 0 32) (regF s (rAliasL i) 32 32) (bitOf v 1))
  else setReg s (rAliasF i) (v &&& 3)

/-- BAR_ARRIVE (R64, R391). -/
def execBarArrive (p : Fin 16) (k : Packet) (s : State) : Answer := ifOk s (packetOf 0x12 k) (receive s p k (takeArrive k))

/-- BAR_RELEASE (R64, R391, R406). -/
def execBarRelease (p : Fin 16) (k : Packet) (s : State) : Answer := ifOk s (packetOf 0x13 k) (receive s p k (takeBarRelease k))

/-- ALIAS_COMMIT (R381). -/
def execAliasCommit (m : Master) (i : BitVec 8) (v : Word) (s : State) : Answer :=
  effect s (gated s m (rAliasF i.toNat) (fun x => wrAliasF x i.toNat (putBit v 2 true)))

end Sys2Proof.Machine
end

