-- ==== Sys2Proof/Machine/Keccak.lean ====
section
/-! DEFINITION. Keccak-p[1600], the sponge, SHAKE256 and TurboSHAKE128 as the manual names and defines them (R253, R301,
R457–R468). -/

namespace Sys2Proof.Machine
open Sys2Proof

/-- The 25 lanes of the state, lane (x, y) at index x + 5y. -/
abbrev Lanes := List Word

def lane (a : Lanes) (x y : Nat) : Word := a.getD (x % 5 + 5 * (y % 5)) 0

/-- The round constants of Keccak-f[1600]. -/
def roundConst : List Word :=
  [ 0x0000000000000001, 0x0000000000008082, 0x800000000000808A, 0x8000000080008000,
    0x000000000000808B, 0x0000000080000001, 0x8000000080008081, 0x8000000000008009,
    0x000000000000008A, 0x0000000000000088, 0x0000000080008009, 0x000000008000000A ] ++
  [ 0x000000008000808B, 0x800000000000008B, 0x8000000000008089, 0x8000000000008003,
    0x8000000000008002, 0x8000000000000080, 0x000000000000800A, 0x800000008000000A,
    0x8000000080008081, 0x8000000000008080, 0x0000000080000001, 0x8000000080008008 ]

/-- The rotation of lane (x, y), at index x + 5y. -/
def rotConst : List Nat :=
  [ 0, 1, 62, 28, 27, 36, 44, 6, 55, 20, 3, 10, 43, 25, 39, 41, 45, 15, 21, 8, 18, 2, 61, 56, 14 ]

/-- The column parities' contribution to column `x`. -/
def thetaD (a : Lanes) (x : Nat) : Word :=
  let c (i : Nat) : Word := lane a i 0 ^^^ lane a i 1 ^^^ lane a i 2 ^^^ lane a i 3 ^^^ lane a i 4
  c ((x + 4) % 5) ^^^ (c ((x + 1) % 5)).rotateLeft 1

def theta (a : Lanes) : Lanes :=
  let d := (List.range 5).map (thetaD a)
  (List.range 25).map (fun i => lane a (i % 5) (i / 5) ^^^ d.getD (i % 5) 0)

/-- Rotation of every lane and its move to (y, 2x + 3y): lane (X, Y) of the result comes from x = X + 3Y, y = X. -/
def rhoPi (a : Lanes) : Lanes :=
  (List.range 25).map (fun i =>
    let x := (i % 5 + 3 * (i / 5)) % 5
    let y := i % 5
    (lane a x y).rotateLeft (rotConst.getD (x + 5 * y) 0))

def chi (a : Lanes) : Lanes :=
  (List.range 25).map (fun i => lane a (i % 5) (i / 5) ^^^ (~~~ lane a (i % 5 + 1) (i / 5) &&& lane a (i % 5 + 2) (i / 5)))

def iota (rc : Word) : Lanes → Lanes
  | [] => []
  | l :: t => (l ^^^ rc) :: t

/-- Rounds `r` to 23 of Keccak-f[1600] (R253). -/
def keccakFrom (r : Nat) (a : Lanes) : Lanes :=
  (roundConst.drop r).foldl (fun x rc => iota rc (chi (rhoPi (theta x)))) a

/-- Lane `i` of a block of bytes. -/
def blockLane (b : List Byte) (i : Nat) : Word := BitVec.ofNat 64 (leNat ((b.drop (8 * i)).take 8))

/-- A block is added to the state, which is then permuted from round `r` on. -/
def absorbBlock (r : Nat) (a : Lanes) (b : List Byte) : Lanes :=
  keccakFrom r ((List.range 25).map (fun i => a.getD i 0 ^^^ blockLane b i))

/-- A message with its domain byte, padded to whole blocks of `rate` bytes (R253). -/
def padMessage (rate : Nat) (m : List Byte) (d : Byte) : List Byte :=
  let x := m ++ [d]
  let y := x ++ List.replicate ((rate - x.length % rate) % rate) 0
  y.set (y.length - 1) (y.getD (y.length - 1) 0 ^^^ 0x80)

/-- The blocks are absorbed in turn; the first argument bounds their number. -/
def absorbAll (r rate : Nat) : Nat → Lanes → List Byte → Lanes
  | 0, a, _ => a
  | n + 1, a, m => if m.isEmpty then a else absorbAll r rate n (absorbBlock r a (m.take rate)) (m.drop rate)

/-- The state once a message has been absorbed. -/
def sponge (r rate : Nat) (m : List Byte) (d : Byte) : Lanes :=
  let x := padMessage rate m d
  absorbAll r rate (x.length / rate) (List.replicate 25 0) x

/-- The first `rate` bytes of the state. -/
def stateBytes (rate : Nat) (a : Lanes) : List Byte := (a.flatMap (fun l => leBytes 8 l.toNat)).take rate

/-- `k` blocks of output. -/
def squeezeBlocks (r rate : Nat) : Nat → Lanes → List Byte
  | 0, _ => []
  | k + 1, a => stateBytes rate a ++ squeezeBlocks r rate k (keccakFrom r a)

/-- SHAKE256 of a message, `n` bytes of output. -/
def shake256 (m : List Byte) (n : Nat) : List Byte :=
  (squeezeBlocks 0 136 (ceilDiv n 136) (sponge 0 136 m 0x1F)).take n

/-- `k` blocks of TurboSHAKE128 output with domain byte `d` (R253). -/
def turboshake128 (m : List Byte) (d : Byte) (k : Nat) : List Byte := squeezeBlocks 12 168 k (sponge 12 168 m d)

end Sys2Proof.Machine
end

