-- ==== Sys2Proof/Machine/Fail.lean ====
section
/-! DEFINITION. Pairing, protected tensors, losses, stand-ins and gemmas (R397–R422). -/

namespace Sys2Proof.Machine
open Sys2Proof

/-! ### State of protection -/

def failState (s : State) : Nat := regF s rFailStat 0 3

/-- FAIL.STAT.STATE set; a change raises interrupt source 37 (R426, R481). -/
def setFailState (s : State) (n : Nat) : State :=
  if failState s = n then s else raiseIrq (setF s rFailStat 0 3 n) 37

/-- The partner's logical coordinate, when the module is paired (R397). -/
def partnerOf (s : State) : Option Nat := if regB s rPartner 32 then some (regF s rPartner 0 32) else none

def armed (s : State) : Bool := regB s rFailCtrl 0

/-! ### Tables -/

/-- The first 8 bytes of SHAKE256 over a table's entries (R399). -/
def tdigest (s : State) (mirror : Bool) : Nat :=
  let e (i : Nat) : Nat × Nat × Nat :=
    if mirror then ((reg s (rQtBase i)).toNat, qtSize s i, qtClass s i) else (ptBase s i, ptSize s i, ptClass s i)
  leNat (shake256 (Config.tableBytes ((List.range 256).map e)) 8)

/-- Two used entries of one table overlap. -/
def tableClash (s : State) : Bool :=
  (List.range 256).any (fun i => (List.range i).any (fun j =>
    (ptClass s i != 0 && ptClass s j != 0 && overlaps (ptSpan s i) (ptSpan s j)) ||
    (qtClass s i != 0 && qtClass s j != 0 && overlaps (qtSpan s i) (qtSpan s j))))

/-! ### READY and ADOPT packets (R413) -/

/-- A READY to a logical coordinate. -/
def sendReady (s : State) (dest kind value value2 domain board : Nat) : State :=
  reply s 0x22 2 32 dest 0 0 (.ready (BitVec.ofNat 8 kind) (BitVec.ofNat 32 (ownLogical s)) (BitVec.ofNat 64 value)
    (BitVec.ofNat 64 value2) (BitVec.ofNat 16 domain) (BitVec.ofNat 16 board))

/-- An ADOPT packet. -/
def adoptPacket (s : State) (dest logical gemma symbiont step kind : Nat) : Packet :=
  { hdr := newHdr 0x21 2 32 dest (ownLogical s) 0 0
    body := .adopt (BitVec.ofNat 32 logical) (BitVec.ofNat 32 gemma) (BitVec.ofNat 32 symbiont) (BitVec.ofNat 64 step)
      (BitVec.ofNat 8 kind) }

def ownDomain (s : State) : Nat := regF s rFailIds 0 16
def ownBoard (s : State) : Nat := regF s rFailIds 16 16

/-! ### Pairing (R399) -/

/-- A refusal: the module runs unprotected. -/
def refusePair (s : State) (refused code pay : Nat) : State :=
  setFailState (logChip (setF s rFailStat 4 4 refused) code pay) 2

/-- The partner's SYNC is judged, in the order of R399's table. The reason codes are those of STAT.REFUSED (DEDUCED,
log entry 24). -/
def judgeSync (s : State) (sender value value2 domain board : Nat) : State :=
  let s1 := setF (setF s rFailIds 32 16 domain) rFailIds 48 16 board
  let s2 := { s1 with fail := { s1.fail with syncSeen := true } }
  let sameDom := domain == ownDomain s
  let sameBoard := board == ownBoard s
  let why := if sameDom then 4 else 5
  if partnerOf s != some sender then refusePair s2 2 0x4031 (payDefault 0 0 sender)
  else if value != tdigest s true || value2 != tdigest s false || tableClash s then refusePair s2 3 0x4032 (payDefault 0 0 sender)
  else if sameDom || sameBoard then
    (if regB s rFailCtrl 2 then
      let t := takeFree s2
      let s3 := logChip (setB t.2 rFailStat 3 true) 0x4030 (payDefault 0 (why + 256 * (t.1 % 256)) sender)
      setFailState (logChip s3 0x4021 (payDefault 0 0 sender)) 1
     else refusePair s2 why 0x4030 (payDefault 0 why sender))
  else setFailState (logChip s2 0x4021 (payDefault 0 0 sender)) 1

/-- A SYNC: judged while the module is armed, and otherwise kept until it is. -/
def takeSync (k : Packet) (s : State) : State :=
  match k.body with
  | .ready _ l v v2 d b =>
    if armed s then judgeSync s l.toNat v.toNat v2.toNat d.toNat b.toNat else keepEarly k s
  | _ => s

/-- Whether a kept packet is a SYNC. -/
def isSync (k : Packet) : Bool :=
  match k.body with
  | .ready n _ _ _ _ _ => n == 0
  | _ => false

/-- EFF at ARM: HOT for HOT and AUTO, COLD for COLD (R401). -/
def armTables (s : State) : State := forRange 0 256 (fun i x => setB x (rPtCfg i) 30 (ptClass x i == 2)) s

/-- ARM goes from 0 to 1: the classes take effect and the partner is sent a SYNC (R399, R401). A module without a
partner becomes an idle gemma when it protects nothing, and is unprotected otherwise (DESIGN CHOICE, log entry 23). -/
def armNow (s : State) : State :=
  let s1 := armTables s
  match partnerOf s1 with
  | none => setFailState s1 (if (List.range 256).all (fun i => ptClass s1 i == 0) then 4 else 2)
  | some p =>
    let s2 := sendReady s1 p 0 (tdigest s1 false) (tdigest s1 true) (ownDomain s1) (ownBoard s1)
    let kept := s2.links.early.filter isSync
    let s3 := { s2 with fail := { s2.fail with syncSent := some (beat s2), syncSeen := false },
                        links := { s2.links with early := s2.links.early.filter (fun k => !isSync k) } }
    kept.foldl (fun x k => takeSync k x) s3

/-- FAIL.CTRL written (R399, R426). -/
def wrFailCtrl (s : State) (m : Master) (v : Word) : State :=
  let lock := regB s rFailCtrl 63
  let was := armed s
  let bad := lock && (bitOf v 1 != regB s rFailCtrl 1 || bitOf v 2 != regB s rFailCtrl 2)
  let s1 := if bad then logMaster s 0x2003 m (absReg rFailCtrl) else s
  let s2 := if lock || was then s1 else setB s1 rFailCtrl 1 (bitOf v 1)
  let s3 := if lock then s2 else setB s2 rFailCtrl 2 (bitOf v 2)
  let s4 := if bitOf v 63 then setB s3 rFailCtrl 63 true else s3
  let s5 := setB s4 rFailCtrl 0 (bitOf v 0)
  if bitOf v 0 && !was then armNow s5 else if !bitOf v 0 && was then setFailState s5 0 else s5

/-- No SYNC within RECV_WD (R399). -/
def partnerAbsent (s : State) : State :=
  match s.fail.syncSent with
  | none => s
  | some b =>
    if s.fail.syncSeen || !armed s then s
    else
      let s1 := advanceTo { s with fail := { s.fail with syncSent := none } } (b + regF s rRecvWd 0 32)
      refusePair s1 1 0x4033 (payDefault 0 0 ((partnerOf s).getD 0))

/-! ### Cold tensors (R403) -/

/-- COLD_DIRTY at the symbiont: the mirror's entry is dirty, and the owner is told. -/
def takeColdDirty (k : Packet) (s : State) : State :=
  match k.body with
  | .ready _ l v _ _ _ =>
    let i := v.toNat
    if i < 256 then sendReady (setB s (rQtCfg i) 31 true) l.toNat 4 i 0 0 0 else s
  | _ => s

/-- The wait of a PT entry for its DIRTY_ACK ends, and the entry is dirty. -/
def dirtyNow (s : State) (i : Nat) : State :=
  setB { s with fail := { s.fail with dirtyWait := s.fail.dirtyWait.filter (fun p => p.1 != i) } } (rPtCfg i) 31 true

/-- DIRTY_ACK at the owner. -/
def takeDirtyAck (k : Packet) (s : State) : State :=
  match k.body with
  | .ready _ _ v _ _ _ =>
    if (aget s.fail.dirtyWait v.toNat).isSome then bump (dirtyNow s v.toNat) rDirtyCnt 1 else s
  | _ => s

/-- No DIRTY_ACK within RECV_WD: the write proceeds, and the tensor is dirty and unprotected (R403). -/
def unprotected (s : State) (i : Nat) : State :=
  match aget s.fail.dirtyWait i with
  | none => s
  | some b =>
    let s1 := dirtyNow (advanceTo s (b + regF s rRecvWd 0 32)) i
    logChip { s1 with fail := { s1.fail with unprot := sins s1.fail.unprot i } } 0x4020 (payDefault 0 0 (ptBase s i))

/-! ### The shadow check (R409) -/

/-- The owner's digest and the symbiont's differ: SHADOW_MISMATCH, and the owner is unprotected until the shadows have
been filled anew. No packet tells the symbiont, so that the owner's module alone logs it (log entry 25). -/
def judgeDigest (s : State) (own shadow : Nat) : State :=
  let s1 := { s with fail := { s.fail with digest := none } }
  if own = shadow then s1
  else
    let s2 := logChip s1 0x4040 (payDefault 0 0 0)
    setFailState { s2 with fail := { s2.fail with reseed := true } } 2

/-- A DIGEST: compared with the owner's digest of the same boundary, or kept until that boundary. -/
def takeDigest (k : Packet) (s : State) : State :=
  match k.body with
  | .ready _ _ v _ _ _ =>
    match s.fail.digest with
    | some d => judgeDigest s d v.toNat
    | none => keepEarly k s
  | _ => s

/-! ### Fencing (R412) -/

/-- The module fences itself: its regions accept nothing, and fronds in flight complete FAULT. -/
def fence (s : State) : State :=
  if fenced s then s
  else stopInFlight (logChip (setFailState s 6) 0x4061 (payDefault 0 0 (ownPhys s))) (fun _ => true)

/-! ### Losses (R411–R416, R421, R422) -/

/-- The key of a failover packet that has been seen. -/
def wasSeen (s : State) (k : Nat × Nat × Nat) : Bool := s.fail.seen.contains k
def noteSeen (s : State) (k : Nat × Nat × Nat) : State := { s with fail := { s.fail with seen := s.fail.seen ++ [k] } }

/-- A LOSS payload. -/
def lossBody (deadL deadP standin origin decl cause : Nat) (confirm rollback : Bool) : Body :=
  .loss (BitVec.ofNat 32 deadL) (BitVec.ofNat 32 deadP) (BitVec.ofNat 32 standin) (BitVec.ofNat 32 origin)
    (BitVec.ofNat 64 decl) (BitVec.ofNat 8 cause) confirm rollback

/-- LOSS flags as a number (R413). -/
def lossFlags (confirm rollback : Bool) : Nat := b2n confirm + 2 * b2n rollback

/-- Both alias entries of a first LOSS (R414); nothing when the table is full. -/
def lossAliases (s : State) (deadL deadP standin : Nat) : Option State :=
  match setAlias s deadL standin (deadL == deadP) with
  | none => none
  | some s1 => if deadL = deadP then some s1 else setAlias s1 deadP deadP true

/-- A loss that leaves no copy of some module's state (R422): the lost module is unpaired, its symbiont is lost too, or
it was standing in for another. -/
def noCopyLeft (s : State) (deadL deadP standin : Nat) : Bool :=
  standin == 0xFFFFFFFF || isDead s standin || standin == deadP ||
  s.links.coordAlias.any (fun (_, l, p, _) => p == deadP && l != deadL && s.fail.partners.any (fun (a, b) => a == l && b == deadL))

/-- Collectives of a group with the lost coordinate restart from their current chunk (R389, R416). -/
def restartCollectives (s : State) (deadL : Nat) : State :=
  (s.fronds.filter (fun f => f.phase == .working && !f.worked && 0xC10 ≤ opcodeOf f && opcodeOf f ≤ 0xC13 &&
      (match groupIdx s (parF f 0 0 16) with
       | some g => (rankOf s g deadL).isSome
       | none => false))).foldl
    (fun x f => resendStep (putFrond (logFrond x f 0x4004 (payDefault (opcodeOf f) 0 0)) { f with causes := f.causes ++ [9] }) f deadL)
    (runGhosts s)

/-- The symbiont takes on the lost coordinate (R414–R416). A cold tensor that is dirty calls for a rollback. -/
def startStandin (s : State) (deadL deadP origin : Nat) : State :=
  let s1 := setReg s rStandin (BitVec.ofNat 64 (deadL + 2 ^ 32))
  let s2 := logChip (logChip (setFailState s1 3) 0x4003 (payDefault 0 0 deadL)) 0x4020 (payDefault 0 0 deadL)
  let s3 := { s2 with fail := { s2.fail with freshStep := some (reg s2 rFailStep).toNat } }
  if (List.range 256).any (fun i => qtCold s3 i && regB s3 (rQtCfg i) 31) then
    let s4 := noteSeen { s3 with fail := { s3.fail with rollback := true } } (0x20, deadP, 3)
    sendAll s4 { hdr := newHdr 0x20 2 32 0 (ownLogical s4) 0 0,
                 body := lossBody deadL deadP (ownPhys s4) origin (beat s4) 1 true true } none
  else s3

/-- The first LOSS for a physical coordinate (R414–R416, R422). -/
def firstLoss (s : State) (deadL deadP standin origin code : Nat) : State :=
  let lost := noCopyLeft s deadL deadP standin
  match lossAliases s deadL deadP standin with
  | none => fence (logChip s 0x3013 (payDefault 0 0 deadL))
  | some s1 =>
    let s2 := logChip s1 code (payDefault 0 0 deadP)
    let s3 := if lost then jobLost s2 else s2
    let s4 := if standin = ownPhys s3 ∧ armed s3 then startStandin s3 deadL deadP origin else s3
    let s5 := if regB s4 rGemma 32 && regF s4 rGemma 0 32 == deadP && failState s4 == 3 then
        logChip (setReg s4 rGemma 0) 0x4012 (payDefault 0 0 deadP) else s4
    resendArrivals (restartCollectives s5 deadL)

/-- A LOSS is handled: once for each key, with its changes on the first one for its coordinate. -/
def applyLoss (s : State) (deadL deadP standin origin code : Nat) (confirm rollback : Bool) : State :=
  if deadP = ownPhys s then fence s
  else
    let first := !s.fail.seen.any (fun (t, p, _) => t == 0x20 && p == deadP)
    let s1 := bump (noteSeen s (0x20, deadP, lossFlags confirm rollback)) rLossCnt 1
    let s2 := if first then firstLoss s1 deadL deadP standin origin code else s1
    if rollback then { s2 with fail := { s2.fail with rollback := true } } else s2

/-- LOSS: handled and flooded on when its key is new (R413). -/
def takeLoss (p : Nat) (k : Packet) (s : State) : State :=
  match k.body with
  | .loss dl dp sp op _ _ cf rb =>
    if wasSeen s (0x20, dp.toNat, lossFlags cf rb) then s
    else applyLoss (sendAll s k (some p)) dl.toNat dp.toNat sp.toNat op.toNat 0x4002 cf rb
  | _ => s

/-- The physical coordinate behind a port, as its heartbeats' sender or its training partner. -/
def behind (s : State) (p : Nat) : Nat := regF s (rLinkPeer p) 0 32

/-- The ports that lead to a module and that this module has not taken down itself. -/
def portsTo (s : State) (c : Nat) : List Nat :=
  (List.range 16).filter (fun p => behind s p == c && regB s (rLinkStat p) 1 && !(linkPort s p).ownDown)

/-- The latest heartbeat heard on some ports; nothing where none has been heard. -/
def lastHeard (s : State) (ps : List Nat) : Option Nat :=
  ps.foldl (fun a p => match a, (linkPort s p).heard with
    | some x, some y => some (max x y)
    | none, y => y
    | x, none => x) none

/-- No heartbeat from the neighbour at port `p` for 5,000 counter beats (R411). -/
def declareLoss (s : State) (p : Nat) : State :=
  let c := behind s p
  match lastHeard s (portsTo s c) with
  | none => s
  | some t0 =>
    if fenced s || isDead s c then s
    else
      let s1 := advanceTo s (t0 + 5000)
      let l := (linkPort s1 p).heardCoord
      let st := match s1.fail.partners.find? (fun (a, _) => a == l) with
        | some (_, b) => physOf s1 b
        | none => 0xFFFFFFFF
      let k : Packet := { hdr := newHdr 0x20 2 32 0 (ownLogical s1) 0 0,
                          body := lossBody l c st (ownPhys s1) (beat s1) 1 false false }
      applyLoss (sendAll s1 k none) l c st (ownPhys s1) 0x4001 false false

/-- No heartbeat on any port for 5,000 counter beats (R412). -/
def selfFence (s : State) : State :=
  match lastHeard s (List.range 16) with
  | none => s
  | some t => fence (advanceTo s (t + 5000))

/-! ### Gemmas (R417–R419) -/

/-- Hops between two coordinates under R379. -/
def hopCount (s : State) (c d : Nat) : Nat :=
  (List.range 4).foldl (fun a x => a + min (hopsUp s c d x) (torusK s x - hopsUp s c d x)) 0

/-- The nearest spare that is VALID and not CLAIMED, ties to the lowest coordinate. -/
def nearestSpare (s : State) : Option Nat :=
  let free := (List.range 64).filter (fun i => regB s (rSpare i) 40 && !regB s (rSpare i) 41)
  let key (i : Nat) : Nat := hopCount s (ownPhys s) (regF s (rSpare i) 0 32) * 2 ^ 32 + regF s (rSpare i) 0 32
  free.foldl (fun (a : Option Nat) i => match a with
    | none => some i
    | some j => if key i < key j then some i else some j) none

/-- Firmware claims the nearest idle gemma, after STANDIN_START and while it holds no claim (R417). -/
def claimGemma (s : State) : State :=
  if failState s == 3 && !regB s rGemma 32 && s.fail.claim.isNone then
    match nearestSpare s with
    | none => logChip s 0x4014 (payDefault 0 0 (regF s rStandin 0 32))
    | some i =>
      let g := regF s (rSpare i) 0 32
      inject { s with fail := { s.fail with claim := some i } }
        (adoptPacket s g (regF s rStandin 0 32) g (ownPhys s) 0 0)
  else s

/-- ADOPT of kind CLAIM: an idle gemma accepts the first claim, and every other one is answered BUSY (R417). -/
def takeClaim (k : Packet) (s : State) : State :=
  match k.body with
  | .adopt _ _ sp _ _ =>
    if failState s = 4 then
      sendReady (setFailState { s with fail := { s.fail with claimant := some sp.toNat } } 5) k.hdr.srcL.toNat 1 0 0 0 0
    else sendReady s k.hdr.srcL.toNat 2 0 0 0 0
  | _ => s

/-- The spare that a READY about a claim comes from. -/
def claimedBy (s : State) (k : Packet) : Option Nat :=
  match s.fail.claim with
  | some i => if regF s (rSpare i) 0 32 == k.hdr.srcL.toNat || regF s (rSpare i) 0 32 == physOf s k.hdr.srcL.toNat then some i else none
  | none => none

/-- READY of kind ACCEPT: the claim is held (R417). -/
def takeAccept (k : Packet) (s : State) : State :=
  match claimedBy s k with
  | none => s
  | some i =>
    let g := regF s (rSpare i) 0 32
    let s1 := setB { s with fail := { s.fail with claim := none } } (rSpare i) 41 true
    logChip (setReg s1 rGemma (BitVec.ofNat 64 (g + 2 ^ 32))) 0x4010 (payDefault 0 0 g)

/-- READY of kind BUSY: the entry is CLAIMED, and the next one is tried (R417). -/
def takeBusy (k : Packet) (s : State) : State :=
  match claimedBy s k with
  | none => s
  | some i => claimGemma (setB { s with fail := { s.fail with claim := none } } (rSpare i) 41 true)

/-- The background fill is complete: the gemma is ready (R418). -/
def fillDone (s : State) : State :=
  if regB s rGemma 32 && !regB s rGemma 33 && failState s == 3 then
    logChip (setB s rGemma 33 true) 0x4011 (payDefault 0 0 (regF s rGemma 0 32))
  else s

/-- LOGICAL → GEMMA_P is committed and the spare marked CLAIMED (R419). -/
def completeHandover (s : State) (l g : Nat) : State :=
  let dead := s.links.coordAlias.any (fun (_, x, _, d) => x == l && d)
  let s1 := (setAlias s l g dead).getD s
  let s2 := forRange 0 64 (fun i x => if regB x (rSpare i) 40 && regF x (rSpare i) 0 32 == g then setB x (rSpare i) 41 true else x) s1
  resendArrivals { s2 with fail := { s2.fail with handover := none, out := s2.fail.out.filter (· != l) } }

/-- The gemma takes the coordinate over: its partner is the symbiont, and the images of its queues run (R419). -/
def becomeMember (s : State) (symbiontP : Nat) : State :=
  let sl := match s.links.coordAlias.find? (fun (_, _, p, _) => p == symbiontP) with
    | some (_, l, _, _) => l
    | none => symbiontP
  let s1 := setReg { s with fail := { s.fail with claimant := none } } rPartner (BitVec.ofNat 64 (sl + 2 ^ 32))
  let s2 := logChip (setFailState s1 1) 0x4013 (payDefault 0 0 symbiontP)
  forRange 0 32 (fun i x =>
    if regB x (rQctrl (i / 4) (i % 4)) 1 && !imageRunning x (i / 4) (i % 4) then wrEnable x (i / 4) (i % 4) true else x) s2

/-- ADOPT of kind COMMIT: flooded on, and carried out at the BOUNDARY of its step, or at once when that has passed
(R413, R419). -/
def takeAdopt (p : Nat) (k : Packet) (s : State) : State :=
  match k.body with
  | .adopt l g sp step _ =>
    if wasSeen s (0x21, l.toNat, 1) then s
    else
      let s1 := noteSeen (sendAll s k (some p)) (0x21, l.toNat, 1)
      let s2 := if g.toNat = ownPhys s1 then becomeMember s1 sp.toNat else s1
      if step.toNat ≤ (reg s2 rFailStep).toNat then completeHandover s2 l.toNat g.toNat
      else { s2 with fail := { s2.fail with handover := some (l.toNat, g.toNat, step.toNat) } }
  | _ => s

/-! ### The commands -/

/-- ARM_WRITE (R399, R426). -/
def execArmWrite (m : Master) (v : Word) (s : State) : Answer := effect s (gated s m rFailCtrl (fun x => wrFailCtrl x m v))

/-- READY_SYNC (R399). -/
def execReadySync (p : Fin 16) (k : Packet) (s : State) : Answer := ifOk s (readyOf 0 k) (receive s p k (takeSync k))

/-- CFG_PARTNER_ABSENT (R399). -/
def execCfgPartnerAbsent (s : State) : Answer := effect s (partnerAbsent s)

/-- READY_COLD_DIRTY (R403). -/
def execReadyColdDirty (p : Fin 16) (k : Packet) (s : State) : Answer := ifOk s (readyOf 3 k) (receive s p k (takeColdDirty k))

/-- READY_DIRTY_ACK (R403). -/
def execReadyDirtyAck (p : Fin 16) (k : Packet) (s : State) : Answer := ifOk s (readyOf 4 k) (receive s p k (takeDirtyAck k))

/-- UNPROTECTED (R403). -/
def execUnprotected (i : Nat) (s : State) : Answer := effect s (unprotected s i)

/-- READY_DIGEST (R409). -/
def execReadyDigest (p : Fin 16) (k : Packet) (s : State) : Answer := ifOk s (readyOf 5 k) (receive s p k (takeDigest k))

/-- LOSS_DECLARED (R411, R414). -/
def execLossDeclared (p : Fin 16) (s : State) : Answer := effect s (declareLoss s p)

/-- SELF_FENCED (R412). -/
def execSelfFenced (s : State) : Answer := effect s (selfFence s)

/-- LOSS_RECEIVED (R412–R416, R421, R422). -/
def execLossReceived (p : Fin 16) (k : Packet) (s : State) : Answer :=
  ifOk s (packetOf 0x20 k) (receive s p k (takeLoss p k))

/-- GEMMA_CLAIM (R417). -/
def execGemmaClaim (s : State) : Answer := effect s (claimGemma s)

/-- ADOPT_CLAIM (R417). -/
def execAdoptClaim (p : Fin 16) (k : Packet) (s : State) : Answer := ifOk s (adoptOf 0 k) (receive s p k (takeClaim k))

/-- READY_ACCEPT (R417). -/
def execReadyAccept (p : Fin 16) (k : Packet) (s : State) : Answer := ifOk s (readyOf 1 k) (receive s p k (takeAccept k))

/-- READY_BUSY (R417). -/
def execReadyBusy (p : Fin 16) (k : Packet) (s : State) : Answer := ifOk s (readyOf 2 k) (receive s p k (takeBusy k))

/-- GEMMA_FILL_DONE (R418). -/
def execGemmaFillDone (s : State) : Answer := effect s (fillDone s)

/-- ADOPT_COMMIT (R413, R419). -/
def execAdoptCommit (p : Fin 16) (k : Packet) (s : State) : Answer := ifOk s (adoptOf 1 k) (receive s p k (takeAdopt p k))

/-- ADOPT_RELEASE (R413): the link takes or forwards the packet; the manual gives its arrival no further effect (log
entry 26). -/
def execAdoptRelease (p : Fin 16) (k : Packet) (s : State) : Answer := ifOk s (adoptOf 2 k) (receive s p k (fun x => x))

end Sys2Proof.Machine
end

