-- ==== Sys2Proof/Machine/Power.lean ====
section
/-! DEFINITION. Beat stretch, the voltage loop, power and heat (R42–R45, R508, R511, R513), and the stop of
start-up (R494). -/

namespace Sys2Proof.Machine
open Sys2Proof

/-! ### The stopped state (R494) -/

/-- Start-up stops with a reason: the links stay idle and FAULT_N is asserted (R494, R502). -/
def bootStop (s : State) (reason : Nat) : State :=
  if isReady s || regB s rBoot 4 then s
  else
    let s1 := setF (setB s rBoot 4 true) rBoot 8 8 reason
    let s2 := logEv s1 0x8011 0x0E (srcUnit 0 0) (payDefault 0 reason 0)
    raiseIrq (stopPorts { s2 with pins := { s2.pins with faultN := true } }) 36

/-! ### Stretch (R43–R45) -/

/-- An event of the canaries and oscillator of a die. -/
def logCanary (s : State) (code d pay : Nat) : State := logEv s code 0x13 (srcUnit d 0) pay

/-- The causes of a drop, numbered as the reasons of BEAT_MARGIN_TRIP (R44). -/
def causeCode : StretchCause → Nat
  | .slack => 1 | .thermal => 2 | .pwrcap => 3

/-- Fronds whose promised beat lies in a stretched stretch of time have suspended promises (R45). -/
def suspendPromises (s : State) : State :=
  { s with fronds := s.fronds.map (fun f =>
      if f.live && decide (beat s + 1 ≤ f.prom) then { f with suspended := true } else f) }

/-- The level is changed by one and the change is logged (R43, R44). -/
def changeLevel (s : State) (d new cause : Nat) : State :=
  let old := level s
  let s1 := logCanary s (if new < old then 0x7001 else 0x7002) d (old + new * 256 + cause * 65536)
  { setF s1 rBeatStat 0 4 new with levelBeat := beat s }

/-- A canary's slack is below 3/64 bt: one level lower, or at level 4 a module fault (R43). -/
def stretch (s : State) (d cause : Nat) : State :=
  let k := level s
  if k ≤ 4 then moduleFault (logCanary s 0x7003 d (payDefault 0 cause 0)) 0x03
  else
    let s1 := if k = 8 then setF s rStretch 32 16 (satAdd 16 (regF s rStretch 32 16) 1) else s
    suspendPromises (changeLevel s1 d (k - 1) cause)

/-- THERMAL runs on some die: the voltage request holds and the level is not raised (R447). -/
def thermalRuns (s : State) : Bool := s.maint.running.any (fun q => q.act == .thermal)

/-- The voltage loop has room for one more step: no rail at 850 mV and no cap in force (R42, R44, R511). -/
def voltageRoom (s : State) : Bool :=
  decide (regF s rPwrcap 32 10 < 850) && decide (regF s rPwrcap 42 10 < 850) && !regB s rPwrcap 16

/-- The margin conditions have held for HOLD_US: one level higher (R44). -/
def unstretch (s : State) (d : Nat) : State :=
  let k := level s
  if 8 ≤ k || thermalRuns s || !voltageRoom s then s
  else changeLevel (advanceTo s (s.levelBeat + regF s rStretch 16 16 * 1250)) d (k + 1) 1

/-! ### The voltage loop and the power cap (R42, R511) -/

/-- A rail's request one 5 mV step up or down, within 0.60–0.85 V; before tower training nothing is requested
(R505). -/
def stepRail (s : State) (lo : Nat) (up : Bool) : State :=
  let v := regF s rPwrcap lo 10
  if v = 0 then s else setF s rPwrcap lo 10 (if up then min 850 (v + 5) else max 600 (v - 5))

/-- Both rails' requests. -/
def stepRails (s : State) (up : Bool) : State := stepRail (stepRail s 32 up) 42 up

/-- The voltage loop's turn, every 1,250 bt (R42): down while HOT; up below RAISE_AT unless the cap is in force; down
when the slack stayed at or above 10/64 bt; held during a recalibration (R447, R511, R513). -/
def voltageTick (s : State) (slack : Nat) (full : Bool) : State :=
  let s1 := setF s rStretch 48 8 slack
  if thermalRuns s1 then s1
  else if regB s1 rTherm 24 then stepRails s1 false
  else if slack < regF s1 rStretch 0 6 then (if regB s1 rPwrcap 16 then s1 else stepRails s1 true)
  else if full then stepRails s1 false
  else s1

/-- The mean of a list of numbers; 0 for none. -/
def meanOf (l : List Nat) : Nat := l.foldl (· + ·) 0 / l.length

/-- The module power is estimated, every 10 µs: while its 1 ms mean exceeds the cap, the cap limits the voltage
(R511; log entry 29). -/
def powerEstimate (s : State) (watts : Nat) : State :=
  let h := (watts :: s.powerHist).take 100
  let s1 := { s with powerHist := h }
  let above := decide (regF s1 rPwrcap 0 16 < meanOf h)
  let s2 := setB s1 rPwrcap 16 above
  if above && !thermalRuns s2 then stepRails s2 false else s2

/-- CAP_W written: below 600 stored as 600, above 1,500 as 1,500. -/
def wrCapW (s : State) (w : Nat) : State := setF s rPwrcap 0 16 (max 600 (min 1500 w))

/-! ### Heat (R513) -/

/-- A sensor reading of die `d`. -/
def noteTemp (s : State) (d t : Nat) : State :=
  let s1 := setF s rTherm (8 * d) 8 t
  setF s1 rTherm 16 8 (max (regF s1 rTherm 16 8) t)

/-- A sensor reads 103 °C or more. -/
def throttle (s : State) (d t : Nat) : State :=
  let s1 := noteTemp s d t
  if 103 ≤ t then setB s1 rTherm 24 true else s1

/-- The hottest sensors of both dies are read: at 100 °C or below the throttling ends. -/
def hotClear (s : State) (t0 t1 : Nat) : State :=
  let s1 := noteTemp (noteTemp s 0 t0) 1 t1
  if t0 ≤ 100 ∧ t1 ≤ 100 then setB s1 rTherm 24 false else s1

/-- A sensor has read 115 °C or more for 10 µs: THERMTRIP_N is asserted and latched, and the module faults. -/
def thermTrip (s : State) (d t : Nat) : State :=
  let s1 := throttle s d t
  if 115 ≤ t then
    let s2 := { setB s1 rTherm 25 true with pins := { s1.pins with thermtrip := true } }
    moduleFault (logCanary s2 0x7003 d (payDefault 0 2 0)) 0x03
  else s1

/-! ### Rails (R508) -/

/-- VMGMT leaves its tolerance: the log and its counters are lost. -/
def loseLog (s : State) : State :=
  let s1 := setReg (setReg (setReg (setReg s rLogHead 0) rLogTail 0) rLogOver 0) rLogDrop 0
  { s1 with log := .reset, pins := { s1.pins with vmgmtLost := true } }

/-- The outputs of the fronds at work are unspecified (R6, R508). -/
def unspecify (s : State) : State :=
  { s with fronds := s.fronds.map (fun f => if atWork f then { f with unspec := true } else f) }

/-- A rail leaves its tolerance while PWRGOOD is high. -/
def railOut (s : State) : Rail → State
  | .vcore0 => stretch s 0 1
  | .vcore1 => stretch s 1 1
  | .vmgmt => loseLog s
  | _ => unspecify s

/-! ### The commands -/

/-- RAIL_OUT_OF_TOLERANCE (R508). -/
def execRailOutOfTolerance (rail : Rail) (s : State) : Answer := effect s (if s.pins.pwrgood then railOut s rail else s)

/-- VMGMT_LOSS (R508). -/
def execVmgmtLoss (s : State) : Answer := effect s (loseLog s)

/-- SYSREF_LOCK_TIMEOUT (R493, R510). -/
def execSysrefLockTimeout (s : State) : Answer :=
  effect s (if s.start.isSome && regF s rBoot 0 4 == 1 && !regB s rBeatStat 4 then bootStop (advanceTo s 62500000) 1 else s)

/-- REF_LOSS (R63): the oscillator holds; ALIGNED is cleared. -/
def execRefLoss (s : State) : Answer :=
  effect s (if regB s rBeatStat 4 then
    setB (setB (logCanary s 0x7006 0 (payDefault 0 0 0)) rBeatStat 5 false) rBeatStat 4 false else s)

/-- THERMAL_THROTTLE (R513). -/
def execThermalThrottle (d : Fin 2) (t : BitVec 8) (s : State) : Answer := effect s (throttle s d.val t.toNat)

/-- HOT_CLEAR (R513). -/
def execHotClear (t0 t1 : BitVec 8) (s : State) : Answer := effect s (hotClear s t0.toNat t1.toNat)

/-- THERMTRIP (R513). -/
def execThermtrip (d : Fin 2) (t : BitVec 8) (s : State) : Answer := effect s (thermTrip s d.val t.toNat)

/-- VOLTAGE_LOOP_TICK (R42). -/
def execVoltageLoopTick (slack : BitVec 8) (full : Bool) (s : State) : Answer := effect s (voltageTick s slack.toNat full)

/-- POWER_ESTIMATE (R511). -/
def execPowerEstimate (watts : Nat) (s : State) : Answer := effect s (powerEstimate s watts)

/-- BEAT_STRETCH (R43). -/
def execBeatStretch (d : Fin 2) (cause : StretchCause) (s : State) : Answer := effect s (stretch s d.val (causeCode cause))

/-- BEAT_UNSTRETCH (R44). -/
def execBeatUnstretch (d : Fin 2) (s : State) : Answer := effect s (unstretch s d.val)

/-- PWRCAP_WRITE. -/
def execPwrcapWrite (m : Master) (w : BitVec 16) (s : State) : Answer :=
  effect s (gated s m rPwrcap (fun x => wrCapW x w.toNat))

/-- MEMCFG.LOCAL_GIB: the next lower multiple of 4, at most 32; LOCK freezes it until reset (R38). -/
def wrMemcfg (s : State) (m : Master) (v : Word) : State :=
  if regB s rMemcfg 63 then logMaster s 0x2003 m (absReg rMemcfg)
  else setB (setF s rMemcfg 0 6 (min 32 (fld v 0 6 / 4 * 4))) rMemcfg 63 (bitOf v 63)

/-- MEMCFG_WRITE (R38). -/
def execMemcfgWrite (m : Master) (v : Word) (s : State) : Answer := effect s (gated s m rMemcfg (fun x => wrMemcfg x m v))

/-- All six non-determinism counters cleared together (R58). -/
def clearNd (s : State) : State := forRange 0 6 (fun i x => setReg x (rNdCount + 8 * i) 0) s

/-- ND_CLR (R58). -/
def execNdClr (m : Master) (s : State) : Answer := effect s (gated s m rBeatCtrl clearNd)

/-- MISS_CLR. -/
def execMissClr (m : Master) (s : State) : Answer := effect s (gated s m rBeatCtrl (fun x => setReg x rMissCnt 0))

end Sys2Proof.Machine
end

