-- ==== Sys2Proof/Machine/Host.lean ====
section
/-! DEFINITION. Host ports, translations, semaphores, mailboxes, the configuration store, the firmware watchdog and
the board controller (R476, R482–R488, R492, R496). -/

namespace Sys2Proof.Machine
open Sys2Proof

/-- An event of a host port. -/
def logPort (s : State) (code p addr : Nat) : State := logEv s code 0x0D (srcUnit p 0) (payDefault 0 0 addr)

/-! ### Translations and page requests (R482, R483) -/

/-- The cached entry of a port that covers an untranslated address. -/
def atcHit (s : State) (p u : Nat) : Bool :=
  s.host.atc.any (fun e => e.port == p && decide (e.base ≤ u) && decide (u < e.base + 2 ^ e.log2))

/-- A translation is cached; a port holds 4,096, and the oldest leaves. -/
def atcPut (s : State) (p u log2 : Nat) : State :=
  let e : AtcEntry := { port := p, base := u / 2 ^ log2 * 2 ^ log2, log2 := log2 }
  let mine := (s.host.atc.filter (fun x => x.port == p)).length
  let old := if 4096 ≤ mine then
      (match s.host.atc.find? (fun x => x.port == p) with
       | some x => s.host.atc.erase x
       | none => s.host.atc)
    else s.host.atc
  { s with host := { s.host with atc := old ++ [e] } }

def pageOf (u : Nat) : Nat := u / 4096 * 4096

/-- A frond of a held access waits on a page of a port. -/
def onPage (p u : Nat) (f : Frond) : Bool := f.page == some (p, pageOf u)

/-- PRI_CFG.OUT follows the outstanding requests. -/
def countOut (s : State) (p : Nat) : State :=
  setF s (rPriCfg p) 32 16 (s.host.pages.filter (fun x => x.port == p && x.sent)).length

/-- The most page requests that a port has outstanding. -/
def pageLimit (s : State) (p : Nat) : Nat := min 512 (portOf s p).priAlloc

/-- Page requests may be sent: PRI is enabled and no failure has stopped them. -/
def priOpen (s : State) (p : Nat) : Bool := regB s (rPcieStat p) 10 && !(portOf s p).priStopped

/-- Waiting pages are requested while the limit allows. The last argument bounds their number. -/
def sendPages (s : State) (p : Nat) : Nat → State
  | 0 => countOut s p
  | n + 1 =>
    let out := (s.host.pages.filter (fun x => x.port == p && x.sent)).length
    match s.host.pages.find? (fun x => x.port == p && !x.sent && x.tries == 0) with
    | none => countOut s p
    | some q =>
      if out < pageLimit s p then
        let g : PageReq := { q with sent := true, tries := 1, since := beat s }
        let s1 := { s with host := { s.host with pages := s.host.pages.map (fun x => if x == q then g else x) } }
        sendPages (emit (bump (countNd s1 rNdPage 1) (rPageReq p) 1) (.pageReq p q.page)) p n
      else countOut s p

/-- The fronds that wait on a page complete HOST_FAULT (R483). -/
def denyPage (s : State) (p u code : Nat) : State :=
  let s1 := logPort (bump s (rPageDeny p) 1) code p (pageOf u)
  let s2 := { s1 with host := { s1.host with pages := s1.host.pages.filter (fun x => !(x.port == p && x.page == pageOf u)) } }
  let s3 := (s2.fronds.filter (onPage p u)).foldl (fun x f => stopFrond x f .hostFault) s2
  sendPages s3 p s3.host.pages.length

/-- The fronds that wait on a page go on; a late one records cause PAGE when a page request was made (R56, R483). -/
def freePage (s : State) (p u log2 : Nat) (asked : Bool) : State :=
  let lo := u / 2 ^ log2 * 2 ^ log2
  { s with fronds := s.fronds.map (fun f =>
      match f.page with
      | some (q, a) =>
        if q == p && decide (lo ≤ a) && decide (a < lo + 2 ^ log2) then
          { f with page := none, causes := if asked then f.causes ++ [5] else f.causes }
        else f
      | none => f) }

/-- Tile loads and stores that wait on a page keep their rows (R143). -/
def pendRows (s : State) (p u : Nat) : State :=
  (s.fronds.filter (fun f => onPage p u f && (opcodeOf f == 0x331 || opcodeOf f == 0x332))).foldl pendAt s

/-- An answer to a translation request (R482, R483). -/
def atsAnswer (s : State) (p u : Nat) (res : AtsResult) : State :=
  let asked := s.host.pages.find? (fun x => x.port == p && x.page == pageOf u)
  match res with
  | .page log2 =>
    let k := max 12 (min 30 log2)
    let s1 := freePage (atcPut s p u k) p u k asked.isSome
    let keep (x : PageReq) : Bool := !(x.port == p && x.page == pageOf u && !x.sent)
    { s1 with host := { s1.host with pages := s1.host.pages.filter keep } }
  | .absent =>
    match asked with
    | some x =>
      if x.sent then s
      else if 2 ≤ x.tries then denyPage s p u 0x8004
      else if priOpen s p then
        let g : PageReq := { x with sent := true, tries := x.tries + 1, since := beat s }
        let s1 := { s with host := { s.host with pages := s.host.pages.map (fun y => if y == x then g else y) } }
        countOut (emit (bump (countNd s1 rNdPage 1) (rPageReq p) 1) (.pageReq p x.page)) p
      else denyPage s p u 0x8004
    | none =>
      if priOpen s p then
        let x : PageReq := { port := p, page := pageOf u, since := beat s, tries := 0, sent := false }
        sendPages { s with host := { s.host with pages := s.host.pages ++ [x] } } p 1
      else denyPage s p u 0x8004

/-- An answer to a translation request, with the tile rows that it leaves pending. -/
def atsDone (s : State) (p u : Nat) (res : AtsResult) : State :=
  match res with
  | .absent => pendRows (atsAnswer s p u res) p u
  | _ => atsAnswer s p u res

/-- A page response (R483). -/
def pageResponse (s : State) (p u : Nat) (code : PageResp) : State :=
  match s.host.pages.find? (fun x => x.port == p && x.page == pageOf u && x.sent) with
  | none => s
  | some x =>
    match code with
    | .success =>
      let s1 := { s with host := { s.host with pages := s.host.pages.map (fun y => if y == x then { x with sent := false } else y) } }
      emit (sendPages s1 p s1.host.pages.length) (.atsReq p (pageOf u))
    | .invalid => denyPage s p u 0x8004
    | .failure => denyPage (setPort s p { portOf s p with priStopped := true }) p u 0x8004

/-- No page response within PRI_CFG.WD (R483). -/
def pageTimeout (s : State) (p u : Nat) : State :=
  match s.host.pages.find? (fun x => x.port == p && x.page == pageOf u && x.sent) with
  | none => s
  | some x =>
    let wd := regF s (rPriCfg p) 0 32
    if wd = 0 then s else denyPage (advanceTo s (x.since + wd)) p u 0x8005

/-- An invalidation removes the matching entries (R482). -/
def invalidate (s : State) (p u log2 : Nat) : State :=
  let lo := u / 2 ^ log2 * 2 ^ log2
  let hit (e : AtcEntry) : Bool :=
    e.port == p && decide (e.base < lo + 2 ^ log2) && decide (lo < e.base + 2 ^ e.log2)
  emit { s with host := { s.host with atc := s.host.atc.filter (fun e => !hit e) } } (.invDone p u)

/-- The port of a host window that a slot lies in. -/
def slotPort (s : State) (d : Slot) : Option Nat :=
  if d.empty then none
  else match resolve s ((d.wbase + (d.extentRep 0).1.toNat) % 2 ^ 40) with
    | .host p _ => some p
    | _ => none

/-- The port of the first host-window source slot of a frond. -/
def hostSource (s : State) (f : Frond) : Option Nat :=
  ([0, 1, 2].filter (fun i => !f.dests.contains i)).foldl (fun a i => a.or (slotPort s (slotOf f i))) none

/-- A read completion of a frond carries an error, or poisoned data (R483). -/
def cplErr (s : State) (x : FrondRef) (ep : Bool) : State :=
  match findFrond s x with
  | none => s
  | some f =>
    match hostSource s f with
    | none => s
    | some p =>
      if !atWork f then s
      else if ep then putFrond s { f with poisoned := true }
      else stopFrond (logPort (bump s (rCplErr p) 1) 0x8009 p 0) f .hostFault

/-! ### The ports (R476, R486) -/

/-- The registers of a port that a reset of its function returns to their reset values. -/
def zeroPort (s : State) (p : Nat) : State :=
  ([rPcieStat p, rHwin p, rMwin p, rPriCfg p, rIrqPend p] ++ (List.range 40).map (fun i => rIrqRoute p i)).foldl
    (fun x o => setReg x o (regReset o)) s

/-- The registers of a port other than its counters return to reset values, with its translations, page requests and
messages (R486). -/
def portReset (s : State) (p : Nat) : State :=
  let s1 := zeroPort s p
  let h := s1.host
  let s2 := { s1 with host := { h with
      atc := h.atc.filter (fun e => e.port != p), pages := h.pages.filter (fun e => e.port != p),
      msixTable := h.msixTable.filter (fun e => e.1 / 64 != p), msixPending := h.msixPending.filter (fun e => e / 32 != p) } }
  setPort s2 p .reset

/-- A semaphore owned by the host of a port is freed (R486). -/
def freeSems (s : State) (p : Nat) : State :=
  forRange 0 16 (fun k x =>
    if regF x (rSem k) 0 2 == p + 1 then logPort (setF x (rSem k) 0 2 0) 0x8007 p (absReg (rSem k)) else x) s

/-- A port is lost: its logic resets, what waits on its window ends, and the rest goes on (R486). -/
def portLost (s : State) (p : Nat) : State :=
  let waits := s.fronds.filter (fun f => match f.page with
    | some (q, _) => q == p
    | none => false)
  let s1 := logPort (freeSems (portReset s p) p) 0x8002 p 0
  let s2 := waits.foldl (fun x f => stopFrond x f .hostFault) s1
  let s3 := setF s2 (rMboxCtl (p + 1)) 0 1 0
  raiseOn s3 (1 - p) 38

/-- PEnPERST_N goes low (R476, R508). -/
def perst (s : State) (p : Nat) : State :=
  let s1 := portLost s p
  if p = 0 then { s1 with pins := { s1.pins with perst0 := true } } else { s1 with pins := { s1.pins with perst1 := true } }

/-- The host link of a port comes up (R476, R486). -/
def portUpNow (s : State) (p speed width : Nat) : State :=
  let o := rPcieStat p
  let s1 := setF (setF (setB s o 0 true) o 1 4 speed) o 5 5 width
  let s2 := if p = 0 then { s1 with pins := { s1.pins with perst0 := false } } else { s1 with pins := { s1.pins with perst1 := false } }
  raiseOn (logPort s2 0x8001 p 0) (1 - p) 38

/-- Pending vectors of a port that no mask holds any longer are sent (R481). -/
def sendPending (s : State) (p : Nat) : State :=
  let x := portOf s p
  forRange 0 32 (fun v y =>
    if x.msixEn && !x.msixMask && smem y.host.msixPending (p * 32 + v) && !bitOf (msixWord y (p * 64 + 2 * v + 1)) 32 then
      emit { y with host := { y.host with msixPending := sdel y.host.msixPending (p * 32 + v) } } (.msix p v)
    else y) s

/-- MWIN_BASE is a multiple of the memory BAR's size (R477). -/
def maskMwin (s : State) (p : Nat) (v : Nat) : State :=
  let k := (portOf s p).barLog2
  setReg s (rMwin p) (BitVec.ofNat 64 (v % 2 ^ 40 / 2 ^ k * 2 ^ k))

/-- A write of configuration space (R476, R477, R481–R483). -/
def configWrite (s : State) (p : Nat) (k : PcieCfg) (v : Word) : State :=
  let x := portOf s p
  let on := bitOf v 0
  if !regB s (rPcieStat p) 0 then s
  else match k with
    | .busMaster => setB s (rPcieStat p) 12 on
    | .ats => setB s (rPcieStat p) 11 on
    | .pri =>
      let s1 := setB s (rPcieStat p) 10 on
      if on then sendPages (setPort s1 p { x with priStopped := false }) p s.host.pages.length else s1
    | .priAlloc => setPort s p { x with priAlloc := v.toNat % 2 ^ 32 }
    | .msixEnable => sendPending (setPort s p { x with msixEn := on }) p
    | .msixMask => sendPending (setPort s p { x with msixMask := on }) p
    | .barSize =>
      let n := v.toNat
      if 30 ≤ n ∧ n ≤ 39 then maskMwin (setPort s p { x with barLog2 := n }) p (reg s (rMwin p)).toNat else s

/-! ### Semaphores and mailboxes (R484, R485) -/

/-- Owner codes: 1 PCIE0, 2 PCIE1, 3 firmware; no other master owns a semaphore. -/
def ownerCode : Master → Nat
  | .pcie n => n.val + 1
  | .mgmt => 3
  | _ => 0

/-- SEMk written (R484). -/
def wrSem (s : State) (m : Master) (k : Nat) (v : Word) : State :=
  let own := regF s (rSem k) 0 2
  let c := ownerCode m
  if c = 0 then s
  else if bitOf v 2 && own == 0 then setF s (rSem k) 0 2 c
  else if bitOf v 3 && own == c then setF s (rSem k) 0 2 0
  else s

/-- The owner code of a mailbox's recipient. -/
def mboxTo (d : Nat) : Nat := if d = 0 then 3 else d

/-- MBOX_CTLd.FULL written 1: set by a sender, cleared by the recipient (R485, R496). -/
def wrMboxCtl (s : State) (m : Master) (d : Nat) : State :=
  let o := rMboxCtl d
  if ownerCode m = mboxTo d then setB s o 0 false
  else if regB s o 0 then s
  else
    let s1 := setF (setB s o 0 true) o 4 2 (ownerCode m)
    if d = 0 then emit s1 (.firmware 0) else raiseOn s1 (d - 1) 34

/-- MBOX_Dd_j written: dropped while FULL (R485). -/
def wrMboxData (s : State) (m : Master) (d j : Nat) (v : Word) : State :=
  if regB s (rMboxCtl d) 0 then logMaster s 0x8008 m (absReg (rMboxD d j)) else setReg s (rMboxD d j) v

/-! ### The configuration store (R489, R492, R496) -/

/-- An erased byte of flash (PRESUMED, log entry 47). -/
def flashDefault (_ : Nat) : Byte := 0xFF

def flashByte (s : State) (a : Nat) : Byte := mget flashDefault s.host.flash a

/-- `n` bytes of flash from an address. -/
def flashBytes (s : State) (a : Nat) : Nat → List Byte
  | 0 => []
  | n + 1 => flashByte s a :: flashBytes s (a + 1) n

/-- Bytes programmed into flash. -/
def flashPut (s : State) (a : Nat) : List Byte → State
  | [] => s
  | b :: t => flashPut { s with host := { s.host with flash := mset flashDefault s.host.flash a b } } (a + 1) t

/-- A flash command (R492): dropped unless the master owns SEM1, no command runs, and the block is ready or stopped. -/
def nvCommand (s : State) (m : Master) (op len : Nat) : State :=
  let a := (reg s rNvAddr).toNat
  let owner := ownerCode m != 0 && regF s (rSem 1) 0 2 == ownerCode m
  if !owner || regB s rNvStat 0 || !(isReady s || regB s rBoot 4) then logMaster s 0x8021 m (absReg rNvCmd)
  else if (op = 2 ∨ op = 3) ∧ a < 0x10000 then logMaster s 0x8020 m (absReg rNvCmd)
  else
    let s1 := setF (setF s rNvCmd 1 3 op) rNvCmd 16 9 len
    if op = 1 ∨ op = 2 ∨ op = 3 then
      { setB s1 rNvStat 0 true with host := { s1.host with nvJob := some (op, a, len) } }
    else s1

/-- The bytes of the NVCFG buffer. -/
def nvBuffer (s : State) : List Byte := (List.range 32).flatMap (fun j => leBytes 8 (reg s (rNvBuf j)).toNat)

/-- The buffer with its first bytes replaced. -/
def setNvBuffer (s : State) (b : List Byte) : State :=
  let all := b ++ (nvBuffer s).drop b.length
  forRange 0 32 (fun j x => setReg x (rNvBuf j) (BitVec.ofNat 64 (leNat ((all.drop (8 * j)).take 8)))) s

/-- What a flash command does when it succeeds: READ fills the buffer, PROGRAM writes within one 256-byte page, ERASE
clears a 64 KiB sector (R496; log entry 46). -/
def nvEffect (s : State) (op a len : Nat) : State :=
  if op = 1 then setNvBuffer s (flashBytes s a (min len 256))
  else if op = 2 then flashPut s a ((nvBuffer s).take (min len (256 - a % 256)))
  else { s with host := { s.host with flash := s.host.flash.filter (fun c => c.1 / 65536 != a / 65536) } }

/-- The bytes a failed command leaves behind: free values (log entry 46). -/
def nvSpoil (s : State) (op a len : Nat) : State :=
  let n := if op = 3 then 65536 else min len (256 - a % 256)
  if op = 1 then s
  else forRange 0 n (fun i x =>
    let t := takeFree x
    flashPut t.2 ((if op = 3 then a / 65536 * 65536 else a) + i) [BitVec.ofNat 8 t.1]) s

/-- The flash command ends (R496). -/
def nvDone (s : State) (err : FlashErr) : State :=
  match s.host.nvJob with
  | none => s
  | some (op, a, len) =>
    let code := match err with
      | .none => 0 | .flash => 1 | .verify => 2
    let s1 := if code = 0 then nvEffect s op a len else nvSpoil s op a len
    let s2 := setF (setB (setB { s1 with host := { s1.host with nvJob := none } } rNvStat 0 false) rNvStat 1 true) rNvStat 4 4 code
    raiseIrq s2 39

/-! ### Firmware (R488) -/

/-- An expiry of the firmware watchdog (R488). -/
def fwExpiry (s : State) : State :=
  if !isReady s then bootStop s 7
  else
    match s.host.wdtLast with
    | some b =>
      if beat s < b + 1250000000 then moduleFault s 0x30
      else
        let s1 := setF s rWdt 32 16 (satAdd 16 (regF s rWdt 32 16) 1)
        logEv { s1 with host := { s1.host with wdtLast := some (beat s), wdtKick := beat s } } 0x8030 0x0E (srcUnit 0 0) (payDefault 0 0 0)
    | none =>
      let s1 := setF s rWdt 32 16 (satAdd 16 (regF s rWdt 32 16) 1)
      logEv { s1 with host := { s1.host with wdtLast := some (beat s), wdtKick := beat s } } 0x8030 0x0E (srcUnit 0 0) (payDefault 0 0 0)

/-- A gemma fill in progress restarts (R418, R488). -/
def fillRestart (s : State) : State :=
  if isReady s && s.maint.running.any (fun q => q.act == .fill) then logChip s 0x4012 (payDefault 0 0 0) else s

/-- The watchdog expires: PERIOD_MS after the last kick. -/
def watchdog (s : State) : State :=
  fillRestart (fwExpiry (advanceTo s (s.host.wdtKick + regF s rWdt 16 16 * 1250000)))

/-! ### The board controller (R487) -/

/-- The registers that telemetry reports: temperatures, rails and the cap, and counters. -/
def telemetry (s : State) : List Nat :=
  [rTherm, rPwrcap, rStretch, rBeatCount, rMissCnt, rStretchBt, rNdCount, rLogHead, rLogOver, rLogDrop, rLossCnt].map
    (fun o => (reg s o).toNat) ++ (List.range 8).map (fun t => regF s (rTow t 8) 8 8)

/-- An MCTP request, answered from tower training on (R487, R514). -/
def mctp (s : State) : MctpReq → State
  | .telemetry => if 5 ≤ regF s rBoot 0 4 then emit s (.mctp (telemetry s)) else s
  | .powerCap w => if 5 ≤ regF s rBoot 0 4 then wrCapW s w.toNat else s

/-! ### The commands -/

/-- PERST_ASSERT (R476, R486). -/
def execPerstAssert (p : Fin 2) (s : State) : Answer := effect s (perst s p.val)

/-- ATS_TRANSLATION_COMPLETION (R482, R483). -/
def execAtsTranslationCompletion (p : Fin 2) (u : Word) (res : AtsResult) (s : State) : Answer :=
  effect s (atsDone s p.val u.toNat res)

/-- ATS_INVALIDATION (R482). -/
def execAtsInvalidation (p : Fin 2) (u : Word) (log2 : Nat) (s : State) : Answer :=
  ifOk s (decide (12 ≤ log2) && decide (log2 ≤ 64)) (invalidate s p.val u.toNat log2)

/-- PAGE_RESPONSE (R483). -/
def execPageResponse (p : Fin 2) (u : Word) (code : PageResp) (s : State) : Answer :=
  effect s (pageResponse s p.val u.toNat code)

/-- PAGE_REQ_TIMEOUT (R483). -/
def execPageReqTimeout (p : Fin 2) (u : Word) (s : State) : Answer := effect s (pageTimeout s p.val u.toNat)

/-- HOST_CPL_ERR (R483). -/
def execHostCplErr (f : FrondRef) (ep : Bool) (s : State) : Answer := effect s (cplErr s f ep)

/-- PCIE_LINK_DOWN (R486). -/
def execPcieLinkDown (p : Fin 2) (s : State) : Answer :=
  effect s (if regB s (rPcieStat p.val) 0 then portLost s p.val else s)

/-- PCIE_LINK_UP (R476, R486). -/
def execPcieLinkUp (p : Fin 2) (speed : BitVec 4) (width : BitVec 5) (s : State) : Answer :=
  effect s (if regB s (rPcieStat p.val) 0 then s else portUpNow s p.val speed.toNat width.toNat)

/-- PCIE_CONFIG_WRITE (R476, R477, R481–R483). -/
def execPcieConfigWrite (p : Fin 2) (k : PcieCfg) (v : Word) (s : State) : Answer := effect s (configWrite s p.val k v)

/-- SEM_ACQUIRE (R484). -/
def execSemAcquire (m : Master) (k : Fin 16) (s : State) : Answer := effect s (wrSem s m k.val 4)

/-- SEM_RELEASE (R484). -/
def execSemRelease (m : Master) (k : Fin 16) (s : State) : Answer := effect s (wrSem s m k.val 8)

/-- MBOX_DATA_WRITE (R485). -/
def execMboxDataWrite (m : Master) (d : Fin 3) (j : Fin 8) (v : Word) (s : State) : Answer :=
  effect s (wrMboxData s m d.val j.val v)

/-- MBOX_SEND (R485). -/
def execMboxSend (m : Master) (d : Fin 3) (s : State) : Answer := effect s (wrMboxCtl s m d.val)

/-- MBOX_CLEAR (R485). -/
def execMboxClear (m : Master) (d : Fin 3) (s : State) : Answer := effect s (wrMboxCtl s m d.val)

/-- NVCFG_READ (R492, R496). -/
def execNvcfgRead (m : Master) (len : BitVec 9) (s : State) : Answer :=
  ifOk s (decide (1 ≤ len.toNat) && decide (len.toNat ≤ 256)) (nvCommand s m 1 len.toNat)

/-- NVCFG_PROGRAM (R492, R496). -/
def execNvcfgProgram (m : Master) (len : BitVec 9) (s : State) : Answer :=
  ifOk s (decide (1 ≤ len.toNat) && decide (len.toNat ≤ 256)) (nvCommand s m 2 len.toNat)

/-- NVCFG_ERASE (R492, R496). -/
def execNvcfgErase (m : Master) (len : BitVec 9) (s : State) : Answer :=
  ifOk s (decide (len.toNat ≤ 256)) (nvCommand s m 3 len.toNat)

/-- NVCFG_DONE (R496). -/
def execNvcfgDone (err : FlashErr) (s : State) : Answer := effect s (nvDone s err)

/-- WDT_KICK (R488). -/
def execWdtKick (m : Master) (s : State) : Answer :=
  effect s (gated s m rWdt (fun x => { x with host := { x.host with wdtKick := beat x } }))

/-- FW_WATCHDOG (R488). -/
def execFwWatchdog (s : State) : Answer := effect s (watchdog s)

/-- FW_TRAP (R488): logged, and counted as an expiry. -/
def execFwTrap (cause : Word) (s : State) : Answer :=
  effect s (fillRestart (fwExpiry (logEv s 0x8031 0x0E (srcUnit 0 0) (payDefault 0 0 cause.toNat))))

/-- MCTP_MESSAGE (R487). -/
def execMctpMessage (q : MctpReq) (s : State) : Answer := effect s (mctp s q)

end Sys2Proof.Machine
end

