-- ==== Sys2Proof/Machine/Primes.lean ====
section
/-! DEFINITION. The prime table (R221–R225, R245). -/

namespace Sys2Proof.Machine
open Sys2Proof

/-- The register of PRIME_Qk. Every P-block reports the same table; it stands in P-block 0 of region 0. -/
def rPrimeQ (k : Nat) : Nat := rPb 0 0 (0x400 + 16 * k)
def rPrimeRoot (k : Nat) : Nat := rPb 0 0 (0x408 + 16 * k)
def rPtStat : Nat := rPb 0 0 0x100

/-- Entry `k` is loaded. -/
def primeLoaded (s : State) (k : Nat) : Bool := decide (k < 80) && regB s (rPrimeQ k) 63

/-- q of entry `k`. -/
def primeQ (s : State) (k : Nat) : Nat := regF s (rPrimeQ k) 0 36

/-- ROOT of entry `k`. -/
def primeRoot (s : State) (k : Nat) : Nat := regF s (rPrimeRoot k) 0 36

/-- LOG2Q of entry `k`. -/
def primeLog2 (s : State) (k : Nat) : Nat := regF s (rPrimeRoot k) 36 16

/-- c of a modulus (R221). -/
def primeC (q : Nat) : Nat := (2 ^ 36 + 1 - q) / 2 ^ 18

/-- The form of R221 that a load requires. -/
def primeForm (q : Nat) : Bool :=
  q % 2 ^ 18 == 1 && decide (q < 2 ^ 36) && decide (1 ≤ primeC q) && decide (primeC q ≤ 2 ^ 17) &&
    decide (popcount 18 (primeC q) ≤ 3)

/-- log2 of a number in 8.8 fixed point, to nearest (R225): n with 2^(2n − 1) ≤ q^512 < 2^(2n + 1). -/
def log2Fix (q : Nat) : Nat := (Nat.log2 (q ^ 512) + 1) / 2

/-- PRIME_BAD (R224). -/
def primeBad (s : State) (k cause : Nat) : State :=
  let s1 := setF s rPtStat 8 7 (regF s rPtStat 8 7 + 1)
  logEv s1 0x1050 0x05 (srcUnit 0 0) (k + cause * 65536)

/-- Entry `k` of the table is checked and loaded (R224). -/
def loadPrime (s : State) (k q root : Nat) : State :=
  if q = 0 then s
  else if !primeForm q then primeBad s k 1
  else if q ≤ root || powMod 18 root (2 ^ 17) q != q - 1 then primeBad s k 2
  else if (List.range k).any (fun j => primeLoaded s j && primeQ s j == q) then primeBad s k 3
  else
    let s1 := setReg s (rPrimeQ k) (BitVec.ofNat 64 (q + primeC q * 2 ^ 36 + 2 ^ 63))
    let s2 := setReg s1 (rPrimeRoot k) (BitVec.ofNat 64 (root + log2Fix q * 2 ^ 36))
    setF s2 rPtStat 0 7 (regF s2 rPtStat 0 7 + 1)

/-- The whole table, 80 entries of 16 bytes, and PTAB_DONE (R224, R490). -/
def loadPrimes (s : State) (table : List Byte) : State :=
  let s1 := forRange 0 80 (fun k x =>
    loadPrime x k (leNat ((table.drop (16 * k)).take 8)) (leNat ((table.drop (16 * k + 8)).take 8))) s
  logEv (setB s1 rPtStat 7 true) 0x1051 0x05 (srcUnit 0 0) (regF s1 rPtStat 0 7 * 65536)

end Sys2Proof.Machine
end

