-- ==== Sys2Proof/Machine/KeySet.lean ====
section
/-! DEFINITION. Key sets and their registration (R246–R252, R278–R281). -/

namespace Sys2Proof.Machine
open Sys2Proof

/-- Field of `n` bytes at byte `o` of a byte list, as a number. -/
def le (b : List Byte) (o n : Nat) : Nat := leNat ((b.drop o).take n)

/-- A key-set header (R246). -/
structure KsHeader where
  entries : Nat
  pages : Nat
  log2n : Nat
  limbsMax : Nat
  special : Nat
  dnum : Nat
  pbase : Nat
deriving DecidableEq, Repr

/-- The header's fields from its first 128 bytes. -/
def ksHeader (b : List Byte) : KsHeader :=
  { entries := le b 6 2, pages := le b 8 4, log2n := le b 12 1, limbsMax := le b 13 1, special := le b 14 1,
    dnum := le b 15 1, pbase := le b 16 1 }

/-- α of R249. -/
def KsHeader.alpha (h : KsHeader) : Nat := ceilDiv h.limbsMax h.dnum

def KsHeader.n (h : KsHeader) : Nat := 2 ^ h.log2n

/-- A directory entry (R247, R278). -/
structure KsEntry where
  type : Nat
  b1 : Nat
  b2 : Nat
  b3 : Nat
  galois : Nat
  offset : Nat
  bytes : Nat
  stride : Nat
  b28 : Nat
  b30 : Nat
  seed : List Byte
deriving DecidableEq, Repr

/-- Entry bytes as fields. -/
def ksEntry (b : List Byte) : KsEntry :=
  { type := le b 0 1, b1 := le b 1 1, b2 := le b 2 1, b3 := le b 3 1, galois := le b 4 4, offset := le b 8 8,
    bytes := le b 16 8, stride := le b 24 4, b28 := le b 28 2, b30 := le b 30 2, seed := (b.drop 32).take 32 }

/-- Fields of the BOOT and LWE_SWITCH types (R278). -/
def KsEntry.prime (e : KsEntry) : Nat := e.b1 % 128
def KsEntry.primeIn (e : KsEntry) : Nat := e.b2 % 128
def KsEntry.ring (e : KsEntry) : Nat := e.b2 / 128
def KsEntry.levels (e : KsEntry) : Nat := e.b3 % 16
def KsEntry.baseLog (e : KsEntry) : Nat := e.b3 / 16
def KsEntry.dimOut (e : KsEntry) : Nat := e.b28 + 1
def KsEntry.dimIn (e : KsEntry) : Nat := e.b30 + 1

/-- The base address that a slot's registration names. -/
def ksetBase (s : State) (r k : Nat) : Nat := (reg s (rKsetBase r k)).toNat

/-- Every byte of [a, a + n) lies in tower `t`'s local part, through either address form (R30, R250). -/
def localTo (s : State) (t a n : Nat) : Bool :=
  let l := localGib s * gib
  (decide (localBase s t ≤ a) && decide (a + n ≤ localBase s t + l)) ||
  (decide (0xC000000000 + t * 0x800000000 ≤ a) && decide (a + n ≤ 0xC000000000 + t * 0x800000000 + l))

/-- The bytes of the header and directory. -/
def ksDir (s : State) (a n : Nat) : List KsEntry :=
  (List.range n).map (fun i => ksEntry (bytesAt s (a + 128 + 64 * i) 64))

/-- The least KEY_BYTES of an entry (R249, R279). -/
def minKeyBytes (h : KsHeader) (e : KsEntry) : Nat :=
  if e.type = 4 then 32 * e.stride * 2 * e.levels * e.b28
  else if e.type = 5 then
    (if e.ring = 0 then 32 * ceilDiv (e.dimIn * e.levels) 7 else 32 * e.stride * e.dimIn * e.levels)
  else 32 * e.stride * (h.limbsMax + h.special) * h.dnum

/-- The checks of R281 for types 4 and 5. -/
def schemeKeyOk (s : State) (h : KsHeader) (e : KsEntry) : Bool :=
  let common := e.levels != 0 && decide (e.baseLog * e.levels ≤ 36)
  if e.type = 4 then
    common && primeLoaded s e.prime && e.b1 < 128 && decide (10 ≤ e.b2) && decide (e.b2 ≤ 17) &&
      decide (1 ≤ e.b28) && decide (e.b28 ≤ 4096) && e.b30 == 0
  else if e.type = 5 then
    common && primeLoaded s e.prime && primeLoaded s e.primeIn && e.b1 < 128 &&
      (e.ring == 0 || (e.prime == h.pbase && e.b28 == 0))
  else e.b1 == 0 && e.b2 == 0 && e.b3 == 0 && e.b28 == 0 && e.b30 == 0

/-- GALOIS of types 1–3 (R247). -/
def galoisOk (h : KsHeader) (e : KsEntry) : Bool :=
  if e.type = 1 then e.galois == 1
  else if e.type = 2 then e.galois % 4 == 1 && decide (5 ≤ e.galois) && decide (e.galois < 2 * h.n)
  else if e.type = 3 then e.galois == 2 * h.n - 1
  else true

/-- One directory entry's checks (R250, R281). -/
def entryOk (s : State) (h : KsHeader) (e : KsEntry) : Bool :=
  decide (1 ≤ e.type) && decide (e.type ≤ 6) && galoisOk h e && e.offset % 4096 == 0 &&
  decide (ceilDiv h.n 7 ≤ e.stride) && decide (e.offset + e.bytes ≤ h.pages * 4096) &&
  decide (128 + 64 * h.entries ≤ e.offset) && decide (minKeyBytes h e ≤ e.bytes) && schemeKeyOk s h e

/-- Entries in strictly ascending order of (TYPE, GALOIS) (R247). -/
def ksSorted : List KsEntry → Bool
  | [] => true
  | [_] => true
  | a :: b :: t =>
    (decide (a.type < b.type) || (a.type == b.type && decide (a.galois < b.galois))) && ksSorted (b :: t)

/-- PARAM_HASH over the loaded table (R246). -/
def paramHash (s : State) (h : KsHeader) : List Byte :=
  shake256 ((List.range (h.limbsMax + h.special)).flatMap (fun i => leBytes 8 (primeQ s (h.pbase + i)))) 32

/-- The header's parameters are in range (R250). -/
def paramsOk (s : State) (h : KsHeader) (b : List Byte) : Bool :=
  decide (10 ≤ h.log2n) && decide (h.log2n ≤ 17) && decide (1 ≤ h.limbsMax) && decide (h.limbsMax ≤ 64) &&
  decide (1 ≤ h.special) && decide (h.special ≤ 16) && decide (1 ≤ h.dnum) && decide (h.dnum ≤ 16) &&
  decide (h.pbase ≤ 79) && decide (h.alpha ≤ h.special) && decide (h.pbase + h.limbsMax + h.special ≤ 80) &&
  (List.range (h.limbsMax + h.special)).all (fun i => primeLoaded s (h.pbase + i)) &&
  paramHash s h == (b.drop 24).take 32

/-- The header's own form (R246, R250). -/
def headerOk (b : List Byte) (h : KsHeader) : Bool :=
  le b 0 4 == 0x4B535A43 && le b 4 2 == 1 && le b 17 7 == 0 && le b 88 40 == 0 &&
  decide (1 ≤ h.entries) && decide (h.entries ≤ 1024) && decide (128 + 64 * h.entries ≤ h.pages * 4096)

/-- The checks of R250, in
order: 0, or the ERR code. -/
def ksetCheck (s : State) (r a : Nat) : Nat :=
  let b := bytesAt s a 128
  let h := ksHeader b
  if !localTo s r a (max 1 h.pages * 4096) then 1
  else if !headerOk b h then 2
  else if !paramsOk s h b then 3
  else if !(ksSorted (ksDir s a h.entries) && (ksDir s a h.entries).all (entryOk s h)) then 4
  else if poisonedSpan s a (128 + 64 * h.entries) then 5
  else 0

/-- The fingerprint (R248). -/
def fingerprint (s : State) (a n : Nat) : Nat := leNat (shake256 (bytesAt s a (128 + 64 * n)) 8)

/-- An event of a region's peristome network about a key-set slot. -/
def logKset (s : State) (code r k reason : Nat) : State :=
  logEv s code 6 (srcUnit r 0) (payDefault 0 reason (absReg (rKsetCtl r k)))

def ksetPending (s : State) (r k : Nat) : Bool := regB s (rKsetCtl r k) 3
def ksetValid (s : State) (r k : Nat) : Bool := regB s (rKsetCtl r k) 2

/-- KSETk_CTL.GO (R250). -/
def ksetGo (s : State) (r k : Nat) : State :=
  if ksetPending s r k || ksetValid s r k then logKset s 0x1062 r k 0 else setB s (rKsetCtl r k) 3 true

/-- The registration of a slot completes (R250). -/
def ksetDone (s : State) (r k : Nat) : State :=
  if !ksetPending s r k then s
  else
    let o := rKsetCtl r k
    let a := ksetBase s r k
    let h := ksHeader (bytesAt s a 128)
    let s1 := noteSpan s a (if localTo s r a 128 then 128 + 64 * min 1024 h.entries else 0)
    let err := ksetCheck s1 r a
    let s2 := setB s1 o 3 false
    if err ≠ 0 then logKset (setF s2 o 4 4 err) 0x1061 r k err
    else
      let s3 := setF (setF (setB s2 o 2 true) o 4 4 0) o 8 11 h.entries
      let s4 := setReg s3 (rKsetFp r k) (BitVec.ofNat 64 (fingerprint s3 a h.entries))
      logKset (setReg s4 (rKsetSize r k) (BitVec.ofNat 64 h.pages)) 0x1060 r k 0

/-- The slot of a frond that names a key set: slot 2 (R264, R289). -/
def namesKeySet (f : Frond) (base : Nat) : Bool :=
  let o := opcodeOf f
  f.live && !f.noWork && (o / 256 == 9 || o / 256 == 0xA) && !(slotOf f 2).empty &&
    ((slotOf f 2).wbase + (slotOf f 2).base) % 2 ^ 40 == base

/-- KSETk_CTL.CLEAR (R252). -/
def ksetClear (s : State) (r k : Nat) : State :=
  let o := rKsetCtl r k
  if s.fronds.any (fun f => f.region == r && namesKeySet f (ksetBase s r k)) then logKset s 0x1062 r k 0
  else setReg (setReg (setF (setF (setB (setB s o 2 false) o 3 false) o 4 4 0) o 8 11 0) (rKsetFp r k) 0) (rKsetSize r k) 0

/-- KSETk_BASE written (R252). -/
def wrKsetBase (s : State) (r k : Nat) (v : Word) : State :=
  if ksetPending s r k || ksetValid s r k then
    logEv s 0x1062 6 (srcUnit r 0) (payDefault 0 0 (absReg (rKsetBase r k)))
  else setF s (rKsetBase r k) 12 28 (fld v 12 28)

/-! ### The commands -/

/-- KSET_GO (R250). -/
def execKsetGo (m : Master) (r : Fin 8) (k : Fin 16) (s : State) : Answer :=
  effect s (gated s m (rKsetCtl r k) (fun x => ksetGo x r k))

/-- KSET_REGISTERED (R250, R281). -/
def execKsetRegistered (r : Fin 8) (k : Fin 16) (s : State) : Answer := effect s (ksetDone s r k)

/-- KSET_CLEAR (R252). -/
def execKsetClear (m : Master) (r : Fin 8) (k : Fin 16) (s : State) : Answer :=
  effect s (gated s m (rKsetCtl r k) (fun x => ksetClear x r k))

/-- KSET_BASE_WRITE (R252). -/
def execKsetBaseWrite (m : Master) (r : Fin 8) (k : Fin 16) (v : Word) (s : State) : Answer :=
  effect s (gated s m (rKsetBase r k) (fun x => wrKsetBase x r k v))

end Sys2Proof.Machine
end

