-- ==== Sys2Proof/Machine/MatRegs.lean ====
section
/-! DEFINITION. Writes of the mat's and the stream unit's configuration registers (R153–R160, R188). -/

namespace Sys2Proof.Machine
open Sys2Proof

/-- An event of a region's mat. -/
def logMat (s : State) (code r o : Nat) : State := logEv s code 2 (srcUnit r 0) (payDefault 0 0 (absReg o))

/-- The mat offsets [lo, hi) that a handoff or circular configuration word names (R156). -/
def cfgSpan (v : Word) : Nat × Nat :=
  let lo := fld v 12 13 * 4096
  (lo, lo + fld v 32 14 * 4096)

/-- The stored bits of a handoff configuration word, and of a circular one. -/
def hoffBits (v : Word) : Word := v &&& BitVec.ofNat 64 (3 + 0x1FFF000 + 0x3FFF <<< 32)
def circBits (v : Word) : Word := v &&& BitVec.ofNat 64 (1 + 0x1FFF000 + 0x3FFF <<< 32)

/-- The spans of the enabled handoff and circular regions of a mat, other than the register at `o`. -/
def otherSpans (s : State) (r o : Nat) : List (Nat × Nat) :=
  let regs := (List.range 16).map (fun h => rHoffCfg r h) ++ (List.range 4).map (fun k => rCircCfg r k)
  (regs.filter (fun x => x != o && regB s x 0)).map (fun x => cfgSpan (reg s x))

/-- A region may be enabled over a span (R154, R156). -/
def spanGood (s : State) (r o : Nat) (v : Word) : Bool :=
  let p := cfgSpan v
  decide (p.1 < p.2) && decide (p.2 ≤ 0x2000000) && (otherSpans s r o).all (fun q => !overlaps p q)

/-- An accepted frond addresses mat bytes [lo, hi) of region `r`. -/
def addressed (s : State) (r lo hi : Nat) : Bool :=
  let base := 0x8000000000 + r * 0x2000000
  s.fronds.any (fun f => f.live && !f.noWork && (List.range 4).any (fun i =>
    let d := slotOf f i
    !d.empty && (overlaps (absExtent s d (d.span (repeatOf f))) (base + lo, base + hi) ||
      (d.circ && decide (base + lo ≤ (d.wbase + d.base) % 2 ^ 40) && decide ((d.wbase + d.base) % 2 ^ 40 < base + hi)))))

/-- A change from `old` to `new` concerns a region that an accepted frond addresses. -/
def cfgBusy (s : State) (r : Nat) (old new : Word) : Bool :=
  old != new &&
  ((bitOf old 0 && addressed s r (cfgSpan old).1 (cfgSpan old).2) ||
   (bitOf new 0 && addressed s r (cfgSpan new).1 (cfgSpan new).2))

/-- The full lines once handoff region `h` goes from `old` to `new`: a region enabled anew takes INIT_FULL in every
line, and one that is disabled has none (R156). Lines that an enabled region takes in by a change of its span are in
no state that the manual gives: each is a free value (log entry 14). -/
def hoffLines (s : State) (r : Nat) (old new : Word) : State :=
  let l0 := r * 524288
  let po := cfgSpan old
  let pn := cfgSpan new
  let oin (l : Nat) : Bool := bitOf old 0 && decide (l0 + po.1 / 64 ≤ l) && decide (l < l0 + po.2 / 64)
  let nin (l : Nat) : Bool := bitOf new 0 && decide (l0 + pn.1 / 64 ≤ l) && decide (l < l0 + pn.2 / 64)
  let kept := s.full.filter (fun l => !oin l || (nin l && bitOf old 0))
  if bitOf new 0 && !bitOf old 0 then
    let lo := l0 + pn.1 / 64
    let n := (pn.2 - pn.1) / 64
    let below := kept.filter (fun l => decide (l < lo))
    let above := kept.filter (fun l => decide (lo + n ≤ l))
    let mid := if bitOf new 1 then (List.range n).map (fun i => lo + i) else []
    { s with full := below ++ mid ++ above }
  else if bitOf new 0 then
    forRange (l0 + pn.1 / 64) ((pn.2 - pn.1) / 64) (fun l x =>
      if oin l then x
      else
        let t := takeFree x
        if t.1 % 2 = 1 then { t.2 with full := sins t.2.full l } else t.2) { s with full := kept }
  else { s with full := kept }

/-- MAT.CTRL written (R153). -/
def wrMatMode (s : State) (r : Nat) (v : Word) : State :=
  if bitOf v 0 == regB s (rMat r 0) 0 then s
  else if decodedCount s r != 0 then logMat s 0x2012 r (rMat r 0)
  else setB s (rMat r 0) 0 (bitOf v 0)

/-- HOFFh_CFG written (R156). -/
def wrHoff (s : State) (r h : Nat) (v : Word) : State :=
  let o := rHoffCfg r h
  let old := reg s o
  let new := hoffBits v
  if cfgBusy s r old new then logMat s 0x2012 r o
  else if bitOf new 0 && !spanGood s r o new then logMat s 0x2011 r o
  else hoffLines (setReg s o new) r old new

/-- CIRCk_CFG written (R154, R156). -/
def wrCirc (s : State) (r k : Nat) (v : Word) : State :=
  let o := rCircCfg r k
  let old := reg s o
  let new := circBits v
  if cfgBusy s r old new then logMat s 0x2012 r o
  else if bitOf new 0 && !spanGood s r o new then logMat s 0x2011 r o
  else setReg s o new

/-- CIRCk_HEAD or CIRCk_TAIL written (R155). -/
def wrCircPtr (s : State) (m : Master) (r k : Nat) (tail : Bool) (v : Word) : State :=
  let o := if tail then rCircTail r k else rCircHead r k
  if regB s (rCircCfg r k) 0 then logMaster s 0x2003 m (absReg o) else setF s o 0 32 (fld v 0 32)

/-- A page leaves its class: a line whose old check fails is poisoned, and the others are encoded anew (R160). -/
def reencodeLine (s : State) (cls l : Nat) : State :=
  let a := 0x8000000000 + l * 64
  let up := aget s.upsets l
  let bad : Bool := match cls with
    | 0 => up == some .matMulti
    | 1 => up.isSome
    | _ => up.isSome || !sectorOk (sectorAt s a) || !sectorOk (sectorAt s (a + 32))
  let s1 := dropUpset s l
  if bad then poisonLine s1 l else s1

/-- PCLASSk written, page by page (R159, R160). -/
def wrPclass (s : State) (r k : Nat) (v : Word) : State :=
  let o := rPclass r k
  let s1 := if (List.range 32).any (fun j => fld v (2 * j) 2 == 3) then logMat s 0x2011 r o else s
  forRange 0 32 (fun j x =>
    let new := fld v (2 * j) 2
    let old := regF x o (2 * j) 2
    if new = 3 ∨ new = old then x
    else setF (forRange 0 1024 (fun i y => reencodeLine y old (r * 524288 + (32 * k + j) * 1024 + i)) x) o (2 * j) 2 new) s1

/-! ### Stream channels -/

/-- The module-wide sum of the enabled ALLOT of a class, in bytes per work beat (R188, R202). -/
def allotSum (s : State) (cls : Nat) : Nat :=
  forRange 0 8 (fun r a => forRange 0 32 (fun c b =>
    let v := reg s (rChcfg r c)
    if bitOf v 0 && fld v 1 2 == cls then b + 8 * fld v 8 8 else b) a) 0

/-- The caps of R192. -/
def allotCap (cls : Nat) : Nat :=
  if cls = 0 then 6880 else if cls = 1 then 3144 else if cls = 2 then 1568 else 3144

/-- Channel `c` of region `r` serves an accepted, unreleased frond. -/
def channelBusy (s : State) (r c : Nat) : Bool :=
  s.fronds.any (fun f => f.region == r && f.live && f.chans.any (fun p => p.2 == c))

/-- CHCFGc written (R188). -/
def wrChcfg (s : State) (r c : Nat) (v : Word) : State :=
  let o := rChcfg r c
  let log (code : Nat) : State := logEv s code 8 (srcUnit r 0) (payDefault 0 0 (absReg o))
  if channelBusy s r c then log 0x2041
  else
    let t := setReg s o (v &&& 0xFF07)
    if (List.range 4).any (fun k => decide (allotCap k < allotSum t k) && decide (allotSum s k < allotSum t k)) then log 0x2040
    else t

/-! ### The commands -/

/-- MAT_MODE_WRITE (R153). -/
def execMatModeWrite (m : Master) (r : Fin 8) (v : Word) (s : State) : Answer :=
  effect s (gated s m (rMat r 0) (fun x => wrMatMode x r v))

/-- HOFF_CFG_WRITE (R156). -/
def execHoffCfgWrite (m : Master) (r : Fin 8) (h : Fin 16) (v : Word) (s : State) : Answer :=
  effect s (gated s m (rHoffCfg r h) (fun x => wrHoff x r h v))

/-- CIRC_CFG_WRITE (R154, R156). -/
def execCircCfgWrite (m : Master) (r : Fin 8) (k : Fin 4) (v : Word) (s : State) : Answer :=
  effect s (gated s m (rCircCfg r k) (fun x => wrCirc x r k v))

/-- CIRC_POINTER_WRITE (R155). -/
def execCircPointerWrite (m : Master) (r : Fin 8) (k : Fin 4) (tail : Bool) (v : Word) (s : State) : Answer :=
  effect s (gated s m (if tail then rCircTail r k else rCircHead r k) (fun x => wrCircPtr x m r k tail v))

/-- PCLASS_WRITE (R159, R160). -/
def execPclassWrite (m : Master) (r : Fin 8) (k : Fin 16) (v : Word) (s : State) : Answer :=
  effect s (gated s m (rPclass r k) (fun x => wrPclass x r k v))

/-- CHCFG_WRITE (R188). -/
def execChcfgWrite (m : Master) (r : Fin 8) (c : Fin 32) (v : Word) (s : State) : Answer :=
  effect s (gated s m (rChcfg r c) (fun x => wrChcfg x r c v))

end Sys2Proof.Machine
end

