-- ==== Sys2Proof/Machine/Ed448.lean ====
section
/-! DEFINITION. Ed448 and X448 as RFC 8032 and RFC 7748 define them (R456, R468–R470). -/

namespace Sys2Proof.Machine
open Sys2Proof

/-- The field's prime (R456). -/
def fp : Nat := 2 ^ 448 - 2 ^ 224 - 1

/-- The order of the base point (R456). -/
def ordL : Nat := 2 ^ 446 - 13818066809895115352007386748515426880336692474882178609894547503885

def fadd (a b : Nat) : Nat := (a + b) % fp
def fsub (a b : Nat) : Nat := (a + fp - b % fp) % fp
def fmul (a b : Nat) : Nat := a * b % fp
def finv (a : Nat) : Nat := powMod 448 a (fp - 2) fp

/-- The curve constant d = −39081. -/
def edD : Nat := fp - 39081

/-- A point in projective coordinates. -/
structure EdPoint where
  x : Nat
  y : Nat
  z : Nat
deriving DecidableEq, Repr

def edZero : EdPoint := ⟨0, 1, 1⟩

/-- The base point. -/
def edBase : EdPoint :=
  ⟨224580040295924300187604334099896036246789641632564134246125461686950415467406032909029192869357953282578032075146446173674602635247710,
   298819210078481492676017930443930673437544040154080242095928241372331506189835876003536878655418784733982303233503462500531545062832660, 1⟩

/-- The complete addition law of x² + y² = 1 + d x² y². -/
def edAdd (p q : EdPoint) : EdPoint :=
  let a := fmul p.z q.z
  let b := fmul a a
  let c := fmul p.x q.x
  let d := fmul p.y q.y
  let e := fmul edD (fmul c d)
  let f := fsub b e
  let g := fadd b e
  let h := fmul (fadd p.x p.y) (fadd q.x q.y)
  ⟨fmul a (fmul f (fsub (fsub h c) d)), fmul a (fmul g (fsub d c)), fmul f g⟩

/-- `k` times a point; the first argument bounds the bits of `k`. -/
def edMul : Nat → Nat → EdPoint → EdPoint
  | 0, _, _ => edZero
  | n + 1, k, p =>
    let h := edMul n (k / 2) (edAdd p p)
    if k % 2 = 1 then edAdd h p else h

/-- The same point. -/
def edEq (p q : EdPoint) : Bool := fmul p.x q.z == fmul q.x p.z && fmul p.y q.z == fmul q.y p.z

/-- The 57 bytes of a point. -/
def edEncode (p : EdPoint) : List Byte :=
  let i := finv p.z
  leBytes 57 (fmul p.y i + (fmul p.x i % 2) * 2 ^ 455)

/-- What decoding a point finds (R466). -/
inductive EdDecoded where
  | ok (p : EdPoint)
  | noncanonical
  | offCurve
deriving DecidableEq, Repr

/-- A point from its 57 bytes (R466, R468). -/
def edDecode (b : List Byte) : EdDecoded :=
  let v := leNat b
  let y := v % 2 ^ 455
  let sign := v / 2 ^ 455
  if fp ≤ y then .noncanonical
  else
    let u := fsub (fmul y y) 1
    let w := fsub (fmul edD (fmul y y)) 1
    let x := fmul (fmul (fmul u (fmul u u)) w)
      (powMod 448 (fmul (fmul (fmul u u) (fmul (fmul u u) u)) (fmul w (fmul w w))) ((fp - 3) / 4) fp)
    if fmul w (fmul x x) != u then .offCurve
    else if x = 0 ∧ sign = 1 then .noncanonical
    else .ok ⟨if x % 2 = sign then x else (fp - x) % fp, y, 1⟩

/-- The order of a point divides 4 (R466). -/
def edLowOrder (p : EdPoint) : Bool := edEq (edMul 3 4 p) edZero

/-- The bytes of an ASCII string. -/
def ascii (x : String) : List Byte := x.toList.map (fun c => BitVec.ofNat 8 c.toNat)

/-- dom4 of RFC 8032 (R456). -/
def dom4 (ph : Bool) (ctx : List Byte) : List Byte :=
  ascii "SigEd448" ++ [BitVec.ofNat 8 (b2n ph), BitVec.ofNat 8 ctx.length] ++ ctx

/-- The message as it is signed: itself, or its 64-byte pre-hash. -/
def edMsg (ph : Bool) (m : List Byte) : List Byte := if ph then shake256 m 64 else m

/-- The clamped scalar and the prefix of a private key. -/
def edExpand (seed : List Byte) : Nat × List Byte :=
  let h := shake256 seed 114
  (leNat (h.take 56) / 4 * 4 % 2 ^ 447 + 2 ^ 447, h.drop 57)

/-- The public key of a private key. -/
def edPublic (seed : List Byte) : List Byte := edEncode (edMul 448 (edExpand seed).1 edBase)

/-- The hash of RFC 8032 as a scalar. -/
def edHash (ph : Bool) (ctx m : List Byte) : Nat := leNat (shake256 (dom4 ph ctx ++ m) 114) % ordL

/-- A signature. -/
def edSign (seed ctx m : List Byte) (ph : Bool) : List Byte :=
  let e := edExpand seed
  let pm := edMsg ph m
  let r := edHash ph ctx (e.2 ++ pm)
  let rb := edEncode (edMul 446 r edBase)
  let k := edHash ph ctx (rb ++ edPublic seed ++ pm)
  rb ++ leBytes 57 ((r + k * e.1) % ordL)

/-- The outcome of a verification as a status of R466. -/
def pointStatus (b : List Byte) : Nat :=
  match edDecode b with
  | .noncanonical => 0x10
  | .offCurve => 0x11
  | .ok p => if edLowOrder p then 0x12 else 0

/-- The point of bytes that decode. -/
def pointOf (b : List Byte) : EdPoint :=
  match edDecode b with
  | .ok p => p
  | _ => edZero

/-- The checks of R468 after the arguments, in order. -/
def edVerify (pub sig ctx m : List Byte) (ph : Bool) : Nat :=
  let rb := sig.take 57
  let sc := leNat (sig.drop 57)
  if pointStatus pub != 0 then pointStatus pub
  else if pointStatus rb != 0 then pointStatus rb
  else if ordL ≤ sc then 0x13
  else
    let k := edHash ph ctx (rb ++ pub ++ edMsg ph m)
    let l := edMul 3 4 (edMul 446 sc edBase)
    let r := edAdd (edMul 3 4 (pointOf rb)) (edMul 3 4 (edMul 446 k (pointOf pub)))
    if edEq l r then 0 else 1

/-! ### X448 -/

/-- The scalar of an X448 key, clamped (RFC 7748). -/
def xScalar (b : List Byte) : Nat := leNat (b.take 56) / 4 * 4 % 2 ^ 447 + 2 ^ 447

/-- The state of the Montgomery ladder. -/
structure Ladder where
  x2 : Nat
  z2 : Nat
  x3 : Nat
  z3 : Nat
deriving DecidableEq, Repr

/-- One step for a bit of the scalar. -/
def ladderStep (u : Nat) (bit : Bool) (l : Ladder) : Ladder :=
  let q : Ladder := if bit then ⟨l.x3, l.z3, l.x2, l.z2⟩ else l
  let a := fadd q.x2 q.z2
  let aa := fmul a a
  let b := fsub q.x2 q.z2
  let bb := fmul b b
  let e := fsub aa bb
  let da := fmul (fsub q.x3 q.z3) a
  let cb := fmul (fadd q.x3 q.z3) b
  let n : Ladder := ⟨fmul aa bb, fmul e (fadd aa (fmul 39081 e)), fmul (fadd da cb) (fadd da cb),
    fmul u (fmul (fsub da cb) (fsub da cb))⟩
  if bit then ⟨n.x3, n.z3, n.x2, n.z2⟩ else n

/-- Bits `n − 1` to 0 of the scalar. -/
def ladder (u k : Nat) : Nat → Ladder → Ladder
  | 0, l => l
  | n + 1, l => ladder u k n (ladderStep u (nbit k n) l)

/-- X448 of a scalar and a u-coordinate, as a number. -/
def x448 (k u : Nat) : Nat :=
  let l := ladder u k 448 ⟨1, 0, u, 1⟩
  fmul l.x2 (finv l.z2)

/-- The public key of an X448 key. -/
def xPublic (key : List Byte) : List Byte := leBytes 56 (x448 (xScalar key) 5)

/-- A u-coordinate below p lies on the curve, and not on its twist: u³ + 156326u² + u is a square (R469). -/
def xOnCurve (u : Nat) : Bool :=
  let w := fadd (fadd (fmul u (fmul u u)) (fmul 156326 (fmul u u))) u
  w == 0 || powMod 448 w ((fp - 1) / 2) fp == 1

end Sys2Proof.Machine
end

