-- ==== Sys2Proof/Machine/Rng.lean ====
section
/-! DEFINITION. The entropy source and the DRBG instances (R301–R305). -/

namespace Sys2Proof.Machine
open Sys2Proof

/-- An event of the entropy source and DRBGs. -/
def logRng (s : State) (code pay : Nat) : State := logEv s code 0x10 (srcUnit 0 0) pay

def rngHealthy (s : State) : Bool := regB s rRngStat 0 && !regB s rRngStat 1

/-- Counter beats in which the source conditions 64 B: 2,048 raw bits at 400 Mb/s (log entry 36). -/
def blockBeats : Nat := 6400

/-- The pool as it stands on the present beat: 64 B for each conditioned block since it was last looked at, at most
4,096 (R301). -/
def fillPool (s : State) : State :=
  if rngHealthy s then
    let n := (beat s - s.rng.since) / blockBeats
    let p := min 4096 (s.rng.pool + 64 * n)
    setF { s with rng := { s.rng with pool := p, since := s.rng.since + n * blockBeats } } rRngStat 16 13 p
  else s

/-- The beat moves on until the pool holds 64 B, where the source works. -/
def waitPool (s : State) : State :=
  let s1 := fillPool s
  if 64 ≤ s1.rng.pool || !rngHealthy s1 then s1 else fillPool (advanceTo s1 (s1.rng.since + blockBeats))

/-- 64 conditioned bytes leave the pool. -/
def takePool (s : State) : List Byte × State :=
  let d := s.rng.drawn
  ((List.range 64).map (fun i => Config.entropyByte (d + i)),
   setF { s with rng := { s.rng with pool := s.rng.pool - 64, drawn := d + 64 } } rRngStat 16 13 (s.rng.pool - 64))

def drbgOf (s : State) (i : Nat) : Drbg := s.rng.inst.getD i .reset

/-- An instance replaced; RNG_INSTn follows it. -/
def setDrbg (s : State) (i : Nat) (d : Drbg) : State :=
  setReg { s with rng := { s.rng with inst := s.rng.inst.set i d } } (rRngInst i)
    (BitVec.ofNat 64 (d.reqs + b2n d.seeded * 2 ^ 63))

/-- instantiate(id) (R301), with 64 B of the pool. -/
def instantiate (s : State) (i : Nat) : State :=
  let t := takePool s
  setDrbg t.2 i { key := shake256 ([0x01] ++ t.1 ++ [BitVec.ofNat 8 i]) 64, ctr := 0, reqs := 0, seeded := true }

/-- reseed() (R301). -/
def reseed (s : State) (i : Nat) : State :=
  let t := takePool s
  let d := drbgOf s i
  setDrbg (bump t.2 rRngReseed 1) i { d with key := shake256 ([0x04] ++ d.key ++ t.1) 64, reqs := 0 }

/-- An instance whose requests have reached 2^19 reseeds as soon as the pool holds 64 B (R302). -/
def reseedDue (s : State) (i : Nat) : State :=
  let s1 := fillPool s
  let d := drbgOf s1 i
  if d.seeded && 2 ^ 19 ≤ d.reqs && 64 ≤ s1.rng.pool then reseed s1 i else s1

/-- `k` blocks of generated bytes from counter `c` on. -/
def drbgBlocks (key : List Byte) : Nat → Nat → List Byte
  | 0, _ => []
  | k + 1, c => shake256 ([0x02] ++ key ++ leBytes 8 c) 136 ++ drbgBlocks key k (c + 1)

/-- How a request is served (R301, R303). -/
inductive Draw where
  | bytes (b : List Byte)
  | unseeded
  | exhausted
deriving DecidableEq, Repr

/-- generate(len), one request of at most 65,536 B (R301–R303). -/
def drbgRequest (s : State) (i len : Nat) : Draw × State :=
  let s1 := reseedDue (countNd s rNdDrbg 1) i
  let d := drbgOf s1 i
  if !d.seeded then (.unseeded, bump s1 rRngFault 1)
  else if 2 ^ 20 ≤ d.reqs then (.exhausted, bump s1 rRngFault 1)
  else
    let n := ceilDiv len 136
    let c := d.ctr + n
    let s2 := setDrbg s1 i { d with key := shake256 ([0x03] ++ d.key ++ leBytes 8 c) 64, ctr := c, reqs := d.reqs + 1 }
    (.bytes ((drbgBlocks d.key n d.ctr).take len), reseedDue s2 i)

/-- Requests of 65,536 B and a last shorter one, in turn (R299). The first argument bounds their number. -/
def drbgDraw (s : State) (i : Nat) : Nat → Nat → Draw × State
  | 0, _ => (.bytes [], s)
  | n + 1, len =>
    if len = 0 then (.bytes [], s)
    else
      let r := drbgRequest s i (min len 65536)
      match r.1 with
      | .bytes b =>
        let q := drbgDraw r.2 i n (len - min len 65536)
        (match q.1 with
         | .bytes c => (.bytes (b ++ c), q.2)
         | x => (x, q.2))
      | x => (x, r.2)

/-- The event and reason of a draw that failed. -/
def logDraw (s : State) (i : Nat) : Draw → State
  | .unseeded => logEv s 0x5024 0x10 (srcUnit i 0) (payDefault 0 0 (absReg (rRngInst i)))
  | .exhausted => logEv s 0x5023 0x10 (srcUnit i 0) (payDefault 0 0 (absReg (rRngInst i)))
  | .bytes _ => s

/-- Unseeded instances are instantiated and exhausted ones reseed, in index order, while the pool holds 64 B; with
`wait`, each as soon as it does (R302). -/
def seedAll (s : State) (wait : Bool) : State :=
  forRange 0 9 (fun i x =>
    let d := drbgOf x i
    if !d.seeded || 2 ^ 20 ≤ d.reqs then
      let y := if wait then waitPool x else fillPool x
      if rngHealthy y && 64 ≤ y.rng.pool then (if d.seeded then reseed y i else instantiate y i) else y
    else x) s

/-- The start-up test passes: normal service, with no failure in a row. -/
def sourceGood (s : State) : State :=
  let s1 := setF (setB (setB (setB s rRngStat 0 true) rRngStat 1 false) rRngStat 2 true) rRngStat 4 4 0
  { s1 with rng := { s1.rng with since := beat s1 } }

/-- A failure of a test: the raw bits in hand are discarded; three in a row latch the source (R303). -/
def sourceBad (s : State) : State :=
  let s0 := fillPool s
  let n := min 3 (regF s0 rRngStat 4 4 + 1)
  let s1 := setF (setB { s0 with rng := { s0.rng with since := beat s0 } } rRngStat 0 false) rRngStat 4 4 n
  if 3 ≤ n && !regB s1 rRngStat 1 then logRng (setB s1 rRngStat 1 true) 0x5022 (payDefault 0 0 0) else s1

/-- The start-up test with its results in turn, at most three (R303). -/
def startTest (s : State) : List Bool → State
  | [] => s
  | true :: _ => sourceGood s
  | false :: t => startTest (sourceBad s) t

/-- A continuous test fails, and the start-up test is run again (R303). -/
def healthFail (s : State) (apt rerun : Bool) : State :=
  if regB s rRngStat 1 then s
  else
    let s1 := bump s (if apt then rRngApt else rRngRct) 1
    let s2 := sourceBad (setB (logRng s1 0x5020 (payDefault 0 0 0)) rRngStat 3 true)
    if regB s2 rRngStat 1 then s2
    else if rerun then sourceGood (logRng s2 0x5021 (payDefault 0 0 0))
    else sourceBad s2

/-- A rerun passes: normal service (R303). -/
def recovered (s : State) : State :=
  if regB s rRngStat 1 || regB s rRngStat 0 then s else seedAll (sourceGood (logRng s 0x5021 (payDefault 0 0 0))) false

/-- RNG_CTRL.RETRY: the latch is cleared and the start-up test runs again (R302). -/
def rngRetry (s : State) (pass : Bool) : State :=
  if !regB s rRngStat 1 then s
  else
    let s1 := setF (setB s rRngStat 1 false) rRngStat 4 4 0
    if pass then seedAll (sourceGood s1) false else sourceBad s1

/-! ### The commands -/

/-- ENTROPY_HEALTH_FAIL (R303). -/
def execEntropyHealthFail (apt rerun : Bool) (s : State) : Answer := effect s (healthFail s apt rerun)

/-- ENTROPY_RECOVERED (R303). -/
def execEntropyRecovered (s : State) : Answer := effect s (recovered s)

/-- RNG_RETRY (R302). -/
def execRngRetry (m : Master) (pass : Bool) (s : State) : Answer := effect s (gated s m rRngCtrl (fun x => rngRetry x pass))

/-- DRBG_RESEED (R302). -/
def execDrbgReseed (i : Fin 9) (s : State) : Answer := effect s (reseedDue s i.val)

/-- INSTANTIATE_UNSEEDED (R302). -/
def execInstantiateUnseeded (s : State) : Answer := effect s (if rngHealthy s then seedAll s true else s)

end Sys2Proof.Machine
end

