-- ==== Sys2Proof/Machine/Pke.lean ====
section
/-! DEFINITION. The public-key engine and the key store (R464–R475). -/

namespace Sys2Proof.Machine
open Sys2Proof

/-- An event of the PKE and key store. -/
def logPke (s : State) (code pay : Nat) : State := logEv s code 0x0F (srcUnit 0 0) pay

def pkeBusy (s : State) : Bool := regB s rPkeStat 0

/-- Argument `j` of the command. -/
def pkeArg (s : State) (j : Nat) : Nat := (reg s (rPkeArg j)).toNat

/-- The address in argument `j`. -/
def pkeAddr (s : State) (j : Nat) : Nat := pkeArg s j % 2 ^ 40

def slotType (s : State) (k : Nat) : Nat := regF s (rKeySlot k) 0 2

/-- The private part of a slot. -/
def keyPart (s : State) (k : Nat) : KeyPart :=
  (s.sec.keys.find? (fun x => x.slot == k)).getD ⟨k, [], []⟩

/-- A slot filled: KEYS.SLOTk and KEY_SLOT_CHANGED (R464). -/
def fillSlot (s : State) (type origin : Nat) (part : KeyPart) : State :=
  let o := rKeySlot part.slot
  let len := if type = 3 then part.secret.length else 0
  let s1 := setReg s o (BitVec.ofNat 64 (type + origin * 4 + b2n (regB s o 4) * 16 + len * 256))
  logPke { s1 with sec := { s1.sec with keys := s1.sec.keys.filter (fun x => x.slot != part.slot) ++ [part] } }
    0x5034 (payDefault 0 0 (absReg o))

/-- A slot emptied. -/
def emptySlot (s : State) (k : Nat) : State :=
  if slotType s k = 0 then s
  else
    let s1 := setReg s (rKeySlot k) (BitVec.ofNat 64 (b2n (regB s (rKeySlot k) 4) * 16))
    logPke { s1 with sec := { s1.sec with keys := s1.sec.keys.filter (fun x => x.slot != k) } }
      0x5034 (payDefault 0 0 (absReg (rKeySlot k)))

/-! ### Operands -/

/-- Every byte of a span is mapped memory or a host window (R32, R466; log entry 40). -/
def spanOk (s : State) (a n : Nat) : Bool :=
  n == 0 || (extentMapped s a n && (match resolve s a with
    | .reg _ => false
    | .unmapped => false
    | _ => true))

/-- `n` free bytes. -/
def freeBytes (s : State) : Nat → List Byte × State
  | 0 => ([], s)
  | n + 1 =>
    let t := takeFree s
    let r := freeBytes t.2 n
    (BitVec.ofNat 8 t.1 :: r.1, r.2)

/-- A memory operand, read once in full (R465): its bytes, and whether one lies in a poisoned line or granule. -/
def pkeRead (s : State) (a n : Nat) : List Byte × Bool × State :=
  if windowOk s a then
    let s1 := noteSpan s a n
    (bytesAt s1 a n, poisonedSpan s1 a n, s1)
  else
    let t := freeBytes s n
    (t.1, false, t.2)

/-! ### Outcomes -/

/-- What a command will do at its end: its status, its outputs, the slots it fills (type, origin, part) or empties. -/
structure PkeResult where
  status : Nat
  out : List (Nat × List Byte)
  fill : List (Nat × Nat × KeyPart)
  empty : List Nat
deriving DecidableEq, Repr

def rejected (st : Nat) : PkeResult := ⟨st, [], [], []⟩

/-- The source slot's check: empty, or of another type than wanted (R466). -/
def slotCheck (s : State) (k want : Nat) : Nat :=
  if slotType s k = 0 then 0x20 else if slotType s k = want then 0 else 0x21

/-- The destination slot's check. -/
def destCheck (k : Nat) : Nat := if k < 2 then 0x22 else 0

/-- The first status that is not 0. -/
def firstStatus (l : List Nat) : Nat := (l.find? (· != 0)).getD 0

/-- The result under checks of arguments and slots, and then operands read in turn. -/
def withOperands (s : State) (pre : List Nat) (spans : List (Nat × Nat))
    (f : State → List (List Byte) → PkeResult × State) : PkeResult × State :=
  let st := firstStatus pre
  if st != 0 then (rejected st, s)
  else
    let r := spans.foldl (fun (a : List (List Byte) × Bool × State) (p : Nat × Nat) =>
      let x := pkeRead a.2.2 p.1 p.2
      (a.1 ++ [x.1], a.2.1 || x.2.1, x.2.2)) ([], false, s)
    if r.2.1 then (rejected 0x31, r.2.2) else f r.2.2 r.1

/-- BAD_ARG unless a condition holds. -/
def argOk (b : Bool) : Nat := if b then 0 else 0x30

def resultOut (a : Nat) (d : List Byte) : PkeResult := ⟨0, [(a, d)], [], []⟩

/-- Slot and second slot of PKE.CMD. -/
def cmdSlot (s : State) : Nat := regF s rPkeCmd 16 6
def cmdSlot2 (s : State) : Nat := regF s rPkeCmd 24 6

/-- SHAKE256. -/
def pkeShake (s : State) : PkeResult × State :=
  let n := pkeArg s 1
  let k := pkeArg s 3
  withOperands s
    [argOk (decide (n < 2 ^ 32) && decide (1 ≤ k) && decide (k ≤ 4096) && spanOk s (pkeAddr s 0) n && spanOk s (pkeAddr s 2) k)]
    [(pkeAddr s 0, n)] (fun t d => (resultOut (pkeAddr s 2) (shake256 (d.getD 0 []) k), t))

/-- ED448_VERIFY (R468). -/
def pkeVerify (s : State) : PkeResult × State :=
  let n := pkeArg s 3
  let c := pkeArg s 5
  withOperands s
    [argOk (decide (n < 2 ^ 32) && decide (c ≤ 255) && spanOk s (pkeAddr s 0) 57 && spanOk s (pkeAddr s 1) 114 &&
      spanOk s (pkeAddr s 2) n && spanOk s (pkeAddr s 4) c)]
    [(pkeAddr s 0, 57), (pkeAddr s 1, 114), (pkeAddr s 2, n), (pkeAddr s 4, c)]
    (fun t d => (rejected (edVerify (d.getD 0 []) (d.getD 1 []) (d.getD 3 []) (d.getD 2 []) false), t))

/-- ED448_SIGN in context CZ-SIGN (R465). The verification of R470 holds by construction; a failed one is a fault of
the arithmetic that the model does not have. -/
def pkeSign (s : State) : PkeResult × State :=
  let n := pkeArg s 3
  withOperands s
    [argOk (decide (n ≤ 2 ^ 24) && spanOk s (pkeAddr s 1) 114 && spanOk s (pkeAddr s 2) n), slotCheck s (cmdSlot s) 1]
    [(pkeAddr s 2, n)]
    (fun t d => (resultOut (pkeAddr s 1) (edSign (keyPart t (cmdSlot t)).secret (ascii "CZ-SIGN") (d.getD 0 []) false), t))

/-- X448 (R469). -/
def pkeX448 (s : State) : PkeResult × State :=
  withOperands s
    [argOk (spanOk s (pkeAddr s 0) 56), slotCheck s (cmdSlot s) 2, destCheck (cmdSlot2 s)]
    [(pkeAddr s 0, 56)]
    (fun t d =>
      let u := leNat (d.getD 0 [])
      if fp ≤ u then (rejected 0x10, t)
      else if !xOnCurve u then (rejected 0x11, t)
      else
        let r := x448 (xScalar (keyPart t (cmdSlot t)).secret) u
        if r = 0 then (rejected 0x02, t)
        else (⟨0, [], [(3, 3, ⟨cmdSlot2 t, leBytes 56 r, []⟩)], []⟩, t))

/-- KEYGEN from DRBG instance 8 (R465, R472). -/
def pkeKeygen (s : State) : PkeResult × State :=
  let ed := regF s rPkeCmd 8 2 == 1
  let n := if ed then 57 else 56
  withOperands s
    [argOk ((ed || regF s rPkeCmd 8 2 == 2) && spanOk s (pkeAddr s 0) n), destCheck (cmdSlot s)]
    []
    (fun t _ =>
      if regB t rRngStat 1 then (rejected 0x42, t)
      else
        let d := drbgRequest t 8 n
        match d.1 with
        | .bytes k =>
          let pub := if ed then edPublic k else xPublic k
          (⟨0, [(pkeAddr t 0, pub)], [(if ed then 1 else 2, 2, ⟨cmdSlot t, k, pub⟩)], []⟩, d.2)
        | x => (rejected 0x42, logDraw d.2 8 x))

/-- PUBKEY. -/
def pkePubkey (s : State) : PkeResult × State :=
  let ty := slotType s (cmdSlot s)
  let n := if ty = 1 then 57 else 56
  withOperands s
    [argOk (spanOk s (pkeAddr s 0) n), if ty = 0 then 0x20 else if ty = 3 then 0x21 else 0]
    [] (fun t _ => (resultOut (pkeAddr t 0) (keyPart t (cmdSlot t)).pub, t))

/-- KDF. -/
def pkeKdf (s : State) : PkeResult × State :=
  let n := pkeArg s 1
  withOperands s
    [argOk (decide (n ≤ 256) && spanOk s (pkeAddr s 0) n), slotCheck s (cmdSlot s) 3, destCheck (cmdSlot2 s)]
    [(pkeAddr s 0, n)]
    (fun t d =>
      (⟨0, [], [(3, 3, ⟨cmdSlot2 t, shake256 ([0x4B] ++ (keyPart t (cmdSlot t)).secret ++ d.getD 0 []) 64, []⟩)], []⟩, t))

/-- MAC. -/
def pkeMac (s : State) : PkeResult × State :=
  let n := pkeArg s 1
  withOperands s
    [argOk (spanOk s (pkeAddr s 0) n && spanOk s (pkeAddr s 2) 32), slotCheck s (cmdSlot s) 3]
    [(pkeAddr s 0, n)]
    (fun t d => (resultOut (pkeAddr t 2) (shake256 ([0x4D] ++ (keyPart t (cmdSlot t)).secret ++ d.getD 0 []) 32), t))

/-- CLEAR. -/
def pkeClear (s : State) : PkeResult × State :=
  withOperands s [destCheck (cmdSlot s)] [] (fun t _ => (⟨0, [], [], [cmdSlot t]⟩, t))

/-! ### Attestation (R473, R474) -/

/-- The registers of CONFIG_HASH, in order, as 64-bit values (R474). -/
def configWords (s : State) : List Nat :=
  [(reg s rMemcfg).toNat, regF s rPwrcap 0 16, (reg s rBeatCtrl).toNat, (reg s rHostAllow).toNat, (reg s rCoord).toNat,
   (reg s rTorus).toNat, (reg s rFailCtrl).toNat, (reg s rPartner).toNat, (reg s rFailIds).toNat, (reg s rEscCtrl).toNat] ++
  (List.range 160).map (fun i => (reg s (rPb 0 0 (0x400 + 8 * i))).toNat)

def configHash (s : State) : List Byte := shake256 ((configWords s).flatMap (leBytes 8)) 32

/-- The valid registrations, in order of region and then slot. -/
def validSets (s : State) : List (Nat × Nat) :=
  ((List.range 128).map (fun i => (i / 16, i % 16))).filter (fun p => regB s (rKsetCtl p.1 p.2) 2)

/-- Bytes padded with zeros, or cut, to `n`. -/
def padTo (n : Nat) (b : List Byte) : List Byte := (b ++ List.replicate n 0).take n

/-- Bytes 0–1407 of the report; every value as on the snapshot beat `b` (R473). -/
def reportBody (s : State) (nonce : List Byte) (b : Nat) : List Byte :=
  let v := validSets s
  leBytes 4 0x54415A43 ++ leBytes 2 1 ++ leBytes 2 v.length ++ leBytes 8 ((reg s rSysId).toNat % 2 ^ 32) ++
  padTo 32 nonce ++ leBytes 8 b ++ leBytes 8 0 ++ padTo 64 s.sec.imageDigest ++ padTo 64 s.sec.recordDigest ++
  configHash s ++ leBytes 8 (reg s rNdCount).toNat ++ leBytes 8 (reg s rMissCnt).toNat ++
  leBytes 4 (regF s rLogHead 0 32) ++ leBytes 4 (regF s rLogOver 0 32) ++ leBytes 8 (reg s rLossCnt).toNat ++
  padTo 64 (keyPart s 0).pub ++ padTo 1024 (v.flatMap (fun p => leBytes 8 (reg s (rKsetFp p.1 p.2)).toNat)) ++
  leBytes 16 (v.foldl (fun a p => a + 2 ^ (16 * p.1 + p.2)) 0) ++ leBytes 48 0

/-- ATTEST (R473). -/
def pkeAttest (s : State) : PkeResult × State :=
  withOperands s
    [argOk (spanOk s (pkeAddr s 0) 32 && spanOk s (pkeAddr s 1) 1536), slotCheck s 0 1]
    [(pkeAddr s 0, 32)]
    (fun t d =>
      let body := reportBody t (d.getD 0 []) (beat t + 1)
      (resultOut (pkeAddr t 1) (padTo 1536 (body ++ edSign (keyPart t 0).secret (ascii "CZ-ATTEST") body false)), t))

/-! ### Running a command -/

/-- PKE.CMD's fields as a write of `v` sets them, with the command code of the row. -/
def cmdWord (op : Nat) (v : Word) : Word := putFld (v &&& 0x3F3F03F0) 4 4 op

/-- The outcome of a command code. -/
def pkeCompute (s : State) (op : Nat) : PkeResult × State :=
  if op = 1 then pkeShake s else if op = 2 then pkeVerify s else if op = 3 then pkeSign s
  else if op = 4 then pkeX448 s else if op = 5 then pkeKeygen s else if op = 6 then pkePubkey s
  else if op = 7 then pkeKdf s else if op = 8 then pkeMac s else if op = 9 then pkeClear s
  else if op = 10 then pkeAttest s else (rejected 0x30, s)

/-- H(n) of R467. -/
def hashTime (n : Nat) : Nat := 26 * ceilDiv (n + 200) 136

/-- The run time of a command (R467): exact, or the most it takes. -/
def pkeTime (s : State) (op st : Nat) : Nat × Bool :=
  let sec := (keyPart s (cmdSlot s)).secret.length
  if op = 4 ∧ st = 0x10 then (200, false)
  else if op = 4 ∧ st = 0x11 then (60000, false)
  else if st = 0x42 ∨ (op = 4 ∧ (st = 0x20 ∨ st = 0x21 ∨ st = 0x22)) then (16, true)
  else if st = 0x20 ∨ st = 0x21 ∨ st = 0x22 ∨ st = 0x30 ∨ st = 0x31 then (2 ^ 32 - 1, false)
  else if op = 1 then (24 + 26 * (ceilDiv (pkeArg s 1 + 1) 136 + ceilDiv (pkeArg s 3) 136), true)
  else if op = 2 then (170000 + hashTime (pkeArg s 3), false)
  else if op = 3 then (260000 + 2 * hashTime (pkeArg s 3), true)
  else if op = 10 then (260000 + 2 * hashTime 1408, true)
  else if op = 4 then (118000, true)
  else if op = 5 then (if regF s rPkeCmd 8 2 = 1 then 140000 else 118000, true)
  else if op = 7 ∨ op = 8 then (24 + 26 * ceilDiv (sec + pkeArg s 1 + 2) 136, true)
  else (16, true)

/-- PKE.CMD written with GO (R465, R472): the operands are read, and the outcome waits for the command's end. -/
def pkeGo (s : State) (op : Nat) (v : Word) : State :=
  if pkeBusy s then logPke s 0x5032 (payDefault 0 0 (absReg rPkeCmd))
  else
    let s1 := setReg s rPkeCmd (cmdWord op v)
    let r := pkeCompute s1 op
    let s2 := setB r.2 rPkeStat 0 true
    { s2 with sec := { s2.sec with
        job := some (op, r.1.status), jobTime := pkeTime s1 op r.1.status, jobOut := r.1.out, jobKeys := r.1.fill.map (fun x => x.2.2),
        jobSlots := r.1.fill.map (fun x => (x.1, x.2.1)) ++ r.1.empty.map (fun k => (0, k)), started := beat s2 } }

/-- The slots that the running command fills or empties, on its final work beat (R464). -/
def settleSlots (s : State) (keys : List KeyPart) (how : List (Nat × Nat)) : State :=
  let s1 := (keys.zip how).foldl (fun x p => fillSlot x p.2.1 p.2.2 p.1) s
  (how.drop keys.length).foldl (fun x p => emptySlot x p.2) s1

/-- The outputs written to memory. -/
def settleOut (s : State) (outs : List (Nat × List Byte)) : State :=
  outs.foldl (fun x p => if windowOk x p.1 then externalWrite x p.1 p.2 else x) s

/-- The running command ends (R466, R467). -/
def pkeComplete (s : State) (beats : Nat) : State :=
  match s.sec.job with
  | none => s
  | some (op, st) =>
    let t := s.sec.jobTime
    let time := if t.2 then t.1 else min beats t.1
    let s1 := advanceTo s (s.sec.started + max beats (time + 2))
    let outs := s1.sec.jobOut
    let keys := s1.sec.jobKeys
    let how := s1.sec.jobSlots
    let s2 := { s1 with sec := { s1.sec with job := none, jobOut := [], jobKeys := [], jobSlots := [] } }
    let s3 := setF (setReg (bump s2 rPkeOpCnt 1) rPkeTime (BitVec.ofNat 64 (time % 2 ^ 32))) rPkeStat 8 8 st
    let s4 := if st = 0 then settleOut (settleSlots s3 keys how) outs
      else logPke (bump s3 rPkeRejCnt 1) 0x5030 (payDefault 0 st 0)
    let s5 := if st = 0 ∧ op = 10 then logPke s4 0x5033 (payDefault 0 0 (pkeAddr s4 1)) else s4
    let s6 := setB (setB s5 rPkeStat 0 false) rPkeStat 1 true
    raiseIrq s6 35

/-! ### The commands -/

/-- SHAKE256 (R465). -/
def execShake256 (m : Master) (v : Word) (s : State) : Answer := effect s (gated s m rPkeCmd (fun x => pkeGo x 1 v))

/-- ED448_VERIFY (R465, R468). -/
def execEd448Verify (m : Master) (v : Word) (s : State) : Answer := effect s (gated s m rPkeCmd (fun x => pkeGo x 2 v))

/-- ED448_SIGN (R465, R470). -/
def execEd448Sign (m : Master) (v : Word) (s : State) : Answer := effect s (gated s m rPkeCmd (fun x => pkeGo x 3 v))

/-- X448 (R465, R469). -/
def execX448 (m : Master) (v : Word) (s : State) : Answer := effect s (gated s m rPkeCmd (fun x => pkeGo x 4 v))

/-- KEYGEN (R465, R472). -/
def execKeygen (m : Master) (v : Word) (s : State) : Answer := effect s (gated s m rPkeCmd (fun x => pkeGo x 5 v))

/-- PUBKEY (R465). -/
def execPubkey (m : Master) (v : Word) (s : State) : Answer := effect s (gated s m rPkeCmd (fun x => pkeGo x 6 v))

/-- KDF (R465). -/
def execKdf (m : Master) (v : Word) (s : State) : Answer := effect s (gated s m rPkeCmd (fun x => pkeGo x 7 v))

/-- MAC (R465). -/
def execMac (m : Master) (v : Word) (s : State) : Answer := effect s (gated s m rPkeCmd (fun x => pkeGo x 8 v))

/-- CLEAR (R464, R465). -/
def execClear (m : Master) (v : Word) (s : State) : Answer := effect s (gated s m rPkeCmd (fun x => pkeGo x 9 v))

/-- ATTEST (R465, R473). -/
def execAttest (m : Master) (v : Word) (s : State) : Answer := effect s (gated s m rPkeCmd (fun x => pkeGo x 10 v))

/-- PKE_COMPLETE (R466, R467). -/
def execPkeComplete (beats : Word32) (s : State) : Answer := effect s (pkeComplete s beats.toNat)

end Sys2Proof.Machine
end

