-- ==== Sys2Proof/Machine/Sync.lean ====
section
/-! DEFINITION. The global beat: heartbeats and alignment (R59–R63, R392). -/

namespace Sys2Proof.Machine
open Sys2Proof

/-- The phase within a beat that a packet carries, in 1/64 bt: an analog reading, a free value (log entry 30). -/
def phaseNow (s : State) : BitVec 6 × State :=
  let t := takeFree s
  (BitVec.ofNat 6 t.1, t.2)

/-- A HEARTBEAT on every trained port, on the next multiple of 1,000 counter beats (R392). -/
def heartbeatSend (s : State) : State :=
  let s1 := advanceTo s ((beat s / 1000 + 1) * 1000)
  let ph := phaseNow s1
  let l := ownLogical s1
  sendAll ph.2 { hdr := newHdr 0x10 2 32 0 l 0 0
                 body := .heartbeat (BitVec.ofNat 64 (beat s1)) ph.1 (BitVec.ofNat 32 l) } none

/-- Logical hops from a coordinate to the time root at 0.0.0.0 (R61). -/
def rootDist (s : State) (c : Nat) : Nat :=
  (List.range 4).foldl (fun a x => a + min (dimOf c x) (torusK s x - dimOf c x)) 0

/-- Port `p` leads to the neighbour nearest the root, among the up ports that have heard a heartbeat; the lowest
port of those that are equally near. -/
def rootPort (s : State) : Option Nat :=
  let near (p : Nat) : Nat := rootDist s (linkPort s p).heardCoord
  (List.range 16).foldl (fun (a : Option Nat) p =>
    if portUp s p && (linkPort s p).heard.isSome then
      (match a with
       | none => some p
       | some b => if near p < near b then some p else a)
    else a) none

/-- ALIGNED set, unless a link partner's reference was off (R60). -/
def setAligned (s : State) : State := if s.pins.noAlign then s else setB s rBeatStat 5 true

/-- The error against the neighbour nearest the root, in 1/64 bt (R63). A module that has been aligned, and holds the
reference, is aligned again when the error is back within 1/16 bt. -/
def judgeError (s : State) (p : Nat) (err : Int) : State :=
  if 64 < err.natAbs then
    setB (setB (logCanary s 0x7005 (p / 8) (payDefault 0 0 0)) rBeatStat 7 true) rBeatStat 5 false
  else if 4 < err.natAbs then setB s rBeatStat 5 false
  else if regF s rBeatStat 8 8 ≠ 0 && regB s rBeatStat 4 then setAligned s
  else s

/-- A HEARTBEAT is taken (R63, R392). The root follows no neighbour. -/
def takeHeartbeat (p : Nat) (k : Packet) (err : Int) (s : State) : State :=
  match k.body with
  | .heartbeat _ _ c =>
    let s1 := setLinkPort s p { linkPort s p with heard := some (beat s), heardCoord := c.toNat }
    if ownLogical s1 != 0 && rootPort s1 == some p then judgeError s1 p err else s1
  | _ => s

/-- The dimensions and directions in which a module passes an ALIGN on: in the direction it came, and both ways in
every later dimension; the root sends both ways in every dimension (R61). -/
def alignOut (s : State) (from_ : Option Nat) : State :=
  let ph := phaseNow s
  let k : Packet :=
    { hdr := newHdr 0x11 2 32 0 (ownLogical s) 0 0
      body := .align (BitVec.ofNat 64 (beat s)) ph.1 (BitVec.ofNat 8 (regF s rBeatStat 8 8)) }
  forRange 0 8 (fun p x =>
    let goes := match from_ with
      | none => true
      | some q => decide (portDim q < portDim p) || (portDim p == portDim q && portNeg p != portNeg q)
    if goes then
      (if portUp x p then sendOn x p k else if portUp x (p + 8) then sendOn x (p + 8) k else x)
    else x) ph.2

/-- ALIGN is taken: BEAT.COUNT is the stamp and the one-way latency, ALIGNED is set, and the packet goes on (R61). -/
def takeAlign (p : Nat) (k : Packet) (s : State) : State :=
  match k.body with
  | .align stamp _ hops =>
    if regB s rBeatStat 5 || s.pins.noAlign then s
    else
      let s1 := setReg s rBeatCount (BitVec.ofNat 64 (stamp.toNat + linkLat s p))
      let s2 := setAligned (setF s1 rBeatStat 8 8 (hops.toNat + 1))
      alignOut s2 (some p)
  | _ => s

/-! ### The commands -/

/-- HEARTBEAT_SEND (R392). -/
def execHeartbeatSend (s : State) : Answer := effect s (heartbeatSend s)

/-- HEARTBEAT (R63, R392). -/
def execHeartbeat (p : Fin 16) (k : Packet) (err : Int) (s : State) : Answer :=
  ifOk s (packetOf 0x10 k) (receive s p k (takeHeartbeat p.val k err))

end Sys2Proof.Machine
end

