-- ==== Sys2Proof/Machine/Tower.lean ====
section
/-! DEFINITION. The memory towers' commands (R170–R179). -/

namespace Sys2Proof.Machine
open Sys2Proof

/-- An event of a tower's controller. -/
def logTow (s : State) (code t : Nat) : State := logEv s code 9 (srcUnit t 0) (payDefault 0 0 0)

/-- An event about a register of a tower's block. -/
def logTowReg (s : State) (code t o : Nat) : State := logEv s code 9 (srcUnit t 0) (payDefault 0 0 (absReg (rTow t o)))

/-- A request of a frond waits behind a refresh: the first of a repetition is covered by its allowance, unless every
bank is refreshed at once (R49, R56, R173, R174). -/
def meetRefresh (all : Bool) (f : Frond) : Frond :=
  { f with refreshes := f.refreshes + 1, causes := if all || 1 ≤ f.refreshes then f.causes ++ [1] else f.causes }

/-- A refresh of tower `t` falls due on beat `b` (R173, R174). -/
def refresh (s : State) (t : Nat) (b : Word) (hits : List FrondRef) : State :=
  let s1 := advanceTo s b.toNat
  let all := regF s1 (rTow t 0x10) 0 2 == 2
  hits.foldl (fun x h =>
    match findFrond x h with
    | some f => if f.phase == .working then putFrond (bump x (rTow t 0x18) 1) (meetRefresh all f) else x
    | none => x) s1

/-- The refresh rate set: a change is logged (R174, R179). -/
def setRate (s : State) (t : Nat) (twice : Bool) : State :=
  if regB s (rTow t 8) 2 == twice then s
  else
    let s1 := setF (setB s (rTow t 8) 2 twice) (rTow t 0x10) 16 16 (if twice then 2432 else 4864)
    logTow s1 0x2034 t

/-- The tower's temperature is sampled, every ms (R174). -/
def tempSample (s : State) (t : Nat) (temp : Nat) : State :=
  let s1 := setF s (rTow t 8) 8 8 temp
  if regF s1 (rTow t 0x10) 0 2 = 0 then
    (if 85 ≤ temp then setRate s1 t true else if temp < 80 then setRate s1 t false else s1)
  else s1

/-- TOWn.RFSH written (R174). AUTO keeps the rate in force until a sample changes it (DEDUCED, log entry 17). -/
def wrRfsh (s : State) (t : Nat) (v : Word) : State :=
  let k := fld v 0 2
  if k = 3 ∨ (k = 2 ∧ !allIdle s) then logTowReg s 0x2037 t 0x10
  else
    let s1 := setF s (rTow t 0x10) 0 2 k
    if k = 1 then setRate s1 t true else s1

/-- No stream channel of any region serves a frond. -/
def streamsIdle (s : State) : Bool := !s.fronds.any (fun f => f.live && !f.chans.isEmpty)

/-- A quiesce ends: accesses that it held are performed (R176). -/
def endQuiesce (s : State) (t : Nat) : State :=
  let s1 := setB (setB s (rTow t 0) 0 false) (rTow t 8) 1 false
  releaseAccesses { s1 with quiesced := s1.quiesced.filter (fun p => p.1 != t) }

/-- TOWn.CTRL written (R176). -/
def wrQuiesce (s : State) (t : Nat) (v : Word) : State :=
  let was := regB s (rTow t 0) 0
  if bitOf v 0 == was then s
  else if was then endQuiesce s t
  else if allIdle s && streamsIdle s then
    { setB s (rTow t 0) 0 true with quiesced := aset s.quiesced t (beat s) }
  else logTowReg s 0x2037 t 0

/-- The controller of a quiesced tower is idle (R176). -/
def towerIdle (s : State) (t : Nat) : State := if regB s (rTow t 0) 0 then setB s (rTow t 8) 1 true else s

/-- A quiesce has lasted 10 ms (R176). -/
def quiesceTimeout (s : State) (t : Nat) : State :=
  match aget s.quiesced t with
  | none => s
  | some b =>
    let s1 := logTow (advanceTo s (b + 12500000)) 0x2038 t
    let s2 := if regB s1 (rTow t 0x50) 3 then endAct (setB s1 (rTow t 0x50) 3 false) .margin t true else s1
    endQuiesce s2 t

/-- TOWn.MARGIN written: DONE is cleared with 1, KIND is stored, and GO starts a pass (R177–R179). -/
def wrMargin (s : State) (t : Nat) (v : Word) : State :=
  let o := rTow t 0x50
  let s1 := setF (if bitOf v 4 then setB s o 4 false else s) o 1 2 (fld v 1 2)
  if !bitOf v 0 then s1
  else if !regB s1 (rTow t 8) 1 || regB s1 o 3 then logTowReg s1 0x2037 t 0x50
  else requestAct s1 .margin t none

/-- MARGIN_GO writes MARGIN with GO = 1. -/
def withGo (v : Word) : Word := putBit v 0 true

/-- One MREC record after a pass of a kind: the margins that the kind measures, the temperature and VALID. -/
def marginWord (old : Word) (kind : Nat) (m : MarginRec) : Word :=
  let a := if kind = 0 ∨ kind = 3 then putFld (putFld old 0 6 m.rdLeft.toNat) 6 6 m.rdRight.toNat else old
  let b := if kind = 1 ∨ kind = 3 then putFld (putFld a 12 6 m.wrLeft.toNat) 18 6 m.wrRight.toNat else a
  let c := if kind = 2 ∨ kind = 3 then putFld (putFld b 24 8 m.vrefLo.toNat) 32 8 m.vrefHi.toNat else b
  putBit (putFld c 40 8 m.temp.toNat) 48 true

/-- A pseudo-channel lies below a limit of R178 in what a pass of a kind measures. -/
def belowLimit (kind : Nat) (m : MarginRec) : Bool :=
  ((kind == 0 || kind == 3) && (decide (m.rdLeft.toNat < 8) || decide (m.rdRight.toNat < 8))) ||
  ((kind == 1 || kind == 3) && (decide (m.wrLeft.toNat < 8) || decide (m.wrRight.toNat < 8))) ||
  ((kind == 2 || kind == 3) && (decide (m.vrefLo.toNat < 20) || decide (m.vrefHi.toNat < 20)))

/-- The least of a field over the pseudo-channels' records. -/
def leastField (s : State) (t lo n : Nat) : Nat :=
  forRange 0 64 (fun p a => min a (regF s (rTow t (0x100 + 8 * p)) lo n)) (2 ^ n - 1)

/-- MSUM from the records (R179). -/
def marginSum (s : State) (t : Nat) : Word :=
  let w := [(0, 6), (6, 6), (12, 6), (18, 6), (24, 8), (32, 8)].foldl
    (fun (x : Word) (p : Nat × Nat) => putFld x p.1 p.2 (leastField s t p.1 p.2)) 0
  putBit (putFld w 40 8 (forRange 0 64 (fun p a => max a (regF s (rTow t (0x100 + 8 * p)) 40 8)) 0)) 48 true

/-- A pass's measurements are recorded. -/
def recordMargins (s : State) (t kind : Nat) (rec : List MarginRec) : State :=
  let s1 := forRange 0 64 (fun p x =>
    match rec[p]? with
    | some m => setReg x (rTow t (0x100 + 8 * p)) (marginWord (reg x (rTow t (0x100 + 8 * p))) kind m)
    | none => x) s
  let s2 := setReg s1 (rTow t 0x58) (marginSum s1 t)
  if (rec.take 64).any (belowLimit kind) then logTow (setB s2 (rTow t 8) 3 true) 0x2035 t else s2

/-- A margining pass ends (R177, R178). -/
def marginDone (s : State) (t : Nat) (rec : List MarginRec) : State :=
  let o := rTow t 0x50
  if regB s o 3 then
    let s1 := recordMargins s t (regF s o 1 2) rec
    endAct (setB (setB s1 o 3 false) o 4 true) .margin t false
  else s

/-- TOWn.POISON_OP written (R170, R179): 1 query, 2 set, 3 clear. -/
def wrPoisonOp (s : State) (t g op : Nat) : State :=
  let o := rTow t 0x48
  let s1 := setF s o 0 24 g
  if op = 0 then s1
  else if granules ≤ g then setB s1 o 26 false
  else
    let key := t * 2 ^ 24 + g
    let s2 := if op = 2 then poisonGranule s1 key else if op = 3 then clearGranule s1 key else s1
    setB s2 o 26 (smem s2.towPoison key)

/-! ### The commands -/

/-- REFRESH (R173, R174). -/
def execRefresh (t : Fin 8) (b : Word) (hits : List FrondRef) (s : State) : Answer := effect s (refresh s t b hits)

/-- DRAM_TEMP_SAMPLE (R174). -/
def execDramTempSample (t : Fin 8) (temp : BitVec 8) (s : State) : Answer := effect s (tempSample s t temp.toNat)

/-- RFSH_MODE_WRITE (R174). -/
def execRfshModeWrite (m : Master) (t : Fin 8) (v : Word) (s : State) : Answer :=
  effect s (gated s m (rTow t 0x10) (fun x => wrRfsh x t v))

/-- QUIESCE_WRITE (R176). -/
def execQuiesceWrite (m : Master) (t : Fin 8) (v : Word) (s : State) : Answer :=
  effect s (gated s m (rTow t 0) (fun x => wrQuiesce x t v))

/-- TOWER_QUIESCED (R176). -/
def execTowerQuiesced (t : Fin 8) (s : State) : Answer := effect s (towerIdle s t)

/-- TOW_QUIESCE_TIMEOUT (R176). -/
def execTowQuiesceTimeout (t : Fin 8) (s : State) : Answer := effect s (quiesceTimeout s t)

/-- MARGIN_GO (R177, R178). -/
def execMarginGo (m : Master) (t : Fin 8) (v : Word) (s : State) : Answer :=
  effect s (gated s m (rTow t 0x50) (fun x => wrMargin x t (withGo v)))

/-- MARGIN_DONE (R177, R178). -/
def execMarginDone (t : Fin 8) (rec : List MarginRec) (s : State) : Answer := effect s (marginDone s t rec)

/-- POISON_OP_QUERY (R170, R179). -/
def execPoisonOpQuery (m : Master) (t : Fin 8) (g : BitVec 24) (s : State) : Answer :=
  effect s (gated s m (rTow t 0x48) (fun x => wrPoisonOp x t g.toNat 1))

/-- POISON_OP_SET (R170, R179). -/
def execPoisonOpSet (m : Master) (t : Fin 8) (g : BitVec 24) (s : State) : Answer :=
  effect s (gated s m (rTow t 0x48) (fun x => wrPoisonOp x t g.toNat 2))

/-- POISON_OP_CLEAR (R170, R179). -/
def execPoisonOpClear (m : Master) (t : Fin 8) (g : BitVec 24) (s : State) : Answer :=
  effect s (gated s m (rTow t 0x48) (fun x => wrPoisonOp x t g.toNat 3))

end Sys2Proof.Machine
end

