-- ==== Sys2Proof/Machine/RegWrite.lean ====
section
/-! DEFINITION. Register accesses by their address: what a read shows, what a write does to each register, and the
accesses of hosts and of the management core (R32–R36, R477–R480, and the register tables of every chapter). -/

namespace Sys2Proof.Machine
open Sys2Proof

/-! ### Reads -/

/-- BUSY of an engine: it serves an accepted, unreleased frond. -/
def engineBusy (s : State) (e : Nat) : Bool := s.fronds.any (fun f => f.live && f.engines.contains e)

/-- The frond that an engine serves: of those accepted and unreleased, the first not completed (DEDUCED, log entry 74). -/
def servedBy (s : State) (e : Nat) : Option Frond :=
  let here := s.fronds.filter (fun f => f.live && f.engines.contains e)
  let before (a : Option Frond) (f : Frond) : Option Frond := match a with
    | some g =>
      let x := if g.worked then 1 else 0
      let y := if f.worked then 1 else 0
      if y < x ∨ (y = x ∧ f.order < g.order) then some f else some g
    | none => some f
  here.foldl before none

/-- The STAT register of an engine: BUSY, and the OPCODE and SEQNO of the frond served or of the last one. -/
def engineStat (s : State) (o e : Nat) : Word :=
  match servedBy s e with
  | some f => putBit (statWord (reg s o) e f) 0 true
  | none => putBit (reg s o) 0 false

/-- SEQ.DECODE.PREFETCHING: fronds whose run-ahead has begun. -/
def prefetching (s : State) (r : Nat) : Nat :=
  (s.fronds.filter (fun f => f.region == r && f.phase == .decoded && !f.pre.isEmpty)).length

/-- Run-ahead entries held (R198). -/
def runAheadEntries (s : State) (r : Nat) : Nat :=
  (s.fronds.filter (fun f => f.region == r && !f.pre.isEmpty)).length

/-- STRM.ALLOT_SUM. -/
def allotSums (s : State) : Word :=
  BitVec.ofNat 64 (allotSum s 0 + allotSum s 1 <<< 16 + allotSum s 2 <<< 32 + allotSum s 3 <<< 48)

/-- The lines of handoff region `h` that are full, and whether an access is parked on it (R162's tables). -/
def hoffStat (s : State) (r h : Nat) : Word :=
  let v := reg s (rHoffCfg r h)
  let lo := r * 524288 + (cfgSpan v).1 / 64
  let hi := r * 524288 + (cfgSpan v).2 / 64
  let inside (l : Nat) : Bool := bitOf v 0 && decide (lo ≤ l) && decide (l < hi)
  let full := (s.full.filter inside).length
  let parked := (s.fronds.filter (fun f => match f.parked with
    | some p => p.circ.isNone && inside p.line
    | none => false)).length
  BitVec.ofNat 64 (full + (min 255 parked) <<< 20)

/-- What a read of the register at offset `o`, a multiple of 8, returns. -/
def readReg (s : State) (o : Nat) : Word :=
  match blkOf o with
  | none => 0
  | some b =>
    let k := o - blkBase b
    match b with
    | .sys => if o = rRngStat then reg (fillPool s) o else reg s o
    | .seq r => if k = 0x120 then BitVec.ofNat 64 (decodedCount s r + prefetching s r <<< 9) else reg s o
    | .mat r => if 0x200 ≤ k ∧ k < 0x300 ∧ k % 16 = 8 then hoffStat s r ((k - 0x208) / 16) else reg s o
    | .strm r =>
      if 0x100 ≤ k ∧ k < 0x200 then engineStat s o (r * 64 + 17 + (k - 0x100) / 8)
      else if k = 0x200 then allotSums s
      else if k = 0x210 then putFld (reg s o) 0 7 (runAheadEntries s r)
      else reg s o
    | .cpy r => if k = 0 then engineStat s o (r * 64 + 15) else reg s o
    | .peri r => if k = 0 then engineStat s o (r * 64 + 14) else reg s o
    | .mb r m => if k = 0 then engineStat s o (r * 64 + m) else reg s o
    | .vb r v => if k = 0 then engineStat s o (r * 64 + 6 + v) else reg s o
    | .pb r p =>
      if k = 0 then engineStat s o (r * 64 + 10 + p)
      else if k = 0x100 ∨ 0x400 ≤ k then reg s (rPb 0 0 k)
      else reg s o
    | .tow t => if k = 0xF0 then engineStat s o (t * 64 + 16) else reg s o
    | _ => reg s o

/-- An access has one of the two widths of R35 and its alignment. -/
def widthOk (o len : Nat) : Bool := (len == 8 && o % 8 == 0) || (len == 4 && o % 4 == 0)

/-- A register read by a master: the state after the events of R33 and R35, and the value. -/
def readAs (s : State) (m : Master) (o len : Nat) : State × Nat :=
  if !widthOk o len then (logMaster s 0x2002 m (absReg o), 0)
  else if (rowOf (o / 8 * 8)).isNone then (logMaster s 0x2001 m (absReg o), 0)
  else (s, nfld (readReg s (o / 8 * 8)).toNat (8 * (o % 8)) (8 * len))

/-! ### Writes -/

/-- A write as a register sees it: the bits written, and the register as it would stand, with W1C and W1S bits only
where they were written 1. -/
structure RegWr where
  written : Word
  merged : Word
  /-- The write covers bits 31:0. -/
  low : Bool

/-- A write of `len` bytes of value `v` at offset `o` (R35). -/
def regWr (s : State) (row : RegRow) (o len v : Nat) : RegWr :=
  let mask := fmask (8 * (o % 8)) (8 * len)
  let w := BitVec.ofNat 64 ((v % 2 ^ (8 * len)) <<< (8 * (o % 8)))
  let keep := reg s (o / 8 * 8) &&& ~~~ mask &&& ~~~ BitVec.ofNat 64 row.w1c &&& ~~~ BitVec.ofNat 64 row.w1s
  { written := w, merged := w ||| keep, low := o % 8 == 0 }

/-- The register after a write under its access codes. -/
def plainValue (row : RegRow) (old : Word) (x : RegWr) : Word :=
  let rw := BitVec.ofNat 64 row.rw
  ((old &&& ~~~ rw) ||| (x.merged &&& rw)) &&& ~~~ (x.written &&& BitVec.ofNat 64 row.w1c)
    ||| (x.written &&& BitVec.ofNat 64 row.w1s)

/-- A write with no behaviour of its own. -/
def plainWrite (s : State) (row : RegRow) (o : Nat) (x : RegWr) : State := setReg s o (plainValue row (reg s o) x)

/-- SYS. -/
def wrSys (s : State) (m : Master) (row : RegRow) (k : Nat) (x : RegWr) : State :=
  if k = 0x8 then wrMemcfg s m x.merged
  else if k = 0x10 then
    setF (setF s rStretch 0 6 (max 4 (fld x.merged 0 6))) rStretch 16 16 (max 1 (fld x.merged 16 16))
  else if k = 0x18 then wrCapW s (fld x.merged 0 16)
  else if k = 0x4000 then
    (if bitOf x.written 0 then
      let t := takeFree s
      rngRetry t.2 (t.1 % 2 == 1)
    else s)
  else plainWrite s row k x

/-- BEAT: the clearing bits of BEAT.CTRL act beside its stored fields. -/
def wrBeat (s : State) (row : RegRow) (o : Nat) (x : RegWr) : State :=
  let s1 := plainWrite s row o x
  if o = rBeatCtrl then
    let s2 := if bitOf x.written 8 then clearNd s1 else s1
    if bitOf x.written 9 then setReg s2 rMissCnt 0 else s2
  else s1

/-- LOG. -/
def wrLog (s : State) (row : RegRow) (o : Nat) (x : RegWr) : State :=
  if o = rLogTail then (if x.low then wrLogTail s x.merged else s)
  else if o = rLogRdSel then (if x.low then wrRdSel s x.merged else s)
  else if o = rDrainTail then (if x.low then wrDrainTail s x.merged else s)
  else plainWrite s row o x

/-- MAINT. -/
def wrMaint (s : State) (row : RegRow) (o : Nat) (x : RegWr) : State :=
  if o = rMaintReq then wrMaintReq s (fld x.written 0 4) (fld x.written 4 8)
  else if o = rEscCtrl then
    let s1 := plainWrite s row o x
    setF s1 o 8 4 (max 1 (regF s1 o 8 4))
  else plainWrite s row o x

/-- The registers that FAIL.CTRL.LOCK freezes besides CTRL's own fields (R426). -/
def failFrozen (o : Nat) : Bool := o == rPartner || o == rFailIds || decide (0x41000 ≤ o ∧ o < 0x45000)

/-- FAIL: under LOCK a write that would change a frozen field changes nothing and is logged. -/
def wrFail (s : State) (m : Master) (row : RegRow) (o : Nat) (x : RegWr) : State :=
  if o = rFailCtrl then wrFailCtrl s m x.merged
  else if failFrozen o && regB s rFailCtrl 63 then
    (if plainValue row (reg s o) x == reg s o then s else logMaster s 0x2003 m (absReg o))
  else plainWrite s row o x

/-- PKE (R472). -/
def wrPke (s : State) (row : RegRow) (o : Nat) (x : RegWr) : State :=
  if o = rPkeCmd then
    (if bitOf x.written 0 then pkeGo s (fld x.merged 4 4) x.merged else plainWrite s row o x)
  else if decide (rPkeArg 0 ≤ o) && decide (o ≤ rPkeArg 5) && pkeBusy s then logPke s 0x5032 (payDefault 0 0 (absReg o))
  else plainWrite s row o x

/-- MGMT. -/
def wrMgmt (s : State) (m : Master) (row : RegRow) (o : Nat) (x : RegWr) : State :=
  if o = rBootCfg then
    setReg s o (BitVec.ofNat 64 (max 1 (fld x.merged 0 16) + (max 1 (fld x.merged 16 16)) <<< 16))
  else if o = rWdt then
    let s1 := plainWrite s row o x
    if bitOf x.written 0 then { s1 with host := { s1.host with wdtKick := beat s1 } } else s1
  else if 0x70100 ≤ o ∧ o < 0x70200 then wrSem s m ((o - 0x70100) / 8) x.written
  else if o < 0x70200 then plainWrite s row o x
  else
    let d := (o - 0x70200) / 0x80
    if (o - 0x70200) % 0x80 = 0 then (if bitOf x.written 0 then wrMboxCtl s m d else s)
    else wrMboxData s m d (((o - 0x70200) % 0x80 - 8) / 8) x.merged

/-- NVCFG. -/
def wrNv (s : State) (m : Master) (row : RegRow) (o : Nat) (x : RegWr) : State :=
  if o = rNvCmd && bitOf x.written 0 then nvCommand s m (fld x.merged 1 3) (fld x.merged 16 9) else plainWrite s row o x

/-- A torus size as it is stored (R377). -/
def torusSize (n hi : Nat) : Nat := max 1 (min hi n)

/-- LINK0.TORUS: after LOCK only ADAPTIVE is stored (R377). -/
def wrTorus (s : State) (m : Master) (v : Word) : State :=
  let sizes := torusSize (fld v 0 5) 16 + (torusSize (fld v 5 5) 16) <<< 5 + (torusSize (fld v 10 4) 8) <<< 10 +
    (torusSize (fld v 14 4) 8) <<< 14
  let s1 := setB s rTorus 18 (bitOf v 18)
  if regB s rTorus 63 then (if sizes = regF s rTorus 0 18 then s1 else logMaster s1 0x2003 m (absReg rTorus))
  else
    let s2 := setF s1 rTorus 0 18 sizes
    if bitOf v 63 then setB s2 rTorus 63 true else s2

/-- LINKn, and the module-wide registers of LINK0. -/
def wrLink (s : State) (m : Master) (row : RegRow) (n o : Nat) (x : RegWr) : State :=
  if o = rLinkCtrl n then
    let s1 := if x.low && bitOf x.merged 0 != regB s o 0 then wrLinkEnable s n (bitOf x.merged 0) else s
    if bitOf x.written 1 then requestAct s1 .retrain n none else s1
  else if o = rCoord then
    (if regB s o 63 then logMaster s 0x2003 m (absReg o) else plainWrite s row o x)
  else if o = rTorus then wrTorus s m x.merged
  else if o = rRecvWd then setF s o 0 32 (max 1250 (fld x.merged 0 32))
  else if 0x109100 ≤ o then
    (let k := o - 0x109100
     wrGroup s (k / 16) (k % 16 == 8) x.merged)
  else if 0x108100 ≤ o ∧ o % 16 = 8 then wrAliasF s ((o - 0x108108) / 16) x.merged
  else plainWrite s row o x

/-- PCIEn. -/
def wrPcie (s : State) (row : RegRow) (n o : Nat) (x : RegWr) : State :=
  if o = rMwin n then maskMwin s n (x.merged &&& 0xFFFFFFFFFF).toNat else plainWrite s row o x

/-- TOWn. -/
def wrTow (s : State) (row : RegRow) (t k : Nat) (x : RegWr) : State :=
  if k = 0 then wrQuiesce s t x.merged
  else if k = 0x10 then (if x.low then wrRfsh s t x.merged else s)
  else if k = 0x48 then wrPoisonOp s t (fld x.merged 0 24) (fld x.written 24 2)
  else if k = 0x50 then wrMargin s t x.merged
  else plainWrite s row (rTow t k) x

/-- SEQ. -/
def wrSeq (s : State) (row : RegRow) (r k : Nat) (x : RegWr) : State :=
  let q := k / 8 % 4
  if k < 0x20 then wrQueueCfg s r q .qctrl x.merged
  else if k < 0x40 then wrQueueCfg s r q .qbase x.merged
  else if k < 0x60 then (if x.low then wrQtail s r q (fld x.merged 0 32) else s)
  else if 0x80 ≤ k ∧ k < 0xA0 then wrQueueCfg s r q .crbase x.merged
  else if 0xA0 ≤ k ∧ k < 0xC0 then wrQueueCfg s r q .crcfg x.merged
  else if 0xE0 ≤ k ∧ k < 0x100 then (if x.low then wrCrtail s r q (fld x.merged 0 32) else s)
  else if k = 0x100 then wrAbort s r (fld x.written 32 2) (fld x.written 0 32) (fld x.written 34 2)
  else if k = 0x108 then
    (if !x.low then s
     else if bitOf x.written 3 then wrResume s r (fld x.written 0 2)
     else wrPreempt s r (fld x.written 0 2) (fld x.written 2 1))
  else plainWrite s row (rSeq r k) x

/-- MAT. -/
def wrMat (s : State) (m : Master) (row : RegRow) (r k : Nat) (x : RegWr) : State :=
  if k = 0 then wrMatMode s r x.merged
  else if k = 8 then setF s (rMat r 8) 0 32 (max 1250 (fld x.merged 0 32))
  else if 0x200 ≤ k ∧ k < 0x300 ∧ k % 16 = 0 then wrHoff s r ((k - 0x200) / 16) x.merged
  else if 0x300 ≤ k ∧ k < 0x380 then
    (let c := (k - 0x300) / 32
     if k % 32 = 0 then wrCirc s r c x.merged else if x.low then wrCircPtr s m r c (k % 32 == 16) x.merged else s)
  else if 0x400 ≤ k then wrPclass s r ((k - 0x400) / 8) x.merged
  else plainWrite s row (rMat r k) x

/-- PERI: CLEAR and GO written together clear and then register (DESIGN CHOICE, log entry 49). -/
def wrPeri (s : State) (row : RegRow) (r k : Nat) (x : RegWr) : State :=
  let i := (k - 0x100) / 32
  if 0x100 ≤ k ∧ k % 32 = 0 then
    let s1 := if bitOf x.written 1 then ksetClear s r i else s
    if bitOf x.written 0 then ksetGo s1 r i else s1
  else if 0x100 ≤ k ∧ k % 32 = 8 then wrKsetBase s r i x.merged
  else plainWrite s row (rPeri r k) x

/-- A write of the register at offset `o`, a multiple of 8. -/
def writeReg (s : State) (m : Master) (row : RegRow) (b : Blk) (o : Nat) (x : RegWr) : State :=
  let k := o - blkBase b
  match b with
  | .sys => wrSys s m row k x
  | .beat => wrBeat s row o x
  | .log => wrLog s row o x
  | .maint => wrMaint s row o x
  | .fail => wrFail s m row o x
  | .pke => wrPke s row o x
  | .mgmt => wrMgmt s m row o x
  | .nvcfg => wrNv s m row o x
  | .link n => wrLink s m row n o x
  | .pcie n => wrPcie s row n o x
  | .tow t => wrTow s row t k x
  | .seq r => wrSeq s row r k x
  | .mat r => wrMat s m row r k x
  | .strm r => if k < 0x100 then wrChcfg s r (k / 8) x.merged else plainWrite s row o x
  | .peri r => wrPeri s row r k x
  | .keys => plainWrite s row o x
  | .cpy _ => plainWrite s row o x
  | .mb _ _ => plainWrite s row o x
  | .vb _ _ => plainWrite s row o x
  | .pb _ _ => plainWrite s row o x
  | .hole => s

/-- A register write by a master at offset `o` of the register range (R32, R33, R35). -/
def writeAs (s : State) (m : Master) (o len v : Nat) : State :=
  if !widthOk o len then logMaster s 0x2002 m (absReg o)
  else
    match blkOf o, rowOf (o / 8 * 8) with
    | some b, some row => writeReg s m row b (o / 8 * 8) (regWr s row o len v)
    | _, _ => logMaster s 0x2001 m (absReg o)

/-! ### Host accesses (R477–R480) -/

/-- The register reads that the register BAR serves before READY (R479). -/
def earlyReadable (o : Nat) : Bool :=
  match blkOf o with
  | some .sys => true
  | some .log => true
  | some .keys => true
  | some .mgmt => true
  | some (.pcie _) => true
  | _ => false

/-- A host read at a device address: a register, memory, or nothing (R32, R35, R176, R479). -/
def hostRead (s : State) (p : Fin 2) (bar : Bar) (a n : Nat) : State :=
  match resolve s a with
  | .reg o =>
    if isReady s || earlyReadable o then
      let t := readAs s (.pcie p) o n
      emit t.1 (.cpl p.val (leBytes n t.2) false)
    else emit s (.cpl p.val (List.replicate n 0) false)
  | _ =>
    if bar == .register && !isReady s then emit s (.cpl p.val (List.replicate n 0) false)
    else if quiescedFor s a n then hold s (.hostBarRead p bar a n)
    else hostMemRead s p.val a n

/-- A host write at a device address. -/
def hostWrite (s : State) (p : Fin 2) (bar : Bar) (a : Nat) (d : List Byte) : State :=
  match resolve s a with
  | .reg o => gated s (.pcie p) o (fun x => writeAs x (.pcie p) o d.length (leNat d))
  | _ =>
    if bar == .register && !isReady s then logMaster s 0x8003 (.pcie p) a
    else if quiescedFor s a d.length then hold s (.hostBarWrite p bar a d)
    else hostMemWrite s p.val a d

/-- The register of a doorbell (R480): QTAILq or CRTAILq of region r. -/
def doorbellReg (o : Nat) : Option Nat :=
  let i := o % 0x100 / 8
  if o < 0x100 then some (rQtail (i / 4) (i % 4))
  else if o < 0x200 then some (rCrtail (i / 4) (i % 4))
  else none

/-- The pending-bit array of a port. -/
def pbaWord (s : State) (p : Nat) : Nat :=
  forRange 0 32 (fun v a => if smem s.host.msixPending (p * 32 + v) then a + 2 ^ v else a) 0

/-- Eight bytes of the doorbell BAR outside the doorbells. -/
def doorbellWord (s : State) (p o : Nat) : Nat :=
  if 0x800 ≤ o ∧ o < 0xA00 then (msixWord s (p * 64 + (o - 0x800) / 8)).toNat
  else if 0xC00 ≤ o ∧ o < 0xC08 then pbaWord s p
  else 0

/-- A read of the doorbell BAR (R480). -/
def doorbellRead (s : State) (p : Fin 2) (o n : Nat) : State :=
  match doorbellReg o with
  | some r => hostRead s p .doorbell (absReg (r + o % 8)) n
  | none =>
    if widthOk o n then
      emit s (.cpl p.val (leBytes n (nfld (doorbellWord s p.val (o / 8 * 8)) (8 * (o % 8)) (8 * n))) false)
    else emit s (.cpl p.val (List.replicate n 0) false)

/-- A write of the doorbell BAR: a doorbell acts as its register's write, and is dropped before READY; the MSI-X table
belongs to the port (R479–R481). -/
def doorbellWrite (s : State) (p : Fin 2) (o : Nat) (d : List Byte) : State :=
  match doorbellReg o with
  | some r => if isReady s then hostWrite s p .doorbell (absReg (r + o % 8)) d else s
  | none =>
    if 0x800 ≤ o ∧ o < 0xA00 ∧ widthOk o d.length = true then
      let k := p.val * 64 + (o - 0x800) / 8
      let v := putFld (msixWord s k) (8 * (o % 8)) (8 * d.length) (leNat d)
      sendPending { s with host := { s.host with
        msixTable := mset (fun i => if i % 2 = 1 then (0x100000000 : Word) else 0) s.host.msixTable k v } } p.val
    else s

/-- A read through a BAR; an offset past the BAR reaches no port, and neither does an access while the port is down. -/
def barRead (s : State) (p : Fin 2) (bar : Bar) (o n : Nat) : State :=
  if !regB s (rPcieStat p.val) 0 then s
  else
    match bar with
    | .register => if o + n ≤ 2 ^ 28 then hostRead s p .register (0x9000000000 + o) n else s
    | .memory =>
      if 2 ^ (portOf s p.val).barLog2 < o + n then s
      else if isReady s then hostRead s p .memory ((reg s (rMwin p.val)).toNat + o) n
      else emit s (.unsupported p.val)
    | .doorbell => if o + n ≤ 0x1000 then doorbellRead s p o n else s

/-- A write through a BAR. -/
def barWrite (s : State) (p : Fin 2) (bar : Bar) (o : Nat) (d : List Byte) : State :=
  if !regB s (rPcieStat p.val) 0 then s
  else
    match bar with
    | .register => if o + d.length ≤ 2 ^ 28 then hostWrite s p .register (0x9000000000 + o) d else s
    | .memory =>
      if 2 ^ (portOf s p.val).barLog2 < o + d.length then s
      else if isReady s then hostWrite s p .memory ((reg s (rMwin p.val)).toNat + o) d
      else s
    | .doorbell => if o + d.length ≤ 0x1000 then doorbellWrite s p o d else s

/-! ### The management core (R32, R487) -/

/-- A load or store of the management core. -/
def mgmtAccess (s : State) (wr : Bool) (a : BitVec 40) (d : List Byte) (n : Nat) : State :=
  match resolve s a.toNat with
  | .reg o =>
    if wr then emit (writeAs s .mgmt o d.length (leNat d)) (.mgmt [] false)
    else
      let t := readAs s .mgmt o n
      emit t.1 (.mgmt (leBytes n t.2) false)
  | _ =>
    if quiescedFor s a.toNat (if wr then d.length else n) then hold s (.mgmtCoreAccess wr a d n)
    else mgmtMem s wr a.toNat d n

/-- An address of the register range (R29). -/
def inRegRange (a : Nat) : Bool := decide (0x9000000000 ≤ a) && decide (a < 0x9010000000)

/-! ### The commands -/

/-- HOST_BAR_READ (R32, R161, R171, R477–R480). -/
def execHostBarRead (p : Fin 2) (bar : Bar) (o len : Nat) (s : State) : Answer := ifOk s (accessOk len) (barRead s p bar o len)

/-- HOST_BAR_WRITE (R32, R477–R480). -/
def execHostBarWrite (p : Fin 2) (bar : Bar) (o : Nat) (data : List Byte) (s : State) : Answer :=
  ifOk s (accessOk data.length) (barWrite s p bar o data)

/-- MGMT_CORE_ACCESS (R32, R161, R171). -/
def execMgmtCoreAccess (wr : Bool) (a : BitVec 40) (data : List Byte) (len : Nat) (s : State) : Answer :=
  ifOk s (if wr then accessOk data.length else accessOk len) (mgmtAccess s wr a data len)

/-- REGISTER_WRITE (R9, R33, R35, R36, R38). -/
def execRegisterWrite (m : Master) (a : BitVec 40) (len : Nat) (v : Word) (s : State) : Answer :=
  ifOk s (accessOk len && inRegRange a.toNat)
    (gated s m (a.toNat - 0x9000000000) (fun x => writeAs x m (a.toNat - 0x9000000000) len v.toNat))

end Sys2Proof.Machine
end

