-- ==== Sys2Proof/Machine/Access.lean ====
section
/-! DEFINITION. How a frond's engines reach memory, one progress unit at a time: stream elements, handoff and circular
lines, translations, the checks on read, and the bookkeeping of writes (R80, R91, R104, R143–R158, R159–R171,
R180–R184, R209, R482, R483). -/

namespace Sys2Proof.Machine
open Sys2Proof

/-- RES36 elements that wait to be written in one sector (R104): the stream, the sector's address, its bits, and which
fields are set. -/
structure SecBuf where
  id : Nat
  addr : Nat
  bits : Nat
  mask : Nat

/-- A progress unit in hand: the state as the unit leaves it, and the state as it stands if the unit has to wait. -/
structure Run where
  st : State
  /-- The state at the unit's start, with the effects of the lines granted since and of the requests sent. -/
  base : State
  fr : Frond
  /-- Grants of an earlier try of the unit that have not been met again. -/
  todo : List Grant
  /-- The line in hand of each handoff or circular stream. -/
  hand : List Grant
  /-- The sector last checked, by stream. -/
  seen : List (Nat × Nat)
  bufs : List SecBuf
  /-- The unit waits. -/
  blocked : Bool
  /-- The unit ends the frond, with this status. -/
  stop : Option Status

/-- The unit goes on. -/
def Run.ok (r : Run) : Bool := !r.blocked && r.stop.isNone

/-- The unit ends the frond. -/
def Run.halt (r : Run) (x : Status) : Run := if r.ok then { r with stop := some x } else r

/-- A change of the state that stands even if the unit has to wait. -/
def Run.both (r : Run) (f : State → State) : Run := { r with st := f r.st, base := f r.base }

/-- A change of the state. -/
def Run.up (r : Run) (f : State → State) : Run := if r.ok then { r with st := f r.st } else r

/-- Flags of R123 raised. -/
def Run.flag (r : Run) (m : Nat) : Run := if r.ok then { r with fr := { r.fr with aflags := r.fr.aflags ||| m } } else r

/-- The frond reads something poisoned (R91). -/
def Run.taint (r : Run) (b : Bool) : Run := if b then { r with fr := { r.fr with poisoned := true } } else r

/-- A choice of the unit's result when it goes on. -/
def Run.when (r : Run) (b : Bool) (f : Run → Run) : Run := if b then f r else r

/-! ### Handoff and circular lines (R154–R158) -/

/-- A line of the region's own mat lies in an enabled handoff region (R156). An access from elsewhere comes through the
external port, which neither waits nor changes a bit (R150, R157). -/
def inHandoff (s : State) (r o : Nat) : Bool :=
  (List.range 16).any (fun h =>
    let v := reg s (rHoffCfg r h)
    bitOf v 0 && decide ((cfgSpan v).1 ≤ o) && decide (o < (cfgSpan v).2))

/-- The enabled circular region of the frond's own mat whose BASE is a slot's base (R154). -/
def circOf (s : State) (r : Nat) (d : Slot) : Option Nat :=
  (List.range 4).find? (fun k =>
    let v := reg s (rCircCfg r k)
    bitOf v 0 && 0x8000000000 + r * 0x2000000 + (cfgSpan v).1 == (d.wbase + d.base) % 2 ^ 40)

/-- The device address of a mat line. -/
def lineAddr (l : Nat) : Nat := 0x8000000000 + l * 64

/-- The unit waits for a line: the access is parked (R157, R158). -/
def Run.park (r : Run) (id line : Nat) (write : Bool) (circ : Option Nat) : Run :=
  { r with blocked := true
           fr := { r.fr with parked := some { slot := id, line := line, write := write, circ := circ, since := beat r.st } } }

/-- A granted line is in hand. -/
def Run.take (r : Run) (g : Grant) : Run :=
  { r with hand := g :: r.hand.filter (fun x => !(x.slot == g.slot && x.write == g.write)) }

/-- The effect of a grant on a handoff line: a read empties it, a write fills it. -/
def swapLine (line : Nat) (write : Bool) (s : State) : State :=
  { s with full := if write then sins s.full line else sdel s.full line }

/-- A live frond has written a line that a later read finds damaged: it is replayable (R159). -/
def producerOf (s : State) (a : Nat) : Bool :=
  match resolve s a with
  | .mat r o => s.fronds.any (fun g => g.live && g.wroteLines.contains (lineOf r o))
  | _ => false

/-- The replayable producer of a line recomputes it (R159). -/
def recomputeLine (s : State) (a : Nat) : State :=
  match resolve s a with
  | .mat r o =>
    if (aget s.upsets (lineOf r o)).isSome && pclass s r o != 0 then
      { s with fronds := s.fronds.map (fun g =>
          if g.live && g.wroteLines.contains (lineOf r o) then { g with recomputed := true } else g) }
    else s
  | _ => s

/-- The checks of a read of the 32 bytes at `a`, and whether they are poisoned. -/
def checkRead (s : State) (a : Nat) (res : Bool) : State × Bool :=
  let p := producerOf s a
  let s0 := if p then recomputeLine s a else s
  let s1 := noteRead s0 a res p
  (s1, poisonedAt s1 a)

/-- A line is granted: its data are delivered with the checks of a read (R149, R157, R159). -/
def grantLine (s : State) (line : Nat) (write res : Bool) : State × Bool :=
  if write then (s, false)
  else
    let a := checkRead s (lineAddr line) res
    let b := checkRead a.1 (lineAddr line + 32) res
    (b.1, a.2 || b.2)

/-- A new line of a handoff region is asked for. -/
def Run.openLine (r : Run) (id line : Nat) (write res : Bool) : Run :=
  if r.hand.any (fun g => g.slot == id && g.line == line && g.write == write && g.seq == 0) then r
  else
    match r.todo.find? (fun g => g.slot == id && g.line == line && g.write == write && g.seq == 0) with
    | some g => { r.take g with todo := r.todo.erase g }
    | none =>
      if smem r.st.full line == write then r.park id line write none
      else
        let c := grantLine r.st line write res
        let g : Grant := { slot := id, seq := 0, line := line, write := write,
                           data := if write then [] else bytesAt c.1 (lineAddr line) 64 }
        let r1 := ({ r with st := c.1, fr := { r.fr with grants := r.fr.grants ++ [g] } }.both (swapLine line write)).take g
        r1.taint c.2

/-- Lines of a circular region, as its configuration word gives them. -/
def circLines (v : Word) : Nat := fld v 32 14 * 64

/-- Circular region `k` has a line for a write or a read (R154). -/
def circReady (s : State) (rg k : Nat) (write : Bool) : Bool :=
  let head := regF s (rCircHead rg k) 0 32
  let tail := regF s (rCircTail rg k) 0 32
  if write then countGap head tail != circLines (reg s (rCircCfg rg k)) else tail != head

/-- The line that the next write or read of a circular region addresses. -/
def circNext (s : State) (rg k : Nat) (write : Bool) : Nat :=
  let v := reg s (rCircCfg rg k)
  let n := if write then regF s (rCircTail rg k) 0 32 else regF s (rCircHead rg k) 0 32
  rg * 524288 + (cfgSpan v).1 / 64 + n % circLines v

/-- The pointer moves on with a grant. -/
def circMove (rg k : Nat) (write : Bool) (s : State) : State :=
  let o := if write then rCircTail rg k else rCircHead rg k
  setF s o 0 32 (countAdd (regF s o 0 32) 1)

/-- The `n`-th line of a circular stream is asked for. -/
def Run.openCirc (r : Run) (id k n : Nat) (write res : Bool) : Run :=
  let mine (g : Grant) : Bool := g.slot == id && g.write == write && g.seq == n + 1
  if r.hand.any mine then r
  else
    match r.todo.find? mine with
    | some g => { r.take g with todo := r.todo.erase g }
    | none =>
      let rg := r.fr.region
      let line := circNext r.st rg k write
      if !circReady r.st rg k write then r.park id line write (some k)
      else
        let c := grantLine r.st line write res
        let g : Grant := { slot := id, seq := n + 1, line := line, write := write,
                           data := if write then [] else bytesAt c.1 (lineAddr line) 64 }
        let r1 := ({ r with st := c.1, fr := { r.fr with grants := r.fr.grants ++ [g] } }.both (circMove rg k write)).take g
        r1.taint c.2

/-! ### Host windows (R482, R483, R486) -/

/-- An access to a port's window: it ends the frond where the window cannot be used, and waits where the translation
is not cached. -/
def Run.window (r : Run) (p o : Nat) : Run :=
  if !hostUsable r.st p then r.halt .hostFault
  else
    let u := ((reg r.st (rHwin p)).toNat + o) % 2 ^ 64
    if atcHit r.st p u then r
    else
      let asked := r.st.host.pages.any (fun x => x.port == p && x.page == pageOf u)
      let r1 := if asked then r else r.both (fun s => emit (bump s (rAtcMiss p) 1) (.atsReq p (pageOf u)))
      { r1 with blocked := true, fr := { r1.fr with page := some (p, pageOf u) } }

/-! ### Reads at a device address -/

/-- A stream `id` reads `n` bytes at `a`, which lie in one 32-byte sector: waits, translations and checks. -/
def Run.touchRead (r : Run) (id a : Nat) (res : Bool) : Run :=
  if !r.ok then r
  else
    match resolve r.st a with
    | .host p o => r.window p o
    | .mat rg o =>
      if rg = r.fr.region ∧ inHandoff r.st rg o = true then r.openLine id (lineOf rg o) false res
      else if aget r.seen id = some (a / 32) then r
      else
        let c := checkRead r.st a res
        { r with st := c.1, seen := aset r.seen id (a / 32) }.taint c.2
    | .hbm _ =>
      if aget r.seen id = some (a / 32) then r
      else
        let c := checkRead r.st a res
        { r with st := c.1, seen := aset r.seen id (a / 32) }.taint c.2
    | _ => r

/-- The line in hand of a stream that holds an address. -/
def Run.inHand (r : Run) (id a : Nat) (write : Bool) : Option Grant :=
  r.hand.find? (fun g => g.slot == id && g.write == write && lineAddr g.line ≤ a && a < lineAddr g.line + 64)

/-- The `n` bytes at `a` as the stream sees them: the delivered data of a line in hand, otherwise memory. -/
def Run.fetch (r : Run) (id a n : Nat) : Nat :=
  match r.inHand id a false with
  | some g => leNat ((g.data.drop (a - lineAddr g.line)).take n)
  | none => natAt r.st a n

/-- A register is read or written by a stream: a 32-bit access for an aligned 4-byte element (R35, R434). -/
def Run.regRead (r : Run) (o n : Nat) : Nat × Run :=
  let t := readAs r.st (.strm (Fin.ofNat 8 r.fr.region)) o n
  (t.2, { r with st := t.1 })

/-- `n` bytes at device address `a`, within one sector, read as RES36 data if `res`. -/
def Run.rdBytes (r : Run) (id a n : Nat) (res : Bool) : Nat × Run :=
  if !r.ok then (0, r)
  else
    match resolve r.st a with
    | .reg o => r.regRead o n
    | _ =>
      let r1 := r.touchRead id a res
      if r1.ok then (r1.fetch id a n, r1) else (0, r1)

/-! ### Writes at a device address -/

/-- The first write to a cold tensor is held until the symbiont knows of it (R403). -/
def coldHeld (s : State) (a : Nat) : Bool :=
  s.fail.dirtyWait.any (fun p => decide ((ptSpan s p.1).1 ≤ a) && decide (a < (ptSpan s p.1).2))

/-- The waits of a write to `a` by stream `id`. -/
def Run.touchWrite (r : Run) (id a : Nat) : Run :=
  if !r.ok then r
  else
    match resolve r.st a with
    | .host p o => r.window p o
    | .mat rg o =>
      if rg = r.fr.region ∧ inHandoff r.st rg o = true then r.openLine id (lineOf rg o) true false else r
    | .hbm h =>
      if coldHeld r.st h then { r with blocked := true, fr := { r.fr with causes := r.fr.causes ++ [9] } } else r
    | _ => r

/-- What a frond has written, for the poison rules of R91. -/
def noteWrote (s : State) (f : Frond) (a : Nat) : Frond :=
  match resolve s a with
  | .mat rg o => { f with wroteLines := sins f.wroteLines (lineOf rg o) }
  | .hbm h => { f with wroteGrans := sins f.wroteGrans (granuleOf s h) }
  | _ => f

/-- A stored error is gone once its whole word is written: `whole a n` says that the stream writes all of [a, a + n).
A merge into a sector with an uncorrectable error leaves the sector unchanged (R151, R169). -/
def settleUpset (s : State) (a : Nat) (whole : Nat → Nat → Bool) : State × Bool :=
  match resolve s a with
  | .mat rg o =>
    if (aget s.upsets (lineOf rg o)).isSome && whole (a / 64 * 64) 64 then (dropUpset s (lineOf rg o), true) else (s, true)
  | .hbm h =>
    (match aget s.upsets (sectorKey s h) with
     | none => (s, true)
     | some u =>
       if whole (a / 32 * 32) 32 then (dropUpset s (sectorKey s h), true)
       else if u = .dramUncorrectable then (readHbm s h false, false)
       else (s, true))
  | _ => (s, true)

/-! ### Checks on arrival (R159, R168, R201) -/

/-- A write is done once more: the producer recomputes the unit, or the stream resends the sector. The first recompute of a
repetition is covered where the frond's engines have cells, and a resend never is (R49, R201). -/
def Run.redo (r : Run) : Run :=
  let f := r.fr
  let covered := f.engines.any hasCells && !replayedInRep f
  { r with st := countNd r.st rNdRetry 1,
           fr := { f with recomputed := true, replays := f.replays ++ [(f.region * 64 + 63, 0xF, unitNo f)],
                          causes := if covered then f.causes else f.causes ++ [2] } }

/-- A checked write of the word `key`, which `count` counts as detected, may arrive damaged: it is done once more, and a
second failure is FAULT (R159). -/
def Run.meetArrival (r : Run) (key : Nat) (count : State → State) : Run :=
  match aget r.st.upsets (2 ^ 48 + key) with
  | some .arrivalOnce => Run.redo { r with st := count (dropUpset r.st (2 ^ 48 + key)) }
  | some .arrivalTwice => (Run.redo { r with st := count (count (dropUpset r.st (2 ^ 48 + key))) }).halt .fault
  | _ => r

/-- The check on arrival of a write at `a`: pages of class A and K in a mat, RES36 streams at a tower. -/
def Run.arrives (r : Run) (a : Nat) (res : Bool) : Run :=
  if !r.ok then r
  else
    match resolve r.st a with
    | .mat rg o => if pclass r.st rg o = 0 then r else r.meetArrival (lineOf rg o) (fun s => matArrival s rg o)
    | .hbm h => if res then r.meetArrival (sectorKey r.st h) (fun s => towArrival s h) else r
    | _ => r

/-- Bytes stored by stream `id` at `a`, within one sector. -/
def Run.wrBytes (r : Run) (id a : Nat) (d : List Byte) (whole : Nat → Nat → Bool) : Run :=
  if !r.ok then r
  else
    match resolve r.st a with
    | .reg o => { r with st := writeAs r.st (.strm (Fin.ofNat 8 r.fr.region)) o d.length (leNat d) }
    | _ =>
      let r1 := (r.touchWrite id a).arrives a false
      if !r1.ok then r1
      else
        let u := settleUpset r1.st a whole
        let r2 := { r1 with st := if u.2 then putBytes u.1 a d else u.1, fr := noteWrote r1.st r1.fr a }
        if (r2.inHand id a true).isSome then { r2 with base := putBytes r2.base a d } else r2

/-! ### Stream elements (R181, R182, R209) -/

/-- Elements of a format in one 64-byte line of a circular stream. -/
def perLine (fmt : Nat) : Nat := if fmt = 0x10 then 14 else 512 / fmtBits fmt

/-- Where element `e` of a slot lies: the address of its storage unit and its place in it. A circular slot's line is
asked for. -/
def Run.place (r : Run) (d : Slot) (e : Nat) (write : Bool) : (Nat × Nat) × Run :=
  if d.circ then
    let n := e / perLine d.fmt
    let i := e % perLine d.fmt
    match circOf r.st r.fr.region d with
    | none => ((0, 0), r)
    | some k =>
      let r1 := if r.ok then r.openCirc d.no k n write (d.fmt == 0x10) else r
      (match r1.hand.find? (fun g => g.slot == d.no && g.write == write && g.seq == n + 1) with
       | some g => ((lineAddr g.line + i / fmtPack d.fmt * fmtUnit d.fmt, i % fmtPack d.fmt), r1)
       | none => ((0, 0), r1))
  else
    let p := d.pos r.fr.rep e
    ((d.addr p, d.within p), r)

/-- A clamped access (R209, R220). -/
def Run.clamp (r : Run) (d : Slot) (e : Nat) : Run :=
  if r.ok && d.clamps e then
    { r with fr := { r.fr with clamped := true },
             st := if r.fr.engines.contains (r.fr.region * 64 + 15) then bump r.st (rCpy r.fr.region 8) 1 else r.st }
  else r

/-- The bits of an element in its storage unit. -/
def unitBits (fmt w v : Nat) : Nat :=
  if fmt = 0x10 then secField v w else if fmt = 0xC then nfld v (4 * w) 4 else if fmt = 0x18 then nfld v w 1 else v

/-- The bits that run-ahead has fetched for an element (R198). -/
def preOf (f : Frond) (d : Slot) (e : Nat) : Option PreElem :=
  if f.rep = 0 then f.pre.find? (fun x => x.slot == d.no && x.elem == e) else none

/-- Element `e` of a slot, as raw bits. -/
def Run.rd (r : Run) (d : Slot) (e : Nat) : Nat × Run :=
  if !r.ok then (0, r)
  else
    match preOf r.fr d e with
    | some x => (x.bits, (r.clamp d e).taint x.poison)
    | none =>
      let p := r.place d e false
      let v := p.2.rdBytes d.no p.1.1 (fmtUnit d.fmt) (d.fmt == 0x10)
      (unitBits d.fmt p.1.2 v.1, v.2.clamp d e)

/-- A destination slot writes every byte of [a, a + n): it is a run that covers them. -/
def Slot.covers (d : Slot) (rep a n : Nat) : Bool :=
  let x := d.extentRep rep
  let lo := (d.wbase + x.1.toNat) % 2 ^ 40
  d.isRun && decide (lo ≤ a) && decide (a + n ≤ lo + (x.2 - x.1).toNat)

/-- A RES36 sector leaves its buffer: fields from the first on make a whole sector, its unused fields 0; other sets of
fields are merged, which fails where the stored check does (R167, R169). -/
def Run.flushBuf (r : Run) (b : SecBuf) : Run :=
  if !r.ok then r
  else
    let dense := [1, 3, 7, 15, 31, 63, 127].contains b.mask
    let old := natAt r.st b.addr 32
    let keep := forRange 0 7 (fun j a => if nbit b.mask j then a else a + (secField old j) <<< (36 * j)) 0
    let v := withCheck (if dense then b.bits else b.bits + keep)
    match resolve r.st b.addr with
    | .hbm h =>
      let c := if dense then (r.st, true) else (readHbm r.st h true, sectorOk old && aget r.st.upsets (sectorKey r.st h) != some .dramUncorrectable)
      if c.2 then (Run.arrives { r with st := c.1 } b.addr true).wrBytes b.id b.addr (leBytes 32 v) (fun _ _ => true)
      else
        let r1 := r.touchWrite b.id b.addr
        if r1.ok then { r1 with st := c.1 } else r1
    | _ => r.wrBytes b.id b.addr (leBytes 32 v) (fun _ n => n == 32)

/-- Every buffered sector of a stream, or of all streams, is written. -/
def Run.flush (r : Run) (keep : SecBuf → Bool) : Run :=
  let go := r.bufs.filter (fun b => !keep b)
  { go.foldl (fun x b => x.flushBuf b) r with bufs := r.bufs.filter keep }

/-- A RES36 element is put into its sector's buffer. -/
def Run.wrRes (r : Run) (id a w v : Nat) : Run :=
  let r1 := if r.bufs.any (fun b => b.id == id && b.addr != a) then r.flush (fun b => !(b.id == id && b.addr != a)) else r
  match r1.bufs.find? (fun b => b.id == id) with
  | some b =>
    let nb : SecBuf := { b with bits := b.bits - (secField b.bits w) <<< (36 * w) + (v % 2 ^ 36) <<< (36 * w),
                                mask := b.mask ||| 2 ^ w }
    { r1 with bufs := r1.bufs.map (fun x => if x.id == id then nb else x) }
  | none => { r1 with bufs := r1.bufs ++ [{ id := id, addr := a, bits := (v % 2 ^ 36) <<< (36 * w), mask := 2 ^ w }] }

/-- Raw bits `v` are written in the storage unit at an address, in its place `w`. `last` says that the unit's further
places are cleared, as after the last element of a dense operand (R103). -/
def Run.wrPlace (r : Run) (d : Slot) (a w v : Nat) (last : Bool) : Run :=
  if !r.ok then r
  else if d.fmt = 0x10 then
    -- the waits of the sector come before its fields are buffered
    (let r2 := r.touchWrite d.no a
     if r2.ok then r2.wrRes d.no a w v else r2)
  else
    let whole := fun x n => !d.circ && d.covers r.fr.rep x n
    if fmtBits d.fmt < 8 then
      let k := fmtBits d.fmt
      let old := natAt r.st a 1
      let low := nfld old 0 (k * w) + (v % 2 ^ k) <<< (k * w)
      let b := if last then low else low + (old >>> (k * (w + 1))) <<< (k * (w + 1))
      r.wrBytes d.no a [BitVec.ofNat 8 b] whole
    else r.wrBytes d.no a (leBytes (fmtUnit d.fmt) v) whole

/-- Element `e` of a slot is written with raw bits `v`. -/
def Run.wr (r : Run) (d : Slot) (e v : Nat) : Run :=
  if !r.ok then r
  else
    let p := r.place d e true
    (p.2.clamp d e).wrPlace d p.1.1 p.1.2 v (e + 1 == d.elems && d.dense)

/-! ### Progress units (R88, R93) -/

/-- A frond's work so far as it counts when the unit has to wait: what was granted stays granted. -/
def waitFrond (f0 f1 : Frond) : Frond :=
  { f0 with grants := f1.grants, parked := f1.parked, page := f1.page, causes := f1.causes, poisoned := f1.poisoned,
            tested := f1.tested, sent := f1.sent, clamped := f0.clamped || (f1.sent != 0 && f1.clamped), buf := if f1.sent = 0 then f0.buf else f1.buf,
            work := if f1.sent = 0 then f0.work else f1.work,
            wroteLines := (f1.grants.filter (·.write)).foldl (fun a g => sins a g.line) f0.wroteLines }

/-- A finished unit: the next one, the next repetition, or the end of the work. -/
def nextUnit (f : Frond) (hand : List Grant) : Frond :=
  let g := { f with grants := [], lines := hand, parked := none, page := none, sent := 0 }
  if f.unit + 1 < f.units then { g with unit := f.unit + 1 }
  else if f.rep < repeatOf f then { g with unit := 0, rep := f.rep + 1, refreshes := 0, bridges := 0, pre := [], work := [], buf := [], lines := [] }
  else { g with unit := 0, rep := f.rep + 1, worked := true, pre := [] }

/-- An abort that waited for the end of a round or a unit group takes effect. -/
def endAbort (s : State) (f : Frond) : Frond :=
  if f.abort && !midSpan f then { f with phase := .finished, ended := beat s } else f

/-- An execution-time check that fails is logged as the skip it is (R89, R90). -/
def logSkip (s : State) (f : Frond) (x : Status) : State :=
  if x.isSkip then logFrond s f 0x1001 (payDefault (opcodeOf f) (statusCode x) 0) else s

/-- A unit that ends the frond: what it has written stays. -/
def haltFrond (s : State) (f : Frond) (x : Status) : State := stopFrond (logSkip (putFrond s f) f x) f x

/-- The outcome of a unit. A stream that writes registers may have stopped its own frond meanwhile. -/
def Run.close (r0 : Run) (f : Frond) : State :=
  let r := r0.flush (fun _ => false)
  if r.blocked then putFrond r.base (waitFrond f r.fr)
  else
    match r.stop with
    | some x => haltFrond r.st r.fr x
    | none =>
      match r.st.fronds.find? (fun g => g.is f.region f.queue f.idx) with
      | some g =>
        if g.phase == .working then
          putFrond r.st (endAbort r.st (nextUnit { r.fr with abort := g.abort, late := g.late, held := g.held, recomputed := r.fr.recomputed || g.recomputed } r.hand))
        else r.st
      | none => r.st

/-- One progress unit of a frond. -/
def runUnit (body : Run → Run) (s : State) (f : Frond) : State :=
  let r : Run := { st := s, base := s, fr := f, todo := f.grants, hand := f.lines, seen := [], bufs := [], blocked := false,
                   stop := none }
  (body r).close f

/-- Engines that serve one frond at a time, in acceptance order: the copy engine (R211), the rhizoid engine (R262), a
stream channel (R187) and a region's DRBG instance, number 61 (R302). -/
def serial (e : Nat) : Bool := e % 64 == 15 || e % 64 == 16 || (decide (17 ≤ e % 64) && decide (e % 64 < 49)) || e % 64 == 61

/-- No frond accepted earlier is still at work on a serial engine or on a tile of this one (R129, log entry 66). -/
def inTurn (s : State) (f : Frond) : Bool :=
  !s.fronds.any (fun g => decide (g.order < f.order) && g.phase == .working && !g.noWork && !g.worked && !g.held &&
    (g.engines.any (fun e => serial e && f.engines.contains e) || g.tiles.any (fun k => f.tiles.contains k)))

/-- A frond's engines can go on with it. -/
def canRun (s : State) (f : Frond) (op : Nat) : Bool :=
  f.phase == .working && !f.noWork && !f.worked && !f.held && (!f.abort || midSpan f) && f.parked.isNone && f.page.isNone &&
  opcodeOf f == op && !s.maint.moduleFault && inTurn s f

/-- Up to `n` units of a frond, while it can go on. -/
def runUnits (op : Nat) (body : Run → Run) (x : FrondRef) : Nat → State → State
  | 0, s => s
  | n + 1, s =>
    match findFrond s x with
    | none => s
    | some f => if canRun s f op then runUnits op body x n (runUnit body s f) else s

/-- The engines run up to `n` unit groups, or rounds, of a frond of an opcode (R88, R307). -/
def runFrond (op : Nat) (body : Run → Run) (x : FrondRef) (n : Nat) (s : State) : Answer :=
  effect s (match findFrond s x with
    | none => s
    | some f => runUnits op body x (n * stopSpan f - f.unit % stopSpan f) s)

/-! ### Common loops -/

/-- Elements `[k · size, min (E, (k + 1) · size))` of unit `k`. -/
def unitSpan (f : Frond) (size total : Nat) : Nat × Nat :=
  let lo := f.unit * size
  (lo, min size (total - lo))

/-- The unit's elements, one after another, while the unit goes on. -/
def Run.each (r : Run) (size total : Nat) (body : Nat → Run → Run) : Run :=
  let u := unitSpan r.fr size total
  forWhile (fun x => !x.ok) u.1 u.2 body r

end Sys2Proof.Machine
end

