-- ==== Sys2Proof/Machine/OpSpec.lean ====
section
/-! DEFINITION. What the sequencer needs to know of an opcode (R66–R73, R89, R180–R183, R195, R196): the form of its
fields, its checks, its class latency, engines, destinations and progress units; and the checks that every opcode
shares. -/

namespace Sys2Proof.Machine
open Sys2Proof

/-- The sequencer's view of one frond. A function from tile numbers to VBn.TILE_SHAPEk words gives the shapes that tile
checks and tile sizes are taken from: the projected ones at acceptance, those in force later (R128, R516). -/
structure OpSpec where
  /-- The opcode's part of check 1 of R89. -/
  form : Bool
  /-- The class's own checks at decode, in order (step 3). -/
  check : State → Option Status
  /-- The class's acceptance-time checks. -/
  late : State → (Nat → Word) → Option Status
  /-- A copy of a slot onto itself: released with no data moved (R200, R213). -/
  noop : Bool
  /-- The positions that a slot names, from the lowest to one past the highest. -/
  range : Nat → Int × Int
  /-- Slots that are read as streams, and written. -/
  sources : List Nat
  dests : List Nat
  /-- Slots that name a descriptor the frond writes. -/
  dctds : List Nat
  /-- Absolute extents that its result descriptors describe, and its scratch area, as memory stands. -/
  outs : State → List (Nat × Nat)
  /-- Tiles read, in the order they are named, and written. -/
  stiles : List Nat
  dtiles : List Nat
  /-- Slots of the DEADLINE class (R186). -/
  deadline : List Nat
  /-- The class latency of a repetition, channels being assigned. -/
  latency : State → (Nat → Word) → Frond → Nat → Nat
  /-- Addresses at which the memory that a repetition touches begins (R49). -/
  touches : State → Nat → List Nat
  /-- The replay cost. -/
  replay : State → Nat
  /-- The link allowance (R49). -/
  link : State → Nat
  /-- Engines other than stream channels, by region × 64 + engine. -/
  engines : List Nat
  /-- U of R88. -/
  units : State → (Nat → Word) → Nat
  /-- It draws on the DRBG (R304). -/
  nonrep : Bool

/-! ### Check 1 of R89 -/

/-- A token word in its form (R67). -/
def tokenOk (w : Nat) : Bool :=
  if nbit w 11 then nfld w 12 4 == 0 && (nbit w 10 || decide (nfld w 0 10 < 256)) else w == 0

/-- LAYOUT in its form (R203). -/
def layoutOk (l : Nat) : Bool :=
  if layKind l = 0 then l == 0 else decide (layKind l ≤ 4) && decide (nfld l 3 3 ≤ 5) && nfld l 6 2 == 0

/-- The words of a slot. -/
def slotWords (f : Frond) (i : Nat) : List Word32 := (f.words.drop (8 + 12 * i)).take 12

/-- A slot in its form (R68, R101, R180, R203, R204). -/
def slotForm (f : Frond) (i : Nat) : Bool :=
  let d := slotOf f i
  if d.empty then (slotWords f i).all (· == 0)
  else validFmt d.fmt && nfld d.flags 2 6 == 0 && layoutOk d.layout && (!d.blocked || nfld d.aux 30 2 == 0)

/-- The header's own part of check 1 (R67, R70, R89). -/
def headerForm (f : Frond) : Bool :=
  fwF f 0 18 2 == 0 && policy f != 3 && fwF f 7 15 17 == 0 &&
  [2, 3, 4, 5].all (fun i => tokenOk (fw f i)) &&
  [0, 1, 2, 3].all (slotForm f) &&
  (repeatOf f == 0 || [0, 1, 2, 3].all (fun i => (slotOf f i).empty || (slotOf f i).c 5 == 1))

/-- Parameter words of a list are 0. -/
def zeroPars (f : Frond) (l : List Nat) : Bool := l.all (fun i => par f i == 0)

/-- ARITH in its form, in a word 6 that holds nothing else (R109). -/
def arithWord (f : Frond) : Bool := arithOk f && parF f 6 8 24 == 0

/-- The slots of a list are empty. -/
def emptySlots (f : Frond) (l : List Nat) : Bool := l.all (fun i => (slotOf f i).empty)

/-- The slots of a list are not empty. -/
def fullSlots (f : Frond) (l : List Nat) : Bool := l.all (fun i => !(slotOf f i).empty)

/-! ### Slots as streams -/

/-- A stream's fields agree with each other: AUX, alignment, circular strides, array shape (R180, R182, R200, R204,
R207). -/
def Slot.good (d : Slot) : Bool :=
  (d.blocked || d.aux == 0) &&
  (d.fmt == 0xC || d.fmt == 0x18 || d.base % fmtUnit d.fmt == 0) &&
  (!d.circ || d.str.all (· == 0)) &&
  (!d.blocked || (d.tr % layG d.layout == 0 && d.tc % layG d.layout == 0 && d.fmt != 0x10 && d.fmt != 0x18))

/-- Every slot of a frond that is not empty agrees. -/
def slotsGood (f : Frond) : Bool := [0, 1, 2, 3].all (fun i => (slotOf f i).empty || (slotOf f i).good)

/-- The first check that fails. -/
def firstFail : List (Bool × Status) → Option Status
  | [] => none
  | (bad, x) :: t => if bad then some x else firstFail t

/-- The slots of a list are linear. -/
def linearSlots (f : Frond) (l : List Nat) : Bool := l.all (fun i => (slotOf f i).empty || !(slotOf f i).blocked)

/-- Two slots are identical in all 48 bytes, on one absolute window base. -/
def sameSlot (f : Frond) (i j : Nat) : Bool :=
  slotWords f i == slotWords f j && (slotOf f i).wbase == (slotOf f j).wbase

/-- The absolute extent of a slot over every repetition (R70, R183, R212). -/
def absSpan (s : State) (f : Frond) (d : Slot) (r : Int × Int) : Nat × Nat :=
  absExtent s d (d.spanOf r (repeatOf f))

/-- Slots `i` and `j` share a byte. -/
def slotsOverlap (s : State) (f : Frond) (range : Nat → Int × Int) (i j : Nat) : Bool :=
  !(slotOf f i).empty && !(slotOf f j).empty &&
  overlaps (absSpan s f (slotOf f i) (range i)) (absSpan s f (slotOf f j) (range j))

/-- V of a slot: the bytes one repetition touches (R196). -/
def slotBytes (f : Frond) (range : Nat → Int × Int) (i : Nat) : Nat :=
  let d := slotOf f i
  if d.empty then 0 else
    let x := d.offsets (range i) 0
    (x.2 - x.1).toNat

/-- The largest extent a copy's progress counter can count (R200, R213). -/
def maxExtent : Nat := 65535 * 65536

/-! ### Check 2 of R89 -/

/-- The extent of a slot over every repetition lies in its window (R81). -/
def inWindow (f : Frond) (range : Nat → Int × Int) (i : Nat) : Bool :=
  let d := slotOf f i
  d.empty || (let x := d.spanOf (range i) (repeatOf f); decide (0 ≤ x.1) && decide (x.2 ≤ (d.bound : Int)))

/-- The first byte of a slot's extent that decodes to no target (R32). -/
def slotUnmapped (s : State) (f : Frond) (range : Nat → Int × Int) (i : Nat) : Option Nat :=
  let d := slotOf f i
  if d.empty then none else
    let x := d.spanOf (range i) (repeatOf f)
    badAddress s (d.wbase + x.1.toNat) (x.2 - x.1).toNat

/-! ### Stream time (R195, R196) -/

/-- The channel of a slot. -/
def chanOf (f : Frond) (i : Nat) : Option Nat := aget f.chans i

/-- A: the allotment of a slot's channel, in bytes per work beat. -/
def allotOf (s : State) (f : Frond) (i : Nat) : Nat :=
  match chanOf f i with
  | some c => 8 * regF s (rChcfg f.region c) 8 8
  | none => 0

/-- F of a slot in a repetition. -/
def slotFill (s : State) (f : Frond) (rep i : Nat) (dest : Bool) : Nat :=
  if (slotOf f i).empty then 0 else fillTerm (slotMem s f.region (slotOf f i) rep) dest

/-- Z of a slot in a repetition. `run` says that its extent is one ascending contiguous run. -/
def slotSize (s : State) (f : Frond) (rep i : Nat) (run : Bool) (v : Nat) : Nat :=
  let d := slotOf f i
  if d.empty then 0
  else sizeTerm (slotMem s f.region d rep) (viaWindow (d.startAt rep)) run v (allotOf s f i)

/-- The largest number of a list. -/
def maxOf (l : List Nat) : Nat := l.foldl max 0

/-- The class latency of R196 from a fixed and an engine size term, over source and destination slots; `zs` gives the
size term of a slot whose opcode's chapter gives it. -/
def streamTime (s : State) (f : Frond) (rep fixed size : Nat) (range : Nat → Int × Int) (src dst : List Nat)
    (zs : Nat → Option Nat) : Nat :=
  let z (i : Nat) : Nat := match zs i with
    | some z => z
    | none => slotSize s f rep i (slotOf f i).isRun (slotBytes f range i)
  fixed + (src.map (fun i => slotFill s f rep i false)).sum + (dst.map (fun i => slotFill s f rep i true)).sum +
    max size (maxOf ((src ++ dst).map z))

/-- The addresses at which the extents of a frond's slots begin. -/
def slotStarts (f : Frond) (rep : Nat) : List Nat :=
  ([0, 1, 2, 3].filter (fun i => !(slotOf f i).empty)).map (fun i => (slotOf f i).startAt rep)

/-- A specification of a frond that reads slots `src` and writes slots `dst` as streams and has no check of its own. -/
def streamSpec (f : Frond) (src dst : List Nat) : OpSpec :=
  { form := true, check := fun _ => none, late := fun _ _ => none, noop := false,
    range := fun i => (slotOf f i).posRange, sources := src, dests := dst, dctds := [], outs := fun _ => [], stiles := [], dtiles := [],
    deadline := [], latency := fun _ _ _ _ => 0, touches := fun _ rep => slotStarts f rep, replay := fun _ => 0,
    link := fun _ => 0, engines := [], units := fun _ _ => 1, nonrep := false }

/-! ### Tile shapes (R126, R127) -/

/-- A tile's number. -/
def tileNo (r v k : Nat) : Nat := (r * 4 + v) * 64 + k

/-- A shape: rows, columns, format and pitch, as TILE_SHAPEk holds them. -/
structure Shape where
  rows : Nat
  cols : Nat
  fmt : Nat
  pitch : Nat
deriving DecidableEq, Repr

def shapeOf (w : Word) : Shape :=
  { rows := fld w 0 8 + 1, cols := fld w 8 14 + 1, fmt := fld w 24 8, pitch := fld w 32 14 }

/-- The tile has a shape. -/
def Shape.live (h : Shape) : Bool := h.fmt != 0

def Shape.count (h : Shape) : Nat := h.rows * h.cols

/-- Bytes of a tile that a shape names, with the padding of its rows. -/
def Shape.bytes (h : Shape) : Nat := h.rows * h.pitch

/-- The row pitch (R126). -/
def pitchOf (cols fmt : Nat) : Nat := ceilDiv (ceilDiv (cols * tileBits fmt) 8) 32 * 32

/-- The word of a shape. -/
def shapeWord (rows cols fmt : Nat) : Word :=
  BitVec.ofNat 64 ((rows - 1) + (cols - 1) <<< 8 + fmt <<< 24 + (pitchOf cols fmt) <<< 32)

/-- The shapes in force. -/
def shapesNow (s : State) (k : Nat) : Word := reg s (rTileShapeOf k)

/-- The projected shapes (R128). -/
def shapesAhead (s : State) (k : Nat) : Word := mget (fun _ => 0) s.proj k

end Sys2Proof.Machine
end

