-- ==== Sys2Proof/Machine/Collect.lean ====
section
/-! DEFINITION. The fronds of class 0xC: transfers, collectives and tees (R385–R395, R405). -/

namespace Sys2Proof.Machine
open Sys2Proof

/-! ### Fields and roles (R393) -/

/-- A SHARE_OPEN holds its partner and tag in words of its own (R297). -/
def xferPeer (f : Frond) : Nat := if opcodeOf f = 0xB02 then par f 2 else par f 1
def xferTag (f : Frond) : Nat := if opcodeOf f = 0xB02 then parF f 3 0 16 else par f 2
def teeDisarm (f : Frond) : Bool := parF f 0 16 1 == 1

/-- A collective, as against a transfer or a tee. -/
def isColl (f : Frond) : Bool := [0xC10, 0xC11, 0xC12, 0xC13].contains (opcodeOf f)

/-- A REDUCE_SCATTER or an ALL_REDUCE. -/
def reduces (f : Frond) : Bool := opcodeOf f == 0xC10 || opcodeOf f == 0xC12

/-- Reserved bits, and fields that the opcode does not use. -/
def collForm (f : Frond) : Bool :=
  let o := opcodeOf f
  parF f 0 17 15 == 0 && (isColl f || parF f 0 0 16 == 0) && (o == 0xC20 || !teeDisarm f) && (!isColl f || par f 1 == 0) &&
  parF f 3 16 16 == 0 && (o == 0xC13 || o == 0xC20 || par f 3 == 0) && zeroPars f [4, 5, 6]

def collLegal (f : Frond) : Bool :=
  let o := opcodeOf f
  let a := (slotOf f 0).fmt
  emptySlots f [1, 2] &&
  (if o = 0xC00 ∨ o = 0xC20 then fullSlots f [0] && emptySlots f [3]
   else if o = 0xC01 ∨ o = 0xC13 then fullSlots f [3] && emptySlots f [0]
   else fullSlots f [0, 3] && a == (slotOf f 3).fmt && (!reduces f || a == 1 || a == 2))

/-- The absolute extent that a TEE_ARM watches. -/
def teeExtent (s : State) (f : Frond) : Nat × Nat := absSpan s f (slotOf f 0) (slotOf f 0).posRange

/-- The armed entry that a TEE_ARM with DISARM names. -/
def teeNamed (s : State) (f : Frond) : Option TeeEntry :=
  s.links.tees.find? (fun t => t.region == f.region && !t.done && t.slot == slotWords f 0 && t.base == (slotOf f 0).wbase)

/-- The entry rules of R390. -/
def teeOk (s : State) (f : Frond) : Bool :=
  if teeDisarm f then (teeNamed s f).isSome
  else
    let mine := s.links.tees.filter (fun t => t.region == f.region && !t.done)
    decide (mine.length < 8) && !mine.any (fun t => overlaps (t.lo, t.hi) (teeExtent s f))

/-- GROUP, ROOT and PEER name what they have to. A module takes part in groups that it is a member of (log entry
110). -/
def collParams (s : State) (f : Frond) : Bool :=
  if isColl f then
    match groupIdx s (parF f 0 0 16), collOf s f with
    | some g, some _ => decide (parF f 3 0 16 < groupSize s g) || opcodeOf f != 0xC13
    | _, _ => false
  else xferPeer f != identOf s f && inTorus s (xferPeer f) && (opcodeOf f != 0xC20 || teeOk s f)

/-- The size of the group. -/
def collSize (s : State) (f : Frond) : Nat := ((groupIdx s (parF f 0 0 16)).map (groupSize s)).getD 1

def collCounts (s : State) (f : Frond) : Bool :=
  let o := opcodeOf f
  let n := collSize s f
  let a := (slotOf f 0).elems
  let d := (slotOf f 3).elems
  if o = 0xC10 then a % (2 * n) == 0 && a == d * n
  else if o = 0xC11 then d % (2 * n) == 0 && d == a * n
  else if o = 0xC12 then a % (2 * n) == 0 && a == d
  else true

/-- A protected collective (R405). -/
def protectedColl (s : State) (f : Frond) : Bool :=
  regB s rFailCtrl 0 && reduces f && (match groupIdx s (parF f 0 0 16) with
    | some g => regB s rPgroups g
    | none => false)

/-! ### Routes and time (R382, R394, R395) -/

/-- The coordinates that a frond exchanges packets with. -/
def collPeers (s : State) (f : Frond) : List Nat :=
  if isColl f then
    match collOf s f with
    | none => []
    | some c =>
      ((List.range 4).filter (fun x => decide (2 ≤ groupExt s c.group x))).flatMap
        (fun x => [ringMate s c x 1, ringMate s c x (groupExt s c.group x - 1)])
  else [xferPeer f]

/-- Every route that a frond needs can be taken. -/
def routesOk (s : State) (f : Frond) : Bool := (collPeers s f).all (reachable s)

/-- Payload bytes per work beat on the way to a coordinate: 148 where a pair on it is degraded (R376). -/
def routeRate (s : State) (d : Nat) : Nat :=
  if (routeHops s (ownPhys s) (physOf s d)).any (fun (x, neg, k) => decide (0 < k) &&
      (regB s (rLinkStat (pairPort x neg)) 2 || regB s (rLinkStat (pairPort x neg + 8)) 2)) then 148 else 296

/-- λ of the ring of a stage: the longest of its members' routes to the next. -/
def ringLat (s : State) (c : Coll) (x : Nat) : Nat :=
  maxOf ((List.range (groupExt s c.group x)).map (fun o =>
    routeLat s (physOf s (ringMate s c x o)) (physOf s (ringMate s c x (o + 1)))))

/-- λ to a coordinate. -/
def peerLat (s : State) (d : Nat) : Nat := routeLat s (ownPhys s) (physOf s d)

/-- The payload rate of a stage. -/
def ringRate (s : State) (c : Coll) (x : Nat) : Nat :=
  min (routeRate s (ringMate s c x 1)) (routeRate s (ringMate s c x (groupExt s c.group x - 1)))

/-- Σ h_x over the stages of a reduce-scatter. -/
def stageTime (s : State) (c : Coll) : Nat :=
  ([3, 2, 1, 0].foldl (fun (a : Nat × Nat) x =>
    let k := groupExt s c.group x
    if k < 2 then a
    else (a.1 + (k - 1) * (ceilDiv (denseBytes c.fmt a.2) (2 * k * ringRate s c x) + ringLat s c x + 16), a.2 / k)) (0, c.e)).1

/-- The entries of a frond's region that tee it: those armed before it, and for a re-run those that tee'd the first
run. Spent entries stay for the re-runs of a protected step (R390, R406). -/
def teesFor (s : State) (f : Frond) : List TeeEntry :=
  s.links.tees.filter (fun t => t.region == f.region && reduces f && decide (t.order < f.order) &&
    (if 4 ≤ f.queue then t.teed.contains f.order else !t.done))

/-- The destination addresses of the rank's own shard, element by element. -/
def shardAddrs (s : State) (f : Frond) (c : Coll) : List Nat :=
  let d := slotOf f 3
  let own := if c.opcode = 0xC10 then List.range d.elems else shardIndex s c.group c.rank c.e
  own.map (fun e =>
    let a := d.addr (d.pos f.rep e)
    match resolve s a with
    | .hbm h => h
    | _ => a)

/-- The engine's size term. -/
def collTime (s : State) (f : Frond) : Nat :=
  let o := opcodeOf f
  if o = 0xC20 then 0
  else if isColl f then
    match collOf s f with
    | none => 0
    | some c =>
      let tees := (teesFor s f).map (fun t =>
        let v := ((shardAddrs s f c).filter (fun a => decide (t.lo ≤ a) && decide (a < t.hi))).length * fmtUnit c.fmt
        if v = 0 then 0 else ceilDiv v (routeRate s t.target) + 2 * peerLat s t.target)
      let base :=
        if o = 0xC13 then
          ceilDiv (denseBytes c.fmt c.e) (((collPeers s f).map (routeRate s)).foldl min 296) +
            ((List.range 4).map (fun x => (groupExt s c.group x - 1) * (ringLat s c x + 16 + 222))).sum
        else if o = 0xC12 then 2 * stageTime s c else stageTime s c
      base + tees.sum
  else
    let i := if o = 0xC00 then 0 else 3
    ceilDiv (denseBytes (slotOf f i).fmt (slotOf f i).elems) (routeRate s (xferPeer f)) + 3 * peerLat s (xferPeer f) + 48

/-- The link allowance: the slowest link of the routes to some coordinates (R49). -/
def linkAllow (s : State) (l : List Nat) : Nat :=
  if l.isEmpty then 0 else 2 * (maxOf (l.map (fun d => slowestRtt s (ownPhys s) (physOf s d))) + 32)

/-- Slots read and written: the root of a broadcast reads slot 3. -/
def collSources (f : Frond) : List Nat :=
  let o := opcodeOf f
  if o = 0xC01 ∨ o = 0xC20 then [] else if o = 0xC13 then [3] else [0]
def collDests (f : Frond) : List Nat := if opcodeOf f = 0xC00 ∨ opcodeOf f = 0xC20 then [] else [3]

/-- This module is the root of a broadcast. -/
def isRoot (s : State) (f : Frond) : Bool :=
  match collOf s f with
  | some c => c.rank == c.root
  | none => false

/-- Pieces of 65,536 bytes of a slot. -/
def slotPieces (d : Slot) : Nat := ceilDiv d.elems (unitElems d.fmt)

/-- `s` says whether this module is the root of a broadcast. -/
def specColl (s0 : State) (f : Frond) : OpSpec :=
  let o := opcodeOf f
  let b := streamSpec f (collSources f) (collDests f)
  { b with
    form := collForm f
    sources := if o = 0xC13 && !isRoot s0 f then [] else collSources f
    check := fun s => firstFail
      [ (!slotsGood f || !collLegal f, .skipIllegal),
        (!collParams s f, .skipParam),
        (!collCounts s f, .skipShape),
        (slotsOverlap s f b.range 0 3 && (o != 0xC12 || !sameSlot f 0 3 || protectedColl s f), .skipOverlap) ]
    latency := fun s _ g rep =>
      if o = 0xC20 then 8
      else if o = 0xC13 then
        (if isRoot s f then streamTime s g rep 32 (collTime s g) b.range [3] [] (fun _ => none)
         else streamTime s g rep 32 (collTime s g) b.range [] [3] (fun _ => none))
      else streamTime s g rep 32 (collTime s g) b.range (collSources f) (collDests f) (fun _ => none)
    link := fun s => if o = 0xC20 then 0 else linkAllow s (collPeers s f)
    deadline := if o = 0xC20 then [0] else []
    touches := fun s rep => if o = 0xC20 then [] else b.touches s rep
    units := fun s _ =>
      if o = 0xC20 then 1
      else if o = 0xC00 then slotPieces (slotOf f 0)
      else if o = 0xC01 ∨ o = 0xC13 then slotPieces (slotOf f 3)
      else match collOf s f with
        | some c => max 1 (collSteps s c.group o).length
        | none => 1 }

/-! ### Shared steps -/

/-- The unit waits for a peer (R387). -/
def Run.await (r : Run) : Run :=
  if r.ok then { r with blocked := true, fr := { r.fr with causes := if r.fr.causes.contains 9 then r.fr.causes else r.fr.causes ++ [9] } }
  else r

/-- What the unit has done so far stands even if it has to wait, and round `n` of its exchange has been sent. -/
def Run.commit (r : Run) (n : Nat) : Run :=
  if r.ok then { r with base := r.st, fr := { r.fr with sent := n } } else r

/-- Packets of the unit leave, and what the stood-in rank makes of them follows; a destination that has become
unreachable stops the frond (R382). -/
def Run.sendPackets (r : Run) (l : List Packet) : Run :=
  if !r.ok then r
  else if l.all (fun k => reachable r.st k.hdr.destL.toNat) then r.up (fun s => runGhosts (l.foldl inject s))
  else (r.up (fun s => logFrond s r.fr 0x3010 (payDefault (opcodeOf r.fr) (statusCode .fault) 0))).halt .fault

/-- The frond stops with a skip status and an event of its own. -/
def Run.stopWith (r : Run) (x : Status) (code : Nat) : Run :=
  (r.up (fun s => logFrond s r.fr code (payDefault (opcodeOf r.fr) (statusCode x) 0))).halt x

/-- An element with the mark of its poison; the frond itself is not poisoned by it (R389). -/
def Run.rdMarked (r : Run) (d : Slot) (e : Nat) : Nat × Run :=
  let v := ({ r with fr := { r.fr with poisoned := false } }).rd d e
  let p := v.2.place d e false
  (taintElem (v.2.fr.poisoned || poisonedAt v.2.st p.1.1) v.1, { v.2 with fr := { v.2.fr with poisoned := r.fr.poisoned } })

/-- Elements `lo … lo + n - 1` of a slot, marked; a re-run for a dropped member reads +0 (R406). -/
def Run.rdRange (r : Run) (d : Slot) (lo n : Nat) : List Nat × Run :=
  if r.fr.zero then (List.replicate n 0, r)
  else forWhile (fun p => !p.2.ok) lo n (fun e p => let v := p.2.rdMarked d e; (p.1 ++ [v.1], v.2)) ([], r)

/-- Marked elements are written from element `lo` of a slot on; a marked one poisons the frond (R389). -/
def Run.wrRange (r : Run) (d : Slot) (lo : Nat) (l : List Nat) : Run :=
  (l.foldl (fun (p : Nat × Run) v => (p.1 + 1, (p.2.wr d p.1 (cleanElem v)).taint (p.2.ok && tainted v))) (lo, r)).2

/-! ### Tees (R390) -/

/-- Runs of bytes at successive addresses. -/
def byteRuns : List (Nat × Byte) → List (Nat × List Byte)
  | [] => []
  | (a, b) :: t =>
    match byteRuns t with
    | (c, l) :: rest => if a + 1 = c then (a, b :: l) :: rest else (a, [b]) :: (c, l) :: rest
    | [] => [(a, [b])]

/-- TEE packets with a run of bytes, placed by their offsets from `lo`. -/
def teePackets (t : TeeEntry) (src : Nat) (poison : Bool) (run : Nat × List Byte) : List Packet :=
  (List.range (ceilDiv run.2.length 512)).map (fun j =>
    let d := (run.2.drop (512 * j)).take 512
    { hdr := { newHdr 5 0 (padLen d.length) t.target src t.tag (run.1 - t.lo + 512 * j) with poison := poison }
      body := .bytes d })

/-- The entry after a collective of which `n` bytes have been sent; a re-run is not counted. -/
def teeCounted (s : State) (f : Frond) (t : TeeEntry) (n : Nat) : TeeEntry :=
  let u := { t with pending := t.pending + n, since := beat s }
  if 4 ≤ f.queue then u else { u with done := t.count == 1, count := t.count - 1, teed := t.teed ++ [f.order] }

/-- The final bytes of the own shard that lie in an armed extent are sent to its target. -/
def teeTo (f : Frond) (src : Nat) (l : List (Nat × Byte)) (poison : Bool) (s : State) (t : TeeEntry) : State :=
  let mine := l.filter (fun p => decide (t.lo ≤ p.1) && decide (p.1 < t.hi))
  if mine.isEmpty then s
  else
    let s1 := ((byteRuns mine).flatMap (teePackets t src poison)).foldl inject s
    let u := teeCounted s f t mine.length
    { s1 with links := { s1.links with tees := s1.links.tees.map (fun x => if x = t then u else x) } }

/-- The shard `v` of a reduction is final: it is tee'd as the region's armed entries say. -/
def Run.teeShard (r : Run) (c : Coll) (v : List Nat) : Run :=
  let f := r.fr
  let l := ((shardAddrs r.st f c).zip v).flatMap (fun p =>
    (List.range (fmtUnit c.fmt)).zip (leBytes (fmtUnit c.fmt) (cleanElem p.2)) |>.map (fun q => (p.1 + q.1, q.2)))
  r.up (fun s => (teesFor s f).foldl (teeTo f (memberOf s c.group c.rank) l (v.any tainted)) s)

/-- Tee bytes of a collective's region await their CTS: its release waits for them. -/
def teeWaits (s : State) (f : Frond) : Bool :=
  reduces f && s.links.tees.any (fun t => t.region == f.region && decide (t.order < f.order) && decide (0 < t.pending))

/-- TEE_ARM: an entry is armed or freed. -/
def teeArmUnit (r : Run) : Run :=
  let f := r.fr
  if !teeOk r.st f then r.halt .skipParam
  else if teeDisarm f then
    match teeNamed r.st f with
    | some t => r.up (fun s => { s with links := { s.links with tees := s.links.tees.erase t } })
    | none => r
  else
    let x := teeExtent r.st f
    let t : TeeEntry := { region := f.region, lo := x.1, hi := x.2, slot := slotWords f 0, base := (slotOf f 0).wbase,
                          target := xferPeer f, tag := xferTag f, count := parF f 3 0 16, order := f.order, done := false, teed := [],
                          pending := 0, since := 0 }
    r.up (fun s => { s with links := { s.links with tees := s.links.tees ++ [t] } })

/-! ### Rings -/

/-- The source vector, at the first step. -/
def ringLoad (r : Run) : Run :=
  if r.fr.unit = 0 ∧ r.fr.sent = 0 then
    let v := r.rdRange (slotOf r.fr 0) 0 (slotOf r.fr 0).elems
    { v.2 with fr := { v.2.fr with buf := v.1, work := [] } }
  else r

/-- The step's packets, sent once; the stood-in rank begins with the first. -/
def ringSend (c : Coll) (st : RingStep) (r : Run) : Run :=
  if !r.ok || r.fr.sent != 0 then r
  else
    let r1 := if r.fr.unit = 0 then r.up (fun s => ghostFor s c) else r
    (r1.sendPackets (stepPackets r.st c st)).commit 1

/-- The reduce-scatter phase ends with a step. -/
def endsReduce (s : State) (c : Coll) (st : RingStep) : Bool :=
  !st.gather && (match (collSteps s c.group c.opcode)[c.unit + 1]? with
    | some n => n.gather
    | none => true)

/-- The vector of the last step is the result. -/
def ringFinish (r : Run) (c : Coll) : Run :=
  if r.fr.unit + 1 = r.fr.units then r.wrRange (slotOf r.fr 3) 0 c.buf else r

/-- The step's packets arrive: sums, the result, the tee. -/
def ringTake (c : Coll) (st : RingStep) (r : Run) : Run :=
  if !r.ok then r
  else
    match stepExchange r.st c st with
    | .wait => r.await
    | .clash => (r.up (dropClash c)).stopWith .skipParam 0x3023
    | .go d ks fl =>
      let r1 := { r with st := { r.st with links := { r.st.links with early := ks } },
                         fr := { r.fr with buf := d.buf, work := d.work } }
      let r2 := ringFinish (r1.flag fl) d
      if endsReduce r.st c st then r2.teeShard c d.buf else r2

/-- One ring step of a collective. -/
def ringUnit (r : Run) : Run :=
  let r1 := ringLoad r
  if !r1.ok then r1
  else
    match collOf r1.st r1.fr with
    | none => r1.halt .fault
    | some c =>
      match stepOf r1.st c with
      | some st => ringTake c st (ringSend c st r1)
      | none =>
        let r2 := ringFinish r1 c
        if reduces r1.fr then r2.teeShard c c.buf else r2

/-! ### Broadcasts -/

/-- One piece of a broadcast: read at the root, taken from the ring elsewhere, passed on. -/
def bcastUnit (r : Run) : Run :=
  match collOf r.st r.fr with
  | none => r.halt .fault
  | some c0 =>
    let r1 := if r.fr.unit = 0 ∧ r.fr.sent = 0 then (r.up (fun s => runGhosts (ghostFor s c0))).commit 1 else r
    let c := { c0 with buf := [] }
    let d := slotOf r.fr 3
    let lo := r.fr.unit * unitElems c.fmt
    if c.rank = c.root then
      let v := r1.rdRange d lo (pieceCount c r.fr.unit)
      (v.2.taint (v.1.any tainted)).sendPackets (bcastPackets r.st c r.fr.unit v.1)
    else
      match bcastExchange r1.st c r.fr.unit with
      | .wait => r1.await
      | .clash => (r1.up (dropClash c)).stopWith .skipParam 0x3023
      | .go x ks _ =>
        let r2 := { r1 with st := { r1.st with links := { r1.st.links with early := ks } } }
        (r2.sendPackets (bcastPackets r.st c r.fr.unit x.buf)).wrRange d lo x.buf

/-! ### Transfers (R388) -/

/-- A packet of a type between two coordinates under a tag. -/
def xferPacket (type src dst tag : Nat) (k : Packet) : Bool :=
  k.hdr.type.toNat == type && k.hdr.srcL.toNat == src && k.hdr.destL.toNat == dst && k.hdr.tag.toNat == tag

/-- A packet of this frond to its partner. -/
def xferOut (s : State) (f : Frond) (type len offset : Nat) (poison : Bool) (body : Body) : Packet :=
  { hdr := { newHdr type 0 len (xferPeer f) (identOf s f) (xferTag f) offset with poison := poison }, body := body }

/-- Bytes of slot `i`. -/
def xferBytes (f : Frond) (i : Nat) : Nat := denseBytes (slotOf f i).fmt (slotOf f i).elems

/-- A DATA packet of this transfer still awaits its acknowledgement. -/
def unacked (s : State) (f : Frond) : Bool :=
  s.links.ports.any (fun x => (x.replay ++ x.out).any (xferPacket 1 (identOf s f) (xferPeer f) (xferTag f)))

/-- The grant of a SEND: its packet among those that wait, and the byte count in it. -/
def ctsFor (s : State) (f : Frond) : Option (Packet × Nat) :=
  match s.links.early.find? (xferPacket 3 (xferPeer f) (identOf s f) (xferTag f)) with
  | some k => (match k.body with
    | .cts n => some (k, n)
    | _ => none)
  | none => none

/-- SEND announces itself, once. -/
def sendRts (r : Run) : Run :=
  if r.fr.unit = 0 ∧ r.fr.sent = 0 then
    (r.sendPackets [xferOut r.st r.fr 2 0 0 false (.rts (xferBytes r.fr 0))]).commit 1
  else r

/-- SEND is granted its data, or learns that the counts differ. -/
def sendGrant (r : Run) : Run :=
  if !r.ok || r.fr.unit != 0 || r.fr.sent != 1 then r
  else
    match ctsFor r.st r.fr with
    | none => r.await
    | some (k, n) =>
      let r1 := r.up (fun s => { s with links := { s.links with early := s.links.early.erase k } })
      if n = xferBytes r.fr 0 then r1.commit 2 else r1.stopWith .skipShape 0x3022

/-- SEND streams a piece. -/
def sendPiece (r : Run) : Run :=
  if !r.ok || r.fr.sent == 3 then r
  else
    let d := slotOf r.fr 0
    let n := unitElems d.fmt
    let v := r.rdRange d (r.fr.unit * n) (min n (d.elems - r.fr.unit * n))
    let b := packElems d.fmt (v.1.map cleanElem)
    let bad := v.1.any tainted
    let l := (List.range (ceilDiv b.length 512)).map (fun j =>
      let part := (b.drop (512 * j)).take 512
      xferOut r.st r.fr 1 (padLen part.length) (65536 * r.fr.unit + 512 * j) bad (.bytes part))
    ((v.2.taint bad).sendPackets l).commit 3

/-- One piece of a SEND; the last one waits for the final acknowledgement. -/
def sendUnit (r : Run) : Run :=
  let r1 := sendPiece (sendGrant (sendRts r))
  if r1.ok && r1.fr.unit + 1 == r1.fr.units && r1.fr.rep == repeatOf r1.fr && unacked r1.st r1.fr then { r1 with blocked := true }
  else r1

/-- No earlier RECV of the same partner and tag still waits for its rendezvous. -/
def recvFirst (s : State) (f : Frond) : Bool :=
  !s.fronds.any (fun g => opcodeOf g == 0xC01 && g.phase == .working && !g.noWork && decide (g.order < f.order) &&
    xferPeer g == xferPeer f && xferTag g == xferTag f && g.unit == 0 && g.sent == 0)

/-- RECV meets its rendezvous and answers. -/
def recvMeet (r : Run) : Run :=
  if r.fr.unit != 0 || r.fr.sent != 0 then r
  else
    let f := r.fr
    let mine (w : RtsWait) : Bool := w.src == xferPeer f && w.tag == xferTag f && w.dst == identOf r.st f
    match r.st.links.rts.find? mine with
    | none => r.await
    | some w =>
      if !recvFirst r.st f then r.await
      else
        let r1 := (r.up (fun s => { s with links := { s.links with rts := s.links.rts.erase w } })).sendPackets
          [xferOut r.st f 3 0 0 false (.cts (xferBytes f 3))]
        if w.count = xferBytes f 3 then r1.commit 1 else r1.stopWith .skipShape 0x3022

/-- Bytes of a piece out of the packets that wait, and whether they are poisoned; nothing while some are missing. -/
def takePiece (s : State) (f : Frond) (base n : Nat) : Option (List Byte × Bool × List Packet) :=
  (List.range (ceilDiv n 512)).foldl (fun (a : Option (List Byte × Bool × List Packet)) j =>
    match a with
    | none => none
    | some (l, p, ks) =>
      match ks.find? (fun k => xferPacket 1 (xferPeer f) (identOf s f) (xferTag f) k && k.hdr.offset.toNat == base + 512 * j) with
      | some k => some (l ++ payloadOf k, p || k.hdr.poison, ks.erase k)
      | none => none) (some ([], false, s.links.early))

/-- One piece of a RECV lands. -/
def recvUnit (r : Run) : Run :=
  let r1 := recvMeet r
  if !r1.ok then r1
  else
    let f := r1.fr
    let d := slotOf f 3
    let n := unitElems d.fmt
    let k := min n (d.elems - f.unit * n)
    match takePiece r1.st f (65536 * f.unit) (denseBytes d.fmt k) with
    | none => r1.await
    | some (b, bad, ks) =>
      let r2 := { r1 with st := { r1.st with links := { r1.st.links with early := ks } } }.taint bad
      r2.wrRange d (f.unit * n) (unpackElems d.fmt k b)

/-! ### The commands -/

/-- SEND (R388). -/
def execSend (f : FrondRef) (n : Nat) (s : State) : Answer := runFrond 0xC00 sendUnit f n s

/-- RECV (R388). -/
def execRecv (f : FrondRef) (n : Nat) (s : State) : Answer := runFrond 0xC01 recvUnit f n s

/-- REDUCE_SCATTER (R385, R390). -/
def execReduceScatter (f : FrondRef) (n : Nat) (s : State) : Answer := runFrond 0xC10 ringUnit f n s

/-- ALL_GATHER (R385). -/
def execAllGather (f : FrondRef) (n : Nat) (s : State) : Answer := runFrond 0xC11 ringUnit f n s

/-- ALL_REDUCE (R385, R390). -/
def execAllReduce (f : FrondRef) (n : Nat) (s : State) : Answer := runFrond 0xC12 ringUnit f n s

/-- BCAST (R386). -/
def execBcast (f : FrondRef) (n : Nat) (s : State) : Answer := runFrond 0xC13 bcastUnit f n s

/-- TEE_ARM (R390). -/
def execTeeArm (f : FrondRef) (n : Nat) (s : State) : Answer := runFrond 0xC20 teeArmUnit f n s

end Sys2Proof.Machine
end

