-- ==== Sys2Proof/Machine/Tiles.lean ====
section
/-! DEFINITION. Tile registers as operands, the tests of a frond's first tile access, and the tile fronds TILE_SHAPE,
TILE_LOAD, TILE_STORE, TILE_SAVE and TILE_RESTORE (R125–R146, R516). -/

namespace Sys2Proof.Machine
open Sys2Proof

/-! ### Tile bytes and elements (R101, R103, R104, R127) -/

/-- Byte `b` of tile `k`. -/
def tileByte (s : State) (k b : Nat) : Byte := mget memDefault s.tiles (k * 8192 + b)

/-- Tile `k` with byte `b` set. -/
def setTileByte (k b : Nat) (v : Byte) (s : State) : State := { s with tiles := mset memDefault s.tiles (k * 8192 + b) v }

/-- The `n` bytes of tile `k` from byte `b`, as a number. -/
def tileNat (s : State) (k b : Nat) : Nat → Nat
  | 0 => 0
  | n + 1 => (tileByte s k b).toNat + 256 * tileNat s k (b + 1) n

/-- Bytes of tile `k` set from byte `b` on. -/
def setTileBytes (k b : Nat) (l : List Byte) (s : State) : State :=
  (l.foldl (fun (p : Nat × State) v => (p.1 + 1, setTileByte k p.1 v p.2)) (b, s)).2

/-- Tile `k` with every byte 0. -/
def zeroTile (k : Nat) (s : State) : State := { s with tiles := s.tiles.filter (fun p => p.1 / 8192 != k) }

/-- Where element `e` of a shape lies: its first byte and the bit in it. -/
def Shape.place (h : Shape) (e : Nat) : Nat × Nat :=
  let x := e % h.cols * tileBits h.fmt
  (e / h.cols * h.pitch + x / 8, x % 8)

/-- Element `e` of tile `k`, as raw bits: of a RES36 container the low 36. -/
def tileElem (s : State) (k e : Nat) : Nat :=
  let h := shapeOf (shapesNow s k)
  let p := h.place e
  nfld (tileNat s k p.1 (ceilDiv (tileBits h.fmt) 8)) p.2 (fmtBits h.fmt)

/-- The end of a row is written: bits after its last element and its padding bytes as 0 (R103, R127). -/
def padRow (s : State) (k r : Nat) : State :=
  let h := shapeOf (shapesNow s k)
  let bits := h.cols * tileBits h.fmt
  let lo := r * h.pitch + bits / 8
  let s1 := if bits % 8 = 0 then s else setTileByte k lo (BitVec.ofNat 8 (nfld (tileByte s k lo).toNat 0 (bits % 8))) s
  forRange (r * h.pitch + ceilDiv bits 8) (h.pitch - ceilDiv bits 8) (fun b x => setTileByte k b 0 x) s1

/-- A row's padding is written with its last element (log entry 68). -/
def padAfter (s : State) (k e : Nat) : State :=
  let h := shapeOf (shapesNow s k)
  if e % h.cols + 1 = h.cols then padRow s k (e / h.cols) else s

/-- Element `e` of tile `k` set to raw bits. -/
def setTileElem (s : State) (k e v : Nat) : State :=
  let h := shapeOf (shapesNow s k)
  let p := h.place e
  let n := fmtBits h.fmt
  let s1 :=
    if n < 8 then
      let old := (tileByte s k p.1).toNat
      let keep := old - (nfld old p.2 n) <<< p.2
      setTileByte k p.1 (BitVec.ofNat 8 (keep + (v % 2 ^ n) <<< p.2)) s
    else setTileBytes k p.1 (leBytes (tileBits h.fmt / 8) (v % 2 ^ n)) s
  padAfter s1 k e

/-- A tile is poisoned (R142). -/
def tilePoisoned (s : State) (k : Nat) : Bool := regB s (rTileStatOf k) 9

/-- Element `e` of tile `k` is read. -/
def Run.rdTile (r : Run) (k e : Nat) : Nat × Run :=
  if r.ok then (tileElem r.st k e, r.taint (tilePoisoned r.st k)) else (0, r)

/-- The frond has written in tile `k`. -/
def Run.noteTile (r : Run) (k : Nat) : Run := { r with fr := { r.fr with wroteTiles := sins r.fr.wroteTiles k } }

/-- Element `e` of tile `k` is written. -/
def Run.wrTile (r : Run) (k e v : Nat) : Run := if r.ok then (r.up (fun s => setTileElem s k e v)).noteTile k else r

/-- Element `e` of tile `k` is inactive and keeps its bytes (R330). -/
def Run.skipTile (r : Run) (k e : Nat) : Run :=
  if r.ok then { r.up (fun s => padAfter s k e) with fr := { r.fr with holes := sins r.fr.holes k } } else r

/-! ### The first tile access (R144, R516) -/

/-- A frond that names tiles waits while one of them is PENDING by another, then tests its tile conditions again, and
goes on. -/
def Run.gate (r : Run) (late : State → (Nat → Word) → Option Status) (waits : Bool) (body : Run → Run) : Run :=
  if !r.ok then r
  else if waits && r.fr.pend == 0 && r.fr.tiles.any (fun k => regB r.st (rTileStatOf k) 8) then
    { r with blocked := true, fr := { r.fr with causes := if r.fr.causes.contains 5 then r.fr.causes else r.fr.causes ++ [5] } }
  else if !r.fr.tested && (late r.st (shapesNow r.st)).isSome then r.halt .skipShape
  else body { r with fr := { r.fr with tested := true } }

/-! ### The tile fronds' fields and checks (R134–R137) -/

/-- The V-block of a frond that names one in bits 1:0 of word 0, as the number of its first tile. -/
def vblockOf (f : Frond) : Nat := tileNo f.region (parF f 0 0 2) 0

/-- The engine number of that V-block. -/
def vblockEngine (f : Frond) : Nat := f.region * 64 + 6 + parF f 0 0 2

/-- The tile of a tile frond. -/
def tileOf (f : Frond) : Nat := vblockOf f + parF f 0 2 6

def tileKeep (f : Frond) : Bool := nbit (par f 0) 8
def tileFree (f : Frond) : Bool := nbit (par f 0) 9

/-- The shape in word 1. -/
def tileShapeWord (f : Frond) : Word := shapeWord (parF f 1 0 8 + 1) (parF f 1 8 14 + 1) (parF f 1 24 8)

/-- A shape fits a tile (R126). -/
def Shape.fits (h : Shape) : Bool := decide (h.rows * pitchOf h.cols h.fmt ≤ 8192)

/-- The live tiles of a V-block, by number, in rising order. -/
def liveTiles (v : Nat) (sh : Nat → Word) : List Nat :=
  ((List.range 64).map (fun k => v + k)).filter (fun k => (shapeOf (sh k)).live)

/-- A contiguous UINT8 stream (R135, R136). -/
def contiguous (d : Slot) : Bool := d.fmt == 0xB && !d.circ && d.isRun && d.bytes == d.elems

/-- The fields and slot roles that R134 and R135 give, with the decode rows of R136. -/
def tileForm (f : Frond) : Bool :=
  let o := opcodeOf f
  let fields := zeroPars f [2, 3, 4, 5] && parF f 0 10 22 == 0 && arithWord f
  if o = 0x330 then
    fields && parF f 1 22 2 == 0 && emptySlots f [0, 1, 2, 3] && !(tileKeep f && tileFree f) &&
      (if tileFree f then par f 1 == 0 else validFmt (parF f 1 24 8))
  else
    let src := o == 0x331 || o == 0x334
    fields && par f 1 == 0 && parF f 0 8 2 == 0 && (decide (o ≤ 0x332) || parF f 0 2 6 == 0) &&
      emptySlots f [1, 2] && (if src then fullSlots f [0] && emptySlots f [3] else fullSlots f [3] && emptySlots f [0])

/-- The acceptance rows of R136. -/
def tileLate (f : Frond) (_ : State) (sh : Nat → Word) : Option Status :=
  let o := opcodeOf f
  let h := shapeOf (sh (tileOf f))
  let bad :=
    if o = 0x330 then
      !tileFree f && (!(shapeOf (tileShapeWord f)).fits || (tileKeep f && !h.live))
    else if o = 0x331 ∨ o = 0x332 then
      let d := slotOf f (if o = 0x331 then 0 else 3)
      !h.live || d.fmt != h.fmt || d.elems != h.count
    else if o = 0x333 then
      !contiguous (slotOf f 3) || decide ((slotOf f 3).elems < 512 + 8192 * (liveTiles (vblockOf f) sh).length)
    else !contiguous (slotOf f 0)
  if bad then some .skipShape else none

/-- The number in `n` bytes of a header. -/
def hdr (b : List Nat) (i n : Nat) : Nat := ((b.drop i).take n).foldr (fun x a => x + 256 * a) 0

/-- The word of a tile in a header: what TILE_SHAPEk becomes. -/
def hdrShape (b : List Nat) (k : Nat) : Word :=
  let w := hdr b (16 + 4 * k) 4
  if nbit (hdr b 8 8) k then shapeWord (nfld w 0 8 + 1) (nfld w 8 14 + 1) (nfld w 24 8) else 0

/-- The word that TILE_STATk becomes. -/
def hdrStat (b : List Nat) (k : Nat) : Word :=
  BitVec.ofNat 64 (hdr b (288 + k) 1 + b2n (nbit (hdr b 280 8) k) <<< 8 + b2n (nbit (hdr b 272 8) k) <<< 9)

/-- The header's conditions of R136. -/
def saveImageOk (b : List Nat) : Bool :=
  let live := hdr b 8 8
  hdr b 0 4 == 0x53545A43 && hdr b 4 2 == 1 && hdr b 352 160 == 0 && hdr b 6 2 == popcount 64 live &&
  (List.range 64).all (fun k =>
    let h := shapeOf (hdrShape b k)
    if nbit live k then validFmt h.fmt && h.fits else hdr b (16 + 4 * k) 4 == 0)

/-- L of a TILE_RESTORE as its image stands in memory: COUNT of the header, and 0 for a header that R136 refuses, since
then no tile is restored (log entry 75). -/
def imageCount (s : State) (f : Frond) : Nat :=
  let d := slotOf f 0
  let b := (bytesAt s (d.startAt 0) 512).map BitVec.toNat
  if d.elems < 512 || !saveImageOk b then 0 else hdr b 6 2

/-- L of a save or restore, at least one unit. -/
def imageTiles (s : State) (f : Frond) (sh : Nat → Word) : Nat :=
  if opcodeOf f = 0x333 then (liveTiles (vblockOf f) sh).length else min 64 (imageCount s f)

def specTile (f : Frond) : OpSpec :=
  let o := opcodeOf f
  let src := if o = 0x331 ∨ o = 0x334 then [0] else []
  let dst := if o = 0x332 ∨ o = 0x333 then [3] else []
  let b := streamSpec f src dst
  { b with
    form := tileForm f
    check := fun _ => firstFail [(!slotsGood f, .skipIllegal)]
    late := tileLate f
    stiles := if o = 0x332 then [tileOf f] else []
    dtiles := if o = 0x330 ∨ o = 0x331 then [tileOf f] else []
    latency := fun s sh g rep =>
      if o = 0x330 then (if tileKeep f || tileFree f then 4 else 8)
      else if o = 0x331 ∨ o = 0x332 then
        streamTime s g rep 8 (ceilDiv (shapeOf (sh (tileOf f))).bytes 2048) b.range src dst (fun _ => none)
      else streamTime s g rep 10 (4 * imageTiles s f sh) b.range src dst (fun _ => none)
    replay := fun _ => 4
    engines := [vblockEngine f]
    units := fun s sh =>
      if o = 0x330 then 1
      else if o = 0x331 ∨ o = 0x332 then (shapeOf (sh (tileOf f))).rows
      else max 1 (imageTiles s f sh) }

/-! ### TILE_SHAPE, TILE_LOAD, TILE_STORE -/

/-- TILE_SHAPE takes effect. -/
def shapeUnit (r : Run) : Run :=
  let f := r.fr
  let k := tileOf f
  r.gate (tileLate f) true (fun x =>
    if tileFree f then x.up (fun s => setReg s (rTileShapeOf k) 0)
    else
      let y := x.up (fun s => setReg s (rTileShapeOf k) (tileShapeWord f))
      if tileKeep f then y else (y.up (zeroTile k)).noteTile k)

/-- A held load or store goes on from its tile's NEXT_ROW (R143, R145, log entry 76). -/
def Run.fromNextRow (r : Run) (k : Nat) : Run :=
  if r.fr.pend = 1 then { r with fr := { r.fr with pend := 2, unit := regF r.st (rTileStatOf k) 0 8 } } else r

/-- One row of a load or store, element by element. -/
def rowUnit (elem : Nat → Nat → Run → Run) (r : Run) : Run :=
  let f := r.fr
  let k := tileOf f
  r.gate (tileLate f) true (fun x0 =>
    let x := x0.fromNextRow k
    let n := (shapeOf (shapesNow x.st k)).cols
    forWhile (fun y => !y.ok) (x.fr.unit * n) n (elem k) x)

/-- TILE_LOAD of element `e`. -/
def loadElem (k e : Nat) (r : Run) : Run :=
  let v := r.rd (slotOf r.fr 0) e
  v.2.wrTile k e v.1

/-- TILE_STORE of element `e`. -/
def storeElem (k e : Nat) (r : Run) : Run :=
  let v := r.rdTile k e
  v.2.wr (slotOf r.fr 3) e v.1

/-! ### TILE_SAVE (R139) -/

/-- Bit `i` of a 64-bit map from a test of tile `i` of a V-block. -/
def tileMap (v : Nat) (p : Nat → Bool) : Nat := forRange 0 64 (fun k a => a + b2n (p (v + k)) <<< k) 0

/-- The 512 bytes of a V-block's save image header. -/
def imageHeader (s : State) (v : Nat) : List Byte :=
  let live := liveTiles v (shapesNow s)
  let each (n : Nat) (g : Nat → Nat) : List Byte := ((List.range 64).map (fun k => leBytes n (g (v + k)))).flatten
  leBytes 4 0x53545A43 ++ leBytes 2 1 ++ leBytes 2 live.length ++
  leBytes 8 (tileMap v (fun k => (shapeOf (shapesNow s k)).live)) ++
  each 4 (fun k => fld (shapesNow s k) 0 32 * b2n (shapeOf (shapesNow s k)).live) ++
  leBytes 8 (tileMap v (tilePoisoned s)) ++
  leBytes 8 (tileMap v (fun k => regB s (rTileStatOf k) 8)) ++
  each 1 (fun k => regF s (rTileStatOf k) 0 8) ++ leBytes 160 0

/-- Bytes written through slot 3 from element `e` on. -/
def Run.putImage (r : Run) (e : Nat) (l : List Byte) : Run :=
  let d := slotOf r.fr 3
  (l.foldl (fun (p : Nat × Run) v => (p.1 + 1, p.2.wr d p.1 v.toNat)) (e, r)).2

/-- The bytes of a tile. -/
def tileBytes (s : State) (k : Nat) : List Byte := (List.range 8192).map (tileByte s k)

/-- One live tile of a TILE_SAVE; the first unit writes the header. -/
def saveUnit (r : Run) : Run :=
  let f := r.fr
  let v := vblockOf f
  r.gate (tileLate f) false (fun x =>
    let live := liveTiles v (shapesNow x.st)
    let y := if f.unit = 0 then { x with fr := { x.fr with units := max 1 live.length } }.putImage 0 (imageHeader x.st v) else x
    match live[f.unit]? with
    | some k => (y.taint (tilePoisoned y.st k)).putImage (512 + 8192 * f.unit) (tileBytes y.st k)
    | none => y)

/-! ### TILE_RESTORE (R136, R140) -/

/-- Bytes read through slot 0 from element `e` on. -/
def Run.getImage (r : Run) (e n : Nat) : List Nat × Run :=
  forWhile (fun p => !p.2.ok) e n (fun i p => let v := p.2.rd (slotOf r.fr 0) i; (p.1 ++ [v.1], v.2)) ([], r)

/-- A tile takes the state that an image records for it. -/
def restoreState (v : Nat) (b : List Nat) (k : Nat) (s : State) : State :=
  setReg (setReg s (rTileShapeOf (v + k)) (hdrShape b k)) (rTileStatOf (v + k)) (hdrStat b k)

/-- The header of the image is read and checked, and the tiles that are not live in it take their state. -/
def restoreFirst (r : Run) : Run :=
  let f := r.fr
  let v := vblockOf f
  let d := slotOf f 0
  if d.elems < 512 then r.halt .skipShape
  else
    let h := r.getImage 0 512
    if !h.2.ok then h.2
    else if !saveImageOk h.1 then h.2.halt .skipIllegal
    else if d.elems < 512 + 8192 * hdr h.1 6 2 then h.2.halt .skipShape
    else
      let live := (List.range 64).filter (nbit (hdr h.1 8 8))
      let dead := (List.range 64).filter (fun k => !nbit (hdr h.1 8 8) k)
      { h.2 with fr := { h.2.fr with buf := h.1, units := max 1 live.length, dtiles := live.map (fun k => v + k) } }.up
        (fun s => dead.foldl (fun y k => restoreState v h.1 k y) s)

/-- One live tile of a TILE_RESTORE. -/
def restoreUnit (r : Run) : Run :=
  let f := r.fr
  let v := vblockOf f
  r.gate (tileLate f) false (fun x0 =>
    let x := if f.unit = 0 then restoreFirst x0 else x0
    match x.fr.dtiles[f.unit]? with
    | some k =>
      let l := x.getImage (512 + 8192 * f.unit) 8192
      (l.2.up (fun s => restoreState v x.fr.buf (k - v) (setTileBytes k 0 (l.1.map (BitVec.ofNat 8)) s))).noteTile k
    | none => x)

/-! ### The commands -/

/-- TILE_SHAPE (R134–R138). -/
def execTileShape (f : FrondRef) (n : Nat) (s : State) : Answer := runFrond 0x330 shapeUnit f n s

/-- TILE_LOAD (R134–R137, R143). -/
def execTileLoad (f : FrondRef) (n : Nat) (s : State) : Answer := runFrond 0x331 (rowUnit loadElem) f n s

/-- TILE_STORE (R134–R137, R143). -/
def execTileStore (f : FrondRef) (n : Nat) (s : State) : Answer := runFrond 0x332 (rowUnit storeElem) f n s

/-- TILE_SAVE (R139). -/
def execTileSave (f : FrondRef) (n : Nat) (s : State) : Answer := runFrond 0x333 saveUnit f n s

/-- TILE_RESTORE (R140). -/
def execTileRestore (f : FrondRef) (n : Nat) (s : State) : Answer := runFrond 0x334 restoreUnit f n s

/-- 4,096 bt after a suspension the row in flight of a held load or store is discarded: NEXT_ROW points to it and
PENDING is set (R145). -/
def execTileSuspendDiscard (f : FrondRef) (s : State) : Answer :=
  effect s (match findFrond s f with
    | some g =>
      if g.held && g.phase == .working && (opcodeOf g == 0x331 || opcodeOf g == 0x332) && g.pend != 1 then
        pendAt (advanceTo s (g.ended + 4096)) { g with grants := [], parked := none, page := none }
      else s
    | none => s)

end Sys2Proof.Machine
end

