-- ==== Sys2Proof/Machine/Operand.lean ====
section
/-! DEFINITION. The operands of V-block fronds: selectors, views, format and count rules, and the terms of their class
latency (R327–R330, R342, R343, R346, R364–R366). -/

namespace Sys2Proof.Machine
open Sys2Proof

/-- Where an operand comes from (R327). -/
inductive Opnd where
  | none
  | slot (i : Nat)
  | tile (k : Nat)
  | imm (v : Nat)
deriving DecidableEq, Repr

/-- KIND and INDEX of the selector of operand `i`: 0 A, 1 B, 2 C, 3 D. -/
def selKind (f : Frond) (i : Nat) : Nat := parF f 1 (8 * i + 6) 2
def selIndex (f : Frond) (i : Nat) : Nat := parF f 1 (8 * i) 6

/-- The immediate of B or C (R328, R342). -/
def immOf (f : Frond) (i : Nat) : Nat := if i = 1 then par f 3 + parF f 5 0 4 * 2 ^ 32 else par f 4

def opndOf (f : Frond) (i : Nat) : Opnd :=
  if selKind f i = 1 then .slot i else if selKind f i = 2 then .tile (vblockOf f + selIndex f i)
  else if selKind f i = 3 then .imm (immOf f i) else .none

/-- What an opcode asks of one operand. -/
structure Need where
  use : Bool
  /-- It has the shared format F. -/
  f : Bool
  /-- Formats it may have, beside F where `f` holds. -/
  also : List Nat
  /-- It may be an immediate, of this format, 0 for F. -/
  imm : Option Nat
deriving DecidableEq, Repr

def Need.none : Need := ⟨false, false, [], Option.none⟩
def Need.shared : Need := ⟨true, true, [], Option.none⟩
def Need.one (l : List Nat) : Need := ⟨true, false, l, Option.none⟩
/-- It may be an immediate of a format, 0 for F. -/
def Need.orImm (n : Need) (m : Nat) : Need := { n with imm := some m }
/-- It is used only under a condition. -/
def Need.if (n : Need) (b : Bool) : Need := if b then n else Need.none

/-- The operand rules of an opcode. A format or count is unknown at decode where a tile gives it. -/
structure Rules where
  needs : List Need
  allowed : List Nat
  /-- Fields in range, and the further conditions on F. -/
  fields : Option Nat → Bool
  /-- The counts that operands have. -/
  counts : (Nat → Option Nat) → Option Nat → Bool
  /-- RES36 operands are possible, with LIMBS and PRIME_FIRST in word 2. -/
  res : Bool
  /-- Operands read and written in place, beside D. -/
  inout : List Nat
  /-- Slots whose bytes count twice in Sr. -/
  twice : List Nat
  /-- Sources to which slot 3 may be identical. -/
  same : List Nat

def Rules.need (v : Rules) (i : Nat) : Need := v.needs.getD i Need.none

/-- A condition on a value that may be unknown, on two, and on two that have to be equal. -/
def ifKnown (a : Option Nat) (p : Nat → Bool) : Bool := match a with | some x => p x | none => true
def ifBoth (a b : Option Nat) (p : Nat → Nat → Bool) : Bool := ifKnown a (fun x => ifKnown b (fun y => p x y))
def eqKnown (a b : Option Nat) : Bool := ifBoth a b (fun x y => x == y)

/-- The format of an operand that is a slot, or a tile under given shapes. -/
def opFmt (f : Frond) (sh : Option (Nat → Word)) (i : Nat) : Option Nat :=
  match opndOf f i with
  | .slot j => some (slotOf f j).fmt
  | .tile k => sh.map (fun h => (shapeOf (h k)).fmt)
  | _ => none

/-- The number of elements of its view (R328). -/
def opCount (f : Frond) (sh : Option (Nat → Word)) (i : Nat) : Option Nat :=
  match opndOf f i with
  | .slot j => some (slotOf f j).elems
  | .tile k => sh.map (fun h => (shapeOf (h k)).count)
  | _ => none

/-- F, where an operand that has to have it is known. -/
def sharedFmt (v : Rules) (f : Frond) (sh : Option (Nat → Word)) : Option Nat :=
  [0, 1, 2, 3].findSome? (fun i =>
    if (v.need i).use && (v.need i).f && (v.need i).also.isEmpty then opFmt f sh i else none)

/-- Selector kinds and slot roles (R327). -/
def kindsOk (v : Rules) (f : Frond) : Bool :=
  [0, 1, 2, 3].all (fun i =>
    let n := v.need i
    let k := selKind f i
    (if n.use then k == 1 || k == 2 || (k == 3 && n.imm.isSome) else k == 0) &&
      (k == 1) == !(slotOf f i).empty)

/-- Every format that is known is one the opcode allows. -/
def formatsOk (v : Rules) (f : Frond) (sh : Option (Nat → Word)) : Bool :=
  let g := sharedFmt v f sh
  [0, 1, 2, 3].all (fun i =>
    let n := v.need i
    ifKnown (opFmt f sh i) (fun m =>
      n.also.contains m || (n.f && v.allowed.contains m && ifKnown g (fun x => x == m))))

/-- The format that an immediate is read in. -/
def immFmt (v : Rules) (f : Frond) (sh : Option (Nat → Word)) (i : Nat) : Option Nat :=
  match (v.need i).imm with
  | some 0 => sharedFmt v f sh
  | some m => some m
  | none => none

/-- Bits of immediates above their format's width are 0, where it is known. -/
def immsFit (v : Rules) (f : Frond) (sh : Option (Nat → Word)) : Bool :=
  [1, 2].all (fun i => selKind f i != 3 || ifKnown (immFmt v f sh i) (fun m => decide (immOf f i < 2 ^ fmtBits m)))

/-- LIMBS and PRIME_FIRST (R342). -/
def limbsOf (f : Frond) : Nat := parF f 2 8 7
def primeFirst (f : Frond) : Nat := parF f 2 0 7

/-- LIMBS is given exactly with RES36 operands. -/
def limbsOk (v : Rules) (f : Frond) (sh : Option (Nat → Word)) : Bool :=
  !v.res || match sharedFmt v f sh with
  | some m => (m == 0x10) == (limbsOf f != 0)
  | none => limbsOf f == 0 || v.allowed.contains 0x10

/-- Slot `i` holds an operand that the frond writes. -/
def writesOp (v : Rules) (i : Nat) : Bool := i == 3 || v.inout.contains i

/-- Slot destinations overlap other slots (R343, R366). -/
def opsOverlap (s : State) (v : Rules) (f : Frond) : Bool :=
  let range := fun i => (slotOf f i).posRange
  [0, 1, 2, 3].any (fun i => writesOp v i && [0, 1, 2, 3].any (fun j =>
    j != i && slotsOverlap s f range i j && !(i == 3 && v.same.contains j && sameSlot f 3 j)))

/-- A tile operand has no shape. -/
def deadTile (f : Frond) (sh : Nat → Word) : Bool :=
  [0, 1, 2, 3].any (fun i => match opndOf f i with
    | .tile k => !(shapeOf (sh k)).live
    | _ => false)

/-- The counts of every operand that is known, at most the limit of R343. -/
def countsOk (v : Rules) (f : Frond) (sh : Option (Nat → Word)) : Bool :=
  v.counts (opCount f sh) (sharedFmt v f sh) &&
    [0, 1, 2, 3].all (fun i => ifKnown (opCount f sh i) (fun n => decide (n ≤ 67107840)))

/-- The decode checks, in order (R343, R366). -/
def opsCheck (v : Rules) (f : Frond) (s : State) : Option Status :=
  firstFail
    [ (!kindsOk v f || !v.fields (sharedFmt v f none) || !formatsOk v f none || !immsFit v f none || !limbsOk v f none ||
        !slotsGood f, .skipIllegal),
      (v.res && (decide (80 < primeFirst f + limbsOf f) ||
        (List.range (limbsOf f)).any (fun j => !primeLoaded s (primeFirst f + j))), .skipParam),
      (!countsOk v f none, .skipShape),
      (opsOverlap s v f, .skipOverlap) ]

/-- The acceptance checks (R343, R366), tested again under R516. -/
def opsLate (v : Rules) (f : Frond) (_ : State) (sh : Nat → Word) : Option Status :=
  let h := some sh
  firstFail
    [ (deadTile f sh || !v.fields (sharedFmt v f h) || !formatsOk v f h || !limbsOk v f h || !countsOk v f h, .skipShape),
      (opcodeOf f == 0x321 && (match opndOf f 0, opndOf f 3 with | .tile a, .tile b => a == b | _, _ => false), .skipOverlap),
      (!immsFit v f h, .skipIllegal) ]

/-! ### Terms of the class latency (R345, R346) -/

/-- Slots that a frond reads, and writes. -/
def opSlots (f : Frond) (l : List Nat) : List Nat := l.filter (fun i => selKind f i == 1)

/-- Tiles of a list of operands. -/
def opTiles (f : Frond) (l : List Nat) : List Nat :=
  (l.filter (fun i => selKind f i == 2)).map (fun i => vblockOf f + selIndex f i)

/-- S of R346, from its compute term. -/
def opsSize (v : Rules) (f : Frond) (sh : Nat → Word) (compute : Nat) : Nat :=
  let range := fun i => (slotOf f i).posRange
  let tiles := (opTiles f ([0, 1, 2, 3] ++ v.inout)).map (fun k => (shapeOf (sh k)).bytes)
  let reads := (opSlots f ([0, 1, 2] ++ v.twice)).map (slotBytes f range)
  let writes := (opSlots f (3 :: v.inout)).map (slotBytes f range)
  max (max compute (ceilDiv tiles.sum 2048)) (max (ceilDiv reads.sum 2048) (ceilDiv writes.sum 2048))

/-- The widest width among the operands, RES36 the widest (R325). -/
def widest (f : Frond) (sh : Nat → Word) : Nat := maxOf ([0, 1, 2, 3].map (fun i => fmtBits ((opFmt f (some sh) i).getD 0)))

/-- Elements per work beat at the full rate of a width (R345). -/
def fullRate (w : Nat) : Nat := if w = 36 then 128 else if w = 32 then 256 else if w = 16 then 512 else 1024

/-- The specification of a frond with these rules. -/
def opsSpec (v : Rules) (f : Frond) (form : Bool) (fixed compute : (Nat → Word) → Nat) (cost : Nat)
    (units : (Nat → Word) → Nat) : OpSpec :=
  let src := opSlots f [0, 1, 2]
  let b := streamSpec f src (opSlots f (3 :: v.inout))
  { b with
    form := form
    check := opsCheck v f
    late := opsLate v f
    stiles := opTiles f [0, 1, 2]
    dtiles := opTiles f (3 :: v.inout)
    latency := fun s sh g rep =>
      streamTime s g rep (fixed sh) (opsSize v f sh (compute sh)) b.range src (opSlots f [3]) (fun _ => none)
    replay := fun _ => cost
    engines := [vblockEngine f]
    units := fun _ sh => units sh }

/-! ### Elements -/

/-- Element `e` of an operand. -/
def Run.rdOp (r : Run) (o : Opnd) (e : Nat) : Nat × Run :=
  match o with
  | .slot i => r.rd (slotOf r.fr i) e
  | .tile k => r.rdTile k e
  | .imm v => (v, r)
  | .none => (0, r)

/-- Elements `lo` to `lo + n - 1` of an operand. -/
def Run.rdOps (r : Run) (o : Opnd) (lo n : Nat) : List Nat × Run :=
  forWhile (fun p => !p.2.ok) lo n (fun e p => let v := p.2.rdOp o e; (p.1 ++ [v.1], v.2)) ([], r)

/-- Element `e` of a destination operand. -/
def Run.wrOp (r : Run) (o : Opnd) (e v : Nat) : Run :=
  match o with
  | .slot i => r.wr (slotOf r.fr i) e v
  | .tile k => r.wrTile k e v
  | _ => r

/-- Elements of a destination operand from `lo` on. -/
def Run.wrOps (r : Run) (o : Opnd) (lo : Nat) (l : List Nat) : Run :=
  (l.foldl (fun (p : Nat × Run) v => (p.1 + 1, p.2.wrOp o p.1 v)) (lo, r)).2

/-- Element `e` of a destination operand is left as it is. -/
def Run.skipOp (r : Run) (o : Opnd) (e : Nat) : Run :=
  match o with
  | .tile k => r.skipTile k e
  | _ => r

/-- The format of an operand of a frond at work. -/
def Run.fmtOf (r : Run) (i : Nat) : Nat := (opFmt r.fr (some (shapesNow r.st)) i).getD 0

/-- The number of elements of its view. -/
def Run.countOf (r : Run) (i : Nat) : Nat := (opCount r.fr (some (shapesNow r.st)) i).getD 0

/-- Counters of the V-block (R347, R369). -/
def vbReg (f : Frond) (o : Nat) : Nat := rVb f.region (parF f 0 0 2) o

end Sys2Proof.Machine
end

