-- ==== Sys2Proof/Machine/Vec.lean ====
section
/-! DEFINITION. The vector engine: element-wise work, comparisons, selections, bit operations, residue arithmetic,
permutations, broadcasts and reductions (R325–R347). -/

namespace Sys2Proof.Machine
open Sys2Proof

/-! ### Fields (R342) -/

def vSat (f : Frond) : Bool := nbit (par f 0) 2
def vMask (f : Frond) : Bool := nbit (par f 0) 3
def vZero (f : Frond) : Bool := nbit (par f 0) 4
def vFunc (f : Frond) : Nat := parF f 0 8 4
def vGroup (f : Frond) : Nat := 2 ^ parF f 0 12 4
def vAmount (f : Frond) : Nat := parF f 2 16 16
def vSeg (f : Frond) : Nat := parF f 5 8 24 + 1

/-- Opcodes by kind. -/
def vReduces (o : Nat) : Bool := [0x400, 0x401, 0x402, 0x403].contains o
def vMaskable (o : Nat) : Bool := [0x300, 0x301, 0x302, 0x304, 0x305, 0x306, 0x307, 0x308, 0x309, 0x30A, 0x30C, 0x30D, 0x310, 0x311, 0x312].contains o
def vElementWise (o : Nat) : Bool := !vReduces o && o != 0x320 && o != 0x321
def vNamesSat (o : Nat) : Bool := [0x300, 0x301, 0x302, 0x303, 0x308, 0x306, 0x307, 0x400, 0x30D].contains o
def vNamesFunc (o : Nat) : Bool := [0x30A, 0x30C, 0x30D, 0x320, 0x321].contains o

/-- Fields that the opcode does not name are 0 (R342). -/
def vecForm (f : Frond) : Bool :=
  let o := opcodeOf f
  parF f 0 5 3 == 0 && parF f 0 16 16 == 0 && parF f 2 7 1 == 0 && parF f 2 15 1 == 0 && parF f 5 4 4 == 0 && arithWord f &&
  (vNamesSat o || !vSat f) && (vMaskable o || (!vMask f && !vZero f)) && (vNamesFunc o || vFunc f == 0) &&
  (o == 0x320 || parF f 0 12 4 == 0) && ((o == 0x320 && vFunc f == 1) || vAmount f == 0) &&
  (vReduces o || vSeg f == 1) && (selKind f 1 == 3 || (par f 3 == 0 && parF f 5 0 4 == 0)) &&
  (selKind f 2 == 3 || par f 4 == 0) && decide (limbsOf f ≤ 64) && (limbsOf f != 0 || primeFirst f == 0) &&
  [0, 1, 2, 3].all (fun i => selKind f i == 2 || selIndex f i == 0)

/-! ### Operand rules (R329, R333, R337, R338, R343) -/

def floatFmts : List Nat := [1, 2, 3, 4, 5]
def arithFmts : List Nat := [1, 2, 3, 4, 5, 8, 9, 0xA, 0xB]
def anyFmts : List Nat := [1, 2, 3, 4, 5, 8, 9, 0xA, 0xB, 0xC, 0x10, 0x18]

/-- Formats allowed for F. -/
def vAllowed (o : Nat) : List Nat :=
  if o = 0x306 ∨ o = 0x307 then [1, 2, 3, 4, 5, 8, 9, 0xA]
  else if o = 0x309 then floatFmts
  else if o = 0x30A ∨ o = 0x400 then arithFmts ++ [0x10]
  else if o = 0x30B then arithFmts ++ [0xC, 0x10]
  else if o = 0x30C then [8, 9, 0xA, 0xB, 0xC, 0x18]
  else if o = 0x30D then [8, 9, 0xA, 0xB]
  else if o = 0x310 ∨ o = 0x311 ∨ o = 0x312 then [0x10]
  else if o = 0x320 then anyFmts
  else if o = 0x321 then arithFmts ++ [0xC, 0x18]
  else arithFmts

/-- What each operand has to be. -/
def vNeeds (f : Frond) : List Need :=
  let o := opcodeOf f
  let fOrImm := Need.shared.orImm 0
  let b : Need :=
    if o = 0x306 ∨ o = 0x307 ∨ o = 0x309 ∨ o = 0x321 ∨ vReduces o = true then Need.none
    else if o = 0x30C then fOrImm.if (vFunc f != 4)
    else if o = 0x30D then (Need.one [8, 9, 0xA, 0xB]).orImm 8
    else if o = 0x320 then ((Need.one [8]).orImm 8).if (vFunc f == 0)
    else fOrImm
  let mask := (Need.one [0x18]).orImm 0x18
  let c : Need :=
    if o = 0x303 then fOrImm else if o = 0x30B then mask else if vMaskable o then mask.if (vMask f) else Need.none
  let d : Need := if o = 0x30A then Need.one [0x18] else if o = 0x403 then Need.one [8] else Need.shared
  [Need.shared, b, c, d]

/-- FUNC, LOG2G and AMOUNT in range (R333, R335, R337, R338). -/
def vFields (f : Frond) (g : Option Nat) : Bool :=
  let o := opcodeOf f
  if o = 0x30A then
    decide (vFunc f ≤ 7) && ifKnown g (fun m => decide (vFunc f ≤ 5) || isFloat m)
  else if o = 0x30C then decide (vFunc f ≤ 4)
  else if o = 0x30D then decide (vFunc f ≤ 2)
  else if o = 0x320 then
    decide (vFunc f ≤ 4) && decide (1 ≤ parF f 0 12 4) && decide (parF f 0 12 4 ≤ 12) && decide (vAmount f < vGroup f)
  else if o = 0x321 then decide (vFunc f ≤ 1)
  else true

/-- The first of two values that is known. -/
def orKnown (a b : Option Nat) : Option Nat := match a with | some x => some x | none => b

/-- E of the view that limbs divide: a reduction's source. -/
def vElems (f : Frond) (c : Nat → Option Nat) : Option Nat :=
  if vReduces (opcodeOf f) then orKnown (c 0) ((c 3).map (· * vSeg f))
  else if opcodeOf f = 0x321 then c 3
  else orKnown (orKnown (c 0) (c 3)) (if opcodeOf f = 0x320 then none else orKnown (c 1) (c 2))

/-- The counts of R329 and the divisions of R337 to R339. -/
def vCounts (f : Frond) (c : Nat → Option Nat) (g : Option Nat) : Bool :=
  let o := opcodeOf f
  let e := vElems f c
  let limb := ifKnown e (fun n => limbsOf f == 0 || n % limbsOf f == 0)
  let within (k : Nat) : Bool := ifKnown e (fun n => n % k == 0 && (g != some 0x10 || limbsOf f == 0 || n / limbsOf f % k == 0))
  limb &&
  (if vReduces o then within (vSeg f) && ifBoth (c 0) (c 3) (fun a d => a == d * vSeg f)
   else if o = 0x320 then within (vGroup f) && eqKnown (c 0) (c 3) && ifKnown (c 1) (fun n => n == vGroup f)
   else if o = 0x321 then ifBoth (c 0) (c 3) (fun a d => d % a == 0)
   else [0, 1, 2, 3].all (fun i => eqKnown (c i) e))

def vecRules (f : Frond) : Rules :=
  { needs := vNeeds f, allowed := vAllowed (opcodeOf f), fields := vFields f, counts := vCounts f, res := true, inout := [], twice := [],
    same := if vElementWise (opcodeOf f) then [0, 1, 2] else [] }

/-! ### Rates and latency (R345, R346) -/

/-- R, elements per work beat. -/
def vRate (f : Frond) (g w : Nat) : Nat :=
  let o := opcodeOf f
  let strict := nbit (par f 6) 0 && isFloat g
  if o = 0x312 then 64
  else if o = 0x308 ∨ o = 0x309 then fullRate w / (if strict then 8 else 4)
  else if strict && [0x300, 0x301, 0x302, 0x303, 0x304, 0x305, 0x30A, 0x400, 0x401, 0x402, 0x403].contains o then fullRate w / 2
  else fullRate w

/-- The least n with x ≤ 2^n. -/
def ceilLog2 (x : Nat) : Nat := if x ≤ 1 then 0 else Nat.log2 (x - 1) + 1

def specVec (f : Frond) : OpSpec :=
  let o := opcodeOf f
  let v := vecRules f
  let fmt (sh : Nat → Word) : Nat := (sharedFmt v f (some sh)).getD 0
  let e (sh : Nat → Word) : Nat := (vElems f (opCount f (some sh))).getD 0
  let fixed (sh : Nat → Word) : Nat :=
    if o = 0x308 ∨ o = 0x309 then 19
    else if o = 0x320 then 11 + ceilDiv (vGroup f * tileBits (fmt sh)) 16384
    else if o = 0x321 then 11
    else if vReduces o then 8 + 2 * ceilLog2 (vSeg f)
    else 8
  let compute (sh : Nat → Word) : Nat :=
    if o = 0x320 ∨ o = 0x321 then ceilDiv (e sh * tileBits (fmt sh)) 16384
    else ceilDiv (e sh) (vRate f (fmt sh) (widest f sh))
  opsSpec v f (vecForm f) fixed compute (if o = 0x308 ∨ o = 0x309 then 16 else if vReduces o then 8 else 4)
    (fun sh => ceilDiv ((opCount f (some sh) 3).getD 0) 1024)

/-! ### Integer results (R332, R336) -/

/-- An exact integer result wrapped or saturated. -/
def intFin (fmt : Nat) (sat : Bool) (v : Int) : Flagged Nat :=
  let n := fmtBits fmt
  if v < intMin fmt then (if sat then (wrapInt n (intMin fmt), fSaturated) else (wrapInt n v, fIntOvf))
  else if intMax fmt < v then (if sat then (wrapInt n (intMax fmt), fSaturated) else (wrapInt n v, fIntOvf))
  else (wrapInt n v, 0)

/-- Integer division (R332, R336). -/
def intDiv (fmt : Nat) (a : Arith) (x y : Int) (r16 : Nat) : Flagged Nat :=
  if y = 0 then (wrapInt (fmtBits fmt) (if 0 < x then intMax fmt else if x < 0 then intMin fmt else 0), fDivZero)
  else
    let neg := decide (x < 0) != decide (y < 0) && x != 0
    let k := roundInt a neg ⟨x.natAbs, y.natAbs, 0, false⟩ r16
    let z := intFin fmt a.sat k.1
    (z.1, z.2 + flagIf (k.2 && a.strict) fInexact)

/-- The integer element-wise opcodes. -/
def ewInt (o fmt : Nat) (a : Arith) (x y z : Int) (r16 : Nat) : Flagged Nat :=
  if o = 0x300 then intFin fmt a.sat (x + y)
  else if o = 0x301 then intFin fmt a.sat (x - y)
  else if o = 0x302 then intFin fmt a.sat (x * y)
  else if o = 0x303 then intFin fmt a.sat (x * y + z)
  else if o = 0x304 then intFin fmt a.sat (min x y)
  else if o = 0x305 then intFin fmt a.sat (max x y)
  else if o = 0x306 then intFin fmt a.sat x.natAbs
  else if o = 0x307 then intFin fmt a.sat (-x)
  else intDiv fmt a x y r16

/-! ### Float results (R331, R336) -/

def numNeg : Num → Num
  | .nan => .nan
  | .inf s => .inf (!s)
  | .fin s m => .fin (!s) m

def numAbs : Num → Num
  | .nan => .nan
  | .inf _ => .inf false
  | .fin _ m => .fin false m

/-- The lesser of two values, −0 below +0; a NaN wins. -/
def numMin (x y : Num) : Num :=
  match x, y with
  | .nan, _ => .nan
  | _, .nan => .nan
  | _, _ => if numLt true y x then y else x

/-- The greater of two values. -/
def numMax (x y : Num) : Num :=
  match x, y with
  | .nan, _ => .nan
  | _, .nan => .nan
  | _, _ => if numLt true x y then y else x

/-- The exact result of a float element-wise opcode on values that have been read. -/
def ewNum (o : Nat) (a : Arith) (x y z : Num) : Flagged Num :=
  if o = 0x300 then numAdd a x y
  else if o = 0x301 then numAdd a x (numNeg y)
  else if o = 0x302 then numMul x y
  else if o = 0x303 then
    let p := numMul x y
    let s := numAdd a p.1 z
    (s.1, p.2 ||| s.2)
  else if o = 0x304 then (numMin x y, 0)
  else if o = 0x305 then (numMax x y, 0)
  else if o = 0x306 then (numAbs x, 0)
  else if o = 0x307 then (numNeg x, 0)
  else if o = 0x308 then numDiv x y
  else numSqrt x

/-- How many of A, B and C a float element-wise opcode reads. -/
def ewArity (o : Nat) : Nat := if o = 0x303 then 3 else if o = 0x306 ∨ o = 0x307 ∨ o = 0x309 then 1 else 2

/-- The float element-wise opcodes: ABS and NEG change only the sign, so SAT does not reach an infinity. -/
def ewFloat (o fmt : Nat) (a : Arith) (x y z r16 : Nat) : Flagged Nat :=
  let unread : Flagged Num := (.zero false, 0)
  let u := readFloat fmt a.strict x
  let v := if 2 ≤ ewArity o then readFloat fmt a.strict y else unread
  let w := if 3 ≤ ewArity o then readFloat fmt a.strict z else unread
  let t := ewNum o a u.1 v.1 w.1
  let b := writeFloat fmt (if o = 0x306 ∨ o = 0x307 then { a with sat := false } else a) t.1 r16
  (b.1, u.2 ||| v.2 ||| w.2 ||| t.2 ||| b.2)

/-! ### CMP, LOGIC, SHIFT (R333, R335) -/

/-- A predicate on two comparable values. -/
def cmpPred (p : Nat) (lt eq : Bool) : Bool :=
  if p = 0 then eq else if p = 1 then !eq else if p = 2 then lt else if p = 3 then lt || eq
  else if p = 4 then !(lt || eq) else if p = 5 then !lt else p == 6

/-- CMP. −0 equals +0. -/
def ewCmp (p fmt : Nat) (strict : Bool) (q x y : Nat) : Flagged Nat :=
  if isFloat fmt then
    let u := readFloat fmt strict x
    let v := readFloat fmt strict y
    let un := u.1 == .nan || v.1 == .nan
    let lt := numLt false u.1 v.1
    let res := if un then p == 1 || p == 7 else cmpPred p lt (!lt && !numLt false v.1 u.1)
    (b2n res, u.2 ||| v.2 ||| flagIf (un && decide (2 ≤ p) && decide (p ≤ 5)) fInvalid)
  else if fmt = 0x10 then
    let u := readRes q x
    let v := readRes q y
    (b2n (cmpPred p (decide (u.1 < v.1)) (u.1 == v.1)), u.2 ||| v.2)
  else
    let u := readInt fmt x
    let v := readInt fmt y
    (b2n (cmpPred p (decide (u < v)) (u == v)), 0)

/-- LOGIC. -/
def ewLogic (p fmt x y : Nat) : Nat :=
  let m := 2 ^ fmtBits fmt
  let nx := m - 1 - x % m
  let ny := m - 1 - y % m
  (if p = 0 then x &&& y else if p = 1 then x ||| y else if p = 2 then x ^^^ y else if p = 3 then x &&& ny else nx) % m

/-- SHIFT by an unsigned amount. -/
def ewShift (p fmt x n : Nat) : Nat :=
  let w := fmtBits fmt
  if p = 0 then (if w ≤ n then 0 else x * 2 ^ n % 2 ^ w)
  else if p = 1 then (if w ≤ n then 0 else x % 2 ^ w / 2 ^ n)
  else
    let neg := nbit x (w - 1)
    if w ≤ n then (if neg then 2 ^ w - 1 else 0) else wrapInt w (sext w x / (2 ^ n : Int))

/-! ### One element of an element-wise frond -/

/-- The prime of element `e` of a RES36 view (R329). -/
def elemPrime (s : State) (f : Frond) (total e : Nat) : Nat := primeQ s (primeFirst f + e / (total / limbsOf f))

/-- The residue opcodes and SELECT on residues (R334, R336). -/
def ewRes (o q x y z : Nat) : Flagged Nat :=
  let u := readRes q x
  let v := readRes q y
  let r := if o = 0x310 then (u.1 + v.1) % q else if o = 0x311 then (u.1 + q - v.1) % q
    else if o = 0x312 then u.1 * v.1 % q else if nbit z 0 then u.1 else v.1
  (r, u.2 ||| v.2)

/-- The result of an element-wise opcode for raw operands, with its flags. -/
def ewValue (f : Frond) (fmt bw q x y z r16 : Nat) : Flagged Nat :=
  let o := opcodeOf f
  let a := arithOf f (vSat f)
  if o = 0x30A then ewCmp (vFunc f) fmt a.strict q x y
  else if o = 0x30C then (ewLogic (vFunc f) fmt x y, 0)
  else if o = 0x30D then (ewShift (vFunc f) fmt x (y % 2 ^ bw), 0)
  else if fmt = 0x10 then ewRes o q x y z
  else if o = 0x30B then (if nbit z 0 then x else y, 0)
  else if isFloat fmt then ewFloat o fmt a x y z r16
  else ewInt o fmt a (readInt fmt x) (readInt fmt y) (readInt fmt z) r16

/-- Element `e`: its sources are read before it is written, and an inactive one is zero or left (R330, R344). -/
def ewElem (total fmt bw e : Nat) (r : Run) : Run :=
  let f := r.fr
  let x := r.rdOp (opndOf f 0) e
  let y := x.2.rdOp (opndOf f 1) e
  let z := y.2.rdOp (opndOf f 2) e
  let d := opndOf f 3
  if vMaskable (opcodeOf f) && vMask f && !nbit z.1 0 then
    let m := z.2.up (fun s => bump s (vbReg f 0x10) 1)
    if vZero f then (m.wrOp d e 0).up (fun s => bumpUnits s (vbReg f 8) 10 1) else m.skipOp d e
  else
    let a := arithOf f false
    let w := ewValue f fmt bw (elemPrime z.2.st f total e) x.1 y.1 z.1 (drawOf z.2.fr a e)
    ((z.2.flag w.2).wrOp d e w.1).up (fun s => bumpUnits s (vbReg f 8) 10 1)

/-- The format that operand B is read in. -/
def bFormat (v : Rules) (r : Run) : Nat :=
  if selKind r.fr 1 = 3 then (immFmt v r.fr (some (shapesNow r.st)) 1).getD 0 else r.fmtOf 1

/-- 1,024 elements of an element-wise frond. -/
def ewUnit (r : Run) : Run :=
  let v := vecRules r.fr
  r.gate (opsLate v r.fr) true (fun x =>
    let n := x.countOf 3
    x.each 1024 n (ewElem n (x.fmtOf 0) (fmtBits (bFormat v x))))

/-! ### LANE_PERMUTE and BROADCAST (R334, R337, R338) -/

/-- The source place in its group of destination place `i`, for the fixed permutations. -/
def lanePlace (p g amount i : Nat) : Nat :=
  if p = 1 then (i + amount) % g
  else if p = 2 then g - 1 - i
  else if p = 3 then (if i % 2 = 0 then i / 2 else g / 2 + i / 2)
  else if i < g / 2 then 2 * i else 2 * (i - g / 2) + 1

/-- The source places of a group; a TABLE's clamps are noted. -/
def lanePlaces (r : Run) : List Nat × Run :=
  let f := r.fr
  let g := vGroup f
  if vFunc f = 0 then
    let t := r.rdOps (opndOf f 1) 0 g
    let n := (t.1.filter (fun x => decide ((clampTo g (sext 32 x) : Int) ≠ sext 32 x))).length
    let y := if n = 0 then t.2 else
      { t.2 with fr := { t.2.fr with clamped := true } }.up (fun s => bump s (vbReg f 0x20) n)
    (t.1.map (fun x => clampTo g (sext 32 x)), y)
  else ((List.range g).map (lanePlace (vFunc f) g (vAmount f)), r)

/-- A whole group is read, and its permutation kept for the elements that are written from it (R344). -/
def laneGroup (total fmt e : Nat) (r : Run) : Run :=
  let f := r.fr
  let p := lanePlaces r
  let a := p.2.rdOps (opndOf f 0) e (vGroup f)
  let q := elemPrime a.2.st f total e
  let red : List (Flagged Nat) := a.1.map (fun x => if fmt = 0x10 then readRes q x else (x, 0))
  let y := a.2.flag ((red.map (·.2)).foldl (· ||| ·) 0)
  { y with fr := { y.fr with buf := p.1.map (fun i => (red.getD i (0, 0)).1) } }

/-- Element `e` of a LANE_PERMUTE. -/
def laneElem (total fmt e : Nat) (r0 : Run) : Run :=
  let g := vGroup r0.fr
  let r := if e % g = 0 then laneGroup total fmt e r0 else r0
  (r.wrOp (opndOf r.fr 3) e (r.fr.buf.getD (e % g) 0)).up (fun s => bumpUnits s (vbReg r.fr 8) 10 1)

def laneUnit (r : Run) : Run :=
  r.gate (opsLate (vecRules r.fr) r.fr) true (fun x =>
    let n := x.countOf 3
    x.each 1024 n (laneElem n (x.fmtOf 0)))

/-- Element `e` of a BROADCAST. -/
def broadcastElem (total src e : Nat) (r : Run) : Run :=
  let f := r.fr
  let x := r.rdOp (opndOf f 0) (if vFunc f = 0 then e % src else e / (total / src))
  (x.2.wrOp (opndOf f 3) e x.1).up (fun s => bumpUnits s (vbReg f 8) 10 1)

def broadcastUnit (r : Run) : Run :=
  r.gate (opsLate (vecRules r.fr) r.fr) true (fun x =>
    let n := x.countOf 3
    x.each 1024 n (broadcastElem n (x.countOf 0)))

/-! ### Reductions (R339–R341) -/

/-- One level of the tree: neighbours combined, an odd last one passed up; with the next draw and the flags raised. -/
def treeLevel {α : Type} (op : Nat → α → α → Flagged α) : List α → Nat → List α × Nat × Nat
  | x :: y :: t, k =>
    let z := op k x y
    let u := treeLevel op t (k + 1)
    (z.1 :: u.1, u.2.1, z.2 ||| u.2.2)
  | l, k => (l, k, 0)

/-- The levels of the tree, at most the first argument of them. -/
def treeLevels {α : Type} (op : Nat → α → α → Flagged α) : Nat → List α → Nat → Nat → List α × Nat
  | 0, l, _, fl => (l, fl)
  | n + 1, l, k, fl =>
    let u := treeLevel op l k
    treeLevels op n u.1 u.2.1 (fl ||| u.2.2)

/-- The combination of a segment by the fixed tree (R339); `k` numbers the draws from the leaves up. -/
def treeOf {α : Type} (op : Nat → α → α → Flagged α) (d : α) (l : List α) : Flagged α :=
  let u := treeLevels op (ceilLog2 l.length) l 0 0
  (u.1.headD d, u.2)

/-- A value as it stands once it is written in a format: bits read back, with the flags of the writing. -/
def roundNum (fmt : Nat) (a : Arith) (x : Flagged Num) (r16 : Nat) : Flagged Num :=
  let b := writeFloat fmt a x.1 r16
  ((readFloat fmt true b.1).1, x.2 ||| b.2)

/-- Every element read, with the flags of the reading. -/
def readAll (fmt : Nat) (strict : Bool) (l : List Nat) : List Num × Nat :=
  let v := l.map (readFloat fmt strict)
  (v.map (·.1), (v.map (·.2)).foldl (· ||| ·) 0)

/-- The index of the first element that is greatest. -/
def argMax {α : Type} (lt : α → α → Bool) : List α → Nat → Option (Nat × α) → Nat
  | [], _, best => match best with | some b => b.1 | none => 0
  | x :: t, i, none => argMax lt t (i + 1) (some (i, x))
  | x :: t, i, some b => argMax lt t (i + 1) (if lt b.2 x then some (i, x) else some b)

/-- An order in which a NaN is above every number. -/
def numLtNan (x y : Num) : Bool :=
  match x, y with
  | .nan, _ => false
  | _, .nan => true
  | _, _ => numLt true x y

/-- The result of a reduction over a segment of raw elements; `s` is its number. -/
def reduceSeg (f : Frond) (fmt q s : Nat) (l : List Nat) : Flagged Nat :=
  let o := opcodeOf f
  let a := arithOf f (vSat f)
  if fmt = 0x10 then
    let v := l.map (readRes q)
    ((v.map (·.1)).sum % q, (v.map (·.2)).foldl (· ||| ·) 0)
  else if isFloat fmt then
    let v := readAll fmt a.strict l
    if o = 0x403 then (argMax numLtNan v.1 0 none, v.2)
    else
      let exact := { a with sat := false }
      let t : Flagged Num :=
        if o = 0x400 then
          treeOf (fun k x y => roundNum fmt a (numAdd a x y) (drawOf f a (s * (vSeg f - 1) + k))) (.zero false) v.1
        else if o = 0x401 then treeOf (fun _ x y => (numMax x y, 0)) (.zero false) v.1
        else treeOf (fun _ x y => (numMin x y, 0)) (.zero false) v.1
      ((writeFloat fmt exact t.1 0).1, v.2 ||| t.2)
  else
    let v := l.map (readInt fmt)
    if o = 0x400 then intFin fmt a.sat v.sum
    else if o = 0x403 then (argMax (fun x y : Int => decide (x < y)) v 0 none, 0)
    else
      let h := v.headD 0
      (wrapInt (fmtBits fmt) (if o = 0x401 then v.foldl max h else v.foldl min h), 0)

/-- Segment `s`: read whole, then its result written (R344). -/
def reduceElem (total fmt s : Nat) (r : Run) : Run :=
  let f := r.fr
  let l := r.rdOps (opndOf f 0) (s * vSeg f) (vSeg f)
  let w := reduceSeg l.2.fr fmt (elemPrime l.2.st f total (s * vSeg f)) s l.1
  ((l.2.flag w.2).wrOp (opndOf f 3) s w.1).up (fun x => bumpUnits x (vbReg f 8) 10 1)

def reduceUnit (r : Run) : Run :=
  r.gate (opsLate (vecRules r.fr) r.fr) true (fun x =>
    x.each 1024 (x.countOf 3) (reduceElem (x.countOf 0) (x.fmtOf 0)))

/-! ### The commands -/

/-- ADD (R329–R332). -/
def execAdd (f : FrondRef) (n : Nat) (s : State) : Answer := runFrond 0x300 ewUnit f n s

/-- SUB (R329–R332). -/
def execSub (f : FrondRef) (n : Nat) (s : State) : Answer := runFrond 0x301 ewUnit f n s

/-- MUL (R329–R332). -/
def execMul (f : FrondRef) (n : Nat) (s : State) : Answer := runFrond 0x302 ewUnit f n s

/-- FMA (R329–R332). -/
def execFma (f : FrondRef) (n : Nat) (s : State) : Answer := runFrond 0x303 ewUnit f n s

/-- MIN (R329–R332). -/
def execMin (f : FrondRef) (n : Nat) (s : State) : Answer := runFrond 0x304 ewUnit f n s

/-- MAX (R329–R332). -/
def execMax (f : FrondRef) (n : Nat) (s : State) : Answer := runFrond 0x305 ewUnit f n s

/-- ABS (R329–R332). -/
def execAbs (f : FrondRef) (n : Nat) (s : State) : Answer := runFrond 0x306 ewUnit f n s

/-- NEG (R329–R332). -/
def execNeg (f : FrondRef) (n : Nat) (s : State) : Answer := runFrond 0x307 ewUnit f n s

/-- DIV (R329–R332, R336). -/
def execDiv (f : FrondRef) (n : Nat) (s : State) : Answer := runFrond 0x308 ewUnit f n s

/-- SQRT (R329–R331, R336). -/
def execSqrt (f : FrondRef) (n : Nat) (s : State) : Answer := runFrond 0x309 ewUnit f n s

/-- CMP (R333). -/
def execCmp (f : FrondRef) (n : Nat) (s : State) : Answer := runFrond 0x30A ewUnit f n s

/-- SELECT (R334). -/
def execSelect (f : FrondRef) (n : Nat) (s : State) : Answer := runFrond 0x30B ewUnit f n s

/-- LOGIC (R335). -/
def execLogic (f : FrondRef) (n : Nat) (s : State) : Answer := runFrond 0x30C ewUnit f n s

/-- SHIFT (R335). -/
def execShift (f : FrondRef) (n : Nat) (s : State) : Answer := runFrond 0x30D ewUnit f n s

/-- RADD (R336). -/
def execRadd (f : FrondRef) (n : Nat) (s : State) : Answer := runFrond 0x310 ewUnit f n s

/-- RSUB (R336). -/
def execRsub (f : FrondRef) (n : Nat) (s : State) : Answer := runFrond 0x311 ewUnit f n s

/-- RMUL (R336). -/
def execRmul (f : FrondRef) (n : Nat) (s : State) : Answer := runFrond 0x312 ewUnit f n s

/-- LANE_PERMUTE (R337). -/
def execLanePermute (f : FrondRef) (n : Nat) (s : State) : Answer := runFrond 0x320 laneUnit f n s

/-- BROADCAST (R338). -/
def execBroadcast (f : FrondRef) (n : Nat) (s : State) : Answer := runFrond 0x321 broadcastUnit f n s

/-- RSUM (R339). -/
def execRsum (f : FrondRef) (n : Nat) (s : State) : Answer := runFrond 0x400 reduceUnit f n s

/-- RMAX (R340). -/
def execRmax (f : FrondRef) (n : Nat) (s : State) : Answer := runFrond 0x401 reduceUnit f n s

/-- RMIN (R340). -/
def execRmin (f : FrondRef) (n : Nat) (s : State) : Answer := runFrond 0x402 reduceUnit f n s

/-- RARGMAX (R340). -/
def execRargmax (f : FrondRef) (n : Nat) (s : State) : Answer := runFrond 0x403 reduceUnit f n s

end Sys2Proof.Machine
end

