-- ==== Sys2Proof/Machine/Conv.lean ====
section
/-! DEFINITION. The conversion fronds CONVERT, PACK_INT4 and UNPACK_INT4 (R114–R122). -/

namespace Sys2Proof.Machine
open Sys2Proof

/-- Elements per scale, or nothing where the one scale stands in word 2 (R120). -/
def scaleGroup (f : Frond) : Option Nat := if (slotOf f 1).empty then none else some (2 ^ parF f 1 0 4)

/-- Reserved fields of R119 and R120. -/
def convForm (f : Frond) : Bool :=
  let o := opcodeOf f
  parF f 0 3 29 == 0 && arithWord f && zeroPars f [3, 4, 5] &&
  (if o = 0x600 then parF f 1 7 1 == 0 && parF f 1 15 17 == 0 && par f 2 == 0
   else parF f 1 4 28 == 0 && (!vSat f || (o == 0x602 && isFloat (slotOf f 3).fmt)))

/-- Pairings of R117 and R120, and slot roles. -/
def convPair (f : Frond) : Bool :=
  let o := opcodeOf f
  let a := (slotOf f 0).fmt
  let d := (slotOf f 3).fmt
  fullSlots f [0, 3] && emptySlots f [2] &&
  (if o = 0x600 then emptySlots f [1] && !(isFloat a && d == 0x10)
   else ((slotOf f 1).empty || (slotOf f 1).fmt == 1) &&
     (if o = 0x601 then [1, 2, 3, 8, 9, 0xA].contains a && d == 0xC else a == 0xC && [1, 2, 3, 0xA].contains d))

/-- LOG2_GROUP and SCALE against slot 1 (R121). -/
def convScale (f : Frond) : Bool :=
  opcodeOf f == 0x600 ||
  (if (slotOf f 1).empty then parF f 1 0 4 == 0 else decide (5 ≤ parF f 1 0 4) && decide (parF f 1 0 4 ≤ 12) && par f 2 == 0)

/-- Rate of R122. -/
def convRate (f : Frond) : Nat :=
  let w := max (fmtBits (slotOf f 0).fmt) (fmtBits (slotOf f 3).fmt)
  if opcodeOf f ≠ 0x600 then 512 else fullRate w

def specConv (f : Frond) : OpSpec :=
  let e := (slotOf f 0).elems
  let b := streamSpec f (opSlotsFull f) [3]
  let primes (s : State) : Bool :=
    opcodeOf f != 0x600 ||
      ((slotOf f 0).fmt != 0x10 || primeLoaded s (parF f 1 0 7)) && ((slotOf f 3).fmt != 0x10 || primeLoaded s (parF f 1 8 7))
  { b with
    form := convForm f
    check := fun s => firstFail
      [ (!convPair f || !slotsGood f, .skipIllegal),
        (!convScale f, .skipIllegal),
        (!primes s, .skipParam),
        (e != (slotOf f 3).elems || (match scaleGroup f with | some g => decide ((slotOf f 1).elems < ceilDiv e g) | none => false),
          .skipShape),
        (decide (67107840 < e), .skipShape) ]
    latency := fun s _ g rep => streamTime s g rep 8 (ceilDiv e (convRate f)) b.range b.sources [3] (fun _ => none)
    replay := fun _ => 4
    engines := [vblockEngine f]
    units := fun _ _ => ceilDiv e 1024 }
where
  /-- The source slots that are not empty. -/
  opSlotsFull (f : Frond) : List Nat := [0, 1].filter (fun i => !(slotOf f i).empty)

/-- The scale of element `e`, read as a float (R120). -/
def scaleOf (f : Frond) (strict : Bool) (e : Nat) (r : Run) : Flagged Num × Run :=
  match scaleGroup f with
  | none => (readFloat 1 strict (par f 2), r)
  | some g => (let v := r.rd (slotOf f 1) (e / g); (readFloat 1 strict v.1, v.2))

/-- A quantised or dequantised element: the exact product with its scale, rounded once (R120). -/
def scaledValue (src dst : Nat) (a : Arith) (b : Nat) (s : Flagged Num) (r16 : Nat) : Flagged Nat :=
  let x := readNum src a.strict 1 b
  let p : Flagged Num := match s.1 with
    | .fin _ _ => numMul x.1 s.1
    | _ => (.nan, 0)
  let w := if isFloat dst then writeFloat dst a p.1 r16 else floatToInt dst a p.1 r16
  (w.1, x.2 ||| s.2 ||| p.2 ||| w.2)

/-- Element `e` of a conversion. -/
def convElem (e : Nat) (r : Run) : Run :=
  let f := r.fr
  let a := arithOf f (vSat f)
  let src := (slotOf f 0).fmt
  let dst := (slotOf f 3).fmt
  let x := r.rd (slotOf f 0) e
  let k := if opcodeOf f = 0x600 then (((.zero false, 0) : Flagged Num), x.2) else scaleOf f a.strict e x.2
  let n := drawOf k.2.fr a e
  let w := if opcodeOf f = 0x600 then
      convert src dst a (primeQ k.2.st (parF f 1 0 7)) (primeQ k.2.st (parF f 1 8 7)) x.1 n
    else scaledValue src dst a x.1 k.1 n
  ((k.2.flag w.2).wr (slotOf f 3) e w.1).up (fun s => bumpUnits s (vbReg f 8) 10 1)

def convUnit (r : Run) : Run := r.each 1024 (slotOf r.fr 3).elems convElem

/-! ### The commands -/

/-- CONVERT (R114–R119). -/
def execConvert (f : FrondRef) (n : Nat) (s : State) : Answer := runFrond 0x600 convUnit f n s

/-- PACK_INT4 (R120). -/
def execPackInt4 (f : FrondRef) (n : Nat) (s : State) : Answer := runFrond 0x601 convUnit f n s

/-- UNPACK_INT4 (R120). -/
def execUnpackInt4 (f : FrondRef) (n : Nat) (s : State) : Answer := runFrond 0x602 convUnit f n s

end Sys2Proof.Machine
end

