-- ==== Sys2Proof/Machine/Ring.lean ====
section
/-! DEFINITION. Limbs as lists of residues: the NTT and its inverse (R227), base conversion (R242), automorphisms
(R257). -/

namespace Sys2Proof.Machine
open Sys2Proof

/-- a^(q − 2) mod q, the inverse that the device uses (R222). -/
def invMod (q a : Nat) : Nat := powMod 40 (a % q) (q - 2) q

/-- The `n` low bits of a number reversed. -/
def bitRev : Nat → Nat → Nat
  | 0, _ => 0
  | n + 1, k => k % 2 * 2 ^ n + bitRev n (k / 2)

/-- ψ of a table entry for degree 2^lg (R227). -/
def psiOf (s : State) (k lg : Nat) : Nat := powMod 18 (primeRoot s k) (2 ^ (17 - lg)) (primeQ s k)

/-- A polynomial's value at a point. -/
def evalAt (q x : Nat) (a : List Nat) : Nat := a.foldr (fun c v => (c + x * v) % q) 0

/-- NTT as R227 defines it: residue k is A(ψ^(2 brv(k) + 1)). -/
def nttLimb (q psi lg : Nat) (a : List Nat) : List Nat :=
  (List.range (2 ^ lg)).map (fun k => evalAt q (powMod 19 psi (2 * bitRev lg k + 1) q) a)

/-- INTT: coefficient i is N^−1 × Σ_k â_k ψ^(−(2 brv(k) + 1) i) (R227). -/
def inttLimb (q psi lg : Nat) (a : List Nat) : List Nat :=
  let n := 2 ^ lg
  let arr := a.toArray
  let b := (List.range n).map (fun j => arr.getD (bitRev lg j) 0)
  let inv := invMod q n
  (List.range n).map (fun i =>
    let x := powMod 19 psi ((2 * n - i) % (2 * n)) q
    inv * (x * evalAt q (x * x % q) b % q) % q)

/-- Limbs combined residue by residue. -/
def limbAdd (q : Nat) (a b : List Nat) : List Nat := List.zipWith (fun x y => (x + y) % q) a b
def limbSub (q : Nat) (a b : List Nat) : List Nat := List.zipWith (fun x y => (x + q - y) % q) a b
def limbMul (q : Nat) (a b : List Nat) : List Nat := List.zipWith (fun x y => x * y % q) a b
def limbNeg (q : Nat) (a : List Nat) : List Nat := a.map (fun x => (q - x) % q)
def limbScale (q c : Nat) (a : List Nat) : List Nat := a.map (fun x => x * c % q)
def limbZero (n : Nat) : List Nat := List.replicate n 0

/-- The residues of a limb lifted to centred integers under q and reduced into q′ (R117, R240). -/
def limbLift (q q2 : Nat) (a : List Nat) : List Nat := a.map (fun w => modInt q2 (lift q w))

/-- Base conversion of limbs with primes `ps` into a prime p (R242). -/
def baseConv (p : Nat) (ps : List Nat) (xs : List (List Nat)) (n : Nat) : List Nat :=
  let total := ps.foldl (· * ·) 1
  (ps.zip xs).foldl (fun acc qx =>
    let hat := total / qx.1
    let c := invMod qx.1 (hat % qx.1)
    limbAdd p acc (qx.2.map (fun x => (x * c % qx.1) * (hat % p) % p))) (limbZero n)

/-- σ_g in the evaluation domain (R257). -/
def autoEval (g lg : Nat) (a : List Nat) : List Nat :=
  let arr := a.toArray
  (List.range (2 ^ lg)).map (fun k => arr.getD (bitRev lg (((2 * bitRev lg k + 1) * g % 2 ^ (lg + 1) - 1) / 2)) 0)

/-- σ_g in the coefficient domain: the index i with i × g ≡ t is found through the inverse of g modulo 2N (R257). -/
def autoCoef (q g lg : Nat) (a : List Nat) : List Nat :=
  let n := 2 ^ lg
  let arr := a.toArray
  let inv := powMod 19 (g % (2 * n)) (n / 2 - 1) (2 * n)
  (List.range n).map (fun t =>
    let i := t * inv % (2 * n)
    if i < n then arr.getD i 0 else (q - arr.getD (i - n) 0) % q)

/-- X^e × A, negacyclic, for e below 2N. -/
def limbShift (q e : Nat) (a : List Nat) : List Nat :=
  let n := a.length
  let r := e % n
  let up := limbNeg q (a.drop (n - r)) ++ a.take (n - r)
  if n ≤ e then limbNeg q up else up

end Sys2Proof.Machine
end

