-- ==== Sys2Proof/Machine/Ctd.lean ====
section
/-! DEFINITION. Ciphertext descriptors: their fields, the checks that every class naming them shares, budgets, limbs in
memory, and the writing of a result descriptor (R226, R229–R237). -/

namespace Sys2Proof.Machine
open Sys2Proof

/-! ### The descriptor (R230) -/

structure Ctd where
  log2n : Nat
  domain : Nat
  polys : Nat
  limbsMax : Nat
  poison : Bool
  level : Nat
  special : Nat
  pbase : Nat
  log2slots : Nat
  scale : Nat
  budget : Nat
  fp : Nat
  poly : List Nat
  stride : Nat
deriving DecidableEq, Repr

/-- The number in `n` bytes at byte `i` of a descriptor. -/
def dnum (b : List Nat) (i n : Nat) : Nat := ((b.drop i).take n).foldr (fun x a => x + 256 * a) 0

def ctdOf (b : List Nat) : Ctd :=
  { log2n := nfld (dnum b 0 1) 0 5, domain := nfld (dnum b 0 1) 5 1, polys := nfld (dnum b 0 1) 6 2,
    limbsMax := nfld (dnum b 1 1) 0 7, poison := nbit (dnum b 1 1) 7, level := nfld (dnum b 2 1) 0 6,
    special := nfld (dnum b 3 1) 0 5, pbase := nfld (dnum b 4 1) 0 7, log2slots := nfld (dnum b 5 1) 0 5,
    scale := dnum b 6 2, budget := dnum b 8 2, fp := dnum b 16 8,
    poly := [dnum b 24 5, dnum b 32 5, dnum b 40 5], stride := dnum b 48 4 }

/-- A reserved bit of the bytes of a CTD is set. -/
def ctdReserved (b : List Nat) : Bool :=
  dnum b 2 1 ≥ 64 || dnum b 3 1 ≥ 32 || dnum b 4 1 ≥ 128 || dnum b 5 1 ≥ 32 || dnum b 10 6 != 0 || dnum b 29 3 != 0 ||
  dnum b 37 3 != 0 || dnum b 45 3 != 0 || dnum b 52 12 != 0

/-- The 64 bytes of a CTD. -/
def ctdBytes (c : Ctd) : List Byte :=
  leBytes 1 (c.log2n + c.domain * 32 + c.polys * 64) ++ leBytes 1 (c.limbsMax + b2n c.poison * 128) ++
  leBytes 1 c.level ++ leBytes 1 c.special ++ leBytes 1 c.pbase ++ leBytes 1 c.log2slots ++ leBytes 2 c.scale ++
  leBytes 2 c.budget ++ leBytes 6 0 ++ leBytes 8 c.fp ++ leBytes 8 (c.poly.getD 0 0) ++ leBytes 8 (c.poly.getD 1 0) ++
  leBytes 8 (c.poly.getD 2 0) ++ leBytes 4 c.stride ++ leBytes 12 0

def Ctd.n (c : Ctd) : Nat := 2 ^ c.log2n

/-- Sectors of a limb. -/
def Ctd.secs (c : Ctd) : Nat := ceilDiv c.n 7

/-- The present positions (R226). -/
def Ctd.positions (c : Ctd) : List Nat :=
  List.range (c.level + 1) ++ (List.range c.special).map (fun j => c.limbsMax + j)

/-- The highest present position. -/
def Ctd.top (c : Ctd) : Nat := if c.special = 0 then c.level else c.limbsMax + c.special - 1

/-- Bytes from a polynomial's base to the last sector of its highest present position. -/
def Ctd.extent (c : Ctd) : Nat := 32 * (c.top * c.stride + c.secs)

/-- Offset of the limb at a position of polynomial `i`. -/
def Ctd.limbOff (c : Ctd) (i p : Nat) : Nat := c.poly.getD i 0 + 32 * p * c.stride

/-- Window offsets [lo, hi) of the polynomials it describes. -/
def Ctd.spans (c : Ctd) : List (Nat × Nat) :=
  (List.range c.polys).map (fun i => (c.poly.getD i 0, c.poly.getD i 0 + c.extent))

/-- The prime of a position. -/
def ctdPrime (s : State) (c : Ctd) (p : Nat) : Nat := primeQ s (c.pbase + p)

/-! ### Slots that name a descriptor (R229) -/

/-- The slot form of R229. -/
def ctdSlot (f : Frond) (i : Nat) : Bool :=
  let d := slotOf f i
  d.fmt == 0xB && d.layout == 0 && d.aux == 0 && !d.circ && d.cnt == [64, 1, 1, 1, 1, 1] && d.str == [1, 0, 0, 0, 0, 0] &&
    d.base % 64 == 0

/-- The device address of a window offset of slot `i`. -/
def winAddr (f : Frond) (i off : Nat) : Nat := ((slotOf f i).wbase + off) % 2 ^ 40

/-- A descriptor as memory holds it, for terms that are fixed at acceptance (log entry 75). -/
def descAt (s : State) (f : Frond) (i : Nat) : List Nat := (bytesAt s (winAddr f i (slotOf f i).base) 64).map BitVec.toNat

/-- `n` bytes at a device address, sector by sector, as numbers. -/
def Run.bytes (r : Run) (id a n : Nat) : List Nat × Run :=
  forWhile (fun p => !p.2.ok) 0 (ceilDiv (a % 32 + n) 32)
    (fun j p =>
      let lo := max a ((a / 32 + j) * 32)
      let k := min (a + n) ((a / 32 + j + 1) * 32) - lo
      let v := p.2.rdBytes id (lo % 2 ^ 40) k false
      (p.1 ++ (leBytes k v.1).map BitVec.toNat, v.2)) ([], r)

/-- The descriptors of a list of slots are read; the first unit of a repetition keeps them, 64 bytes a slot. -/
def Run.loadDescs (r : Run) (slots : List Nat) : Run :=
  let p := [0, 1, 2, 3].foldl (fun (p : List Nat × Run) i =>
    if slots.contains i then
      (let v := p.2.bytes i (winAddr r.fr i (slotOf r.fr i).base) 64
       (p.1 ++ v.1, v.2))
    else (p.1 ++ List.replicate 64 0, p.2)) ([], r)
  { p.2 with fr := { p.2.fr with buf := p.1 } }

/-- The descriptor bytes of slot `i` that the frond has read. -/
def descOf (f : Frond) (i : Nat) : List Nat := (f.buf.drop (64 * i)).take 64

/-- A byte of the 64 at an address is poisoned. -/
def descPoisoned (s : State) (f : Frond) (i : Nat) : Bool :=
  let a := winAddr f i (slotOf f i).base
  poisonedAt s a || poisonedAt s (a + 32)

/-! ### Checks in the order of R233 -/

/-- Step 1 for a source. -/
def ctdForm (b : List Nat) : Bool :=
  let c := ctdOf b
  !ctdReserved b && decide (10 ≤ c.log2n) && decide (c.log2n ≤ 17) && c.polys != 0 && decide (c.level < c.limbsMax) &&
  decide (c.limbsMax ≤ 64) && decide (c.special ≤ 16) && decide (c.log2slots ≤ c.log2n - 1) && decide (c.secs ≤ c.stride) &&
  c.poly.all (fun o => o % 32 == 0) && (c.fp != 0 || decide (c.polys < 2))

/-- Step 1 for a result: the fields that the program supplies (R231). -/
def resultForm (c : Ctd) : Bool :=
  decide (c.secs ≤ c.stride) && (List.range c.polys).all (fun i => c.poly.getD i 0 % 32 == 0)

/-- Step 2: extents lie in a slot's window. -/
def spansIn (f : Frond) (i : Nat) (l : List (Nat × Nat)) : Bool := l.all (fun x => decide (x.2 ≤ (slotOf f i).bound))

/-- Absolute extents, a window address replaced by its HBM alias (R212). -/
def absSpans (s : State) (f : Frond) (i : Nat) (l : List (Nat × Nat)) : List (Nat × Nat) :=
  l.map (fun x =>
    let a := winAddr f i x.1
    match resolve s a with
    | .hbm h => (h, h + (x.2 - x.1))
    | _ => (a, a + (x.2 - x.1)))

/-- The descriptor of a slot as an extent. -/
def descSpan (s : State) (f : Frond) (i : Nat) : Nat × Nat :=
  (absSpans s f i [((slotOf f i).base, (slotOf f i).base + 64)]).headD (0, 0)

/-- What a descriptor describes, for the overlap test: its slot, the spans of its polynomials in order, and the distance
between limbs; 0 where the exception of R234 does not apply. -/
structure Ext where
  slot : Nat
  spans : List (Nat × Nat)
  stride : Nat
deriving DecidableEq, Repr

def Ctd.ext (c : Ctd) (i : Nat) : Ext := ⟨i, c.spans, c.stride⟩

/-- The absolute spans of an extent. -/
def Ext.abs (e : Ext) (s : State) (f : Frond) : List (Nat × Nat) := absSpans s f e.slot e.spans

/-- Polynomial `k` of two descriptors stands at one base and stride (R234). -/
def sameSpot (s : State) (f : Frond) (c d : Ext) (k : Nat) : Bool :=
  (c.abs s f)[k]?.map (·.1) == (d.abs s f)[k]?.map (·.1) && c.stride == d.stride && c.stride != 0

/-- Step 3: destinations overlap beyond R234. -/
def extOverlap (s : State) (f : Frond) (dst src : List Ext) : Bool :=
  let clash (d x : Ext) : Bool :=
    (List.range d.spans.length).any (fun i => (List.range x.spans.length).any (fun j =>
      overlaps ((d.abs s f).getD i (0, 0)) ((x.abs s f).getD j (0, 0)) && !(i == j && sameSpot s f d x i)))
  let descClash (d x : Ext) : Bool := (d.abs s f).any (fun e => overlaps e (descSpan s f x.slot))
  let within (d : Ext) : Bool :=
    (List.range d.spans.length).any (fun i => (List.range d.spans.length).any (fun j => i != j &&
      overlaps ((d.abs s f).getD i (0, 0)) ((d.abs s f).getD j (0, 0))))
  dst.any (fun d => within d || descClash d d ||
    src.any (fun x => clash d x || descClash d x || descClash x d ||
      (overlaps (descSpan s f d.slot) (descSpan s f x.slot) && !sameSlot f d.slot x.slot)) ||
    dst.any (fun x => x.slot != d.slot && (clash d { x with stride := 0 } || descClash d x ||
      overlaps (descSpan s f d.slot) (descSpan s f x.slot))))

/-- Step 3 for ciphertext descriptors, each with its slot. -/
def ctdOverlap (s : State) (f : Frond) (dst src : List (Nat × Ctd)) : Bool :=
  extOverlap s f (dst.map (fun x => x.2.ext x.1)) (src.map (fun x => x.2.ext x.1))

/-- The table entries of the present positions exist and are loaded (step 4). -/
def ctdPrimes (s : State) (c : Ctd) : Bool :=
  decide (c.pbase + c.limbsMax + c.special ≤ 80) && c.positions.all (fun p => primeLoaded s (c.pbase + p))

/-- Operands agree in what step 4 names. -/
def sameGeometry (a b : Ctd) : Bool :=
  a.log2n == b.log2n && a.pbase == b.pbase && a.limbsMax == b.limbsMax && a.level == b.level && a.special == b.special &&
    a.log2slots == b.log2slots

/-- The key-set slot of a region that holds a valid registration of a fingerprint. -/
def ksetOf (s : State) (r fp : Nat) : Option Nat := (List.range 16).find? (fun k => ksetValid s r k && (reg s (rKsetFp r k)).toNat == fp)

/-- Step 5 for fingerprints alone. -/
def fpsOk (s : State) (r : Nat) (l : List Ctd) : Bool :=
  let fps := (l.map (·.fp)).filter (· != 0)
  fps.all (fun x => fps.all (· == x) && (ksetOf s r x).isSome)

/-- The fingerprint of operands that agree. -/
def commonFp (l : List Ctd) : Nat := ((l.map (·.fp)).find? (· != 0)).getD 0

/-! ### The noise budget (R235, R236) -/

/-- The cost of a code in the model of a fingerprint: NOISE of the registered header (R246). -/
def Run.cost (r : Run) (fp code : Nat) : Nat × Run :=
  match ksetOf r.st r.fr.region fp with
  | some k =>
    if fp = 0 then (0, r)
    else
      let v := r.bytes 9 ((ksetBase r.st r.fr.region k + 56 + 2 * code) % 2 ^ 40) 2
      (dnum v.1 0 2, v.2)
  | none => (0, r)

/-- The budget of a result, exact. -/
structure Budget where
  value : Int
  ok : Bool

/-- The floor of R236 on a result. -/
def floorOk (s : State) (r cost : Nat) (v : Int) : Bool := cost == 0 || decide ((regF s (rBudgetFloor r) 0 16 : Int) ≤ v)

/-- The least BUDGET among ciphertext operands; without one it is not stated, and free. -/
def leastBudget (s : State) (l : List Ctd) : Nat × State :=
  match l.filter (fun c => decide (2 ≤ c.polys)) with
  | [] => (let t := takeFree s; (t.1 % 65536, t.2))
  | c :: t => (t.foldl (fun m x => min m x.budget) c.budget, s)

/-- Least budget minus a cost (R236): 0xFFFF where every operand is a plaintext without a key set. -/
def budgetOf (s : State) (r : Nat) (l : List Ctd) (cost : Nat) : Budget × State :=
  if commonFp l = 0 then (⟨0xFFFF, true⟩, s)
  else
    let m := leastBudget s l
    let v : Int := (m.1 : Int) - cost
    (⟨v, floorOk s r cost v⟩, m.2)

/-- A budget that a code's value sets afresh (R236, R291). -/
def freshBudget (s : State) (r fp value : Nat) : Budget :=
  if fp = 0 then ⟨0xFFFF, true⟩ else ⟨value, decide (regF s (rBudgetFloor r) 0 16 ≤ value)⟩

/-! ### Limbs in memory (R226, R228) -/

/-- `n` residues from a device address on, as stored. -/
def Run.rdLimb (r : Run) (id a n : Nat) : List Nat × Run :=
  forWhile (fun p => !p.2.ok) 0 (ceilDiv n 7)
    (fun j p =>
      let v := p.2.rdBytes id ((a + 32 * j) % 2 ^ 40) 32 true
      (p.1 ++ (List.range (min 7 (n - 7 * j))).map (secField v.1), v.2)) ([], r)

/-- Up to seven residues as a sector with its check (R104, R167). -/
def packSector (l : List Nat) : Nat := withCheck (l.foldr (fun x a => x % 2 ^ 36 + a * 2 ^ 36) 0)

/-- The frond writes every byte of [a, a + n) (R91). -/
def Run.wroteRun (r : Run) (a n : Nat) : Run :=
  match memKey r.st (resolve r.st (a % 2 ^ 40)) with
  | some k => { r with fr := { r.fr with wroteSpans := r.fr.wroteSpans ++ [(k, n)] } }
  | none => r

/-- Residues stored from a device address on, in whole sectors. -/
def Run.wrLimb (r : Run) (id a : Nat) (l : List Nat) : Run :=
  let n := ceilDiv l.length 7
  let whole (x k : Nat) : Bool := decide (a ≤ x) && decide (x + k ≤ a + 32 * n)
  (forWhile (fun x => !x.ok) 0 n
    (fun j x => (x.arrives ((a + 32 * j) % 2 ^ 40) true).wrBytes id ((a + 32 * j) % 2 ^ 40) (leBytes 32 (packSector ((l.drop (7 * j)).take 7))) whole) r).wroteRun a (32 * n)

/-- Residues reduced modulo `q`, with RES_REDUCED; `cnt` counts them (R105, R245). -/
def Run.reduce (r : Run) (q cnt : Nat) (l : List Nat) : List Nat × Run :=
  let k := (l.filter (fun x => decide (q ≤ x))).length
  (l.map (· % q), if k = 0 then r else (r.flag fResReduced).up (fun s => bump s cnt k))

/-- The P-block that computes result limb `j` (R228). -/
def pbOf (f : Frond) (j : Nat) : Nat :=
  let l := (List.range 4).filter (nbit (par f 0))
  l.getD (j % max 1 l.length) 0

/-- Its counters. -/
def pbReg (f : Frond) (j o : Nat) : Nat := rPb f.region (pbOf f j) o

/-- P-blocks in use. -/
def pbCount (f : Frond) : Nat := popcount 4 (parF f 0 0 4)
def pbEngines (f : Frond) : List Nat := ((List.range 4).filter (nbit (par f 0))).map (fun p => f.region * 64 + 10 + p)

/-- The limb at position `p` of polynomial `i` of a source, reduced; a polynomial that a source has not is 0 (R239). `j`
is the result limb that it is read for. -/
def Run.srcLimb (r : Run) (slot : Nat) (c : Ctd) (i p j : Nat) : List Nat × Run :=
  if c.polys ≤ i then (limbZero c.n, r)
  else
    let v := r.rdLimb slot (winAddr r.fr slot (c.limbOff i p)) c.n
    v.2.reduce (ctdPrime r.st c p) (pbReg r.fr j 0x10) v.1

/-- A result limb is stored and counted. -/
def Run.dstLimb (r : Run) (slot : Nat) (c : Ctd) (i p j : Nat) (l : List Nat) : Run :=
  (r.wrLimb slot (winAddr r.fr slot (c.limbOff i p)) l).up (fun s => bump s (pbReg r.fr j 8) 1)

/-! ### Results (R231, R233) -/

/-- The 64 bytes of a descriptor are stored in slot `i`. -/
def Run.putDesc (r : Run) (i : Nat) (b : List Byte) : Run :=
  let a := winAddr r.fr i (slotOf r.fr i).base
  let whole (x k : Nat) : Bool := decide (a ≤ x) && decide (x + k ≤ a + 64)
  ((r.wrBytes i a (b.take 32) whole).wrBytes i (a + 32) (b.drop 32) whole).wroteRun a 64

/-- The frond's work is over with the unit in hand. -/
def Run.last (r : Run) : Run := { r with fr := { r.fr with units := r.fr.unit + 1 } }

/-- A passed frond with a poisoned source moves no data: its result descriptors are written with POISON set (step 9). -/
def Run.poisonedResult (r : Run) (ds : List (Nat × List Byte)) : Run :=
  let x := { r with fr := { r.fr with poisoned := true } }
  (ds.foldl (fun y d => y.putDesc d.1 d.2) x).last

end Sys2Proof.Machine
end

