-- ==== Sys2Proof/Machine/Matrix.lean ====
section
/-! DEFINITION. The matrix engine: MATMUL, MATMUL_ACC, MATMUL_EPI and RES_MATMUL (R306–R318, R320–R324). -/

namespace Sys2Proof.Machine
open Sys2Proof

/-! ### Fields (R320) -/

def mbMask (f : Frond) : Nat := parF f 0 0 6
def matM (f : Frond) : Nat := parF f 1 0 16 + 1
def matN (f : Frond) : Nat := parF f 1 16 16 + 1
def matK (f : Frond) : Nat := parF f 2 0 20 + 1
def matAct (f : Frond) : Nat := parF f 0 8 2
def rowsPerPrime (f : Frond) : Nat := parF f 3 16 16 + 1
def matPrime (f : Frond) : Nat := parF f 3 0 7

/-- k, the M-blocks used. -/
def mbCount (f : Frond) : Nat := popcount 6 (mbMask f)

/-- Their indices, counting upward. -/
def mbList (f : Frond) : List Nat := (List.range 6).filter (nbit (mbMask f))

/-- Columns of output tiles, and T, their number (R307). -/
def tileColsOf (f : Frond) : Nat := ceilDiv (matN f) 128
def tileCount (f : Frond) : Nat := ceilDiv (matM f) 128 * tileColsOf f

/-- Fields that the opcode does not use are 0. -/
def matForm (f : Frond) : Bool :=
  let o := opcodeOf f
  parF f 0 10 22 == 0 && (o == 0x202 || parF f 0 6 4 == 0) && parF f 2 20 12 == 0 &&
  (if o = 0x210 then parF f 3 7 9 == 0 else par f 3 == 0) && (o == 0x202 || par f 4 == 0) &&
  ((o == 0x202 && matAct f == 2) || par f 5 == 0) && arithWord f

/-! ### Pairings (R309, R310) -/

def matInts : List Nat := [0xA, 0xB, 0xC]

/-- The accumulator format of a pairing; 0 where the pairing is not allowed. -/
def accFmt (f : Frond) : Nat :=
  let a := (slotOf f 0).fmt
  let b := (slotOf f 1).fmt
  if opcodeOf f = 0x210 then (if a = 0x10 ∧ b = 0x10 then 0x10 else 0)
  else if isFloat a && isFloat b then 1
  else if matInts.contains a && matInts.contains b && opcodeOf f != 0x202 then 8
  else 0

/-- The wider operand of a pairing, in bits. -/
def pairWidth (f : Frond) : Nat := max (fmtBits (slotOf f 0).fmt) (fmtBits (slotOf f 1).fmt)

/-- Four times the beat factor f of R310. -/
def beatFactor4 (f : Frond) : Nat :=
  let w := pairWidth f
  let strict := nbit (par f 6) 0
  if opcodeOf f = 0x210 then 64
  else if accFmt f = 8 then (if w = 4 then 1 else 2)
  else if w = 32 then (if strict then 144 else 12)
  else if w = 16 then (if strict then 16 else 4)
  else (if strict then 8 else 2)

/-- G, the k-values of a group in fast mode (R310). -/
def matGroup (f : Frond) : Nat := if pairWidth f = 8 then 8 else 4

/-- κ, the K-chunk (R308). -/
def kChunk (f : Frond) : Nat := if beatFactor4 f ≤ 16 then 256 else 64

/-! ### Checks and latency (R321, R322) -/

/-- Slot roles, pairings and fields in range. -/
def matLegal (f : Frond) : Bool :=
  let o := opcodeOf f
  let lim := par f 5
  fullSlots f [0, 1, 3] && mbMask f != 0 && accFmt f != 0 && (slotOf f 3).fmt == accFmt f &&
  (if o = 0x201 then (slotOf f 2).fmt == accFmt f
   else if o = 0x202 then (slotOf f 2).empty || (slotOf f 2).fmt == 1
   else (slotOf f 2).empty) &&
  matAct f != 3 && (matAct f != 2 || (nFinite32 lim && (!nbit lim 31 || nfld lim 0 31 == 0)))
where
  /-- FP32 bits of a finite value. -/
  nFinite32 (b : Nat) : Bool := nfld b 23 8 != 255

/-- Element counts of the views (R311). -/
def matCounts (f : Frond) : Bool :=
  let o := opcodeOf f
  (slotOf f 0).elems == matM f * matK f && (slotOf f 1).elems == matK f * matN f && (slotOf f 3).elems == matM f * matN f &&
  ((slotOf f 2).empty || (slotOf f 2).elems == (if o = 0x202 then matN f else matM f * matN f))

/-- The primes of RES_MATMUL. -/
def matPrimes (s : State) (f : Frond) : Bool :=
  opcodeOf f != 0x210 ||
    (let n := ceilDiv (matM f) (rowsPerPrime f)
     decide (matPrime f + n ≤ 80) && (List.range n).all (fun j => primeLoaded s (matPrime f + j)))

/-- The tile time τ. -/
def tileTime (f : Frond) : Nat :=
  let w (i : Nat) : Nat := if (slotOf f i).fmt = 0x10 then 37 else fmtBits (slotOf f i).fmt
  let t := max (max (ceilDiv (matK f * beatFactor4 f) 4) (ceilDiv (matK f * (w 0 + w 1)) 32))
    (128 * (1 + b2n (opcodeOf f == 0x201)))
  if opcodeOf f = 0x202 then max t (32 * mbCount f) else t

/-- MATMUL, MATMUL_ACC, MATMUL_EPI and RES_MATMUL. -/
def specMat (f : Frond) : OpSpec :=
  let o := opcodeOf f
  let src := [0, 1, 2].filter (fun i => !(slotOf f i).empty)
  let b := streamSpec f src [3]
  { b with
    form := matForm f
    check := fun s => firstFail
      [ (!matLegal f || !slotsGood f, .skipIllegal),
        (!matPrimes s f, .skipParam),
        (!matCounts f, .skipShape),
        (src.any (fun i => slotsOverlap s f b.range i 3 && !(o == 0x201 && i == 2 && sameSlot f 2 3)), .skipOverlap) ]
    latency := fun s _ g rep =>
      streamTime s g rep 24 (ceilDiv (tileCount f) (mbCount f) * tileTime f + (if o = 0x202 then 144 else 128)) b.range src [3]
        (fun _ => none)
    replay := fun _ => 8 + (if o = 0x210 then 16 * min (matK f) 64 else ceilDiv (min (matK f) (kChunk f) * beatFactor4 f) 4)
    engines := (mbList f).map (fun m => f.region * 64 + m) ++
      (if o = 0x202 then [f.region * 64 + 6 + parF f 0 6 2] else [])
    units := fun _ _ => tileCount f }

/-! ### Float accumulation (R312–R314) -/

/-- A float operand with its split: its value, hi and lo. A value that is not FP32 has lo = 0. -/
structure Split where
  x : Num
  hi : Num
  lo : Num
deriving DecidableEq, Repr

/-- hi and lo of an operand that is read in fast mode, with the flags of the reading. -/
def splitOf (fmt b : Nat) : Flagged Split :=
  let v := readFloat fmt false b
  match v.1 with
  | .fin s m =>
    if fmt = 1 ∧ m.isZero = false then
      let h := (readFloat 2 true (b / 2 ^ 16)).1
      let d := (subExact v.1 h)
      -- RNE at 8 significand bits with an unbounded exponent
      let lo : Num := match d with
        | .fin t k => if k.isZero then d else
            (let u := k.log2 - 7
             .fin t ⟨(k.roundTo t 0 u 0).1, 1, u, false⟩)
        | y => y
      (⟨v.1, h, lo⟩, v.2)
    else (⟨v.1, .fin s m, .zero false⟩, v.2)
  | y => (⟨y, y, .zero false⟩, v.2)
where
  /-- The exact difference of two values. -/
  subExact (a b : Num) : Num := (numAdd ⟨true, 0, false⟩ a (numNeg b)).1

def Num.isFin : Num → Bool
  | .fin _ _ => true
  | _ => false

/-- The product term p of R314. -/
def termOf (a b : Split) : Flagged Num :=
  let add (x y : Num) : Num := (numAdd ⟨true, 0, false⟩ x y).1
  let whole := numMul a.x b.x
  if a.x.isFin && b.x.isFin then
    match add (add (numMul a.hi b.hi).1 (numMul a.hi b.lo).1) (numMul a.lo b.hi).1 with
    | .fin s m => if m.isZero then (whole.1, 0) else (.fin s m, 0)
    | y => (y, 0)
  else whole

/-- The exact sum of a list of terms (R312). -/
def sumTerms (a : Arith) (l : List Num) : Flagged Num :=
  let pos := l.contains (.inf false)
  let neg := l.contains (.inf true)
  let bad := flagIf (pos && neg) fInvalid
  if l.contains .nan || (pos && neg) then (.nan, bad)
  else
    match l with
    | [] => (.zero false, 0)
    | x :: t => (t.foldl (fun y z => (numAdd a y z).1) x, 0)

/-- Products of a row and a column, summed in groups into an accumulator that each group rounds; `d` gives draw k. -/
def accFast (a : Arith) (d : Nat → Nat) (g : Nat) : Nat → Nat → List (Split × Split) → Num → Nat → Flagged Num
  | 0, _, _, acc, fl => (acc, fl)
  | n + 1, k, l, acc, fl =>
    if l.isEmpty then (acc, fl)
    else
      let ts := (l.take g).map (fun p => termOf p.1 p.2)
      let s := sumTerms a (acc :: ts.map (·.1))
      let v := roundNum 1 a s (d k)
      accFast a d g n (k + 1) (l.drop g) v.1 (fl ||| (ts.map (·.2)).foldl (· ||| ·) 0 ||| v.2)

/-- The same in strict mode: one FMA at a time. -/
def accStrict (a : Arith) (d : Nat → Nat) : Nat → List (Num × Num) → Num → Nat → Flagged Num
  | _, [], acc, fl => (acc, fl)
  | k, p :: t, acc, fl =>
    let m := numMul p.1 p.2
    let s := numAdd a m.1 acc
    let v := roundNum 1 a (s.1, m.2 ||| s.2) (d k)
    accStrict a d (k + 1) t v.1 (fl ||| v.2)

/-! ### One output tile (R307, R311–R318) -/

/-- Rows and columns of tile `t`: first and count of each. -/
def tileSpan (f : Frond) (t : Nat) : (Nat × Nat) × (Nat × Nat) :=
  let i := t / tileColsOf f * 128
  let j := t % tileColsOf f * 128
  ((i, min 128 (matM f - i)), (j, min 128 (matN f - j)))

/-- A block of a slot's view with `cols` columns: rows of raw elements. -/
def Run.rdBlock (r : Run) (slot cols : Nat) (rows cs : Nat × Nat) : List (List Nat) × Run :=
  forWhile (fun p => !p.2.ok) rows.1 rows.2
    (fun i p => let v := p.2.rdOps (.slot slot) (i * cols + cs.1) cs.2; (p.1 ++ [v.1], v.2)) ([], r)

/-- The rows of a block as columns. -/
def columns (n : Nat) (l : List (List Nat)) : List (List Nat) := (List.range n).map (fun j => l.map (fun row => row.getD j 0))

/-- How many draws an element makes (R316). -/
def matDraws (f : Frond) : Nat :=
  (if nbit (par f 6) 0 then matK f else ceilDiv (matK f) (matGroup f)) + b2n (opcodeOf f == 0x202)

/-- The accumulator of a float element, from its row, its column and the initial value. -/
def matFloat (f : Frond) (e : Nat) (row col : List Nat) (init : Num) : Flagged Num :=
  let a := arithOf f false
  let fa := (slotOf f 0).fmt
  let fb := (slotOf f 1).fmt
  let d (k : Nat) : Nat := drawOf f a (e * matDraws f + k)
  if a.strict then
    let u := readAll fa true row
    let v := readAll fb true col
    accStrict a d 0 (u.1.zip v.1) init (u.2 ||| v.2)
  else
    let u := row.map (splitOf fa)
    let v := col.map (splitOf fb)
    let fl := (u.map (·.2)).foldl (· ||| ·) 0 ||| (v.map (·.2)).foldl (· ||| ·) 0
    accFast a d (matGroup f) (row.length + 1) 0 ((u.map (·.1)).zip (v.map (·.1))) init fl

/-- The epilogue of a finished element (R317); `bias` is its raw bias, if any. -/
def epilogue (f : Frond) (e : Nat) (acc : Num) (bias : Option Nat) : Flagged Nat :=
  let a := arithOf f false
  let al := readFloat 1 a.strict (par f 4)
  let m := numMul al.1 acc
  let s : Flagged Num := match bias with
    | some b => (let c := readFloat 1 a.strict b
                 let t := numAdd a m.1 c.1
                 (t.1, c.2 ||| t.2))
    | none => (m.1, 0)
  let y := writeFloat 1 a s.1 (drawOf f a (e * matDraws f + matDraws f - 1))
  let v := (readFloat 1 true y.1).1
  let lim := (readFloat 1 true (par f 5)).1
  let z : Nat :=
    if v == .nan then canonNan 1
    else if matAct f = 1 then (if nbit y.1 31 then 0 else y.1)
    else if matAct f = 2 then (writeFloat 1 ⟨true, 0, false⟩ (numMin (numMax v (numNeg lim)) lim) 0).1
    else y.1
  (z, al.2 ||| m.2 ||| s.2 ||| y.2)

/-- One element (i, j) of the result, from its row, its column, its C element and its bias. -/
def matElem (s : State) (f : Frond) (i j : Nat) (row col : List Nat) (c bias : Option Nat) : Flagged Nat :=
  let o := opcodeOf f
  let e := i * matN f + j
  if o = 0x210 then
    let q := primeQ s (matPrime f + i / rowsPerPrime f)
    let u := row.map (readRes q)
    let v := col.map (readRes q)
    (((u.zip v).map (fun p => p.1.1 * p.2.1)).sum % q,
      (u.map (·.2)).foldl (· ||| ·) 0 ||| (v.map (·.2)).foldl (· ||| ·) 0)
  else if accFmt f = 8 then
    let fa := (slotOf f 0).fmt
    let fb := (slotOf f 1).fmt
    let c0 : Int := match c with | some x => readInt 8 x | none => 0
    intFin 8 false (c0 + ((row.zip col).map (fun p => readInt fa p.1 * readInt fb p.2)).sum)
  else
    let strict := nbit (par f 6) 0
    let init : Flagged Num := match c with | some x => readFloat 1 strict x | none => (.zero false, 0)
    let acc := matFloat f e row col init.1
    let w : Flagged Nat := if o = 0x202 then epilogue f e acc.1 bias else ((writeFloat 1 ⟨true, 0, false⟩ acc.1 0).1, 0)
    (w.1, init.2 ||| acc.2 ||| w.2)

/-- Counters of the M-block that computed a tile (R307, R324). -/
def countTile (f : Frond) (t macs : Nat) (s : State) : State :=
  let m := (mbList f).getD (t % mbCount f) 0
  bumpUnits (bump s (rMb f.region m 0x10) 1) (rMb f.region m (if opcodeOf f = 0x210 then 0x20 else 8)) 20 macs

/-- One output tile: A's rows and B's columns are read, C and the bias, and the elements written in row-major order. -/
def matUnit (r : Run) : Run :=
  let f := r.fr
  let sp := tileSpan f f.unit
  let a := r.rdBlock 0 (matK f) sp.1 (0, matK f)
  let b := a.2.rdBlock 1 (matN f) (0, matK f) sp.2
  let cols := columns sp.2.2 b.1
  let c := if opcodeOf f = 0x201 then b.2.rdBlock 2 (matN f) sp.1 sp.2 else ([], b.2)
  let d := if opcodeOf f = 0x202 && !(slotOf f 2).empty then c.2.rdOps (.slot 2) sp.2.1 sp.2.2 else ([], c.2)
  let elem (i j : Nat) (x : Run) : Run :=
    let cij : Option Nat := if opcodeOf f = 0x201 then some ((c.1.getD (i - sp.1.1) []).getD (j - sp.2.1) 0) else none
    let w := matElem x.st f i j (a.1.getD (i - sp.1.1) []) (cols.getD (j - sp.2.1) []) cij (d.1[j - sp.2.1]?)
    (x.flag w.2).wr (slotOf f 3) (i * matN f + j) w.1
  let z := forWhile (fun x => !x.ok) sp.1.1 sp.1.2
    (fun i x => forWhile (fun y => !y.ok) sp.2.1 sp.2.2 (fun j y => elem i j y) x) d.2
  z.up (countTile f f.unit (sp.1.2 * sp.2.2 * matK f))

/-! ### The commands -/

/-- MATMUL (R309–R316). -/
def execMatmul (f : FrondRef) (n : Nat) (s : State) : Answer := runFrond 0x200 matUnit f n s

/-- MATMUL_ACC (R309–R316). -/
def execMatmulAcc (f : FrondRef) (n : Nat) (s : State) : Answer := runFrond 0x201 matUnit f n s

/-- MATMUL_EPI (R309–R317). -/
def execMatmulEpi (f : FrondRef) (n : Nat) (s : State) : Answer := runFrond 0x202 matUnit f n s

/-- RES_MATMUL (R318). -/
def execResMatmul (f : FrondRef) (n : Nat) (s : State) : Answer := runFrond 0x210 matUnit f n s

end Sys2Proof.Machine
end

