-- ==== Sys2Proof/Machine/Poly.lean ====
section
/-! DEFINITION. The polynomial fronds of class 0x8 and BASECONV_M, which computes one of them on M-blocks (R226–R243,
R319–R322). -/

namespace Sys2Proof.Machine
open Sys2Proof

/-! ### Terms of the class latency for descriptors (R195, R196, log entry 85) -/

/-- The fill and size terms of slot `i` as a stream. -/
def streamTerm (s : State) (f : Frond) (rep i : Nat) (dest : Bool) : Nat × Nat :=
  (slotFill s f rep i dest, slotSize s f rep i (slotOf f i).isRun (slotBytes f (fun j => (slotOf f j).posRange) i))

/-- The fill and size terms of slot `i` for `v` bytes of what its descriptor describes from a window offset on. -/
def areaTerm (s : State) (f : Frond) (i off : Nat) (run : Bool) (v : Nat) (dest : Bool) : Nat × Nat :=
  let a := winAddr f i off
  let m := memKind s f.region a
  (fillTerm m dest, sizeTerm m (viaWindow a) run v (allotOf s f i))

/-- The same for the polynomials of a ciphertext descriptor. -/
def ctdTerm (s : State) (f : Frond) (i : Nat) (c : Ctd) (v : Nat) (dest : Bool) : Nat × Nat :=
  areaTerm s f i (c.poly.getD 0 0) (c.stride == c.secs) v dest

/-- The class latency from a fixed term, an engine size term and the terms of the slots. -/
def timeOf (fixed size : Nat) (terms : List (Nat × Nat)) : Nat :=
  fixed + (terms.map (·.1)).sum + max size (maxOf (terms.map (·.2)))

/-- Where the polynomials of slot `i` begin. -/
def polyStarts (f : Frond) (i : Nat) (c : Ctd) : List Nat := (List.range c.polys).map (fun k => winAddr f i (c.poly.getD k 0))

/-! ### Fields (R238, R320) -/

def pTarget (f : Frond) : Nat := parF f 1 0 6
def pTol (f : Frond) : Nat := parF f 0 8 8
def srcFirst (f : Frond) : Nat := parF f 2 0 7
def srcCount (f : Frond) : Nat := parF f 2 8 7
def dstFirst (f : Frond) : Nat := parF f 2 16 7
def dstCount (f : Frond) : Nat := parF f 2 24 7

/-- A base conversion, on P-blocks or on M-blocks. -/
def isBconv (f : Frond) : Bool := opcodeOf f == 0x822 || opcodeOf f == 0x211

/-- Opcodes with two sources. -/
def polyTwo (f : Frond) : Bool := [0x810, 0x811, 0x812, 0x813, 0x830].contains (opcodeOf f)

/-- The slots that name descriptors. -/
def polySlots (f : Frond) : List Nat := if polyTwo f then [0, 1, 3] else [0, 3]

/-- Reserved bits, and fields that the opcode does not use. -/
def polyForm (f : Frond) : Bool :=
  let o := opcodeOf f
  let word2 := [7, 15, 23, 31].all (fun i => !nbit (par f 2) i)
  if o = 0x211 then
    parF f 0 6 26 == 0 && par f 1 == 0 && word2 && zeroPars f [3, 4, 5] && arithWord f
  else
    parF f 0 4 4 == 0 && parF f 0 16 16 == 0 && (pTol f == 0 || o == 0x810 || o == 0x811) && parF f 1 6 26 == 0 &&
    (pTarget f == 0 || o == 0x823 || o == 0x821) && (if isBconv f then word2 else par f 2 == 0) && zeroPars f [3, 4, 5, 6]

/-- Engines named, slot forms and roles, and fields in range (R229, R233, R321). -/
def polyLegal (f : Frond) : Bool :=
  let o := opcodeOf f
  (if o = 0x211 then mbMask f != 0 else parF f 0 0 4 != 0) && (polySlots f).all (ctdSlot f) &&
  [0, 1, 2, 3].all (fun i => (polySlots f).contains i || (slotOf f i).empty) &&
  (!isBconv f || (decide (srcFirst f ≤ 79) && decide (1 ≤ srcCount f) && decide (srcCount f ≤ 64) &&
    decide (dstFirst f ≤ 79) && decide (1 ≤ dstCount f) && decide (dstCount f ≤ 64)))

/-! ### The result (R237, R239–R242) -/

/-- The result's SCALE, exact (R237). -/
def polyScale (s : State) (f : Frond) (a b : Ctd) : Int :=
  let o := opcodeOf f
  if o = 0x812 ∨ o = 0x813 ∨ o = 0x830 then (a.scale : Int) + b.scale
  else if o = 0x820 then (a.scale : Int) - primeLog2 s (a.pbase + a.level)
  else a.scale

/-- The result descriptor, but for budget and poison; `d` is the destination's as the program supplies it. -/
def polyResult (s : State) (f : Frond) (a b d : Ctd) : Ctd :=
  let o := opcodeOf f
  { a with
    fp := if polyTwo f && a.polys == 1 && a.fp == 0 then b.fp else a.fp
    domain := if o = 0x800 then 1 else if o = 0x801 then 0 else a.domain
    polys := if o = 0x830 then 3 else if o = 0x810 ∨ o = 0x811 then max a.polys b.polys else a.polys
    level := if o = 0x820 then a.level - 1 else if o = 0x821 ∨ o = 0x823 then pTarget f
             else if isBconv f then dstCount f - 1 else a.level
    special := if isBconv f then 0 else a.special
    pbase := if isBconv f then dstFirst f else a.pbase
    limbsMax := if isBconv f then dstCount f else a.limbsMax
    scale := (polyScale s f a b).toNat
    poly := d.poly
    stride := d.stride
    poison := false }

/-- Source positions of a base conversion. -/
def bconvSrc (f : Frond) : List Nat := (List.range (srcCount f)).map (fun k => srcFirst f + k)

/-- The opcode's requirements in step 4 (R239–R242). -/
def polyNeeds (s : State) (f : Frond) (a b : Ctd) : Bool :=
  let o := opcodeOf f
  if o = 0x812 then a.polys == b.polys
  else if o = 0x813 then b.polys == 1
  else if o = 0x830 then a.polys == 2 && b.polys == 2
  else if o = 0x820 then a.special == 0
  else if o = 0x823 then a.special == 0 && decide (pTarget f ≤ a.level)
  else if o = 0x821 then a.level == 0 && a.special == 0 && decide (pTarget f < a.limbsMax)
  else if isBconv f then
    (bconvSrc f).all (fun p => a.positions.contains p) && decide (dstFirst f + dstCount f ≤ 80) &&
      (bconvSrc f).all (fun p => (List.range (dstCount f)).all (fun j => ctdPrime s a p != primeQ s (dstFirst f + j)))
  else true

/-- Step 6: domains. -/
def polyDomains (f : Frond) (a b : Ctd) : Bool :=
  let o := opcodeOf f
  if o = 0x800 ∨ o = 0x821 ∨ isBconv f = true then a.domain == 0
  else if o = 0x801 then a.domain == 1
  else if o = 0x812 ∨ o = 0x813 ∨ o = 0x830 then a.domain == 1 && b.domain == 1
  else if polyTwo f then a.domain == b.domain
  else true

/-- Step 7: scales. -/
def polyScales (s : State) (f : Frond) (a b : Ctd) : Bool :=
  let o := opcodeOf f
  let x := polyScale s f a b
  decide (0 ≤ x) && decide (x ≤ 0xFFFF) &&
    ((o != 0x810 && o != 0x811) || (decide (a.scale ≤ b.scale + pTol f) && decide (b.scale ≤ a.scale + pTol f)))

/-- Sources with their slots. -/
def polySrc (f : Frond) (a b : Ctd) : List (Nat × Ctd) := if polyTwo f then [(0, a), (1, b)] else [(0, a)]

/-- Steps 1 to 7 of R233. -/
def polyChecks (s : State) (f : Frond) (a b res : Ctd) : Option Status :=
  let src := polySrc f a b
  firstFail
    [ (!((src.map (·.1)).all (fun i => ctdForm (descOf f i)) && resultForm res), .skipIllegal),
      (!(src.all (fun x => spansIn f x.1 x.2.spans) && spansIn f 3 res.spans), .skipBound),
      (ctdOverlap s f [(3, res)] src, .skipOverlap),
      (!(src.all (fun x => ctdPrimes s x.2) && (!polyTwo f || sameGeometry a b) && polyNeeds s f a b && ctdPrimes s res),
        .skipParam),
      (!fpsOk s f.region (src.map (·.2)), .skipKeyset),
      (!polyDomains f a b, .skipDomain),
      (!polyScales s f a b, .skipScale) ]

/-- The cost code of an opcode (R235). -/
def polyCode (f : Frond) : Nat :=
  let o := opcodeOf f
  if o = 0x800 ∨ o = 0x801 then 0 else if o = 0x810 ∨ o = 0x811 ∨ o = 0x814 then 1 else if o = 0x813 then 2
  else if o = 0x812 ∨ o = 0x830 then 3 else if o = 0x820 then 4 else if o = 0x823 then 5 else if isBconv f then 6 else 7

/-- The result's budget (R236). -/
def polyBudget (f : Frond) (src : List Ctd) (r : Run) : Budget × Run :=
  let fp := commonFp src
  let k := r.cost fp (polyCode f)
  if opcodeOf f = 0x821 then (freshBudget k.2.st f.region fp k.1, k.2)
  else
    let b := budgetOf k.2.st f.region src k.1
    (b.1, { k.2 with st := b.2 })

/-! ### Limbs (R239–R242) -/

/-- Positions of slot 0 whose limbs are held from the first unit on. -/
def heldOf (f : Frond) (a : Ctd) : List Nat :=
  if opcodeOf f = 0x820 then [a.level] else if opcodeOf f = 0x821 then [0] else if isBconv f then bconvSrc f else []

/-- A source limb of slot `slot`; M-blocks have no counter of reduced residues. -/
def Run.polyLimb (r : Run) (slot : Nat) (c : Ctd) (i p j : Nat) : List Nat × Run :=
  if opcodeOf r.fr = 0x211 then
    let v := r.rdLimb slot (winAddr r.fr slot (c.limbOff i p)) c.n
    let q := ctdPrime r.st c p
    (v.1.map (· % q), if v.1.any (fun x => decide (q ≤ x)) then v.2.flag fResReduced else v.2)
  else r.srcLimb slot c i p j

/-- Limbs of a list of (polynomial, position, result limb number). -/
def Run.limbs (r : Run) (slot : Nat) (c : Ctd) (l : List (Nat × Nat × Nat)) : List (List Nat) × Run :=
  l.foldl (fun p x => let v := p.2.polyLimb slot c x.1 x.2.1 x.2.2; (p.1 ++ [v.1], v.2)) ([], r)

/-- A list cut into runs of `k`. -/
def polyChunks {α : Type} (k : Nat) : Nat → List α → List (List α)
  | 0, _ => []
  | n + 1, l => l.take k :: polyChunks k n (l.drop k)

/-- RESCALE of one limb from the top one (R240). -/
def rescaleLimb (s : State) (a : Ctd) (p : Nat) (x top : List Nat) : List Nat :=
  let qt := ctdPrime s a a.level
  let q := ctdPrime s a p
  let w := if a.domain = 1 then inttLimb qt (psiOf s (a.pbase + a.level) a.log2n) a.log2n top else top
  let c := limbLift qt q w
  let d := if a.domain = 1 then nttLimb q (psiOf s (a.pbase + p) a.log2n) a.log2n c else c
  limbScale q (invMod q (qt % q)) (limbSub q x d)

/-- The result limbs at a position, one a polynomial, from the limbs of both sources there and the held ones. -/
def polyLimbs (s : State) (f : Frond) (a res : Ctd) (p : Nat) (x y : List (List Nat)) (held : List (List (List Nat))) :
    List (List Nat) :=
  let o := opcodeOf f
  let q := ctdPrime s res p
  let z := limbZero a.n
  let psi := psiOf s (res.pbase + p) a.log2n
  let both (op : List Nat → List Nat → List Nat) : List (List Nat) :=
    (List.range res.polys).map (fun i => op (x.getD i z) (y.getD i z))
  let mul (i j : Nat) : List Nat := limbMul q (x.getD i z) (y.getD j z)
  if o = 0x800 then x.map (nttLimb q psi a.log2n)
  else if o = 0x801 then x.map (inttLimb q psi a.log2n)
  else if o = 0x810 then both (limbAdd q)
  else if o = 0x811 then both (limbSub q)
  else if o = 0x812 then both (limbMul q)
  else if o = 0x813 then x.map (fun u => limbMul q u (y.getD 0 z))
  else if o = 0x814 then x.map (limbNeg q)
  else if o = 0x830 then [mul 0 0, limbAdd q (mul 0 1) (mul 1 0), mul 1 1]
  else if o = 0x820 then (x.zip held).map (fun u => rescaleLimb s a p u.1 (u.2.getD 0 z))
  else if o = 0x821 then held.map (fun h => limbLift (ctdPrime s a 0) q (h.getD 0 z))
  else if isBconv f then held.map (fun h => baseConv q ((bconvSrc f).map (ctdPrime s a)) h a.n)
  else x

/-- A result limb is stored and counted (R245, R324). -/
def Run.polyStore (r : Run) (res : Ctd) (i p j : Nat) (l : List Nat) : Run :=
  if opcodeOf r.fr = 0x211 then
    let m := (mbList r.fr).getD (j % mbCount r.fr) 0
    (r.wrLimb 3 (winAddr r.fr 3 (res.limbOff i p)) l).up
      (fun s => bumpUnits s (rMb r.fr.region m 0x20) 20 (res.n * srcCount r.fr))
  else r.dstLimb 3 res i p j l

/-- One result position: every limb there is read before one is written (R234). -/
def polyPosition (a b res : Ctd) (r0 : Run) : Run :=
  let f := r0.fr
  let ps := res.positions
  let p := ps.getD f.unit 0
  let hs := heldOf f a
  let at0 (n : Nat) : List (Nat × Nat × Nat) := (List.range n).map (fun i => (i, p, i * ps.length + f.unit))
  let r := if f.unit = 0 ∧ hs.isEmpty = false then
      (let v := r0.limbs 0 a ((List.range a.polys).flatMap (fun i => hs.map (fun h => (i, h, i * ps.length))))
       { v.2 with fr := { v.2.fr with work := v.2.fr.work ++ v.1.flatten } })
    else r0
  let held := (polyChunks (hs.length * a.n) a.polys (r.fr.work.drop 1)).map (polyChunks a.n hs.length)
  let x := if opcodeOf f = 0x821 || isBconv f then ([], r) else r.limbs 0 a (at0 a.polys)
  let y := if polyTwo f then x.2.limbs 1 b (at0 b.polys) else ([], x.2)
  let out := polyLimbs y.2.st f a res p x.1 y.1 held
  let w := (List.range res.polys).foldl (fun z i => z.polyStore res i p (i * ps.length + f.unit) (out.getD i [])) y.2
  if f.unit + 1 = ps.length then
    w.putDesc 3 (ctdBytes { res with budget := w.fr.work.headD 0, poison := w.fr.poisoned })
  else w

/-- The descriptors are read and checked on the first beat of execution (R233). -/
def polyStart (a b res : Ctd) (r : Run) : Run :=
  let f := r.fr
  let src := polySrc f a b
  match polyChecks r.st f a b res with
  | some x => r.halt x
  | none =>
    let k := polyBudget f (src.map (·.2)) r
    if !k.1.ok || (opcodeOf f == 0x820 && a.level == 0) then k.2.halt .skipBudget
    else if src.any (fun x => x.2.poison || descPoisoned k.2.st f x.1) then
      k.2.poisonedResult [(3, ctdBytes { res with budget := k.1.value.toNat, poison := true })]
    else
      polyPosition a b res { k.2 with fr := { k.2.fr with units := res.positions.length, work := [k.1.value.toNat] } }

/-- One result limb position, over all polynomials (R243). -/
def polyUnit (r0 : Run) : Run :=
  let r := if r0.fr.unit = 0 then r0.loadDescs (polySlots r0.fr) else r0
  let f := r.fr
  let a := ctdOf (descOf f 0)
  let b := if polyTwo f then ctdOf (descOf f 1) else a
  let res := polyResult r.st f a b (ctdOf (descOf f 3))
  if !r.ok then r
  else if f.unit = 0 then polyStart a b res r
  else polyPosition a b res r

/-! ### Latency classes (R243, R322) -/

/-- Sectors read through slot 0, and through slot 1. -/
def polyReads (f : Frond) (a b : Ctd) : Nat × Nat :=
  let o := opcodeOf f
  let n := if o = 0x823 then pTarget f + 1 else if o = 0x821 then 1 else if isBconv f then srcCount f else a.positions.length
  (a.polys * n * a.secs, if polyTwo f then b.polys * b.positions.length * b.secs else 0)

/-- The compute term. -/
def polyCompute (f : Frond) (a res : Ctd) : Nat :=
  let o := opcodeOf f
  let n := a.n
  let lg := a.log2n
  let k := pbCount f
  let l := a.positions.length
  let l2 := res.positions.length
  let p := res.polys
  if o = 0x800 ∨ o = 0x801 then ceilDiv (p * l) k * (n * lg / 1024)
  else if o = 0x830 then ceilDiv l2 k * (4 * n / 512)
  else if o = 0x820 then
    (if a.domain = 0 then p * ceilDiv (l - 1) k * (2 * n / 512)
     else p * (n * lg / 1024 + ceilDiv (l - 1) k * (n * lg / 1024 + 2 * n / 512)))
  else if o = 0x821 then p * ceilDiv l2 k * (n / 512)
  else if o = 0x822 then p * ceilDiv (n * (srcCount f + srcCount f * dstCount f)) (512 * k)
  else ceilDiv (p * l2) k * (n / 512)

def polyFixed (f : Frond) : Nat :=
  let o := opcodeOf f
  if o = 0x800 ∨ o = 0x801 then 40 else if o = 0x820 then 48 else if o = 0x821 then 32
  else if isBconv f then 32 + srcCount f * dstCount f else 24

/-- The engine size term. -/
def polySize (f : Frond) (a b res : Ctd) : Nat :=
  let sin := (polyReads f a b).1 + (polyReads f a b).2
  let sout := res.polys * res.positions.length * res.secs
  if opcodeOf f = 0x211 then
    max (res.polys * ceilDiv (a.n * srcCount f * dstCount f) (1024 * mbCount f)) (ceilDiv (32 * (sin + sout)) (512 * mbCount f))
  else
    let io := 1024 * min (pbCount f) 2
    max (polyCompute f a res) (max (ceilDiv (32 * sin) io) (ceilDiv (32 * sout) io))

/-- The descriptors as memory holds them at acceptance (log entry 75). -/
def polyAt (s : State) (f : Frond) : Ctd × Ctd × Ctd :=
  let a := ctdOf (descAt s f 0)
  let b := if polyTwo f then ctdOf (descAt s f 1) else a
  (a, b, polyResult s f a b (ctdOf (descAt s f 3)))

def specPoly (f : Frond) : OpSpec :=
  let src := (polySlots f).filter (· != 3)
  let b := streamSpec f src []
  { b with
    form := polyForm f
    check := fun _ => firstFail [(!polyLegal f, .skipIllegal)]
    dctds := [3]
    outs := fun s => absSpans s f 3 (polyAt s f).2.2.spans
    latency := fun s _ g _ =>
      let d := polyAt s g
      let v := polyReads g d.1 d.2.1
      timeOf (polyFixed g) (polySize g d.1 d.2.1 d.2.2)
        ([ctdTerm s g 0 d.1 (32 * v.1) false] ++ (if polyTwo g then [ctdTerm s g 1 d.2.1 (32 * v.2) false] else []) ++
         [ctdTerm s g 3 d.2.2 (32 * (d.2.2.polys * d.2.2.positions.length * d.2.2.secs)) true])
    touches := fun s rep =>
      let d := polyAt s f
      slotStarts f rep ++ polyStarts f 0 d.1 ++ (if polyTwo f then polyStarts f 1 d.2.1 else []) ++ polyStarts f 3 d.2.2
    replay := fun s =>
      let o := opcodeOf f
      if o = 0x211 then 8 + 16 * srcCount f
      else if o = 0x800 ∨ o = 0x801 ∨ o = 0x820 then 16 + (polyAt s f).1.n / 1024 else 16
    engines := if opcodeOf f = 0x211 then (mbList f).map (fun m => f.region * 64 + m) else pbEngines f
    units := fun s _ => (polyAt s f).2.2.positions.length }

/-! ### The commands -/

/-- NTT (R227). -/
def execNtt (f : FrondRef) (n : Nat) (s : State) : Answer := runFrond 0x800 polyUnit f n s
/-- INTT (R227). -/
def execIntt (f : FrondRef) (n : Nat) (s : State) : Answer := runFrond 0x801 polyUnit f n s
/-- PADD (R239). -/
def execPadd (f : FrondRef) (n : Nat) (s : State) : Answer := runFrond 0x810 polyUnit f n s
/-- PSUB (R239). -/
def execPsub (f : FrondRef) (n : Nat) (s : State) : Answer := runFrond 0x811 polyUnit f n s
/-- PMUL (R239). -/
def execPmul (f : FrondRef) (n : Nat) (s : State) : Answer := runFrond 0x812 polyUnit f n s
/-- PMUL_PLAIN (R239). -/
def execPmulPlain (f : FrondRef) (n : Nat) (s : State) : Answer := runFrond 0x813 polyUnit f n s
/-- PNEG (R239). -/
def execPneg (f : FrondRef) (n : Nat) (s : State) : Answer := runFrond 0x814 polyUnit f n s
/-- RESCALE (R240). -/
def execRescale (f : FrondRef) (n : Nat) (s : State) : Answer := runFrond 0x820 polyUnit f n s
/-- MODRAISE (R241). -/
def execModraise (f : FrondRef) (n : Nat) (s : State) : Answer := runFrond 0x821 polyUnit f n s
/-- BASECONV_P (R242). -/
def execBaseconvP (f : FrondRef) (n : Nat) (s : State) : Answer := runFrond 0x822 polyUnit f n s
/-- MODDROP (R239). -/
def execModdrop (f : FrondRef) (n : Nat) (s : State) : Answer := runFrond 0x823 polyUnit f n s
/-- TENSOR (R239). -/
def execTensor (f : FrondRef) (n : Nat) (s : State) : Answer := runFrond 0x830 polyUnit f n s
/-- BASECONV_M (R319). -/
def execBaseconvM (f : FrondRef) (n : Nat) (s : State) : Answer := runFrond 0x211 polyUnit f n s

end Sys2Proof.Machine
end

