-- ==== Sys2Proof/Machine/Encode.lean ====
section
/-! DEFINITION. Fixed-point encoding into residues and back: FIX_TO_RES and RES_TO_FIX (R244). -/

namespace Sys2Proof.Machine
open Sys2Proof

def fixShift (f : Frond) : Nat := parF f 1 0 7
def toRes (f : Frond) : Bool := opcodeOf f == 0x610

/-- The slot that names the descriptor, and the stream. -/
def fixCtd (f : Frond) : Nat := if toRes f then 3 else 0
def fixStream (f : Frond) : Nat := if toRes f then 0 else 3

def fixForm (f : Frond) : Bool :=
  parF f 0 3 29 == 0 && arithWord f && zeroPars f [2, 3, 4, 5] && parF f 1 7 25 == 0

/-- Slot forms, roles and formats, and SHIFT. -/
def fixLegal (f : Frond) : Bool :=
  ctdSlot f (fixCtd f) && emptySlots f [1, 2] && fullSlots f [fixStream f] && (slotOf f (fixStream f)).good &&
  (if toRes f then [1, 8] else [1, 2, 3, 8]).contains (slotOf f (fixStream f)).fmt &&
  decide (fixShift f ≤ if toRes f then 62 else 126)

/-- The stream's count is a degree bound. -/
def fixCount (f : Frond) : Bool := (List.range 8).any (fun k => (slotOf f (fixStream f)).elems == 2 ^ (10 + k))

/-- The descriptor that FIX_TO_RES writes, from the one that the program supplies. -/
def fixResult (f : Frond) (d : Ctd) : Ctd :=
  { d with domain := 0, polys := 1, special := 0, scale := fixShift f * 256, budget := 0xFFFF, poison := false }

/-- The descriptor that a frond works with. -/
def fixDesc (f : Frond) (b : List Nat) : Ctd := if toRes f then fixResult f (ctdOf b) else ctdOf b

/-- The descriptor's bytes in the form of R233's step 1; of a destination's, the supplied fields count. -/
def fixCtdForm (f : Frond) (b : List Nat) : Bool :=
  if toRes f then !ctdReserved b && ctdForm ((ctdBytes (fixDesc f b)).map BitVec.toNat) else ctdForm b

/-- The stream shares a byte with the descriptor or its polynomials (R234). -/
def fixOverlap (s : State) (f : Frond) (c : Ctd) : Bool :=
  let i := fixCtd f
  let j := fixStream f
  let e := absSpan s f (slotOf f j) (slotOf f j).posRange
  ctdOverlap s f [(i, c)] [] || overlaps e (descSpan s f i) || (absSpans s f i c.spans).any (overlaps e)

def fixChecks (s : State) (f : Frond) (b : List Nat) : Option Status :=
  let c := fixDesc f b
  firstFail
    [ (!fixCtdForm f b, .skipIllegal),
      (!spansIn f (fixCtd f) c.spans, .skipBound),
      (fixOverlap s f c, .skipOverlap),
      (!(ctdPrimes s c && (slotOf f (fixStream f)).elems == c.n && (toRes f || (c.polys == 1 && decide (c.level ≤ 1) && c.special == 0))),
        .skipParam),
      (!fpsOk s f.region [c], .skipKeyset),
      (c.domain != 0, .skipDomain) ]

/-- Progress units of 1,024 destination elements (R122). -/
def fixUnits (f : Frond) (c : Ctd) : Nat := if toRes f then (c.level + 1) * (c.n / 1024) else c.n / 1024

/-- v × 2^SHIFT rounded to an integer within ±(2^62 − 1). -/
def fixValue (f : Frond) (fmt b r16 : Nat) : Flagged Int :=
  let a := arithOf f false
  let lim : Int := 2 ^ 62 - 1
  let x := readNum fmt a.strict 1 b
  match x.1 with
  | .nan => (0, x.2 ||| (fNanToInt + fInvalid))
  | .inf neg => (if neg then -lim else lim, x.2 ||| fSaturated)
  | .fin neg m =>
    let v := roundInt a neg { m with exp := m.exp + fixShift f } r16
    if lim < v.1 then (lim, x.2 ||| fSaturated)
    else if v.1 < -lim then (-lim, x.2 ||| fSaturated)
    else (v.1, x.2 ||| flagIf (a.strict && v.2) fInexact)

/-- A residue of FIX_TO_RES: residue `k` at position `p`. -/
def fixElem (c : Ctd) (p k : Nat) (r : Run) : Run :=
  let f := r.fr
  let d := slotOf f 0
  let v := r.rd d k
  let m := fixValue f d.fmt v.1 (drawOf f (arithOf f false) k)
  let a := winAddr f 3 (c.limbOff 0 p + 32 * (k / 7))
  let x := (v.2.flag m.2).touchWrite 3 a
  let y := if x.ok then x.wrRes 3 a (k % 7) (modInt (ctdPrime x.st c p) m.1) else x
  y.up (fun s => bumpUnits s (vbReg f 8) 10 1)

/-- The lift of one or two residues (R244). -/
def fixLift (s : State) (c : Ctd) (x0 x1 : Nat) : Int :=
  let q0 := ctdPrime s c 0
  let q1 := ctdPrime s c 1
  if c.level = 0 then lift q0 x0
  else
    let t := (x1 + q1 - x0 % q1) % q1 * invMod q1 (q0 % q1) % q1
    lift (q0 * q1) (x0 + q0 * t)

/-- An element of RES_TO_FIX. -/
def fixBack (c : Ctd) (k : Nat) (r : Run) : Run :=
  let f := r.fr
  let a := arithOf f (vSat f)
  let rdAt (x : Run) (p : Nat) : Nat × Run :=
    let v := x.rdBytes 0 (winAddr f 0 (c.limbOff 0 p + 32 * (k / 7))) 32 true
    let w := readRes (ctdPrime x.st c p) (secField v.1 (k % 7))
    (w.1, v.2.flag w.2)
  let u := rdAt r 0
  let w := if c.level = 0 then (0, u.2) else rdAt u.2 1
  let z := fixLift w.2.st c u.1 w.1
  let x : Num := .fin (decide (z < 0)) ⟨z.natAbs, 1, -(fixShift f : Int), false⟩
  let d := slotOf f 3
  let n := drawOf f a k
  let y := if isFloat d.fmt then writeFloat d.fmt a x n else floatToInt d.fmt a x n
  ((w.2.flag y.2).wr d k y.1).up (fun s => bumpUnits s (vbReg f 8) 10 1)

/-- A unit of 1,024 elements. -/
def fixGo (c : Ctd) (r : Run) : Run :=
  let u := r.fr.unit
  let per := c.n / 1024
  if toRes r.fr then
    let x := forWhile (fun y => !y.ok) (u % per * 1024) 1024 (fixElem c (u / per)) r
    let y := (x.flush (fun _ => false)).wroteRun (winAddr r.fr 3 (c.limbOff 0 (u / per))) (if u % per + 1 = per then 32 * c.secs else 0)
    if u + 1 = fixUnits r.fr c then y.putDesc 3 (ctdBytes { c with poison := y.fr.poisoned }) else y
  else forWhile (fun y => !y.ok) (u * 1024) 1024 (fixBack c) r

/-- FIX_TO_RES and RES_TO_FIX. -/
def fixUnit (r0 : Run) : Run :=
  let i := fixCtd r0.fr
  let r := if r0.fr.unit = 0 then r0.loadDescs [i] else r0
  let b := descOf r.fr i
  let c := fixDesc r.fr b
  if !r.ok then r
  else if r.fr.unit = 0 then
    match fixChecks r.st r.fr b with
    | some x => r.halt x
    | none =>
      if !toRes r.fr && (c.poison || descPoisoned r.st r.fr 0) then r.poisonedResult []
      else fixGo c { r with fr := { r.fr with units := fixUnits r.fr c } }
  else fixGo c r

def specFix (f : Frond) : OpSpec :=
  let b := streamSpec f [0] (if toRes f then [] else [3])
  let c (s : State) : Ctd := fixDesc f (descAt s f (fixCtd f))
  { b with
    form := fixForm f
    check := fun _ => firstFail [(!fixLegal f, .skipIllegal), (!fixCount f, .skipShape)]
    dctds := if toRes f then [3] else []
    outs := fun s => if toRes f then absSpans s f 3 (c s).spans else []
    latency := fun s _ g rep =>
      let d := c s
      let e := (d.level + 1) * d.n
      timeOf 8 (ceilDiv e 128)
        [ctdTerm s g (fixCtd g) d (32 * (d.level + 1) * d.secs) (toRes g), streamTerm s g rep (fixStream g) (!toRes g)]
    touches := fun s rep => slotStarts f rep ++ polyStarts f (fixCtd f) (c s)
    replay := fun _ => 4
    engines := [vblockEngine f]
    units := fun s _ => fixUnits f (c s) }

/-! ### The commands -/

/-- FIX_TO_RES (R244). -/
def execFixToRes (f : FrondRef) (n : Nat) (s : State) : Answer := runFrond 0x610 fixUnit f n s
/-- RES_TO_FIX (R244). -/
def execResToFix (f : FrondRef) (n : Nat) (s : State) : Answer := runFrond 0x611 fixUnit f n s

end Sys2Proof.Machine
end

