-- ==== Sys2Proof/Machine/Func.lean ====
section
/-! DEFINITION. Special functions over table set FT1, moments, normalisation and the soft maximum (R348–R369). The
coefficients of FT1 are not printed (R351): `Config.ft1`, a constant without a body. -/

namespace Sys2Proof.Machine
open Sys2Proof

/-! ### FP32 steps (R350, R356, R359) -/

/-- A value followed by an operation on it, flags joined. -/
def andThen {α β : Type} (x : Flagged α) (k : α → Flagged β) : Flagged β :=
  let y := k x.1
  (y.1, x.2 ||| y.2)

/-- A value rounded to FP32 under RNE, in the frond's mode: fl of R359. -/
def fl32 (strict : Bool) (x : Flagged Num) : Flagged Num := roundNum 1 ⟨strict, 0, false⟩ x 0

/-- A step of a function: rounded to FP32 in fast mode, exact in strict mode (R350). -/
def fnStep (strict : Bool) (x : Flagged Num) : Flagged Num := if strict then x else fl32 false x

/-- The mode in which exact sums are formed. -/
def exactArith : Arith := ⟨true, 0, false⟩

def addX (x y : Num) : Flagged Num := numAdd exactArith x y
def subX (x y : Num) : Flagged Num := numAdd exactArith x (numNeg y)

/-- x × y + z, exact. -/
def fmaX (x y z : Num) : Flagged Num := andThen (numMul x y) (fun p => addX p z)

/-! ### Exact pieces -/

def Num.mag : Num → Mag
  | .fin _ m => m
  | _ => Mag.nat 0

def Num.neg : Num → Bool
  | .fin s _ => s
  | .inf s => s
  | .nan => false

def Num.isZero : Num → Bool
  | .fin _ m => m.isZero
  | _ => false

/-- x × 2^k. -/
def Mag.scale (m : Mag) (k : Int) : Mag := { m with exp := m.exp + k }
def Num.scale (x : Num) (k : Int) : Num := match x with | .fin s m => .fin s (m.scale k) | y => y

/-- A value with a sign put to it. -/
def Num.signed (s : Bool) (x : Num) : Num := if s then numNeg x else x

/-- The greatest integer not above a value. -/
def numFloor (x : Num) : Int :=
  let p := x.mag.ratio 0
  if x.neg then -((ceilDiv p.1 p.2 : Nat) : Int) else ((p.1 / p.2 : Nat) : Int)

/-- A value less its floor. -/
def numFrac (x : Num) : Num := (addX x (Num.int (-(numFloor x)))).1

/-- A magnitude is at least `k`. -/
def Mag.atLeast (m : Mag) (k : Nat) : Bool := let p := m.ratio 0; decide (k * p.2 ≤ p.1)

/-- L_e, L_2, L_r and L_p: nearest values of 48 significand bits (R348). -/
def constLe : Num := .fin false ⟨203041276517400, 1, -47, false⟩
def constL2 : Num := .fin false ⟨195103586505167, 1, -48, false⟩
def constLr : Num := .fin false ⟨199032864766430, 1, -48, false⟩
def constLp : Num := .fin false ⟨179192535600708, 1, -48, false⟩

/-! ### Segments (R349) -/

/-- Coefficient `i` of a segment of the table of function `t`. -/
def coef (t s i : Nat) : Num := (readFloat 1 true (Config.ft1 t s i % 2 ^ 32)).1

/-- seg_eval for v = (r − lo) × k / w, the `k` segments of a table from segment `base` on. -/
def segEval (strict : Bool) (t base k : Nat) (v : Mag) : Flagged Num :=
  let p := v.ratio 0
  let top := decide (k ≤ p.1 / p.2)
  let s := base + (if top then k - 1 else p.1 / p.2)
  let u : Num := if top then Num.int 1 else numFrac (.fin false v)
  andThen (fnStep strict (u, 0)) (fun x =>
    andThen (fnStep strict (fmaX x (coef t s 3) (coef t s 2))) (fun a =>
      andThen (fnStep strict (fmaX x a (coef t s 1))) (fun b => fnStep strict (fmaX x b (coef t s 0)))))

/-! ### The functions of finite values (R348) -/

/-- T(r) × 2^n of a finite u; beyond ±2,000 every n overflows or underflows alike. -/
def exp2Of (strict : Bool) (t : Nat) (u : Num) : Flagged Num :=
  let n := max (-2000) (min 2000 (numFloor u))
  andThen (segEval strict t 0 64 ((numFrac u).mag.scale 6)) (fun y => fnStep strict (y.scale n, 0))

/-- EXP by its table. -/
def expOf (strict : Bool) (x : Num) : Flagged Num := exp2Of strict 0 (numMul x constLe).1

/-- n + T(m) of a positive x. -/
def log2Of (strict : Bool) (t : Nat) (x : Num) : Flagged Num :=
  let n := x.mag.log2
  let m := x.mag.scale (-n)
  andThen (segEval strict t 0 64 ((subX (.fin false m) (Num.int 1)).1.mag.scale 6)) (fun y =>
    fnStep strict (addX (Num.int n) y))

/-- T(m) × 2^(−n) of a positive x. -/
def rsqrtOf (strict : Bool) (x : Num) : Flagged Num :=
  let n := x.mag.log2 / 2
  let m := x.mag.scale (-(2 * n))
  let hi := m.atLeast 2
  let v := (subX (.fin false m) (Num.int (if hi then 2 else 1))).1.mag.scale (if hi then 4 else 5)
  andThen (segEval strict 4 (if hi then 32 else 0) 32 v) (fun y => fnStep strict (y.scale (-n), 0))

def tanhOf (strict : Bool) (x : Num) : Flagged Num :=
  let a := x.mag
  let y := if a.atLeast 8 then
      andThen (expOf strict (.fin true (a.scale 1))) (fun e =>
        andThen (fnStep strict (e.scale 1, 0)) (fun d => fnStep strict (subX (Num.int 1) d)))
    else segEval strict 5 0 64 (a.scale 3)
  (Num.signed x.neg y.1, y.2)

def sigmoidOf (strict : Bool) (x : Num) : Flagged Num :=
  let a := x.mag
  if a.atLeast 16 then
    (if x.neg then expOf strict x
     else andThen (expOf strict (numNeg x)) (fun e => fnStep strict (subX (Num.int 1) e)))
  else
    andThen (segEval strict 6 0 64 (a.scale 2)) (fun y =>
      if x.neg && !x.isZero then fnStep strict (subX (Num.int 1) y) else (y, 0))

def erfOf (strict : Bool) (x : Num) : Flagged Num :=
  if x.isZero then (x, 0)
  else
    let y := if x.mag.atLeast 4 then (Num.int 1, 0) else segEval strict 7 0 64 (x.mag.scale 4)
    (Num.signed x.neg y.1, y.2)

def geluOf (strict : Bool) (x : Num) : Flagged Num :=
  andThen (fnStep strict (numMul x constLr)) (fun z =>
    andThen (erfOf strict z) (fun e =>
      andThen (fnStep strict (addX (Num.int 1) e)) (fun s =>
        andThen (fnStep strict (x.scale (-1), 0)) (fun h => fnStep strict (numMul h s)))))

def siluOf (strict : Bool) (x : Num) : Flagged Num :=
  andThen (sigmoidOf strict x) (fun y => fnStep strict (numMul x y))

/-- SIN and, a quarter turn on, COS. -/
def sinOf (strict : Bool) (turn : Int) (x : Num) : Flagged Num :=
  let u := (numMul x constLp).1
  let n := numFloor (addX u (.fin false ⟨1, 1, -1, false⟩)).1
  let r := (addX u (Num.int (-n))).1
  let v := r.mag.scale 6
  let k := (n + turn) % 4
  let y := if k % 2 = 0 then
      (let t := segEval strict 10 0 32 v; (Num.signed r.neg t.1, t.2))
    else segEval strict 10 32 32 v
  (Num.signed (decide (2 ≤ k)) y.1, y.2)

/-- A function of a finite value that R355 does not settle. -/
def fnFinite (strict : Bool) (fn : Nat) (x : Num) : Flagged Num :=
  if fn = 0 then expOf strict x
  else if fn = 1 then exp2Of strict 1 x
  else if fn = 2 then andThen (log2Of strict 2 x) (fun y => fnStep strict (numMul y constL2))
  else if fn = 3 then log2Of strict 3 x
  else if fn = 4 then rsqrtOf strict x
  else if fn = 5 then tanhOf strict x
  else if fn = 6 then sigmoidOf strict x
  else if fn = 7 then erfOf strict x
  else if fn = 8 then geluOf strict x
  else if fn = 9 then siluOf strict x
  else if fn = 10 then sinOf strict 0 x
  else sinOf strict 1 x

/-- The special inputs of R355. -/
def fnSpecial (fn : Nat) (x : Num) : Option (Flagged Num) :=
  match x with
  | .nan => some (.nan, 0)
  | .inf s =>
    some (if fn ≤ 1 then (if s then .zero false else .inf false, 0)
      else if fn ≤ 3 then (if s then (.nan, fInvalid) else (.inf false, 0))
      else if fn = 4 then (if s then (.nan, fInvalid) else (.zero false, 0))
      else if fn = 5 ∨ fn = 7 then (Num.signed s (Num.int 1), 0)
      else if fn = 6 then (if s then .zero false else Num.int 1, 0)
      else if fn ≤ 9 then (if s then .zero true else .inf false, 0)
      else (.nan, fInvalid))
  | .fin s m =>
    if fn = 2 ∨ fn = 3 then (if m.isZero then some (.inf true, fDivZero) else if s then some (.nan, fInvalid) else none)
    else if fn = 4 then (if m.isZero then some (.inf s, fDivZero) else if s then some (.nan, fInvalid) else none)
    else if m.isZero && [5, 7, 8, 9, 10].contains fn then some (x, 0)
    else none

/-- y of a function, before its last rounding. -/
def fnValue (strict : Bool) (fn : Nat) (x : Num) : Flagged Num :=
  match fnSpecial fn x with
  | some y => y
  | none => fnFinite strict fn x

/-- The element is evaluated through a table (R369). -/
def fnTable (fn : Nat) (x : Num) : Bool :=
  (fnSpecial fn x).isNone && !(fn == 7 && x.mag.atLeast 4) && !(fn == 8 && (numMul x constLr).1.mag.atLeast 4)

/-- y rounded into a format; an FP32 step that overflowed is an overflow of the result (R115, R355). -/
def fnWrite (fmt : Nat) (a : Arith) (y : Flagged Num) (r16 : Nat) : Flagged Nat :=
  match y.1 with
  | .inf neg =>
    if y.2 &&& fOverflow ≠ 0 then (let b := overflowTo fmt a neg; (b.1, (y.2 - fOverflow) ||| b.2))
    else (let b := writeFloat fmt a y.1 r16; (b.1, y.2 ||| b.2))
  | _ => (let b := writeFloat fmt a y.1 r16; (b.1, y.2 ||| b.2))

/-- A function to an FP32 result under RNE, in the frond's mode (R359, R361). -/
def fn32 (strict : Bool) (fn : Nat) (x : Num) : Flagged Num :=
  let b := fnWrite 1 ⟨strict, 0, false⟩ (fnValue strict fn x) 0
  ((readFloat 1 true b.1).1, b.2)

/-! ### Moments (R356) -/

/-- A count with its mean and its second moment. -/
structure Moment where
  n : Nat
  mean : Num
  m2 : Num
deriving DecidableEq, Repr

/-- One element of welford. -/
def welfordStep (strict : Bool) (p : Flagged Moment) (x : Num) : Flagged Moment :=
  let f := fl32 strict
  andThen p (fun q =>
    andThen (f (subX x q.mean)) (fun d =>
      andThen (f (numDiv d (Num.int (q.n + 1)))) (fun e =>
        andThen (f (addX q.mean e)) (fun mean =>
          andThen (f (subX x mean)) (fun g =>
            andThen (f (numMul d g)) (fun v =>
              andThen (f (addX q.m2 (numMax v (.zero false)))) (fun m2 => (⟨q.n + 1, mean, m2⟩, 0))))))))

/-- welford over a chunk. -/
def welford (strict : Bool) (l : List Num) : Flagged Moment :=
  l.foldl (welfordStep strict) (⟨0, .zero false, .zero false⟩, 0)

/-- chan: `a` holds the lower chunk indices. -/
def chan (strict : Bool) (a b : Moment) : Flagged Moment :=
  let f := fl32 strict
  let n := a.n + b.n
  andThen (f (subX b.mean a.mean)) (fun delta =>
    andThen (f (numDiv (Num.int b.n) (Num.int n))) (fun w =>
      andThen (f (numMul delta w)) (fun p =>
        andThen (f (addX a.mean p)) (fun mean =>
          andThen (f (addX a.m2 b.m2)) (fun s =>
            andThen (f (numMul delta delta)) (fun d2 =>
              andThen (f (numDiv (Num.int (a.n * b.n)) (Num.int n))) (fun c =>
                andThen (f (numMul d2 c)) (fun t =>
                  andThen (f (addX s t)) (fun m2 => (⟨n, mean, m2⟩, 0))))))))))

/-- A list cut into chunks of 256; the first argument bounds their number. -/
def chunks {α : Type} : Nat → List α → List (List α)
  | 0, _ => []
  | n + 1, l => if l.isEmpty then [] else l.take 256 :: chunks n (l.drop 256)

/-- The mean and the variance of a segment; a NaN or an infinity in it makes both NaN (R358). -/
def momentsOf (strict : Bool) (ddof : Nat) (l : List Num) : Flagged (Num × Num) :=
  let c := (chunks (l.length / 256 + 1) l).map (welford strict)
  let t := treeOf (fun _ a b => chan strict a b) ⟨0, .zero false, .zero false⟩ (c.map (·.1))
  let fs := (c.map (·.2)).foldl (· ||| ·) 0 ||| t.2
  let v := fl32 strict (numDiv t.1.m2 (Num.int ((t.1.n : Int) - ddof)))
  let odd := l.any (fun x => match x with | .fin _ _ => false | _ => true)
  ((if odd then .nan else t.1.mean, if odd then .nan else numMax v.1 (.zero false)), fs ||| v.2)

/-! ### Operand rules (R364–R366) -/

/-- EPS and SCALE. -/
def fpParam (f : Frond) : Nat := par f 2

def nFinite (b : Nat) : Bool := nfld b 23 8 != 255

/-- Fields that R365 does not name are 0. -/
def funcForm (f : Frond) : Bool :=
  let o := opcodeOf f
  parF f 0 5 3 == 0 && parF f 0 12 20 == 0 && parF f 5 0 8 == 0 && arithWord f && (o == 0x500 || (!vMask f && !vZero f)) &&
  (o != 0x500 || vSeg f == 1) && ([0x410, 0x411, 0x510].contains o || fpParam f == 0) &&
  (selKind f 1 == 3 || par f 3 == 0) && (selKind f 2 == 3 || par f 4 == 0) &&
  [0, 1, 2, 3].all (fun i => selKind f i == 2 || selIndex f i == 0)

/-- What each operand has to be. -/
def funcNeeds (f : Frond) : List Need :=
  let o := opcodeOf f
  let wide : Need := ⟨true, true, [1], Option.none⟩
  let gamma := wide.orImm 1
  let state := Need.one [1]
  if o = 0x500 then [Need.shared, Need.none, ((Need.one [0x18]).orImm 0x18).if (vMask f), Need.shared]
  else if o = 0x404 then [Need.shared, Need.none, Need.none, Need.one [1]]
  else if o = 0x410 then [Need.shared, gamma, gamma.if (selKind f 2 != 0), wide]
  else if o = 0x411 then [Need.shared, gamma, Need.none, wide]
  else if o = 0x510 then [Need.shared, state, (Need.one floatFmts).if (selKind f 2 != 0), wide]
  else [Need.shared, state, Need.none, wide]

/-- FUNC codes, DDOF, EPS and SCALE in range. -/
def funcFields (f : Frond) (_ : Option Nat) : Bool :=
  let o := opcodeOf f
  let b := fpParam f
  if o = 0x500 then decide (vFunc f ≤ 11)
  else if o = 0x404 then decide (vFunc f ≤ 1)
  else vFunc f == 0 &&
    (if o = 0x410 ∨ o = 0x411 then nFinite b && (!nbit b 31 || nfld b 0 31 == 0)
     else if o = 0x510 then nFinite b && nfld b 0 31 != 0
     else true)

/-- Element counts. -/
def funcCounts (f : Frond) (c : Nat → Option Nat) (_ : Option Nat) : Bool :=
  let o := opcodeOf f
  let seg := vSeg f
  if o = 0x500 then eqKnown (c 0) (c 3) && eqKnown (c 0) (c 2) && eqKnown (c 2) (c 3)
  else if o = 0x404 then ifKnown (c 0) (fun a => a % seg == 0) && ifBoth (c 0) (c 3) (fun a d => d * seg == 2 * a)
  else
    let e := orKnown (c 0) (c 3)
    eqKnown (c 0) (c 3) && ifKnown e (fun n => n % seg == 0) &&
    (if o = 0x410 ∨ o = 0x411 then ifKnown (c 1) (fun n => n == seg) && ifKnown (c 2) (fun n => n == seg)
     else if o = 0x510 then
       decide (seg ≤ 4096) && ifBoth e (c 1) (fun n b => b == 2 * (n / seg)) && ifBoth e (c 2) (fun n m => m % (n / seg) == 0)
     else ifKnown (c 1) (fun b => b % 2 == 0) && ifBoth e (c 1) (fun n b => n == b / 2 * seg))

def funcRules (f : Frond) : Rules :=
  let o := opcodeOf f
  { needs := funcNeeds f, allowed := floatFmts, fields := funcFields f, counts := funcCounts f, res := false,
    inout := if o = 0x510 then (if selKind f 2 = 0 then [1] else [1, 2]) else [],
    twice := if o = 0x410 ∨ o = 0x411 then [0] else [],
    same := if [0x500, 0x410, 0x411, 0x511].contains o then [0] else [] }

/-! ### Latency classes (R367, R368) -/

def specFunc (f : Frond) : OpSpec :=
  let o := opcodeOf f
  let v := funcRules f
  let half := if nbit (par f 6) 0 then 2 else 1
  let w (sh : Nat → Word) (i : Nat) : Nat := fmtBits ((opFmt f (some sh) i).getD 0)
  let wide (sh : Nat → Word) : Nat := max (w sh 0) (w sh 3)
  let n (sh : Nat → Word) (i : Nat) : Nat := (opCount f (some sh) i).getD 0
  let rE (x : Nat) : Nat := fullRate x / half
  let rF (x : Nat) : Nat := fullRate x / (if o = 0x500 ∧ (vFunc f = 8 ∨ vFunc f = 9) then 4 else 2) / half
  let c := ceilLog2 (ceilDiv (vSeg f) 256)
  let fixed : Nat :=
    if o = 0x500 then 14 else if o = 0x404 then 12 + 2 * c else if o = 0x410 then 20 + 2 * c
    else if o = 0x411 then 20 + 2 * ceilLog2 (vSeg f) else if o = 0x510 then 24 + 2 * ceilLog2 (vSeg f) else 19
  let compute (sh : Nat → Word) : Nat :=
    let e := n sh 0
    if o = 0x500 then ceilDiv e (rF (wide sh))
    else if o = 0x404 then ceilDiv e (64 / half)
    else if o = 0x410 then ceilDiv e (64 / half) + ceilDiv e (rE (wide sh))
    else if o = 0x411 then 2 * ceilDiv e (rE (wide sh))
    else if o = 0x510 then ceilDiv e (rE (wide sh)) + ceilDiv e (rF (wide sh)) +
      (if selKind f 2 = 0 then 0 else ceilDiv (n sh 2) (rE (w sh 2)))
    else ceilDiv e (fullRate (w sh 3) / 4 / half)
  opsSpec v f (funcForm f) (fun _ => fixed) compute (if o = 0x511 then 16 else 8)
    (fun sh => if o = 0x500 then ceilDiv (n sh 3) 1024 else n sh 0 / vSeg f)

/-! ### FUNC -/

/-- A read value of an operand's format, with its flags joined to the run's. -/
def Run.rdNum (r : Run) (o : Opnd) (fmt : Nat) (strict : Bool) (e : Nat) : Num × Run :=
  let x := r.rdOp o e
  let v := readFloat fmt strict x.1
  (v.1, x.2.flag v.2)

/-- Elements of an operand, read as values. -/
def Run.rdNums (r : Run) (o : Opnd) (fmt : Nat) (strict : Bool) (lo n : Nat) : List Num × Run :=
  forWhile (fun p => !p.2.ok) lo n (fun e p => let v := p.2.rdNum o fmt strict e; (p.1 ++ [v.1], v.2)) ([], r)

/-- `n` destination elements have been written, `k` of them through a table. -/
def Run.counted (r : Run) (n k : Nat) : Run :=
  r.up (fun s => bumpUnits (bumpUnits s (vbReg r.fr 8) 10 n) (vbReg r.fr 0x28) 10 k)

/-- Element `e` of a FUNC, under its write mask (R330). -/
def funcElem (fmt e : Nat) (r : Run) : Run :=
  let f := r.fr
  let a := arithOf f (vSat f)
  let x := r.rdOp (opndOf f 0) e
  let z := x.2.rdOp (opndOf f 2) e
  let d := opndOf f 3
  if vMask f && !nbit z.1 0 then
    let m := z.2.up (fun s => bump s (vbReg f 0x10) 1)
    if vZero f then (m.wrOp d e 0).counted 1 0 else m.skipOp d e
  else
    let v := readFloat fmt a.strict x.1
    let w := fnWrite fmt a (fnValue a.strict (vFunc f) v.1) (drawOf z.2.fr a e)
    (((z.2.flag v.2).flag w.2).wrOp d e w.1).counted 1 (b2n (fnTable (vFunc f) v.1))

def funcUnit (r : Run) : Run :=
  r.gate (opsLate (funcRules r.fr) r.fr) true (fun x => x.each 1024 (x.countOf 3) (funcElem (x.fmtOf 0)))

/-! ### Rows and segments -/

/-- A unit of one segment or row, counted in NORM_CNT. -/
def segUnit (body : Nat → Run → Run) (r : Run) : Run :=
  r.gate (opsLate (funcRules r.fr) r.fr) true (fun x => (body x.fr.unit x).up (fun s => bump s (vbReg r.fr 0x30) 1))

/-- Values written into a destination operand from element `lo` on, rounded under ARITH; the draw of the first is
number `dr`. -/
def Run.wrNums (r : Run) (o : Opnd) (fmt lo dr : Nat) (a : Arith) (l : List Num) : Run :=
  (l.foldl (fun (p : Nat × Run) v =>
    let w := writeFloat fmt a v (drawOf p.2.fr a (dr + p.1))
    (p.1 + 1, (p.2.flag w.2).wrOp o (lo + p.1) w.1)) (0, r)).2

/-- MOMENTS of segment `s`. -/
def momentsSeg (s : Nat) (r : Run) : Run :=
  let f := r.fr
  let a := arithOf f (vSat f)
  let l := r.rdNums (opndOf f 0) (r.fmtOf 0) a.strict (s * vSeg f) (vSeg f)
  let m := momentsOf a.strict (vFunc f) l.1
  ((l.2.flag m.2).wrNums (opndOf f 3) 1 (2 * s) (2 * s) a [m.1.1, m.1.2]).counted 2 0

/-- RSQRT(fl(v + EPS)). -/
def rstdOf (f : Frond) (strict : Bool) (v : Num) : Flagged Num :=
  let e := readFloat 1 strict (fpParam f)
  andThen e (fun x => andThen (fl32 strict (addX v x)) (fn32 strict 4))

/-- Gamma or beta; what stands for none. -/
def Run.rdScale (r : Run) (i : Nat) (strict : Bool) (none : Num) : List Num × Run :=
  let f := r.fr
  match opndOf f i with
  | .none => (List.replicate (vSeg f) none, r)
  | .imm b => (let v := readFloat 1 strict b; (List.replicate (vSeg f) v.1, r.flag v.2))
  | o => r.rdNums o (r.fmtOf i) strict 0 (vSeg f)

/-- Values with flags, apart. -/
def apart {α : Type} (l : List (Flagged α)) : List α × Nat := (l.map (·.1), (l.map (·.2)).foldl (· ||| ·) 0)

/-- The last step of a normalisation: u × gamma + beta, or u × gamma. -/
def Run.wrAffine (r : Run) (s : Nat) (beta : Bool) (u : List (Flagged Num)) (g b : List Num) : Run :=
  let f := r.fr
  let a := arithOf f (vSat f)
  let p := apart u
  let q := apart (((p.1.zip g).zip b).map (fun x =>
    if beta then andThen (numMul x.1.1 x.1.2) (fun m => numAdd a m x.2) else numMul x.1.1 x.1.2))
  (((r.flag p.2).flag q.2).wrNums (opndOf f 3) (r.fmtOf 3) (s * vSeg f) (s * vSeg f) a q.1).counted (vSeg f) 1

/-- LAYERNORM of segment `s` (R359). -/
def layerSeg (s : Nat) (r : Run) : Run :=
  let f := r.fr
  let a := arithOf f (vSat f)
  let l := r.rdNums (opndOf f 0) (r.fmtOf 0) a.strict (s * vSeg f) (vSeg f)
  let m := momentsOf a.strict 0 l.1
  let k := rstdOf f a.strict m.1.2
  let g := ((l.2.flag m.2).flag k.2).rdScale 1 a.strict (Num.int 1)
  let b := g.2.rdScale 2 a.strict (.zero false)
  let u := l.1.map (fun x => andThen (fl32 a.strict (subX x m.1.1)) (fun t => fl32 a.strict (numMul t k.1)))
  b.2.wrAffine s true u g.1 b.1

/-- RMSNORM of segment `s` (R360). -/
def rmsSeg (s : Nat) (r : Run) : Run :=
  let f := r.fr
  let a := arithOf f (vSat f)
  let l := r.rdNums (opndOf f 0) (r.fmtOf 0) a.strict (s * vSeg f) (vSeg f)
  let q := apart (l.1.map (fun x => fl32 a.strict (numMul x x)))
  let t := treeOf (fun _ x y => fl32 a.strict (addX x y)) (.zero false) q.1
  let k := andThen (fl32 a.strict (numDiv t.1 (Num.int (vSeg f)))) (rstdOf f a.strict)
  let g := (l.2.flag (q.2 ||| t.2 ||| k.2)).rdScale 1 a.strict (Num.int 1)
  g.2.wrAffine s false (l.1.map (fun x => fl32 a.strict (numMul x k.1))) g.1 (g.1.map (fun _ => .zero false))

/-! ### The soft maximum (R361–R363) -/

/-- What a row of SOFTMAX_STEP yields: p by column, α, l and m. -/
structure SoftRow where
  p : List Num
  alpha : Num
  l : Num
  m : Num

/-- One row of SOFTMAX_STEP on values that have been read. A NaN among the scores or in the state makes everything NaN;
under a maximum of +∞ α is NaN as the element is (log entry 82). -/
def softRow (strict : Bool) (scale : Num) (m l : Num) (x : List Num) : Flagged SoftRow :=
  let xs := apart (x.map (fun v => fl32 strict (numMul v scale)))
  if m == .nan || l == .nan || xs.1.contains .nan then
    (⟨x.map (fun _ => .nan), .nan, .nan, .nan⟩, xs.2)
  else
    let mn := xs.1.foldl numMax m
    if mn = .inf true then (⟨x.map (fun _ => .zero false), Num.int 1, l, mn⟩, xs.2)
    else
      let e (v : Num) : Flagged Num := andThen (fl32 strict (subX v mn)) (fn32 strict 0)
      let p := apart (xs.1.map e)
      let alpha : Flagged Num := if mn = .inf false then (.nan, fInvalid) else e m
      let s := treeOf (fun _ u v => fl32 strict (addX u v)) (.zero false) p.1
      let l2 := fl32 strict (fmaX l alpha.1 s.1)
      (⟨p.1, alpha.1, l2.1, mn⟩, xs.2 ||| p.2 ||| alpha.2 ||| s.2 ||| l2.2)

/-- A value written to the state, which never rounds. -/
def Run.wrState (r : Run) (e : Nat) (v : Num) : Run :=
  r.wrOp (opndOf r.fr 1) e (writeFloat 1 exactArith v 0).1

/-- Row `k` of a SOFTMAX_STEP. -/
def stepRow (k : Nat) (r : Run) : Run :=
  let f := r.fr
  let a := arithOf f (vSat f)
  let n := vSeg f
  let x := r.rdNums (opndOf f 0) (r.fmtOf 0) a.strict (k * n) n
  let st := x.2.rdNums (opndOf f 1) 1 a.strict (2 * k) 2
  let sc := readFloat 1 a.strict (fpParam f)
  let w := softRow a.strict sc.1 (st.1.getD 0 (.zero false)) (st.1.getD 1 (.zero false)) x.1
  let total := r.countOf 0
  let wc := if selKind f 2 = 0 then 0 else r.countOf 2 / (total / n)
  let c := st.2.rdNums (opndOf f 2) (r.fmtOf 2) a.strict (k * wc) wc
  let y := (((c.2.flag sc.2).flag w.2).wrNums (opndOf f 3) (r.fmtOf 3) (k * n) (k * n) a w.1.p).counted n (n + 1)
  let cs := apart (c.1.map (fun v => numMul v w.1.alpha))
  let z := (y.flag cs.2).wrNums (opndOf f 2) (r.fmtOf 2) (k * wc) (total + k * wc) a cs.1
  (z.wrState (2 * k) w.1.m).wrState (2 * k + 1) w.1.l

/-- Row `k` of a SOFTMAX_CORRECT: a row whose m is −∞ is +0 throughout, with no flag. -/
def correctRow (k : Nat) (r : Run) : Run :=
  let f := r.fr
  let a := arithOf f (vSat f)
  let n := vSeg f
  let st := r.rdOps (opndOf f 1) (2 * k) 2
  let m := readFloat 1 a.strict (st.1.getD 0 0)
  let l := readFloat 1 a.strict (st.1.getD 1 0)
  let x := st.2.rdOps (opndOf f 0) (k * n) n
  let d := opndOf f 3
  if m.1 = .inf true then (x.2.wrOps d (k * n) (List.replicate n 0)).counted n 0
  else
    let v := readAll (r.fmtOf 0) a.strict x.1
    let q := apart (v.1.map (fun y => numDiv y l.1))
    (((x.2.flag (m.2 ||| l.2 ||| v.2)).flag q.2).wrNums d (r.fmtOf 3) (k * n) (k * n) a q.1).counted n 0

/-! ### The commands -/

/-- FUNC (R348–R355). -/
def execFunc (f : FrondRef) (n : Nat) (s : State) : Answer := runFrond 0x500 funcUnit f n s

/-- MOMENTS (R356–R358). -/
def execMoments (f : FrondRef) (n : Nat) (s : State) : Answer := runFrond 0x404 (segUnit momentsSeg) f n s

/-- LAYERNORM (R359). -/
def execLayernorm (f : FrondRef) (n : Nat) (s : State) : Answer := runFrond 0x410 (segUnit layerSeg) f n s

/-- RMSNORM (R360). -/
def execRmsnorm (f : FrondRef) (n : Nat) (s : State) : Answer := runFrond 0x411 (segUnit rmsSeg) f n s

/-- SOFTMAX_STEP (R361). -/
def execSoftmaxStep (f : FrondRef) (n : Nat) (s : State) : Answer := runFrond 0x510 (segUnit stepRow) f n s

/-- SOFTMAX_CORRECT (R362). -/
def execSoftmaxCorrect (f : FrondRef) (n : Nat) (s : State) : Answer := runFrond 0x511 (segUnit correctRow) f n s

end Sys2Proof.Machine
end

