-- ==== Sys2Proof/Machine/Streams.lean ====
section
/-! DEFINITION. The stream fronds MOVE, FILL and PREFETCH (R199–R201) and the copy engine's COPY, RELAYOUT, TRANSPOSE
and PERMUTE (R211–R213, R218). -/

namespace Sys2Proof.Machine
open Sys2Proof

/-! ### Shared -/

/-- The larger of the extents of slots 0 and 3. -/
def copyBytes (f : Frond) (range : Nat → Int × Int) : Nat := max (slotBytes f range 0) (slotBytes f range 3)

/-- Slots 0 and 3 carry one format. -/
def sameFmt (f : Frond) : Bool := (slotOf f 0).fmt == (slotOf f 3).fmt

/-- Slots 0 and 3 carry one LAYOUT and one AUX. -/
def sameLayout (f : Frond) : Bool := (slotOf f 0).layout == (slotOf f 3).layout && (slotOf f 0).aux == (slotOf f 3).aux

/-- Element `e` of slot 0 goes to element `e` of slot 3. -/
def copyElem (f : Frond) (e : Nat) (r : Run) : Run :=
  let v := r.rd (slotOf f 0) e
  v.2.wr (slotOf f 3) e v.1

/-- A unit of an element-for-element copy. -/
def copyUnit (r : Run) : Run := r.each (unitElems (slotOf r.fr 3).fmt) (slotOf r.fr 3).elems (copyElem r.fr)

/-! ### MOVE, FILL, PREFETCH -/

/-- No slot names more than 2^40 elements (R200). -/
def elemsOk (f : Frond) : Bool := [0, 1, 2, 3].all (fun i => (slotOf f i).empty || decide ((slotOf f i).elems ≤ 2 ^ 40))

/-- MOVE and PREFETCH. -/
def specMove (f : Frond) : OpSpec :=
  let b := streamSpec f [0] [3]
  let same := sameSlot f 0 3
  { b with
    form := zeroPars f [0, 1, 2, 3, 4, 5, 6]
    noop := same
    check := fun s => firstFail
      [ (!slotsGood f || !elemsOk f, .skipIllegal),
        (!emptySlots f [1, 2] || !fullSlots f [0, 3] || !sameFmt f || !sameLayout f, .skipIllegal),
        ((slotOf f 0).elems != (slotOf f 3).elems || decide (maxExtent < slotBytes f b.range 3), .skipShape),
        (!same && slotsOverlap s f b.range 0 3, .skipOverlap) ]
    latency := fun s _ g rep => streamTime s g rep 8 (ceilDiv (copyBytes f b.range) 2048) b.range [0] [3] (fun _ => none)
    units := fun _ _ => unitsOfElems (slotOf f 3) (slotOf f 3).elems }

/-- VALUE of a FILL. -/
def fillValue (f : Frond) : Nat := par f 0 + par f 1 * 2 ^ 32

def specFill (f : Frond) : OpSpec :=
  let b := streamSpec f [] [3]
  let d := slotOf f 3
  let prime := parF f 2 0 7
  { b with
    form := zeroPars f [3, 4, 5, 6] && parF f 2 7 25 == 0 && (d.fmt == 0x10 || prime == 0)
    check := fun s => firstFail
      [ (!slotsGood f || !elemsOk f, .skipIllegal),
        (!emptySlots f [0, 1, 2] || !fullSlots f [3] || decide (2 ^ fmtBits d.fmt ≤ fillValue f), .skipIllegal),
        (d.fmt == 0x10 && !primeLoaded s prime, .skipParam) ]
    latency := fun s _ g rep => streamTime s g rep 8 (ceilDiv (slotBytes f b.range 3) 2048) b.range [] [3] (fun _ => none)
    units := fun _ _ => unitsOfElems d d.elems }

/-- The element that FILL writes, with its flags (R105, R199). -/
def fillElem (s : State) (f : Frond) : Flagged Nat :=
  if (slotOf f 3).fmt = 0x10 then readRes (primeQ s (parF f 2 0 7)) (fillValue f) else (fillValue f, 0)

/-- A unit of a FILL. -/
def fillUnit (r : Run) : Run :=
  let v := fillElem r.st r.fr
  let d := slotOf r.fr 3
  (r.flag v.2).each (unitElems d.fmt) d.elems (fun e x => x.wr d e v.1)

/-! ### COPY, RELAYOUT, TRANSPOSE, PERMUTE -/

/-- PERM: the source level of destination level `l`. -/
def permOf (f : Frond) (l : Nat) : Nat := parF f 0 (3 * l) 3

/-- PERM is a permutation of 0–5. -/
def permOk (f : Frond) : Bool := [0, 1, 2, 3, 4, 5].all (fun k => (List.range 6).any (fun l => permOf f l == k))

/-- Every count of a slot is 1 and every stride 0. -/
def unlooped (d : Slot) : Bool := d.cnt.all (· == 1) && d.str.all (· == 0)

/-- The pairs of a TRANSPOSE's destination: its rows from the source's columns (R211). -/
def transposeRange (f : Frond) (i : Nat) : Int × Int :=
  if i = 3 then (slotOf f 3).band (slotOf f 0).colRange.1 (slotOf f 0).colRange.2 else (slotOf f i).posRange

/-- The fields that each copy opcode asks for beyond R211's common ones. -/
def copyFields (f : Frond) : Bool :=
  let o := opcodeOf f
  let a := slotOf f 0
  let d := slotOf f 3
  if o = 0x110 then sameLayout f
  else if o = 0x111 then !sameLayout f
  else if o = 0x112 then a.blocked && d.blocked && unlooped d && d.colmask == 0
  else permOk f

/-- The counts that each copy opcode asks for (R211, R213). -/
def copyShape (f : Frond) : Bool :=
  let o := opcodeOf f
  let a := slotOf f 0
  let d := slotOf f 3
  if o = 0x112 then d.rows == a.cols && d.cols == a.rows
  else a.elems == d.elems && (o != 0x113 || (List.range 6).all (fun l => a.c (permOf f l) == d.c l))

/-- COPY, RELAYOUT, TRANSPOSE and PERMUTE. -/
def specCopy (f : Frond) : OpSpec :=
  let o := opcodeOf f
  let range := if o = 0x112 then transposeRange f else fun i => (slotOf f i).posRange
  let same := o = 0x110 && sameSlot f 0 3
  let n := if o = 0x112 then (slotOf f 0).elems else (slotOf f 3).elems
  let v := copyBytes f range
  { streamSpec f [0] [3] with
    form := zeroPars f [1, 2, 3, 4, 5, 6] && parF f 0 18 14 == 0 && (o == 0x113 || par f 0 == 0)
    range := range
    noop := same
    check := fun s => firstFail
      [ (!slotsGood f || !emptySlots f [1, 2] || !fullSlots f [0, 3] || !sameFmt f || !copyFields f, .skipIllegal),
        (!copyShape f || decide (maxExtent < slotBytes f range 0) || decide (maxExtent < slotBytes f range 3), .skipShape),
        (!same && slotsOverlap s f range 0 3, .skipOverlap) ]
    latency := fun s _ g rep =>
      streamTime s g rep 12 (ceilDiv v (if o = 0x110 ∨ o = 0x111 then 1024 else 512)) range [0] [3]
        (fun i => if o = 0x112 ∧ i = 3 then some (slotSize s g rep 3 false (slotBytes f range 3)) else none)
    engines := [f.region * 64 + 15]
    units := fun _ _ => unitsOfElems (slotOf f 3) n }

/-- TRANSPOSE: element `e` of the source, at its pair (r, c), goes to pair (c, r) of the destination; a pair outside the
array is clamped on both sides (R209, R211). -/
def transposeElem (f : Frond) (e : Nat) (r : Run) : Run :=
  let a := slotOf f 0
  let d := slotOf f 3
  let v := r.rd a e
  let p := d.posPair v.2.fr.rep (a.pair e).swap
  (v.2.clamp a e).wrPlace d (d.addr p) (d.within p) v.1 false

def transposeUnit (r : Run) : Run := r.each (unitElems (slotOf r.fr 0).fmt) (slotOf r.fr 0).elems (transposeElem r.fr)

/-- PERMUTE: the source position of destination element `e`: k at level PERM[l] is j at level l (R211). -/
def permSource (f : Frond) (e : Nat) : Nat :=
  let d := slotOf f 3
  (slotOf f 0).posOf ((List.range 6).map (fun m => ((List.range 6).filter (fun l => permOf f l == m)).foldl (fun _ l => d.loop e l) 0))

def permuteElem (f : Frond) (e : Nat) (r : Run) : Run :=
  let v := r.rd (slotOf f 0) (permSource f e)
  v.2.wr (slotOf f 3) e v.1

def permuteUnit (r : Run) : Run := r.each (unitElems (slotOf r.fr 3).fmt) (slotOf r.fr 3).elems (permuteElem r.fr)

/-! ### The commands -/

/-- MOVE (R199–R201). -/
def execMove (f : FrondRef) (n : Nat) (s : State) : Answer := runFrond 0x100 copyUnit f n s

/-- FILL (R199–R201). -/
def execFill (f : FrondRef) (n : Nat) (s : State) : Answer := runFrond 0x101 fillUnit f n s

/-- PREFETCH (R199–R201): a MOVE whose service at the towers differs only in time. -/
def execPrefetch (f : FrondRef) (n : Nat) (s : State) : Answer := runFrond 0x102 copyUnit f n s

/-- COPY (R211, R218). -/
def execCopy (f : FrondRef) (n : Nat) (s : State) : Answer := runFrond 0x110 copyUnit f n s

/-- RELAYOUT (R211, R218). -/
def execRelayout (f : FrondRef) (n : Nat) (s : State) : Answer := runFrond 0x111 copyUnit f n s

/-- TRANSPOSE (R211, R218). -/
def execTranspose (f : FrondRef) (n : Nat) (s : State) : Answer := runFrond 0x112 transposeUnit f n s

/-- PERMUTE (R211, R218). -/
def execPermute (f : FrondRef) (n : Nat) (s : State) : Answer := runFrond 0x113 permuteUnit f n s

end Sys2Proof.Machine
end

