-- ==== Sys2Proof/Machine/Gather.lean ====
section
/-! DEFINITION. GATHER, SCATTER and SCATTER_ADD (R214–R219). -/

namespace Sys2Proof.Machine
open Sys2Proof

/-- W, the row length. -/
def rowLen (f : Frond) : Nat := parF f 0 0 16 + 1

/-- N, the index positions. -/
def indexCount (f : Frond) : Nat := (slotOf f 1).elems

/-- The table's slot. -/
def tableSlot (f : Frond) : Nat := if opcodeOf f = 0x700 then 0 else 3

/-- X, the rows of the table. -/
def tableRows (f : Frond) : Nat := (slotOf f (tableSlot f)).elems / rowLen f

/-- B, the bytes of one row (R219). -/
def rowBytes (f : Frond) : Nat :=
  if (slotOf f 0).fmt = 0x10 then rowLen f / 7 * 32 else ceilDiv (rowLen f * fmtBits (slotOf f 0).fmt) 8

/-- s, the sectors touched by one row of the table (R219). -/
def rowSectors (f : Frond) : Nat :=
  let d := slotOf f (tableSlot f)
  let b := rowBytes f
  if !d.blocked && d.isRun then (if d.base % 32 = 0 ∧ b % 32 = 0 then b / 32 else ceilDiv b 32 + 1) else rowLen f

/-- Z of a table slot in a tower (R219). -/
def tableSize (s : State) (g : Frond) (rep i : Nat) : Option Nat :=
  if i = tableSlot g ∧ (slotMem s g.region (slotOf g i) rep).tower = true then
    let z := ceilDiv (24 * 32 * indexCount g * rowSectors g) (allotOf s g i)
    some (if opcodeOf g = 0x702 then 2 * z else z)
  else none

/-- The counts of R214. -/
def gatherShape (f : Frond) : Bool :=
  let w := rowLen f
  let nw := indexCount f * w
  let table := (slotOf f (tableSlot f)).elems
  let data := (slotOf f (if opcodeOf f = 0x700 then 3 else 0)).elems
  data == nw && table % w == 0 && decide (0 < table) && decide (indexCount f ≤ 2 ^ 31)

/-- GATHER, SCATTER and SCATTER_ADD. -/
def specGather (f : Frond) : OpSpec :=
  let o := opcodeOf f
  let n := indexCount f
  let b := streamSpec f [0, 1] [3]
  let fmt := (slotOf f 0).fmt
  let big := [0, 1, 3].any (fun i => decide (maxExtent < slotBytes f b.range i))
  { b with
    form := zeroPars f [2, 3, 4, 5] && parF f 0 16 16 == 0 && parF f 1 7 25 == 0 &&
      ((o == 0x702 && fmt == 0x10) || par f 1 == 0) && arithWord f
    check := fun s => firstFail
      [ (!slotsGood f || !emptySlots f [2] || !fullSlots f [0, 1, 3] || !sameFmt f, .skipIllegal),
        ((slotOf f 1).fmt != 8 || fmt == 0xC || fmt == 0x18 || (fmt == 0x10 && rowLen f % 7 != 0) ||
          (o == 0x702 && !([1, 2, 3, 8, 0x10].contains fmt)), .skipIllegal),
        (o == 0x702 && fmt == 0x10 && !primeLoaded s (parF f 1 0 7), .skipParam),
        (!gatherShape f || big, .skipShape),
        (slotsOverlap s f b.range 0 3 || slotsOverlap s f b.range 1 3, .skipOverlap) ]
    latency := fun s _ g rep =>
      let size := if o = 0x702 then 2 * n + ceilDiv (n * rowBytes f) 512 else n + ceilDiv (n * rowBytes f) 1024
      streamTime s g rep 16 size b.range [0, 1] [3] (tableSize s g rep)
    engines := [f.region * 64 + 15]
    units := fun _ _ => ceilDiv n 64 }

/-! ### One window -/

/-- The clamped index at a position, with the counts of R215 and R220. -/
def readIndex (f : Frond) (n : Nat) (r : Run) : Nat × Run :=
  let v := r.rd (slotOf f 1) n
  let x := sext 32 v.1
  let c := clampTo (tableRows f) x
  if v.2.ok && decide ((c : Int) ≠ x) then
    (c, { v.2 with fr := { v.2.fr with clamped := true }, st := bump v.2.st (rCpy f.region 8) 1 })
  else (c, v.2)

/-- The indices of the window in hand, by position. -/
def readWindow (f : Frond) (r : Run) : List (Nat × Nat) × Run :=
  let u := unitSpan r.fr 64 (indexCount f)
  forWhile (fun p => !p.2.ok) u.1 u.2
    (fun n p => let x := readIndex f n p.2; (p.1 ++ [(n, x.1)], x.2)) ([], r)

/-- The distinct rows of a window, in order of their first position. -/
def distinctRows (l : List (Nat × Nat)) : List Nat :=
  l.foldl (fun a p => if a.contains p.2 then a else a ++ [p.2]) []

/-- Row reads saved (R217, R220). -/
def noteSaved (f : Frond) (l : List (Nat × Nat)) (r : Run) : Run :=
  r.up (fun s => bump s (rCpy f.region 0x10) (l.length - (distinctRows l).length))

/-- The elements of row `x` of a slot. -/
def readRow (f : Frond) (slot x : Nat) (r : Run) : List Nat × Run :=
  forWhile (fun p => !p.2.ok) 0 (rowLen f)
    (fun m p => let v := p.2.rd (slotOf f slot) (x * rowLen f + m); (p.1 ++ [v.1], v.2)) ([], r)

/-- The elements of a row written from position `x` × W on. -/
def writeRow (f : Frond) (slot x : Nat) (l : List Nat) (r : Run) : Run :=
  (l.foldl (fun (p : Nat × Run) v => (p.1 + 1, p.2.wr (slotOf f slot) (x * rowLen f + p.1) v)) (0, r)).2

/-- A window of a GATHER: each distinct row is read once (R217). -/
def gatherUnit (r : Run) : Run :=
  let f := r.fr
  let w := readWindow f r
  let rows := (distinctRows w.1).foldl
    (fun (p : List (Nat × List Nat) × Run) x => let v := readRow f 0 x p.2; (aset p.1 x v.1, v.2)) ([], w.2)
  w.1.foldl (fun x p => writeRow f 3 p.1 ((aget rows.1 p.2).getD []) x) (noteSaved f w.1 rows.2)

/-- A row of the table is poisoned (R215). -/
def rowPoisoned (f : Frond) (x : Nat) (r : Run) : Bool :=
  let d := slotOf f 3
  forRange 0 (rowLen f) (fun m b => b || poisonedAt r.st (d.addr (d.pos r.fr.rep (x * rowLen f + m)))) false

/-- A window of a SCATTER: of positions with one index the highest stands (R214). -/
def scatterUnit (r : Run) : Run :=
  let f := r.fr
  let w := readWindow f r
  let r1 := (distinctRows w.1).foldl (fun x k => x.taint (rowPoisoned f k x)) (noteSaved f w.1 w.2)
  let one (x : Run) (p : Nat × Nat) : Run :=
    let v := readRow f 0 p.1 x
    if w.1.any (fun q => q.2 == p.2 && decide (p.1 < q.1)) then v.2 else writeRow f 3 p.2 v.1 v.2
  w.1.foldl one r1

/-- The sum of a table element and a source element (R216). -/
def scatterSum (s : State) (f : Frond) (a b n : Nat) : Flagged Nat :=
  let c := arithOf f false
  let fmt := (slotOf f 3).fmt
  if fmt = 0x10 then
    let q := primeQ s (parF f 1 0 7)
    let x := readRes q a
    let y := readRes q b
    ((x.1 + y.1) % q, x.2 ||| y.2)
  else if fmt = 8 then
    let v := sext 32 a + sext 32 b
    (wrapInt 32 v, flagIf (decide (v < intMin 8) || decide (intMax 8 < v)) fIntOvf)
  else apply2 fmt c (numAdd c) a b (drawOf f c n)

/-- The engine's buffer of a SCATTER_ADD window: storage position, element position and value (R217). -/
abbrev AddBuf := List (Int × Nat × Nat)

/-- One element of a SCATTER_ADD: the table value comes from the buffer, or is read into it first. -/
def addElem (f : Frond) (n x m : Nat) (p : AddBuf × Run) : AddBuf × Run :=
  let d := slotOf f 3
  let e := x * rowLen f + m
  let pos := d.pos p.2.fr.rep e
  let old : Nat × Run := match p.1.find? (fun k => k.1 == pos) with
    | some k => (k.2.2, p.2)
    | none => p.2.rd d e
  let src := old.2.rd (slotOf f 0) (n * rowLen f + m)
  let v := scatterSum src.2.st src.2.fr old.1 src.1 (n * rowLen f + m)
  (p.1.filter (fun k => k.1 != pos) ++ [(pos, e, v.1)], src.2.flag v.2)

/-- A window of a SCATTER_ADD, as the sequential definition gives it (R216). -/
def scatterAddUnit (r : Run) : Run :=
  let f := r.fr
  let w := readWindow f r
  let q := w.1.foldl (fun (p : AddBuf × Run) k =>
    forWhile (fun x => !x.2.ok) 0 (rowLen f) (fun m x => addElem f k.1 k.2 m x) p) ([], noteSaved f w.1 w.2)
  q.1.foldl (fun x k => x.wr (slotOf f 3) k.2.1 k.2.2) q.2

/-! ### The commands -/

/-- GATHER (R214–R219). -/
def execGather (f : FrondRef) (n : Nat) (s : State) : Answer := runFrond 0x700 gatherUnit f n s

/-- SCATTER (R214–R219). -/
def execScatter (f : FrondRef) (n : Nat) (s : State) : Answer := runFrond 0x701 scatterUnit f n s

/-- SCATTER_ADD (R214–R219). -/
def execScatterAdd (f : FrondRef) (n : Nat) (s : State) : Answer := runFrond 0x702 scatterAddUnit f n s

end Sys2Proof.Machine
end

