-- ==== Sys2Proof/Machine/KSwitch.lean ====
section
/-! DEFINITION. Key switching: the spore expander, key slots and their directory, and the fronds of class 0x9
(R246–R270). -/

namespace Sys2Proof.Machine
open Sys2Proof

/-! ### The spore expander (R253, R280) -/

/-- Residues taken so far, last first, with their number and the candidates refused. -/
structure Expand where
  acc : List Nat
  k : Nat
  refused : Nat
deriving DecidableEq, Repr

/-- One candidate. -/
def Expand.try (x : Expand) (q n v : Nat) : Expand :=
  if n ≤ x.k then x else if v < q then { x with acc := v :: x.acc, k := x.k + 1 } else { x with refused := x.refused + 1 }

/-- The whole 9-byte groups of a byte list; what is left over. The first argument bounds the groups. -/
def expandGroups (q n : Nat) : Nat → List Byte → Expand → List Byte × Expand
  | 0, b, x => (b, x)
  | m + 1, b, x =>
    if b.length < 9 then (b, x)
    else
      let g := leNat (b.take 9)
      expandGroups q n m (b.drop 9) ((x.try q n (g % 2 ^ 36)).try q n (g / 2 ^ 36))

/-- Blocks of the stream until `n` residues are taken; the first argument bounds the blocks. -/
def expandBlocks (q n : Nat) : Nat → Lanes → List Byte → Expand → Expand
  | 0, _, _, x => x
  | m + 1, a, left, x =>
    if n ≤ x.k then x
    else
      let g := expandGroups q n 20 (left ++ stateBytes 168 a) x
      expandBlocks q n m (keccakFrom 12 a) g.1 g.2

/-- `n` residues modulo `q` from a message. Each block gives 37 candidates on average and each is accepted with a
probability above one half; `n` blocks bound the search. -/
def expandFrom (m : List Byte) (d : Byte) (q n : Nat) : List Nat × Nat :=
  let x := expandBlocks q n (n + 4) (sponge 12 168 m d) [] ⟨[], 0, 0⟩
  (x.acc.reverse, x.refused)

/-- The expanded half a_j[p], and how many candidates were refused (R253). -/
def expandKey (seed : List Byte) (q j p n : Nat) : List Nat × Nat :=
  expandFrom (seed ++ leBytes 8 q ++ leBytes 1 j ++ leBytes 1 p) 0x0B q n

/-! ### The key slot (R247, R264) -/

/-- Header and entry bytes as the first unit keeps them after the descriptors. -/
def hdrOf (f : Frond) : List Nat := (f.buf.drop 256).take 128
def entOf (f : Frond) : List Nat := (f.buf.drop 384).take 64

def bytesOf (l : List Nat) : List Byte := l.map (BitVec.ofNat 8)

def headOf (f : Frond) : KsHeader := ksHeader (bytesOf (hdrOf f))
def entryOf (f : Frond) : KsEntry := ksEntry (bytesOf (entOf f))

/-- The key slot's header offset in its window. -/
def keyBase (f : Frond) : Nat := (slotOf f 2).base

/-- The slot of the region's table that holds a valid registration of the key slot's base. -/
def keyReg (s : State) (f : Frond) : Option Nat :=
  (List.range 16).find? (fun k => ksetValid s f.region k && ksetBase s f.region k == winAddr f 2 (keyBase f))

/-- Entry `i` of the directory. -/
def Run.dirEntry (r : Run) (i : Nat) : List Nat × Run := r.bytes 2 (winAddr r.fr 2 (keyBase r.fr + 128 + 64 * i)) 64

/-- Binary search of the directory for (TYPE, GALOIS) in entries [lo, hi); the first argument bounds the probes. -/
def Run.dirSearch (t g : Nat) : Nat → Nat → Nat → Run → Option (List Nat) × Run
  | 0, _, _, r => (none, r)
  | n + 1, lo, hi, r =>
    if hi ≤ lo then (none, r)
    else
      let mid := (lo + hi) / 2
      let v := r.dirEntry mid
      let e := ksEntry (bytesOf v.1)
      if e.type = t ∧ e.galois = g then (some v.1, v.2)
      else if e.type < t ∨ (e.type = t ∧ e.galois < g) then Run.dirSearch t g n (mid + 1) hi v.2
      else Run.dirSearch t g n lo mid v.2

/-- Which entry a frond needs: one by its place, one by its type and element, or none. -/
inductive KeyWant where
  | none
  | at (i : Nat)
  | find (t g : Nat)
deriving DecidableEq, Repr

/-- The entry's bytes are looked for and kept behind the descriptors and the header. -/
def Run.loadKey (r : Run) (w : KeyWant) : Option KsEntry × Run :=
  let put (l : List Nat) (x : Run) : Run := { x with fr := { x.fr with buf := x.fr.buf ++ l } }
  let f := r.fr
  if !r.ok then (Option.none, r)
  else if !spansIn f 2 [(keyBase f, keyBase f + 128)] then (Option.none, put (List.replicate 192 0) r)
  else
    let h := r.bytes 2 (winAddr f 2 (keyBase f)) 128
    let n := (ksHeader (bytesOf h.1)).entries
    if (keyReg r.st f).isNone || !spansIn f 2 [(keyBase f, keyBase f + 128 + 64 * n)] then
      (Option.none, put (h.1 ++ List.replicate 64 0) h.2)
    else
      let e : Option (List Nat) × Run := match w with
        | .none => (Option.none, h.2)
        | .at i => if i < n then (let v := h.2.dirEntry i; (some v.1, v.2)) else (Option.none, h.2)
        | .find t g => h.2.dirSearch t g 17 0 n
      (e.1.map (fun b => ksEntry (bytesOf b)), put (h.1 ++ e.1.getD (List.replicate 64 0)) e.2)

/-- KEY_BIND_FAIL (R266). -/
def Run.bindFail (r : Run) (reason : Nat) : Run :=
  (r.up (fun s => logUnit s r.fr 0x1063 6 (srcUnit r.fr.region 0)
    (payDefault (opcodeOf r.fr) reason (winAddr r.fr 2 (keyBase r.fr))))).halt .skipKeyset

/-! ### The scratch area (R265) -/

/-- The parameter word of SCRATCH_LO: 2 in class 0x9, 4 in class 0xA (R289). -/
def scrWord (f : Frond) : Nat := if opcodeOf f / 256 = 9 then 2 else 4
def scrOff (f : Frond) : Nat := par f (scrWord f) + parF f (scrWord f + 1) 0 8 * 2 ^ 32
def scrWin (f : Frond) : Nat := parF f (scrWord f + 1) 8 2
def scrPair (f : Frond) : Nat × Nat := f.pairs.getD (scrWin f) (0, 0)
def scrAddr (f : Frond) : Nat := ((scrPair f).1 + scrOff f) % 2 ^ 40

/-- SCRATCH_WIN is HBM data or mat, and the area is aligned. -/
def scrForm (f : Frond) : Bool := (scrWin f == 0 || scrWin f == 2) && scrOff f % 32 == 0

/-- An area of `n` bytes lies in its window. -/
def scrIn (f : Frond) (n : Nat) : Bool := decide (scrOff f + n ≤ (scrPair f).2)

/-- An absolute extent, a window address replaced by its HBM alias (R212). -/
def absRun (s : State) (a n : Nat) : Nat × Nat :=
  match resolve s a with
  | .hbm h => (h, h + n)
  | _ => (a, a + n)

/-- The scratch area shares a byte with a descriptor, what it describes, or a list of other extents. -/
def scrClash (s : State) (f : Frond) (n : Nat) (ds : List Ext) (more : List (Nat × Nat)) : Bool :=
  let e := absRun s (scrAddr f) n
  n != 0 && (ds.any (fun d => overlaps e (descSpan s f d.slot) || (d.abs s f).any (overlaps e)) || more.any (overlaps e))

/-- The scratch area is a destination from now on: what of it lies in its window. -/
def Run.noteScratch (r : Run) (n : Nat) : Run :=
  if n = 0 then r
  else { r with fr := { r.fr with scratch := [(scrAddr r.fr, min n ((scrPair r.fr).2 - scrOff r.fr))] } }

/-- What the scratch area holds after a unit is not defined: free bytes, whole sectors (R265). -/
def Run.fillScratch (r : Run) (n : Nat) : Run :=
  forWhile (fun x => !x.ok) 0 (n / 32)
    (fun i x =>
      let t := freeBytes x.st 32
      { x with st := t.2 }.wrBytes 3 ((scrAddr x.fr + 32 * i) % 2 ^ 40) t.1 (fun _ n => n == 32)) r

/-! ### Fields and derived numbers (R249, R255, R258, R265) -/

def kArg (f : Frond) : Nat := parF f 1 0 18
def kKeyed (f : Frond) : Bool := opcodeOf f != 0x910
def kHoist (f : Frond) : Bool := opcodeOf f == 0x905

/-- 5^r mod 2N of a ROTATE. -/
def rotStep (f : Frond) (a : Ctd) : Nat := kArg f % (a.n / 2)

/-- g of an opcode (R256–R258). -/
def kGalois (f : Frond) (a : Ctd) : Nat :=
  let o := opcodeOf f
  if o = 0x902 then powMod 18 5 (rotStep f a) (2 * a.n) else if o = 0x903 then 2 * a.n - 1
  else if o = 0x905 ∨ o = 0x910 then kArg f else 1

/-- A ROTATE that does not rotate (R258). -/
def noTurn (f : Frond) (a : Ctd) : Bool := opcodeOf f == 0x902 && rotStep f a == 0

/-- The key entry that a frond needs. -/
def kWant (f : Frond) (a : Ctd) : KeyWant :=
  let o := opcodeOf f
  if o = 0x900 then .at (kArg f) else if o = 0x901 then .find 1 1
  else if o = 0x902 then (if noTurn f a then .none else .find 2 (kGalois f a))
  else if o = 0x903 then .find 3 (kGalois f a) else if o = 0x905 then .find 2 (kGalois f a) else .none

/-- α of a header, at least 1. -/
def alphaOf (h : KsHeader) : Nat := max 1 h.alpha

/-- β. -/
def betaOf (h : KsHeader) (a : Ctd) : Nat := ceilDiv (a.level + 1) (alphaOf h)

/-- Bytes of the scratch area. -/
def scrBytes (f : Frond) (h : KsHeader) (a : Ctd) : Nat :=
  let o := opcodeOf f
  let limbs := if o = 0x910 then 0 else if o = 0x904 then a.level + 1 else if o = 0x905 then 2 * h.special
    else a.level + 1 + 2 * h.special
  32 * limbs * a.secs

/-- The slots that name descriptors. -/
def kSlots (f : Frond) : List Nat := if kHoist f then [0, 1, 3] else [0, 3]

def kForm (f : Frond) : Bool :=
  parF f 0 5 27 == 0 && parF f 1 18 14 == 0 && parF f 3 10 22 == 0 && zeroPars f [4, 5, 6] &&
  (kArg f == 0 || [0x900, 0x902, 0x905, 0x910].contains (opcodeOf f))

/-- Decode checks (R266). -/
def kLegal (f : Frond) : Bool :=
  let o := opcodeOf f
  parF f 0 0 4 != 0 && (kSlots f).all (ctdSlot f) &&
  (if kKeyed f then ctdSlot f 2 && (slotOf f 2).win == 1 else (slotOf f 2).empty) &&
  (kHoist f || (slotOf f 1).empty) &&
  (if o = 0x910 then par f 2 == 0 && par f 3 == 0 else scrForm f) &&
  ((o != 0x910 && o != 0x905) || kArg f % 2 == 1) && (o != 0x900 || decide (kArg f ≤ 1023))

/-- A digit set's extent as a descriptor that spans its digits (R259). -/
def digitSpan (h : KsHeader) (a d : Ctd) : Ctd :=
  { d with special := betaOf h a * (d.limbsMax + h.special) - d.limbsMax }

/-- The result descriptor, but for its budget (R256, R259). -/
def kResult (f : Frond) (h : KsHeader) (a d : Ctd) : Ctd :=
  let o := opcodeOf f
  { a with
    polys := if o = 0x910 then a.polys else if o = 0x904 then 1 else 2
    domain := if o = 0x910 then a.domain else 1
    special := if o = 0x904 then h.special else 0
    poly := d.poly
    stride := d.stride
    poison := false }

/-- Descriptors with their slots for the checks on extents: destination, sources. -/
def kExtents (f : Frond) (h : KsHeader) (a b res : Ctd) : List (Nat × Ctd) × List (Nat × Ctd) :=
  ([(3, if opcodeOf f = 0x904 then digitSpan h a res else res)], (0, a) :: if kHoist f then [(1, digitSpan h a b)] else [])

/-- The stored limbs that the frond reads lie in the key slot's window (step 2). -/
def keyLimbsIn (f : Frond) (h : KsHeader) (e : KsEntry) (a : Ctd) : Bool :=
  spansIn f 2 [(0, keyBase f + e.offset +
    32 * (e.stride * ((a.limbsMax + h.special - 1) * h.dnum + (betaOf h a - 1)) + a.secs))]

/-- Steps 2 to 4, and 6 (R233, R266). -/
def kChecks (s : State) (f : Frond) (h : KsHeader) (e : Option KsEntry) (a b res : Ctd) : Option Status :=
  let o := opcodeOf f
  let x := kExtents f h a b res
  let n := scrBytes f h a
  let keyIn := !kKeyed f || (spansIn f 2 [(keyBase f, keyBase f + 128 + 64 * h.entries)] &&
    (match e with | some k => keyLimbsIn f h k a | none => true))
  firstFail
    [ (!((x.1 ++ x.2).all (fun d => spansIn f d.1 d.2.spans) && keyIn && (n == 0 || scrIn f n)), .skipBound),
      (ctdOverlap s f x.1 x.2 ||
        scrClash s f n ((x.1 ++ x.2).map (fun d => d.2.ext d.1)) (if kKeyed f then [absRun s (winAddr f 2 (keyBase f)) (h.pages * 4096)] else []), .skipOverlap),
      (!(ctdPrimes s a && a.special == 0 &&
          (if o = 0x901 then a.polys == 3 else if o = 0x910 then true else a.polys == 2) &&
          (!kHoist f || (b.polys == 1 && sameGeometry { b with special := 0 } a && ctdPrimes s b)) &&
          ((o != 0x910 && o != 0x905) || decide (kArg f < 2 * a.n))), .skipParam) ]

/-- The reason of step 5, 0 for none. -/
def kBind (s : State) (f : Frond) (h : KsHeader) (e : Option KsEntry) (a b : Ctd) : Nat :=
  let src := if kHoist f then [a, b] else [a]
  match keyReg s f with
  | none => 1
  | some k =>
    if src.any (fun c => c.fp != (reg s (rKsetFp f.region k)).toNat) then 2
    else if a.log2n != h.log2n || a.limbsMax != h.limbsMax || a.pbase != h.pbase || (kHoist f && b.special != h.special) then 3
    else
      match kWant f a, e with
      | .none, _ => 0
      | _, none => 4
      | _, some x => if x.type = 4 ∨ x.type = 5 then 5 else 0

/-- The cost code (R267). -/
def kCode (f : Frond) (a : Ctd) : Nat :=
  let o := opcodeOf f
  if o = 0x910 ∨ noTurn f a = true then 9 else if o = 0x905 then 10 else if o = 0x904 then 11 else 8

/-- The cost: from the header that the key slot names, or from the fingerprint's. -/
def Run.kCost (r : Run) (h : List Nat) (a : Ctd) : Nat × Run :=
  if kKeyed r.fr then (dnum h (56 + 2 * kCode r.fr a) 2, r) else r.cost a.fp (kCode r.fr a)

/-! ### Key switching (R249, R255) -/

/-- The positions of a switching: ordinary ones up to the level, then the special ones. -/
def swPos (h : KsHeader) (a : Ctd) : List Nat := List.range (a.level + 1) ++ (List.range h.special).map (fun j => a.limbsMax + j)

/-- Digit `j` of a polynomial: a limb for each position of `swPos`, from its limbs in both domains (R255). -/
def decompose (s : State) (h : KsHeader) (a : Ctd) (d dc : List (List Nat)) (j : Nat) : List (List Nat) :=
  let al := alphaOf h
  let own := (List.range (a.level + 1)).filter (fun p => decide (j * al ≤ p) && decide (p < (j + 1) * al))
  let ps := own.map (ctdPrime s a)
  let xs := own.map (fun p => dc.getD p [])
  (swPos h a).map (fun p =>
    if own.contains p then d.getD p []
    else
      let q := ctdPrime s a p
      nttLimb q (psiOf s (a.pbase + p) a.log2n) a.log2n (baseConv q ps xs a.n))

/-- Limbs to the coefficient domain, position by position from 0 on. -/
def toCoef (s : State) (a : Ctd) (d : List (List Nat)) : List (List Nat) :=
  ((List.range d.length).zip d).map (fun x => inttLimb (ctdPrime s a x.1) (psiOf s (a.pbase + x.1) a.log2n) a.log2n x.2)

/-- One stored limb and its expanded partner, counted (R249, R263, R272). -/
def Run.keyLimbs (r : Run) (h : KsHeader) (e : KsEntry) (a : Ctd) (p j : Nat) : (List Nat × List Nat) × Run :=
  let f := r.fr
  let q := ctdPrime r.st a p
  let v := r.rdLimb 2 (winAddr f 2 (keyBase f + e.offset + 32 * e.stride * (p * h.dnum + j))) a.n
  let x := expandKey e.seed q j p a.n
  let above := v.1.any (fun w => decide (q ≤ w))
  let y := if above then v.2.flag fResReduced else v.2
  ((v.1.map (· % q), x.1),
    y.up (fun s => bump (bump (bump s (rTow f.region 0x810) (32 * e.stride)) (rTow f.region 0x1000) a.n) (rTow f.region 0x1008) x.2))

/-- acc0 and acc1 at one position, from the digits' limbs there. -/
def Run.innerAt (r : Run) (h : KsHeader) (e : KsEntry) (a : Ctd) (p : Nat) (ds : List (List Nat)) :
    (List Nat × List Nat) × Run :=
  let q := ctdPrime r.st a p
  let z := forWhile (fun (x : ((List Nat × List Nat) × Run)) => !x.2.ok) 0 ds.length
    (fun j x =>
      let k := x.2.keyLimbs h e a p j
      let d := ds.getD j []
      ((limbAdd q x.1.1 (limbMul q d k.1.1), limbAdd q x.1.2 (limbMul q d k.1.2)), k.2))
    ((limbZero a.n, limbZero a.n), r)
  (z.1, z.2.up (fun s => bump (bump s (rTow r.fr.region 0x800) (ds.length * a.n)) (rTow r.fr.region 0x808) (2 * a.n)))

/-- The final loop of R255 for one accumulator: limbs of positions 0 to ℓ, from the special and the ordinary ones. -/
def modDown (s : State) (h : KsHeader) (a : Ctd) (special ordinary : List (List Nat)) : List (List Nat) :=
  let sp := (List.range h.special).map (fun j => a.limbsMax + j)
  let ps := sp.map (ctdPrime s a)
  let coef := (sp.zip special).map (fun x => inttLimb (ctdPrime s a x.1) (psiOf s (a.pbase + x.1) a.log2n) a.log2n x.2)
  let total := ps.foldl (· * ·) 1
  ((List.range (a.level + 1)).zip ordinary).map (fun x =>
    let q := ctdPrime s a x.1
    let v := nttLimb q (psiOf s (a.pbase + x.1) a.log2n) a.log2n (baseConv q ps coef a.n)
    limbScale q (invMod q (total % q)) (limbSub q x.2 v))

/-- (r0, r1) of R255 from the digits; the special positions come first (R262). -/
def Run.switchDigits (r : Run) (h : KsHeader) (e : KsEntry) (a : Ctd) (digits : List (List (List Nat))) :
    (List (List Nat) × List (List Nat)) × Run :=
  let l := a.level + 1
  let at_ (x : Run) (i p : Nat) : (List Nat × List Nat) × Run := x.innerAt h e a p (digits.map (fun d => d.getD i []))
  let step (p : (List (List Nat) × List (List Nat)) × Run) (ip : Nat × Nat) : (List (List Nat) × List (List Nat)) × Run :=
    let v := at_ p.2 ip.1 ip.2
    ((p.1.1 ++ [v.1.1], p.1.2 ++ [v.1.2]), v.2)
  let sp := ((List.range h.special).map (fun j => (l + j, a.limbsMax + j))).foldl step (([], []), r)
  let od := ((List.range l).map (fun p => (p, p))).foldl step (([], []), sp.2)
  ((modDown r.st h a sp.1.1 od.1.1, modDown r.st h a sp.1.2 od.1.2), od.2)

/-- Multiply-accumulates of base conversions on the M-blocks (R255, R324): converted limbs of `n` sources each. -/
def countConv (f : Frond) (n : Nat) (limbs : List Nat) (s : State) : State :=
  if !nbit (par f 0) 4 then s
  else (limbs.foldl (fun (p : Nat × State) k => (p.1 + 1, bumpUnits p.2 (rMb f.region (p.1 % 6) 0x20) 20 (n * k))) (0, s)).2

/-- Sources of each limb that a decomposition converts, digit by digit. -/
def upSources (h : KsHeader) (a : Ctd) : List Nat :=
  (List.range (betaOf h a)).flatMap (fun j =>
    let own := min (alphaOf h) (a.level + 1 - j * alphaOf h)
    List.replicate (a.level + 1 + h.special - own) own)

def downSources (h : KsHeader) (a : Ctd) : List Nat := List.replicate (2 * (a.level + 1)) h.special

/-! ### The fronds (R256–R261) -/

/-- σ_g of a limb in a domain. -/
def sigma (q g lg domain : Nat) (x : List Nat) : List Nat := if domain = 1 then autoEval g lg x else autoCoef q g lg x

/-- The limbs of polynomial `i` of slot 0 at positions 0 to ℓ. -/
def Run.polyAll (r : Run) (a : Ctd) (i : Nat) : List (List Nat) × Run :=
  (List.range (a.level + 1)).foldl (fun p k => let v := p.2.srcLimb 0 a i k (i * (a.level + 1) + k); (p.1 ++ [v.1], v.2)) ([], r)

/-- The digits of slot 1's digit set (R259). -/
def Run.digitsIn (r : Run) (h : KsHeader) (a b : Ctd) : List (List (List Nat)) × Run :=
  (List.range (betaOf h a)).foldl (fun p j =>
    let v := (swPos h a).foldl (fun (x : List (List Nat) × Run) k =>
      let q := ctdPrime x.2.st a k
      let w := x.2.rdLimb 1 (winAddr r.fr 1 (b.poly.getD 0 0 + 32 * b.stride * (j * (a.limbsMax + h.special) + k))) a.n
      (x.1 ++ [w.1.map (· % q)], if w.1.any (fun y => decide (q ≤ y)) then w.2.flag fResReduced else w.2)) ([], p.2)
    (p.1 ++ [v.1], v.2)) ([], r)

def limbsAdd (s : State) (a : Ctd) (x y : List (List Nat)) : List (List Nat) :=
  ((List.range x.length).zip (x.zip y)).map (fun p => limbAdd (ctdPrime s a p.1) p.2.1 p.2.2)

/-- Every limb of a result of two polynomials is stored. -/
def Run.putPair (r : Run) (res : Ctd) (x y : List (List Nat)) : Run :=
  let l := x.length
  let put (i : Nat) (z : Run) (u : List (List Nat)) : Run :=
    ((List.range l).zip u).foldl (fun w p => w.dstLimb 3 res i p.1 (i * l + p.1) p.2) z
  put 1 (put 0 r x) y

/-- KEYSWITCH, RELIN, ROTATE, CONJ and HOIST_ROTATE as a whole. -/
def kWhole (h : KsHeader) (e : KsEntry) (a b res : Ctd) (r : Run) : Run :=
  let f := r.fr
  let o := opcodeOf f
  let g := kGalois f a
  let sig (l : List (List Nat)) : List (List Nat) := l.map (autoEval g a.log2n)
  let turned := o == 0x902 || o == 0x903 || o == 0x905
  let l := a.level + 1
  let c0 := r.polyAll a 0
  let c1 := if kHoist f then ([], c0.2) else c0.2.polyAll a 1
  let c2 := if o = 0x901 then c1.2.polyAll a 2 else ([], c1.2)
  let d := if o = 0x901 then c2.1 else if turned then sig c1.1 else c1.1
  let dg : List (List (List Nat)) × Run :=
    if kHoist f then (let v := c2.2.digitsIn h a b; (v.1.map sig, v.2))
    else ((List.range (betaOf h a)).map (decompose r.st h a d (toCoef r.st a d)), c2.2)
  let k := dg.2.switchDigits h e a dg.1
  let x0 := limbsAdd r.st a (if turned then sig c0.1 else c0.1) k.1.1
  let x1 := if o = 0x901 then limbsAdd r.st a c1.1 k.1.2 else k.1.2
  let perms := if kHoist f then l + betaOf h a * (l + h.special) else if turned then 2 * l else 0
  let convs := (if kHoist f then [] else upSources h a) ++ downSources h a
  (k.2.putPair res x0 x1).up (fun s => countConv f a.n convs (bump s (rPeri f.region 8) perms))

/-- One digit of HOIST_DECOMP (R260). -/
def kDigit (h : KsHeader) (a res : Ctd) (r : Run) : Run :=
  let f := r.fr
  let j := f.unit
  let v := if j = 0 then r.polyAll a 1 else (polyChunks a.n (a.level + 1) (f.work.drop 1), r)
  let d := decompose v.2.st h a v.1 (toCoef v.2.st a v.1) j
  let x := if j = 0 then { v.2 with fr := { v.2.fr with work := v.2.fr.work ++ v.1.flatten } } else v.2
  let ps := swPos h a
  let w := ((List.range ps.length).zip (ps.zip d)).foldl (fun y p =>
    let t := y.wrLimb 3 (winAddr f 3 (res.poly.getD 0 0 + 32 * res.stride * (j * (a.limbsMax + h.special) + p.2.1))) p.2.2
    t.up (fun s => bump s (pbReg f (j * ps.length + p.1) 8) 1)) x
  let own := min (alphaOf h) (a.level + 1 - j * alphaOf h)
  w.up (countConv f a.n (List.replicate (a.level + 1 + h.special - own) own))

/-- One position of AUTOMORPH, and of a ROTATE that does not rotate. -/
def kPosition (a res : Ctd) (r : Run) : Run :=
  let f := r.fr
  let ps := a.positions
  let p := ps.getD f.unit 0
  let g := kGalois f a
  let x := r.limbs 0 a ((List.range a.polys).map (fun i => (i, p, i * ps.length + f.unit)))
  let y := x.1.map (sigma (ctdPrime x.2.st a p) g a.log2n a.domain)
  ((List.range a.polys).foldl (fun z i => z.dstLimb 3 res i p (i * ps.length + f.unit) (y.getD i [])) x.2).up
    (fun s => bump s (rPeri f.region 8) a.polys)

/-- Units of a frond (R268). -/
def kUnits (f : Frond) (h : KsHeader) (a : Ctd) : Nat :=
  if opcodeOf f = 0x910 ∨ noTurn f a = true then a.positions.length else if opcodeOf f = 0x904 then betaOf h a else 1

/-- A unit's work, the result's descriptor behind the last one. -/
def kGo (h : KsHeader) (e : KsEntry) (a b res : Ctd) (r : Run) : Run :=
  let f := r.fr
  let x := if opcodeOf f = 0x910 ∨ noTurn f a = true then kPosition a res r
    else if opcodeOf f = 0x904 then kDigit h a res r else kWhole h e a b res r
  let y := x.fillScratch (scrBytes f h a)
  if f.unit + 1 = kUnits f h a then y.putDesc 3 (ctdBytes { res with budget := y.fr.work.headD 0, poison := y.fr.poisoned }) else y

/-- The checks of execution, in order (R233, R266). -/
def kStart (h : KsHeader) (e : Option KsEntry) (a b res : Ctd) (r0 : Run) : Run :=
  let f := r0.fr
  let src := if kHoist f then [(0, a), (1, b)] else [(0, a)]
  if !((src.map (·.1)).all (fun i => ctdForm (descOf f i)) && resultForm res) then r0.halt .skipIllegal
  else
    let r := r0.noteScratch (scrBytes f h a)
    match kChecks r.st f h e a b res with
    | some x => r.halt x
    | none =>
      let why := if kKeyed f then kBind r.st f h e a b else 0
      if why ≠ 0 then r.bindFail why
      else if !kKeyed f && !fpsOk r.st f.region [a] then r.halt .skipKeyset
      else if kKeyed f && src.any (fun x => x.2.domain == 0) then r.halt .skipDomain
      else
        let c := r.kCost (hdrOf f) a
        let bu := budgetOf c.2.st f.region (src.map (·.2)) c.1
        let r1 := { c.2 with st := bu.2 }
        -- a digit set keeps its source's budget (R259, log entry 97)
        let v := if opcodeOf f = 0x904 then a.budget else bu.1.value.toNat
        if !bu.1.ok then r1.halt .skipBudget
        else if src.any (fun x => x.2.poison || descPoisoned r1.st f x.1) then
          r1.poisonedResult [(3, ctdBytes { res with budget := v, poison := true })]
        else kGo h (e.getD (entryOf f)) a b res { r1 with fr := { r1.fr with units := kUnits f h a, work := [v] } }

/-- One unit of a class 0x9 frond. -/
def kUnit (r0 : Run) : Run :=
  let first := r0.fr.unit == 0
  let r1 := if first then r0.loadDescs (kSlots r0.fr) else r0
  let a := ctdOf (descOf r1.fr 0)
  let k : Option KsEntry × Run := if first && kKeyed r1.fr then r1.loadKey (kWant r1.fr a) else (none, r1)
  let r := k.2
  if !r.ok then r
  else
    let h := headOf r.fr
    let res := kResult r.fr h a (ctdOf (descOf r.fr 3))
    let b := if kHoist r.fr then ctdOf (descOf r.fr 1) else a
    if first then kStart h k.1 a b res r else kGo h (entryOf r.fr) a b res r

/-! ### Latency (R268, R269) -/

/-- The header that the key slot names, as memory holds it at acceptance. -/
def headAt (s : State) (f : Frond) : KsHeader := ksHeader (bytesAt s (winAddr f 2 (keyBase f)) 128)

/-- LIMB_STRIDE of the entry that the frond needs, as memory holds the directory at acceptance. -/
def strideAt (s : State) (f : Frond) (a : Ctd) : Nat :=
  let es := ksDir s (winAddr f 2 (keyBase f)) (min 1024 (headAt s f).entries)
  match kWant f a with
  | .none => 0
  | .at i => match es[i]? with | some e => e.stride | none => 0
  | .find t g => match es.find? (fun e => e.type == t && e.galois == g) with | some e => e.stride | none => 0

/-- The engine term. -/
def kEngine (f : Frond) (h : KsHeader) (a : Ctd) : Nat :=
  let o := opcodeOf f
  let n := a.n
  let k := pbCount f
  let l := a.level + 1
  let sp := h.special
  let be := betaOf h a
  let x (v : Nat) : Nat := ceilDiv v k * (n * a.log2n / 1024)
  let w (v : Nat) : Nat := ceilDiv v k * (n / 512)
  let c (u v : Nat) : Nat := if nbit (par f 0) 4 then ceilDiv (n * u * v) 6144 else ceilDiv (n * (u + u * v)) (512 * k)
  let g (v : Nat) : Nat := ceilDiv (v * n) 1024
  let rz := ceilDiv (be * (l + sp) * n) 512
  let up := x l + be * c (alphaOf h) (l + sp - alphaOf h) + x (be * (l + sp - alphaOf h))
  let down := 2 * (x sp + c sp l + x l + w (2 * l))
  if o = 0x910 then g (a.polys * l)
  else if noTurn f a then g (2 * l)
  else if o = 0x904 then up
  else if o = 0x905 then g (l + be * (l + sp)) + rz + down + w (2 * l)
  else (if o = 0x902 ∨ o = 0x903 then g (2 * l) else 0) + up + rz + down + w (2 * l)

/-- Fill and size terms of slot 3, its scratch area included. -/
def kDestTerm (s : State) (f : Frond) (c : Ctd) (v scr : Nat) : Nat × Nat :=
  let t := ctdTerm s f 3 c (v + 2 * scr) true
  (max t.1 (if scr = 0 then 0 else fillTerm (memKind s f.region (scrAddr f)) true), t.2)

/-- The class latency of a class 0x9 frond. -/
def kLatency (s : State) (f : Frond) : Nat :=
  let a := ctdOf (descAt s f 0)
  let h := headAt s f
  let res := kResult f h a (ctdOf (descAt s f 3))
  let l := a.level + 1
  let pol (c : Ctd) (k : Nat) : Nat := 32 * k * c.secs
  let vkey := 32 * strideAt s f a * betaOf h a * (l + h.special)
  let digits := betaOf h a * (l + h.special)
  let srcs := [ctdTerm s f 0 a (pol a ((if kHoist f then 1 else a.polys) * l)) false] ++
    (if kHoist f then [ctdTerm s f 1 (ctdOf (descAt s f 1)) (pol a digits) false] else []) ++
    (if kKeyed f then [(slotFill s f 0 2 false, ceilDiv (8 * vkey) (allotOf s f 2))] else [])
  timeOf 64 (kEngine f h a)
    (srcs ++ [kDestTerm s f res (pol res (if opcodeOf f = 0x904 then digits else res.polys * l)) (scrBytes f h a)])

/-- The scratch area of `n` bytes as an extent, a window address replaced by its HBM alias. -/
def scrSpan (s : State) (f : Frond) (n : Nat) : List (Nat × Nat) :=
  if n = 0 then []
  else
    match resolve s (scrAddr f) with
    | .hbm h => [(h, h + n)]
    | _ => [(scrAddr f, scrAddr f + n)]

def specKs (f : Frond) : OpSpec :=
  let r := f.region * 64
  let b := streamSpec f ((kSlots f).filter (· != 3) ++ (if kKeyed f then [2] else [])) []
  let a (s : State) : Ctd := ctdOf (descAt s f 0)
  { b with
    form := kForm f
    check := fun _ => firstFail [(!kLegal f, .skipIllegal)]
    dctds := [3]
    outs := fun s => absSpans s f 3 (kResult f (headAt s f) (a s) (ctdOf (descAt s f 3))).spans ++ scrSpan s f (scrBytes f (headAt s f) (a s))
    deadline := if kKeyed f then [2] else []
    latency := fun s _ g _ => kLatency s g
    touches := fun s rep =>
      slotStarts f rep ++ polyStarts f 0 (a s) ++ polyStarts f 3 (kResult f (headAt s f) (a s) (ctdOf (descAt s f 3))) ++
      (if kHoist f then polyStarts f 1 (ctdOf (descAt s f 1)) else []) ++ (if kKeyed f then [scrAddr f] else [])
    replay := fun s => 16 + (a s).n / 1024
    engines := pbEngines f ++ [r + 14] ++ (if [0x900, 0x901, 0x902, 0x903, 0x905].contains (opcodeOf f) then [r + 16] else []) ++
      (if kKeyed f && nbit (par f 0) 4 then (List.range 6).map (fun m => r + m) else [])
    units := fun s _ => kUnits f (headAt s f) (a s) }

/-! ### The commands -/

/-- KEYSWITCH (R256). -/
def execKeyswitch (f : FrondRef) (n : Nat) (s : State) : Answer := runFrond 0x900 kUnit f n s
/-- RELIN (R256). -/
def execRelin (f : FrondRef) (n : Nat) (s : State) : Answer := runFrond 0x901 kUnit f n s
/-- ROTATE (R256, R258). -/
def execRotate (f : FrondRef) (n : Nat) (s : State) : Answer := runFrond 0x902 kUnit f n s
/-- CONJ (R256). -/
def execConj (f : FrondRef) (n : Nat) (s : State) : Answer := runFrond 0x903 kUnit f n s
/-- HOIST_DECOMP (R260). -/
def execHoistDecomp (f : FrondRef) (n : Nat) (s : State) : Answer := runFrond 0x904 kUnit f n s
/-- HOIST_ROTATE (R261). -/
def execHoistRotate (f : FrondRef) (n : Nat) (s : State) : Answer := runFrond 0x905 kUnit f n s
/-- AUTOMORPH (R257). -/
def execAutomorph (f : FrondRef) (n : Nat) (s : State) : Answer := runFrond 0x910 kUnit f n s

end Sys2Proof.Machine
end

