-- ==== Sys2Proof/Machine/Protect.lean ====
section
/-! DEFINITION. The fronds of class 0xD: tee data at the symbiont, epoch copies, background fills, COMMIT and BOUNDARY
(R404–R425). -/

namespace Sys2Proof.Machine
open Sys2Proof

/-! ### Fields and checks (R423–R425) -/

def failKind (f : Frond) : Nat := parF f 0 0 2
def markCheck (f : Frond) : Bool := nbit (par f 0) 2
/-- The destination of a GEMMA_FILL at its target. -/
def fillAddr (f : Frond) : Nat := par f 3 + parF f 4 0 8 * 2 ^ 32

/-- Reserved bits, and fields that the opcode does not use. -/
def failForm (f : Frond) : Bool :=
  let o := opcodeOf f
  parF f 0 3 29 == 0 && decide (failKind f ≤ 1) && (o == 0xD01 || o == 0xD03 || failKind f == 0) &&
  (!markCheck f || (o == 0xD03 && failKind f == 1)) && (o == 0xD00 || o == 0xD02 || par f 1 == 0) &&
  (o == 0xD00 || par f 2 == 0) && parF f 4 8 24 == 0 && (o == 0xD02 || (par f 3 == 0 && par f 4 == 0)) && zeroPars f [5, 6]

def failLegal (f : Frond) : Bool :=
  let o := opcodeOf f
  emptySlots f [1, 2] &&
  (if o = 0xD00 then emptySlots f [0] && contiguous (slotOf f 3) && !deadlineEn f
   else if o = 0xD02 then contiguous (slotOf f 0) && emptySlots f [3]
   else if o = 0xD03 then emptySlots f [0] && !deadlineEn f &&
     ((slotOf f 3).empty || ((slotOf f 3).fmt == 0xB && (slotOf f 3).elems == 32))
   else emptySlots f [0, 3])

/-- A GEMMA_FILL's target is a gemma that this module has claimed, or its partner. -/
def fillTarget (s : State) (c : Nat) : Bool :=
  (regB s rGemma 32 && regF s rGemma 0 32 == c) ||
  (match partnerOf s with
   | some p => physOf s p == c
   | none => false)

/-- ARM, the job's group and the target (R424). -/
def failParams (s : State) (f : Frond) : Bool :=
  (armed s || opcodeOf f == 0xD02) && (groupIdx s (regF s rFailGroups 0 16)).isSome &&
  (opcodeOf f != 0xD02 || fillTarget s (par f 1))

/-- A TEE_APPLY's extent meets that of another unreleased one. -/
def landOverlap (s : State) (f : Frond) : Bool :=
  let ext (g : Frond) : Nat × Nat := absSpan s g (slotOf g 3) (slotOf g 3).posRange
  opcodeOf f == 0xD00 && s.fronds.any (fun g => opcodeOf g == 0xD00 && g.skip.isNone && !g.is f.region f.queue f.idx &&
    overlaps (ext f) (ext g))

/-! ### Epoch copies (R410, R421) -/

/-- A run of bytes to be copied within the module, or (`far`) to the partner. -/
structure CopyPart where
  src : Nat
  dst : Nat
  len : Nat
  far : Bool
deriving DecidableEq, Repr

/-- Where the epoch halves lie in a copy area: after the live shadow, which a COLD tensor does not have (R400). -/
def halfOff (cls size half : Nat) : Nat := if cls = 2 then half * size else size + half * size

/-- What a SNAPSHOT copies. -/
def snapParts (s : State) : List CopyPart :=
  let h := nextHalf s
  (List.range 256).flatMap (fun i =>
    if ptClass s i = 0 then []
    else
      let n := ptSize s i
      ⟨ptBase s i, (reg s (rPtEpoch i)).toNat + h * n, n, false⟩ ::
        (if ptCold s i && (partnerOf s).isSome then [⟨ptBase s i, (reg s (rPtRemote i)).toNat + halfOff (ptClass s i) n h, n, true⟩] else [])) ++
  (List.range 256).flatMap (fun i =>
    if qtClass s i = 0 || qtCold s i then []
    else
      let a := (reg s (rQtLocal i)).toNat
      [⟨a, a + halfOff (qtClass s i) (qtSize s i) h, qtSize s i, false⟩])

/-- What a RESTORE copies: the valid halves back to the tensors, and the partner's HOT halves to the live shadows. The
partner's COLD copies stay where they are (log entry 117). -/
def restoreParts (s : State) : List CopyPart :=
  let h := validHalf s
  (List.range 256).flatMap (fun i =>
    if ptClass s i = 0 then [] else [⟨(reg s (rPtEpoch i)).toNat + h * ptSize s i, ptBase s i, ptSize s i, false⟩]) ++
  (List.range 256).flatMap (fun i =>
    if qtClass s i = 0 || qtCold s i then []
    else
      let a := (reg s (rQtLocal i)).toNat
      [⟨a + halfOff (qtClass s i) (qtSize s i) h, a, qtSize s i, false⟩])

def epochParts (s : State) (f : Frond) : List CopyPart := if failKind f = 0 then snapParts s else restoreParts s

/-- The parts in pieces of 65,536 bytes. -/
def partPieces (l : List CopyPart) : List CopyPart :=
  l.flatMap (fun p => (List.range (ceilDiv p.len 65536)).map (fun i =>
    { p with src := p.src + 65536 * i, dst := p.dst + 65536 * i, len := min 65536 (p.len - 65536 * i) }))

/-- Bytes that stay in the module, and bytes that leave it. -/
def nearBytes (l : List CopyPart) : Nat := ((l.filter (fun p => !p.far)).map (·.len)).sum
def farBytes (l : List CopyPart) : Nat := ((l.filter (·.far)).map (·.len)).sum

/-- The partner's coordinate. -/
def partnerL (s : State) : Nat := (partnerOf s).getD 0

/-- A_D of R421. -/
def deadlineSum (s : State) : Nat := allotSum s 3

/-! ### The specification -/

/-- The logical coordinate of the module at a physical one. -/
def logicalAt (s : State) (p : Nat) : Nat :=
  match s.links.coordAlias.find? (fun (_, l, q, d) => q == p && !(d && l == p)) with
  | some (_, l, _, _) => l
  | none => p

/-- The engine term (R425). A BOUNDARY's has no bearing: its promise is its release. -/
def failTime (s : State) (f : Frond) : Nat :=
  let o := opcodeOf f
  if o = 0xD01 then
    let l := epochParts s f
    let far := farBytes l
    max (ceilDiv (2 * nearBytes l) (deadlineSum s))
      (if far = 0 then 0 else ceilDiv far (routeRate s (partnerL s)) + 2 * peerLat s (partnerL s))
  else if o = 0xD02 then
    let d := logicalAt s (par f 1)
    ceilDiv (slotOf f 0).elems (routeRate s d) + 2 * peerLat s d
  else 0

def specFail (f : Frond) : OpSpec :=
  let o := opcodeOf f
  let src := if o = 0xD02 then [0] else []
  let dst := if o = 0xD00 ∨ o = 0xD03 then [3] else []
  let b := streamSpec f src dst
  { b with
    form := failForm f
    check := fun s => firstFail
      [ (!slotsGood f || !failLegal f, .skipIllegal), (!failParams s f, .skipParam), (landOverlap s f, .skipOverlap) ]
    latency := fun s _ g rep =>
      if o = 0xD00 ∨ o = 0xD03 then 8 else 32 + slotFill s g rep 0 false + failTime s g
    deadline := if o = 0xD00 then [3] else if o = 0xD02 then [0] else []
    touches := fun s rep =>
      if o = 0xD01 then (epochParts s f).flatMap (fun p => if p.far then [p.src] else [p.src, p.dst]) else b.touches s rep
    link := fun s =>
      if o = 0xD02 then linkAllow s [logicalAt s (par f 1)]
      else if o = 0xD01 ∧ 0 < farBytes (epochParts s f) then linkAllow s [partnerL s] else 0
    units := fun s _ =>
      if o = 0xD01 then max 1 (partPieces (epochParts s f)).length else if o = 0xD02 then slotPieces (slotOf f 0) else 1 }

/-! ### Tee data (R407) -/

/-- A TEE packet of a frond's source and tag. -/
def teeFor (f : Frond) (k : Packet) : Bool :=
  k.hdr.type.toNat == 5 && k.hdr.srcL.toNat == par f 1 && k.hdr.tag.toNat == par f 2

/-- A packet's bytes are this frond's: no earlier TEE_APPLY of the source and tag lacks them, and this one does; where
none lacks them, they go to the first (log entry 116). -/
def teeMine (s : State) (f : Frond) (k : Packet) : Bool :=
  let lacks (g : Frond) : Bool :=
    let m := landMask k.hdr.offset.toNat (payloadOf k).length
    landed g &&& m != m && decide (k.hdr.offset.toNat < landSize g)
  let l := (s.fronds.filter (teeApplyOf (par f 1) (par f 2)))
  let first (p : Frond → Bool) : Option Nat :=
    (l.filter p).foldl (fun (a : Option Nat) g => some (match a with
      | some x => min x g.order
      | none => g.order)) none
  match first lacks with
  | some o => o == f.order
  | none => first (fun _ => true) == some f.order

/-- One waiting TEE packet lands, with its CTS. The last argument bounds the packets. -/
def landAll (x : FrondRef) : Nat → State → State
  | 0, s => s
  | n + 1, s =>
    match findFrond s x with
    | none => s
    | some f =>
      match s.links.early.find? (fun k => teeFor f k && teeMine s f k) with
      | none => s
      | some k =>
        let d := payloadOf k
        let s1 := { s with links := { s.links with early := s.links.early.erase k } }
        let s2 := landBytes s1 f k.hdr.offset.toNat d k.hdr.poison
        landAll x n (inject s2 { hdr := newHdr 3 0 0 k.hdr.srcL.toNat k.hdr.destL.toNat k.hdr.tag.toNat k.hdr.offset.toNat
                                 body := .cts d.length })

/-- Every byte has landed and the step's COMMIT is released: the work is done. -/
def landUnit (r : Run) : Run :=
  let f := r.fr
  let all := landed f == 2 ^ landSize f - 1
  if all && (f.wake.isSome || r.st.fail.commitStep == some (reg r.st rFailStep).toNat) then
    { r with fr := { f with work := [] } }.wroteRun (landAt f) (landSize f)
  else { r with blocked := true }

/-- TEE_APPLY: what has arrived lands, and the stood-in rank's results with it (R407, R416). -/
def teeApply (x : FrondRef) (s : State) : State :=
  match findFrond s x with
  | none => s
  | some f =>
    if !canRun s f 0xD00 then s
    else
      let s0 := runGhosts (if f.sent = 0 then putFrond s { f with sent := 1, work := [0] } else s)
      let s1 := landAll x (s0.links.early.length + 1) s0
      match findFrond s1 x with
      | none => s1
      | some g => runUnit landUnit s1 g

/-! ### Copies and fills (R410, R418) -/

/-- 32 bytes copied; poison goes with them. -/
def Run.copySector (r : Run) (src dst : Nat) : Run :=
  let v := ({ r with fr := { r.fr with poisoned := false } }).rdBytes 0 src 32 false
  let bad := v.2.fr.poisoned || poisonedAt v.2.st src
  let r1 := { v.2 with fr := { v.2.fr with poisoned := r.fr.poisoned } }
  let r2 := r1.wrBytes 3 dst (leBytes 32 v.1) (fun _ _ => true)
  (if bad then r2.up (fun s => poisonAt s dst) else r2).taint (r2.ok && bad)

/-- Bytes copied within the module. -/
def Run.copySpan (r : Run) (src dst n : Nat) : Run :=
  (forWhile (fun x => !x.ok) 0 (ceilDiv n 32) (fun i x => x.copySector ((src + 32 * i) % 2 ^ 40) ((dst + 32 * i) % 2 ^ 40)) r).wroteRun dst n

/-- Fill packets with a run of bytes, for an absolute address at the target. -/
def fillPackets (src dest tag off addr : Nat) (poison : Bool) (b : List Byte) : List Packet :=
  (List.range (ceilDiv b.length 512)).map (fun j =>
    let d := (b.drop (512 * j)).take 512
    { hdr := { newHdr 1 0 (padLen d.length) dest src tag (off + 512 * j) with poison := poison }, body := .fill (addr + 512 * j) d })

/-- Bytes read and sent as a fill. -/
def Run.sendFill (r : Run) (src n dest off addr : Nat) : Run :=
  let v := ({ r with fr := { r.fr with poisoned := false } }).bytes 0 src n
  let bad := v.2.fr.poisoned
  let r1 := { v.2 with fr := { v.2.fr with poisoned := r.fr.poisoned || bad } }
  r1.sendPackets (fillPackets (ownLogical r.st) dest (seqnoOf r.fr) off addr bad (v.1.map (BitVec.ofNat 8)))

/-- An acknowledgement of a fill of this frond. -/
def fillAck (s : State) (f : Frond) (dest : Nat) (k : Packet) : Bool :=
  xferPacket 3 dest (ownLogical s) (seqnoOf f) k

/-- Bytes acknowledged so far. -/
def ackedBytes (s : State) (f : Frond) (dest : Nat) : Nat :=
  (s.links.early.filter (fillAck s f dest)).foldl (fun a k => match k.body with
    | .cts n => a + n
    | _ => a) 0

/-- The last unit waits until `n` bytes have been acknowledged. -/
def Run.awaitAcks (r : Run) (dest n : Nat) : Run :=
  if !r.ok || r.fr.unit + 1 != r.fr.units || r.fr.rep != repeatOf r.fr then r
  else if ackedBytes r.st r.fr dest < n then r.await
  else r.up (fun s => { s with links := { s.links with early := s.links.early.filter (fun k => !fillAck s r.fr dest k) } })

/-- One piece of an epoch copy. -/
def epochUnit (r : Run) : Run :=
  let parts := epochParts r.st r.fr
  let dest := partnerL r.st
  let r1 :=
    if r.fr.sent != 0 then r
    else
      match (partPieces parts)[r.fr.unit]? with
      | none => r
      | some p =>
        if p.far then r.sendFill p.src p.len dest 0 p.dst else r.copySpan p.src p.dst p.len
  (r1.commit 1).awaitAcks dest (farBytes parts * (repeatOf r.fr + 1))

/-- One piece of a background fill. -/
def fillUnitOut (r : Run) : Run :=
  let d := slotOf r.fr 0
  let dest := logicalAt r.st (par r.fr 1)
  let off := 65536 * r.fr.unit
  let r1 :=
    if r.fr.sent != 0 then r
    else r.sendFill (d.addr (d.pos r.fr.rep off)) (min 65536 (d.elems - off)) dest off (fillAddr r.fr + off)
  (r1.commit 1).awaitAcks dest (d.elems * (repeatOf r.fr + 1))

/-! ### The step record (R404) -/

/-- FP32 of 1 / LIVE. -/
def liveScale (live : Nat) : Nat :=
  let v := numDiv (.int 1) (.int live)
  (writeFloat 1 ⟨true, 0, false⟩ v.1 0).1

/-- The 32 bytes of the step record. -/
def stepRecord (s : State) : List Byte :=
  let live := (regF s rDpN 0 16 + 2 ^ 16 - s.fail.dropped % 2 ^ 16) % 2 ^ 16
  let flags := b2n s.fail.redone + 2 * b2n (standinFor s).isSome + 4 * b2n (failState s == 2 || failState s == 3) +
    8 * b2n (failState s == 7)
  leBytes 8 (reg s rFailStep).toNat ++ leBytes 4 (liveScale live) ++ leBytes 2 live ++ leBytes 2 s.fail.dropped ++
  leBytes 1 flags ++ leBytes 15 0

/-- The step record goes to slot 3, where there is one. -/
def Run.putRecord (r : Run) : Run :=
  if (slotOf r.fr 3).empty then r
  else ((List.range 32).zip (stepRecord r.st)).foldl (fun x p => x.wr (slotOf r.fr 3) p.1 p.2.toNat) r

/-! ### COMMIT (R404, R406, R421) -/

/-- The source of a re-run reads as +0 at this module: in DP mode where it is dropped itself, in MP mode where its MP
group holds a dropped coordinate (R406). -/
def droppedHere (s : State) (f : Frond) : Bool :=
  if regB s rFailCtrl 1 then
    match groupIdx s (regF s rFailGroups 16 16) with
    | some g => s.fail.drops.any (fun c => (rankOf s g c).isSome)
    | none => s.fail.drops.contains (identOf s f)
  else s.fail.drops.contains (identOf s f)

/-- A recorded collective made ready to run again. Queue numbers from 4 on keep it apart from its first run. -/
def rerunOf (s : State) (f : Frond) : Frond :=
  { f with queue := f.queue + 4, phase := .working, rep := 0, unit := 0, worked := false, sent := 0, buf := [], work := [],
           grants := [], lines := [], parked := none, page := none, pre := [], skip := none, noWork := false, abort := false,
           held := false, zero := droppedHere s f }

/-- The drop list takes effect: replicas dropped, and the re-runs that are due. -/
def takeDrops (s : State) (f : Frond) : State :=
  let l := s.fail.drops
  let dp := !regB s rFailCtrl 1
  let out := if dp then l.foldl (fun a c => if a.contains c then a else a ++ [c]) s.fail.out else s.fail.out
  let s1 := { s with fail := { s.fail with out := out, dropped := if dp then out.length else l.length, redone := !l.isEmpty,
                                           redo := if l.isEmpty then [] else s.fail.replay.map (rerunOf s) } }
  putFrond s1 { f with work := [3] }

/-- A unit of the first re-run; one that stops takes the COMMIT with it. -/
def redoUnit (s : State) (f g : Frond) : State :=
  let s1 := runUnit ringUnit { s with fronds := s.fronds ++ [g] } g
  match s1.fronds.find? (fun x => x.is g.region g.queue g.idx) with
  | none => s1
  | some h =>
    let s2 := dropFrond s1 h
    if h.phase == .finished then stopFrond { s2 with fail := { s2.fail with redo := [] } } f .fault
    else { s2 with fail := { s2.fail with redo := h :: s.fail.redo.drop 1 } }

/-- The first re-run goes on. Complete, and its tee acknowledged, its results have replaced the earlier ones; a poisoned
one poisons its destination. -/
def redoNext (s : State) (f g : Frond) : State :=
  if !g.worked then redoUnit s f g
  else if teeWaits s g then s
  else
    let s1 := bump { s with fail := { s.fail with redo := s.fail.redo.drop 1 } } rRedoCnt 1
    if g.poisoned then poisonDests s1 g .donePoisoned else clearWhole s1 g

/-- A rollback begins at a COMMIT, before its re-runs (R421). -/
def startRollback (s : State) (f : Frond) : State :=
  let was := if failState s = 7 then s.fail.was else failState s
  let s1 := logFrond (setFailState s 7) f 0x4050 (payDefault (opcodeOf f) 0 0)
  putFrond { s1 with fail := { s1.fail with was := was, rollback := false, restored := false, replay := [], redo := [], drops := [] } }
    { f with wake := none, work := [2] }

/-- A rollback ends with a job-wide COMMIT. -/
def endRollback (s : State) (f : Frond) : State :=
  if failState s = 7 then logFrond (setFailState s s.fail.was) f 0x4051 (payDefault (opcodeOf f) 0 0) else s

/-- The step record is written and the COMMIT's work is done. -/
def commitFinish (s : State) (f : Frond) : State :=
  let s1 := runUnit Run.putRecord s f
  match s1.fronds.find? (fun g => g.is f.region f.queue f.idx) with
  | some g => if g.worked then endRollback s1 g else s1
  | none => s1

/-- What a COMMIT does next: arrive, roll back, run collectives again, write its record. -/
def commitStep (s : State) (f : Frond) : State :=
  if s.fail.lost then s
  else
    match f.wake with
    | none => if f.work = [2] then (if s.fail.restored then barrierArrive s { f with work := [] } else s) else barrierArrive s f
    | some _ =>
      if s.fail.rollback && f.work == [1] then startRollback s f
      else if f.work = [1] then takeDrops s f
      else
        match s.fail.redo with
        | g :: _ => redoNext s f g
        | [] => commitFinish s f

/-- A COMMIT goes on, up to `n` times. -/
def commitRun (x : FrondRef) : Nat → State → State
  | 0, s => s
  | n + 1, s =>
    match findFrond s x with
    | none => s
    | some f => if canRun s f 0xD03 && failKind f == 0 then commitRun x n (commitStep s f) else s

/-! ### BOUNDARY (R404, R409, R416, R418, R419) -/

/-- The first 8 bytes of SHAKE256 over runs of memory. -/
def spanDigest (s : State) (l : List (Nat × Nat)) : Nat := leNat (shake256 (l.flatMap (fun p => bytesAt s p.1 p.2)) 8)

/-- The HOT tensors, and the partner's HOT shadows. -/
def hotSpans (s : State) : List (Nat × Nat) :=
  ((List.range 256).filter (fun i => ptClass s i != 0 && !ptCold s i)).map (fun i => (ptBase s i, ptSize s i))
def shadowSpans (s : State) : List (Nat × Nat) :=
  ((List.range 256).filter (fun i => qtClass s i != 0 && !qtCold s i)).map (fun i => ((reg s (rQtLocal i)).toNat, qtSize s i))

/-- A kept DIGEST packet. -/
def isDigest (k : Packet) : Bool :=
  match k.body with
  | .ready n _ _ _ _ _ => n == 5
  | _ => false

/-- The shadow check: the partner is sent the digest of its shadows, and its own of this module's is judged (R409). -/
def shadowCheck (s : State) : State :=
  match partnerOf s with
  | none => s
  | some p =>
    let s1 := sendReady { s with fail := { s.fail with digest := some (spanDigest s (hotSpans s)) } } p 5
      (spanDigest s (shadowSpans s)) 0 0 0
    match s1.links.early.find? isDigest with
    | some k => takeDigest k { s1 with links := { s1.links with early := s1.links.early.erase k } }
    | none => s1

/-- Runs of memory sent to a module, each to an address there. -/
def sendSpans (s : State) (dest tag : Nat) (l : List (Nat × Nat × Nat)) : State :=
  l.foldl (fun x p => (fillPackets (ownLogical s) dest tag 0 p.2.2 false (bytesAt s p.1 p.2.1)).foldl inject x) s

/-- Shadows that a mismatch has made stale are filled anew, and the module is protected again (R409). -/
def reseedShadows (s : State) (f : Frond) : State :=
  if !s.fail.reseed then s
  else
    let l := ((List.range 256).filter (fun i => ptClass s i != 0 && !ptCold s i)).map
      (fun i => (ptBase s i, ptSize s i, (reg s (rPtRemote i)).toNat))
    let s1 := sendSpans { s with fail := { s.fail with reseed := false } } (partnerL s) (seqnoOf f) l
    logFrond (setFailState s1 1) f 0x4021 (payDefault (opcodeOf f) 0 (partnerL s))

/-- The hand-over at the symbiont: the HOT shadows and the own HOT tensors go to the gemma, ADOPT COMMIT is flooded, the
dual identity ends, and packets for the coordinate are relayed (R419). -/
def handOver (s : State) (f : Frond) : State :=
  match standinFor s with
  | none => s
  | some l =>
    if !(regB s rGemma 32 && regB s rGemma 33) then s
    else
      let g := regF s rGemma 0 32
      let shadows := ((List.range 256).filter (fun i => qtClass s i != 0 && !qtCold s i)).map
        (fun i => ((reg s (rQtLocal i)).toNat, qtSize s i, (reg s (rQtBase i)).toNat))
      let own := ((List.range 256).filter (fun i => ptClass s i != 0 && !ptCold s i)).map
        (fun i => (ptBase s i, ptSize s i, (reg s (rPtRemote i)).toNat))
      let s1 := sendSpans s (logicalAt s g) (seqnoOf f) (shadows ++ own)
      let s2 := sendAll (noteSeen s1 (0x21, l, 1)) (adoptPacket s1 g l g (ownPhys s) (reg s rFailStep).toNat 1) none
      let s3 := setReg (setReg s2 rStandin 0) rGemma 0
      let s4 := completeHandover { s3 with fail := { s3.fail with freshStep := none, relay := some (l, g) },
                                           links := { s3.links with ghosts := [] } } l g
      logFrond (setFailState s4 1) f 0x4021 (payDefault (opcodeOf f) 0 l)

/-- A hand-over made elsewhere takes effect at the boundary of its step. -/
def handOverDue (s : State) : State :=
  match s.fail.handover with
  | some (l, g, step) => if step ≤ (reg s rFailStep).toNat then completeHandover s l g else s
  | none => s

/-- The partner's images start at the boundary that ends the step of the loss, in MP mode (R416). -/
def startImages (s : State) (ended : Nat) : State :=
  if !((standinFor s).isSome && regB s rFailCtrl 1 && s.fail.freshStep == some ended) then s
  else
    forRange 0 8 (fun r x =>
      let w := reg x (rPimage r)
      if bitOf w 40 && !bitOf w 41 then
        let y := wrEnable (setB (setB (setReg x (rQbase r 3) (BitVec.ofNat 64 (fld w 0 40))) (rQctrl r 3) 1 true) (rQctrl r 3) 0 false) r 3 true
        { y with images := y.images.map (fun i =>
            if i.region = r ∧ i.queue = 3 then { i with runs := i.runs - (reg x rFailStep).toNat } else i) }
      else x) s

/-- What a BOUNDARY does but for its record. -/
def boundary (f : Frond) (s : State) : State :=
  let old := (reg s rFailStep).toNat
  let s1 := setReg { s with fail := { s.fail with written := [] } } rFailStep (BitVec.ofNat 64 (old + 1))
  let s2 := if markCheck f then shadowCheck s1 else s1
  startImages (handOverDue (handOver (reseedShadows s2 f) f)) old

/-- After a BOUNDARY the next step begins: ranks that stay lost stay dropped in DP mode (R420). -/
def nextStep (s : State) : State :=
  { s with fail := { s.fail with redone := false, dropped := if regB s rFailCtrl 1 then 0 else s.fail.out.length } }

def boundaryUnit (r : Run) : Run := ((r.up (boundary r.fr)).putRecord).up nextStep

/-! ### The commands -/

/-- An opcode whose KIND makes it another command. -/
def ofKind (k : Nat) (f : FrondRef) (s : State) (a : Answer) : Answer :=
  match findFrond s f with
  | some x => if failKind x = k then a else .next s
  | none => .next s

/-- TEE_APPLY (R407). -/
def execTeeApply (f : FrondRef) (n : Nat) (s : State) : Answer := effect s (if n = 0 then s else teeApply f s)

/-- EPOCH_SNAPSHOT (R410). -/
def execEpochSnapshot (f : FrondRef) (n : Nat) (s : State) : Answer := ofKind 0 f s (runFrond 0xD01 epochUnit f n s)

/-- EPOCH_SNAPSHOT of kind RESTORE (R421). -/
def execEpochRestore (f : FrondRef) (n : Nat) (s : State) : Answer := ofKind 1 f s (runFrond 0xD01 epochUnit f n s)

/-- GEMMA_FILL (R418). -/
def execGemmaFill (f : FrondRef) (n : Nat) (s : State) : Answer := runFrond 0xD02 fillUnitOut f n s

/-- STANDIN_MARK of kind COMMIT (R404, R406, R421). -/
def execStandinMarkCommit (f : FrondRef) (n : Nat) (s : State) : Answer := effect s (commitRun f n s)

/-- STANDIN_MARK of kind BOUNDARY (R404, R409, R419). -/
def execStandinMarkBoundary (f : FrondRef) (n : Nat) (s : State) : Answer := ofKind 1 f s (runFrond 0xD03 boundaryUnit f n s)

end Sys2Proof.Machine
end

