-- ==== Sys2Proof/Machine/Scheme.lean ====
section
/-! DEFINITION. LWE descriptors, scheme switching and client-aided masking: the fronds of class 0xA (R274–R292). -/

namespace Sys2Proof.Machine
open Sys2Proof

/-! ### LWE descriptors (R274, R275) -/

structure Lwd where
  prime : Nat
  poison : Bool
  dim : Nat
  scale : Nat
  budget : Nat
  count : Nat
  fp : Nat
  base : Nat
  stride : Nat
deriving DecidableEq, Repr

def lwdOf (b : List Nat) : Lwd :=
  { prime := nfld (dnum b 1 1) 0 7, poison := nbit (dnum b 1 1) 7, dim := dnum b 2 2 + 1, scale := dnum b 6 2,
    budget := dnum b 8 2, count := dnum b 10 2 + 1, fp := dnum b 16 8, base := dnum b 24 5, stride := dnum b 32 4 }

/-- The 64 bytes of an LWD. -/
def lwdBytes (c : Lwd) : List Byte :=
  leBytes 1 0xFF ++ leBytes 1 (c.prime + b2n c.poison * 128) ++ leBytes 2 (c.dim - 1) ++ leBytes 2 0 ++ leBytes 2 c.scale ++
  leBytes 2 c.budget ++ leBytes 2 (c.count - 1) ++ leBytes 4 0 ++ leBytes 8 c.fp ++ leBytes 8 c.base ++ leBytes 4 c.stride ++
  leBytes 28 0

/-- Sectors of one ciphertext. -/
def Lwd.secs (c : Lwd) : Nat := ceilDiv (c.dim + 1) 7

/-- Offset of ciphertext `j`. -/
def Lwd.off (c : Lwd) (j : Nat) : Nat := c.base + 32 * j * c.stride

/-- The batch's extent. The exception of R234 is for polynomials (log entry 106). -/
def Lwd.ext (c : Lwd) (i : Nat) : Ext := ⟨i, [(c.base, c.off (c.count - 1) + 32 * c.secs)], 0⟩

/-- Where a batch lies: BASE and STRIDE in their form. -/
def Lwd.placed (c : Lwd) : Bool := decide (c.secs ≤ c.stride) && c.base % 32 == 0

/-- Step 1 for an LWD that is read. -/
def lwdForm (b : List Nat) : Bool :=
  let c := lwdOf b
  dnum b 0 1 == 0xFF && dnum b 4 2 == 0 && dnum b 12 4 == 0 && dnum b 29 3 == 0 && dnum b 36 28 == 0 && c.fp != 0 && c.placed

/-! ### Digits (R276, R277) -/

/-- ms(x, q_in, q_out). -/
def modSwitch (x qi qo : Nat) : Nat := if qi = qo then x else (x * qo + qi / 2) / qi % qo

/-- Digits from the least significant up, the most significant first in the list; `y` is what is left. -/
def gadgetLoop (q bb : Nat) : Nat → Nat → List Nat → List Nat
  | 0, _, acc => acc
  | r + 1, y, acc =>
    let d := y % 2 ^ bb
    let z := y / 2 ^ bb
    if 2 ^ bb ≤ 2 * d then gadgetLoop q bb r (z + 1) (modInt q ((d : Int) - 2 ^ bb) :: acc)
    else gadgetLoop q bb r z (d % q :: acc)

/-- digits(x, q, B, ℓ). -/
def gadget (x q bb l : Nat) : List Nat := gadgetLoop q bb l ((x * 2 ^ (bb * l) + q / 2) / q % 2 ^ (bb * l)) []

/-- The expanded half of row `t` (R280). -/
def expandRow (seed : List Byte) (q t tag n : Nat) : List Nat × Nat :=
  expandFrom (seed ++ leBytes 8 q ++ leBytes 4 t ++ leBytes 1 tag) 0x0B q n

/-! ### Fields and checks at decode (R289, R290) -/

def xArg (f : Frond) : Nat := parF f 1 0 18
def xArg2 (f : Frond) : Nat := parF f 2 0 18
def xCount (f : Frond) : Nat := parF f 3 0 16 + 1

/-- LWE_KEYSWITCH, BLIND_ROTATE and REPACK. -/
def xKeyed (f : Frond) : Bool := [0xA01, 0xA02, 0xA03].contains (opcodeOf f)

/-- The descriptors of an opcode: slots that are read, and written. -/
def xReads (f : Frond) : List Nat := if [0xA02, 0xA05].contains (opcodeOf f) then [0, 1] else [0]
def xWrites (f : Frond) : List Nat := if opcodeOf f = 0xA04 then [1, 3] else [3]

/-- Slot `i` names an LWD. -/
def xIsLwd (f : Frond) (i : Nat) : Bool :=
  let o := opcodeOf f
  (i == 0 && xKeyed f) || (i == 3 && [0xA00, 0xA01, 0xA02].contains o)

def xForm (f : Frond) : Bool :=
  let o := opcodeOf f
  parF f 0 4 28 == 0 && parF f 1 18 14 == 0 && parF f 2 18 14 == 0 && parF f 3 16 16 == 0 && parF f 5 10 22 == 0 &&
  par f 6 == 0 && (xArg f == 0 || o == 0xA00 || xKeyed f) && (xArg2 f == 0 || [0xA00, 0xA03, 0xA04].contains o) &&
  (par f 3 == 0 || o == 0xA00)

def xLegal (f : Frond) : Bool :=
  let o := opcodeOf f
  let named := xReads f ++ xWrites f
  parF f 0 0 4 != 0 && named.all (ctdSlot f) && (named.contains 1 || (slotOf f 1).empty) &&
  (if xKeyed f then ctdSlot f 2 && (slotOf f 2).win == 1 && decide (xArg f ≤ 1023) else (slotOf f 2).empty) &&
  (if o = 0xA02 ∨ o = 0xA03 then scrForm f else par f 4 == 0 && par f 5 == 0) &&
  (o != 0xA00 || xArg2 f != 0) && (o != 0xA03 || decide (xArg2 f ≤ 17)) && (o != 0xA04 || decide (xArg2 f ≤ 62))

/-! ### What the descriptors say -/

/-- Everything that a frond's descriptors and key slot hold. -/
structure XIn where
  a : Ctd
  w : Lwd
  b : Ctd
  h : KsHeader
  e : KsEntry

/-- From the bytes of slots 0 and 1, the header's and the entry's. -/
def xIn (b0 b1 : List Nat) (h : KsHeader) (e : KsEntry) : XIn := ⟨ctdOf b0, lwdOf b0, ctdOf b1, h, e⟩

def xOf (f : Frond) : XIn := xIn (descOf f 0) (descOf f 1) (headOf f) (entryOf f)

/-- Source ciphertexts. -/
def XIn.count (x : XIn) (f : Frond) : Nat := if opcodeOf f = 0xA00 then xCount f else x.w.count

/-- The LWD that SAMPLE_EXTRACT, LWE_KEYSWITCH and BLIND_ROTATE write; `d` holds the destination's bytes. -/
def xLwd (f : Frond) (x : XIn) (d : List Nat) (budget : Nat) (poison : Bool) : Lwd :=
  let o := opcodeOf f
  let t := lwdOf d
  { prime := if o = 0xA00 then x.a.pbase else x.e.prime
    poison := poison
    dim := if o = 0xA00 then x.a.n else if o = 0xA01 then x.e.dimOut else 2 ^ x.e.b2
    scale := if o = 0xA00 then x.a.scale else x.w.scale
    budget := budget
    count := x.count f
    fp := if o = 0xA00 then x.a.fp else x.w.fp
    base := t.base
    stride := t.stride }

/-- The CTD that slot `i` is given by REPACK, MASKED_EXPORT and MASKED_IMPORT. -/
def xCtd (f : Frond) (x : XIn) (i : Nat) (d : List Nat) (budget : Nat) (poison : Bool) : Ctd :=
  let t := ctdOf d
  let c : Ctd :=
    if opcodeOf f = 0xA03 then
      { log2n := x.h.log2n, domain := 1, polys := 2, limbsMax := x.h.limbsMax, poison := false, level := 0, special := 0,
        pbase := x.h.pbase, log2slots := x.h.log2n - 1, scale := x.w.scale, budget := 0, fp := x.w.fp, poly := [], stride := 0 }
    else x.a
  { c with
    polys := if i = 1 then 1 else 2
    poly := t.poly
    stride := t.stride
    budget := if i = 1 then 0xFFFF else budget
    poison := poison }

/-- The extent of slot `i`, from its bytes. -/
def xExt (f : Frond) (x : XIn) (i : Nat) (d : List Nat) : Ext :=
  if (xWrites f).contains i then
    (if xIsLwd f i then (xLwd f x d 0 false).ext i else (xCtd f x i d 0 false).ext i)
  else if xIsLwd f i then (lwdOf d).ext i else (ctdOf d).ext i

/-- What is written in slot `i`. -/
def xBytes (f : Frond) (x : XIn) (budget : Nat) (poison : Bool) (i : Nat) : Nat × List Byte :=
  let d := descOf f i
  (i, if xIsLwd f i then lwdBytes (xLwd f x d budget poison) else ctdBytes (xCtd f x i d budget poison))

/-- The entry has the type and RING that the opcode needs. -/
def xType (f : Frond) (e : KsEntry) : Bool :=
  let o := opcodeOf f
  if o = 0xA02 then e.type == 4 else e.type == 5 && e.ring == (if o = 0xA03 then 1 else 0)

/-- Bytes of the scratch area (R289); of an entry of another type none is taken. -/
def xScratch (f : Frond) (x : XIn) (e : Option KsEntry) : Nat :=
  let o := opcodeOf f
  match e with
  | none => 0
  | some k =>
    if !xType f k then 0
    else if o = 0xA02 then 32 * (64 * (2 * k.levels + 2)) * ceilDiv (2 ^ k.b2) 7
    else if o = 0xA03 then 32 * 2 * ceilDiv x.h.n 7
    else 0

/-- Bytes of the stored half from OFFSET on that the frond reads in one group. -/
def xKeyBytes (f : Frond) (e : KsEntry) : Nat :=
  let o := opcodeOf f
  if o = 0xA01 then 32 * ceilDiv (e.dimIn * e.levels) 7
  else if o = 0xA02 then 32 * e.stride * (2 * e.levels * e.b28)
  else 32 * e.stride * (e.dimIn * e.levels)

/-! ### Checks in execution (R233, R290) -/

/-- Step 1. -/
def xStep1 (f : Frond) (x : XIn) : Bool :=
  (xReads f).all (fun i => if xIsLwd f i then lwdForm (descOf f i) else ctdForm (descOf f i)) &&
  (xWrites f).all (fun i =>
    if xIsLwd f i then (xLwd f x (descOf f i) 0 false).placed else resultForm (xCtd f x i (descOf f i) 0 false))

/-- Step 4. An entry that is missing or of another type is left to step 5. -/
def xStep4 (s : State) (f : Frond) (x : XIn) (e : Option KsEntry) : Bool :=
  let o := opcodeOf f
  let ent (p : KsEntry → Bool) : Bool := match e with
    | some k => !xType f k || p k
    | none => true
  if o = 0xA00 then
    ctdPrimes s x.a && x.a.polys == 2 && x.a.level == 0 && x.a.special == 0 &&
      decide (xArg f + (xCount f - 1) * xArg2 f < x.a.n)
  else if o = 0xA01 then
    primeLoaded s x.w.prime && ent (fun k => x.w.dim == k.dimIn && x.w.prime == k.primeIn)
  else if o = 0xA02 then
    primeLoaded s x.w.prime && ctdPrimes s x.b && x.b.polys == 1 && x.b.level == 0 &&
      (x.b.fp == 0 || (match keyReg s f with | some k => x.b.fp == (reg s (rKsetFp f.region k)).toNat | none => true)) &&
      ent (fun k => x.w.dim == k.b28 && x.w.prime == k.prime && x.b.log2n == k.b2 && x.b.pbase == k.prime)
  else if o = 0xA03 then
    primeLoaded s x.w.prime && decide (x.w.count * 2 ^ xArg2 f ≤ x.h.n) &&
      ent (fun k => x.w.dim == k.dimIn && x.w.prime == k.primeIn)
  else if o = 0xA04 then ctdPrimes s x.a && x.a.polys == 2 && x.a.special == 0
  else ctdPrimes s x.a && ctdPrimes s x.b && sameGeometry x.a x.b && x.a.polys == 2 && x.b.polys == 1

/-- The reason of step 5 for a key slot, 0 for none. -/
def xBind (s : State) (f : Frond) (x : XIn) (e : Option KsEntry) : Nat :=
  match keyReg s f with
  | none => 1
  | some k =>
    if x.w.fp != (reg s (rKsetFp f.region k)).toNat then 2
    else match e with
      | none => 4
      | some v => if xType f v then 0 else 5

/-- Steps 2 to 4. -/
def xChecks (s : State) (f : Frond) (x : XIn) (e : Option KsEntry) (n : Nat) : Option Status :=
  let dst := (xWrites f).map (fun i => xExt f x i (descOf f i))
  let src := (xReads f).map (fun i => xExt f x i (descOf f i))
  let keyIn := !xKeyed f || (spansIn f 2 [(keyBase f, keyBase f + 128 + 64 * x.h.entries)] &&
    (match e with
     | some k => !xType f k || spansIn f 2 [(0, keyBase f + k.offset + xKeyBytes f k)]
     | none => true))
  firstFail
    [ (!((dst ++ src).all (fun d => spansIn f d.slot d.spans) && keyIn && (n == 0 || scrIn f n)), .skipBound),
      (extOverlap s f dst src ||
        scrClash s f n (dst ++ src) (if xKeyed f then [absRun s (winAddr f 2 (keyBase f)) (x.h.pages * 4096)] else []), .skipOverlap),
      (!xStep4 s f x e, .skipParam) ]

/-- Step 6. -/
def xDomains (f : Frond) (x : XIn) : Bool :=
  let o := opcodeOf f
  if o = 0xA00 ∨ o = 0xA04 then x.a.domain == 0 else if o = 0xA02 then x.b.domain == 0
  else if o = 0xA05 then x.a.domain == x.b.domain else true

/-- The result budget (R291). -/
def xBudget (f : Frond) (x : XIn) (r : Run) : Budget × Run :=
  let o := opcodeOf f
  let code := if o = 0xA00 then 12 else if o = 0xA01 then 13 else if o = 0xA02 then 14 else if o = 0xA03 then 15 else 1
  let k : Nat × Run := if xKeyed f then (dnum (hdrOf r.fr) (56 + 2 * code) 2, r) else r.cost x.a.fp code
  if o = 0xA02 then (freshBudget k.2.st f.region x.w.fp k.1, k.2)
  else
    let cost := k.1 + (if o = 0xA04 ∧ xArg2 f ≠ 0 then 256 * (xArg2 f + 1) else 0)
    let from_ := if xKeyed f then x.w.budget else x.a.budget
    let v : Int := (from_ : Int) - cost
    (⟨v, floorOk k.2.st f.region cost v⟩, k.2)

/-! ### Ciphertexts (R275, R282) -/

/-- Ciphertext `j` of the batch in slot 0, reduced: a_0 to a_(n−1), then b. -/
def Run.lwe (r : Run) (w : Lwd) (j : Nat) : List Nat × Run :=
  let v := r.rdLimb 0 (winAddr r.fr 0 (w.off j)) (w.dim + 1)
  v.2.reduce (primeQ r.st w.prime) (pbReg r.fr j 0x10) v.1

/-- Ciphertexts `lo` to `lo + n - 1`. -/
def Run.lwes (r : Run) (w : Lwd) (lo n : Nat) : List (List Nat) × Run :=
  forWhile (fun p => !p.2.ok) lo n (fun j p => let v := p.2.lwe w j; (p.1 ++ [v.1], v.2)) ([], r)

/-- Ciphertexts stored in slot 3 from number `lo` on. -/
def Run.putLwes (r : Run) (d : Lwd) (lo : Nat) (l : List (List Nat)) : Run :=
  (l.foldl (fun (p : Nat × Run) v => (p.1 + 1, p.2.wrLimb 3 (winAddr r.fr 3 (d.off p.1)) v)) (lo, r)).2

/-- The LWE ciphertext of coefficient `k` of (c0, c1) (R282). -/
def extractAt (q k : Nat) (c0 c1 : Array Nat) : List Nat :=
  let n := c1.size
  (List.range n).map (fun i => if i ≤ k then c1.getD (k - i) 0 else (q - c1.getD (n + k - i) 0) % q) ++ [c0.getD k 0]

/-- The batch of the unit in hand: 64 ciphertexts. -/
def groupOf (f : Frond) (count : Nat) : Nat × Nat := (64 * f.unit, min 64 (count - 64 * f.unit))

/-- Key bytes, residues expanded and refused, residues sent down and up (R271, R272, R286). -/
def countKey (f : Frond) (bytes res refused down up : Nat) (s : State) : State :=
  let t := f.region
  bump (bump (bump (bump (bump s (rTow t 0x810) bytes) (rTow t 0x1000) res) (rTow t 0x1008) refused) (rTow t 0x800) down)
    (rTow t 0x808) up

/-! ### The work -/

/-- SAMPLE_EXTRACT: 64 ciphertexts. -/
def xExtract (x : XIn) (d : Lwd) (r : Run) : Run :=
  let v := r.limbs 0 x.a [(0, 0, 0), (1, 0, 1)]
  let held := polyChunks x.a.n 2 (r.fr.work.drop 1)
  let src := if r.fr.unit = 0 then v else (held, r)
  let y := if r.fr.unit = 0 then { src.2 with fr := { src.2.fr with work := src.2.fr.work ++ src.1.flatten } } else r
  let c0 := (src.1.getD 0 []).toArray
  let c1 := (src.1.getD 1 []).toArray
  let g := groupOf r.fr (xCount r.fr)
  y.putLwes d g.1 ((List.range g.2).map (fun j =>
    extractAt (ctdPrime r.st x.a 0) (xArg r.fr + (g.1 + j) * xArg2 r.fr) c0 c1))

/-- Sum of multiples of vectors modulo `q`, each of `n` elements. -/
def combine (q n : Nat) (l : List (Nat × List Nat)) : List Nat :=
  l.foldl (fun acc x => limbAdd q acc (limbScale q x.1 x.2)) (limbZero n)

/-- LWE_KEYSWITCH: a group of 64 (R283). -/
def xSwitch (x : XIn) (d : Lwd) (r : Run) : Run :=
  let f := r.fr
  let e := x.e
  let qi := primeQ r.st e.primeIn
  let qo := primeQ r.st e.prime
  let rows := e.dimIn * e.levels
  let g := groupOf f x.w.count
  let src := r.lwes x.w g.1 g.2
  let kb := src.2.rdLimb 2 (winAddr f 2 (keyBase f + e.offset)) rows
  let stored := kb.1.map (· % qo)
  let wide := kb.1.any (fun v => decide (qo ≤ v))
  let ka := (List.range rows).map (fun t => expandRow e.seed qo t 0xB5 e.dimOut)
  let out := src.1.map (fun c =>
    let ds := (c.take e.dimIn).flatMap (fun v => gadget (modSwitch v qi qo) qo e.baseLog e.levels)
    let b := (modSwitch (c.getD e.dimIn 0) qi qo + ((ds.zip stored).map (fun p => p.1 * p.2)).sum) % qo
    combine qo e.dimOut (ds.zip (ka.map (·.1))) ++ [b])
  let y := if wide then kb.2.flag fResReduced else kb.2
  (y.putLwes d g.1 out).up (countKey f (32 * ceilDiv rows 7) (rows * e.dimOut) (ka.map (·.2)).sum (g.2 * rows) (g.2 * (e.dimOut + 1)))

/-- One row of a key of whole limbs: the stored and the expanded polynomial, and the candidates refused. -/
def Run.keyRow (r : Run) (e : KsEntry) (q t tag n : Nat) : (List Nat × List Nat) × Nat × Run :=
  let v := r.rdLimb 2 (winAddr r.fr 2 (keyBase r.fr + e.offset + 32 * e.stride * t)) n
  let x := expandRow e.seed q t tag n
  ((v.1.map (· % q), x.1), x.2, if v.1.any (fun w => decide (q ≤ w)) then v.2.flag fResReduced else v.2)

/-- Rows `lo` to `lo + k - 1`. -/
def Run.keyRows (r : Run) (e : KsEntry) (q lo k tag n : Nat) : List (List Nat × List Nat) × Nat × Run :=
  forWhile (fun p => !p.2.2.ok) lo k
    (fun t p => let v := p.2.2.keyRow e q t tag n; (p.1 ++ [v.1], p.2.1 + v.2.1, v.2.2)) ([], 0, r)

/-- The accumulator after step `i` of a blind rotation, from a_i as an exponent and the key rows (R284). -/
def rotateStep (q psi lg bb l ex : Nat) (rows : List (List Nat × List Nat)) (acc : List Nat × List Nat) : List Nat × List Nat :=
  let n := 2 ^ lg
  let diff (p : List Nat) : List Nat := limbSub q (limbShift q ((2 * n - ex) % (2 * n)) p) p
  let digs (p : List Nat) : List (List Nat) :=
    let ds := p.map (fun v => gadget v q bb l)
    (List.range l).map (fun r => nttLimb q psi lg (ds.map (fun u => u.getD r 0)))
  let d := digs (diff acc.1) ++ digs (diff acc.2)
  let sum (pick : List Nat × List Nat → List Nat) : List Nat :=
    inttLimb q psi lg ((d.zip rows).foldl (fun a x => limbAdd q a (limbMul q x.1 (pick x.2))) (limbZero n))
  (limbAdd q acc.1 (sum (·.1)), limbAdd q acc.2 (sum (·.2)))

/-- BLIND_ROTATE: a group of 64. -/
def xRotate (x : XIn) (d : Lwd) (r : Run) : Run :=
  let f := r.fr
  let e := x.e
  let q := primeQ r.st e.prime
  let lg := e.b2
  let n := 2 ^ lg
  let psi := psiOf r.st e.prime lg
  let test : List Nat × Run := if f.unit = 0 then r.srcLimb 1 x.b 0 0 0 else (f.work.drop 1, r)
  let r1 := if f.unit = 0 then { test.2 with fr := { test.2.fr with work := test.2.fr.work ++ test.1 } } else r
  let g := groupOf f x.w.count
  let src := r1.lwes x.w g.1 g.2
  let ex (c : List Nat) (i : Nat) : Nat := modSwitch (c.getD i 0) q (2 * n)
  let start := src.1.map (fun c => (limbShift q ((2 * n - ex c e.b28) % (2 * n)) test.1, limbZero n))
  let z := forWhile (fun p => !p.2.2.ok) 0 e.b28
    (fun i (p : List (List Nat × List Nat) × Nat × Run) =>
      let k := p.2.2.keyRows e q (i * 2 * e.levels) (2 * e.levels) 0xB4 n
      ((src.1.zip p.1).map (fun u => rotateStep q psi lg e.baseLog e.levels (ex u.1 i) k.1 u.2), p.2.1 + k.2.1, k.2.2))
    (start, 0, src.2)
  let out := z.1.map (fun a => extractAt q 0 a.1.toArray a.2.toArray)
  let rows := 2 * e.levels * e.b28
  (z.2.2.putLwes d g.1 out).up (countKey f (32 * e.stride * rows) (rows * n) z.2.1 (g.2 * rows * n) (g.2 * e.b28 * 2 * n))

/-- REPACK as a whole (R285). -/
def xRepack (x : XIn) (d : Ctd) (r : Run) : Run :=
  let f := r.fr
  let e := x.e
  let q := primeQ r.st x.h.pbase
  let qi := primeQ r.st e.primeIn
  let lg := x.h.log2n
  let n := x.h.n
  let psi := psiOf r.st x.h.pbase lg
  let src := r.lwes x.w 0 x.w.count
  let gap := 2 ^ xArg2 f
  let spread (v : List Nat) : List Nat :=
    let w := v.toArray
    nttLimb q psi lg ((List.range n).map (fun k => if k % gap = 0 then w.getD (k / gap) 0 else 0))
  let sw (i : Nat) : List Nat := src.1.map (fun c => modSwitch (c.getD i 0) qi q)
  let z := forWhile (fun p => !p.2.2.ok) 0 e.dimIn
    (fun c (p : (List Nat × List Nat) × Nat × Run) =>
      let ds := (sw c).map (fun v => gadget v q e.baseLog e.levels)
      let k := p.2.2.keyRows e q (c * e.levels) e.levels 0xB5 n
      let acc := ((List.range e.levels).zip k.1).foldl (fun (a : List Nat × List Nat) u =>
        let t := spread (ds.map (fun w => w.getD u.1 0))
        (limbAdd q a.1 (limbMul q t u.2.1), limbAdd q a.2 (limbMul q t u.2.2))) p.1
      (acc, p.2.1 + k.2.1, k.2.2)) ((spread (sw e.dimIn), limbZero n), 0, src.2)
  let rows := e.dimIn * e.levels
  let g := ceilDiv x.w.count 64
  (((z.2.2.dstLimb 3 d 0 0 0 z.1.1).dstLimb 3 d 1 0 1 z.1.2)).up
    (countKey f (g * 32 * e.stride * rows) (g * rows * n) (g * z.2.1) (rows * n) (2 * n))

/-- 128-bit little-endian integers of drawn bytes, from byte `lo` on. -/
def drawn128 (b : Array Byte) (lo i : Nat) : Nat :=
  (List.range 16).foldr (fun k a => (b.getD (lo + 16 * i + k) 0).toNat + 256 * a) 0

/-- A draw of `len` bytes from the region's DRBG instance; a failure is logged and ends the frond FAULT (R302, R303). -/
def Run.drawBytes (r : Run) (len : Nat) : List Byte × Run :=
  if !r.ok then ([], r)
  else
    let d := drbgDraw r.st r.fr.region (ceilDiv len 65536 + 1) len
    match d.1 with
    | .bytes b => (b, { r with st := d.2 })
    | x => ([], { r with st := logDraw d.2 r.fr.region x }.halt .fault)

/-- MASKED_EXPORT as a whole (R287, R299). -/
def xExport (x : XIn) (own share : Ctd) (r : Run) : Run :=
  let f := r.fr
  let ps := x.a.positions
  let n := x.a.n
  let l := ps.length
  let fl := xArg2 f
  let d := r.drawBytes (16 * n * (l + b2n (fl != 0)))
  let b := d.1.toArray
  let flood (k : Nat) : Int :=
    if fl = 0 then 0 else ((drawn128 b 0 (l * n + k) % (2 ^ (fl + 1) + 1) : Nat) : Int) - 2 ^ fl
  let fs := (List.range n).map flood
  ((List.range l).zip ps).foldl (fun y ip =>
    let q := ctdPrime r.st x.a ip.2
    let c := y.limbs 0 x.a [(0, ip.2, ip.1), (1, ip.2, l + ip.1)]
    let m := (List.range n).map (fun k => drawn128 b 0 (ip.1 * n + k) % q)
    let e0 := limbAdd q (limbAdd q (c.1.getD 0 []) m) (fs.map (modInt q))
    ((c.2.dstLimb 3 own 0 ip.2 ip.1 e0).dstLimb 3 own 1 ip.2 (l + ip.1) (c.1.getD 1 [])).dstLimb 1 share 0 ip.2 (2 * l + ip.1)
      (limbNeg q m)) d.2

/-- MASKED_IMPORT as a whole (R288). -/
def xImport (x : XIn) (d : Ctd) (r : Run) : Run :=
  let ps := x.a.positions
  let l := ps.length
  ((List.range l).zip ps).foldl (fun y ip =>
    let q := ctdPrime r.st x.a ip.2
    let c := y.limbs 0 x.a [(0, ip.2, ip.1), (1, ip.2, l + ip.1)]
    let s := c.2.limbs 1 x.b [(0, ip.2, ip.1)]
    (s.2.dstLimb 3 d 0 ip.2 ip.1 (limbAdd q (c.1.getD 0 []) (s.1.getD 0 []))).dstLimb 3 d 1 ip.2 (l + ip.1) (c.1.getD 1 [])) r

/-- Units (R292). -/
def xUnits (f : Frond) (x : XIn) : Nat :=
  if [0xA00, 0xA01, 0xA02].contains (opcodeOf f) then ceilDiv (x.count f) 64 else 1

/-- A unit's work, the results' descriptors behind the last one. -/
def xGo (x : XIn) (r : Run) : Run :=
  let f := r.fr
  let o := opcodeOf f
  let lw := xLwd f x (descOf f 3) 0 false
  let ct (i : Nat) : Ctd := xCtd f x i (descOf f i) 0 false
  let w := if o = 0xA00 then xExtract x lw r else if o = 0xA01 then xSwitch x lw r else if o = 0xA02 then xRotate x lw r
    else if o = 0xA03 then xRepack x (ct 3) r else if o = 0xA04 then xExport x (ct 3) (ct 1) r else xImport x (ct 3) r
  let y := w.fillScratch (xScratch f x (if xKeyed f then some x.e else none))
  if f.unit + 1 = xUnits f x then
    (xWrites f).foldl (fun z i => let v := xBytes f x (y.fr.work.headD 0) y.fr.poisoned i; z.putDesc v.1 v.2) y
  else y

/-- A descriptor that is read says that its data are poisoned. -/
def xPoison (f : Frond) (i : Nat) : Bool := nbit (dnum (descOf f i) 1 1) 7

/-- The checks of execution, in order. -/
def xStart (e : Option KsEntry) (r0 : Run) : Run :=
  let f := r0.fr
  let x := xOf f
  if !xStep1 f x then r0.halt .skipIllegal
  else
    let n := xScratch f x e
    let r := r0.noteScratch n
    match xChecks r.st f x e n with
    | some v => r.halt v
    | none =>
      let why := if xKeyed f then xBind r.st f x e else 0
      if why ≠ 0 then r.bindFail why
      else if !xKeyed f && !fpsOk r.st f.region (if opcodeOf f = 0xA05 then [x.a, x.b] else [x.a]) then r.halt .skipKeyset
      else if !xDomains f x then r.halt .skipDomain
      else if opcodeOf f == 0xA05 && x.a.scale != x.b.scale then r.halt .skipScale
      else
        let b := xBudget f x r
        let v := b.1.value.toNat
        if !b.1.ok then b.2.halt .skipBudget
        else if (xReads f).any (fun i => xPoison f i || descPoisoned b.2.st f i) then
          b.2.poisonedResult ((xWrites f).map (xBytes f x v true))
        else xGo x { b.2 with fr := { b.2.fr with units := xUnits f x, work := [v] } }

/-- One unit of a class 0xA frond. -/
def xUnit (r0 : Run) : Run :=
  let f := r0.fr
  if f.unit = 0 then
    let r1 := r0.loadDescs (xReads f ++ xWrites f)
    let k : Option KsEntry × Run := if xKeyed f then r1.loadKey (.at (xArg f)) else (none, r1)
    if k.2.ok then xStart k.1 k.2 else k.2
  else xGo (xOf f) r0

/-! ### Latency (R292) -/

/-- Descriptors, header and entry as memory holds them at acceptance. -/
def xAt (s : State) (f : Frond) : XIn :=
  xIn (descAt s f 0) (descAt s f 1) (headAt s f) (ksEntry (bytesAt s (winAddr f 2 (keyBase f + 128 + 64 * xArg f)) 64))

/-- Fixed term, engine term. -/
def xTerms (f : Frond) (x : XIn) : Nat × Nat :=
  let o := opcodeOf f
  let c := x.count f
  let g := ceilDiv c 64
  let k := pbCount f
  let e := x.e
  let l := x.a.positions.length
  let n := x.a.n
  if o = 0xA00 then (24, ceilDiv (c * (n + 1)) 1024)
  else if o = 0xA01 then
    (64, max (ceilDiv (c * e.dimIn * e.levels * e.dimOut) 512) (ceilDiv (g * e.dimIn * e.levels * e.dimOut) 1024))
  else if o = 0xA02 then
    (64, max (ceilDiv (c * e.b28 * (2 * e.levels + 2)) k * (2 ^ e.b2 * e.b2 / 1024)) (ceilDiv (c * e.b28 * 2 * e.levels * 2 ^ e.b2) 512))
  else if o = 0xA03 then
    (64, max (ceilDiv (e.dimIn * e.levels + 1) k * (x.h.n * x.h.log2n / 1024)) (ceilDiv (e.dimIn * e.levels * x.h.n) 512))
  else if o = 0xA04 then (24, max (ceilDiv (3 * l) k * (n / 512)) (ceilDiv (16 * n * (l + 1)) 272))
  else (24, ceilDiv (2 * l) k * (n / 512))

/-- Fill and size terms of slot `i` for what its descriptor describes, and where that begins. -/
def xSlotTerm (s : State) (f : Frond) (x : XIn) (i : Nat) : (Nat × Nat) × List Nat :=
  let d := descAt s f i
  let w := (xWrites f).contains i
  let scr := if i = 3 then 2 * xScratch f x (some x.e) else 0
  let up (t : Nat × Nat) : Nat × Nat := (if scr = 0 then t.1 else max t.1 (fillTerm (memKind s f.region (scrAddr f)) true), t.2)
  if xIsLwd f i then
    let c := if w then xLwd f x d 0 false else lwdOf d
    (up (areaTerm s f i c.base (c.stride == c.secs) (32 * c.count * c.secs + scr) w), [winAddr f i c.base])
  else
    let c := if w then xCtd f x i d 0 false else ctdOf d
    (up (ctdTerm s f i c (32 * c.polys * c.positions.length * c.secs + scr) w), polyStarts f i c)

/-- What a written descriptor describes, as absolute extents. -/
def xOut (s : State) (f : Frond) (x : XIn) (i : Nat) : List (Nat × Nat) :=
  let d := descAt s f i
  absSpans s f i (if xIsLwd f i then ((xLwd f x d 0 false).ext i).spans else (xCtd f x i d 0 false).spans)

def specX (f : Frond) : OpSpec :=
  let o := opcodeOf f
  let b := streamSpec f (xReads f ++ (if xKeyed f then [2] else [])) []
  let slots := xReads f ++ xWrites f
  { b with
    form := xForm f
    check := fun _ => firstFail [(!xLegal f, .skipIllegal)]
    dctds := xWrites f
    outs := fun s => (xWrites f).flatMap (xOut s f (xAt s f)) ++ scrSpan s f (xScratch f (xAt s f) (some (xAt s f).e))
    deadline := if xKeyed f then [2] else []
    latency := fun s _ g _ =>
      let x := xAt s g
      let t := xTerms g x
      let key := if xKeyed g then
          [(slotFill s g 0 2 false, ceilDiv (8 * xKeyBytes g x.e) (allotOf s g 2) * ceilDiv (x.count g) 64)]
        else []
      timeOf t.1 t.2 (slots.map (fun i => (xSlotTerm s g x i).1) ++ key)
    touches := fun s rep =>
      slotStarts f rep ++ slots.flatMap (fun i => (xSlotTerm s f (xAt s f) i).2) ++
        (if o = 0xA02 ∨ o = 0xA03 then [scrAddr f] else [])
    replay := fun s =>
      let x := xAt s f
      if o = 0xA02 then 16 + 2 ^ x.e.b2 / 1024 else if o = 0xA03 then 16 + x.h.n / 1024 else 16
    engines := pbEngines f ++ (if xKeyed f then [f.region * 64 + 16] else []) ++ (if o = 0xA04 then [f.region * 64 + 61] else [])
    units := fun s _ => xUnits f (xAt s f)
    nonrep := o == 0xA04 }

/-! ### The commands -/

/-- SAMPLE_EXTRACT (R282). -/
def execSampleExtract (f : FrondRef) (n : Nat) (s : State) : Answer := runFrond 0xA00 xUnit f n s
/-- LWE_KEYSWITCH (R283). -/
def execLweKeyswitch (f : FrondRef) (n : Nat) (s : State) : Answer := runFrond 0xA01 xUnit f n s
/-- BLIND_ROTATE (R284). -/
def execBlindRotate (f : FrondRef) (n : Nat) (s : State) : Answer := runFrond 0xA02 xUnit f n s
/-- REPACK (R285). -/
def execRepack (f : FrondRef) (n : Nat) (s : State) : Answer := runFrond 0xA03 xUnit f n s
/-- MASKED_EXPORT (R287). -/
def execMaskedExport (f : FrondRef) (n : Nat) (s : State) : Answer := runFrond 0xA04 xUnit f n s
/-- MASKED_IMPORT (R288). -/
def execMaskedImport (f : FrondRef) (n : Nat) (s : State) : Answer := runFrond 0xA05 xUnit f n s

end Sys2Proof.Machine
end

