-- ==== Sys2Proof/Machine/Service.lean ====
section
/-! DEFINITION. The control fronds (R72, R73), the fronds of class 0xE (R448–R453), and the end of a handoff or circular
wait (R154–R158). -/

namespace Sys2Proof.Machine
open Sys2Proof

/-! ### Control fronds (R72, R73) -/

/-- The reserved words of a control frond, its empty slots, and what a BARRIER may not ask for. -/
def ctlForm (f : Frond) : Bool :=
  let o := opcodeOf f
  emptySlots f [0, 1, 2, 3] && zeroPars f [4, 5, 6] &&
  (if o = 0x004 then
     !deadlineEn f && repeatOf f == 0 && parF f 0 16 16 == 0 && parF f 2 1 31 == 0 &&
       (if nbit (par f 2) 0 then par f 3 == 0 else parF f 3 8 24 == 0)
   else zeroPars f [1, 2, 3] && (if o = 0x003 then parF f 0 4 28 == 0 else par f 0 == 0))

/-- A BARRIER of scope 1 names a group of this module whose members are MEMBERS (R391). -/
def barrierOk (s : State) (f : Frond) : Bool :=
  opcodeOf f != 0x004 || !nbit (par f 2) 0 ||
  (match groupIdx s (parF f 0 0 16) with
   | some g => groupSize s g == par f 1 && (rankOf s g (identOf s f)).isSome
   | none => false)

/-- A BARRIER of scope 0 names its own region among as many regions as MEMBERS says (R391). -/
def regionsOk (f : Frond) : Bool :=
  opcodeOf f != 0x004 || nbit (par f 2) 0 || (nbit (par f 3) f.region && popcount 8 (parF f 3 0 8) == par f 1)

def specCtl (f : Frond) : OpSpec :=
  { streamSpec f [] [] with
    form := ctlForm f
    check := fun s => firstFail [(!barrierOk s f || !regionsOk f, .skipParam)]
    latency := fun _ _ _ _ => 4 }

/-- BARRIER: the frond's arrival. -/
def barrierUnit (s : State) (x : FrondRef) : State :=
  match findFrond s x with
  | none => s
  | some f => if canRun s f 0x004 then barrierArrive s f else s

/-- NOP (R72). -/
def execNop (f : FrondRef) (n : Nat) (s : State) : Answer := runFrond 0x000 (fun r => r) f n s
/-- WAIT (R72). -/
def execWait (f : FrondRef) (n : Nat) (s : State) : Answer := runFrond 0x001 (fun r => r) f n s
/-- SIGNAL (R72). -/
def execSignal (f : FrondRef) (n : Nat) (s : State) : Answer := runFrond 0x002 (fun r => r) f n s
/-- FENCE (R72): what it waits for comes before its acceptance. -/
def execFence (f : FrondRef) (n : Nat) (s : State) : Answer := runFrond 0x003 (fun r => r) f n s
/-- BARRIER (R64, R72, R391). -/
def execBarrier (f : FrondRef) (n : Nat) (s : State) : Answer := effect s (if n = 0 then s else barrierUnit s f)

/-! ### Class 0xE (R448–R453) -/

def svcForm (f : Frond) : Bool :=
  let o := opcodeOf f
  zeroPars f [4, 5, 6] && (o == 0xE02 || zeroPars f [1, 2, 3]) && (if o = 0xE00 then parF f 0 16 16 == 0 else par f 0 == 0)

def svcLegal (f : Frond) : Bool :=
  let o := opcodeOf f
  emptySlots f [1, 2] &&
  (if o = 0xE00 then
     emptySlots f [0] && parF f 0 0 16 != 0 &&
       ((slotOf f 3).empty || ((slotOf f 3).fmt == 0xB && (slotOf f 3).elems == 32))
   else if o = 0xE01 then emptySlots f [3] && contiguous (slotOf f 0) && (slotOf f 0).win == 0
   else emptySlots f [0, 3])

/-- A SCRUB_RANGE lies in the HBM range over every repetition (R452). -/
def scrubInHbm (f : Frond) : Bool :=
  let d := slotOf f 0
  let x := d.span (repeatOf f)
  opcodeOf f != 0xE01 || decide ((d.wbase : Int) + x.2 ≤ 0x6000000000)

/-- The engine of a bit of SELFTEST's word 0: M-blocks, V-blocks, P-blocks, the peristome network, the copy engine. -/
def testEngine (r b : Nat) : Nat := r * 64 + b

def specSvc (f : Frond) : OpSpec :=
  let o := opcodeOf f
  let b := streamSpec f (if o = 0xE01 then [0] else []) (if o = 0xE00 then [3] else [])
  { b with
    form := svcForm f
    check := fun _ => firstFail [(!slotsGood f || !svcLegal f, .skipIllegal), (!scrubInHbm f, .skipParam)]
    latency := fun s _ g rep =>
      if o = 0xE00 then streamTime s g rep 64 4096 b.range [] [3] (fun _ => none)
      else if o = 0xE01 then streamTime s g rep 16 (ceilDiv (slotBytes f b.range 0) 2048) b.range [0] [] (fun _ => none)
      else 4
    engines := if o = 0xE00 then ((List.range 16).filter (nbit (par f 0))).map (testEngine f.region) else []
    units := fun _ _ => if o = 0xE01 then unitsOfElems (slotOf f 0) (slotOf f 0).elems else 1 }

/-- The failures that concern selected units. -/
def testFails (f : Frond) (l : List CellSel) : List CellSel := l.filter (fun c => nbit (par f 0) c.block.val)

/-- The block fail mask. -/
def failMask (l : List CellSel) : Nat := l.foldl (fun a c => a ||| 2 ^ c.block.val) 0

/-- The cell fail mask of block `b`. -/
def cellMask (l : List CellSel) (b : Nat) : Nat :=
  l.foldl (fun a c => if c.block.val = b then a ||| 2 ^ c.cell.val else a) 0

/-- The 32 bytes of the result record. -/
def testRecord (l : List CellSel) : List Nat :=
  [failMask l % 256, failMask l / 256] ++ (List.range 14).map (cellMask l) ++ List.replicate 16 0

/-- A failing cell is a cell fault (R449); the network and the copy engine have no cells. -/
def failCell (f : Frond) (s : State) (c : CellSel) : State :=
  if 14 ≤ c.block.val then s
  else
    let e := testEngine f.region c.block.val
    countCellFault (logUnit s f 0x1071 (unitClass e) (srcIndex (e / 64) (unitIndex e) c.cell.val) (cellPay s f e)) e c.cell.val

/-- SELFTEST: the record, the result's event, and what the failures do. -/
def testUnit (fails : List CellSel) (r : Run) : Run :=
  let f := r.fr
  let l := testFails f fails
  let r1 :=
    if (slotOf f 3).empty then r
    else ((List.range 32).zip (testRecord l)).foldl (fun x p => x.wr (slotOf f 3) p.1 p.2) r
  let r2 := r1.up (fun s => logMaint s 0x6020 (failMask l))
  if l.isEmpty then r2 else (r2.up (fun s => l.foldl (failCell f) s)).halt .fault

/-- SCRUB_RANGE: the sectors of one unit. What has been rewritten and poisoned is counted in the frond's work. -/
def scrubUnit (r : Run) : Run :=
  let f := r.fr
  let d := slotOf f 0
  let lo := 65536 * f.unit
  let n := min 65536 (d.elems - lo)
  let a := d.addr (d.pos f.rep lo)
  let first := if f.unit = 0 then a / 32 else ceilDiv a 32
  let v := forRange first (ceilDiv (a + n) 32 - first) (fun i (p : State × Nat × Nat) =>
    let x := scrubSector p.1 (32 * i)
    (x.1, p.2.1 + x.2.1, p.2.2 + x.2.2)) (r.st, f.work.getD 0 0, f.work.getD 1 0)
  let r1 := { r with st := v.1, fr := { f with work := [v.2.1, v.2.2] } }
  if f.unit + 1 = f.units then r1.up (fun s => logPass s 0xFF v.2.1 v.2.2) else r1

/-- LOG_MARK: its event, dated on the acceptance beat (R451). -/
def markUnit (r : Run) : Run :=
  r.up (fun s => logFrondAt s r.fr r.fr.acc 0x6030 (par r.fr 1 + par r.fr 2 * 2 ^ 32 + par r.fr 3 * 2 ^ 64))

/-- SELFTEST (R449); `fails` says which cells' results differ from the ROM's. -/
def execSelftest (f : FrondRef) (n : Nat) (fails : List CellSel) (s : State) : Answer := runFrond 0xE00 (testUnit fails) f n s
/-- SCRUB_RANGE (R450). -/
def execScrubRange (f : FrondRef) (n : Nat) (s : State) : Answer := runFrond 0xE01 scrubUnit f n s
/-- LOG_MARK (R451). -/
def execLogMark (f : FrondRef) (n : Nat) (s : State) : Answer := runFrond 0xE02 markUnit f n s

/-! ### The end of a wait (R154–R158) -/

/-- The frond goes on with its granted line; a wait that makes it late has the cause HANDOFF. -/
def resumeGranted (s : State) (f : Frond) (g : Grant) (bad : Bool) : State :=
  putFrond s { f with grants := f.grants ++ [g], parked := none, causes := f.causes ++ [8], poisoned := f.poisoned || bad,
                      wroteLines := if g.write then sins f.wroteLines g.line else f.wroteLines }

/-- The parked access is granted line `line`, as number `seq` of its stream. -/
def grantTo (s : State) (f : Frond) (p : Parked) (line seq : Nat) : State :=
  let c := grantLine s line p.write ((slotOf f p.slot).fmt == 0x10)
  resumeGranted c.1 f { slot := p.slot, seq := seq, line := line, write := p.write,
                        data := if p.write then [] else bytesAt c.1 (lineAddr line) 64 } c.2

/-- The number of the next line of a circular stream. -/
def nextSeq (f : Frond) (p : Parked) : Nat :=
  1 + maxOf (((f.grants ++ f.lines).filter (fun g => g.slot == p.slot && g.write == p.write)).map (·.seq))

/-- A parked access is presented again; it is granted if its line's state allows it now. -/
def presentAgain (s : State) (x : FrondRef) (circ : Bool) : State :=
  match findFrond s x with
  | none => s
  | some f =>
    match f.parked with
    | none => s
    | some p =>
      if f.phase != .working || f.held || p.circ.isSome != circ then s
      else
        match p.circ with
        | none => if smem s.full p.line == p.write then s else swapLine p.line p.write (grantTo s f p p.line 0)
        | some k =>
          if circReady s f.region k p.write then
            circMove f.region k p.write (grantTo s f p (circNext s f.region k p.write) (nextSeq f p))
          else s

/-- A wait reaches MAT.HANDOFF_WD: the frond stops (R155, R158). -/
def waitExpires (s : State) (x : FrondRef) (circ : Bool) : State :=
  match findFrond s x with
  | none => s
  | some f =>
    match f.parked with
    | none => s
    | some p =>
      if f.phase != .working || f.held || p.circ.isSome != circ then s
      else
        let s1 := advanceTo s (p.since + regF s (rMat f.region 0x8) 0 32)
        let s2 := logUnit s1 f (if circ then 0x2013 else 0x2010) 2 (srcUnit f.region 0)
          (payDefault (opcodeOf f) (statusCode .handoffTimeout) (lineAddr p.line))
        stopFrond s2 f .handoffTimeout

/-- HANDOFF_ACCESS_GRANT (R157). -/
def execHandoffAccessGrant (f : FrondRef) (s : State) : Answer := effect s (presentAgain s f false)
/-- HANDOFF_TIMEOUT (R158). -/
def execHandoffTimeout (f : FrondRef) (s : State) : Answer := effect s (waitExpires s f false)
/-- CIRC_ACCESS_GRANT (R154). -/
def execCircAccessGrant (f : FrondRef) (s : State) : Answer := effect s (presentAgain s f true)
/-- CIRC_TIMEOUT (R155). -/
def execCircTimeout (f : FrondRef) (s : State) : Answer := effect s (waitExpires s f true)

end Sys2Proof.Machine
end

