-- ==== Sys2Proof/Machine/Share.lean ====
section
/-! DEFINITION. Secret shares and randomness: the fronds of class 0xB (R293–R300). -/

namespace Sys2Proof.Machine
open Sys2Proof

/-! ### Fields and roles (R294–R297) -/

def shPrime (f : Frond) : Nat := parF f 0 2 7
def shLimbs (f : Frond) : Nat := parF f 0 16 7
def shPhase (f : Frond) : Bool := nbit (par f 1) 0
def shParty (f : Frond) : Bool := nbit (par f 1) 1
def shTransport (f : Frond) : Bool := nbit (par f 1) 2
def shParam (f : Frond) : Nat := parF f 1 16 6

/-- Slots read and written. -/
def shSources (f : Frond) : List Nat :=
  let o := opcodeOf f
  if o = 0xB00 ∨ o = 0xB12 then [0] else if o = 0xB01 then (if shPhase f then [0, 2] else [0, 1, 2])
  else if o = 0xB02 then [0, 1] else []
def shDests (f : Frond) : List Nat :=
  if opcodeOf f = 0xB00 then [1, 3] else if opcodeOf f = 0xB02 ∧ shTransport f = true then [1, 3] else [3]

/-- Some slot holds residues. -/
def shRes (f : Frond) : Bool := [0, 1, 2, 3].any (fun i => (slotOf f i).fmt == 0x10)

/-- Reserved bits, and fields that the opcode does not use. -/
def shForm (f : Frond) : Bool :=
  let o := opcodeOf f
  parF f 0 9 7 == 0 && parF f 0 23 9 == 0 && parF f 1 3 13 == 0 && parF f 1 22 10 == 0 && parF f 3 16 16 == 0 &&
  zeroPars f [4, 5, 6] && (shRes f || shPrime f == 0) && (o == 0xB01 || parF f 1 0 2 == 0) &&
  (o == 0xB02 || !shTransport f) && (o == 0xB10 || o == 0xB12 || shParam f == 0) &&
  (shTransport f || par f 2 == 0) && (o == 0xB13 || o == 0xB02 || par f 3 == 0)

/-- The format of slot 3. -/
def shFormat (f : Frond) : Bool :=
  let o := opcodeOf f
  let d := (slotOf f 3).fmt
  if o = 0xB10 then d == 0x10 || d == 8 else if o = 0xB11 then d == 0x10 || d == 0xB else if o = 0xB13 then d == 0x18
  else d == 0x10

/-- Slots that share vectors fill are RES36 with linear layout, in whole limbs. -/
def shVectors (f : Frond) : Bool :=
  [0, 1, 2, 3].all (fun i =>
    let d := slotOf f i
    d.fmt != 0x10 || (d.layout == 0 && shLimbs f != 0 && d.elems % shLimbs f == 0))

def shLegal (f : Frond) : Bool :=
  let o := opcodeOf f
  let named := shSources f ++ shDests f
  [0, 1, 2, 3].all (fun i => named.contains i != (slotOf f i).empty) && shFormat f &&
  [0, 1, 2].all (fun i => !named.contains i || (slotOf f i).fmt == 0x10) && shVectors f &&
  (if shRes f then decide (1 ≤ shLimbs f) && decide (shLimbs f ≤ 64) else shLimbs f == 0) &&
  (o != 0xB10 || (decide (1 ≤ shParam f) && decide (shParam f ≤ 32))) &&
  (o != 0xB12 || (decide (1 ≤ shParam f) && decide (shParam f ≤ 62)))

/-- The elements of one share vector. -/
def shCount (f : Frond) : Nat := if opcodeOf f = 0xB01 ∧ shPhase f = false then (slotOf f 0).elems else (slotOf f 3).elems

/-- Share vectors agree in their counts; a triple is three of them, an opened pair two (R294, R298). -/
def shCounts (f : Frond) : Bool :=
  let c := shCount f
  let n (i : Nat) : Nat := (slotOf f i).elems
  let o := opcodeOf f
  if o = 0xB00 ∨ o = 0xB02 then n 0 == c && n 1 == c && n 3 == c
  else if o = 0xB01 then
    (if shPhase f then n 0 == 2 * c && n 2 == 3 * c else n 1 == c && n 2 == 3 * c && n 3 == 2 * c)
  else if o = 0xB12 then n 0 == c
  else true

/-- Prime-table entries are in range and loaded; a partner lies in the torus and is another module (log entry 111). -/
def shParams (s : State) (f : Frond) : Bool :=
  (!shRes f || (decide (shPrime f + shLimbs f ≤ 80) && (List.range (shLimbs f)).all (fun i => primeLoaded s (shPrime f + i)))) &&
  (!shTransport f || (inTorus s (xferPeer f) && xferPeer f != identOf s f))

/-- A destination shares a byte with a source, other than slot 3 identical to slot 0. -/
def shOverlap (s : State) (f : Frond) : Bool :=
  (shDests f).any (fun d => (shSources f).any (fun i => d != i &&
    slotsOverlap s f (fun j => (slotOf f j).posRange) d i && !(d == 3 && i == 0 && sameSlot f 0 3)))

/-! ### Draws (R299) -/

/-- Bytes of the DRBG for one element, and the elements that share a draw: one coefficient of every limb. -/
def drawWidth (f : Frond) : Nat :=
  let o := opcodeOf f
  if o = 0xB00 ∨ o = 0xB12 then 16 else if o = 0xB10 then 8 else if o = 0xB13 then 2
  else if o = 0xB11 then (if (slotOf f 3).fmt = 0x10 then 16 else 1) else 0

/-- Elements of a limb. -/
def shDegree (f : Frond) : Nat := if shRes f then shCount f / shLimbs f else shCount f

/-- The draw of element `e`. -/
def drawIndex (f : Frond) (e : Nat) : Nat :=
  if opcodeOf f = 0xB12 ∨ opcodeOf f = 0xB10 then e % shDegree f else e

/-- Draws of a repetition. -/
def drawTotal (f : Frond) : Nat :=
  drawWidth f * (if opcodeOf f = 0xB12 ∨ opcodeOf f = 0xB10 then shDegree f else shCount f)

/-- The drawn bytes reach at least byte `n` of the repetition: requests of 65,536 bytes, the last one shorter. The last
argument bounds the requests. -/
def Run.drawTo (r : Run) (n : Nat) : Nat → Run
  | 0 => r
  | k + 1 =>
    let have_ := r.fr.buf.length
    if n ≤ have_ then r
    else
      let v := r.drawBytes (min 65536 (drawTotal r.fr - have_))
      let r1 := { v.2 with fr := { v.2.fr with buf := v.2.fr.buf ++ v.1.map BitVec.toNat } }
      if r1.ok then r1.drawTo n k else r1

/-- The number drawn for element `e`. -/
def drawnAt (f : Frond) (e : Nat) : Nat :=
  ((f.buf.drop (drawWidth f * drawIndex f e)).take (drawWidth f)).foldr (fun x a => x + 256 * a) 0

/-- The centred binomial value of eight bytes. -/
def binomial (eta v : Nat) : Int := (popcount 32 (v % 2 ^ eta) : Int) - popcount 32 ((v >>> 32) % 2 ^ eta)

/-- The flood value of sixteen bytes. -/
def floodValue (n v : Nat) : Int := ((v % (2 ^ (n + 1) + 1) : Nat) : Int) - 2 ^ n

/-! ### The specification (R298, R300) -/

/-- T of R300. -/
def shWork (f : Frond) : Nat :=
  let c := shCount f
  let o := opcodeOf f
  if o = 0xB00 then 2 * c else if o = 0xB01 then (if shPhase f then 3 * c else 2 * c) else c

/-- The SEND and RECV terms of TRANSPORT 1. -/
def openTime (s : State) (f : Frond) : Nat :=
  if shTransport f then 2 * (ceilDiv (xferBytes f 0) (routeRate s (xferPeer f)) + 3 * peerLat s (xferPeer f) + 48) else 0

def specShare (f : Frond) : OpSpec :=
  let b := streamSpec f (shSources f) (shDests f)
  { b with
    form := shForm f
    check := fun s => firstFail
      [ (!slotsGood f || !shLegal f, .skipIllegal), (!shParams s f, .skipParam), (!shCounts f, .skipShape),
        (shOverlap s f, .skipOverlap) ]
    latency := fun s _ g rep =>
      streamTime s g rep 12 (max (ceilDiv (shWork f) 128) (ceilDiv (drawTotal f) 272) + openTime s g) b.range (shSources f)
        ((shDests f).filter (fun i => !(shSources f).contains i)) (fun _ => none)
    replay := fun _ => 4
    link := fun s => if shTransport f then linkAllow s [xferPeer f] else 0
    engines := vblockEngine f :: (if drawWidth f = 0 then [] else [f.region * 64 + 61])
    units := fun _ _ => ceilDiv (slotOf f 3).elems 1024
    nonrep := drawWidth f != 0 }

/-! ### Elements -/

/-- A residue of slot `i`. -/
def Run.rdShare (r : Run) (q i e : Nat) : Nat × Run :=
  let v := r.rd (slotOf r.fr i) e
  let x := readRes q v.1
  (x.1, v.2.flag x.2)

/-- The modulus of element `e` of a share vector. -/
def shModulus (r : Run) (e : Nat) : Nat := primeQ r.st (shPrime r.fr + e % shCount r.fr / shDegree r.fr)

/-- A share of a product with a triple (R294). -/
def beaverElem (e : Nat) (r : Run) : Run :=
  let f := r.fr
  let c := shCount f
  let q := shModulus r e
  if shPhase f then
    let d := r.rdShare q 0 e
    let ee := d.2.rdShare q 0 (c + e)
    let a := ee.2.rdShare q 2 e
    let b := a.2.rdShare q 2 (c + e)
    let t := b.2.rdShare q 2 (2 * c + e)
    t.2.wr (slotOf f 3) e ((t.1 + d.1 * b.1 + ee.1 * a.1 + (if shParty f then 0 else d.1 * ee.1)) % q)
  else
    let x := r.rdShare q (if e < c then 0 else 1) (e % c)
    let a := x.2.rdShare q 2 e
    a.2.wr (slotOf f 3) e ((x.1 + q - a.1) % q)

/-- SHARE_SPLIT. -/
def splitElem (e : Nat) (r : Run) : Run :=
  let q := shModulus r e
  let x := r.rdShare q 0 e
  let m := drawnAt r.fr e % q
  (x.2.wr (slotOf r.fr 1) e m).wr (slotOf r.fr 3) e ((x.1 + q - m) % q)

/-- SHARE_OPEN. -/
def openElem (e : Nat) (r : Run) : Run :=
  let q := shModulus r e
  let x := r.rdShare q 0 e
  let y := x.2.rdShare q 1 e
  y.2.wr (slotOf r.fr 3) e ((x.1 + y.1) % q)

/-- FLOOD. -/
def floodElem (e : Nat) (r : Run) : Run :=
  let q := shModulus r e
  let x := r.rdShare q 0 e
  x.2.wr (slotOf r.fr 3) e (modInt q ((x.1 : Int) + floodValue (shParam r.fr) (drawnAt r.fr e)))

/-- RAND_ERROR, RAND_UNIFORM and MASK: the value of element `e`. -/
def randValue (r : Run) (e : Nat) : Nat :=
  let f := r.fr
  let v := drawnAt f e
  let res := (slotOf f 3).fmt == 0x10
  if opcodeOf f = 0xB10 then
    (let b := binomial (shParam f) v
     if res then modInt (shModulus r e) b else wrapInt 32 b)
  else if opcodeOf f = 0xB11 then (if res then v % shModulus r e else v)
  else b2n (decide (v < parF f 3 0 16))

def randElem (e : Nat) (r : Run) : Run := r.wr (slotOf r.fr 3) e (randValue r e)

/-- A unit of 1,024 elements of slot 3, its draws first. -/
def shareUnit (elem : Nat → Run → Run) (r : Run) : Run :=
  let n := (slotOf r.fr 3).elems
  let u := unitSpan r.fr 1024 n
  let need := if opcodeOf r.fr = 0xB10 ∨ opcodeOf r.fr = 0xB12 then min (shDegree r.fr) (u.1 + u.2) else u.1 + u.2
  let r1 := if drawWidth r.fr = 0 then r else r.drawTo (drawWidth r.fr * need) (ceilDiv (drawTotal r.fr) 65536 + 1)
  r1.each 1024 n elem

/-! ### Opening by transport (R295) -/

/-- The shares cross: each side announces itself, answers the other, sends slot 0 and takes slot 1, in stages that the
frond's count of rounds keeps. -/
def openAnnounce (r : Run) : Run :=
  if r.fr.sent = 0 then (r.sendPackets [xferOut r.st r.fr 2 0 0 false (.rts (xferBytes r.fr 0))]).commit 1 else r

/-- The partner's announcement is answered. -/
def openMeet (r : Run) : Run :=
  if !r.ok || r.fr.sent != 1 then r
  else
    let f := r.fr
    match r.st.links.rts.find? (fun w => w.src == xferPeer f && w.tag == xferTag f && w.dst == identOf r.st f) with
    | none => r.await
    | some w =>
      let r1 := (r.up (fun s => { s with links := { s.links with rts := s.links.rts.erase w } })).sendPackets
        [xferOut r.st f 3 0 0 false (.cts (xferBytes f 1))]
      if w.count = xferBytes f 1 then r1.commit 2 else r1.stopWith .skipShape 0x3022

/-- The own share leaves once the partner has answered. -/
def openSend (r : Run) : Run :=
  if !r.ok || r.fr.sent != 2 then r
  else
    let f := r.fr
    match ctsFor r.st f with
    | none => r.await
    | some (k, _) =>
      let r1 := r.up (fun s => { s with links := { s.links with early := s.links.early.erase k } })
      let v := r1.rdRange (slotOf f 0) 0 (slotOf f 0).elems
      let b := packElems 0x10 (v.1.map cleanElem)
      let bad := v.1.any tainted
      ((v.2.taint bad).sendPackets ((List.range (ceilDiv b.length 512)).map (fun j =>
        let part := (b.drop (512 * j)).take 512
        xferOut r.st f 1 (padLen part.length) (512 * j) bad (.bytes part)))).commit 3

/-- The partner's share lands in slot 1. -/
def openTake (r : Run) : Run :=
  if !r.ok || r.fr.sent != 3 then r
  else
    let f := r.fr
    match takePiece r.st f 0 (xferBytes f 1) with
    | none => r.await
    | some (b, bad, ks) =>
      let r1 := { r with st := { r.st with links := { r.st.links with early := ks } } }.taint bad
      ((r1.wrRange (slotOf f 1) 0 (unpackElems 0x10 (slotOf f 1).elems b)).flush (fun _ => false)).commit 4

/-- A unit of SHARE_OPEN. -/
def openUnit (r : Run) : Run :=
  let r1 := if shTransport r.fr ∧ r.fr.unit = 0 then openTake (openSend (openMeet (openAnnounce r))) else r
  if r1.ok then shareUnit openElem r1 else r1

/-! ### The commands -/

/-- SHARE_SPLIT (R294, R299). -/
def execShareSplit (f : FrondRef) (n : Nat) (s : State) : Answer := runFrond 0xB00 (shareUnit splitElem) f n s

/-- BEAVER_MUL (R294). -/
def execBeaverMul (f : FrondRef) (n : Nat) (s : State) : Answer := runFrond 0xB01 (shareUnit beaverElem) f n s

/-- SHARE_OPEN (R294, R295). -/
def execShareOpen (f : FrondRef) (n : Nat) (s : State) : Answer := runFrond 0xB02 openUnit f n s

/-- RAND_ERROR (R296, R299). -/
def execRandError (f : FrondRef) (n : Nat) (s : State) : Answer := runFrond 0xB10 (shareUnit randElem) f n s

/-- RAND_UNIFORM (R296, R299). -/
def execRandUniform (f : FrondRef) (n : Nat) (s : State) : Answer := runFrond 0xB11 (shareUnit randElem) f n s

/-- FLOOD (R296, R299). -/
def execFlood (f : FrondRef) (n : Nat) (s : State) : Answer := runFrond 0xB12 (shareUnit floodElem) f n s

/-- MASK (R296, R299). -/
def execMask (f : FrondRef) (n : Nat) (s : State) : Answer := runFrond 0xB13 (shareUnit randElem) f n s

end Sys2Proof.Machine
end

