-- ==== Sys2Proof/Machine/Queue.lean ====
section
/-! DEFINITION. The sequencer: the opcode index (R71), decode and its checks (R74–R77, R89), acceptance and the promise
(R46–R51, R90), run-ahead (R198), and completion and release (R52–R56, R64, R90). -/

namespace Sys2Proof.Machine
open Sys2Proof

/-! ### The opcode index (R71) -/

/-- The specification of a frond's opcode; nothing for an unknown opcode. -/
def specOf (s : State) (f : Frond) : Option OpSpec :=
  let o := opcodeOf f
  if o ≤ 0x004 then some (specCtl f)
  else if [0x100, 0x102].contains o then some (specMove f)
  else if o = 0x101 then some (specFill f)
  else if [0x110, 0x111, 0x112, 0x113].contains o then some (specCopy f)
  else if [0x200, 0x201, 0x202, 0x210].contains o then some (specMat f)
  else if [0x211, 0x800, 0x801, 0x810, 0x811, 0x812, 0x813, 0x814, 0x820, 0x821, 0x822, 0x823, 0x830].contains o then some (specPoly f)
  else if (0x300 ≤ o ∧ o ≤ 0x30D) ∨ [0x310, 0x311, 0x312, 0x320, 0x321, 0x400, 0x401, 0x402, 0x403].contains o then some (specVec f)
  else if 0x330 ≤ o ∧ o ≤ 0x334 then some (specTile f)
  else if [0x404, 0x410, 0x411, 0x500, 0x510, 0x511].contains o then some (specFunc f)
  else if [0x600, 0x601, 0x602].contains o then some (specConv f)
  else if [0x610, 0x611].contains o then some (specFix f)
  else if [0x700, 0x701, 0x702].contains o then some (specGather f)
  else if (0x900 ≤ o ∧ o ≤ 0x905) ∨ o = 0x910 then some (specKs f)
  else if 0xA00 ≤ o ∧ o ≤ 0xA05 then some (specX f)
  else if [0xB00, 0xB01, 0xB02, 0xB10, 0xB11, 0xB12, 0xB13].contains o then some (specShare f)
  else if [0xC00, 0xC01, 0xC10, 0xC11, 0xC12, 0xC13, 0xC20].contains o then some (specColl s f)
  else if 0xD00 ≤ o ∧ o ≤ 0xD03 then some (specFail f)
  else if 0xE00 ≤ o ∧ o ≤ 0xE02 then some (specSvc f)
  else none

/-! ### Decode (R74–R77, R82, R89) -/

/-- Undecoded fronds of a queue that decodes. A preempted queue decodes nothing (DEDUCED, log entry 118). -/
def undecoded (s : State) (r q : Nat) : Bool :=
  regB s (rQctrl r q) 0 && !regB s (rPstat r) q && decide (0 < countDiff (regF s (rQtail r q) 0 32) (regF s (rQfetch r q) 0 32))

/-- Decoded, unreleased fronds of a queue. -/
def heldEntries (s : State) (r q : Nat) : Nat := (s.fronds.filter (fun f => f.region == r && f.queue == q)).length

/-- A queue may take a decoded-frond entry: 32 are assured to each queue with undecoded fronds (R75; DEDUCED, log entry
119). -/
def entryFree (s : State) (r q : Nat) : Bool :=
  let total := decodedCount s r
  let kept := ((List.range 4).filter (fun p => p != q && undecoded s r p)).map (fun p => 32 - heldEntries s r p)
  decide (total < 256) && (decide (heldEntries s r q < 32) || decide (total + kept.sum < 256))

/-- The beat and the queue of the next decode: a frond is decodable from the first work beat after its tail write. -/
def nextDecode (s : State) (r : Nat) : Option (Nat × Nat) :=
  let b := workFrom s (max (beat s) ((aget s.lastDecode r).map (· + 1) |>.getD 0))
  let can := (List.range 4).filter (fun q => undecoded s r q && entryFree s r q)
  match can.find? (fun q => match aget s.lastTail (r * 4 + q) with
      | some t => decide (t < b)
      | none => true) with
  | some q => some (b, q)
  | none => can.head?.map (fun q => (workFrom s (b + 1), q))

/-- Where frond `k` of a queue lies. -/
def frondAddr (s : State) (r q k : Nat) : Nat :=
  let base := (reg s (rQbase r q)).toNat
  match s.images.find? (fun i => i.region == r && i.queue == q) with
  | some i => base + 64 + 256 * countGap i.base k
  | none => base + 256 * (k % 512)

/-- The words of a frond as decode reads them: a stood-in partner's images run with 8 added to TASK (R416). -/
def frondWords (s : State) (q a : Nat) : List Word32 :=
  let l := (List.range 64).map (fun i => BitVec.ofNat 32 (natAt s (a + 4 * i) 4))
  if standinRuns s && q == 3 then
    (match l with
     | w :: t => (w &&& 0xFF0FFFFF ||| BitVec.ofNat 32 (((nfld w.toNat 20 4 + 8) % 16) <<< 20)) :: t
     | [] => [])
  else l

/-- A frond newly decoded. -/
def newFrond (s : State) (r q k : Nat) (ws : List Word32) : Frond :=
  let task := nfld (ws.headD 0).toNat 20 4
  { region := r, queue := q, idx := k, words := ws,
    pairs := (List.range 4).map (fun w => ((reg s (rTask r task w 0)).toNat, (reg s (rTask r task w 1)).toNat)),
    decoded := beat s, skip := none, noWork := false, phase := .decoded, order := 0, acc := 0, issue := 0, prom := 0,
    suspended := false, group := 0, rep := 0, unit := 0, units := 1, worked := false, dests := [], dctds := [], scratch := [],
    dtiles := [], tiles := [], engines := [], wroteLines := [], wroteGrans := [], wroteTiles := [], holes := [], wroteSpans := [],
    chans := [], abort := false, late := false, held := false, tested := false, unspec := false, poisoned := false,
    recomputed := false, clamped := false, nonrep := false, pend := 0, aflags := 0, causes := [], refreshes := 0, retries := 0,
    bridges := 0, replays := [], ended := 0, parked := none, grants := [], lines := [], pre := [], page := none, work := [],
    buf := [], sent := 0, zero := false, wake := none }

/-- The destinations, tiles and repeatability that an opcode gives a frond. A destination slot whose own descriptor fails
check 1 is not marked (R91); of an unknown opcode slot 3 is the destination (R68). -/
def withSpec (f : Frond) (p : Option OpSpec) : Frond :=
  match p with
  | none => { f with dests := [3].filter (slotForm f) }
  | some p =>
    { f with dests := p.dests.filter (slotForm f), dctds := p.dctds.filter (slotForm f), dtiles := p.dtiles, nonrep := p.nonrep,
             tiles := if opcodeOf f == 0x333 || opcodeOf f == 0x334 then (List.range 64).map (fun k => vblockOf f + k)
                      else p.stiles ++ p.dtiles }

/-- Checks 1 and 2 of R89 and the class's own at decode. -/
def decodeCheck (s : State) (f : Frond) (p : Option OpSpec) : Option Status :=
  match p with
  | none => some .skipIllegal
  | some p =>
    if !headerForm f || !p.form then some .skipIllegal
    else if (!([0, 1, 2, 3].all (inWindow f p.range))) || [0, 1, 2, 3].any (fun i => (slotUnmapped s f p.range i).isSome) then some .skipBound
    else p.check s

/-- MEM_UNMAPPED, where check 2 fails for an address inside the window. -/
def noteUnmapped (s : State) (f : Frond) (p : Option OpSpec) : State :=
  match p with
  | none => s
  | some p =>
    if headerForm f && p.form && [0, 1, 2, 3].all (inWindow f p.range) then
      match [0, 1, 2, 3].findSome? (slotUnmapped s f p.range) with
      | some a => logFrond s f 0x2001 (payDefault (opcodeOf f) (statusCode .skipBound) a)
      | none => s
    else s

/-- A frond of an isolated region is released FAULT 4 bt after its decode (R431). -/
def isolate (s : State) (f : Frond) : Frond :=
  { f with skip := some .fault, noWork := true, phase := .finished, acc := beat s, prom := beat s + 4, ended := beat s }

/-- The frond in the decoded store, checked, with an abort that its slot carried (R92). -/
def enterFrond (s : State) (f0 : Frond) : State :=
  let p := specOf s f0
  let f1 := withSpec f0 p
  let carried := s.aborts.contains (f1.region, f1.queue, f1.idx)
  let s1 := { s with aborts := s.aborts.filter (fun a => a != (f1.region, f1.queue, f1.idx)) }
  if s1.maint.isolated.contains f1.region then { s1 with fronds := s1.fronds ++ [isolate s1 f1] }
  else
    match decodeCheck s1 f1 p with
    | some x => let s2 := noteUnmapped s1 f1 p
                { s2 with fronds := s2.fronds ++ [{ f1 with skip := some x, late := carried }] }
    | none => { s1 with fronds := s1.fronds ++ [{ f1 with abort := carried }] }

/-- Queue `q` decodes its next frond on the present beat. -/
def decodeOne (s : State) (r q : Nat) : State :=
  let k := regF s (rQfetch r q) 0 32
  let a := frondAddr s r q k
  if !fetchable s a 256 then fetchBad s r q a
  else
    let s1 := noteSpan s a 256
    let f := newFrond s1 r q k (frondWords s1 q a)
    enterFrond { setF s1 (rQfetch r q) 0 32 (countAdd k 1) with lastDecode := aset s1.lastDecode r (beat s1) } f

/-- The sequencer of a region may decode or accept (R38, R412, R430–R432, R494). -/
def seqStopped (s : State) (r : Nat) : Bool :=
  moduleStopped s || (s.maint.faultedRegions.contains r && !s.maint.isolated.contains r)

/-- FROND_DECODE. -/
def decodeStep (s : State) (r : Nat) : State :=
  if seqStopped s r then s
  else
    match nextDecode s r with
    | some (b, q) => decodeOne (advanceTo s b) r q
    | none => s

/-! ### Conditions of acceptance (R46, R72, R387, R391, R445) -/

/-- The first decoded frond of a queue that is not accepted. -/
def candidate (s : State) (r q : Nat) : Option Frond :=
  s.fronds.find? (fun f => f.region == r && f.queue == q && f.phase == .decoded)

/-- A FENCE waits for the earlier accepted fronds of its queues (R72). -/
def fenceWaits (s : State) (f : Frond) : Bool :=
  opcodeOf f == 0x003 &&
    s.fronds.any (fun g => g.region == f.region && g.live && (g.queue == f.queue || nbit (par f 0) g.queue))

/-- A collective waits for an accepted one of the same group and TAG (R387), a BARRIER for one of the same group and
scope, in scope 0 of its own region (R391; log entry 129). Fronds that work at another rank do not count. -/
def twinWaits (s : State) (f : Frond) : Bool :=
  let bar (g : Frond) : Bool := opcodeOf g == 0x004
  let wide := nbit (par f 2) 0
  (isColl f || bar f) &&
    s.fronds.any (fun g => g.live && identOf s g == identOf s f && parF g 0 0 16 == parF f 0 0 16 &&
      (if isColl f then isColl g && xferTag g == xferTag f
       else bar g && nbit (par g 2) 0 == wide && (wide || g.region == f.region)))

/-- The towers of an HBM range, as a mask: where its granules lie, of which nine in a row of the interleaved part reach
every tower. -/
def towerMask (s : State) (a n : Nat) : Nat :=
  (List.range (min 16 (ceilDiv n 4096 + 1))).foldl (fun m i => m ||| 2 ^ (towerOf s (min (a + 4096 * i) (a + n - 1))).1)
    ([0, 1, 2, 3, 4, 5, 6, 7].foldl (fun m t =>
      if overlaps (a, a + n) (localBase s t, localBase s t + localGib s * gib) then m ||| 2 ^ t else m) 0)

/-- The maintenance activity that a frond carries (R443). -/
def activityOf (s : State) (f : Frond) : Option (Activity × Nat) :=
  let o := opcodeOf f
  if o = 0xD01 then some (.epoch, 0)
  else if o = 0xD02 then some (.fill, 0)
  else if o = 0xE00 then some (.selftest, f.region)
  else if o = 0xE01 then
    (let d := slotOf f 0
     let x := d.span (repeatOf f)
     some (.scrub, 256 + towerMask s (d.wbase + x.1.toNat) (x.2 - x.1).toNat))
  else none

def frondKey (f : Frond) : Option (Nat × Nat × Nat) := some (f.region, f.queue, f.idx)

/-- The activity of a frond has been asked for, and runs. -/
def activityRuns (s : State) (f : Frond) : Bool := s.maint.running.any (fun q => q.frond == frondKey f)

/-- A frond whose other conditions hold asks for its activity. -/
def askActivity (s : State) (f : Frond) : State :=
  match activityOf s f with
  | none => s
  | some (a, n) =>
    if activityRuns s f || s.maint.queued.any (fun q => q.frond == frondKey f) then s else requestAct s a n (frondKey f)

/-- The activity of a frond ends, or is asked for no longer. -/
def endActivity (s : State) (f : Frond) : State :=
  let s1 := maintStat { s with maint := { s.maint with queued := s.maint.queued.filter (fun q => q.frond != frondKey f) } }
  match s.maint.running.find? (fun q => q.frond == frondKey f) with
  | some q => endAct s1 q.act q.scope false
  | none => if s.maint.queued.any (fun q => q.frond == frondKey f) then s1 else s

/-- A candidate's waits hold, and what its opcode waits for but its activity. An aborted frond waits for nothing (R94). -/
def mayAccept (s : State) (f : Frond) : Bool :=
  f.abort || (waitsMet s f && (f.skip.isSome || !(fenceWaits s f || twinWaits s f)))

/-- The next acceptance of a region: its queues in order of priority, the state with the activities asked for on the
way. -/
def pickFrond (s : State) (r : Nat) : Option Frond × State :=
  (List.range 4).foldl (fun (p : Option Frond × State) q =>
    if p.1.isSome || regB p.2 (rPstat r) q then p
    else
      match candidate p.2 r q with
      | none => p
      | some f =>
        if !mayAccept p.2 f then p
        else if f.abort || f.skip.isSome || (activityOf p.2 f).isNone then (some f, p.2)
        else
          let s1 := askActivity p.2 f
          if activityRuns s1 f then (some f, s1) else (none, s1)) (none, s)

/-- The beat of acceptance: a work beat, one acceptance a beat, after the signals that the frond may have waited for. -/
def acceptBeat (s : State) (f : Frond) : Nat :=
  let last := (aget s.lastAccept f.region).map (· + 1) |>.getD 0
  let b := workFrom s (max (beat s) last)
  if f.abort || waitsSeen s f b then b else workFrom s (b + 1)

/-! ### Checks at acceptance -/

/-- Circular slots (R155). -/
def circCheck (s : State) (f : Frond) : Option Status :=
  let bad (i : Nat) : Option Status :=
    let d := slotOf f i
    if d.empty || !d.circ then none
    else if !regB s (rMat f.region 0) 0 then some .skipIllegal
    else
      match circOf s f.region d with
      | none => some .skipIllegal
      | some k =>
        let v := reg s (rCircCfg f.region k)
        let lo := 0x8000000000 + f.region * 0x2000000 + (cfgSpan v).1
        if d.wbase ≤ lo ∧ lo + 64 * circLines v ≤ d.wbase + d.bound then none else some .skipBound
  [0, 1, 2, 3].findSome? bad

/-- The coordinates that a frond's packets go to. -/
def routeEnds (s : State) (f : Frond) : List Nat :=
  let o := opcodeOf f
  if o / 256 = 0xC then collPeers s f
  else if o = 0xB02 ∧ shTransport f = true then [xferPeer f]
  else if o = 0xD02 then [logicalAt s (par f 1)]
  else if o = 0xD01 ∧ 0 < farBytes (epochParts s f) then [partnerL s]
  else []

/-- The traffic class of slot `i` (R186). -/
def slotClass (s : State) (f : Frond) (p : OpSpec) (i : Nat) : Nat :=
  let d := slotOf f i
  let o := opcodeOf f / 256
  let writes := (p.dests ++ p.dctds).contains i && !p.sources.contains i
  if p.deadline.contains i || ((o == 9 || o == 0xA) && d.win == 1 && !writes) then 3
  else
    match slotMem s f.region d 0 with
    | .matSameDie => 2
    | .matOtherDie => 2
    | _ => if writes then 1 else 0

/-- A channel is eligible for a slot of a class (R187). -/
def eligible (s : State) (r cls c : Nat) (feeds : Bool) : Bool :=
  let v := reg s (rChcfg r c)
  bitOf v 0 && fld v 1 2 == cls && (!feeds || fld v 8 8 != 0)

/-- The eligible channel with the lowest horizon, then the lowest index. -/
def bestChannel (s : State) (r : Nat) (l : List Nat) : Option Nat :=
  let h (c : Nat) : Nat := agetN s.horizons (r * 64 + 17 + c)
  l.foldl (fun (a : Option Nat) c => match a with
    | some x => if h c < h x then some c else some x
    | none => some c) none

/-- A channel for each non-empty slot, or nothing where one finds none (R187). -/
def assignChannels (s : State) (f : Frond) (p : OpSpec) : Option (List (Nat × Nat)) :=
  ([0, 1, 2, 3].filter (fun i => !(slotOf f i).empty)).foldl (fun (a : Option (List (Nat × Nat))) i =>
    match a with
    | none => none
    | some l =>
      let m := slotMem s f.region (slotOf f i) 0
      let free := (List.range 32).filter (fun c => !(l.map (·.2)).contains c &&
        eligible s f.region (slotClass s f p i) c (m.tower || m == .host))
      (bestChannel s f.region free).map (fun c => l ++ [(i, c)])) (some [])

/-- An acceptance-time check that fails: its status, and the event logged beside FROND_SKIPPED. -/
def acceptCheck (s : State) (f : Frond) (p : OpSpec) : Option (Status × Nat) :=
  match circCheck s f, p.late s (shapesAhead s) with
  | some x, _ => some (x, 0)
  | _, some x => some (x, 0)
  | none, none =>
    if !(routeEnds s f).all (reachable s) then some (.skipParam, 0x3010)
    else if protectedColl s f && decide (256 ≤ s.fail.replay.length) then some (.skipParam, 0x4006)
    else if (assignChannels s f p).isNone then some (.skipIllegal, 0x2042)
    else none

/-! ### The promise (R45, R48–R51) -/

/-- What a repetition touches (R49). -/
def touchesAny (s : State) (p : OpSpec) (rep : Nat) (q : Nat → Bool) : Bool := (p.touches s rep).any q

def touchesTower (s : State) (f : Frond) (p : OpSpec) (rep : Nat) : Bool :=
  touchesAny s p rep (fun a => (memKind s f.region a).tower)
def touchesHost (s : State) (f : Frond) (p : OpSpec) (rep : Nat) : Bool :=
  touchesAny s p rep (fun a => memKind s f.region a == .host)
def touchesBridge (s : State) (f : Frond) (p : OpSpec) (rep : Nat) : Bool :=
  touchesAny s p rep (crossesAt s f.region)

/-- The promise of one repetition: the class latency and the allowances. `k` is the level that scales it, 8 for none. -/
def repTime (s : State) (f : Frond) (p : OpSpec) (k rep : Nat) : Nat :=
  let work := p.latency s (shapesAhead s) f rep + p.replay s
  ceilDiv (work * 8) k + 350 * b2n (touchesTower s f p rep) + 16 * b2n (touchesBridge s f p rep) +
    (if touchesHost s f p rep then regF s rHostAllow 0 32 else 0) + p.link s

/-- It sets no horizon: BARRIER, TEE_APPLY and STANDIN_MARK (R73, R404, R407). -/
def noHorizon (f : Frond) : Bool := [0x004, 0xD00, 0xD03].contains (opcodeOf f)

/-- The engines that keep a horizon: not the DRBG instance, nor the spore expander. -/
def keepsHorizon (e : Nat) : Bool := e % 64 != 60 && e % 64 != 61

/-- The issue bound (R48). -/
def issueBound (s : State) (es : List Nat) (a : Nat) : Nat :=
  (es.filter keepsHorizon).foldl (fun m e => max m (agetN s.horizons e)) (a + 1)

/-- The promise P of a frond accepted on the present beat. -/
def promiseOf (s : State) (f : Frond) (p : OpSpec) (i : Nat) : Nat :=
  let k := if deadlineEn f && decide (level s < 8) && regB s rBeatCtrl 0 then level s else 8
  i + forRange 0 (repeatOf f + 1) (fun r a => a + repTime s f p k r) 0

/-- A deadline that is refused (R45, R51). -/
def refused (s : State) (f : Frond) (p : OpSpec) (prom : Nat) : Bool :=
  deadlineEn f &&
    (decide (beat s + fw f 6 < prom) ||
     ((List.range (repeatOf f + 1)).any (touchesHost s f p) && !regB s rBeatCtrl 1) ||
     (decide (level s < 8) && !regB s rBeatCtrl 0))

/-- G: the least value for which the unit groups number at most 65,535 (R88). The last argument bounds the search. -/
def unitShift (u : Nat) : Nat → Nat
  | 0 => 0
  | n + 1 => if u ≤ 65535 then 0 else 1 + unitShift (ceilDiv u 2) n

/-! ### What acceptance does -/

/-- A tile that a frond names enters the cushions of its cells; a source operand is served from them or from the file
(R132, R133, log entry 69). -/
def nameTile (s : State) (k : Nat) (source : Bool) : State :=
  let vb := k / 64
  let cells := min 8 (ceilDiv (shapeOf (shapesAhead s k)).bytes 128)
  forRange 0 cells (fun c x =>
    let key := vb * 8 + c
    let l := (aget x.cushions key).getD []
    let y := if source then bump x (rVb (vb / 4) (vb % 4) (if l.contains k then 0x108 else 0x110)) 1 else x
    { y with cushions := aset y.cushions key ((k :: l.filter (· != k)).take 4) }) s

/-- The shapes that a frond is taken to leave (R128). -/
def projectShapes (s : State) (f : Frond) : State :=
  let o := opcodeOf f
  if o = 0x330 then
    { s with proj := mset (fun _ => 0) s.proj (tileOf f) (if tileFree f then 0 else tileShapeWord f) }
  else if o = 0x334 then
    let b := (bytesAt s ((slotOf f 0).startAt 0) 512).map BitVec.toNat
    let v := vblockOf f
    let s1 := { s with cushions := s.cushions.filter (fun p => p.1 / 8 != v / 64) }
    if saveImageOk b then { s1 with proj := forRange 0 64 (fun k m => mset (fun _ => 0) m (v + k) (hdrShape b k)) s1.proj } else s1
  else s

/-- The absolute extents that a frond writes. -/
def destExtents (s : State) (f : Frond) (p : OpSpec) : List (Nat × Nat) :=
  f.dests.map (fun i => absSpan s f (slotOf f i) (p.range i)) ++ f.dctds.map (descSpan s f) ++ p.outs s

/-- A frond writes in protected tensor `i`: the step is counted once, and a clean COLD tensor's symbiont is told, until
whose answer its writes are held (R401, R403). -/
def touchTensor (s : State) (i : Nat) : State :=
  let s1 := if s.fail.written.contains i then s
    else setF { s with fail := { s.fail with written := sins s.fail.written i } } (rPtCfg i) 32 32 (satAdd 32 (regF s (rPtCfg i) 32 32) 1)
  match partnerOf s1 with
  | none => s1
  | some m =>
    if ptCold s1 i && !ptDirty s1 i && (aget s1.fail.dirtyWait i).isNone then
      sendReady { s1 with fail := { s1.fail with dirtyWait := aset s1.fail.dirtyWait i (beat s1) } } m 3 i 0 0 0
    else s1

/-- The tables of an armed module see the destinations of an accepted frond. -/
def noteTensors (s : State) (l : List (Nat × Nat)) : State :=
  if !armed s || l.isEmpty then s
  else forRange 0 256 (fun i x => if ptClass x i != 0 && l.any (overlaps (ptSpan x i)) then touchTensor x i else x) s

/-- A frond takes its place in acceptance order on the present beat. -/
def ordered (s : State) (f : Frond) : Frond × State :=
  ({ f with order := s.accepted + 1, acc := beat s, suspended := decide (level s < 8) },
   { s with accepted := s.accepted + 1, lastAccept := aset s.lastAccept f.region (beat s) })

/-- Run-ahead data of a frond that is not accepted are discarded (R198). -/
def discardAhead (s : State) (f : Frond) : State :=
  if f.pre.isEmpty then s else setF s (rStrm f.region 0x210) 32 32 (satAdd 32 (regF s (rStrm f.region 0x210) 32 32) 1)

/-- A frond released with no data moved: P is A + 4 but for a refusal (R90, R94). -/
def noData (f : Frond) (prom : Nat) : Frond :=
  { f with noWork := true, phase := .finished, prom := prom, ended := f.acc, pre := [] }

/-- A frond is skipped (R90, R220): `code` is an event of its own. -/
def skipAt (s : State) (f : Frond) (x : Status) (code : Nat) : State :=
  let pay := payDefault (opcodeOf f) (statusCode x) 0
  let s1 := if code = 0 then s else logFrond s f code pay
  let s2 := logFrond s1 f 0x1001 pay
  let copy := [0x110, 0x111, 0x112, 0x113, 0x700, 0x701, 0x702].contains (opcodeOf f)
  let s3 := if x == .skipOverlap && copy then bump s2 (rCpy f.region 0x18) 1 else s2
  putFrond (discardAhead (endActivity s3 f) f) { noData f (f.acc + 4) with skip := some x }

/-- A frond is refused (R51). -/
def refuseAt (s : State) (f : Frond) (prom : Nat) : State :=
  let s1 := logFrond s f 0x1021 (payDefault (opcodeOf f) (statusCode .notAccepted) 0)
  putFrond (discardAhead (endActivity s1 f) f) { noData f prom with skip := some .notAccepted }

/-- A frond is accepted with promise `prom`. -/
def admitFrond (s : State) (f : Frond) (p : OpSpec) (es : List Nat) (i prom : Nat) : State :=
  let u := p.units s (shapesAhead s)
  let g := { f with phase := .working, issue := i, prom := prom, engines := es, units := u, group := unitShift u 64 }
  let s1 := if noHorizon f then s
    else { s with horizons := (es.filter keepsHorizon).foldl (fun h e => aset h e prom) s.horizons }
  let s2 := p.dtiles.foldl (fun x k => nameTile x k false) (p.stiles.foldl (fun x k => nameTile x k true) s1)
  let s3 := projectShapes s2 f
  let s4 := noteTensors s3 (destExtents s3 f p)
  let s5 := if protectedColl s4 f then { s4 with fail := { s4.fail with replay := s4.fail.replay ++ [g] } } else s4
  putFrond s5 g

/-- A frond whose checks at decode passed, on its acceptance beat. -/
def judge (s : State) (f : Frond) (p : OpSpec) : State :=
  match acceptCheck s f p with
  | some (x, code) => skipAt s f x code
  | none =>
    let f1 := { f with chans := (assignChannels s f p).getD [] }
    if p.noop then
      let s1 := if opcodeOf f = 0x110 then bump s (rCpy f.region 0x20) 1 else s
      putFrond s1 (noData f (f.acc + 4))
    else
      let es := p.engines ++ f1.chans.map (fun c => f.region * 64 + 17 + c.2)
      let i := issueBound s es f.acc
      let prom := promiseOf s f1 p i
      if refused s f1 p prom then refuseAt s f prom else admitFrond s f1 p es i prom

/-- A frond is accepted on the present beat (R46, R90, R94). -/
def acceptOne (s0 : State) (f0 : Frond) : State :=
  let t := ordered s0 f0
  let f := t.1
  if f.abort then putFrond (discardAhead (endActivity t.2 f) f) (noData f (f.acc + 4))
  else
    let s := consumeWaits t.2 f
    match f.skip, specOf s f with
    | some x, _ => skipAt s f x 0
    | none, some p => judge s f p
    | none, none => skipAt s f .skipIllegal 0

/-- FROND_ACCEPT. -/
def acceptStep (s : State) (r : Nat) : State :=
  if seqStopped s r || s.maint.isolated.contains r || fenced s || !regB s rMemcfg 63 then s
  else
    match pickFrond s r with
    | (some f, s1) => acceptOne (advanceTo s1 (acceptBeat s1 f)) f
    | (none, s1) => s1

/-! ### Run-ahead (R198) -/

/-- The frond is among the first 64 decoded fronds of its region in acceptance order. -/
def inStore (s : State) (f : Frond) : Bool :=
  decide ((s.fronds.filter (fun g => g.region == f.region && g.phase == .decoded &&
    (decide (g.queue < f.queue) || (g.queue == f.queue && decide (countDiff g.idx f.idx < 0))))).length < 64)

/-- A slot whose elements run-ahead fetches: in a tower, a host window or another region's mat. -/
def fetchesAhead (s : State) (f : Frond) (p : OpSpec) (i : Nat) : Bool :=
  let d := slotOf f i
  p.sources.contains i && p.dctds.isEmpty && decide (opcodeOf f / 256 < 8 || opcodeOf f / 256 = 0xB || opcodeOf f / 256 = 0xC) &&
    !d.empty && !d.circ &&
    (match slotMem s f.region d 0 with
     | .ownMat => false
     | .regs => false
     | _ => true) && (d.early || waitsMet s f)

/-- Bytes of the first `n` elements of a slot in the store. -/
def storeBytes (d : Slot) (n : Nat) : Nat := ceilDiv n (fmtPack d.fmt) * fmtUnit d.fmt

/-- One more element of a slot is fetched, while its share has room and no ATS page is missing. -/
def fetchElem (share i : Nat) (x : FrondRef) (s : State) : State :=
  match findFrond s x with
  | none => s
  | some f =>
    let d := slotOf f i
    let e := (f.pre.filter (fun y => y.slot == i)).length
    if share < storeBytes d (e + 1) || d.elems ≤ e then s
    else
      let p := d.pos 0 e
      let a := d.addr p
      let ready := match resolve s a with
        | .host w o => hostUsable s w && atcHit s w (((reg s (rHwin w)).toNat + o) % 2 ^ 64)
        | _ => true
      if !ready then s
      else
        let c := checkRead s a (d.fmt == 0x10)
        let v : PreElem := { slot := i, elem := e, bits := unitBits d.fmt (d.within p) (natAt c.1 a (fmtUnit d.fmt)), poison := c.2 }
        putFrond (bump c.1 (rStrm f.region 0x218) (storeBytes d (e + 1) - storeBytes d e)) { f with pre := f.pre ++ [v] }

/-- RUN_AHEAD. -/
def runAhead (s : State) (x : FrondRef) (i n : Nat) : State :=
  match findFrond s x with
  | none => s
  | some f =>
    match specOf s f with
    | none => s
    | some p =>
      if f.phase == .decoded && f.skip.isNone && !f.abort && inStore s f && fetchesAhead s f p i && !seqStopped s f.region then
        forRange 0 n (fun _ y => fetchElem (8192 / p.sources.length) i x y) s
      else s

/-! ### Completion and release (R6, R52–R56, R64, R90) -/

/-- The bytes of a span become free values. -/
def openBytes (s : State) (a n : Nat) : State :=
  forRange 0 n (fun i x => let t := takeFree x; putByte t.2 ((a + i) % 2 ^ 40) (BitVec.ofNat 8 t.1)) s

/-- The outputs of a frond that a rail's failure has made unspecified (R6): every destination byte is a free value. -/
def freeOutputs (s : State) (f : Frond) : State :=
  if !f.unspec then s
  else
    let s1 := f.dests.foldl (fun x i =>
      let d := slotOf f i
      if d.empty then x
      else forRange 0 (repeatOf f + 1) (fun r y => forRange 0 (destElems f i) (fun e z =>
        openBytes z (d.addr (destPos f i r e)) (fmtUnit d.fmt)) y) x) s
    let s2 := f.dctds.foldl (fun x i => openBytes x (winAddr f i (slotOf f i).base) 64) s1
    let s3 := match specOf s f with
      | some p => (p.outs s).foldl (fun x e => openBytes x e.1 (e.2 - e.1)) s2
      | none => s2
    f.dtiles.foldl (fun x k => forRange 0 8192 (fun b y => let t := takeFree y; setTileByte k b (BitVec.ofNat 8 t.1) t.2) x) s3

/-- A window of a host port is among what the frond's slots touch. -/
def usesHost (s : State) (f : Frond) : Bool := [0, 1, 2, 3].any (fun i => !(slotOf f i).empty && slotMem s f.region (slotOf f i) 0 == .host)

/-- The causes that apply at a release: STRETCH under R45, and HOST where nothing else made the frond late. -/
def lastCauses (s : State) (f : Frond) : List Nat :=
  let l := if f.suspended then f.causes ++ [6] else f.causes
  if l.isEmpty && usesHost s f then [4] else l

/-- TEE_APPLY and STANDIN_MARK carry their release beat as their promise (R73, R404, R407). -/
def promisedAtRelease (f : Frond) : Bool := [0xD00, 0xD03].contains (opcodeOf f)

/-- The frond is released on the present beat. A BARRIER that was given no release beat carries this one (R73; log
entry 128). -/
def releaseOn (s : State) (f : Frond) : State :=
  let g := { f with causes := lastCauses s f,
                    wake := if (promisedAtRelease f || (opcodeOf f == 0x004 && f.wake.isNone)) && !f.noWork then some (beat s)
                            else f.wake }
  release (freeOutputs (endActivity s f) g) g

/-- A PACED frond that has completed and waits for P. -/
def pacing (f : Frond) : Bool :=
  f.phase == .finished && f.worked && paced f && !f.held && !f.noWork && f.skip.isNone && !f.abort && decide (f.ended < f.prom)

/-- The work has ended, well or not, and nothing else holds the release back. -/
def complete (s : State) (f : Frond) : Bool :=
  !f.noWork && !f.held && !pacing f && !teeWaits s f &&
    ((f.phase == .working && f.worked && opcodeOf f != 0x004 && !(opcodeOf f == 0xD03 && failKind f == 0)) || f.phase == .finished)

/-- FROND_COMPLETE: the work ends on beat `b`, not before the issue bound (R93), and no earlier than the beat before the
present one, on which other fronds may have been released already. PROMPT: the release is on the first work beat after.
PACED: on P, where that is still to come (R52, R53). -/
def frondComplete (s : State) (x : FrondRef) (b : Nat) : State :=
  match findFrond s x with
  | none => s
  | some f =>
    if !complete s f then s
    else
      let e := if f.phase == .working then max (max b f.issue) (beat s - 1) else f.ended
      if f.phase == .working && paced f && decide (e < f.prom) && !promisedAtRelease f then
        putFrond (advanceTo s e) { f with phase := .finished, ended := e }
      else releaseOn (advanceTo s (workFrom (advanceTo s e) (max (beat s) (e + 1)))) { f with ended := e }

/-- PACED_RELEASE. -/
def pacedRelease (s : State) (x : FrondRef) : State :=
  match findFrond s x with
  | none => s
  | some f => if pacing f then releaseOn (advanceTo s f.prom) f else s

/-- SKIPPED_FROND_RELEASE: the fourth work beat after acceptance (R90, R94). -/
def skippedRelease (s : State) (x : FrondRef) : State :=
  match findFrond s x with
  | none => s
  | some f =>
    if f.noWork && f.phase == .finished && !f.held then releaseOn (advanceTo s (workAfter s f.acc 4)) f else s

/-- BARRIER_RELEASE_AT_T: the first work beat at or after T (R64); a COMMIT has then ended its work too. -/
def barrierRelease (s : State) (x : FrondRef) : State :=
  match findFrond s x with
  | none => s
  | some f =>
    match f.wake with
    | none => s
    | some t =>
      let bar := opcodeOf f == 0x004
      let commit := opcodeOf f == 0xD03 && failKind f == 0 && f.worked
      if f.phase == .working && !f.noWork && (bar || commit) then
        let s1 := advanceTo s (workFrom s (max (beat s) t))
        releaseOn s1 { f with ended := beat s1, worked := true, rep := repeatOf f + 1, unit := 0 }
      else s

/-! ### The commands -/

/-- FROND_DECODE (R75, R89). -/
def execFrondDecode (r : Fin 8) (s : State) : Answer := effect s (decodeStep s r.val)
/-- FROND_ACCEPT (R46–R51, R90). -/
def execFrondAccept (r : Fin 8) (s : State) : Answer := effect s (acceptStep s r.val)
/-- SKIPPED_FROND_RELEASE (R90, R94). -/
def execSkippedFrondRelease (f : FrondRef) (s : State) : Answer := effect s (skippedRelease s f)
/-- FROND_COMPLETE (R52–R56). -/
def execFrondComplete (f : FrondRef) (b : Word) (s : State) : Answer := effect s (frondComplete s f b.toNat)
/-- PACED_RELEASE (R53). -/
def execPacedRelease (f : FrondRef) (s : State) : Answer := effect s (pacedRelease s f)
/-- RUN_AHEAD (R198). -/
def execRunAhead (f : FrondRef) (slot : Fin 4) (n : Nat) (s : State) : Answer := effect s (runAhead s f slot.val n)
/-- BARRIER_RELEASE_AT_T (R64). -/
def execBarrierReleaseAtT (f : FrondRef) (s : State) : Answer := effect s (barrierRelease s f)

end Sys2Proof.Machine
end

