-- ==== Sys2Proof/Machine/Start.lean ====
section
/-! DEFINITION. Reset and start-up (R59, R61, R162, R175, R224, R302, R457–R463, R489–R495, R507–R509, R514). -/

namespace Sys2Proof.Machine
open Sys2Proof

/-! ### Module reset (R437, R508, R514) -/

/-- A key of host memory. -/
def isHostKey (k : Nat) : Bool := decide (2 ^ 64 ≤ k)

/-- Held log entries go into the ring before the beat starts again from 0 (log entry 56). -/
def flushLog (s : State) : State :=
  s.log.hold.foldl ringWrite { s with log := { s.log with hold := [] } }

/-- The state of a module in reset. The log and its counters, the flash, tower contents and whatever lies outside the
module are kept; every mat line becomes 0. -/
def moduleReset (s : State) : State :=
  let f := flushLog s
  let r := { State.reset with
    pending := s.pending, freeCtr := s.freeCtr,
    mem := s.mem.filter (fun c => decide (c.1 < 0x6000000000) || isHostKey c.1),
    towPoison := s.towPoison, upsets := s.upsets.filter (fun u => decide (2 ^ 40 ≤ u.1) && decide (u.1 < 2 ^ 48)),
    log := { f.log with inBeat := 0, inCount := 0, stalled := false },
    host := { HostState.reset with flash := s.host.flash, flashMbit := s.host.flashMbit, out := s.host.out },
    links := { LinkState.reset with wire := s.links.wire },
    pins := { PinState.reset with pwrgood := s.pins.pwrgood, resetN := s.pins.resetN, vmgmtLost := s.pins.vmgmtLost } }
  [rLogHead, rLogTail, rLogOver, rLogDrop].foldl (fun x o => setReg x o (reg f o)) r

/-- PWRGOOD is low for 1 µs or more: the THERMTRIP_N latch clears, and the log is lost where VMGMT was (R508, R513). -/
def powerFall (s : State) : State :=
  if !s.pins.pwrgood then s
  else
    let r := moduleReset s
    let r1 := { r with pins := { r.pins with pwrgood := false, vmgmtLost := false } }
    if s.pins.vmgmtLost then { loseLog r1 with pins := r1.pins } else r1

/-- RESET_N is low for 1 µs or more, with PWRGOOD high: the THERMTRIP_N latch and the peak temperature are kept. -/
def resetFall (s : State) : State :=
  if !s.pins.resetN then s
  else if !s.pins.pwrgood then { s with pins := { s.pins with resetN := false } }
  else
    let r := moduleReset s
    let r1 := { r with pins := { r.pins with resetN := false, thermtrip := s.pins.thermtrip } }
    setB (setF r1 rTherm 16 8 (regF s rTherm 16 8)) rTherm 25 (regB s rTherm 25)

/-! ### Steps (R493) -/

/-- Start-up has stopped. -/
def stopped (s : State) : Bool := regB s rBoot 4

/-- Start-up goes to step `n`: BOOT.STEP, ELAPSED_MS and BOOT_STEP (R493, R496). -/
def toStep (s : State) (n : Nat) : State :=
  let s1 := setF (setF s rBoot 0 4 n) rBoot 16 32 (beatsToMs (beat s))
  logEv s1 0x8010 0x0E (srcUnit 0 0) (payDefault 0 0 0)

/-- `f` unless start-up has stopped. -/
def unlessStopped (f : State → State) (s : State) : State := if stopped s then s else f s

/-! ### Step 3: the signed image (R457–R462, R489, R490) -/

def imageBase : Nat := 0x100000
def imageMax : Nat := 12 * 2 ^ 20

/-- The bytes of a list from `o` on, `n` of them. -/
def cut (b : List Byte) (o n : Nat) : List Byte := (b.drop o).take n

/-- Bytes that are all 0. -/
def zeros (b : List Byte) : Bool := b.all (· == 0)

/-- The image offset of the signature block: the lowest offset whose block holds MAGIC and its own offset as
SIGNED_LEN (DESIGN CHOICE, log entry 48). Erased flash holds no MAGIC, so the listed bytes are enough to look at. -/
def findBlock (s : State) : Option Nat :=
  ((s.host.flash.filter (fun c => c.2 == 0x43 && decide (imageBase ≤ c.1))).map (fun c => c.1 - imageBase)).find? (fun k =>
    decide (k ≤ imageMax) && leNat (flashBytes s (imageBase + k) 4) == 0x47535A43 &&
    leNat (flashBytes s (imageBase + k + 8) 8) == k)

/-- A certificate of a kind is well formed and carries a valid root signature (R458, R468). -/
def certOk (root cert : List Byte) (kind : Nat) : Bool :=
  leNat (cut cert 0 4) == 0x45435A43 && leNat (cut cert 4 2) == 1 && leNat (cut cert 6 1) == kind && zeros (cut cert 7 1) &&
  zeros (cut cert 73 7) && zeros (cut cert 112 30) && (kind != 2 || zeros (cut cert 96 16)) &&
  edVerify root (cut cert 142 114) (ascii "CZ-CERT") (cut cert 0 142) false == 0

/-- The bytes of the device record that its signature covers, for its COUNT. -/
def recordLen (rec : List Byte) : Nat := 64 + 8 * leNat (cut rec 6 2)

/-- The device record is well formed, belongs to the certificate's module and carries a valid root signature (R462). -/
def recordOk (root rec cert : List Byte) : Bool :=
  leNat (cut rec 0 4) == 0x52445A43 && leNat (cut rec 4 2) == 1 && leNat (cut rec 6 2) == 192 && zeros (cut rec 24 40) &&
  cut rec 8 16 == cut cert 80 16 &&
  edVerify root (cut rec (recordLen rec) 114) (ascii "CZ-DEVREC") (rec.take (recordLen rec)) false == 0

/-- The 32 bytes of ROOT_HASH. -/
def rootHash : List Byte := (List.range 32).map Config.rootHash

/-- The first check of R460 that fails, by its reason; 0 when all pass. -/
def imageCheck (block image rec cert : List Byte) : Nat :=
  let root := cut block 16 57
  if leNat (cut block 4 2) != 1 || !zeros (cut block 6 2) || !zeros (cut block 73 55) || !zeros (cut block 498 14) then 4
  else if shake256 root 32 != rootHash then 1
  else if !certOk root (cut block 128 256) 1 then 2
  else if edVerify (cut block (128 + 16) 57) (cut block 384 114) (ascii "CZ-IMAGE") image true != 0 then 3
  else if !certOk root cert 2 || !recordOk root rec cert then 5
  else 0

/-- IMAGE_REFUSED: start-up stops with reason IMAGE (R460). -/
def refuseImage (s : State) (reason : Nat) : State :=
  let s1 := setF s rBootStat 4 4 reason
  bootStop (logEv s1 0x5002 0x0E (srcUnit 0 0) (payDefault 0 reason 0)) 3

/-! ### The section directory (R490) -/

/-- A section of the image. -/
structure Section where
  type : Nat
  off : Nat
  len : Nat
  dest : Nat
  arg : Nat
  /-- Bytes 1–3 and 24–31 are 0. -/
  clean : Bool

def sectionAt (img : List Byte) (i : Nat) : Section :=
  let b := cut img (64 + 32 * i) 32
  { type := leNat (cut b 0 1), off := leNat (cut b 4 4), len := leNat (cut b 8 4), dest := leNat (cut b 12 8),
    arg := leNat (cut b 20 4), clean := zeros (cut b 1 3) && zeros (cut b 24 8) && b.length == 32 }

/-- The sections of an image, in directory order. -/
def sections (img : List Byte) : List Section := (List.range (leNat (cut img 6 2))).map (sectionAt img)

/-- The header rules. -/
def imageHeadOk (img : List Byte) : Bool :=
  leNat (cut img 0 4) == 0x47465A43 && leNat (cut img 4 2) == 1 && decide (1 ≤ leNat (cut img 6 2)) &&
  decide (leNat (cut img 6 2) ≤ 64) && zeros (cut img 8 56) && decide (64 ≤ img.length)

/-- The rules of one directory entry. -/
def sectionOk (e : Section) : Bool :=
  e.clean && decide (1 ≤ e.type) && decide (e.type ≤ 6) && e.off % 64 == 0 &&
  (if e.type = 1 then true else if e.type = 5 ∨ e.type = 6 then decide (e.dest < 2 ^ 40) else e.dest == 0) &&
  (if e.type = 5 then decide (e.arg < 64) else e.arg == 0) &&
  (if e.type = 2 then e.len % 16 == 0 else if e.type = 4 then e.len % 8 == 0 && decide (e.len / 8 ≤ 16384) else true)

/-- No two sections share a byte. -/
def sectionsApart : List Section → Bool
  | [] => true
  | e :: t => t.all (fun g => !overlaps (e.off, e.off + e.len) (g.off, g.off + g.len)) && sectionsApart t

/-- A REGISTERS entry: address, PHASE, value. -/
structure RegEntry where
  addr : Nat
  phase : Nat
  zero : Nat
  value : Nat

def regEntry (img : List Byte) (o : Nat) : RegEntry :=
  { addr := leNat (cut img o 5), phase := leNat (cut img (o + 5) 1), zero := leNat (cut img (o + 6) 2),
    value := leNat (cut img (o + 8) 8) }

/-- The REGISTERS entries of an image, in section and entry order. -/
def regEntries (img : List Byte) : List RegEntry :=
  ((sections img).filter (fun e => e.type == 2)).flatMap (fun e =>
    (List.range (e.len / 16)).map (fun i => regEntry img (e.off + 16 * i)))

/-- The management SRAM left for firmware beside an image copy of `n` bytes and the log (R487; log entry 57). -/
def sramLeft (n : Nat) : Nat := 2 ^ 24 - n - 2 ^ 18

/-- The checks of R490. -/
def directoryOk (img : List Byte) : Bool :=
  imageHeadOk img &&
  (let l := sections img
   decide (64 + 32 * l.length ≤ img.length) && l.all sectionOk && l.all (fun e => decide (e.off + e.len ≤ img.length)) &&
   sectionsApart l &&
   (l.filter (fun e => e.type == 1)).length == 1 &&
   (l.filter (fun e => e.type == 1)).all (fun e => decide (e.dest + e.len ≤ sramLeft img.length)) &&
   (l.filter (fun e => e.type == 3)).length == 1 && (l.filter (fun e => e.type == 3)).all (fun e => e.len == 1280) &&
   (regEntries img).all (fun r => inRegRange r.addr && decide (1 ≤ r.phase) && decide (r.phase ≤ 3) && r.zero == 0))

/-- Step 3: the checks of R460 and then those of R490. -/
def stepSignature (s : State) : State :=
  match findBlock s with
  | none => refuseImage s 4
  | some k =>
    let img := flashBytes s imageBase k
    let block := flashBytes s (imageBase + k) 512
    let rec0 := flashBytes s 0 8192
    let reason := imageCheck block img rec0 (flashBytes s 0x2000 256)
    if reason ≠ 0 then refuseImage s reason
    else
      let serial := leNat (cut block (128 + 8) 8)
      let s1 := setReg s rBootStat (BitVec.ofNat 64 (1 + (serial % 2 ^ 56) <<< 8))
      let s2 := logEv s1 0x5001 0x0E (srcUnit 0 0) (payDefault 0 0 serial)
      let s3 := { s2 with sec := { s2.sec with
        image := img, imageDigest := shake256 img 64, recordDigest := shake256 (rec0.take (recordLen rec0)) 64 } }
      if directoryOk img then s3 else bootStop (logEv s3 0x8014 0x0E (srcUnit 0 0) (payDefault 0 0 0)) 3

/-! ### Step 4: identity (R463) -/

/-- IDENTITY_FAIL. -/
def identityFail (s : State) (reason : Nat) : State :=
  bootStop (logPke (setF s rIdStat 4 4 reason) 0x5011 (payDefault 0 reason 0)) 4

/-- The PUF key is reconstructed and slots 0 and 1 are filled. -/
def stepIdentity (s : State) : State :=
  let helper := flashBytes s 0x3000 4096
  let k := padTo 32 (Config.pufKey helper)
  if !Config.pufHelperOk helper then identityFail s 1
  else if shake256 (ascii "CZ-PUF-CHK" ++ k) 16 != Config.pufCheck helper then identityFail s 2
  else
    let seed := shake256 (ascii "CZ-ID-ED448" ++ k) 57
    let x := shake256 (ascii "CZ-ID-X448" ++ k) 56
    if edPublic seed != flashBytes s (0x2000 + 16) 57 then identityFail s 3
    else
      let s1 := fillSlot s 1 1 { slot := 0, secret := seed, pub := edPublic seed }
      let s2 := fillSlot s1 2 1 { slot := 1, secret := x, pub := xPublic x }
      let n := Config.pufCorrected helper
      logPke (setReg s2 rIdStat (BitVec.ofNat 64 (1 + (n % 65536) <<< 16))) 0x5010 (payDefault 0 0 n)

/-! ### REGISTERS phases (R491) -/

/-- One entry is written by firmware and read back. -/
def applyEntry (s : State) (r : RegEntry) : State :=
  let o := r.addr - 0x9000000000
  let s1 := writeAs s .mgmt o 8 r.value
  let t := readAs s1 .mgmt o 8
  if t.2 = r.value then t.1 else logEv t.1 0x8013 0x0E (srcUnit 0 0) (payDefault 0 0 r.addr)

/-- The entries of one phase. -/
def applyPhase (s : State) (n : Nat) : State :=
  ((regEntries s.sec.image).filter (fun r => r.phase == n)).foldl applyEntry s

/-! ### Step 5: maps, towers, prime table, entropy (R24, R42, R175, R224, R302, R414) -/

/-- The registers of the 128 CELLMAP and 64 BANKMAP images of the device record, in its order (R462). -/
def mapRegs : List Nat :=
  (List.range 8).flatMap (fun r =>
    (List.range 6).map (fun m => rMb r m 0xF8) ++ (List.range 4).map (fun v => rVb r v 0xF8) ++
    (List.range 4).map (fun p => rPb r p 0xF8)) ++
  (List.range 8).flatMap (fun t => [rTow t 0xF8, rTow t 0x10F8]) ++
  (List.range 8).flatMap (fun r => (List.range 8).map (fun k => rMat r (0xF8 + 8 * k)))

/-- The enabled-unit maps take effect. -/
def applyMaps (s : State) : State :=
  ((List.range 192).zip mapRegs).foldl (fun x p =>
    setReg x p.2 (BitVec.ofNat 64 (leNat (flashBytes s (64 + 8 * p.1) 8)))) s

/-- A tower trains, its margins are recorded, and it is zeroed (R175). -/
def trainTower (e : StartEnv) (t : Nat) (s : State) : State :=
  match e.towers[t]? with
  | none => s
  | some w =>
    if !w.trained then bootStop (logTow s 0x2036 t) 5
    else
      let s1 := recordMargins (setB s (rTow t 8) 0 true) t 3 w.margins
      let mine (a : Nat) : Bool := decide (a < 0x6000000000) && (towerOf s1 a).1 == t
      let s2 := { s1 with
        mem := s1.mem.filter (fun c => !mine c.1),
        towPoison := s1.towPoison.filter (fun g => g / 2 ^ 24 != t),
        upsets := s1.upsets.filter (fun u => !(decide (2 ^ 40 ≤ u.1) && (u.1 - 2 ^ 40) / 2 ^ 31 == t)) }
      setReg s2 (rTow t 0x38) 0

/-- The partner map of the image (R414, R490). -/
def partnerMap (img : List Byte) : List (Nat × Nat) :=
  ((sections img).filter (fun e => e.type == 4)).flatMap (fun e =>
    (List.range (e.len / 8)).map (fun i => (leNat (cut img (e.off + 8 * i) 4), leNat (cut img (e.off + 8 * i + 4) 4))))

/-- The prime table section of the image. -/
def primeTable (img : List Byte) : List Byte :=
  match (sections img).find? (fun e => e.type == 3) with
  | some e => cut img e.off e.len
  | none => []

/-- Step 5 after the maps: both core rails at 800 mV, the prime table, the entropy source and the DRBG instances. -/
def stepSources (e : StartEnv) (s : State) : State :=
  let s1 := setF (setF s rPwrcap 32 10 800) rPwrcap 42 10 800
  let s2 := { s1 with fail := { s1.fail with partners := partnerMap s1.sec.image }, host := { s1.host with wdtKick := beat s1 } }
  let s3 := loadPrimes s2 (primeTable s2.sec.image)
  seedAll (startTest s3 (e.entropyRuns.take 3)) true

/-! ### Steps 8 and 9 (R491, R493, R495) -/

/-- The bytes of a section are copied to DEST; an unmapped destination stops start-up. -/
def loadSection (img : List Byte) (s : State) (e : Section) : State :=
  if stopped s then s
  else if !(spanOk s e.dest e.len && windowOk s e.dest) then bootStop s 6
  else
    let s1 := putBytes s e.dest (cut img e.off e.len)
    if e.type = 5 then
      let r := e.arg % 8
      let q := e.arg / 8 % 4
      setB (setF s1 (rQbase r q) 12 28 (e.dest / 4096)) (rQctrl r q) 1 true
    else s1

/-- Step 8. -/
def stepLoad (s : State) : State :=
  let s1 := applyPhase s 2
  ((sections s1.sec.image).filter (fun e => e.type == 5 || e.type == 6)).foldl (loadSection s1.sec.image) s1

/-- READY: the queues of AUTORUN programs are enabled on the same beat (R495). -/
def stepReady (s : State) : State :=
  let s1 := applyPhase s 3
  let s2 := raiseIrq (logEv (setB s1 rBoot 5 true) 0x8012 0x0E (srcUnit 0 0) (payDefault 0 0 0)) 36
  ((sections s2.sec.image).filter (fun e => e.type == 5 && nbit e.arg 5)).foldl
    (fun x e => wrEnable x (e.arg % 8) (e.arg / 8 % 4) true) s2

/-- Steps 8 and 9. -/
def finish (s : State) : State := unlessStopped (fun x => stepReady (toStep x 9)) (stepLoad (toStep s 8))

/-! ### Steps 6 and 7 (R61, R372, R493) -/

/-- Every port that may train is up. -/
def linksDone (s : State) : Bool := (List.range 16).all (fun p => portUp s p || !mayTrain s p)

/-- Step 7: the root aligns itself and its neighbours; another module waits for ALIGN, unless it is aligned already. -/
def stepAlign (s : State) : State :=
  let s1 := toStep s 7
  let s2 := if ownLogical s1 = 0 && !s1.pins.noAlign then alignOut (setAligned s1) none else s1
  if regB s2 rBeatStat 5 then finish s2 else s2

/-- Start-up in step 6 goes on once every port that may train is up. -/
def afterLinks (s : State) : State :=
  if regF s rBoot 0 4 == 6 && !stopped s && linksDone s then stepAlign s else s

/-- Start-up in step 7 goes on once the module is aligned. -/
def afterAlign (s : State) : State :=
  if regF s rBoot 0 4 == 7 && !stopped s && regB s rBeatStat 5 then finish s else s

/-! ### Reset release (R493, R508, R509) -/

/-- Steps 2 to 6. -/
def stepsFromFlash (e : StartEnv) (s : State) : State :=
  let s1 := toStep s 2
  if !e.flashOk then bootStop s1 2
  else
    let s2 := stepSignature (toStep (setF s1 rNvStat 16 16 s1.host.flashMbit) 3)
    let s3 := unlessStopped (fun x => stepIdentity (toStep x 4)) s2
    let s4 := unlessStopped (fun x => applyMaps (applyPhase (toStep x 5) 1)) s3
    let s5 := forRange 0 8 (fun t x => unlessStopped (trainTower e t) x) s4
    let s6 := unlessStopped (stepSources e) s5
    unlessStopped (fun x => afterLinks (toStep x 6)) s6

/-- Reset is released: the straps are sampled, BEAT.COUNT starts from 0, and start-up runs as far as it needs nothing
more from outside. TEST_EN high holds the module in reset. -/
def releaseReset (s : State) (e : StartEnv) : State :=
  let s1 := { s with pins := { s.pins with testEn := e.testEn, domid := e.domid.toNat, mbusSel := e.mbusSel } }
  let s2 := setReg s1 rStrap (BitVec.ofNat 64 (e.domid.toNat + b2n e.mbusSel * 16))
  let s3 := setF s2 rFailIds 0 4 e.domid.toNat
  if e.testEn then s3
  else
    let s4 := { s3 with start := some e }
    if e.refOk then stepsFromFlash e (setB s4 rBeatStat 4 true) else s4

/-- PWRGOOD rises. -/
def powerRise (s : State) (e : StartEnv) : State :=
  if s.pins.pwrgood then s
  else
    let s1 := { s with pins := { s.pins with pwrgood := true } }
    if s.pins.resetN then releaseReset s1 e else s1

/-- RESET_N rises. -/
def resetRise (s : State) (e : StartEnv) : State :=
  if s.pins.resetN then s
  else
    let s1 := { s with pins := { s.pins with resetN := true } }
    if s.pins.pwrgood then releaseReset s1 e else s1

/-- LINK_WD_S has passed in step 6: untrained ports stay down, and start-up goes on. -/
def linkTimeout (s : State) : State :=
  if regF s rBoot 0 4 == 6 && !stopped s then
    stepAlign (advanceTo s ((regF s rBoot 16 32 + 1000 * regF s rBootCfg 0 16) * 1250000))
  else s

/-- ALIGN_WD_S has passed in step 7: start-up goes on with ALIGNED = 0. -/
def alignTimeout (s : State) : State :=
  if regF s rBoot 0 4 == 7 && !stopped s then
    finish (advanceTo s ((regF s rBoot 16 32 + 1000 * regF s rBootCfg 16 16) * 1250000))
  else s

/-! ### The commands -/

/-- POWER_GOOD_RISE (R493, R508, R509). -/
def execPowerGoodRise (e : StartEnv) (s : State) : Answer := ifOk s (envOk e) (powerRise s e)

/-- POWER_GOOD_FALL (R437, R508). -/
def execPowerGoodFall (s : State) : Answer := effect s (powerFall s)

/-- RESET_N_FALL (R437, R508). -/
def execResetNFall (s : State) : Answer := effect s (resetFall s)

/-- RESET_N_RISE (R493, R508, R509). -/
def execResetNRise (e : StartEnv) (s : State) : Answer := ifOk s (envOk e) (resetRise s e)

/-- LINK_UP (R372, R493). -/
def execLinkUp (p : Fin 16) (t : TrainInfo) (s : State) : Answer := effect s (afterLinks (linkUp s p.val t))

/-- LINK_TRAINING_TIMEOUT (R493). -/
def execLinkTrainingTimeout (s : State) : Answer := effect s (linkTimeout s)

/-- ALIGN (R61). -/
def execAlign (p : Fin 16) (k : Packet) (s : State) : Answer :=
  ifOk s (packetOf 0x11 k) (afterAlign (receive s p k (takeAlign p.val k)))

/-- ALIGN_TIMEOUT (R493). -/
def execAlignTimeout (s : State) : Answer := effect s (alignTimeout s)

end Sys2Proof.Machine
end

