-- ==== Sys2Proof/Machine/Dispatch.lean ====
section
/-! DEFINITION. One arm per command: its meaning, called directly. -/

namespace Sys2Proof.Machine
open Sys2Proof

def exec (i : Instr) (s : State) : Host.Outcome State Fault Refusal :=
  match i with
  | .powerGoodRise e => Sys2Proof.Machine.execPowerGoodRise e s
  | .powerGoodFall => Sys2Proof.Machine.execPowerGoodFall s
  | .resetNFall => Sys2Proof.Machine.execResetNFall s
  | .resetNRise e => Sys2Proof.Machine.execResetNRise e s
  | .perstAssert p => Sys2Proof.Machine.execPerstAssert p s
  | .railOutOfTolerance rail => Sys2Proof.Machine.execRailOutOfTolerance rail s
  | .vmgmtLoss => Sys2Proof.Machine.execVmgmtLoss s
  | .sysrefLockTimeout => Sys2Proof.Machine.execSysrefLockTimeout s
  | .refLoss => Sys2Proof.Machine.execRefLoss s
  | .thermalThrottle d t => Sys2Proof.Machine.execThermalThrottle d t s
  | .hotClear t0 t1 => Sys2Proof.Machine.execHotClear t0 t1 s
  | .thermtrip d t => Sys2Proof.Machine.execThermtrip d t s
  | .linkTrainingTimeout => Sys2Proof.Machine.execLinkTrainingTimeout s
  | .alignTimeout => Sys2Proof.Machine.execAlignTimeout s
  | .voltageLoopTick slack full => Sys2Proof.Machine.execVoltageLoopTick slack full s
  | .powerEstimate watts => Sys2Proof.Machine.execPowerEstimate watts s
  | .beatStretch d cause => Sys2Proof.Machine.execBeatStretch d cause s
  | .beatUnstretch d => Sys2Proof.Machine.execBeatUnstretch d s
  | .heartbeatSend => Sys2Proof.Machine.execHeartbeatSend s
  | .heartbeat p k err => Sys2Proof.Machine.execHeartbeat p k err s
  | .align p k => Sys2Proof.Machine.execAlign p k s
  | .qtailWrite m r q t => Sys2Proof.Machine.execQtailWrite m r q t s
  | .crtailWrite m r q t => Sys2Proof.Machine.execCrtailWrite m r q t s
  | .queueEnableWrite m r q en => Sys2Proof.Machine.execQueueEnableWrite m r q en s
  | .queueRestart m r q => Sys2Proof.Machine.execQueueRestart m r q s
  | .queueCfgWrite m r q k v => Sys2Proof.Machine.execQueueCfgWrite m r q k v s
  | .tokenWrite m t v => Sys2Proof.Machine.execTokenWrite m t v s
  | .frondDecode r => Sys2Proof.Machine.execFrondDecode r s
  | .frondAccept r => Sys2Proof.Machine.execFrondAccept r s
  | .skippedFrondRelease f => Sys2Proof.Machine.execSkippedFrondRelease f s
  | .frondComplete f b => Sys2Proof.Machine.execFrondComplete f b s
  | .pacedRelease f => Sys2Proof.Machine.execPacedRelease f s
  | .abortSingle m r q seq => Sys2Proof.Machine.execAbortSingle m r q seq s
  | .abortThrough m r q seq => Sys2Proof.Machine.execAbortThrough m r q seq s
  | .abortQueue m r q seq => Sys2Proof.Machine.execAbortQueue m r q seq s
  | .preemptDrain m r q => Sys2Proof.Machine.execPreemptDrain m r q s
  | .preemptSuspend m r q => Sys2Proof.Machine.execPreemptSuspend m r q s
  | .preemptResume m r q => Sys2Proof.Machine.execPreemptResume m r q s
  | .preemptDone r q => Sys2Proof.Machine.execPreemptDone r q s
  | .tileSuspendDiscard f => Sys2Proof.Machine.execTileSuspendDiscard f s
  | .cellReplay f u cell => Sys2Proof.Machine.execCellReplay f u cell s
  | .cellFault f u cell => Sys2Proof.Machine.execCellFault f u cell s
  | .sequencerParity r => Sys2Proof.Machine.execSequencerParity r s
  | .blockFault f => Sys2Proof.Machine.execBlockFault f s
  | .bridgeReplay d => Sys2Proof.Machine.execBridgeReplay d s
  | .periParity f => Sys2Proof.Machine.execPeriParity f s
  | .sporeExpanderReplay f cell => Sys2Proof.Machine.execSporeExpanderReplay f cell s
  | .handoffAccessGrant f => Sys2Proof.Machine.execHandoffAccessGrant f s
  | .handoffTimeout f => Sys2Proof.Machine.execHandoffTimeout f s
  | .circAccessGrant f => Sys2Proof.Machine.execCircAccessGrant f s
  | .circTimeout f => Sys2Proof.Machine.execCircTimeout f s
  | .matModeWrite m r v => Sys2Proof.Machine.execMatModeWrite m r v s
  | .hoffCfgWrite m r h v => Sys2Proof.Machine.execHoffCfgWrite m r h v s
  | .circCfgWrite m r k v => Sys2Proof.Machine.execCircCfgWrite m r k v s
  | .circPointerWrite m r k tail v => Sys2Proof.Machine.execCircPointerWrite m r k tail v s
  | .pclassWrite m r k v => Sys2Proof.Machine.execPclassWrite m r k v s
  | .chcfgWrite m r c v => Sys2Proof.Machine.execChcfgWrite m r c v s
  | .runAhead f slot n => Sys2Proof.Machine.execRunAhead f slot n s
  | .refresh t b hits => Sys2Proof.Machine.execRefresh t b hits s
  | .dramTempSample t temp => Sys2Proof.Machine.execDramTempSample t temp s
  | .rfshModeWrite m t v => Sys2Proof.Machine.execRfshModeWrite m t v s
  | .quiesceWrite m t v => Sys2Proof.Machine.execQuiesceWrite m t v s
  | .towerQuiesced t => Sys2Proof.Machine.execTowerQuiesced t s
  | .towQuiesceTimeout t => Sys2Proof.Machine.execTowQuiesceTimeout t s
  | .marginGo m t v => Sys2Proof.Machine.execMarginGo m t v s
  | .marginDone t rec => Sys2Proof.Machine.execMarginDone t rec s
  | .poisonOpQuery m t g => Sys2Proof.Machine.execPoisonOpQuery m t g s
  | .poisonOpSet m t g => Sys2Proof.Machine.execPoisonOpSet m t g s
  | .poisonOpClear m t g => Sys2Proof.Machine.execPoisonOpClear m t g s
  | .scrubStep t => Sys2Proof.Machine.execScrubStep t s
  | .ksetGo m r k => Sys2Proof.Machine.execKsetGo m r k s
  | .ksetRegistered r k => Sys2Proof.Machine.execKsetRegistered r k s
  | .ksetClear m r k => Sys2Proof.Machine.execKsetClear m r k s
  | .ksetBaseWrite m r k v => Sys2Proof.Machine.execKsetBaseWrite m r k v s
  | .entropyHealthFail apt rerun => Sys2Proof.Machine.execEntropyHealthFail apt rerun s
  | .entropyRecovered => Sys2Proof.Machine.execEntropyRecovered s
  | .rngRetry m pass => Sys2Proof.Machine.execRngRetry m pass s
  | .drbgReseed k => Sys2Proof.Machine.execDrbgReseed k s
  | .shake256 m v => Sys2Proof.Machine.execShake256 m v s
  | .ed448Verify m v => Sys2Proof.Machine.execEd448Verify m v s
  | .ed448Sign m v => Sys2Proof.Machine.execEd448Sign m v s
  | .x448 m v => Sys2Proof.Machine.execX448 m v s
  | .keygen m v => Sys2Proof.Machine.execKeygen m v s
  | .pubkey m v => Sys2Proof.Machine.execPubkey m v s
  | .kdf m v => Sys2Proof.Machine.execKdf m v s
  | .mac m v => Sys2Proof.Machine.execMac m v s
  | .clear m v => Sys2Proof.Machine.execClear m v s
  | .attest m v => Sys2Proof.Machine.execAttest m v s
  | .pkeComplete beats => Sys2Proof.Machine.execPkeComplete beats s
  | .logRingEntry => Sys2Proof.Machine.execLogRingEntry s
  | .logRdSelWrite m v => Sys2Proof.Machine.execLogRdSelWrite m v s
  | .logTailWrite m v => Sys2Proof.Machine.execLogTailWrite m v s
  | .drainTailWrite m v => Sys2Proof.Machine.execDrainTailWrite m v s
  | .maintReqScrub m scope => Sys2Proof.Machine.execMaintReqScrub m scope s
  | .maintReqRetrain m scope => Sys2Proof.Machine.execMaintReqRetrain m scope s
  | .maintReqDrain m scope => Sys2Proof.Machine.execMaintReqDrain m scope s
  | .maintReqThermal m scope => Sys2Proof.Machine.execMaintReqThermal m scope s
  | .maintStart => Sys2Proof.Machine.execMaintStart s
  | .maintDone act scope corr => Sys2Proof.Machine.execMaintDone act scope corr s
  | .thermalRecalibration d => Sys2Proof.Machine.execThermalRecalibration d s
  | .linkUp p t => Sys2Proof.Machine.execLinkUp p t s
  | .linkEnableWrite m p en => Sys2Proof.Machine.execLinkEnableWrite m p en s
  | .linkRetrainWrite m p => Sys2Proof.Machine.execLinkRetrainWrite m p s
  | .crcFailure p badCrc => Sys2Proof.Machine.execCrcFailure p badCrc s
  | .linkReplay p k => Sys2Proof.Machine.execLinkReplay p k s
  | .linkBadType p k => Sys2Proof.Machine.execLinkBadType p k s
  | .idle p k => Sys2Proof.Machine.execIdle p k s
  | .data p k => Sys2Proof.Machine.execData p k s
  | .rts p k => Sys2Proof.Machine.execRts p k s
  | .cts p k => Sys2Proof.Machine.execCts p k s
  | .coll p k => Sys2Proof.Machine.execColl p k s
  | .tee p k => Sys2Proof.Machine.execTee p k s
  | .barArrive p k => Sys2Proof.Machine.execBarArrive p k s
  | .barRelease p k => Sys2Proof.Machine.execBarRelease p k s
  | .barrierReleaseAtT f => Sys2Proof.Machine.execBarrierReleaseAtT f s
  | .collTimeout f => Sys2Proof.Machine.execCollTimeout f s
  | .teeFail r k => Sys2Proof.Machine.execTeeFail r k s
  | .maint p k => Sys2Proof.Machine.execMaint p k s
  | .aliasCommit m k v => Sys2Proof.Machine.execAliasCommit m k v s
  | .groupWrite m g b v => Sys2Proof.Machine.execGroupWrite m g b v s
  | .armWrite m v => Sys2Proof.Machine.execArmWrite m v s
  | .readySync p k => Sys2Proof.Machine.execReadySync p k s
  | .cfgPartnerAbsent => Sys2Proof.Machine.execCfgPartnerAbsent s
  | .readyColdDirty p k => Sys2Proof.Machine.execReadyColdDirty p k s
  | .readyDirtyAck p k => Sys2Proof.Machine.execReadyDirtyAck p k s
  | .unprotected k => Sys2Proof.Machine.execUnprotected k s
  | .readyDigest p k => Sys2Proof.Machine.execReadyDigest p k s
  | .lossDeclared p => Sys2Proof.Machine.execLossDeclared p s
  | .selfFenced => Sys2Proof.Machine.execSelfFenced s
  | .lossReceived p k => Sys2Proof.Machine.execLossReceived p k s
  | .gemmaClaim => Sys2Proof.Machine.execGemmaClaim s
  | .adoptClaim p k => Sys2Proof.Machine.execAdoptClaim p k s
  | .readyAccept p k => Sys2Proof.Machine.execReadyAccept p k s
  | .readyBusy p k => Sys2Proof.Machine.execReadyBusy p k s
  | .gemmaFillDone => Sys2Proof.Machine.execGemmaFillDone s
  | .adoptCommit p k => Sys2Proof.Machine.execAdoptCommit p k s
  | .adoptRelease p k => Sys2Proof.Machine.execAdoptRelease p k s
  | .hostBarRead p bar o len => Sys2Proof.Machine.execHostBarRead p bar o len s
  | .hostBarWrite p bar o data => Sys2Proof.Machine.execHostBarWrite p bar o data s
  | .mgmtCoreAccess wr a data len => Sys2Proof.Machine.execMgmtCoreAccess wr a data len s
  | .atsTranslationCompletion p u res => Sys2Proof.Machine.execAtsTranslationCompletion p u res s
  | .atsInvalidation p u log2 => Sys2Proof.Machine.execAtsInvalidation p u log2 s
  | .pageResponse p u code => Sys2Proof.Machine.execPageResponse p u code s
  | .pageReqTimeout p u => Sys2Proof.Machine.execPageReqTimeout p u s
  | .hostCplErr f ep => Sys2Proof.Machine.execHostCplErr f ep s
  | .pcieLinkDown p => Sys2Proof.Machine.execPcieLinkDown p s
  | .pcieLinkUp p speed width => Sys2Proof.Machine.execPcieLinkUp p speed width s
  | .pcieConfigWrite p k v => Sys2Proof.Machine.execPcieConfigWrite p k v s
  | .semAcquire m k => Sys2Proof.Machine.execSemAcquire m k s
  | .semRelease m k => Sys2Proof.Machine.execSemRelease m k s
  | .mboxDataWrite m d j v => Sys2Proof.Machine.execMboxDataWrite m d j v s
  | .mboxSend m d => Sys2Proof.Machine.execMboxSend m d s
  | .mboxClear m d => Sys2Proof.Machine.execMboxClear m d s
  | .nvcfgRead m len => Sys2Proof.Machine.execNvcfgRead m len s
  | .nvcfgProgram m len => Sys2Proof.Machine.execNvcfgProgram m len s
  | .nvcfgErase m len => Sys2Proof.Machine.execNvcfgErase m len s
  | .nvcfgDone err => Sys2Proof.Machine.execNvcfgDone err s
  | .wdtKick m => Sys2Proof.Machine.execWdtKick m s
  | .fwWatchdog => Sys2Proof.Machine.execFwWatchdog s
  | .fwTrap cause => Sys2Proof.Machine.execFwTrap cause s
  | .mctpMessage q => Sys2Proof.Machine.execMctpMessage q s
  | .pwrcapWrite m w => Sys2Proof.Machine.execPwrcapWrite m w s
  | .memcfgWrite m v => Sys2Proof.Machine.execMemcfgWrite m v s
  | .ndClr m => Sys2Proof.Machine.execNdClr m s
  | .missClr m => Sys2Proof.Machine.execMissClr m s
  | .registerWrite m a len v => Sys2Proof.Machine.execRegisterWrite m a len v s
  | .instantiateUnseeded => Sys2Proof.Machine.execInstantiateUnseeded s
  | .nop f n => Sys2Proof.Machine.execNop f n s
  | .wait f n => Sys2Proof.Machine.execWait f n s
  | .signal f n => Sys2Proof.Machine.execSignal f n s
  | .fence f n => Sys2Proof.Machine.execFence f n s
  | .barrier f n => Sys2Proof.Machine.execBarrier f n s
  | .move f n => Sys2Proof.Machine.execMove f n s
  | .fill f n => Sys2Proof.Machine.execFill f n s
  | .prefetch f n => Sys2Proof.Machine.execPrefetch f n s
  | .copy f n => Sys2Proof.Machine.execCopy f n s
  | .relayout f n => Sys2Proof.Machine.execRelayout f n s
  | .transpose f n => Sys2Proof.Machine.execTranspose f n s
  | .permute f n => Sys2Proof.Machine.execPermute f n s
  | .matmul f n => Sys2Proof.Machine.execMatmul f n s
  | .matmulAcc f n => Sys2Proof.Machine.execMatmulAcc f n s
  | .matmulEpi f n => Sys2Proof.Machine.execMatmulEpi f n s
  | .resMatmul f n => Sys2Proof.Machine.execResMatmul f n s
  | .baseconvM f n => Sys2Proof.Machine.execBaseconvM f n s
  | .add f n => Sys2Proof.Machine.execAdd f n s
  | .sub f n => Sys2Proof.Machine.execSub f n s
  | .mul f n => Sys2Proof.Machine.execMul f n s
  | .fma f n => Sys2Proof.Machine.execFma f n s
  | .min f n => Sys2Proof.Machine.execMin f n s
  | .max f n => Sys2Proof.Machine.execMax f n s
  | .abs f n => Sys2Proof.Machine.execAbs f n s
  | .neg f n => Sys2Proof.Machine.execNeg f n s
  | .div f n => Sys2Proof.Machine.execDiv f n s
  | .sqrt f n => Sys2Proof.Machine.execSqrt f n s
  | .cmp f n => Sys2Proof.Machine.execCmp f n s
  | .select f n => Sys2Proof.Machine.execSelect f n s
  | .logic f n => Sys2Proof.Machine.execLogic f n s
  | .shift f n => Sys2Proof.Machine.execShift f n s
  | .radd f n => Sys2Proof.Machine.execRadd f n s
  | .rsub f n => Sys2Proof.Machine.execRsub f n s
  | .rmul f n => Sys2Proof.Machine.execRmul f n s
  | .lanePermute f n => Sys2Proof.Machine.execLanePermute f n s
  | .broadcast f n => Sys2Proof.Machine.execBroadcast f n s
  | .tileShape f n => Sys2Proof.Machine.execTileShape f n s
  | .tileLoad f n => Sys2Proof.Machine.execTileLoad f n s
  | .tileStore f n => Sys2Proof.Machine.execTileStore f n s
  | .tileSave f n => Sys2Proof.Machine.execTileSave f n s
  | .tileRestore f n => Sys2Proof.Machine.execTileRestore f n s
  | .rsum f n => Sys2Proof.Machine.execRsum f n s
  | .rmax f n => Sys2Proof.Machine.execRmax f n s
  | .rmin f n => Sys2Proof.Machine.execRmin f n s
  | .rargmax f n => Sys2Proof.Machine.execRargmax f n s
  | .moments f n => Sys2Proof.Machine.execMoments f n s
  | .layernorm f n => Sys2Proof.Machine.execLayernorm f n s
  | .rmsnorm f n => Sys2Proof.Machine.execRmsnorm f n s
  | .func f n => Sys2Proof.Machine.execFunc f n s
  | .softmaxStep f n => Sys2Proof.Machine.execSoftmaxStep f n s
  | .softmaxCorrect f n => Sys2Proof.Machine.execSoftmaxCorrect f n s
  | .convert f n => Sys2Proof.Machine.execConvert f n s
  | .packInt4 f n => Sys2Proof.Machine.execPackInt4 f n s
  | .unpackInt4 f n => Sys2Proof.Machine.execUnpackInt4 f n s
  | .fixToRes f n => Sys2Proof.Machine.execFixToRes f n s
  | .resToFix f n => Sys2Proof.Machine.execResToFix f n s
  | .gather f n => Sys2Proof.Machine.execGather f n s
  | .scatter f n => Sys2Proof.Machine.execScatter f n s
  | .scatterAdd f n => Sys2Proof.Machine.execScatterAdd f n s
  | .ntt f n => Sys2Proof.Machine.execNtt f n s
  | .intt f n => Sys2Proof.Machine.execIntt f n s
  | .padd f n => Sys2Proof.Machine.execPadd f n s
  | .psub f n => Sys2Proof.Machine.execPsub f n s
  | .pmul f n => Sys2Proof.Machine.execPmul f n s
  | .pmulPlain f n => Sys2Proof.Machine.execPmulPlain f n s
  | .pneg f n => Sys2Proof.Machine.execPneg f n s
  | .tensor f n => Sys2Proof.Machine.execTensor f n s
  | .rescale f n => Sys2Proof.Machine.execRescale f n s
  | .modraise f n => Sys2Proof.Machine.execModraise f n s
  | .baseconvP f n => Sys2Proof.Machine.execBaseconvP f n s
  | .moddrop f n => Sys2Proof.Machine.execModdrop f n s
  | .keyswitch f n => Sys2Proof.Machine.execKeyswitch f n s
  | .relin f n => Sys2Proof.Machine.execRelin f n s
  | .rotate f n => Sys2Proof.Machine.execRotate f n s
  | .conj f n => Sys2Proof.Machine.execConj f n s
  | .hoistDecomp f n => Sys2Proof.Machine.execHoistDecomp f n s
  | .hoistRotate f n => Sys2Proof.Machine.execHoistRotate f n s
  | .automorph f n => Sys2Proof.Machine.execAutomorph f n s
  | .sampleExtract f n => Sys2Proof.Machine.execSampleExtract f n s
  | .lweKeyswitch f n => Sys2Proof.Machine.execLweKeyswitch f n s
  | .blindRotate f n => Sys2Proof.Machine.execBlindRotate f n s
  | .repack f n => Sys2Proof.Machine.execRepack f n s
  | .maskedExport f n => Sys2Proof.Machine.execMaskedExport f n s
  | .maskedImport f n => Sys2Proof.Machine.execMaskedImport f n s
  | .shareSplit f n => Sys2Proof.Machine.execShareSplit f n s
  | .beaverMul f n => Sys2Proof.Machine.execBeaverMul f n s
  | .shareOpen f n => Sys2Proof.Machine.execShareOpen f n s
  | .randError f n => Sys2Proof.Machine.execRandError f n s
  | .randUniform f n => Sys2Proof.Machine.execRandUniform f n s
  | .flood f n => Sys2Proof.Machine.execFlood f n s
  | .mask f n => Sys2Proof.Machine.execMask f n s
  | .send f n => Sys2Proof.Machine.execSend f n s
  | .recv f n => Sys2Proof.Machine.execRecv f n s
  | .reduceScatter f n => Sys2Proof.Machine.execReduceScatter f n s
  | .allGather f n => Sys2Proof.Machine.execAllGather f n s
  | .allReduce f n => Sys2Proof.Machine.execAllReduce f n s
  | .bcast f n => Sys2Proof.Machine.execBcast f n s
  | .teeArm f n => Sys2Proof.Machine.execTeeArm f n s
  | .teeApply f n => Sys2Proof.Machine.execTeeApply f n s
  | .epochSnapshot f n => Sys2Proof.Machine.execEpochSnapshot f n s
  | .epochRestore f n => Sys2Proof.Machine.execEpochRestore f n s
  | .gemmaFill f n => Sys2Proof.Machine.execGemmaFill f n s
  | .standinMarkCommit f n => Sys2Proof.Machine.execStandinMarkCommit f n s
  | .standinMarkBoundary f n => Sys2Proof.Machine.execStandinMarkBoundary f n s
  | .selftest f n fails => Sys2Proof.Machine.execSelftest f n fails s
  | .scrubRange f n => Sys2Proof.Machine.execScrubRange f n s
  | .logMark f n => Sys2Proof.Machine.execLogMark f n s

end Sys2Proof.Machine
end

