-- ==== Sys2Proof/Machine/Tick.lean ====
section
/-! DEFINITION. What passes when no command waits: one counter beat (R39). -/

namespace Sys2Proof.Machine
open Sys2Proof

/-- One counter beat passes (DESIGN CHOICE, log entry 3). -/
def tick (s : State) : State := advanceTo s (beat s + 1)

end Sys2Proof.Machine
end

