-- ==== Sys2Proof/Safety.lean ====
section
/-! DEFINITION. What holds of every state that the block can be in: equal registers, memories and tiles are equal
data. -/

namespace Sys2Proof.Machine
open Sys2Proof

/-- The sparse contents of a state are in their canonical form: registers, memory and tile bytes list strictly rising
keys and nothing that equals what an unlisted key reads as; the sets of poisoned lines, poisoned granules and full lines
list each member once, in rising order. -/
structure State.Canonical (s : State) : Prop where
  regs : mwf regReset s.regs = true
  mem : mwf memDefault s.mem = true
  tiles : mwf memDefault s.tiles = true
  matPoison : swf s.matPoison = true
  towPoison : swf s.towPoison = true
  full : swf s.full = true

end Sys2Proof.Machine
end

