-- ==== Sys2Proof/Certificates/Slice0/Obligations.lean ====
section
/-! DEFINITION. The statements for the provers. Each says what a command or the machine does by the numbered rules of the
manual; the words they are written in come first. -/

namespace Sys2Proof.Claims
open Sys2Proof.Machine

/-! ### What a command does -/

/-- The command answers the next state `t`, the waiting commands being those of `s`. -/
def Does (c : Instr) (s t : State) : Prop := exec c s = .next { t with pending := s.pending }

/-- The register values of `s` with those of a list put in their place: the first entry of an offset counts. -/
def after (s : State) (l : List (Nat × Word)) (o : Nat) : Word :=
  match l with
  | [] => reg s o
  | (a, v) :: t => if o = a then v else after s t o

/-- In `t` the listed registers hold the listed values and every other register what it holds in `s`. -/
def Regs (s t : State) (l : List (Nat × Word)) : Prop := ∀ o, reg t o = after s l o

/-- The command answers a next state in which the listed registers hold the listed values; every other register and
everything else in the state is as it was. -/
def Sets (c : Instr) (s : State) (l : List (Nat × Word)) : Prop :=
  ∃ t, Does c s t ∧ Regs s t l ∧ t = { s with regs := t.regs }

/-- The command answers a next state in which one event has been logged, and does nothing else. -/
def Logs (c : Instr) (s : State) (e : LogEntry) : Prop := Does c s (logEntry s e)

/-- The command answers a next state that is the present one. -/
def Idles (c : Instr) (s : State) : Prop := Does c s s

/-- An event of a queue's register: the region's sequencer is the source, and the payload names the queue and the
register (R434, R438). -/
def queueEvent (s : State) (code r q o : Nat) : LogEntry :=
  { beat := beat s, code := code, cls := 1, idx := srcUnit r 0, seqv := false, queue := 0, lost := false, coal := 0, seqno := 0,
    pay := payDefault 0 q (absReg o) }

/-- An event with no frond, of a source class and index. -/
def event (s : State) (code cls idx pay : Nat) : LogEntry :=
  { beat := beat s, code := code, cls := cls, idx := idx, seqv := false, queue := 0, lost := false, coal := 0, seqno := 0, pay := pay }

/-- The masters whose register writes have their effect: the management core, sequencers and stream units at any time, a
host after READY, and before it in the registers that R479 names. -/
def Served (s : State) (m : Master) (o : Nat) : Prop :=
  (∀ p, m ≠ .pcie p) ∨ isReady s = true ∨ earlyWritable o = true

/-- Every byte of memory and of the tiles reads in `t` as in `s`. -/
def SameMemory (s t : State) : Prop :=
  (∀ k, memGet t k = memGet s k) ∧ ∀ k, mget memDefault t.tiles k = mget memDefault s.tiles k

end Sys2Proof.Claims

open Sys2Proof Sys2Proof.Machine Sys2Proof.Claims

/-! ### The machine -/

/-- A step takes the command at the front of the queue and has its effect on the state with the rest of the queue. -/
def Obligations.StepRunsTheFrontCommand : Prop :=
  ∀ (c : Instr) (s : State), step { s with pending := c :: s.pending } = exec c s

/-- With no command waiting a step is one counter beat (DESIGN CHOICE, log entry 3): BEAT.COUNT is one more, STRETCH_BT
counts the beat when it is no work beat, and nothing else changes. -/
def Obligations.AnEmptyQueueIsOneBeat : Prop :=
  ∀ s : State, s.Canonical → s.pending = [] → beat s + 1 < 2 ^ 64 →
    ∃ t, step s = .next t ∧ t = { s with regs := t.regs } ∧
      Regs s t [(rBeatCount, BitVec.ofNat 64 (beat s + 1)),
        (rStretchBt, if isWorkAt (level s) (beat s + 1) then reg s rStretchBt
          else BitVec.ofNat 64 (satAdd 64 (reg s rStretchBt).toNat 1))]

/-- No command touches the commands that wait. -/
def Sys2Proof.Claims.CommandsLeaveTheQueueAlone : Prop :=
  ∀ (c : Instr) (s t : State), exec c s = .next t → t.pending = s.pending

namespace Sys2Proof.Claims
/-- The state after `n` steps; nothing once a step has stopped. -/
def stepsFrom : Nat → State → Option State
  | 0, s => some s
  | n + 1, s =>
    match step s with
    | .next t => stepsFrom n t
    | _ => none
end Sys2Proof.Claims

/-- The queue is first in, first out: after `n` steps the commands that wait are those that stood behind the first `n`,
in the same order. -/
def Sys2Proof.Claims.TheQueueIsFirstInFirstOutSteps : Prop :=
  ∀ (n : Nat) (s t : State), stepsFrom n s = some t → t.pending = s.pending.drop n

/-- No command touches the commands that wait, and the queue is first in, first out. -/
def Obligations.TheQueueIsFirstInFirstOut : Prop :=
  Claims.CommandsLeaveTheQueueAlone ∧
  Claims.TheQueueIsFirstInFirstOutSteps

/-- Every step keeps the canonical form of registers, memory, tiles, poison and full lines, from every state that has
it. -/
def Obligations.EveryStepKeepsTheCanonicalForm : Prop :=
  ∀ s t : State, s.Canonical → step s = .next t → t.Canonical

/-- The canonical form holds right after reset. -/
def Sys2Proof.Claims.ResetIsCanonical : Prop := State.reset.Canonical

/-- Commands stop the machine in one way alone: a command outside the operand ranges of its row is a fault, and every
other command answers a next state, in every state. -/
def Obligations.OnlyIllFormedCommandsStop : Prop :=
  ∀ (c : Instr) (s : State),
    (wellFormed c = true → ∃ t, exec c s = .next t) ∧ (wellFormed c = false → exec c s = .fault .illFormedCommand)

/-- No command but the edges of PWRGOOD and RESET_N changes the sampled straps, the two pins, or the measurements of
start-up (R508, R509). -/
def Obligations.OnlyResetEdgesChangeTheStraps : Prop :=
  ∀ (c : Instr) (s t : State), exec c s = .next t →
    (∀ e, c ≠ .powerGoodRise e) → c ≠ .powerGoodFall → (∀ e, c ≠ .resetNRise e) → c ≠ .resetNFall →
    t.pins.pwrgood = s.pins.pwrgood ∧ t.pins.resetN = s.pins.resetN ∧ t.pins.testEn = s.pins.testEn ∧
    t.pins.domid = s.pins.domid ∧ t.pins.mbusSel = s.pins.mbusSel ∧ t.start = s.start

/-- A register written as a whole, in one field or in one bit reads back what was written, and every other register,
field and bit what it held. -/
def Sys2Proof.Claims.RegistersReadBack : Prop :=
  ∀ s : State, s.Canonical →
    (∀ o o' v, reg (setReg s o v) o' = if o' = o then v else reg s o') ∧
    (∀ o lo n v, lo + n ≤ 64 → regF (setF s o lo n v) o lo n = v % 2 ^ n) ∧
    (∀ o lo n v lo' n', lo' + n' ≤ 64 → lo' + n' ≤ lo ∨ lo + n ≤ lo' →
      regF (setF s o lo n v) o lo' n' = regF s o lo' n') ∧
    (∀ o i b, i < 64 → regB (setB s o i b) o i = b) ∧
    (∀ o i j b, i < 64 → j < 64 → j ≠ i → regB (setB s o i b) o j = regB s o j) ∧
    (∀ o o' k, reg (bump s o k) o' = if o' = o then BitVec.ofNat 64 (min (2 ^ 64 - 1) ((reg s o).toNat + k)) else reg s o')

/-- A byte stored at a device address is what a read of that address returns, and of every address that names the same
byte; every other address reads as before. A store changes nothing but memory (R29, R30). -/
def Sys2Proof.Claims.MemoryReadsBack : Prop :=
  ∀ (s : State) (a b : Nat) (v : Byte), s.Canonical →
    putByte s a v = { s with mem := (putByte s a v).mem } ∧
    byteAt (putByte s a v) b =
      if memKey s (resolve s b) = memKey s (resolve s a) ∧ (memKey s (resolve s a)).isSome then v else byteAt s b

/-- Registers and memory read back what was written, and nothing beside it changes (R29, R30). -/
def Obligations.RegistersAndMemoryReadBack : Prop :=
  Claims.RegistersReadBack ∧
  Claims.MemoryReadsBack

namespace Sys2Proof.Claims
/-- The commands that store to no byte of memory or of a tile: register writes, events of the sensors, rails, links and
cells, aborts and preemption, the starts of PKE commands, and what the host ports, semaphores, mailboxes and the
configuration store do. -/
def storesNothing : Instr → Bool
  | .perstAssert _ | .railOutOfTolerance _ | .vmgmtLoss | .sysrefLockTimeout | .refLoss | .thermalThrottle _ _
  | .hotClear _ _ | .thermtrip _ _ | .voltageLoopTick _ _ | .powerEstimate _ | .beatStretch _ _ | .beatUnstretch _
  | .heartbeatSend | .qtailWrite _ _ _ _ | .queueEnableWrite _ _ _ _ | .queueRestart _ _ _ | .queueCfgWrite _ _ _ _ _
  | .tokenWrite _ _ _ | .frondDecode _ | .abortSingle _ _ _ _ | .abortThrough _ _ _ _ | .abortQueue _ _ _ _
  | .preemptDrain _ _ _ | .preemptSuspend _ _ _ | .preemptResume _ _ _ | .preemptDone _ _ | .tileSuspendDiscard _
  | .cellReplay _ _ _ | .cellFault _ _ _ | .sequencerParity _ | .blockFault _ | .bridgeReplay _ | .periParity _
  | .sporeExpanderReplay _ _ | .handoffAccessGrant _ | .handoffTimeout _ | .circAccessGrant _ | .circTimeout _
  | .matModeWrite _ _ _ | .hoffCfgWrite _ _ _ _ | .circCfgWrite _ _ _ _ | .circPointerWrite _ _ _ _ _
  | .pclassWrite _ _ _ _ | .chcfgWrite _ _ _ _ | .runAhead _ _ _ | .refresh _ _ _ | .dramTempSample _ _
  | .rfshModeWrite _ _ _ | .towerQuiesced _ | .marginDone _ _ | .poisonOpQuery _ _ _ | .poisonOpSet _ _ _
  | .poisonOpClear _ _ _ | .ksetGo _ _ _ | .ksetRegistered _ _ | .ksetClear _ _ _ | .ksetBaseWrite _ _ _ _
  | .entropyHealthFail _ _ | .entropyRecovered | .rngRetry _ _ | .drbgReseed _ | .shake256 _ _ | .ed448Verify _ _
  | .ed448Sign _ _ | .x448 _ _ | .keygen _ _ | .pubkey _ _ | .kdf _ _ | .mac _ _ | .clear _ _ | .attest _ _
  | .logRdSelWrite _ _ | .logTailWrite _ _ | .drainTailWrite _ _ | .maintDone _ _ _ | .linkEnableWrite _ _ _
  | .crcFailure _ _ | .collTimeout _ | .teeFail _ _ | .aliasCommit _ _ _ | .groupWrite _ _ _ _ | .armWrite _ _
  | .cfgPartnerAbsent | .unprotected _ | .selfFenced | .gemmaClaim | .gemmaFillDone | .hostBarRead _ _ _ _
  | .atsTranslationCompletion _ _ _ | .atsInvalidation _ _ _ | .pageResponse _ _ _ | .pageReqTimeout _ _
  | .hostCplErr _ _ | .pcieLinkDown _ | .pcieLinkUp _ _ _ | .pcieConfigWrite _ _ _ | .semAcquire _ _
  | .semRelease _ _ | .mboxDataWrite _ _ _ _ | .mboxSend _ _ | .mboxClear _ _ | .nvcfgRead _ _ | .nvcfgProgram _ _
  | .nvcfgErase _ _ | .nvcfgDone _ | .wdtKick _ | .fwWatchdog | .fwTrap _ | .mctpMessage _ | .pwrcapWrite _ _
  | .memcfgWrite _ _ | .ndClr _ | .missClr _ | .instantiateUnseeded | .barrier _ _ => true
  | _ => false
end Sys2Proof.Claims

/-- These commands leave every byte of memory and of the tiles as it was. -/
def Obligations.CommandsThatStoreNothing : Prop :=
  ∀ (c : Instr) (s t : State), storesNothing c = true → exec c s = .next t → SameMemory s t

/-! ### Queues, rings and tokens -/

/-- A tail write takes effect when the queue's source is host software, the tail does not pass QFETCH backwards and at most
512 fronds lie beyond QHEAD; otherwise it is dropped with the event of its case, and nothing else changes. A count at or
past the new tail carries no abort any longer (R74, R77, R92). -/
def Obligations.QueueTailWrite : Prop :=
  ∀ (m : Master) (r : Fin 8) (q : Fin 4) (v : Word32) (s : State), s.Canonical → Served s m (rQtail r q) →
    let ev (code : Nat) := queueEvent s code r q (rQtail r q)
    let far := countDiff v.toNat (regF s (rQhead r q) 0 32)
    let back := countDiff v.toNat (regF s (rQfetch r q) 0 32)
    (regB s (rQctrl r q) 1 = true → Logs (.qtailWrite m r q v) s (ev 0x1034)) ∧
    (regB s (rQctrl r q) 1 = false → back < 0 → Logs (.qtailWrite m r q v) s (ev 0x1035)) ∧
    (regB s (rQctrl r q) 1 = false → 0 ≤ back → 512 < far → Logs (.qtailWrite m r q v) s (ev 0x1031)) ∧
    (regB s (rQctrl r q) 1 = false → 0 ≤ back → far ≤ 512 →
      ∃ t, Does (.qtailWrite m r q v) s t ∧ Regs s t [(rQtail r q, putFld (reg s (rQtail r q)) 0 32 v.toNat)] ∧
        t = { s with regs := t.regs, aborts := t.aborts, lastTail := t.lastTail } ∧
        (∀ x, x ∈ t.aborts ↔ x ∈ s.aborts ∧ ¬(x.1 = r ∧ x.2.1 = q ∧ 0 ≤ countDiff x.2.2 v.toNat)))

/-- A write of CRTAIL, with no release held for room, stores the value, or the nearer limit when it lies outside
[CRTAIL, CRHEAD] (R77); ENABLE of a queue whose source is the ring, or that starts no image, is stored; a ring base is
stored while the queue is idle, and LOG2 within 6 to 16; a write to a queue that is not idle is dropped as busy (R77,
R100). -/
def Sys2Proof.Claims.QueueRegisterWrites : Prop :=
  ∀ (m : Master) (r : Fin 8) (q : Fin 4) (s : State), s.Canonical →
    (∀ v : Word32, Served s m (rCrtail r q) →
      (∀ g ∈ s.fronds, ¬(g.region = r ∧ g.queue = q ∧ g.phase = .finished ∧ g.held = true)) →
      let old := regF s (rCrtail r q) 0 32
      let top := regF s (rCrhead r q) 0 32
      Sets (.crtailWrite m r q v) s [(rCrtail r q, putFld (reg s (rCrtail r q)) 0 32
        (if countDiff v.toNat old < 0 then old else if 0 < countDiff v.toNat top then top else v.toNat))]) ∧
    (∀ en, Served s m (rQctrl r q) → en = false ∨ regB s (rQctrl r q) 0 = true ∨ regB s (rQctrl r q) 1 = false →
      Sets (.queueEnableWrite m r q en) s [(rQctrl r q, putBit (reg s (rQctrl r q)) 0 en)]) ∧
    (∀ v, Served s m (rQbase r q) → queueIdle s r q = true →
      Sets (.queueCfgWrite m r q .qbase v) s [(rQbase r q, putFld (reg s (rQbase r q)) 12 28 (fld v 12 28))]) ∧
    (∀ v, Served s m (rCrcfg r q) → queueIdle s r q = true →
      Sets (.queueCfgWrite m r q .crcfg v) s
        [(rCrcfg r q, putFld (reg s (rCrcfg r q)) 0 5 (max 6 (min 16 (fld v 0 5))))]) ∧
    (∀ v, Served s m (rQbase r q) → queueIdle s r q = false →
      Logs (.queueCfgWrite m r q .qbase v) s (queueEvent s 0x1034 r q (rQbase r q))) ∧
    (∀ v, Served s m (rCrcfg r q) → queueIdle s r q = false →
      Logs (.queueCfgWrite m r q .crcfg v) s (queueEvent s 0x1034 r q (rCrcfg r q)))

/-- RESTART of a queue whose source is a program image, with no run in progress: ENABLE is set, the header is read, and the
tail is the fetch count and the image's fronds; a header that is not well formed disables the queue with IMAGE_BAD, and
one that cannot be read with QUEUE_FETCH_BAD or HOST_RING_LOST (R98, R99). -/
def Sys2Proof.Claims.AnImageRestarts : Prop :=
  ∀ (m : Master) (r : Fin 8) (q : Fin 4) (s : State), s.Canonical → Served s m (rQctrl r q) →
    regB s (rQctrl r q) 1 = true → imageRunning s r q = false →
    let on := setB s (rQctrl r q) 0 true
    let off := setB on (rQctrl r q) 0 false
    let a := (reg on (rQbase r q)).toNat
    let h := natAt on a 64
    let b := regF s (rQfetch r q) 0 32
    (fetchable on a 64 = true → imageHeaderOk h = true →
      ∃ t, Does (.queueRestart m r q) s t ∧
        Regs s t [(rQctrl r q, putBit (reg s (rQctrl r q)) 0 true),
          (rQtail r q, putFld (reg s (rQtail r q)) 0 32 (countAdd b (nfld h 64 32)))] ∧
        t = { s with regs := t.regs, images := s.images ++ [⟨r, q, b, nfld h 64 32, nfld h 96 32 - 1⟩] }) ∧
    (fetchable on a 64 = true → imageHeaderOk h = false →
      Does (.queueRestart m r q) s (logEntry off (event s 0x1042 1 (srcUnit r 0) (payDefault 0 0 a)))) ∧
    (fetchable on a 64 = false → (∀ p o, resolve on a ≠ .host p o) →
      Does (.queueRestart m r q) s (logEntry off (event s 0x1037 1 (srcUnit r 0) (payDefault 0 0 a))))

/-- A token counter takes a written value in its low 16 bits (R78, R79, R100). -/
def Sys2Proof.Claims.TokenWrite : Prop :=
  ∀ (m : Master) (t : TokenRef) (v : Word) (s : State), s.Canonical → Served s m (tokenReg t) →
    Sets (.tokenWrite m t v) s [(tokenReg t, putFld (reg s (tokenReg t)) 0 16 (fld v 0 16))]

/-- Writes of the queue registers and of token counters, and the start of a program image (R77–R79, R98–R100). -/
def Obligations.QueueRegistersAndTokens : Prop :=
  Claims.QueueRegisterWrites ∧
  Claims.AnImageRestarts ∧
  Claims.TokenWrite

/-! ### The gate of R479 and the event log -/

namespace Sys2Proof.Claims
/-- The master of a register write and the register it writes, for the commands that are writes of one register. -/
def registerWrite : Instr → Option (Master × Nat)
  | .qtailWrite m r q _ => some (m, rQtail r q)
  | .crtailWrite m r q _ => some (m, rCrtail r q)
  | .queueEnableWrite m r q _ => some (m, rQctrl r q)
  | .queueRestart m r q => some (m, rQctrl r q)
  | .queueCfgWrite m r q k _ => some (m, queueCfgReg r q k)
  | .tokenWrite m t _ => some (m, tokenReg t)
  | .abortSingle m r _ _ => some (m, rAbort r)
  | .abortThrough m r _ _ => some (m, rAbort r)
  | .abortQueue m r _ _ => some (m, rAbort r)
  | .preemptDrain m r _ => some (m, rPreempt r)
  | .preemptSuspend m r _ => some (m, rPreempt r)
  | .preemptResume m r _ => some (m, rPreempt r)
  | .matModeWrite m r _ => some (m, rMat r 0)
  | .hoffCfgWrite m r h _ => some (m, rHoffCfg r h)
  | .circCfgWrite m r k _ => some (m, rCircCfg r k)
  | .circPointerWrite m r k tail _ => some (m, if tail then rCircTail r k else rCircHead r k)
  | .pclassWrite m r k _ => some (m, rPclass r k)
  | .chcfgWrite m r c _ => some (m, rChcfg r c)
  | .rfshModeWrite m t _ => some (m, rTow t 0x10)
  | .quiesceWrite m t _ => some (m, rTow t 0)
  | .marginGo m t _ => some (m, rTow t 0x50)
  | .poisonOpQuery m t _ => some (m, rTow t 0x48)
  | .poisonOpSet m t _ => some (m, rTow t 0x48)
  | .poisonOpClear m t _ => some (m, rTow t 0x48)
  | .ksetGo m r k => some (m, rKsetCtl r k)
  | .ksetClear m r k => some (m, rKsetCtl r k)
  | .ksetBaseWrite m r k _ => some (m, rKsetBase r k)
  | .rngRetry m _ => some (m, rRngCtrl)
  | .shake256 m _ => some (m, rPkeCmd)
  | .ed448Verify m _ => some (m, rPkeCmd)
  | .ed448Sign m _ => some (m, rPkeCmd)
  | .x448 m _ => some (m, rPkeCmd)
  | .keygen m _ => some (m, rPkeCmd)
  | .pubkey m _ => some (m, rPkeCmd)
  | .kdf m _ => some (m, rPkeCmd)
  | .mac m _ => some (m, rPkeCmd)
  | .clear m _ => some (m, rPkeCmd)
  | .attest m _ => some (m, rPkeCmd)
  | .logRdSelWrite m _ => some (m, rLogRdSel)
  | .logTailWrite m _ => some (m, rLogTail)
  | .drainTailWrite m _ => some (m, rDrainTail)
  | .maintReqScrub m _ => some (m, rMaintReq)
  | .maintReqRetrain m _ => some (m, rMaintReq)
  | .maintReqDrain m _ => some (m, rMaintReq)
  | .maintReqThermal m _ => some (m, rMaintReq)
  | .linkEnableWrite m p _ => some (m, rLinkCtrl p)
  | .linkRetrainWrite m p => some (m, rLinkCtrl p)
  | .aliasCommit m k _ => some (m, rAliasF k.toNat)
  | .groupWrite m g b _ => some (m, if b then rGroupB g else rGroupA g)
  | .armWrite m _ => some (m, rFailCtrl)
  | .wdtKick m => some (m, rWdt)
  | .pwrcapWrite m _ => some (m, rPwrcap)
  | .memcfgWrite m _ => some (m, rMemcfg)
  | .ndClr m => some (m, rBeatCtrl)
  | .missClr m => some (m, rBeatCtrl)
  | _ => none

/-- An event that names a master and the address of a register (R434, R438). -/
def masterEvent (s : State) (code : Nat) (m : Master) (o : Nat) : LogEntry :=
  event s code (masterSrc m).1 (masterSrc m).2 (payDefault 0 0 (absReg o))
end Sys2Proof.Claims

/-- Before READY a host's write of a register that R479 does not serve is dropped, with HOST_NOT_READY and nothing else,
whichever command it comes as. -/
def Obligations.HostWritesWaitForReady : Prop :=
  ∀ (c : Instr) (s : State) (p : Fin 2) (o : Nat), registerWrite c = some (.pcie p, o) →
    isReady s = false → earlyWritable o = false → Logs c s (masterEvent s 0x8003 (.pcie p) o)

namespace Sys2Proof.Claims
/-- The keys of entries never fall along a list (R435). -/
def InKeyOrder (l : List LogEntry) : Prop := l.Pairwise (fun a b => keyLt b a = false)
end Sys2Proof.Claims

/-- The hold buffer stays in the key order of R435 whatever event comes; an event that folds into no entry is held while
fewer than 256 wait, and else is dropped and counted, the next entry of the ring being marked (R435, R436). -/
def Sys2Proof.Claims.EventsAreHeldInKeyOrder : Prop :=
  ∀ (s : State) (e : LogEntry),
    (InKeyOrder s.log.hold → InKeyOrder (logEntry s e).log.hold) ∧
    (coalesces e.code = false → s.log.hold.length < 256 →
      (∀ x, x ∈ (logEntry s e).log.hold ↔ x = e ∨ x ∈ s.log.hold) ∧
      logEntry s e = { s with log := { s.log with hold := (logEntry s e).log.hold } }) ∧
    (coalesces e.code = false → 256 ≤ s.log.hold.length →
      logEntry s e = bump32 { s with log := { s.log with lost := true } } rLogDrop 1)

/-- LOG_RING_ENTRY: the first held event enters the ring, no earlier than 64 beats after its own beat and no more than
two on one beat, in the slot of HEAD modulo 8,192; HEAD is one more (R435, R437). Stated where the class raises no
interrupt and no drain falls due. -/
def Sys2Proof.Claims.AnEventEntersTheRing : Prop :=
  ∀ (s : State) (e : LogEntry) (l : List LogEntry), s.Canonical → s.log.hold = e :: l →
    regB s rLogCtrl (e.code / 4096) = false → regB s rLogCtrl 16 = false →
    e.beat + 65 < 2 ^ 64 → s.log.inBeat + 1 < 2 ^ 64 → beat s + 1 < 2 ^ 64 →
    let h := regF s rLogHead 0 32
    let full := countGap (regF s rLogTail 0 32) h == 8192
    ∃ t, Does .logRingEntry s t ∧ t.log.hold = l ∧
      aget t.log.ring (h % 8192) = some { e with lost := full || s.log.lost } ∧
      regF t rLogHead 0 32 = countAdd h 1 ∧
      regF t rLogTail 0 32 = (if full then countAdd (regF s rLogTail 0 32) 1 else regF s rLogTail 0 32) ∧
      e.beat + 64 ≤ beat t ∧ beat s ≤ beat t ∧
      beat t = t.log.inBeat ∧ t.log.inCount ≤ 2 ∧
      t = { s with regs := t.regs, log := t.log }

/-- Events are held in key order and enter the log ring in that order (R435–R437). -/
def Obligations.EventsReachTheRing : Prop :=
  Claims.EventsAreHeldInKeyOrder ∧
  Claims.AnEventEntersTheRing

/-- The log registers: RD_SEL shows the entry of a count that the ring still holds, as its 32 bytes; TAIL is moved within
[TAIL, HEAD]; room in the drain ring ends its stall (R441, R442). -/
def Sys2Proof.Claims.LogRegisterWrites : Prop :=
  ∀ (m : Master) (v : Word) (s : State), s.Canonical →
    (Served s m rLogRdSel → ∃ t, Does (.logRdSelWrite m v) s t ∧ t = { s with regs := t.regs } ∧
      (∀ e, 0 < countGap (fld v 0 32) (regF s rLogHead 0 32) → countGap (fld v 0 32) (regF s rLogHead 0 32) ≤ 8192 →
        aget s.log.ring (fld v 0 32 % 8192) = some e →
        regF t rLogRdSel 0 32 = fld v 0 32 ∧ regB t rLogRdSel 32 = true ∧
        ∀ j < 4, reg t (rLogRd j) = BitVec.ofNat 64 (entryBits e / 2 ^ (64 * j) % 2 ^ 64)) ∧
      (countGap (fld v 0 32) (regF s rLogHead 0 32) = 0 →
        regB t rLogRdSel 32 = false ∧ ∀ j < 4, reg t (rLogRd j) = 0)) ∧
    (Served s m rLogTail →
      let old := regF s rLogTail 0 32
      let top := regF s rLogHead 0 32
      Sets (.logTailWrite m v) s [(rLogTail, putFld (reg s rLogTail) 0 32
        (if countDiff (fld v 0 32) old < 0 then old else if 0 < countDiff (fld v 0 32) top then top else fld v 0 32))]) ∧
    (Served s m rDrainTail → ∃ t, Does (.drainTailWrite m v) s t ∧
      Regs s t [(rDrainTail, putFld (reg s rDrainTail) 0 32 (fld v 0 32))] ∧
      t.log.stalled = (s.log.stalled && drainFull t) ∧
      t = { s with regs := t.regs, log := { s.log with stalled := t.log.stalled } })

/-! ### Aborts and preemption -/

namespace Sys2Proof.Claims
/-- The three abort commands, by their scope. -/
def abortCommand (m : Master) (r : Fin 8) (q : Fin 4) (seq : Word32) : Fin 3 → Instr
  | 0 => .abortSingle m r q seq
  | 1 => .abortThrough m r q seq
  | 2 => .abortQueue m r q seq

/-- ABORT_REQ and ABORT_NOMATCH (R92, R438). -/
def abortEvent (s : State) (code : Nat) (r : Fin 8) (q : Fin 4) (seq : Word32) (scope : Nat) : LogEntry :=
  { beat := beat s, code := code, cls := 1, idx := srcUnit r 0, seqv := true, queue := q, lost := false, coal := 0,
    seqno := seq.toNat, pay := payDefault 0 (scope + 256 * q.val) (absReg (rAbort r)) }
end Sys2Proof.Claims

/-- Which fronds an abort names: the earliest written, unreleased frond with the SEQNO; the queue's head through that
frond; every written frond (R92). -/
def Sys2Proof.Claims.AnAbortNamesItsFronds : Prop :=
  ∀ (s : State) (r : Fin 8) (q : Fin 4) (seq : Nat),
    let all := abortCands s r q
    let has (k : Nat) : Prop := candSeqno s r q k = some seq
    abortSet s r q seq 2 = all ∧
    (abortSet s r q seq 1 = [] ↔ ∀ k ∈ all, ¬has k) ∧
    (abortSet s r q seq 0 = [] ↔ ∀ k ∈ all, ¬has k) ∧
    (∀ l k, abortSet s r q seq 1 = l ++ [k] → has k ∧ (∀ j ∈ l, ¬has j) ∧ (l ++ [k]) <+: all) ∧
    (∀ k, k ∈ abortSet s r q seq 0 ↔ (abortSet s r q seq 1).getLast? = some k)

/-- An abort that names no frond logs ABORT_NOMATCH and nothing else; one that names a frond logs ABORT_REQ, and the frond
carries the abort from then on: an undecoded one until its turn, a decoded one to its acceptance, a committed one to the
status ABORT_LATE alone, one amid a unit group to the group's end, and any other finishes at once (R92, R94). -/
def Sys2Proof.Claims.AbortsFindTheirFronds : Prop :=
  ∀ (m : Master) (r : Fin 8) (q : Fin 4) (seq : Word32) (scope : Fin 3) (s : State), s.Canonical → Served s m (rAbort r) →
    let c := abortCommand m r q seq scope
    let t := logEntry s (abortEvent s 0x1010 r q seq scope)
    (abortSet s r q seq.toNat scope = [] → Logs c s (abortEvent s 0x1011 r q seq scope)) ∧
    (abortSet s r q seq.toNat scope ≠ [] →
      Does c s ((abortSet s r q seq.toNat scope).foldl (fun x k => abortOne x r q k) t)) ∧
    (∀ k, abortSet s r q seq.toNat scope = [k] →
      ((s.fronds.find? (fun f => f.is r q k) = none → Does c s { t with aborts := s.aborts ++ [(r.val, q.val, k)] }) ∧
      ∀ f, s.fronds.find? (fun f => f.is r q k) = some f →
        (f.phase = .decoded → f.skip = none → Does c s (putFrond t { f with abort := true })) ∧
        (f.phase = .decoded → f.skip ≠ none → Does c s (putFrond t { f with late := true })) ∧
        (f.phase ≠ .decoded → committed f = true → Does c s (putFrond t { f with late := true })) ∧
        (f.phase ≠ .decoded → committed f = false → midSpan f = true →
          Does c s (putFrond t { f with abort := true, held := false })) ∧
        (f.phase ≠ .decoded → committed f = false → midSpan f = false → opcodeOf f ≠ 0x004 →
          Does c s (putFrond t { f with abort := true, phase := .finished, ended := beat s, held := false, parked := none,
                                        grants := [], page := none }))))

/-- An abort names its fronds and they carry it (R92–R94). -/
def Obligations.AbortsReachTheirFronds : Prop :=
  Claims.AnAbortNamesItsFronds ∧
  Claims.AbortsFindTheirFronds

/-- Preemption: no more fronds of the queue are accepted; under SUSPEND its STOPPABLE fronds with units left are held where
they stand; RESUME lets them go on with their promise and cause PREEMPT; once every accepted frond is held or
released PSTAT.DONE is set, PREEMPT_DONE logged, and what was decoded and not accepted is undecoded (R96, R97). -/
def Obligations.PreemptionOfAQueue : Prop :=
  ∀ (m : Master) (r : Fin 8) (q : Fin 4) (s : State), s.Canonical →
    let key := r.val * 4 + q.val
    (Served s m (rPreempt r) →
      (∃ t, Does (.preemptDrain m r q) s t ∧ Regs s t [(rPstat r, putBit (reg s (rPstat r)) q true)] ∧
        aget t.suspends key = some (beat s * 2) ∧ t = { s with regs := t.regs, suspends := t.suspends }) ∧
      (∃ t, Does (.preemptSuspend m r q) s t ∧ Regs s t [(rPstat r, putBit (reg s (rPstat r)) q true)] ∧
        aget t.suspends key = some (beat s * 2 + 1) ∧
        t.fronds = s.fronds.map (fun f =>
          if f.region = r.val ∧ f.queue = q.val ∧ holdable f = true then { f with held := true, ended := beat s } else f) ∧
        t = { s with regs := t.regs, suspends := t.suspends, fronds := t.fronds }) ∧
      (∃ t, Does (.preemptResume m r q) s t ∧ Regs s t [(rPstat r, putBit (reg s (rPstat r)) q false)] ∧
        aget t.suspends key = none ∧
        t.fronds = s.fronds.map (fun f =>
          if f.region = r.val ∧ f.queue = q.val ∧ f.phase = .working ∧ f.held = true then resumeFrond s f else f) ∧
        t = { s with regs := t.regs, suspends := t.suspends, fronds := t.fronds })) ∧
    (preemptSettled s r q = true → ∃ t, Does (.preemptDone r q) s t ∧
      regB t (rPstat r) (4 + q.val) = true ∧
      t.fronds = s.fronds.filter (fun f => !(f.region == r.val && f.queue == q.val && f.phase == .decoded)) ∧
      (∀ f ∈ s.fronds, f.region = r.val → f.queue = q.val → f.phase = .decoded → f.abort = true →
        (r.val, q.val, f.idx) ∈ t.aborts) ∧
      regF t (rQhead r q) 0 32 = regF s (rQhead r q) 0 32 ∧
      regF t (rQfetch r q) 0 32 =
        countGap (s.fronds.filter (fun f => f.region == r.val && f.queue == q.val && f.phase == .decoded)).length
          (regF s (rQfetch r q) 0 32) ∧
      t = { s with regs := t.regs, log := t.log, fronds := t.fronds, aborts := t.aborts, suspends := t.suspends }) ∧
    (preemptSettled s r q = false → Idles (.preemptDone r q) s)

/-! ### Mat and stream-unit registers -/

namespace Sys2Proof.Claims
/-- Line `l` of region `r`'s mat lies in the span that a configuration word names. -/
def InSpan (r : Nat) (v : Word) (l : Nat) : Prop :=
  r * 524288 + (cfgSpan v).1 / 64 ≤ l ∧ l < r * 524288 + (cfgSpan v).2 / 64

/-- An event of a region's mat about one of its registers. -/
def matEvent (s : State) (code r o : Nat) : LogEntry := event s code 2 (srcUnit r 0) (payDefault 0 0 (absReg o))
end Sys2Proof.Claims

/-- A change of MODE is dropped while the region has decoded fronds, and else stored; a write that changes nothing does
nothing. A circular region's pointers are written while it is disabled and locked while it is enabled (R153, R155). -/
def Sys2Proof.Claims.MatModeAndPointers : Prop :=
  ∀ (m : Master) (r : Fin 8) (v : Word) (s : State), s.Canonical →
    (Served s m (rMat r 0) →
      (bitOf v 0 = regB s (rMat r 0) 0 → Idles (.matModeWrite m r v) s) ∧
      (bitOf v 0 ≠ regB s (rMat r 0) 0 → decodedCount s r ≠ 0 →
        Logs (.matModeWrite m r v) s (matEvent s 0x2012 r (rMat r 0))) ∧
      (bitOf v 0 ≠ regB s (rMat r 0) 0 → decodedCount s r = 0 →
        Sets (.matModeWrite m r v) s [(rMat r 0, putBit (reg s (rMat r 0)) 0 (bitOf v 0))])) ∧
    (∀ (k : Fin 4) (tail : Bool),
      let o := if tail then rCircTail r k else rCircHead r k
      Served s m o →
      (regB s (rCircCfg r k) 0 = true → Logs (.circPointerWrite m r k tail v) s (masterEvent s 0x2003 m o)) ∧
      (regB s (rCircCfg r k) 0 = false →
        Sets (.circPointerWrite m r k tail v) s [(o, putFld (reg s o) 0 32 (fld v 0 32))]))

/-- A handoff region's configuration: dropped as busy while an accepted frond addresses the region, dropped as bad when
it would enable a region outside the mat or over another one, and else stored; enabling it gives every line INIT_FULL, and
disabling it leaves none of its lines full (R156). -/
def Sys2Proof.Claims.HandoffRegionWrites : Prop :=
  ∀ (m : Master) (r : Fin 8) (h : Fin 16) (v : Word) (s : State), s.Canonical →
    let o := rHoffCfg r h
    let old := reg s o
    let new := hoffBits v
    Served s m o →
    (cfgBusy s r old new = true → Logs (.hoffCfgWrite m r h v) s (matEvent s 0x2012 r o)) ∧
    (cfgBusy s r old new = false → bitOf new 0 = true → spanGood s r o new = false →
      Logs (.hoffCfgWrite m r h v) s (matEvent s 0x2011 r o)) ∧
    (cfgBusy s r old new = false → (bitOf new 0 = true → spanGood s r o new = true) →
      ∃ t, Does (.hoffCfgWrite m r h v) s t ∧ Regs s t [(o, new)] ∧
        t = { s with regs := t.regs, full := t.full, freeCtr := t.freeCtr } ∧
        (bitOf old 0 = false → bitOf new 0 = true →
          ∀ l, (InSpan r new l → (l ∈ t.full ↔ bitOf new 1 = true)) ∧ (¬InSpan r new l → (l ∈ t.full ↔ l ∈ s.full))) ∧
        (bitOf old 0 = true → bitOf new 0 = false → ∀ l, l ∈ t.full ↔ l ∈ s.full ∧ ¬InSpan r old l) ∧
        (bitOf old 0 = false → bitOf new 0 = false → t.full = s.full))

/-- A circular region's configuration is dropped as busy or as bad in the same cases, and else stored. A channel's
configuration is dropped while it serves an accepted frond and when it would raise its class over the cap (R154, R156, R188). -/
def Sys2Proof.Claims.CircularAndChannelWrites : Prop :=
  ∀ (m : Master) (r : Fin 8) (v : Word) (s : State), s.Canonical →
    (∀ k : Fin 4,
      let o := rCircCfg r k
      let new := circBits v
      Served s m o →
      (cfgBusy s r (reg s o) new = true → Logs (.circCfgWrite m r k v) s (matEvent s 0x2012 r o)) ∧
      (cfgBusy s r (reg s o) new = false → bitOf new 0 = true → spanGood s r o new = false →
        Logs (.circCfgWrite m r k v) s (matEvent s 0x2011 r o)) ∧
      (cfgBusy s r (reg s o) new = false → (bitOf new 0 = true → spanGood s r o new = true) →
        Sets (.circCfgWrite m r k v) s [(o, new)])) ∧
    (∀ c : Fin 32,
      let o := rChcfg r c
      let ev (code : Nat) := event s code 8 (srcUnit r 0) (payDefault 0 0 (absReg o))
      let t := setReg s o (v &&& 0xFF07)
      Served s m o →
      (channelBusy s r c = true → Logs (.chcfgWrite m r c v) s (ev 0x2041)) ∧
      (channelBusy s r c = false → (∃ k < 4, allotCap k < allotSum t k ∧ allotSum s k < allotSum t k) →
        Logs (.chcfgWrite m r c v) s (ev 0x2040)) ∧
      (channelBusy s r c = false → (∀ k < 4, allotSum t k ≤ allotCap k ∨ allotSum t k ≤ allotSum s k) →
        Sets (.chcfgWrite m r c v) s [(o, v &&& 0xFF07)]))

/-- A page's class is changed where the written code is not the reserved one, whatever else the write holds; bytes keep
their contents, and only lines of a page whose class changes can become poisoned (R159, R160). -/
def Sys2Proof.Claims.PageClassWrites : Prop :=
  ∀ (m : Master) (r : Fin 8) (k : Fin 16) (v : Word) (s : State), s.Canonical → Served s m (rPclass r k) →
    ∃ t, Does (.pclassWrite m r k v) s t ∧
      (∀ j < 32, regF t (rPclass r k) (2 * j) 2 =
        if fld v (2 * j) 2 = 3 then regF s (rPclass r k) (2 * j) 2 else fld v (2 * j) 2) ∧
      t.mem = s.mem ∧ t.tiles = s.tiles ∧ t.fronds = s.fronds ∧
      (∀ l, l ∈ t.matPoison → l ∈ s.matPoison ∨ ∃ j < 32, fld v (2 * j) 2 ≠ 3 ∧
        fld v (2 * j) 2 ≠ regF s (rPclass r k) (2 * j) 2 ∧
        (r * 512 + 32 * k.val + j) * 1024 ≤ l ∧ l < (r * 512 + 32 * k.val + j + 1) * 1024) ∧
      ∀ l, l ∈ s.matPoison → l ∈ t.matPoison

/-- Writes of the mats' and streams' configuration. -/
def Obligations.MatAndStreamRegisterWrites : Prop :=
  Claims.MatModeAndPointers ∧
  Claims.HandoffRegionWrites ∧
  Claims.CircularAndChannelWrites ∧
  Claims.PageClassWrites

/-! ### Errors in the datapath -/

namespace Sys2Proof.Claims
/-- An event that names a unit of a frond's region and the frond (R434). -/
def unitEvent (s : State) (f : Frond) (code cls idx pay : Nat) : LogEntry :=
  { beat := beat s, code := code, cls := cls, idx := idx, seqv := true, queue := f.queue, lost := false, coal := 0,
    seqno := seqnoOf f, pay := pay }

/-- A frond after a replay in a unit: it will complete DONE_RECOMPUTED, and the replay of the granule is remembered; a
second replay of the repetition is a cause of missing its promise. -/
def replayed (f : Frond) (e cell : Nat) : Frond :=
  { f with recomputed := true, replays := f.replays ++ [(e, cell, unitNo f)],
           causes := if replayedInRep f then f.causes ++ [2] else f.causes }

/-- A frond that has stopped with a status. -/
def stopped (s : State) (f : Frond) (st : Status) : Frond :=
  { f with skip := worse f.skip st, phase := .finished, ended := beat s, held := false, parked := none, grants := [],
           page := none }

/-- The replay counters of a unit with cells and of the module, each one more. -/
def replayCounts (s : State) (e : Nat) : State :=
  match replayReg e with
  | some o => bump (countNd s rNdRetry 1) o 1
  | none => countNd s rNdRetry 1
end Sys2Proof.Claims

/-- A first detection in a granule replays it: NDCOUNT, ND_RETRY and the unit's replay counter are one more, CELL_REPLAY is
logged, and the frond is marked recomputed. A spore expander does the same, and so does the peristome network with its own
event (R254, R270, R429). -/
def Sys2Proof.Claims.ADetectionReplays : Prop :=
  ∀ (x : FrondRef) (f : Frond) (s : State), findFrond s x = some f → f.phase = .working → f.noWork = false →
    (∀ (u : UnitSel) (cell : Fin 8) (e : Nat), (cellUnits f)[u.val]? = some e →
      Does (.cellReplay x u cell) s (putFrond (logEntry (replayCounts s e) (unitEvent (replayCounts s e) f 0x1070 (unitClass e)
        (srcIndex (e / 64) (unitIndex e) cell) (cellPay (replayCounts s e) f e))) (replayed f e cell))) ∧
    (∀ cell : Fin 8, f.engines.contains (f.region * 64 + 16) = true →
      let e := f.region * 64 + 60
      Does (.sporeExpanderReplay x cell) s (putFrond (logEntry (replayCounts s e) (unitEvent (replayCounts s e) f 0x1070 (unitClass e)
        (srcIndex (e / 64) (unitIndex e) cell) (cellPay (replayCounts s e) f e))) (replayed f e cell))) ∧
    (opcodeOf f ≠ 0xE00 → f.engines.contains (f.region * 64 + 14) = true →
      let e := f.region * 64 + 14
      let t := bump (logEntry s (unitEvent s f 0x1064 6 (srcUnit f.region 0) (payDefault (opcodeOf f) 0 0))) (rPeri f.region 0x18) 1
      (f.replays.contains (e, 0xF, unitNo f) = false →
        Does (.periParity x) s (putFrond (countNd t rNdRetry 1) (replayed f e 0xF))) ∧
      (f.replays.contains (e, 0xF, unitNo f) = true →
        Does (.periParity x) s (putFrond (unpend t f) (stopped t f .fault))))

/-- A second detection in the replay of a granule is a cell fault, and one in the copy engine a block fault: the event is
logged and the frond is released FAULT. Cell faults of one logical cell that reach CELL_LIMIT within the window fault the
region (R429, R430). -/
def Sys2Proof.Claims.ASecondDetectionFaults : Prop :=
  ∀ (x : FrondRef) (f : Frond) (s : State), findFrond s x = some f → f.phase = .working → f.noWork = false →
    (∀ (u : UnitSel) (cell : Fin 8) (e : Nat), (cellUnits f)[u.val]? = some e →
      f.replays.contains (e, cell.val, unitNo f) = true →
      let a := logEntry s (unitEvent s f 0x1071 (unitClass e) (srcIndex (e / 64) (unitIndex e) cell) (cellPay s f e))
      let t := putFrond (unpend a f) (stopped a f .fault)
      let near := t.maint.cellFaults.filter (fun y => decide (beat t < y.2.2.2.2 + windowBeats t) || beat t == y.2.2.2.2)
      let all := near ++ [(e / 64, unitClass e, unitIndex e, cell.val, beat t)]
      let n := (all.filter (fun y =>
        y.1 == e / 64 && y.2.1 == unitClass e && y.2.2.1 == unitIndex e && y.2.2.2.1 == cell.val)).length
      let counted := { t with maint := { t.maint with cellFaults := all } }
      (n < max 1 (regF t rEscCtrl 8 4) → Does (.cellFault x u cell) s counted) ∧
      (max 1 (regF t rEscCtrl 8 4) ≤ n → Does (.cellFault x u cell) s (regionFault counted (e / 64) 0x71))) ∧
    (opcodeOf f ≠ 0xE00 → f.engines.contains (f.region * 64 + 15) = true →
      let a := logEntry s (unitEvent s f 0x1072 7 (srcUnit f.region 0) (payDefault (opcodeOf f) 0 0))
      Does (.blockFault x) s (putFrond (unpend a f) (stopped a f .fault)))

/-- A detection replays; a second one is a fault. -/
def Obligations.DetectionsReplayThenFault : Prop :=
  Claims.ADetectionReplays ∧
  Claims.ASecondDetectionFaults

/-- A parity error of a region's sequencer faults the region: REGION_FAULT is logged and every frond in flight completes
FAULT. An unarmed module with isolation on goes on without the region, whose decoded fronds are released FAULT from the
fourth beat on; else the module faults: MODULE_FAULT is logged, FAULT_N asserted, and every frond in flight completes
FAULT (R430–R432). -/
def Sys2Proof.Claims.RegionsAndTheModuleFault : Prop :=
  ∀ (r : Fin 8) (s : State), s.Canonical →
    let a := logEntry { s with maint := { s.maint with faultedRegions := s.maint.faultedRegions ++ [r.val] } }
      (event s 0x1073 1 (srcUnit r 0) (payDefault 0 0 0))
    let t := stopInFlight a (· == r.val)
    let iso : State := { t with maint := { t.maint with isolated := t.maint.isolated ++ [r.val] } }
    let b := logEntry t (event t 0x4062 0 0 (payDefault 0 0x73 0))
    (s.maint.faultedRegions.contains r.val = true → Idles (.sequencerParity r) s) ∧
    (s.maint.faultedRegions.contains r.val = false →
      (regB t rFailCtrl 0 = false → regB t rEscCtrl 0 = true →
        ∃ u, Does (.sequencerParity r) s u ∧ u = { iso with fronds := u.fronds } ∧
          u.fronds = iso.fronds.map (fun f => if f.region = r.val ∧ f.phase = .decoded then
            { f with skip := worse f.skip .fault, noWork := true, phase := .finished, acc := beat iso, prom := beat iso + 4,
                     ended := beat iso } else f)) ∧
      (regB t rEscCtrl 0 = false → regB t rFailCtrl 0 = false → t.maint.moduleFault = false →
        Does (.sequencerParity r) s (stopInFlight
          { b with maint := { b.maint with moduleFault := true }, pins := { b.pins with faultN := true } } (fun _ => true))) ∧
      (t.maint.moduleFault = true → regB t rEscCtrl 0 = false → Does (.sequencerParity r) s t))

/-- What a stop does: the fronds at work in the regions concerned are released FAULT, or with what the order of R84 puts
first; no frond is lost and no byte of memory changes (R431, R432). -/
def Sys2Proof.Claims.AStopEndsTheFrondsInFlight : Prop :=
  ∀ (s : State) (here : Nat → Bool), s.fronds.Pairwise (fun f g => ¬(f.region = g.region ∧ f.queue = g.queue ∧ f.idx = g.idx)) →
    (∀ f ∈ (stopInFlight s here).fronds, here f.region = true → f.phase ≠ .working) ∧
    (∀ f ∈ s.fronds, f.phase = .working → here f.region = true →
      ∃ g ∈ (stopInFlight s here).fronds, g.is f.region f.queue f.idx = true ∧ g.phase = .finished ∧
        g.skip = worse f.skip .fault ∧ g.held = false) ∧
    (stopInFlight s here).fronds.length = s.fronds.length ∧
    (stopInFlight s here).mem = s.mem ∧ (stopInFlight s here).tiles = s.tiles

/-- A replay on a die's half of the bridge counts as a retry; the eighth in a row of one transfer logs BRIDGE_FAIL and
faults the module (R18, R430; that replays of one transfer follow each other within 16 beats is the model's choice, log
entry 13). -/
def Sys2Proof.Claims.BridgeReplays : Prop :=
  ∀ (d : Fin 2) (s : State),
    let last := agetN s.maint.bridgeRow (d.val + 2)
    let run := agetN s.maint.bridgeRow d.val
    let n := if 0 < run ∧ beat s ≤ last + 16 then run + 1 else 1
    let t := countNd { s with fronds := s.fronds.map (fun f =>
      if atWork f && (List.range 4).any (fun j => !(slotOf f j).empty && crosses s f.region (slotOf f j) f.rep) then
        { f with bridges := f.bridges + 1, causes := if 1 ≤ f.bridges then f.causes ++ [3] else f.causes }
      else f) } rNdRetry 1
    let u := { t with maint := { t.maint with bridgeRow := aset (aset t.maint.bridgeRow d.val n) (d.val + 2) (beat t) } }
    (n ≠ 8 → Does (.bridgeReplay d) s u) ∧
    (n = 8 → Does (.bridgeReplay d) s (moduleFault (logEntry u (event u 0x2050 0x12 (srcUnit d 0) (payDefault 0 0 0))) 0x50))

/-- Faults of regions and of the module, and replays of the bridge. -/
def Obligations.FaultsStopRegions : Prop :=
  Claims.RegionsAndTheModuleFault ∧
  Claims.AStopEndsTheFrondsInFlight ∧
  Claims.BridgeReplays

/-! ### Towers -/

namespace Sys2Proof.Claims
/-- An event of a tower's controller, and one about a register of a tower's block. -/
def towerEvent (s : State) (code t : Nat) : LogEntry := event s code 9 (srcUnit t 0) (payDefault 0 0 0)
def towerRegEvent (s : State) (code t o : Nat) : LogEntry := event s code 9 (srcUnit t 0) (payDefault 0 0 (absReg (rTow t o)))
end Sys2Proof.Claims

/-- A refresh moves the beat to its own; each working frond that it delays counts in RFSH_HIT, and a second one of a
repetition, or one of all banks, is a cause of missing its promise; its bytes stay as they are (R173, R174). -/
def Sys2Proof.Claims.RefreshesDelayFronds : Prop :=
  ∀ (t : Fin 8) (b : Word) (s : State), s.Canonical →
    Does (.refresh t b []) s (advanceTo s b.toNat) ∧
    ∀ (x : FrondRef) (f : Frond), findFrond s x = some f →
      (f.phase ≠ .working → Does (.refresh t b [x]) s (advanceTo s b.toNat)) ∧
      (f.phase = .working → ∃ u, Does (.refresh t b [x]) s u ∧
        (reg u (rTow t 0x18)).toNat = min (2 ^ 64 - 1) ((reg s (rTow t 0x18)).toNat + 1) ∧
        u.fronds = (putFrond s { f with
          refreshes := f.refreshes + 1,
          causes := if regF s (rTow t 0x10) 0 2 = 2 ∨ 1 ≤ f.refreshes then f.causes ++ [1] else f.causes }).fronds ∧
        u = { s with regs := u.regs, fronds := u.fronds })

/-- The refresh rate: in AUTO a sample of 85 °C doubles it and one below 80 °C halves it again, FIXED_2X doubles it at
once, and each change is logged; ALLBANK with fronds decoded, and the reserved code, are dropped (R174; that AUTO keeps the
rate in force until a sample changes it is the model's reading, log entry 17). -/
def Sys2Proof.Claims.RefreshRate : Prop :=
  ∀ (m : Master) (t : Fin 8) (s : State), s.Canonical →
    let two (x : State) (b : Bool) : State := setF (setB x (rTow t 8) 2 b) (rTow t 0x10) 16 16 (if b then 2432 else 4864)
    (∀ temp : BitVec 8,
      let a := setF s (rTow t 8) 8 8 temp.toNat
      let auto := regF s (rTow t 0x10) 0 2 = 0
      (¬auto ∨ (80 ≤ temp.toNat ∧ temp.toNat < 85) ∨ (85 ≤ temp.toNat ∧ regB s (rTow t 8) 2 = true) ∨
          (temp.toNat < 80 ∧ regB s (rTow t 8) 2 = false) → Does (.dramTempSample t temp) s a) ∧
      (auto → 85 ≤ temp.toNat → regB s (rTow t 8) 2 = false →
        Does (.dramTempSample t temp) s (logEntry (two a true) (towerEvent (two a true) 0x2034 t))) ∧
      (auto → temp.toNat < 80 → regB s (rTow t 8) 2 = true →
        Does (.dramTempSample t temp) s (logEntry (two a false) (towerEvent (two a false) 0x2034 t)))) ∧
    (∀ v : Word, Served s m (rTow t 0x10) →
      let k := fld v 0 2
      let a := setF s (rTow t 0x10) 0 2 k
      (k = 3 ∨ (k = 2 ∧ s.fronds ≠ []) → Logs (.rfshModeWrite m t v) s (towerRegEvent s 0x2037 t 0x10)) ∧
      (k = 0 ∨ (k = 2 ∧ s.fronds = []) ∨ (k = 1 ∧ regB s (rTow t 8) 2 = true) → Does (.rfshModeWrite m t v) s a) ∧
      (k = 1 → regB s (rTow t 8) 2 = false →
        Does (.rfshModeWrite m t v) s (logEntry (two a true) (towerEvent (two a true) 0x2034 t))))

/-- Refreshes delay fronds, at a rate that temperature sets. -/
def Obligations.RefreshesAndTheirRate : Prop :=
  Claims.RefreshesDelayFronds ∧
  Claims.RefreshRate

/-- A quiesce begins only when no frond is decoded; the controller reports its idleness; a write of 0 ends the quiesce,
and so do 10 ms, with an event: then held accesses are performed (R176). A margining pass starts on a quiesced tower with
no pass in progress, through the arbiter, and its end records the margins, clears BUSY, sets DONE and reports a pseudo-
channel below the limits (R177–R179). -/
def Obligations.QuiesceAndMargining : Prop :=
  ∀ (m : Master) (t : Fin 8) (v : Word) (s : State), s.Canonical →
    (Served s m (rTow t 0) →
      (bitOf v 0 = regB s (rTow t 0) 0 → Idles (.quiesceWrite m t v) s) ∧
      (bitOf v 0 = true → regB s (rTow t 0) 0 = false → s.fronds ≠ [] →
        Logs (.quiesceWrite m t v) s (towerRegEvent s 0x2037 t 0)) ∧
      (bitOf v 0 = true → regB s (rTow t 0) 0 = false → s.fronds = [] →
        ∃ u, Does (.quiesceWrite m t v) s u ∧ Regs s u [(rTow t 0, putBit (reg s (rTow t 0)) 0 true)] ∧
          aget u.quiesced t = some (beat s) ∧ u = { s with regs := u.regs, quiesced := u.quiesced }) ∧
      (bitOf v 0 = false → regB s (rTow t 0) 0 = true → s.heldAccess = [] →
        ∃ u, Does (.quiesceWrite m t v) s u ∧ Regs s u [(rTow t 0, putBit (reg s (rTow t 0)) 0 false),
            (rTow t 8, putBit (reg s (rTow t 8)) 1 false)] ∧
          aget u.quiesced t = none ∧ u = { s with regs := u.regs, quiesced := u.quiesced })) ∧
    (regB s (rTow t 0) 0 = true → Sets (.towerQuiesced t) s [(rTow t 8, putBit (reg s (rTow t 8)) 1 true)]) ∧
    (regB s (rTow t 0) 0 = false → Idles (.towerQuiesced t) s) ∧
    (∀ b, aget s.quiesced t = some b → regB s (rTow t 0x50) 3 = false → s.heldAccess = [] →
      ∃ u, Does (.towQuiesceTimeout t) s u ∧ beat u = max (beat s) (b + 12500000) % 2 ^ 64 ∧
        regB u (rTow t 0) 0 = false ∧ regB u (rTow t 8) 1 = false ∧ aget u.quiesced t = none ∧
        u.log = (logEntry (advanceTo s (b + 12500000)) (towerEvent (advanceTo s (b + 12500000)) 0x2038 t)).log ∧
        u = { s with regs := u.regs, quiesced := u.quiesced, log := u.log }) ∧
    (aget s.quiesced t = none → Idles (.towQuiesceTimeout t) s) ∧
    (Served s m (rTow t 0x50) →
      let a := setF (if bitOf v 4 then setB s (rTow t 0x50) 4 false else s) (rTow t 0x50) 1 2 (fld v 1 2)
      (regB s (rTow t 8) 1 = false ∨ regB s (rTow t 0x50) 3 = true →
        Does (.marginGo m t v) s (logEntry a (towerRegEvent a 0x2037 t 0x50))) ∧
      (regB s (rTow t 8) 1 = true → regB s (rTow t 0x50) 3 = false →
        Does (.marginGo m t v) s (requestAct a .margin t none))) ∧
    (∀ rec, regB s (rTow t 0x50) 3 = true →
      Does (.marginDone t rec) s (endAct (setB (setB (recordMargins s t (regF s (rTow t 0x50) 1 2) rec) (rTow t 0x50) 3 false)
        (rTow t 0x50) 4 true) .margin t false)) ∧
    (∀ rec, regB s (rTow t 0x50) 3 = false → Idles (.marginDone t rec) s)

/-- POISON_OP: the granule's bit is set, cleared or left, RESULT shows it as it then stands, and every other granule keeps
its bit; a granule past the tower's last one is left alone and RESULT is 0 (R170, R179). -/
def Obligations.PoisonOperations : Prop :=
  ∀ (m : Master) (t : Fin 8) (g : BitVec 24) (s : State), s.Canonical → Served s m (rTow t 0x48) →
    let key := t.val * 2 ^ 24 + g.toNat
    let out (c : Instr) (b : Bool) : Prop := ∃ u, Does c s u ∧
      regF u (rTow t 0x48) 0 24 = g.toNat ∧ regB u (rTow t 0x48) 26 = b ∧
      (∀ k, k ∈ u.towPoison ↔ if k = key ∧ g.toNat < granules then b = true else k ∈ s.towPoison) ∧
      u = { s with regs := u.regs, towPoison := u.towPoison }
    (g.toNat < granules →
      out (.poisonOpQuery m t g) (decide (key ∈ s.towPoison)) ∧ out (.poisonOpSet m t g) true ∧ out (.poisonOpClear m t g) false) ∧
    (granules ≤ g.toNat →
      out (.poisonOpQuery m t g) false ∧ out (.poisonOpSet m t g) false ∧ out (.poisonOpClear m t g) false)

/-! ### Key sets -/

/-- KSETk_CTL.GO on a slot that is neither pending nor valid makes it pending, on another it is busy. The registration
runs the checks of R250 in order: the first that fails leaves its number in ERR, and a set that passes is VALID with its entry
count, its fingerprint and its size, and logs KSET_REGISTERED (R246–R250). -/
def Sys2Proof.Claims.KeySetsAreRegistered : Prop :=
  ∀ (m : Master) (r : Fin 8) (k : Fin 16) (s : State), s.Canonical →
    let o := rKsetCtl r k
    let ev (x : State) (code reason : Nat) := event x code 6 (srcUnit r 0) (payDefault 0 reason (absReg o))
    (Served s m o →
      (regB s o 3 = true ∨ regB s o 2 = true → Logs (.ksetGo m r k) s (ev s 0x1062 0)) ∧
      (regB s o 3 = false → regB s o 2 = false → Sets (.ksetGo m r k) s [(o, putBit (reg s o) 3 true)])) ∧
    (regB s o 3 = false → Idles (.ksetRegistered r k) s) ∧
    (regB s o 3 = true →
      let a := ksetBase s r k
      let h := ksHeader (bytesAt s a 128)
      let t := noteSpan s a (if localTo s r a 128 then 128 + 64 * min 1024 h.entries else 0)
      let bad := setF (setB t o 3 false) o 4 4 (ksetCheck t r a)
      (ksetCheck t r a ≠ 0 → Does (.ksetRegistered r k) s (logEntry bad (ev bad 0x1061 (ksetCheck t r a)))) ∧
      (ksetCheck t r a = 0 → ∃ u, Does (.ksetRegistered r k) s u ∧
        regB u o 2 = true ∧ regB u o 3 = false ∧ regF u o 4 4 = 0 ∧ regF u o 8 11 = h.entries % 2 ^ 11 ∧
        (reg u (rKsetFp r k)).toNat = fingerprint t a h.entries % 2 ^ 64 ∧ (reg u (rKsetSize r k)).toNat = h.pages % 2 ^ 64 ∧
        u.mem = s.mem ∧ u.tiles = s.tiles ∧ u.fronds = s.fronds))

/-- CLEAR removes a registration unless an accepted frond of the region names the set; the base is written only while the
slot is neither pending nor valid (R252). -/
def Sys2Proof.Claims.KeySetsAreCleared : Prop :=
  ∀ (m : Master) (r : Fin 8) (k : Fin 16) (s : State), s.Canonical →
    let o := rKsetCtl r k
    let busy := s.fronds.any (fun f => f.region == r.val && namesKeySet f (ksetBase s r k))
    (Served s m o →
      (busy = true → Logs (.ksetClear m r k) s (event s 0x1062 6 (srcUnit r 0) (payDefault 0 0 (absReg o)))) ∧
      (busy = false → ∃ t, Does (.ksetClear m r k) s t ∧ regB t o 2 = false ∧ regB t o 3 = false ∧ regF t o 4 4 = 0 ∧
        regF t o 8 11 = 0 ∧ reg t (rKsetFp r k) = 0 ∧ reg t (rKsetSize r k) = 0 ∧
        (∀ x, x ≠ o → x ≠ rKsetFp r k → x ≠ rKsetSize r k → reg t x = reg s x) ∧ t = { s with regs := t.regs })) ∧
    (∀ v, Served s m (rKsetBase r k) →
      (regB s o 3 = true ∨ regB s o 2 = true →
        Logs (.ksetBaseWrite m r k v) s (event s 0x1062 6 (srcUnit r 0) (payDefault 0 0 (absReg (rKsetBase r k))))) ∧
      (regB s o 3 = false → regB s o 2 = false →
        Sets (.ksetBaseWrite m r k v) s [(rKsetBase r k, putFld (reg s (rKsetBase r k)) 12 28 (fld v 12 28))]))

/-- Key sets are registered and cleared. -/
def Obligations.KeySetsComeAndGo : Prop :=
  Claims.KeySetsAreRegistered ∧
  Claims.KeySetsAreCleared

/-! ### Random numbers -/

namespace Sys2Proof.Claims
def rngEvent (s : State) (code : Nat) : LogEntry := event s code 0x10 (srcUnit 0 0) (payDefault 0 0 0)
end Sys2Proof.Claims

/-- The entropy source: a failed continuous test counts, is logged and takes the source out of service, three failures in a
row latch it; a passed rerun puts it back; RETRY clears a latch and runs the start-up test again. A latched source takes no
part, and a source that is not latched ignores RETRY (R302, R303). -/
def Sys2Proof.Claims.TheEntropySource : Prop :=
  ∀ (s : State), s.Canonical →
    (∀ apt rerun, regB s rRngStat 1 = true → Idles (.entropyHealthFail apt rerun) s) ∧
    (∀ apt rerun, regB s rRngStat 1 = false → ∃ t, Does (.entropyHealthFail apt rerun) s t ∧
      (reg t (if apt then rRngApt else rRngRct)).toNat =
        min (2 ^ 64 - 1) ((reg s (if apt then rRngApt else rRngRct)).toNat + 1) ∧
      (rerun = true → regF s rRngStat 4 4 < 2 → regB t rRngStat 0 = true ∧ regF t rRngStat 4 4 = 0) ∧
      (2 ≤ regF s rRngStat 4 4 → regB t rRngStat 0 = false ∧ regB t rRngStat 1 = true) ∧
      (rerun = false → regB t rRngStat 0 = false ∧ regB t rRngStat 1 = decide (1 ≤ regF s rRngStat 4 4)) ∧
      t = { s with regs := t.regs, log := t.log, rng := t.rng }) ∧
    (regB s rRngStat 1 = true ∨ regB s rRngStat 0 = true → Idles .entropyRecovered s) ∧
    (regB s rRngStat 1 = false → regB s rRngStat 0 = false →
      Does .entropyRecovered s (seedAll (sourceGood (logEntry s (rngEvent s 0x5021))) false)) ∧
    (∀ m pass, Served s m rRngCtrl →
      (regB s rRngStat 1 = false → Idles (.rngRetry m pass) s) ∧
      (regB s rRngStat 1 = true →
        Does (.rngRetry m true) s (seedAll (sourceGood (setF (setB s rRngStat 1 false) rRngStat 4 4 0)) false) ∧
        ∃ t, Does (.rngRetry m false) s t ∧ regB t rRngStat 0 = false ∧ regB t rRngStat 1 = false ∧ regF t rRngStat 4 4 = 1))

/-- The DRBG instances: an instance due for a reseed takes a new key from its old one and 64 pool bytes, and its requests
start again; INSTANTIATE_UNSEEDED of a healthy source goes through the instances in turn and does nothing otherwise
(R301, R302). -/
def Sys2Proof.Claims.DrbgsAreSeeded : Prop :=
  ∀ (s : State), s.Canonical →
    (∀ i : Fin 9,
      let a := fillPool s
      let d := drbgOf a i
      let pool := (List.range 64).map (fun j => Config.entropyByte (a.rng.drawn + j))
      (d.seeded = true → 2 ^ 19 ≤ d.reqs → 64 ≤ a.rng.pool → s.rng.inst.length = 9 →
        ∃ t, Does (.drbgReseed i) s t ∧
          drbgOf t i = { d with key := shake256 ([0x04] ++ d.key ++ pool) 64, reqs := 0 } ∧
          (∀ j, j ≠ i.val → drbgOf t j = drbgOf s j) ∧
          t.rng.drawn = a.rng.drawn + 64 ∧ t.rng.pool = a.rng.pool - 64 ∧
          (reg t rRngReseed).toNat = min (2 ^ 64 - 1) ((reg s rRngReseed).toNat + 1) ∧
          t = { s with regs := t.regs, rng := t.rng }) ∧
      (d.seeded = false ∨ d.reqs < 2 ^ 19 ∨ a.rng.pool < 64 → Does (.drbgReseed i) s a)) ∧
    (rngHealthy s = true → Does .instantiateUnseeded s (seedAll s true)) ∧
    (rngHealthy s = false → Idles .instantiateUnseeded s)

/-- The entropy source and the DRBG instances. -/
def Obligations.RandomnessIsKeptHealthy : Prop :=
  Claims.TheEntropySource ∧
  Claims.DrbgsAreSeeded

/-! ### The public-key engine -/

namespace Sys2Proof.Claims
/-- The ten commands that PKE.CMD starts, by their code. -/
def pkeCommand (m : Master) (v : Word) : Fin 10 → Instr
  | 0 => .shake256 m v | 1 => .ed448Verify m v | 2 => .ed448Sign m v | 3 => .x448 m v | 4 => .keygen m v
  | 5 => .pubkey m v | 6 => .kdf m v | 7 => .mac m v | 8 => .clear m v | 9 => .attest m v
end Sys2Proof.Claims

/-- A write of PKE.CMD while a command runs is dropped with PKE_BUSY; else the command starts: PKE.CMD holds its fields
with the command's code, BUSY is set, and the outcome over the operands as they stand waits for the command's end (R465, R472). -/
def Obligations.PkeCommandsStart : Prop :=
  ∀ (m : Master) (v : Word) (n : Fin 10) (s : State), s.Canonical → Served s m rPkeCmd →
    let op := n.val + 1
    let a := setReg s rPkeCmd (putFld (v &&& 0x3F3F03F0) 4 4 op)
    let r := pkeCompute a op
    (regB s rPkeStat 0 = true →
      Logs (pkeCommand m v n) s (event s 0x5032 0x0F (srcUnit 0 0) (payDefault 0 0 (absReg rPkeCmd)))) ∧
    (regB s rPkeStat 0 = false → ∃ t, Does (pkeCommand m v n) s t ∧
      t.sec.job = some (op, r.1.status) ∧ t.sec.jobOut = r.1.out ∧ t.sec.started = beat t ∧ regB t rPkeStat 0 = true ∧
      regF t rPkeCmd 4 4 = op ∧ t.mem = s.mem ∧ t.sec.keys = s.sec.keys)

/-- What the hash command computes: with its operands in range and unpoisoned, the output is SHAKE256 of the source
bytes, of the length asked for. CLEAR of a slot that is not the identity's empties it (R465, R466). -/
def Sys2Proof.Claims.PkeResults : Prop :=
  ∀ (s : State), s.Canonical →
    (pkeArg s 1 < 2 ^ 32 → 1 ≤ pkeArg s 3 → pkeArg s 3 ≤ 4096 → spanOk s (pkeAddr s 0) (pkeArg s 1) = true →
      spanOk s (pkeAddr s 2) (pkeArg s 3) = true → windowOk s (pkeAddr s 0) = true →
      (pkeRead s (pkeAddr s 0) (pkeArg s 1)).2.1 = false →
      (pkeCompute s 1).1 = ⟨0, [(pkeAddr s 2, shake256 (bytesAt (noteSpan s (pkeAddr s 0) (pkeArg s 1)) (pkeAddr s 0) (pkeArg s 1))
        (pkeArg s 3))], [], []⟩) ∧
    (pkeArg s 3 = 0 → (pkeCompute s 1).1 = ⟨0x30, [], [], []⟩) ∧
    (2 ≤ cmdSlot s → (pkeCompute s 9).1 = ⟨0, [], [], [cmdSlot s]⟩) ∧
    (cmdSlot s < 2 → (pkeCompute s 9).1 = ⟨0x22, [], [], []⟩)

/-- The end of a command: with none running nothing happens; a failed one stores its status, counts as rejected, logs and
writes no output; every end clears BUSY, sets DONE and counts (R466, R467). -/
def Sys2Proof.Claims.PkeCommandsEnd : Prop :=
  ∀ (b : Word32) (s : State), s.Canonical →
    (s.sec.job = none → Idles (.pkeComplete b) s) ∧
    (∀ op st, s.sec.job = some (op, st) → st < 256 → ∃ t, Does (.pkeComplete b) s t ∧
      t.sec.job = none ∧ regB t rPkeStat 0 = false ∧ regB t rPkeStat 1 = true ∧
      (reg t rPkeOpCnt).toNat = min (2 ^ 64 - 1) ((reg s rPkeOpCnt).toNat + 1) ∧
      (st ≠ 0 → regF t rPkeStat 8 8 = st ∧ t.mem = s.mem ∧ t.sec.keys = s.sec.keys ∧
        (reg t rPkeRejCnt).toNat = min (2 ^ 64 - 1) ((reg s rPkeRejCnt).toNat + 1)) ∧
      (st = 0 → reg t rPkeRejCnt = reg s rPkeRejCnt))

/-- The results of PKE commands, and their end. -/
def Obligations.PkeCommandsEndWithTheirResults : Prop :=
  Claims.PkeResults ∧
  Claims.PkeCommandsEnd

/-! ### The maintenance arbiter -/

namespace Sys2Proof.Claims
def maintEvent (s : State) (code pay : Nat) : LogEntry := event s code 0x11 (srcUnit 0 0) pay
end Sys2Proof.Claims

/-- Which requests the registers, the timers and LINKn.CTRL make; a scope that names no tower, port or die is ignored
(R443, R446, R447, R455). -/
def Sys2Proof.Claims.MaintenanceIsRequested : Prop :=
  ∀ (m : Master) (k : BitVec 8) (s : State),
    (Served s m rMaintReq →
      (k.toNat < 8 → Does (.maintReqScrub m k) s (requestAct s .scrub k.toNat none)) ∧
      (8 ≤ k.toNat → Idles (.maintReqScrub m k) s) ∧
      (k.toNat < 16 → Does (.maintReqRetrain m k) s (requestAct s .retrain k.toNat none)) ∧
      (16 ≤ k.toNat → Idles (.maintReqRetrain m k) s) ∧
      Does (.maintReqDrain m k) s (requestAct s .drain 0 none) ∧
      (k.toNat < 2 → Does (.maintReqThermal m k) s (requestAct s .thermal k.toNat none)) ∧
      (2 ≤ k.toNat → Idles (.maintReqThermal m k) s)) ∧
    (∀ p : Fin 16, Served s m (rLinkCtrl p) → Does (.linkRetrainWrite m p) s (requestAct s .retrain p none)) ∧
    (∀ d : Fin 2, Does (.thermalRecalibration d) s (requestAct s .thermal d none)) ∧
    (∀ t : Fin 8, regB s rScrubCfg 16 = true → Does (.scrubStep t) s (requestAct s .scrub t none)) ∧
    (∀ t : Fin 8, regB s rScrubCfg 16 = false → Idles (.scrubStep t) s)

/-- The arbiter: a request that conflicts with nothing running starts; one that conflicts is queued with MAINT_QUEUED, or
joins its like; the queued request that MAINT_START takes is the first of those free to run; MAINT_DONE ends a running
activity that no frond carries, after THERM_RECAL for a thermal one (R444, R445, R447). -/
def Sys2Proof.Claims.TheArbiterOrdersActivities : Prop :=
  ∀ (s : State),
    (∀ act scope fr,
      let q : MaintReq := { act := act, scope := scope, order := s.maint.order, frond := fr }
      let a : State := { s with maint := { s.maint with order := s.maint.order + 1 } }
      ((∀ x ∈ s.maint.running, conflicts a q x = false) → requestAct s act scope fr = maintStat (startAct a q)) ∧
      (∀ b, s.maint.running.find? (fun x => conflicts a q x) = some b →
        ((∃ x ∈ s.maint.queued, x.act = act ∧ x.scope = scope) → requestAct s act scope fr = maintStat a) ∧
        ((∀ x ∈ s.maint.queued, ¬(x.act = act ∧ x.scope = scope)) →
          let w : State := { a with maint := { a.maint with queued := s.maint.queued ++ [q] } }
          requestAct s act scope fr = maintStat (logEntry w
            (maintEvent w 0x6003 (actCode act + scopeIdx q * 256 + actCode b.act <<< 16 + scopeIdx b <<< 24)))))) ∧
    ((∀ q ∈ s.maint.queued, ∃ x ∈ s.maint.running, conflicts s q x = true) → Idles .maintStart s) ∧
    ((∃ q ∈ s.maint.queued, ∀ x ∈ s.maint.running, conflicts s q x = false) →
      ∃ q ∈ s.maint.queued, (∀ x ∈ s.maint.running, conflicts s q x = false) ∧
        (∀ y ∈ s.maint.queued, (∀ x ∈ s.maint.running, conflicts s y x = false) → before y q = false) ∧
        Does .maintStart s (maintStat (startAct
          { s with maint := { s.maint with queued := s.maint.queued.filter (· != q) } } q))) ∧
    (∀ act scope corr,
      (s.maint.running.find? (fun x => x.act == act && x.scope == scope) = none → Idles (.maintDone act scope corr) s) ∧
      (∀ q, s.maint.running.find? (fun x => x.act == act && x.scope == scope) = some q → q.frond = none → act ≠ .margin →
        (act ≠ .thermal → Does (.maintDone act scope corr) s (endAct s act scope false)) ∧
        (act = .thermal → Does (.maintDone act scope corr) s
          (endAct (logEntry s (maintEvent s 0x6040 (scope + corr.toNat <<< 32))) act scope false))))

/-- Maintenance is requested and arbitrated. -/
def Obligations.MaintenanceRuns : Prop :=
  Claims.MaintenanceIsRequested ∧
  Claims.TheArbiterOrdersActivities

/-! ### The beat, voltage, power and heat -/

/-- A stretch drops the level by one down to 4, counts where it leaves level 8, suspends promises still to come, and logs
BEAT_STRETCH; below level 4 the module faults. A raise happens by one step up to 8, HOLD_US after the last change, and logs
BEAT_UNSTRETCH with cause SLACK, while the voltage loop has room and no recalibration runs (R43–R45, R447). -/
def Obligations.StretchLevels : Prop :=
  ∀ (d : Fin 2) (s : State), s.Canonical →
    let k := level s
    (∀ c, 4 < k →
      ∃ t, Does (.beatStretch d c) s t ∧ level t = k - 1 ∧ t.levelBeat = beat s ∧
        regF t rStretch 32 16 = (if k = 8 then min 65535 (regF s rStretch 32 16 + 1) else regF s rStretch 32 16) ∧
        t.fronds = s.fronds.map (fun f => if f.phase ≠ .decoded ∧ beat s + 1 ≤ f.prom then { f with suspended := true } else f) ∧
        t.log = (logEntry s (event s 0x7001 0x13 (srcUnit d 0) (k + (k - 1) * 256 + causeCode c * 65536))).log ∧
        t = { s with regs := t.regs, log := t.log, fronds := t.fronds, levelBeat := t.levelBeat }) ∧
    (∀ c, k ≤ 4 → Does (.beatStretch d c) s
      (moduleFault (logEntry s (event s 0x7003 0x13 (srcUnit d 0) (payDefault 0 (causeCode c) 0))) 0x03)) ∧
    (8 ≤ k ∨ thermalRuns s = true ∨ voltageRoom s = false → Idles (.beatUnstretch d) s) ∧
    (k < 8 → thermalRuns s = false → voltageRoom s = true →
      let a := advanceTo s (s.levelBeat + regF s rStretch 16 16 * 1250)
      ∃ t, Does (.beatUnstretch d) s t ∧ level t = k + 1 ∧ t.levelBeat = beat a ∧ beat t = beat a ∧
        t.log = (logEntry a (event a 0x7002 0x13 (srcUnit d 0) (k + (k + 1) * 256 + 65536))).log ∧
        t = { s with regs := t.regs, log := t.log, levelBeat := t.levelBeat })

namespace Sys2Proof.Claims
/-- A rail's request one step up or down, in mV, within 600 to 850; no request stays none. -/
def railStep (up : Bool) (v : Nat) : Nat := if v = 0 then 0 else if up then min 850 (v + 5) else max 600 (v - 5)

/-- SYS.PWRCAP with both requests moved one step. -/
def railsStepped (w : Word) (up : Bool) : Word :=
  putFld (putFld w 32 10 (railStep up (fld w 32 10))) 42 10 (railStep up (fld w 42 10))
end Sys2Proof.Claims

/-- The voltage loop: the slack is stored; the requests of both rails go down while HOT, up when the slack is below RAISE_AT
and no cap is in force, down after a full window of slack, and stay during a recalibration; they never leave 600 to 850 mV.
The power estimate keeps 1 ms of history, and its mean over the cap puts the cap in force and a step down; CAP_W is stored
within 600 to 1,500 W (R42, R447, R511, R513). -/
def Sys2Proof.Claims.VoltageAndPower : Prop :=
  ∀ (s : State), s.Canonical →
    (∀ (slack : BitVec 8) (full : Bool),
      let st := (rStretch, putFld (reg s rStretch) 48 8 slack.toNat)
      let p := reg s rPwrcap
      let c := Instr.voltageLoopTick slack full
      let low := slack.toNat < regF s rStretch 0 6
      (thermalRuns s = true → Sets c s [st]) ∧
      (thermalRuns s = false → regB s rTherm 24 = true → Sets c s [st, (rPwrcap, railsStepped p false)]) ∧
      (thermalRuns s = false → regB s rTherm 24 = false → low → regB s rPwrcap 16 = true → Sets c s [st]) ∧
      (thermalRuns s = false → regB s rTherm 24 = false → low → regB s rPwrcap 16 = false →
        Sets c s [st, (rPwrcap, railsStepped p true)]) ∧
      (thermalRuns s = false → regB s rTherm 24 = false → ¬low → full = true →
        Sets c s [st, (rPwrcap, railsStepped p false)]) ∧
      (thermalRuns s = false → regB s rTherm 24 = false → ¬low → full = false → Sets c s [st])) ∧
    (∀ w : Nat,
      let h := (w :: s.powerHist).take 100
      let above := decide (regF s rPwrcap 0 16 < h.foldl (· + ·) 0 / h.length)
      let p := putBit (reg s rPwrcap) 16 above
      ∃ t, Does (.powerEstimate w) s t ∧ t.powerHist = h ∧ t = { s with regs := t.regs, powerHist := h } ∧
        Regs s t [(rPwrcap, if above && !thermalRuns s then railsStepped p false else p)]) ∧
    (∀ (m : Master) (w : BitVec 16), Served s m rPwrcap →
      Sets (.pwrcapWrite m w) s [(rPwrcap, putFld (reg s rPwrcap) 0 16 (max 600 (min 1500 w.toNat)))])

/-- Heat: a reading is kept, with the highest so far; HOT is set at 103 °C and cleared when both dies read 100 °C or
less; at 115 °C THERMTRIP_N is asserted and latched, BEAT_MARGIN_TRIP logged and the module faults (R513). -/
def Obligations.HeatResponse : Prop :=
  ∀ (d : Fin 2) (x y : BitVec 8) (s : State), s.Canonical →
    let kept (w : Word) (i v : Nat) : Word :=
      putFld (putFld w (8 * i) 8 v) 16 8 (max (fld w 16 8) v)
    let w := reg s rTherm
    let both := kept (kept w 0 x.toNat) 1 y.toNat
    (x.toNat < 103 → Sets (.thermalThrottle d x) s [(rTherm, kept w d x.toNat)]) ∧
    (103 ≤ x.toNat → Sets (.thermalThrottle d x) s [(rTherm, putBit (kept w d x.toNat) 24 true)]) ∧
    (x.toNat ≤ 100 → y.toNat ≤ 100 → Sets (.hotClear x y) s [(rTherm, putBit both 24 false)]) ∧
    (100 < x.toNat ∨ 100 < y.toNat → Sets (.hotClear x y) s [(rTherm, both)]) ∧
    (x.toNat < 115 → exec (.thermtrip d x) s = exec (.thermalThrottle d x) s) ∧
    (115 ≤ x.toNat →
      let a := setReg s rTherm (putBit (putBit (kept w d x.toNat) 24 true) 25 true)
      let b : State := { a with pins := { a.pins with thermtrip := true } }
      Does (.thermtrip d x) s (moduleFault (logEntry b (event b 0x7003 0x13 (srcUnit d 0) (payDefault 0 2 0))) 0x03))

/-- Rails and references: a core rail out of tolerance is a stretch of cause SLACK, the loss of VMGMT loses the log and its
counters, and any other rail leaves the results of the fronds at work unspecified, all with PWRGOOD high; the loss of the
reference clears SYSREF_LOCK and ALIGNED and is logged; a reference that never locks stops start-up with reason 1 (R6, R63,
R493, R494, R508). -/
def Sys2Proof.Claims.RailsAndReferences : Prop :=
  ∀ (s : State), s.Canonical →
    (s.pins.pwrgood = false → ∀ r, Idles (.railOutOfTolerance r) s) ∧
    (s.pins.pwrgood = true →
      exec (.railOutOfTolerance .vcore0) s = exec (.beatStretch 0 .slack) s ∧
      exec (.railOutOfTolerance .vcore1) s = exec (.beatStretch 1 .slack) s ∧
      exec (.railOutOfTolerance .vmgmt) s = exec .vmgmtLoss s ∧
      ∀ r, r ≠ .vcore0 → r ≠ .vcore1 → r ≠ .vmgmt →
        Does (.railOutOfTolerance r) s { s with fronds := s.fronds.map (fun f =>
          if f.phase = .working ∧ f.noWork = false then { f with unspec := true } else f) }) ∧
    (∃ t, Does .vmgmtLoss s t ∧ Regs s t [(rLogHead, 0), (rLogTail, 0), (rLogOver, 0), (rLogDrop, 0)] ∧
      t.log.hold = [] ∧ t.log.ring = [] ∧ t.pins = { s.pins with vmgmtLost := true } ∧
      t = { s with regs := t.regs, log := t.log, pins := t.pins }) ∧
    (regB s rBeatStat 4 = false → Idles .refLoss s) ∧
    (regB s rBeatStat 4 = true → ∃ t, Does .refLoss s t ∧ regB t rBeatStat 4 = false ∧ regB t rBeatStat 5 = false ∧
      level t = level s ∧ beat t = beat s ∧
      t.log = (logEntry s (event s 0x7006 0x13 (srcUnit 0 0) (payDefault 0 0 0))).log ∧
      t = { s with regs := t.regs, log := t.log }) ∧
    (s.start.isSome = true → regF s rBoot 0 4 = 1 → regB s rBeatStat 4 = false → regB s rBoot 4 = false → isReady s = false →
      ∃ t, Does .sysrefLockTimeout s t ∧ regB t rBoot 4 = true ∧ regF t rBoot 8 8 = 1 ∧ t.pins.faultN = true ∧
        beat t = max (beat s) 62500000 ∧ ∀ p < 16, regB t (rLinkStat p) 0 = false) ∧
    (s.start = none ∨ regF s rBoot 0 4 ≠ 1 ∨ regB s rBeatStat 4 = true → Idles .sysrefLockTimeout s)

/-- Voltage, power, rails and references. -/
def Obligations.PowerAndRails : Prop :=
  Claims.VoltageAndPower ∧
  Claims.RailsAndReferences

/-- MEMCFG stores LOCAL_GIB as the next lower multiple of 4, at most 32, and LOCK freezes it: a later write is dropped and
logged (R38). -/
def Obligations.MemoryConfiguration : Prop :=
  ∀ (m : Master) (v : Word) (s : State), s.Canonical → Served s m rMemcfg →
    (regB s rMemcfg 63 = true → Logs (.memcfgWrite m v) s (masterEvent s 0x2003 m rMemcfg)) ∧
    (regB s rMemcfg 63 = false → ∃ t, Does (.memcfgWrite m v) s t ∧ t = { s with regs := t.regs } ∧
      (∀ o, o ≠ rMemcfg → reg t o = reg s o) ∧
      regF t rMemcfg 0 6 = min 32 (fld v 0 6 - fld v 0 6 % 4) ∧ regB t rMemcfg 63 = bitOf v 63 ∧
      regF t rMemcfg 6 57 = regF s rMemcfg 6 57)

/-- ND_CLR clears the six non-determinism counters together, MISS_CLR the count of missed promises; nothing else changes
(R58). -/
def Sys2Proof.Claims.CountersAreCleared : Prop :=
  ∀ (m : Master) (s : State), s.Canonical → Served s m rBeatCtrl →
    Sets (.ndClr m) s [(rNdCount, 0), (rNdRoute, 0), (rNdMutex, 0), (rNdDrbg, 0), (rNdRetry, 0), (rNdPage, 0)] ∧
    Sets (.missClr m) s [(rMissCnt, 0)]

/-- Writes of the log registers and of the counters that clear (R58, R441, R442). -/
def Obligations.LogAndCounterRegisters : Prop :=
  Claims.LogRegisterWrites ∧
  Claims.CountersAreCleared

/-! ### Hosts -/

/-- Translations and pages: a translation is cached and the fronds that wait for its page go on; an absent page is asked
for, with ND_PAGE, or denied where page requests are closed; a denied page, an invalid or failed response and an expired
watchdog end the fronds that wait with HOST_FAULT; an invalidation removes every entry that it meets (R482, R483). -/
def Sys2Proof.Claims.TranslationsAndPages : Prop :=
  ∀ (p : Fin 2) (u : Word) (s : State), s.Canonical →
    (∀ n, let k := max 12 (min 30 n)
      let asked := s.host.pages.any (fun x => x.port == p.val && x.page == pageOf u.toNat)
      ∃ t, Does (.atsTranslationCompletion p u (.page n)) s t ∧ atcHit t p u.toNat = true ∧
        t.fronds = (freePage s p u.toNat k asked).fronds ∧ t = { s with host := t.host, fronds := t.fronds }) ∧
    ((∀ x ∈ s.host.pages, ¬(x.port = p.val ∧ x.page = pageOf u.toNat)) → priOpen s p = false →
      ∃ t, Does (.atsTranslationCompletion p u .absent) s t ∧
        (reg t (rPageDeny p)).toNat = min (2 ^ 64 - 1) ((reg s (rPageDeny p)).toNat + 1) ∧
        (∀ f ∈ t.fronds, f.page ≠ some (p.val, pageOf u.toNat)) ∧ t.mem = s.mem) ∧
    (s.host.pages = [] → priOpen s p = true → 0 < pageLimit s p →
      ∃ t, Does (.atsTranslationCompletion p u .absent) s t ∧
        t.host.pages = [⟨p, pageOf u.toNat, beat s, 1, true⟩] ∧ t.host.out = s.host.out ++ [.pageReq p (pageOf u.toNat)] ∧
        (reg t rNdPage).toNat = min (2 ^ 64 - 1) ((reg s rNdPage).toNat + 1) ∧
        (reg t (rPageReq p)).toNat = min (2 ^ 64 - 1) ((reg s (rPageReq p)).toNat + 1) ∧ t.mem = s.mem) ∧
    (∀ n, 12 ≤ n → n ≤ 64 → ∃ t, Does (.atsInvalidation p u n) s t ∧
      (∀ e, e ∈ t.host.atc ↔ e ∈ s.host.atc ∧ ¬(e.port = p.val ∧ e.base < u.toNat / 2 ^ n * 2 ^ n + 2 ^ n ∧
        u.toNat / 2 ^ n * 2 ^ n < e.base + 2 ^ e.log2)) ∧
      t.host.out = s.host.out ++ [.invDone p u.toNat] ∧ t = { s with host := t.host }) ∧
    (let sent := s.host.pages.find? (fun x => x.port == p.val && x.page == pageOf u.toNat && x.sent);
      (sent = none → (∀ code, Idles (.pageResponse p u code) s) ∧ Idles (.pageReqTimeout p u) s) ∧
      (∀ x, sent = some x →
        (let w : State := { s with host := { s.host with pages := s.host.pages.map (fun y => if y = x then { x with sent := false } else y) } };
          Does (.pageResponse p u .success) s (emit (sendPages w p w.host.pages.length) (.atsReq p (pageOf u.toNat)))) ∧
        Does (.pageResponse p u .invalid) s (denyPage s p u.toNat 0x8004) ∧
        Does (.pageResponse p u .failure) s (denyPage (setPort s p { portOf s p with priStopped := true }) p u.toNat 0x8004) ∧
        (regF s (rPriCfg p) 0 32 = 0 → Idles (.pageReqTimeout p u) s) ∧
        (regF s (rPriCfg p) 0 32 ≠ 0 →
          Does (.pageReqTimeout p u) s (denyPage (advanceTo s (x.since + regF s (rPriCfg p) 0 32)) p u.toNat 0x8005)))) ∧
    (∀ x f, findFrond s x = some f → f.phase = .working → f.noWork = false → hostSource s f = some p.val →
      Does (.hostCplErr x true) s (putFrond s { f with poisoned := true }) ∧
      (let a := logEntry (bump s (rCplErr p) 1) (event (bump s (rCplErr p) 1) 0x8009 0xD (srcUnit p 0) (payDefault 0 0 0));
        Does (.hostCplErr x false) s (putFrond (unpend a f) (stopped a f .hostFault))))

/-- A host port: its loss resets its registers but its counters, drops its translations and page requests, frees its
semaphores and ends the fronds that wait on it; PERST_N does the same and is seen on the pin; its link comes up with the
speed and width found; configuration space is written while the link is up (R476, R477, R481–R483, R486). -/
def Sys2Proof.Claims.HostPorts : Prop :=
  ∀ (p : Fin 2) (s : State), s.Canonical →
    let st := rPcieStat p
    (regB s st 0 = true → ∃ t, Does (.pcieLinkDown p) s t ∧
      (Does (.perstAssert p) s { t with pins :=
        if p = 0 then { t.pins with perst0 := true } else { t.pins with perst1 := true } }) ∧
      (∀ o ∈ [st, rHwin p, rMwin p, rPriCfg p], reg t o = regReset o) ∧
      (∀ o ∈ [rPageReq p, rPageDeny p, rCplErr p, rAtcMiss p], reg t o = reg s o) ∧
      (∀ e ∈ t.host.atc, e.port ≠ p) ∧ (∀ e ∈ t.host.pages, e.port ≠ p) ∧
      (∀ k < 16, regF t (rSem k) 0 2 = if regF s (rSem k) 0 2 = p.val + 1 then 0 else regF s (rSem k) 0 2) ∧
      (∀ f ∈ t.fronds, ∀ a, f.page ≠ some (p.val, a)) ∧ regB t (rMboxCtl (p.val + 1)) 0 = false ∧ t.mem = s.mem) ∧
    (regB s st 0 = false → Idles (.pcieLinkDown p) s) ∧
    (∀ speed width,
      (regB s st 0 = true → Idles (.pcieLinkUp p speed width) s) ∧
      (regB s st 0 = false → ∃ t, Does (.pcieLinkUp p speed width) s t ∧ regB t st 0 = true ∧
        regF t st 1 4 = speed.toNat ∧ regF t st 5 5 = width.toNat ∧ t.mem = s.mem ∧ t.fronds = s.fronds)) ∧
    (∀ k v, regB s st 0 = false → Idles (.pcieConfigWrite p k v) s) ∧
    (∀ v : Word, regB s st 0 = true →
      Sets (.pcieConfigWrite p .busMaster v) s [(st, putBit (reg s st) 12 (bitOf v 0))] ∧
      Sets (.pcieConfigWrite p .ats v) s [(st, putBit (reg s st) 11 (bitOf v 0))] ∧
      (bitOf v 0 = false → Sets (.pcieConfigWrite p .pri v) s [(st, putBit (reg s st) 10 false)]) ∧
      (bitOf v 0 = true → ∃ t, Does (.pcieConfigWrite p .pri v) s t ∧ regB t st 10 = true ∧ (portOf t p).priStopped = false) ∧
      Does (.pcieConfigWrite p .priAlloc v) s (setPort s p { portOf s p with priAlloc := v.toNat % 2 ^ 32 }) ∧
      (∃ t, Does (.pcieConfigWrite p .msixEnable v) s t ∧ (portOf t p).msixEn = bitOf v 0 ∧ t = { s with host := t.host }) ∧
      (∃ t, Does (.pcieConfigWrite p .msixMask v) s t ∧ (portOf t p).msixMask = bitOf v 0 ∧ t = { s with host := t.host }) ∧
      (30 ≤ v.toNat → v.toNat ≤ 39 → ∃ t, Does (.pcieConfigWrite p .barSize v) s t ∧ (portOf t p).barLog2 = v.toNat ∧
        Regs s t [(rMwin p, BitVec.ofNat 64 ((reg s (rMwin p)).toNat % 2 ^ 40 / 2 ^ v.toNat * 2 ^ v.toNat))]) ∧
      (v.toNat < 30 ∨ 39 < v.toNat → Idles (.pcieConfigWrite p .barSize v) s))

/-- The host ports, their translations and their pages. -/
def Obligations.HostPortsAndTranslations : Prop :=
  Claims.TranslationsAndPages ∧
  Claims.HostPorts

/-- Semaphores and mailboxes: a free semaphore goes to the host or firmware that asks, only its owner frees it, and no
other master owns one; a mailbox takes data while it is empty, is filled by a sender with the sender's code, and is emptied
by its recipient (R484, R485). -/
def Sys2Proof.Claims.SemaphoresAndMailboxes : Prop :=
  ∀ (m : Master) (s : State), s.Canonical →
    (∀ k : Fin 16,
      let own := regF s (rSem k) 0 2
      let c := ownerCode m
      (c ≠ 0 → own = 0 → Sets (.semAcquire m k) s [(rSem k, putFld (reg s (rSem k)) 0 2 c)]) ∧
      (c = 0 ∨ own ≠ 0 → Idles (.semAcquire m k) s) ∧
      (c ≠ 0 → own = c → Sets (.semRelease m k) s [(rSem k, putFld (reg s (rSem k)) 0 2 0)]) ∧
      (c = 0 ∨ own ≠ c → Idles (.semRelease m k) s)) ∧
    (∀ (d : Fin 3) (j : Fin 8) (v : Word),
      (regB s (rMboxCtl d) 0 = true → Logs (.mboxDataWrite m d j v) s (masterEvent s 0x8008 m (rMboxD d j))) ∧
      (regB s (rMboxCtl d) 0 = false → Sets (.mboxDataWrite m d j v) s [(rMboxD d j, v)])) ∧
    (∀ (d : Fin 3) (c : Instr), c = .mboxSend m d ∨ c = .mboxClear m d →
      let o := rMboxCtl d
      let full := putFld (putBit (reg s o) 0 true) 4 2 (ownerCode m)
      (ownerCode m = mboxTo d → Sets c s [(o, putBit (reg s o) 0 false)]) ∧
      (ownerCode m ≠ mboxTo d → regB s o 0 = true → Idles c s) ∧
      (ownerCode m ≠ mboxTo d → regB s o 0 = false → ∃ t, Does c s t ∧ reg t o = full ∧
        (d = 0 → Regs s t [(o, full)] ∧ t.host.out = s.host.out ++ [.firmware 0]) ∧
        (d ≠ 0 → regB s (rIrqRoute (d.val - 1) 34) 8 = true → regB t (rIrqPend (d.val - 1)) 34 = true)))

/-- The configuration store: a command of the owner of SEM1, with none running, starts, and sets BUSY; without the owner it
is dropped with NVCFG_BUSY, and in the first 64 KiB a program or an erase with NVCFG_LOCKED. Its end clears BUSY, sets DONE
and the error code; an erase leaves the sector all ones (R492, R496; that value is PRESUMED, log entry 47). -/
def Sys2Proof.Claims.TheConfigurationStore : Prop :=
  ∀ (m : Master) (n : BitVec 9) (s : State), s.Canonical → 1 ≤ n.toNat → n.toNat ≤ 256 →
    let a := (reg s rNvAddr).toNat
    let may := ownerCode m ≠ 0 ∧ regF s (rSem 1) 0 2 = ownerCode m ∧ regB s rNvStat 0 = false ∧
      (isReady s = true ∨ regB s rBoot 4 = true)
    (∀ c : Instr, c = .nvcfgRead m n ∨ c = .nvcfgProgram m n ∨ c = .nvcfgErase m n →
      (¬may → Logs c s (masterEvent s 0x8021 m rNvCmd)) ∧
      (may → a < 0x10000 → c ≠ .nvcfgRead m n → Logs c s (masterEvent s 0x8020 m rNvCmd)) ∧
      (may → 0x10000 ≤ a ∨ c = .nvcfgRead m n → ∃ t op, Does c s t ∧
        op = (if c = .nvcfgRead m n then 1 else if c = .nvcfgProgram m n then 2 else 3) ∧
        t.host = { s.host with nvJob := some (op, a, n.toNat) } ∧
        Regs s t [(rNvCmd, putFld (putFld (reg s rNvCmd) 1 3 op) 16 9 n.toNat), (rNvStat, putBit (reg s rNvStat) 0 true)])) ∧
    (s.host.nvJob = none → ∀ e, Idles (.nvcfgDone e) s) ∧
    (∀ op b k, s.host.nvJob = some (op, b, k) → ∀ e, ∃ t, Does (.nvcfgDone e) s t ∧
      t.host.nvJob = none ∧ regB t rNvStat 0 = false ∧ regB t rNvStat 1 = true ∧
      regF t rNvStat 4 4 = (match e with | .none => 0 | .flash => 1 | .verify => 2) ∧ t.mem = s.mem ∧
      (op = 3 → e = .none → ∀ x, x / 65536 = b / 65536 → flashByte t x = 0xFF))

/-- Firmware and the board: a kick is remembered; an expiry before READY stops start-up with reason 7, and after it counts,
logs FW_RESTART and, within one second of the last one, faults the module; a trap is logged and counts as an expiry;
telemetry and the power cap are served from tower training on (R487, R488, R494, R514). -/
def Sys2Proof.Claims.FirmwareAndTheBoard : Prop :=
  ∀ (s : State), s.Canonical →
    (∀ m, Served s m rWdt → Does (.wdtKick m) s { s with host := { s.host with wdtKick := beat s } }) ∧
    (∀ c : Instr, ∀ a : State,
      (c = .fwWatchdog ∧ a = advanceTo s (s.host.wdtKick + regF s rWdt 16 16 * 1250000)) ∨
      (∃ w : Word, c = .fwTrap w ∧ a = logEntry s (event s 0x8031 0xE (srcUnit 0 0) (payDefault 0 0 w.toNat))) →
      (isReady s = false → Does c s (bootStop a 7)) ∧
      (isReady s = true → (∀ q ∈ s.maint.running, q.act ≠ .fill) →
        (∀ b, s.host.wdtLast = some b → beat a < b + 1250000000 → Does c s (moduleFault a 0x30)) ∧
        ((∀ b, s.host.wdtLast = some b → b + 1250000000 ≤ beat a) → ∃ t, Does c s t ∧
          Regs a t [(rWdt, putFld (reg a rWdt) 32 16 (min 65535 (regF a rWdt 32 16 + 1))), (rLogDrop, reg t rLogDrop)] ∧
          t.host = { s.host with wdtLast := some (beat a), wdtKick := beat a } ∧
          t.log = (logEntry a (event a 0x8030 0xE (srcUnit 0 0) (payDefault 0 0 0))).log ∧
          t = { s with regs := t.regs, host := t.host, log := t.log }))) ∧
    (5 ≤ regF s rBoot 0 4 → Does (.mctpMessage .telemetry) s (emit s (.mctp (telemetry s))) ∧
      ∀ w : BitVec 16, Sets (.mctpMessage (.powerCap w)) s [(rPwrcap, putFld (reg s rPwrcap) 0 16 (max 600 (min 1500 w.toNat)))]) ∧
    (regF s rBoot 0 4 < 5 → ∀ q, Idles (.mctpMessage q) s)

/-- Semaphores, mailboxes, the configuration store, firmware and the board. -/
def Obligations.FirmwareServices : Prop :=
  Claims.SemaphoresAndMailboxes ∧
  Claims.TheConfigurationStore ∧
  Claims.FirmwareAndTheBoard

/-- Register writes by their address: a width or an alignment that R35 does not give logs REG_WIDTH, an offset with no
register REG_UNMAPPED; a task's base or bound takes the written page address; a doorbell is its queue's tail write, the
register BAR and the management core write as REGISTER_WRITE does (R33, R35, R36, R100, R477, R480). -/
def Obligations.RegistersAreWritten : Prop :=
  ∀ (s : State) (o : Nat), s.Canonical → o < 2 ^ 28 →
    let a : BitVec 40 := BitVec.ofNat 40 (absReg o)
    (∀ m n v, Served s m o → 1 ≤ n → n ≤ 64 →
      (widthOk o n = false → Logs (.registerWrite m a n v) s (masterEvent s 0x2002 m o)) ∧
      (widthOk o n = true → rowOf (o / 8 * 8) = none → Logs (.registerWrite m a n v) s (masterEvent s 0x2001 m o))) ∧
    (∀ (m : Master) (v : Word) (r : Fin 8) (t : Fin 16) (k : Fin 4) (b : Fin 2), o = rTask r t k b → Served s m o →
      Sets (.registerWrite m a 8 v) s [(o, (reg s o &&& ~~~0xFFFFFFF000) ||| (v &&& 0xFFFFFFF000))]) ∧
    (∀ (p : Fin 2) (d : List Byte), regB s (rPcieStat p) 0 = true → 1 ≤ d.length → d.length ≤ 64 → o + d.length ≤ 2 ^ 28 →
      exec (.hostBarWrite p .register o d) s = exec (.registerWrite (.pcie p) a d.length (BitVec.ofNat 64 (leNat d))) s) ∧
    (∀ (p : Fin 2) (r : Fin 8) (q : Fin 4) (v : Word32), regB s (rPcieStat p) 0 = true → isReady s = true →
      exec (.hostBarWrite p .doorbell (0x20 * r.val + 8 * q.val) (leBytes 4 v.toNat)) s = exec (.qtailWrite (.pcie p) r q v) s) ∧
    (∀ (d : List Byte), 1 ≤ d.length → d.length ≤ 64 → ∃ t,
      Does (.registerWrite .mgmt a d.length (BitVec.ofNat 64 (leNat d))) s t ∧
      Does (.mgmtCoreAccess true a d 0) s (emit t (.mgmt [] false)))

/-- Reads and writes of memory from outside: after READY a host's read of mapped memory through the memory BAR completes
with the bytes there, poisoned where a line or granule is, and its write stores its bytes; the management core's access does
the same; an access to a quiesced tower waits; before READY the memory BAR answers Unsupported Request; a port that is down
answers nothing (R32, R161, R171, R176, R477, R479). -/
def Obligations.MemoryFromOutside : Prop :=
  ∀ (p : Fin 2) (o n : Nat) (d : List Byte) (s : State), s.Canonical → 1 ≤ n → n ≤ 64 → 1 ≤ d.length → d.length ≤ 64 →
    let a := (reg s (rMwin p)).toNat + o
    let up := regB s (rPcieStat p) 0
    (up = false → ∀ bar, Idles (.hostBarRead p bar o n) s ∧ Idles (.hostBarWrite p bar o d) s) ∧
    (up = true → isReady s = false → o + n ≤ 2 ^ (portOf s p).barLog2 →
      Does (.hostBarRead p .memory o n) s (emit s (.unsupported p))) ∧
    (up = true → isReady s = true → o + n ≤ 2 ^ (portOf s p).barLog2 → (∀ x, resolve s a ≠ .reg x) → quiescedFor s a n = true →
      Does (.hostBarRead p .memory o n) s { s with heldAccess := s.heldAccess ++ [.hostBarRead p .memory a n] }) ∧
    (up = true → isReady s = true → o + n ≤ 2 ^ (portOf s p).barLog2 → (∀ x, resolve s a ≠ .reg x) → quiescedFor s a n = false →
      mapped s a n = true → windowOk s a = true → ∃ t, Does (.hostBarRead p .memory o n) s t ∧
        t.host.out = s.host.out ++ [.cpl p (bytesAt s a n) (poisonedSpan t a n)] ∧ t.mem = s.mem ∧ t.tiles = s.tiles) ∧
    (up = true → isReady s = true → o + d.length ≤ 2 ^ (portOf s p).barLog2 → (∀ x, resolve s a ≠ .reg x) →
      quiescedFor s a d.length = false → mapped s a d.length = true → windowOk s a = true →
      Does (.hostBarWrite p .memory o d) s (externalWrite s a d) ∧ (externalWrite s a d).mem = (putBytes s a d).mem ∧
      (externalWrite s a d).tiles = s.tiles) ∧
    (∀ b : BitVec 40, (∀ x, resolve s b.toNat ≠ .reg x) → quiescedFor s b.toNat n = false → mapped s b.toNat n = true →
      windowOk s b.toNat = true → ∃ t, Does (.mgmtCoreAccess false b [] n) s t ∧
        t.host.out = s.host.out ++ [.mgmt (bytesAt s b.toNat n) (poisonedSpan t b.toNat n)] ∧ t.mem = s.mem) ∧
    (∀ b : BitVec 40, (∀ x, resolve s b.toNat ≠ .reg x) → mapped s b.toNat n = false → quiescedFor s b.toNat n = false →
      let t := logEntry s (event s 0x2001 0xE (srcUnit 0 0) (payDefault 0 0 b.toNat))
      Does (.mgmtCoreAccess false b [] n) s (emit t (.mgmt (List.replicate n 0) true)))

/-! ### Links -/

namespace Sys2Proof.Claims
/-- An event of a link port. -/
def linkEvent (s : State) (code p addr : Nat) : LogEntry := event s code 0x0C (srcUnit p 0) (payDefault 0 0 addr)

/-- What the link itself does with a packet whose LSEQ is the next expected, before the packet is looked at: its ACK,
CREDIT and NAK take effect, the sequence goes on, its credits are owed to the partner, its bytes are counted and an IDLE
acknowledges it (R373–R376). -/
def linkTook (s : State) (p : Nat) (k : Packet) : State :=
  let a := onHeader s p k.hdr k.hdr.nak
  let x := linkPort a p
  let v := k.hdr.vc.toNat
  let b := setLinkPort a p { x with rxSeq := (x.rxSeq + 1) % 4096, owed := x.owed.set v (x.owed.getD v 0 + packetUnits k) }
  sendIdle (bump b (rLinkRx p) k.hdr.len) p

/-- The commands that are the arrival of a packet: its port, the packet, and what a module it is for does with it. -/
def arrival : Instr → Option (Fin 16 × Packet × (State → State))
  | .heartbeat p k err => some (p, k, takeHeartbeat p k err)
  | .data p k => some (p, k, takeData k)
  | .rts p k => some (p, k, takeRts k)
  | .cts p k => some (p, k, takeCts k)
  | .coll p k => some (p, k, fun s => runGhosts (ghostFrom (keepEarly k s) k))
  | .tee p k => some (p, k, takeTee k)
  | .barArrive p k => some (p, k, takeArrive k)
  | .barRelease p k => some (p, k, takeBarRelease k)
  | .maint p k => some (p, k, takeMaint k)
  | .readySync p k => some (p, k, takeSync k)
  | .readyColdDirty p k => some (p, k, takeColdDirty k)
  | .readyDirtyAck p k => some (p, k, takeDirtyAck k)
  | .readyDigest p k => some (p, k, takeDigest k)
  | .lossReceived p k => some (p, k, takeLoss p k)
  | .adoptClaim p k => some (p, k, takeClaim k)
  | .readyAccept p k => some (p, k, takeAccept k)
  | .readyBusy p k => some (p, k, takeBusy k)
  | .adoptCommit p k => some (p, k, takeAdopt p k)
  | .adoptRelease p k => some (p, k, fun s => s)
  | _ => none
end Sys2Proof.Claims

/-- A packet that arrives: a port that is down takes nothing; one with another LSEQ than the next is refused with NAK; one
of a reserved type or on a VC that its type may not use is discarded with LINK_BAD_TYPE; one for this module, and one that
every module takes, has its effect; any other is forwarded (R374, R375, R379). ALIGN is taken the same way, and lets start-up go on. -/
def Sys2Proof.Claims.PacketsArrive : Prop :=
  ∀ (c : Instr) (p : Fin 16) (k : Packet) (f : State → State) (s : State), wellFormed c = true → s.fail.relay = none →
    let t := linkTook s p k
    let here := everyHop k = true ∨ k.hdr.destP.toNat = ownPhys t
    (arrival c = some (p, k, f) →
      (portUp s p = false → Idles c s) ∧
      (portUp s p = true → k.hdr.lseq.toNat ≠ (linkPort s p).rxSeq → Does c s (refusePacket s p)) ∧
      (portUp s p = true → k.hdr.lseq.toNat = (linkPort s p).rxSeq →
        (typeOk k.hdr = false → Does c s (logEntry t (linkEvent t 0x3006 p 0))) ∧
        (typeOk k.hdr = true → here → Does c s (f t)) ∧
        (typeOk k.hdr = true → ¬here → Does c s (routeOut t k (p / 8))))) ∧
    (c = .linkBadType p k → typeOk k.hdr = false → portUp s p = true →
      (k.hdr.lseq.toNat ≠ (linkPort s p).rxSeq → Does c s (refusePacket s p)) ∧
      (k.hdr.lseq.toNat = (linkPort s p).rxSeq → Does c s (logEntry t (linkEvent t 0x3006 p 0)))) ∧
    (c = .align p k →
      (portUp s p = false → Does c s (afterAlign s)) ∧
      (portUp s p = true → k.hdr.lseq.toNat = (linkPort s p).rxSeq → typeOk k.hdr = true →
        Does c s (afterAlign (takeAlign p k t)))) ∧
    (c = .idle p k → (portUp s p = false → Idles c s) ∧ (portUp s p = true → Does c s (onHeader s p k.hdr k.hdr.nak))) ∧
    (c = .linkReplay p k → (portUp s p = false → Idles c s) ∧ (portUp s p = true → Does c s (onHeader s p k.hdr true)))

/-- What the packets of transfers, tees and maintenance do in a module that they are for: a fill's bytes are stored and
acknowledged, an RTS waits for its RECV, a CTS takes from what a tee has outstanding, MAINT goes to firmware, and everything
else waits for the frond that takes it (R374, R388, R390, R410). -/
def Sys2Proof.Claims.PacketsAreKept : Prop :=
  ∀ (k : Packet) (s : State),
    (∀ n, k.body = .rts n → takeRts k s = { s with links := { s.links with rts := s.links.rts ++
      [⟨k.hdr.srcL.toNat, k.hdr.destL.toNat, k.hdr.tag.toNat, n⟩] } }) ∧
    (∀ d, k.body = .bytes d →
      takeData k s = { s with links := { s.links with early := s.links.early ++ [k] } } ∧
      (standinFor s ≠ some k.hdr.destL.toNat →
        takeTee k s = { s with links := { s.links with early := s.links.early ++ [k] } }) ∧
      takeMaint k s = emit { s with links := { s.links with inbox := s.links.inbox ++ [k] } } (.firmware 1)) ∧
    (∀ a d, k.body = .fill a d → failState s ≠ 5 → k.hdr.poison = false →
      takeData k s = reply (putBytes s a d) 3 0 0 k.hdr.srcL.toNat k.hdr.tag.toNat k.hdr.offset.toNat (.cts d.length)) ∧
    (∀ a d, k.body = .fill a d → failState s = 5 → s.fail.claimant ≠ some (physOf s k.hdr.srcL.toNat) → takeData k s = s) ∧
    (∀ n t, k.body = .cts n → t ∈ s.links.tees →
      (∀ x ∈ s.links.tees, x.target = k.hdr.srcL.toNat → x.tag = k.hdr.tag.toNat → 0 < x.pending → x = t) →
      t.target = k.hdr.srcL.toNat → t.tag = k.hdr.tag.toNat → n < t.pending →
      takeCts k s = { s with links := { s.links with tees := s.links.tees.map (fun x => if x = t then { t with pending := t.pending - n } else x) } })

/-- Packets that arrive are taken, or kept for the frond that will. -/
def Obligations.PacketsAreTakenOrKept : Prop :=
  Claims.PacketsArrive ∧
  Claims.PacketsAreKept

/-- Ports: ENABLE is stored, and clearing it takes the port down; training of an enabled port that finds its neighbour
brings it up with its round trip, and a wrong neighbour is a wiring error; a packet with a CRC failure is refused with a NAK
that names the last good LSEQ (R372, R375–R377). Stated after start-up's step 6. -/
def Sys2Proof.Claims.PortsComeUpAndGoDown : Prop :=
  ∀ (m : Master) (p : Fin 16) (s : State), s.Canonical → regF s rBoot 0 4 ≠ 6 →
    (Served s m (rLinkCtrl p) →
      Sets (.linkEnableWrite m p true) s [(rLinkCtrl p, putBit (reg s (rLinkCtrl p)) 0 true)] ∧
      ∃ t, Does (.linkEnableWrite m p false) s t ∧ regB t (rLinkCtrl p) 0 = false ∧ portUp t p = false ∧ t.mem = s.mem) ∧
    (∀ i, mayTrain s p = false → Idles (.linkUp p i) s) ∧
    (∀ i, mayTrain s p = true → i.lanes ≠ 0xFF → ∃ t, Does (.linkUp p i) s t ∧ regF t (rLinkStat p) 8 8 = i.lanes.toNat ∧
      portUp t p = portUp s p ∧ t = { s with regs := t.regs }) ∧
    (∀ i, mayTrain s p = true → i.lanes = 0xFF →
      let near := neighbour s (ownPhys s) (p.val % 8 / 2) (decide (p.val % 2 = 1))
      (i.peerCoord.toNat ≠ near ∨ i.peerPort.toNat ≠ p.val ^^^ 1 → ∃ t, Does (.linkUp p i) s t ∧
        regB t (rLinkStat p) 3 = true ∧ portUp t p = portUp s p ∧
        t.log = (logEntry s (linkEvent s 0x3004 p i.peerCoord.toNat)).log) ∧
      (i.peerCoord.toNat = near → i.peerPort.toNat = p.val ^^^ 1 → i.rtt.toNat ≤ 40000 → ∃ t, Does (.linkUp p i) s t ∧
        portUp t p = true ∧ regB t (rLinkStat p) 1 = true ∧ regF t (rLinkLat p) 0 16 = i.rtt.toNat ∧
        regF t (rLinkPeer p) 0 32 = i.peerCoord.toNat ∧ t.mem = s.mem)) ∧
    (∀ bad, portUp s p = false → Idles (.crcFailure p bad) s) ∧
    (∀ bad, portUp s p = true → fenced s = false → p.val < s.links.ports.length → ∃ t, Does (.crcFailure p bad) s t ∧
      reg t (rLinkCrc p) = (if bad then BitVec.ofNat 64 (min (2 ^ 64 - 1) ((reg s (rLinkCrc p)).toNat + 1)) else reg s (rLinkCrc p)) ∧
      ∃ k, t.links.wire = s.links.wire ++ [(p.val, k)] ∧ k.body = .idle ∧ k.hdr.nak = true ∧ k.hdr.ackv = true ∧
        k.hdr.ack = BitVec.ofNat 12 ((linkPort s p).rxSeq + 4095))

/-- Group entries are written unless an accepted frond names the group; an alias is committed as a whole unless its LOGICAL
already has another valid entry; a transfer or collective whose peer stays silent stops with COLL_TIMEOUT and FAULT, and a
tee without its acknowledgement is disarmed; a heartbeat leaves on every port on the next multiple of 1,000 beats (R381, R383, R389–R392). Stated
for aliases where no frond waits in a barrier. -/
def Sys2Proof.Claims.GroupsAliasesAndTimeouts : Prop :=
  ∀ (m : Master) (s : State), s.Canonical →
    (∀ (g : Fin 64) (b : Bool) (v : Word),
      let o := if b then rGroupB g else rGroupA g
      let busy := regB s (rGroupA g) 16 && s.fronds.any (fun f => namesGroup s f (regF s (rGroupA g) 0 16))
      Served s m o →
      (busy = true → Logs (.groupWrite m g b v) s (linkEvent s 0x3030 0 (absReg o))) ∧
      (busy = false → Sets (.groupWrite m g b v) s [(o, v &&& (if b then 0x3FFFF else 0xFFFFFFFF0001FFFF))])) ∧
    (∀ (i : BitVec 8) (v : Word), Served s m (rAliasF i.toNat) → s.fronds = [] →
      let l := regF s (rAliasL i.toNat) 0 32
      let ph := regF s (rAliasL i.toNat) 32 32
      let dup := bitOf v 0 && s.links.coordAlias.any (fun e => e.1 != i.toNat && e.2.1 == l)
      let at_ := payDefault 0 0 (absReg (rAliasL i.toNat))
      (dup = true → Logs (.aliasCommit m i v) s (event s 0x3013 0 0 at_)) ∧
      (dup = false → ∃ t, Does (.aliasCommit m i v) s t ∧
        (∀ e, e ∈ t.links.coordAlias ↔ (e ∈ s.links.coordAlias ∧ e.1 ≠ i.toNat) ∨
          (bitOf v 0 = true ∧ e = (i.toNat, l, ph, bitOf v 1))) ∧
        reg t (rAliasF i.toNat) = BitVec.ofNat 64 (b2n (bitOf v 0) + 2 * b2n (bitOf v 1)) ∧
        t.log = (logEntry s (event s 0x3012 0 0 at_)).log ∧ t = { s with regs := t.regs, log := t.log, links := t.links })) ∧
    (∀ (x : FrondRef) (f : Frond), findFrond s x = some f → f.phase = .working → f.worked = false → f.wake = none →
      opcodeOf f ∈ [0xC00, 0xC01, 0xC10, 0xC11, 0xC12, 0xC13] →
      let a := logEntry s (unitEvent s f 0x3021 1 (srcUnit f.region 0) (payDefault (opcodeOf f) 0x40 0))
      Does (.collTimeout x) s (putFrond (unpend a f) (stopped a f .fault))) ∧
    (∀ (r : Fin 8) (n : Nat),
      (∀ t, (s.links.tees.filter (fun t => t.region == r.val))[n]? = some t → t.pending ≠ 0 →
        let a : State := { s with links := { s.links with tees := s.links.tees.erase t } }
        Does (.teeFail r n) s (logEntry a (event a 0x3024 1 (srcUnit r 0) (payDefault 0 0 t.lo)))) ∧
      ((s.links.tees.filter (fun t => t.region == r.val))[n]? = none → Idles (.teeFail r n) s)) ∧
    (let a := advanceTo s ((beat s / 1000 + 1) * 1000);
      Does .heartbeatSend s (sendAll { a with freeCtr := a.freeCtr + 1 }
        { hdr := newHdr 0x10 2 32 0 (ownLogical a) 0 0
          body := .heartbeat (BitVec.ofNat 64 (beat a)) (BitVec.ofNat 6 (Config.freeValue s.freeCtr)) (BitVec.ofNat 32 (ownLogical a)) } none))

/-- Link ports, groups, aliases and their timeouts. -/
def Obligations.PortsGroupsAndTheirTimeouts : Prop :=
  Claims.PortsComeUpAndGoDown ∧
  Claims.GroupsAliasesAndTimeouts

/-! ### Surviving failures -/

/-- ARM: a module that protects nothing and has no partner becomes an idle gemma, an unpaired one with a table is
unprotected (the model's choice, log entry 23), and disarming returns to state 0. The partner's SYNC is refused when it comes
from another module, with other table digests or from the same domain or board without OVERRIDE, and else pairs the modules;
none within RECV_WD refuses with reason 1 (R399). -/
def Sys2Proof.Claims.ArmingAndPairing : Prop :=
  ∀ (m : Master) (v : Word) (s : State), s.Canonical → regB s rFailCtrl 63 = false →
    (Served s m rFailCtrl →
      (armed s = false → bitOf v 63 = false → bitOf v 0 = true → regB s rPartner 32 = false →
        ∃ t, Does (.armWrite m v) s t ∧ armed t = true ∧
          failState t = (if (List.range 256).all (fun i => ptClass s i == 0) then 4 else 2) ∧ t.mem = s.mem) ∧
      (armed s = true → bitOf v 63 = false → bitOf v 0 = false →
        ∃ t, Does (.armWrite m v) s t ∧ armed t = false ∧ failState t = 0 ∧ t.mem = s.mem) ∧
      (armed s = true → bitOf v 63 = false → bitOf v 0 = true → ∃ t, Does (.armWrite m v) s t ∧ t = { s with regs := t.regs } ∧
        armed t = true ∧ regB t rFailCtrl 2 = bitOf v 2 ∧ regB t rFailCtrl 1 = regB s rFailCtrl 1 ∧
        ∀ o, o ≠ rFailCtrl → reg t o = reg s o)) ∧
    (∀ sender val val2 dom board,
      let t := judgeSync s sender val val2 dom board
      let same := dom = ownDomain s ∨ board = ownBoard s
      let tables := val = tdigest s true ∧ val2 = tdigest s false ∧ tableClash s = false
      t.fail.syncSeen = true ∧
      (partnerOf s ≠ some sender → failState t = 2 ∧ regF t rFailStat 4 4 = 2) ∧
      (partnerOf s = some sender → ¬tables → failState t = 2 ∧ regF t rFailStat 4 4 = 3) ∧
      (partnerOf s = some sender → tables → same → regB s rFailCtrl 2 = false →
        failState t = 2 ∧ regF t rFailStat 4 4 = if dom = ownDomain s then 4 else 5) ∧
      (partnerOf s = some sender → tables → (same → regB s rFailCtrl 2 = true) → failState t = 1)) ∧
    (∀ k l val val2 d b, k.body = .ready 0 l val val2 d b →
      takeSync k s = if armed s then judgeSync s l.toNat val.toNat val2.toNat d.toNat b.toNat
        else { s with links := { s.links with early := s.links.early ++ [k] } }) ∧
    (s.fail.syncSent = none ∨ s.fail.syncSeen = true ∨ armed s = false → Idles .cfgPartnerAbsent s) ∧
    (∀ b, s.fail.syncSent = some b → s.fail.syncSeen = false → armed s = true → b + regF s rRecvWd 0 32 < 2 ^ 64 →
      ∃ t, Does .cfgPartnerAbsent s t ∧ failState t = 2 ∧ regF t rFailStat 4 4 = 1 ∧ t.fail.syncSent = none ∧
        beat t = max (beat s) (b + regF s rRecvWd 0 32) ∧ t.mem = s.mem)

/-- Cold tensors and the shadow check: COLD_DIRTY marks the mirror's entry and is acknowledged; the acknowledgement, or
RECV_WD without one, ends the wait of the writes with the entry dirty, and without one the tensor is unprotected; digests
that differ are logged and leave the owner unprotected until its shadows are filled anew (R403, R409). -/
def Sys2Proof.Claims.ColdTensorsAndShadows : Prop :=
  ∀ (s : State) (k : Packet) (v v2 : Word), s.Canonical →
    (∀ kind lc dm bd, k.body = .ready kind lc v v2 dm bd →
      (v.toNat < 256 → takeColdDirty k s = reply (setB s (rQtCfg v.toNat) 31 true) 0x22 2 32 lc.toNat 0 0
        (.ready 4 (BitVec.ofNat 32 (ownLogical (setB s (rQtCfg v.toNat) 31 true))) v 0 0 0)) ∧
      (256 ≤ v.toNat → takeColdDirty k s = s) ∧
      (v.toNat < 256 → (aget s.fail.dirtyWait v.toNat).isSome = true →
        let t := takeDirtyAck k s
        aget t.fail.dirtyWait v.toNat = none ∧ regB t (rPtCfg v.toNat) 31 = true ∧
        (reg t rDirtyCnt).toNat = min (2 ^ 64 - 1) ((reg s rDirtyCnt).toNat + 1) ∧
        t = { s with regs := t.regs, fail := { s.fail with dirtyWait := t.fail.dirtyWait } }) ∧
      (aget s.fail.dirtyWait v.toNat = none → takeDirtyAck k s = s) ∧
      (s.fail.digest = none → takeDigest k s = { s with links := { s.links with early := s.links.early ++ [k] } }) ∧
      (s.fail.digest = some v.toNat → takeDigest k s = { s with fail := { s.fail with digest := none } }) ∧
      (∀ own, s.fail.digest = some own → own ≠ v.toNat → failState (takeDigest k s) = 2 ∧
        (takeDigest k s).fail.digest = none ∧ (takeDigest k s).fail.reseed = true)) ∧
    (∀ i < 256, (aget s.fail.dirtyWait i = none → Idles (.unprotected i) s) ∧
      (∀ a, aget s.fail.dirtyWait i = some a → ∃ t, Does (.unprotected i) s t ∧ aget t.fail.dirtyWait i = none ∧
        regB t (rPtCfg i) 31 = true ∧ i ∈ t.fail.unprot ∧ t.mem = s.mem ∧ t.fronds = s.fronds))

/-- Arming, pairing and the state of protected tensors. -/
def Obligations.ModulesAreProtected : Prop :=
  Claims.ArmingAndPairing ∧
  Claims.ColdTensorsAndShadows

/-- Losses: a neighbour that no port has heard for 5,000 beats is declared lost and everyone told; a LOSS seen before
changes nothing; one that names this module fences it, and so does silence on every port: the state is FENCED, the fronds
in flight complete FAULT, and nothing but heartbeats leaves it (R411–R414). -/
def Sys2Proof.Claims.LossesAreHandled : Prop :=
  ∀ (p : Fin 16) (s : State), s.Canonical →
    (∀ k dl dp sp op db cause cf rb, k.body = .loss dl dp sp op db cause cf rb →
      (s.fail.seen.contains (0x20, dp.toNat, lossFlags cf rb) = true → takeLoss p k s = s) ∧
      (s.fail.seen.contains (0x20, dp.toNat, lossFlags cf rb) = false →
        takeLoss p k s = applyLoss (sendAll s k (some p)) dl.toNat dp.toNat sp.toNat op.toNat 0x4002 cf rb)) ∧
    (lastHeard s (portsTo s (behind s p)) = none ∨ fenced s = true ∨ isDead s (behind s p) = true →
      Idles (.lossDeclared p) s) ∧
    (∀ t0, lastHeard s (portsTo s (behind s p)) = some t0 → fenced s = false → isDead s (behind s p) = false →
      let a := advanceTo s (t0 + 5000)
      let l := (linkPort s p).heardCoord
      let st := match s.fail.partners.find? (fun e => e.1 == l) with
        | some e => physOf s e.2
        | none => 0xFFFFFFFF
      Does (.lossDeclared p) s (applyLoss (sendAll a
        { hdr := newHdr 0x20 2 32 0 (ownLogical a) 0 0
          body := lossBody l (behind s p) st (ownPhys a) (beat a) 1 false false } none)
        l (behind s p) st (ownPhys a) 0x4001 false false)) ∧
    (lastHeard s (List.range 16) = none → Idles .selfFenced s) ∧
    (∀ t0, lastHeard s (List.range 16) = some t0 → fenced s = false → ∃ t, Does .selfFenced s t ∧ fenced t = true ∧
      (∀ k q, k.hdr.type ≠ 0x10 → sendOn t q k = t) ∧
      (∀ f ∈ t.fronds, f.phase ≠ .working) ∧ t.mem = s.mem) ∧
    (∀ deadL st o code cf rb, applyLoss s deadL (ownPhys s) st o code cf rb = fence s)

/-- Gemmas: a stand-in without one claims the nearest free spare, or logs that none is free; an idle gemma accepts the
first claim and any other module answers BUSY; an acceptance is held as GEMMA, and a refusal marks the spare and tries the
next; the end of the fill makes the gemma ready; a COMMIT seen before and a RELEASE change nothing (R413, R417–R419). -/
def Sys2Proof.Claims.GemmasAreClaimed : Prop :=
  ∀ (k : Packet) (s : State), s.Canonical →
    (failState s ≠ 3 ∨ regB s rGemma 32 = true ∨ s.fail.claim ≠ none → Idles .gemmaClaim s) ∧
    (failState s = 3 → regB s rGemma 32 = false → s.fail.claim = none →
      (nearestSpare s = none → Logs .gemmaClaim s (event s 0x4014 0 0 (payDefault 0 0 (regF s rStandin 0 32)))) ∧
      (∀ i, nearestSpare s = some i →
        let g := regF s (rSpare i) 0 32
        i < 64 ∧ regB s (rSpare i) 40 = true ∧ regB s (rSpare i) 41 = false ∧
        (∀ j < 64, regB s (rSpare j) 40 = true → regB s (rSpare j) 41 = false →
          hopCount s (ownPhys s) g ≤ hopCount s (ownPhys s) (regF s (rSpare j) 0 32)) ∧
        Does .gemmaClaim s (inject { s with fail := { s.fail with claim := some i } }
          (adoptPacket s g (regF s rStandin 0 32) g (ownPhys s) 0 0)))) ∧
    (∀ l g sp st kd, k.body = .adopt l g sp st kd →
      (failState s = 4 → takeClaim k s = sendReady (setFailState { s with fail := { s.fail with claimant := some sp.toNat } } 5)
        k.hdr.srcL.toNat 1 0 0 0 0) ∧
      (failState s ≠ 4 → takeClaim k s = sendReady s k.hdr.srcL.toNat 2 0 0 0 0) ∧
      (∀ p, s.fail.seen.contains (0x21, l.toNat, 1) = true → takeAdopt p k s = s)) ∧
    (claimedBy s k = none → takeAccept k s = s ∧ takeBusy k s = s) ∧
    (∀ i, claimedBy s k = some i →
      let g := regF s (rSpare i) 0 32
      (let t := takeAccept k s;
        t.fail.claim = none ∧ reg t rGemma = BitVec.ofNat 64 (g + 2 ^ 32) ∧ regB t (rSpare i) 41 = true ∧ t.mem = s.mem) ∧
      takeBusy k s = claimGemma (setB { s with fail := { s.fail with claim := none } } (rSpare i) 41 true)) ∧
    (regB s rGemma 32 = true → regB s rGemma 33 = false → failState s = 3 →
      let a := setB s rGemma 33 true
      Does .gemmaFillDone s (logEntry a (event a 0x4011 0 0 (payDefault 0 0 (regF s rGemma 0 32))))) ∧
    (regB s rGemma 32 = false ∨ regB s rGemma 33 = true ∨ failState s ≠ 3 → Idles .gemmaFillDone s)

/-- Losses are handled and gemmas claimed. -/
def Obligations.LossesAndGemmas : Prop :=
  Claims.LossesAreHandled ∧
  Claims.GemmasAreClaimed

/-! ### Reset and start-up -/

/-- Power and reset: a fall of PWRGOOD or RESET_N puts every register but the log's counters at its reset value, zeroes the
mats and tiles and drops every frond, and keeps towers, host memory and flash; RESET_N alone keeps the THERMTRIP_N latch; a rise samples the straps and
runs start-up, which TEST_EN holds, a missing reference leaves in step 1 and an unreadable flash stops with reason 2; the timeouts of
steps 6 and 7 let it go on (R162, R437, R493, R494, R508, R509, R513). -/
def Obligations.ResetAndStartUp : Prop :=
  ∀ (e : StartEnv) (s : State), s.Canonical → envOk e = true →
    let counts := [rLogHead, rLogTail, rLogOver, rLogDrop]
    let cleared (t : State) : Prop :=
      (∀ o, o ∉ counts → o ≠ rTherm → reg t o = regReset o) ∧ t.fronds = [] ∧ t.tiles = [] ∧ t.matPoison = [] ∧ t.full = [] ∧
      (∀ k, 0x6000000000 ≤ k → k < 2 ^ 64 → memGet t k = memDefault k) ∧
      (∀ k, k < 0x6000000000 ∨ 2 ^ 64 ≤ k → memGet t k = memGet s k) ∧ t.host.flash = s.host.flash ∧ t.towPoison = s.towPoison
    (s.pins.pwrgood = true → ∃ t, Does .powerGoodFall s t ∧ cleared t ∧ t.pins.pwrgood = false ∧ t.pins.thermtrip = false ∧
      reg t rTherm = regReset rTherm ∧
      (s.pins.vmgmtLost = true → t.log.ring = [] ∧ ∀ o ∈ counts, reg t o = 0)) ∧
    (s.pins.pwrgood = false → Idles .powerGoodFall s) ∧
    (s.pins.pwrgood = true → s.pins.resetN = true → ∃ t, Does .resetNFall s t ∧ cleared t ∧ t.pins.resetN = false ∧
      t.pins.thermtrip = s.pins.thermtrip ∧ regB t rTherm 25 = regB s rTherm 25 ∧ regF t rTherm 16 8 = regF s rTherm 16 8) ∧
    (s.pins.resetN = false → Idles .resetNFall s) ∧
    (s.pins.pwrgood = true → Idles (.powerGoodRise e) s) ∧ (s.pins.resetN = true → Idles (.resetNRise e) s) ∧
    (s.pins.pwrgood = false → s.pins.resetN = false →
      Does (.powerGoodRise e) s { s with pins := { s.pins with pwrgood := true } } ∧
      Does (.resetNRise e) s { s with pins := { s.pins with resetN := true } }) ∧
    (∀ c : Instr, ∀ a : State,
      (c = .powerGoodRise e ∧ s.pins.pwrgood = false ∧ s.pins.resetN = true ∧ a = { s with pins := { s.pins with pwrgood := true } }) ∨
      (c = .resetNRise e ∧ s.pins.resetN = false ∧ s.pins.pwrgood = true ∧ a = { s with pins := { s.pins with resetN := true } }) →
      ∃ t, Does c s t ∧ t.pins.testEn = e.testEn ∧ t.pins.domid = e.domid.toNat ∧ t.pins.mbusSel = e.mbusSel ∧
        (e.testEn = true → t = { a with regs := t.regs, pins := t.pins } ∧ fld (reg t rStrap) 0 4 = e.domid.toNat ∧
          regF t rFailIds 0 4 = e.domid.toNat) ∧
        (e.testEn = false → t.start = some e) ∧
        (e.testEn = false → e.refOk = false → t = { a with regs := t.regs, pins := t.pins, start := some e }) ∧
        (e.testEn = false → e.refOk = true → e.flashOk = false → regB s rBoot 4 = false → isReady s = false →
          regB t rBoot 4 = true ∧ regF t rBoot 8 8 = 2 ∧ regF t rBoot 0 4 = 2 ∧ t.pins.faultN = true)) ∧
    (regF s rBoot 0 4 = 6 → regB s rBoot 4 = false →
      Does .linkTrainingTimeout s (stepAlign (advanceTo s ((regF s rBoot 16 32 + 1000 * regF s rBootCfg 0 16) * 1250000)))) ∧
    (regF s rBoot 0 4 ≠ 6 ∨ regB s rBoot 4 = true → Idles .linkTrainingTimeout s) ∧
    (regF s rBoot 0 4 = 7 → regB s rBoot 4 = false →
      Does .alignTimeout s (finish (advanceTo s ((regF s rBoot 16 32 + 1000 * regF s rBootCfg 16 16) * 1250000)))) ∧
    (regF s rBoot 0 4 ≠ 7 ∨ regB s rBoot 4 = true → Idles .alignTimeout s)

/-! ### The sequencer -/

/-- A region whose sequencer is stopped decodes nothing, and so does one with no undecoded frond. Otherwise the first queue
in priority order that has an undecoded frond and room for an entry decodes it, on a work beat and no more than one a beat:
QFETCH is one more and the decoded store holds the frond's 64 words as its ring slot holds them. An unknown opcode and a
header not in its form are SKIP_ILLEGAL; a frond that an abort reached while it was undecoded carries it; in an isolated region the frond is
FAULT, due 4 bt later. A frond that cannot be fetched disables its queue with QUEUE_FETCH_BAD (R71, R74–R77, R89, R92,
R431). -/
def Obligations.FrondsAreDecoded : Prop :=
  ∀ (r : Fin 8) (s : State), s.Canonical →
    (seqStopped s r = true → Idles (.frondDecode r) s) ∧
    ((∀ q < 4, undecoded s r q = false) → Idles (.frondDecode r) s) ∧
    (∀ q : Fin 4, seqStopped s r = false → undecoded s r q = true → entryFree s r q = true →
      (∀ p < q.val, undecoded s r p = false ∨ entryFree s r p = false) → aget s.lastTail (r * 4 + q) = none →
      (∀ i ∈ s.images, ¬(i.region = r.val ∧ i.queue = q.val)) → (standinRuns s = false ∨ q ≠ 3) →
      let b := workFrom s (max (beat s) (((aget s.lastDecode r).map (· + 1)).getD 0))
      let u := advanceTo s b
      let k := regF s (rQfetch r q) 0 32
      let a := (reg s (rQbase r q)).toNat + 256 * (k % 512)
      b < 2 ^ 64 →
      (fetchable u a 256 = true → ∃ t g, Does (.frondDecode r) s t ∧ t.fronds = s.fronds ++ [g] ∧
        g.region = r.val ∧ g.queue = q.val ∧ g.idx = k ∧ g.decoded = b ∧
        g.words = (List.range 64).map (fun j => BitVec.ofNat 32 (natAt s (a + 4 * j) 4)) ∧
        g.pairs = (List.range 4).map (fun w =>
          ((reg s (rTask r (taskOf g) w 0)).toNat, (reg s (rTask r (taskOf g) w 1)).toNat)) ∧
        (s.maint.isolated.contains r.val = true → g.phase = .finished ∧ g.skip = some .fault ∧ g.prom = b + 4) ∧
        (s.maint.isolated.contains r.val = false → g.phase = .decoded ∧
          (specOf s g = none → g.skip = some .skipIllegal) ∧ (headerForm g = false → g.skip = some .skipIllegal) ∧
          ((r.val, q.val, k) ∈ s.aborts → (g.skip = none ∧ g.abort = true) ∨ (g.skip ≠ none ∧ g.late = true)) ∧
          ((r.val, q.val, k) ∉ s.aborts → g.abort = false ∧ g.late = false)) ∧
        (∀ x, x ∈ t.aborts ↔ x ∈ s.aborts ∧ x ≠ (r.val, q.val, k)) ∧
        regF t (rQfetch r q) 0 32 = countAdd k 1 ∧ beat t = b ∧ aget t.lastDecode r = some b ∧
        t.mem = s.mem ∧ t.tiles = s.tiles) ∧
      (fetchable u a 256 = false → (∀ p o, resolve s a ≠ .host p o) →
        Does (.frondDecode r) s
          (logEntry (setB u (rQctrl r q) 0 false) (event u 0x1037 1 (srcUnit r 0) (payDefault 0 0 a)))))

namespace Sys2Proof.Claims
/-- An event of a frond: its region's sequencer is the source, and SEQNO and queue are the frond's (R434). -/
def frondEvent (s : State) (f : Frond) (code pay : Nat) : LogEntry :=
  { beat := beat s, code := code, cls := 1, idx := srcUnit f.region 0, seqv := true, queue := f.queue, lost := false, coal := 0,
    seqno := seqnoOf f, pay := pay }

/-- The state in which frond `f` has been given its place in acceptance order on the present beat, its waits not yet
subtracted. -/
def inOrder (s : State) (f : Frond) : State :=
  { s with accepted := s.accepted + 1, lastAccept := aset s.lastAccept f.region (beat s) }

/-- The frond with its place in that order. -/
def placed (s : State) (f : Frond) : Frond :=
  { f with order := s.accepted + 1, acc := beat s, suspended := decide (level s < 8) }
end Sys2Proof.Claims

/-- Acceptance: nothing is accepted while the sequencer is stopped, the region isolated, the module fenced or MEMCFG not
locked. Of the queues in priority order the first whose frontmost decoded frond has its waits satisfied is taken, on a
work beat, one a beat. An aborted frond waits for nothing and is finished with A + 4; a frond skipped at decode consumes
its waits, logs FROND_SKIPPED and has A + 4; one that fails a check of acceptance does the same with that check's
status. A frond whose deadline cannot be met is refused with NOT_ACCEPTED and DEADLINE_REFUSED and carries the promise it
would have had; any other goes to work with issue bound I and promise P, which its engines keep as their horizon (R46–R51, R90, R94). -/
def Obligations.FrondsAreAccepted : Prop :=
  ∀ (r : Fin 8) (s : State), s.Canonical →
    (seqStopped s r = true ∨ s.maint.isolated.contains r.val = true ∨ fenced s = true ∨ regB s rMemcfg 63 = false →
      Idles (.frondAccept r) s) ∧
    (∀ (q : Fin 4) (f : Frond), seqStopped s r = false → s.maint.isolated.contains r.val = false → fenced s = false →
      regB s rMemcfg 63 = true → s.maint.running = [] → s.maint.queued = [] → f.pre = [] →
      candidate s r q = some f → regB s (rPstat r) q = false → mayAccept s f = true →
      (f.abort = true ∨ f.skip ≠ none ∨ activityOf s f = none) →
      (∀ p < q.val, regB s (rPstat r) p = true ∨ ∀ g, candidate s r p = some g → mayAccept s g = false) →
      let b := acceptBeat s f
      let u := advanceTo s b
      let g := placed u f
      let v := inOrder u f
      let w := consumeWaits v g
      b < 2 ^ 64 →
      beat u = b ∧ isWorkAt (level s) b = true ∧
      (f.abort = true → Does (.frondAccept r) s
        (putFrond v { g with noWork := true, phase := .finished, prom := b + 4, ended := b })) ∧
      (f.abort = false → ∀ x, f.skip = some x → x ≠ .skipOverlap → Does (.frondAccept r) s
        (putFrond (logEntry w (frondEvent w g 0x1001 (payDefault (opcodeOf f) (statusCode x) 0)))
          { g with noWork := true, phase := .finished, prom := b + 4, ended := b })) ∧
      (f.abort = false → f.skip = none → ∀ p, specOf w g = some p →
        (∀ x, acceptCheck w g p = some (x, 0) → x ≠ .skipOverlap → Does (.frondAccept r) s
          (putFrond (logEntry w (frondEvent w g 0x1001 (payDefault (opcodeOf f) (statusCode x) 0)))
            { g with noWork := true, phase := .finished, prom := b + 4, ended := b, skip := some x })) ∧
        (acceptCheck w g p = none → p.noop = false →
          let h := { g with chans := (assignChannels w g p).getD [] }
          let es := p.engines ++ h.chans.map (fun c => f.region * 64 + 17 + c.2)
          let bound := (es.filter keepsHorizon).foldl (fun m e => max m (agetN w.horizons e)) (b + 1)
          let prom := bound + (List.range (repeatOf f + 1)).foldl (fun a k =>
            a + repTime w h p (if deadlineEn f && decide (level w < 8) && regB w rBeatCtrl 0 then level w else 8) k) 0
          (refused w h p prom = true → Does (.frondAccept r) s
            (putFrond (logEntry w (frondEvent w g 0x1021 (payDefault (opcodeOf f) 0x20 0)))
              { g with noWork := true, phase := .finished, prom := prom, ended := b, skip := some .notAccepted })) ∧
          (refused w h p prom = false → armed w = false → ∃ t, Does (.frondAccept r) s t ∧
            (∀ y ∈ t.fronds, y.is f.region f.queue f.idx = true →
              y.phase = .working ∧ y.acc = b ∧ y.order = s.accepted + 1 ∧ y.issue = bound ∧ y.prom = prom ∧
              y.engines = es ∧ y.words = f.words ∧ y.rep = f.rep ∧ y.unit = f.unit ∧ y.skip = none) ∧
            (noHorizon f = false → ∀ e ∈ es, keepsHorizon e = true → agetN t.horizons e = prom) ∧
            t.mem = s.mem ∧ t.tiles = s.tiles))))

/-- A frond's waits subtract at its acceptance, and its signals add at its release, saturating at 65,535 with
TOKEN_SATURATED: stated of one counter, of a frond whose waits, or signals, name it once (R78, R79). -/
def Obligations.TokensAreCounted : Prop :=
  ∀ (s : State) (f : Frond) (k : TokWord) (o : Nat), s.Canonical → tokReg f.region k = some o →
    (waitsOf f = [k] →
      (waitsMet s f = true ↔ k.count ≤ regF s o 0 16) ∧
      consumeWaits s f = { s with regs := (consumeWaits s f).regs } ∧
      Regs s (consumeWaits s f) [(o, putFld (reg s o) 0 16 (regF s o 0 16 - k.count))]) ∧
    (signalsOf f = [k] →
      let n := regF s o 0 16 + k.count
      regF (applySignals s f) o 0 16 = min n 65535 ∧
      (n ≤ 65535 → Regs s (applySignals s f) [(o, putFld (reg s o) 0 16 n)] ∧
        applySignals s f = { s with regs := (applySignals s f).regs, lastSignal := (applySignals s f).lastSignal }) ∧
      (65535 < n → (applySignals s f).log = (logEntry s (event s 0x1030
        (if k.global then 0 else 1) (if k.global then 0 else srcUnit f.region 0) (payDefault 0 0 (absReg o)))).log))

/-- Run-ahead of one element: the next element of a source slot outside the region's own mat is read ahead of the frond's
acceptance, kept with its bits and its poison, and counted; a frond that is accepted, skipped or aborted, or whose slot
may not be fetched, is left alone (R198). -/
def Obligations.RunAheadFetchesElements : Prop :=
  ∀ (x : FrondRef) (k : Fin 4) (s : State), s.Canonical →
    (findFrond s x = none → ∀ n, Idles (.runAhead x k n) s) ∧
    (∀ f, findFrond s x = some f →
      (f.phase ≠ .decoded ∨ f.skip ≠ none ∨ f.abort = true ∨ inStore s f = false → ∀ n, Idles (.runAhead x k n) s) ∧
      (∀ p, specOf s f = some p → f.phase = .decoded → f.skip = none → f.abort = false → inStore s f = true →
        seqStopped s f.region = false →
        (fetchesAhead s f p k = false → ∀ n, Idles (.runAhead x k n) s) ∧
        (fetchesAhead s f p k = true → s.upsets = [] →
          let d := slotOf f k
          let e := (f.pre.filter (fun y => y.slot == k.val)).length
          let a := d.addr (d.pos 0 e)
          e < d.elems → storeBytes d (e + 1) ≤ 8192 / p.sources.length → d.fmt ≠ 0x10 →
          (∀ w o, resolve s a ≠ .host w o) → (∀ m o, resolve s a = .mat m o → pclass s m o ≠ 2) →
          ∃ t, Does (.runAhead x k 1) s t ∧ t.mem = s.mem ∧ t.tiles = s.tiles ∧
            Regs s t [(rStrm f.region 0x218, BitVec.ofNat 64 (satAdd 64 (reg s (rStrm f.region 0x218)).toNat
              (storeBytes d (e + 1) - storeBytes d e)))] ∧
            findFrond t x = some { f with pre := f.pre ++
              [⟨k, e, unitBits d.fmt (d.within (d.pos 0 e)) (natAt s a (fmtUnit d.fmt)), poisonedAt s a⟩] })))

/-! ### Completion and release -/

namespace Sys2Proof.Claims
/-- Nothing beside the frond's own work enters into its release: no release of its queue is held and its ring takes the
record, no maintenance runs or waits, its queue runs no image, and its opcode is not of class 0xD; its engines,
tiles, lines and granules are ones that there are. -/
structure Undisturbed (s : State) (f : Frond) : Prop where
  canonical : s.Canonical
  region : f.region < 8
  queue : f.queue < 4
  first : heldBefore s f = false
  room : ringBlocked s f.region f.queue = false
  maint : s.maint.running = [] ∧ s.maint.queued = []
  noImage : ∀ i ∈ s.images, ¬(i.region = f.region ∧ i.queue = f.queue)
  cls : opcodeOf f / 256 ≠ 0xD
  engines : ∀ e ∈ f.engines, e < 512
  tiles : (∀ k ∈ f.tiles, k < 2048) ∧ (∀ k ∈ f.dtiles, k < 2048) ∧ ∀ k ∈ f.wroteTiles, k < 2048
  lines : (∀ l ∈ f.wroteLines, l < 8 * 524288) ∧ ∀ g ∈ f.wroteGrans, g < 8 * 2 ^ 24

/-- The frond has been released on beat `b`: the beat has come, the frond is gone, the queue's head has passed it if it
stood there, its counters have its signals, and the record that is due stands in the entry of CRHEAD, which is one more (R52,
R54, R74, R78, R86). -/
def ReleasedAt (s : State) (f : Frond) (b : Nat) (t : State) : Prop :=
  let g := { f with causes := lastCauses (advanceTo s b) f }
  let k := regF s (rCrhead f.region f.queue) 0 32
  let log2 := regF s (rCrcfg f.region f.queue) 0 5
  let a := (reg s (rCrbase f.region f.queue)).toNat + 32 * (k % 2 ^ log2)
  beat t = b ∧
  (∀ y ∈ t.fronds, y.is f.region f.queue f.idx = false) ∧
  (regF s (rQhead f.region f.queue) 0 32 = f.idx → (∀ y ∈ s.ahead, ¬(y.1 = f.region ∧ y.2.1 = f.queue)) →
    regF t (rQhead f.region f.queue) 0 32 = countAdd f.idx 1) ∧
  (∀ y o, signalsOf f = [y] → tokReg f.region y = some o → regF t o 0 16 = min 65535 (regF s o 0 16 + y.count)) ∧
  (recordDue g b = true → a + 32 ≤ 0x6000000000 →
    natAt t a 32 = recordBits g b k log2 % 2 ^ 256 ∧ regF t (rCrhead f.region f.queue) 0 32 = countAdd k 1) ∧
  (recordDue g b = false → regF t (rCrhead f.region f.queue) 0 32 = k)
end Sys2Proof.Claims

/-- Completion: the work that has ended on beat E, no earlier than the issue bound, is released on the first work beat after
it; under PACED, before P, the frond waits, its engines free, and is released on beat P itself. A frond with no work, or
whose work goes on, is not completed (R52, R53, R93). -/
def Sys2Proof.Claims.FrondsComplete : Prop :=
  ∀ (x : FrondRef) (b : Word) (s : State), s.Canonical →
    (findFrond s x = none → Idles (.frondComplete x b) s ∧ Idles (.pacedRelease x) s ∧ Idles (.skippedFrondRelease x) s ∧
      Idles (.barrierReleaseAtT x) s) ∧
    (∀ f, findFrond s x = some f →
      (complete s f = false → Idles (.frondComplete x b) s) ∧
      (pacing f = false → Idles (.pacedRelease x) s) ∧
      (∀ e, f.phase = .working → complete s f = true → e = max (max b.toNat f.issue) (beat s - 1) → e + 2 < 2 ^ 64 →
        opcodeOf f / 256 ≠ 0xD →
        (paced f = true → e < f.prom → Does (.frondComplete x b) s (putFrond (advanceTo s e) { f with phase := .finished, ended := e })) ∧
        (paced f = false ∨ f.prom ≤ e → Undisturbed s f → ∃ t, Does (.frondComplete x b) s t ∧
          ReleasedAt s { f with ended := e } (workFrom s (max (beat s) (e + 1))) t)) ∧
      (pacing f = true → Undisturbed s f → beat s ≤ f.prom → f.prom < 2 ^ 64 →
        ∃ t, Does (.pacedRelease x) s t ∧ ReleasedAt s f f.prom t))

/-- A frond that moved no data (skipped, refused, aborted before its work, or an identity copy) is released on the fourth
work beat after its acceptance (R90, R94). A BARRIER that has its release beat T is released on the first work beat at or
after it, and on no other command (R64, R73). -/
def Sys2Proof.Claims.SkippedFrondsAndBarriersAreReleased : Prop :=
  ∀ (x : FrondRef) (s : State) (f : Frond), s.Canonical → findFrond s x = some f →
    (f.noWork = true → f.phase = .finished → f.held = false → Undisturbed s f →
      beat s ≤ workAfter s f.acc 4 → workAfter s f.acc 4 < 2 ^ 64 →
      ∃ t, Does (.skippedFrondRelease x) s t ∧ ReleasedAt s f (workAfter s f.acc 4) t) ∧
    (f.noWork = false ∨ f.phase ≠ .finished → Idles (.skippedFrondRelease x) s) ∧
    (f.wake = none → Idles (.barrierReleaseAtT x) s) ∧
    (∀ w, opcodeOf f = 0x004 → f.phase = .working → f.noWork = false → f.wake = some w → Undisturbed s f →
      let b := workFrom s (max (beat s) w)
      b < 2 ^ 64 →
      ∃ t, Does (.barrierReleaseAtT x) s t ∧
        ReleasedAt s { f with ended := b, worked := true, rep := repeatOf f + 1, unit := 0 } b t)

/-- Completion and release, by every command that releases a frond (R52, R53, R64, R73, R90, R93, R94). -/
def Obligations.FrondsCompleteAndAreReleased : Prop :=
  Claims.FrondsComplete ∧
  Claims.SkippedFrondsAndBarriersAreReleased

/-- A release that needs a record while the ring is full in BLOCK mode is held, and every later release of the queue behind
it: no signal, no record and no head moves (R87). -/
def Obligations.AFullRingHoldsReleases : Prop :=
  ∀ (x : FrondRef) (s : State) (f : Frond), s.Canonical → findFrond s x = some f →
    f.noWork = true → f.phase = .finished → f.held = false → f.unspec = false → s.maint.running = [] → s.maint.queued = [] →
    (heldBefore s f = true ∨ (quiet f = false ∧ ringBlocked s f.region f.queue = true)) →
    opcodeOf f / 256 ≠ 0xD →
    let u := advanceTo s (workAfter s f.acc 4)
    let rest := s.fronds.filter (fun g => !g.is f.region f.queue f.idx)
    let g := { f with causes := lastCauses u f ++ [7], held := true }
    (smem s.episodes (epKey f.region f.queue 0) = true → Does (.skippedFrondRelease x) s { u with fronds := rest ++ [g] }) ∧
    (smem s.episodes (epKey f.region f.queue 0) = false → Does (.skippedFrondRelease x) s
      (openEp (logEntry { u with fronds := rest ++ [g] }
        (event u 0x1032 1 (srcUnit f.region 0) (payDefault 0 0 (absReg (rCrbase f.region f.queue)))))
        (epKey f.region f.queue 0)))

namespace Sys2Proof.Claims
/-- The place of a status in R84's list. -/
def place : Status → Nat
  | .fault => 1
  | .hostFault => 2
  | .handoffTimeout => 3
  | .skipIllegal | .skipShape | .skipBudget | .skipKeyset | .skipOverlap | .skipBound | .skipScale | .skipDomain
  | .skipParam | .notAccepted => 4
  | .aborted => 5
  | .donePoisoned => 6
  | .abortLate => 7
  | .doneRecomputed => 8
  | .done => 9

/-- The statuses that apply to a frond. -/
def applying (f : Frond) : List Status :=
  f.skip.toList ++ (if f.abort then [.aborted] else []) ++ (if f.poisoned then [.donePoisoned] else []) ++
    (if f.late then [.abortLate] else []) ++ (if f.recomputed then [.doneRecomputed] else []) ++ [.done]
end Sys2Proof.Claims

/-- Of the statuses that apply to a frond the record carries the first in R84's order, and the RECOMPUTED flag says whether
a recompute occurred, whatever the status; of two failures the first in that order stays (R84). -/
def Obligations.TheRecordCarriesTheFirstStatus : Prop :=
  (∀ (f : Frond) (b k log2 : Nat), (∀ x, f.skip = some x → place x ≤ 4) →
    finalStatus f ∈ applying f ∧ (∀ y ∈ applying f, place (finalStatus f) ≤ place y) ∧
    nfld (recordBits f b k log2) 32 8 = statusCode (finalStatus f) ∧
    nbit (recordBits f b k log2) 43 = f.recomputed) ∧
  (∀ x y : Status, ∃ z, worse (some x) y = some z ∧ (z = x ∨ z = y) ∧ place z ≤ place x ∧ place z ≤ place y)

/-- The 32 bytes of a completion record, field by field (R85): SEQNO, STATUS, FLAGS, AFLAGS, PROMISED, ACTUAL, UNITS, REPS,
OPQ, ORIGIN with PHASE, MISS_CAUSE with UNIT_SHIFT. -/
def Obligations.TheCompletionRecord : Prop :=
  ∀ (f : Frond) (b k log2 : Nat), f.queue < 4 → f.region < 8 → f.group < 16 → f.prom < 2 ^ 64 → (∀ w ∈ f.wake, w < 2 ^ 64) →
    b < 2 ^ 64 → (progressOf f).1 < 2 ^ 16 → (progressOf f).2 < 2 ^ 16 → missCause f < 16 → f.aflags < 2 ^ 16 →
    let v := recordBits f b k log2
    v < 2 ^ 256 ∧
    nfld v 0 32 = seqnoOf f ∧ nfld v 32 8 = statusCode (finalStatus f) ∧
    nbit v 40 = f.clamped ∧ nbit v 41 = isLate f b ∧ nbit v 42 = f.nonrep ∧ nbit v 43 = f.recomputed ∧ nfld v 44 4 = 0 ∧
    nfld v 48 16 = f.aflags ∧ nfld v 64 64 = f.wake.getD f.prom ∧ nfld v 128 64 = b ∧
    nfld v 192 16 = (progressOf f).1 ∧ nfld v 208 16 = (progressOf f).2 ∧
    nfld v 224 12 = opcodeOf f ∧ nfld v 236 2 = f.queue ∧ nfld v 238 2 = 0 ∧
    nfld v 240 4 = taskOf f ∧ nfld v 244 3 = f.region ∧ nbit v 247 = !nbit k log2 ∧
    nfld v 248 4 = (if isLate f b then missCause f else 0) ∧ nfld v 252 4 = f.group

/-- Poison: a frond that fails, is skipped, is not accepted or reads poison leaves its destinations poisoned; one that
completes well leaves poison as it was but for lines, granules and tiles that it has written whole (R91, R142). Stated of a
frond with one destination slot in a mat or a tower. -/
def Obligations.FailuresPoisonDestinations : Prop :=
  ∀ (s : State) (f : Frond) (d : Nat), s.Canonical → f.dests = [d] → f.dctds = [] → f.scratch = [] → f.dtiles = [] →
    (slotOf f d).empty = false → (slotOf f d).circ = false → repeatOf f = 0 →
    ((finalStatus f).poisons = true → ∀ e < destElems f d, ∀ j < fmtUnit (slotOf f d).fmt,
      let o := (slotOf f d).offset (destPos f d 0 e) + j
      let a := ((slotOf f d).wbase + o.toNat) % 2 ^ 40
      0 ≤ o → o < (slotOf f d).bound → (memKey s (resolve s a)).isSome = true →
      (∀ p w, resolve s a ≠ .host p w) →
      Machine.poisonedAt (settlePoison s f) a = true) ∧
    ((finalStatus f).poisons = true → settlePoison s f =
      { s with regs := (settlePoison s f).regs, matPoison := (settlePoison s f).matPoison,
               towPoison := (settlePoison s f).towPoison }) ∧
    (finalStatus f = .aborted → f.poisoned = false → settlePoison s f = s) ∧
    ((finalStatus f).good = true → f.wroteLines = [] → f.wroteGrans = [] → settlePoison s f = s)

/-! ### Lines that are waited for -/

/-- A parked access of a handoff region is granted when its line stands the right way, and only then: a write fills the line, a
read empties it and takes its 64 bytes, with their poison; the frond goes on, a miss of its promise now having cause
HANDOFF (R157). A write whose wait reaches MAT.HANDOFF_WD stops the frond HANDOFF_TIMEOUT on that beat; no line and
no pointer changes (R158). -/
def Sys2Proof.Claims.HandoffLinesAreGranted : Prop :=
  ∀ (x : FrondRef) (s : State) (f : Frond) (p : Parked), s.Canonical → findFrond s x = some f → f.parked = some p →
    let ready := f.phase = .working ∧ f.held = false ∧ p.circ = none
    (¬ready → Idles (.handoffAccessGrant x) s ∧ Idles (.handoffTimeout x) s) ∧
    (ready →
      (smem s.full p.line = p.write → Idles (.handoffAccessGrant x) s) ∧
      (p.write = true → smem s.full p.line = false →
        Does (.handoffAccessGrant x) s (putFrond { s with full := sins s.full p.line }
          { f with grants := f.grants ++ [{ slot := p.slot, seq := 0, line := p.line, write := true, data := [] }],
                   parked := none, causes := f.causes ++ [8], wroteLines := sins f.wroteLines p.line })) ∧
      (p.write = false → smem s.full p.line = true → s.upsets = [] →
        (∀ m o, resolve s (lineAddr p.line) = .mat m o → pclass s m o ≠ 2) →
        (∀ m o, resolve s (lineAddr p.line + 32) = .mat m o → pclass s m o ≠ 2) →
        (∀ h, resolve s (lineAddr p.line) ≠ .hbm h) → (∀ h, resolve s (lineAddr p.line + 32) ≠ .hbm h) →
        Does (.handoffAccessGrant x) s (putFrond { s with full := sdel s.full p.line }
          { f with grants := f.grants ++ [{ slot := p.slot, seq := 0, line := p.line, write := false,
                                            data := bytesAt s (lineAddr p.line) 64 }],
                   parked := none, causes := f.causes ++ [8],
                   poisoned := f.poisoned || (Machine.poisonedAt s (lineAddr p.line) ||
                     Machine.poisonedAt s (lineAddr p.line + 32)) })) ∧
      (f.pend = 0 →
        let u := advanceTo s (p.since + regF s (rMat f.region 0x8) 0 32)
        Does (.handoffTimeout x) s (putFrond
          (logEntry u { frondEvent u f 0x2010 (payDefault (opcodeOf f) 0x30 (lineAddr p.line)) with cls := 2 })
          { f with skip := worse f.skip .handoffTimeout, phase := .finished, ended := beat u, held := false,
                   parked := none, grants := [], page := none })))

/-- A parked access of a circular region is granted when the region has a line for it, and only then: a write takes the line at
TAIL and moves TAIL on, a read the line at HEAD with its 64 bytes and moves HEAD on (R154). Its wait ends at
MAT.HANDOFF_WD like a handoff wait, with CIRC_TIMEOUT (R155, R158). -/
def Sys2Proof.Claims.CircularLinesAreGranted : Prop :=
  ∀ (x : FrondRef) (s : State) (f : Frond) (p : Parked), s.Canonical → findFrond s x = some f → f.parked = some p →
    f.region < 8 →
    let ready := f.phase = .working ∧ f.held = false ∧ p.circ ≠ none
    (¬ready → Idles (.circAccessGrant x) s ∧ Idles (.circTimeout x) s) ∧
    (ready → ∀ k, p.circ = some k → k < 4 →
      let head := regF s (rCircHead f.region k) 0 32
      let tail := regF s (rCircTail f.region k) 0 32
      let lines := fld (reg s (rCircCfg f.region k)) 32 14 * 64
      let first := f.region * 524288 + (cfgSpan (reg s (rCircCfg f.region k))).1 / 64
      (p.write = true → countGap head tail = lines → Idles (.circAccessGrant x) s) ∧
      (p.write = false → head = tail → Idles (.circAccessGrant x) s) ∧
      (p.write = true → countGap head tail ≠ lines → ∃ t, Does (.circAccessGrant x) s t ∧
        Regs s t [(rCircTail f.region k, putFld (reg s (rCircTail f.region k)) 0 32 (countAdd tail 1))] ∧
        findFrond t x = some
          { f with grants := f.grants ++ [{ slot := p.slot, seq := nextSeq f p, line := first + tail % lines, write := true, data := [] }],
                   parked := none, causes := f.causes ++ [8], wroteLines := sins f.wroteLines (first + tail % lines) } ∧
        t = { s with regs := t.regs, fronds := t.fronds }) ∧
      (p.write = false → head ≠ tail → s.upsets = [] → pclass s f.region ((first - f.region * 524288 + head % lines) * 64) ≠ 2 →
        first + head % lines < (f.region + 1) * 524288 →
        ∃ t g, Does (.circAccessGrant x) s t ∧
        Regs s t [(rCircHead f.region k, putFld (reg s (rCircHead f.region k)) 0 32 (countAdd head 1))] ∧
        findFrond t x = some g ∧ g.parked = none ∧ g.causes = f.causes ++ [8] ∧
        g.grants = f.grants ++ [{ slot := p.slot, seq := nextSeq f p, line := first + head % lines, write := false,
                                  data := bytesAt s (lineAddr (first + head % lines)) 64 }] ∧
        g.poisoned = (f.poisoned || smem s.matPoison (first + head % lines)) ∧
        t = { s with regs := t.regs, fronds := t.fronds }) ∧
      (f.pend = 0 →
        let u := advanceTo s (p.since + regF s (rMat f.region 0x8) 0 32)
        Does (.circTimeout x) s (putFrond
          (logEntry u { frondEvent u f 0x2013 (payDefault (opcodeOf f) 0x30 (lineAddr p.line)) with cls := 2 })
          { f with skip := worse f.skip .handoffTimeout, phase := .finished, ended := beat u, held := false,
                   parked := none, grants := [], page := none })))

/-- 4,096 bt after a suspension the row in flight of a held tile load or store is discarded: NEXT_ROW of its tile points to
it and PENDING is set; any other frond is left alone (R145). -/
def Sys2Proof.Claims.ASuspendedRowIsDiscarded : Prop :=
  ∀ (x : FrondRef) (s : State), s.Canonical →
    (findFrond s x = none → Idles (.tileSuspendDiscard x) s) ∧
    (∀ f, findFrond s x = some f →
      (f.held = false ∨ f.phase ≠ .working ∨ (opcodeOf f ≠ 0x331 ∧ opcodeOf f ≠ 0x332) ∨ f.pend = 1 →
        Idles (.tileSuspendDiscard x) s) ∧
      (∀ k, f.held = true → f.phase = .working → opcodeOf f = 0x331 ∨ opcodeOf f = 0x332 → f.pend ≠ 1 → f.tiles = [k] →
        f.ended + 4096 < 2 ^ 64 → k < 2048 → f.unit < 256 →
        ∃ t, Does (.tileSuspendDiscard x) s t ∧ max (beat s) (f.ended + 4096) = beat t ∧
          regF t (rTileStatOf k) 0 8 = f.unit ∧ regB t (rTileStatOf k) 8 = true ∧
          (∀ o, o ≠ rTileStatOf k → o ≠ rBeatCount → o ≠ rStretchBt → reg t o = reg s o) ∧
          (findFrond t x).map (fun g => (g.pend, g.grants, g.parked, g.page, g.unit)) = some (1, [], none, none, f.unit) ∧
          t = { s with regs := t.regs, fronds := t.fronds }))

/-- Accesses that wait for a line, and rows that a suspension discards (R145, R154–R158). -/
def Obligations.ParkedAccesses : Prop :=
  Claims.HandoffLinesAreGranted ∧
  Claims.CircularLinesAreGranted ∧
  Claims.ASuspendedRowIsDiscarded

/-! ### Reset -/

/-- After reset every byte of every mat is 0, every page is of class W, no line and no granule is poisoned and no stored
check is wrong, circular and handoff regions are disabled and MODE is 0 (R162). -/
def Obligations.ResetOfTheMats : Prop :=
  (∀ a, 0x8000000000 ≤ a → a < 0x8010000000 → byteAt State.reset a = 0) ∧
  (∀ r < 8, ∀ o < 0x2000000, pclass State.reset r o = 0) ∧
  State.reset.matPoison = [] ∧ State.reset.upsets = [] ∧
  (∀ r < 8, ∀ k < 4, regB State.reset (rCircCfg r k) 0 = false) ∧
  (∀ r < 8, ∀ h < 16, regB State.reset (rHoffCfg r h) 0 = false) ∧
  (∀ r < 8, reg State.reset (rMat r 0) = 0)

/-- After reset every token counter is 0 (R78), no frond, event, packet or command waits, no queue is enabled and every queue's
counts are 0. -/
def Sys2Proof.Claims.ResetOfTheSequencers : Prop :=
  (∀ t : TokenRef, regF State.reset (tokenReg t) 0 16 = 0) ∧
  State.reset.fronds = [] ∧ State.reset.pending = [] ∧ State.reset.log.hold = [] ∧ State.reset.log.ring = [] ∧
  State.reset.links.early = [] ∧ State.reset.links.wire = [] ∧ State.reset.images = [] ∧
  (∀ r < 8, ∀ q < 4, regB State.reset (rQctrl r q) 0 = false ∧ regF State.reset (rQhead r q) 0 32 = 0 ∧
    regF State.reset (rQfetch r q) 0 32 = 0 ∧ regF State.reset (rQtail r q) 0 32 = 0 ∧
    regF State.reset (rCrhead r q) 0 32 = 0 ∧ regF State.reset (rCrtail r q) 0 32 = 0)

/-- The state right after reset is canonical and idle. -/
def Obligations.TheResetState : Prop :=
  Claims.ResetIsCanonical ∧
  Claims.ResetOfTheSequencers

/-! ### What the engines do -/

namespace Sys2Proof.Claims
/-- A frond's engine at the start of a progress unit. -/
def started (s : State) (x : Frond) : Run :=
  { st := s, base := s, fr := x, todo := x.grants, hand := x.lines, seen := [], bufs := [], blocked := false, stop := none }

/-- The engine at the unit's end, its sector buffers written. -/
def unitRun (unit : Run → Run) (s : State) (x : Frond) : Run := (unit (started s x)).flush (fun _ => false)

/-- Repetition, unit and end of work after one more progress unit (R88). -/
def progressed (x : Frond) : Nat × Nat × Bool :=
  if x.unit + 1 < x.units then (x.rep, x.unit + 1, x.worked)
  else if x.rep < repeatOf x then (x.rep + 1, 0, x.worked)
  else (x.rep + 1, 0, true)

/-- One try at a progress unit takes `s` to `t`. A unit that has to wait leaves everything as it was but for the lines and
requests it has been granted; one that fails ends the frond with its status, what it wrote staying written; any other
stands as its engine left it and counts as one unit of the frond's progress (R88, R89, R93, R157). -/
def OneUnit (unit : Run → Run) (s : State) (x : Frond) (t : State) : Prop :=
  let r := unitRun unit s x
  (r.blocked = true → t = putFrond r.base (waitFrond x r.fr)) ∧
  (r.blocked = false → ∀ y, r.stop = some y → t = haltFrond r.st r.fr y) ∧
  (r.blocked = false → r.stop = none →
    ∀ g, r.st.fronds.find? (fun y => y.is x.region x.queue x.idx) = some g → g.phase = .working → g.abort = false →
      ∃ z, t = putFrond r.st z ∧ (z.rep, z.unit, z.worked) = progressed r.fr ∧ z.phase = r.fr.phase ∧ z.words = r.fr.words ∧
        z.grants = [] ∧ z.parked = none ∧ z.page = none)

/-- Up to `k` units of the frond take `s` to `t`: fewer where it can go on no longer. -/
def Goes (op : Nat) (unit : Run → Run) (f : FrondRef) : Nat → State → State → Prop
  | 0, s, t => t = s
  | k + 1, s, t =>
    ((∀ x, findFrond s f = some x → canRun s x op = false) ∧ t = s) ∨
    ∃ x m, findFrond s f = some x ∧ canRun s x op = true ∧ OneUnit unit s x m ∧ Goes op unit f k m t

/-- A command that lets the engines work on fronds of an opcode. It leaves the state alone where there is no such frond; else it
runs the units up to the end of `n` more groups, or rounds, and no further; and a unit that neither waits nor fails
completes: the frond has moved on by one unit, and registers, memory and tiles are what the unit made of them. -/
def Works (op : Nat) (unit : Run → Run) (c : FrondRef → Nat → Instr) (rightKind : Frond → Bool) : Prop :=
  ∀ (f : FrondRef) (n : Nat) (s : State),
    (findFrond s f = none → Idles (c f n) s) ∧
    (∀ x, findFrond s f = some x →
      (rightKind x = false ∨ canRun s x op = false → Idles (c f n) s) ∧
      (rightKind x = true → ∃ t, Does (c f n) s t ∧ Goes op unit f (n * stopSpan x - x.unit % stopSpan x) s t) ∧
      (rightKind x = true → canRun s x op = true → n * stopSpan x = x.unit % stopSpan x + 1 →
        let r := unitRun unit s x
        r.blocked = false → r.stop = none →
        (∃ g, r.st.fronds.find? (fun y => y.is x.region x.queue x.idx) = some g ∧ g.phase = .working ∧ g.abort = false) →
        (r.fr.region, r.fr.queue, r.fr.idx) = (x.region, x.queue, x.idx) →
        ∃ t g, Does (c f n) s t ∧ findFrond t f = some g ∧ (g.rep, g.unit, g.worked) = progressed r.fr ∧
          t.regs = r.st.regs ∧ t.mem = r.st.mem ∧ t.tiles = r.st.tiles ∧ t.log = r.st.log ∧ t.links = r.st.links))

/-- Rows of the opcode index: an opcode, its command, and what a progress unit of it is. -/
def AllWork (rows : List (Nat × (FrondRef → Nat → Instr) × (Run → Run))) : Prop :=
  ∀ row ∈ rows, Works row.1 row.2.2 row.2.1 (fun _ => true)
end Sys2Proof.Claims

/-- The control fronds, the streams and the copy engine. A unit of NOP, WAIT, SIGNAL and FENCE does nothing: their waits are
met before acceptance and their signals go out at release (R72, R199, R211, R218). -/
def Sys2Proof.Claims.ControlAndCopyFrondsWork : Prop :=
  AllWork [(0x000, .nop, id), (0x001, .wait, id), (0x002, .signal, id), (0x003, .fence, id),
    (0x100, .move, copyUnit), (0x101, .fill, fillUnit), (0x102, .prefetch, copyUnit), (0x110, .copy, copyUnit),
    (0x111, .relayout, copyUnit), (0x112, .transpose, transposeUnit), (0x113, .permute, permuteUnit)]

/-- The vector engine, reductions, normalizations and functions (R325–R369): each unit is 1,024 elements, or a whole number
of segments. -/
def Sys2Proof.Claims.VectorFrondsWork : Prop :=
  AllWork [(0x300, .add, ewUnit), (0x301, .sub, ewUnit), (0x302, .mul, ewUnit), (0x303, .fma, ewUnit), (0x304, .min, ewUnit),
    (0x305, .max, ewUnit), (0x306, .abs, ewUnit), (0x307, .neg, ewUnit), (0x308, .div, ewUnit), (0x309, .sqrt, ewUnit),
    (0x30A, .cmp, ewUnit), (0x30B, .select, ewUnit), (0x30C, .logic, ewUnit), (0x30D, .shift, ewUnit)] ∧
  AllWork [(0x310, .radd, ewUnit), (0x311, .rsub, ewUnit), (0x312, .rmul, ewUnit), (0x320, .lanePermute, laneUnit),
    (0x321, .broadcast, broadcastUnit), (0x400, .rsum, reduceUnit), (0x401, .rmax, reduceUnit), (0x402, .rmin, reduceUnit),
    (0x403, .rargmax, reduceUnit), (0x404, .moments, segUnit momentsSeg), (0x410, .layernorm, segUnit layerSeg),
    (0x411, .rmsnorm, segUnit rmsSeg), (0x500, .func, funcUnit), (0x510, .softmaxStep, segUnit stepRow),
    (0x511, .softmaxCorrect, segUnit correctRow)]

/-- The matrix engine, tiles, conversions and gathers (R134–R140, R213–R222, R309–R324, R370–R380). -/
def Sys2Proof.Claims.MatrixTileAndConversionFrondsWork : Prop :=
  AllWork [(0x200, .matmul, matUnit), (0x201, .matmulAcc, matUnit), (0x202, .matmulEpi, matUnit),
    (0x210, .resMatmul, matUnit), (0x211, .baseconvM, polyUnit), (0x330, .tileShape, shapeUnit),
    (0x331, .tileLoad, rowUnit loadElem), (0x332, .tileStore, rowUnit storeElem), (0x333, .tileSave, saveUnit),
    (0x334, .tileRestore, restoreUnit), (0x600, .convert, convUnit), (0x601, .packInt4, convUnit),
    (0x602, .unpackInt4, convUnit), (0x610, .fixToRes, fixUnit), (0x611, .resToFix, fixUnit), (0x700, .gather, gatherUnit),
    (0x701, .scatter, scatterUnit), (0x702, .scatterAdd, scatterAddUnit)]

/-- The polynomial engine, key switching and the scheme fronds (R226–R301). -/
def Sys2Proof.Claims.PolynomialAndSchemeFrondsWork : Prop :=
  AllWork [(0x800, .ntt, polyUnit), (0x801, .intt, polyUnit), (0x810, .padd, polyUnit), (0x811, .psub, polyUnit),
    (0x812, .pmul, polyUnit), (0x813, .pmulPlain, polyUnit), (0x814, .pneg, polyUnit), (0x820, .rescale, polyUnit),
    (0x821, .modraise, polyUnit), (0x822, .baseconvP, polyUnit), (0x823, .moddrop, polyUnit), (0x830, .tensor, polyUnit)] ∧
  AllWork [(0x900, .keyswitch, kUnit), (0x901, .relin, kUnit), (0x902, .rotate, kUnit), (0x903, .conj, kUnit),
    (0x904, .hoistDecomp, kUnit), (0x905, .hoistRotate, kUnit), (0x910, .automorph, kUnit), (0xA00, .sampleExtract, xUnit),
    (0xA01, .lweKeyswitch, xUnit), (0xA02, .blindRotate, xUnit), (0xA03, .repack, xUnit), (0xA04, .maskedExport, xUnit),
    (0xA05, .maskedImport, xUnit)]

/-- Shares and randomness, and the collectives (R302–R308, R382–R396). -/
def Sys2Proof.Claims.ShareAndCollectiveFrondsWork : Prop :=
  AllWork [(0xB00, .shareSplit, shareUnit splitElem), (0xB01, .beaverMul, shareUnit beaverElem), (0xB02, .shareOpen, openUnit),
    (0xB10, .randError, shareUnit randElem), (0xB11, .randUniform, shareUnit randElem), (0xB12, .flood, shareUnit floodElem),
    (0xB13, .mask, shareUnit randElem), (0xC00, .send, sendUnit), (0xC01, .recv, recvUnit), (0xC10, .reduceScatter, ringUnit),
    (0xC11, .allGather, ringUnit), (0xC12, .allReduce, ringUnit), (0xC13, .bcast, bcastUnit), (0xC20, .teeArm, teeArmUnit)]

/-- Epoch copies, background fills, step boundaries and the service fronds.
(R404, R410, R418, R421, R449, R450). -/
def Sys2Proof.Claims.ProtectionAndServiceFrondsWork : Prop :=
  Works 0xD01 epochUnit .epochSnapshot (fun x => parF x 0 0 2 == 0) ∧
  Works 0xD01 epochUnit .epochRestore (fun x => parF x 0 0 2 == 1) ∧
  Works 0xD03 boundaryUnit .standinMarkBoundary (fun x => parF x 0 0 2 == 1) ∧
  AllWork [(0xD02, .gemmaFill, fillUnitOut), (0xE01, .scrubRange, scrubUnit), (0xE02, .logMark, markUnit)] ∧
  (∀ fails : List CellSel, Works 0xE00 (testUnit fails) (fun f n => .selftest f n fails) (fun _ => true))

/-- Every opcode whose engines work by progress units has its command, which runs those units (R71, R88, R93). -/
def Obligations.FrondsWork : Prop :=
  Claims.ControlAndCopyFrondsWork ∧
  Claims.VectorFrondsWork ∧
  Claims.MatrixTileAndConversionFrondsWork ∧
  Claims.PolynomialAndSchemeFrondsWork ∧
  Claims.ShareAndCollectiveFrondsWork ∧
  Claims.ProtectionAndServiceFrondsWork

/-- LOG_MARK logs its event with the acceptance beat and SEQV, and the mark's words 1–3 as its payload; it belongs to no
activity, and its class latency is the control class's 4 bt (R72, R451). -/
def Obligations.LogMarkLogsItsMark : Prop :=
  ∀ (f : FrondRef) (s : State) (x : Frond), findFrond s f = some x → opcodeOf x = 0xE02 →
    activityOf s x = none ∧
    (∀ p, specOf s x = some p → ∀ sh g k, p.latency s sh g k = 4) ∧
    (canRun s x 0xE02 = true → x.units = 1 → x.unit = 0 → x.group = 0 → x.abort = false → x.lines = [] →
      ∃ t, Does (.logMark f 1) s t ∧ SameMemory s t ∧
        t.log = (logEntry s { frondEvent s x 0x6030 (par x 1 + par x 2 * 2 ^ 32 + par x 3 * 2 ^ 64) with beat := x.acc }).log ∧
        (findFrond t f).map (fun g => (g.rep, g.unit, g.worked)) = some (progressed x))

/-- A BARRIER arrives once. In scope 0, on a set of regions, the arrival is kept until every region of the set has arrived:
on that beat G each waiting barrier gets its release beat G + 28. In scope 1, at the root of a group of one, the release
beat is given at once, no earlier than 16 bt later (R64, R72, R391). -/
def Sys2Proof.Claims.BarriersArrive : Prop :=
  ∀ (f : FrondRef) (n : Nat) (s : State), s.Canonical →
    (findFrond s f = none → Idles (.barrier f n) s) ∧
    (∀ x, findFrond s f = some x →
      (n = 0 ∨ canRun s x 0x004 = false ∨ x.work ≠ [] → Idles (.barrier f n) s) ∧
      (0 < n → canRun s x 0x004 = true → x.work = [] → nbit (par x 2) 0 = false →
        let key := localKey x
        let mine : Arrival := { scope1 := false, group := key, rank := x.region, level := level s, fresh := false,
                                beat := beat s, src := 0 }
        let here (k : Nat) (l : List Arrival) : Bool := l.any (fun a => !a.scope1 && a.group == key && a.rank == k)
        let all := (List.range 8).all (fun k => !nbit (par x 3) k || k == x.region || here k s.links.arrivals)
        (all = false → Does (.barrier f n) s
          (putFrond { s with links := { s.links with arrivals := s.links.arrivals ++ [mine] } } { x with work := [1] })) ∧
        (all = true → nbit (par x 3) x.region = true → x.wake = none →
          (∀ g ∈ s.fronds, localBarrier g x.region key = true → g.is x.region x.queue x.idx = true) →
          ∃ t, Does (.barrier f n) s t ∧ t.regs = s.regs ∧ SameMemory s t ∧
            (findFrond t f).map (fun g => g.wake) = some (some (beat s + 28)) ∧
            (∀ k < 8, nbit (par x 3) k = true → k ≠ x.region → ∀ y, s.fronds.find? (fun g => localBarrier g k key) = some y →
              ∃ z ∈ t.fronds, z.is y.region y.queue y.idx = true ∧ z.wake = some (beat s + 28)))) ∧
      (0 < n → canRun s x 0x004 = true → x.work = [] → x.wake = none → nbit (par x 2) 0 = true → ∀ g,
        groupIdx s (parF x 0 0 16) = some g → groupSize s g = 1 → answersTo s (memberOf s g 0) = true →
        rankOf s g (identOf s x) = some 0 → standinFor s = none → standinRuns s = false →
        ∃ t w, Does (.barrier f n) s t ∧ (findFrond t f).map (fun y => (y.work, y.wake)) = some ([1], some w) ∧ beat s + 16 ≤ w))

/-- TEE_APPLY ends its work when every byte has landed and the step's COMMIT is released, and waits until then; what it has
waited for is not touched (R404, R407). A COMMIT that holds its release beat takes the drop list and then writes its
record; under JOB_STATE_LOST it does nothing (R404, R406, R422). -/
def Sys2Proof.Claims.TeeApplyAndCommitWork : Prop :=
  ∀ (f : FrondRef) (s : State), s.Canonical →
    (findFrond s f = none → ∀ n, Idles (.teeApply f n) s ∧ Idles (.standinMarkCommit f n) s) ∧
    (∀ x, findFrond s f = some x →
      (canRun s x 0xD00 = false → ∀ n, Idles (.teeApply f n) s) ∧
      (canRun s x 0xD00 = true → x.sent ≠ 0 → x.unit = 0 → x.units = 1 → x.abort = false →
        s.links.ghosts = [] → s.links.early = [] →
        let landedAll := landed x = 2 ^ landSize x - 1
        let stepDone := x.wake.isSome = true ∨ s.fail.commitStep = some (reg s rFailStep).toNat
        ∃ t, Does (.teeApply f 1) s t ∧ SameMemory s t ∧ t.regs = s.regs ∧
          (landedAll ∧ stepDone → (findFrond t f).map (fun g => (g.rep, g.unit, g.worked)) = some (progressed x)) ∧
          (¬(landedAll ∧ stepDone) → (findFrond t f).map (fun g => (g.rep, g.unit, g.worked)) = some (x.rep, x.unit, x.worked))) ∧
      (canRun s x 0xD03 = false ∨ parF x 0 0 2 ≠ 0 ∨ s.fail.lost = true → ∀ n, Idles (.standinMarkCommit f n) s) ∧
      (canRun s x 0xD03 = true → parF x 0 0 2 = 0 → s.fail.lost = false → x.wake.isSome = true → s.fail.rollback = false →
        (x.work = [1] → ∃ t, Does (.standinMarkCommit f 1) s t ∧ SameMemory s t ∧ t.regs = s.regs ∧
          (s.fail.drops = [] → t.fail.redo = [] ∧ t.fail.redone = false) ∧
          (s.fail.drops ≠ [] → t.fail.redo = s.fail.replay.map (rerunOf s) ∧ t.fail.redone = true) ∧
          (findFrond t f).map (fun g => g.work) = some [3]) ∧
        (x.work = [3] → s.fail.redo = [] → failState s ≠ 7 → x.abort = false → (slotOf x 3).empty = true → x.unit = 0 → x.units = 1 →
          ∃ t, Does (.standinMarkCommit f 1) s t ∧ SameMemory s t ∧ t.regs = s.regs ∧
            (findFrond t f).map (fun g => (g.rep, g.unit, g.worked)) = some (progressed x))))

/-- NOP, WAIT, SIGNAL and FENCE do nothing: their work ends at once, in each repetition (R72). -/
def Sys2Proof.Claims.ControlFrondsDoNothing : Prop :=
  ∀ (f : FrondRef) (s : State) (x : Frond), findFrond s f = some x → x.lines = [] → x.grants = [] → x.sent = 0 → x.units = 1 →
    x.unit = 0 → repeatOf x = x.rep → x.group = 0 →
    ∀ row ∈ [(0x000, Instr.nop), (0x001, .wait), (0x002, .signal), (0x003, .fence)], canRun s x row.1 = true → x.abort = false →
      ∃ z, Does (row.2 f 1) s (putFrond s z) ∧ z = { x with rep := z.rep, worked := true, pre := [] }

/-- The fronds of the control class (R72). -/
def Obligations.ControlFrondsWork : Prop :=
  Claims.ControlFrondsDoNothing ∧
  Claims.BarriersArrive

/-- A BOUNDARY without a record to write, at a module that no partner and no loss concerns, advances FAIL.STEP and nothing
else in registers and memory (R404). -/
def Sys2Proof.Claims.BoundariesAdvanceTheStep : Prop :=
  ∀ (f : FrondRef) (s : State) (x : Frond), s.Canonical → findFrond s f = some x → canRun s x 0xD03 = true →
    parF x 0 0 2 = 1 → x.units = 1 → x.unit = 0 → x.group = 0 → x.abort = false → (slotOf x 3).empty = true →
    partnerOf s = none → standinFor s = none → s.fail.handover = none → s.fail.reseed = false →
    ∃ t, Does (.standinMarkBoundary f 1) s t ∧ SameMemory s t ∧
      Regs s t [(rFailStep, BitVec.ofNat 64 ((reg s rFailStep).toNat + 1))]

/-- The fronds of surviving failures that are commands of their own (R404–R422). -/
def Obligations.FailureFrondsWork : Prop :=
  Claims.BoundariesAdvanceTheStep ∧
  Claims.TeeApplyAndCommitWork

namespace Sys2Proof.Claims
/-- The byte of memory that a device address names. -/
def byteKey (s : State) (a : Nat) : Option Nat := memKey s (resolve s a)

/-- The address of element `e` of a slot in the frond's repetition. -/
def elemAddr (x : Frond) (d : Slot) (e : Nat) : Nat := d.addr (d.pos x.rep e)

/-- Element `e` of a slot, as the frond's engine takes it from memory (R181, R182). -/
def elemOf (s : State) (x : Frond) (d : Slot) (e : Nat) : Nat :=
  unitBits d.fmt (d.within (d.pos x.rep e)) (natAt s (elemAddr x d e) (fmtUnit d.fmt))

/-- An address at which a stream neither waits nor meets a check: a tower whose cold tensors are settled, or a mat outside
handoff regions and RES36 pages. -/
def Open (s : State) (x : Frond) (a : Nat) : Prop :=
  (∃ h, resolve s a = .hbm h ∧ coldHeld s h = false) ∨
  (∃ m o, resolve s a = .mat m o ∧ (m = x.region → inHandoff s m o = false) ∧ pclass s m o ≠ 2)

/-- Elements `lo` to `lo + n - 1` of the sources in `l` and of the destination in slot 3 can be read and written straight
through: no circular region, no RES36 sectors, a destination of whole bytes; each element of the destination lies in
bytes of its own, and no source element is read after its bytes have been written. -/
structure Straight (s : State) (x : Frond) (l : List Nat) (src : Nat → Nat) (lo n : Nat) : Prop where
  clean : s.upsets = []
  fresh : x.lines = [] ∧ x.grants = [] ∧ x.pre = [] ∧ x.abort = false
  kinds : ∀ i ∈ l, (slotOf x i).circ = false ∧ (slotOf x i).fmt ≠ 0x10
  dest : (slotOf x 3).circ = false ∧ [1, 2, 3, 4, 5, 8, 9, 0xA, 0xB].contains (slotOf x 3).fmt = true
  reads : ∀ i ∈ l, ∀ e, lo ≤ e → e < lo + n → Open s x (elemAddr x (slotOf x i) (src e))
  writes : ∀ e, lo ≤ e → e < lo + n → Open s x (elemAddr x (slotOf x 3) e) ∧
    ∀ j < fmtUnit (slotOf x 3).fmt, (byteKey s (elemAddr x (slotOf x 3) e + j)).isSome = true
  apart : ∀ e e', lo ≤ e → e < lo + n → lo ≤ e' → e' < lo + n → e ≠ e' →
    ∀ j < fmtUnit (slotOf x 3).fmt, ∀ j' < fmtUnit (slotOf x 3).fmt,
      byteKey s (elemAddr x (slotOf x 3) e + j) ≠ byteKey s (elemAddr x (slotOf x 3) e' + j')
  order : ∀ i ∈ l, ∀ e e', lo ≤ e → e < e' → e' < lo + n →
    ∀ j < fmtUnit (slotOf x 3).fmt, ∀ j' < fmtUnit (slotOf x i).fmt,
      byteKey s (elemAddr x (slotOf x 3) e + j) ≠ byteKey s (elemAddr x (slotOf x i) (src e') + j')

/-- In `t` elements `lo` to `lo + n - 1` of slot 3 hold the values of `v`, and every byte of memory beside the elements that have one is
what it is in `s`; an element without a value is left as it is. -/
def Wrote (s : State) (x : Frond) (lo n : Nat) (v : Nat → Option Nat) (t : State) : Prop :=
  let w := fmtUnit (slotOf x 3).fmt
  (∀ e, lo ≤ e → e < lo + n → ∀ y ∈ v e, natAt t (elemAddr x (slotOf x 3) e) w = y % 2 ^ (8 * w)) ∧
  (∀ b, (∀ e, lo ≤ e → e < lo + n → (v e).isSome = true → ∀ j < w, byteKey s b ≠ byteKey s (elemAddr x (slotOf x 3) e + j)) →
    byteAt t b = byteAt s b)
end Sys2Proof.Claims

/-- A unit of MOVE, PREFETCH, COPY, RELAYOUT and PERMUTE copies its elements in order, unchanged: element e of slot 3 takes
the source element that the opcode gives it, e itself, or under PERMUTE the one whose loop indices are permuted; FILL
writes VALUE. No other byte of memory changes, and no tile (R181, R199, R211). -/
def Obligations.CopiesMoveTheirElements : Prop :=
  (∀ (f : FrondRef) (n : Nat) (s : State) (x : Frond), s.Canonical → findFrond s f = some x →
    n * stopSpan x = x.unit % stopSpan x + 1 →
    ∀ row ∈ [(0x100, Instr.move, (fun e : Nat => e)), (0x102, .prefetch, fun e => e), (0x110, .copy, fun e => e),
        (0x111, .relayout, fun e => e), (0x113, .permute, permSource x)],
      canRun s x row.1 = true → (slotOf x 0).fmt = (slotOf x 3).fmt →
      let d := slotOf x 3
      let lo := x.unit * unitElems d.fmt
      let m := min (unitElems d.fmt) (d.elems - lo)
      Straight s x [0] row.2.2 lo m →
      ∃ t g, Does (row.2.1 f n) s t ∧ Wrote s x lo m (fun e => some (elemOf s x (slotOf x 0) (row.2.2 e))) t ∧
        findFrond t f = some g ∧ (g.rep, g.unit, g.worked) = progressed x ∧ g.skip = x.skip ∧
        (∀ o, o ≠ rCpy x.region 8 → reg t o = reg s o) ∧
        t = { s with regs := t.regs, mem := t.mem, fronds := t.fronds }) ∧
  (∀ (f : FrondRef) (n : Nat) (s : State) (x : Frond), s.Canonical → findFrond s f = some x →
    n * stopSpan x = x.unit % stopSpan x + 1 → canRun s x 0x101 = true →
    let d := slotOf x 3
    let lo := x.unit * unitElems d.fmt
    let m := min (unitElems d.fmt) (d.elems - lo)
    Straight s x [] id lo m →
    ∃ t g, Does (.fill f n) s t ∧ Wrote s x lo m (fun _ => some (par x 0 + par x 1 * 2 ^ 32)) t ∧
      findFrond t f = some g ∧ (g.rep, g.unit, g.worked) = progressed x ∧ g.skip = x.skip ∧
      (∀ o, o ≠ rCpy x.region 8 → reg t o = reg s o) ∧
      t = { s with regs := t.regs, mem := t.mem, fronds := t.fronds })

namespace Sys2Proof.Claims
/-- Element `e` of an operand: a slot's, a tile's, or the immediate (R327, R328). -/
def operandOf (s : State) (x : Frond) (i e : Nat) : Nat :=
  match opndOf x i with
  | .slot k => elemOf s x (slotOf x k) e
  | .tile k => tileElem s k e
  | .imm v => v
  | .none => 0

/-- The slots that operands A, B and C name. -/
def sourceSlots (x : Frond) : List Nat := [0, 1, 2].filterMap (fun i => match opndOf x i with
  | .slot k => some k
  | _ => none)

/-- The element-wise opcodes and their commands. -/
def elementWise : List (Nat × (FrondRef → Nat → Instr)) :=
  [(0x300, .add), (0x301, .sub), (0x302, .mul), (0x303, .fma), (0x304, .min), (0x305, .max), (0x306, .abs), (0x307, .neg),
   (0x308, .div), (0x309, .sqrt), (0x30B, .select), (0x30C, .logic), (0x30D, .shift)]
end Sys2Proof.Claims

/-- A unit of an element-wise frond with a destination in memory writes, in each active element of its 1,024, the
opcode's value of the elements of A, B and C, be they in memory, in tiles or immediate; an inactive element becomes 0 under ZERO and else
stays; no other byte of memory changes, and no tile (R326–R336). -/
def Obligations.ElementWiseFrondsCompute : Prop :=
  ∀ (f : FrondRef) (n : Nat) (s : State) (x : Frond), s.Canonical → findFrond s f = some x →
    n * stopSpan x = x.unit % stopSpan x + 1 →
    ∀ row ∈ elementWise, canRun s x row.1 = true → opndOf x 3 = .slot 3 →
      (∀ k ∈ x.tiles, regB s (rTileStatOf k) 8 = false) →
      (x.tested = true ∨ opsLate (vecRules x) x s (shapesNow s) = none) →
      let d := slotOf x 3
      let lo := x.unit * 1024
      let m := min 1024 (d.elems - lo)
      let fmt := (opFmt x (some (shapesNow s)) 0).getD 0
      let bits := fmtBits (if selKind x 1 = 3 then (immFmt (vecRules x) x (some (shapesNow s)) 1).getD 0
        else (opFmt x (some (shapesNow s)) 1).getD 0)
      let active (e : Nat) : Bool := !(vMaskable row.1 && vMask x) || nbit (operandOf s x 2 e) 0
      fmt ≠ 0x10 → Straight s x (sourceSlots x) id lo m →
      ∃ t g, Does (row.2 f n) s t ∧
        Wrote s x lo m (fun e =>
          if active e then
            some (ewValue x fmt bits 0 (operandOf s x 0 e) (operandOf s x 1 e) (operandOf s x 2 e)
              (drawOf x (arithOf x false) e)).1
          else if vZero x then some 0 else none) t ∧
        findFrond t f = some g ∧ (g.rep, g.unit, g.worked) = progressed x ∧ g.skip = x.skip ∧
        (∀ o, o ≠ vbReg x 8 → o ≠ vbReg x 0x10 → o ≠ rCpy x.region 8 → reg t o = reg s o) ∧
        t = { s with regs := t.regs, mem := t.mem, fronds := t.fronds, fractions := t.fractions }

/-- The values of the element-wise opcodes on integers: exact, then wrapped to the format or, under SAT, brought to its
nearest limit; of the residue opcodes modulo the prime; and SELECT, LOGIC and SHIFT on bits (R332–R336). -/
def Sys2Proof.Claims.ElementValues : Prop :=
  (∀ (x : Frond) (fmt bw q a b c r16 : Nat), [8, 9, 0xA, 0xB].contains fmt = true →
    let l := readInt fmt a
    let y := readInt fmt b
    let z := readInt fmt c
    let fit (v : Int) : Nat :=
      wrapInt (fmtBits fmt) (if vSat x then (if v < intMin fmt then intMin fmt else if intMax fmt < v then intMax fmt else v) else v)
    let value := (ewValue x fmt bw q a b c r16).1
    (opcodeOf x = 0x300 → value = fit (l + y)) ∧ (opcodeOf x = 0x301 → value = fit (l - y)) ∧
    (opcodeOf x = 0x302 → value = fit (l * y)) ∧ (opcodeOf x = 0x303 → value = fit (l * y + z)) ∧
    (opcodeOf x = 0x304 → value = fit (min l y)) ∧ (opcodeOf x = 0x305 → value = fit (max l y)) ∧
    (opcodeOf x = 0x306 → value = fit l.natAbs) ∧ (opcodeOf x = 0x307 → value = fit (-l)) ∧
    (opcodeOf x = 0x30A → (ewValue x fmt bw q a b c r16) = (b2n (match vFunc x with
      | 0 => decide (l = y) | 1 => decide (l ≠ y) | 2 => decide (l < y) | 3 => decide (l ≤ y) | 4 => decide (y < l)
      | 5 => decide (y ≤ l) | 6 => true | _ => false), 0)) ∧
    (opcodeOf x = 0x30B → ewValue x fmt bw q a b c r16 = (if nbit c 0 then a else b, 0)) ∧
    (opcodeOf x = 0x30D → vFunc x = 0 → a < 2 ^ fmtBits fmt → value = a * 2 ^ (b % 2 ^ bw) % 2 ^ fmtBits fmt) ∧
    (opcodeOf x = 0x30D → vFunc x = 1 → a < 2 ^ fmtBits fmt → value = a / 2 ^ (b % 2 ^ bw)) ∧
    (opcodeOf x = 0x30D → vFunc x = 2 → a < 2 ^ fmtBits fmt →
      value = wrapInt (fmtBits fmt) (sext (fmtBits fmt) a / (2 ^ (b % 2 ^ bw) : Int)))) ∧
  (∀ (x : Frond) (bw q a b c r16 : Nat), a < q → b < q → q ≤ 2 ^ 36 →
    let v := ewValue x 0x10 bw q a b c r16
    (opcodeOf x = 0x310 → v = ((a + b) % q, 0)) ∧ (opcodeOf x = 0x311 → v = ((a + q - b) % q, 0)) ∧
    (opcodeOf x = 0x312 → v = (a * b % q, 0)) ∧ (opcodeOf x = 0x30B → v = (if nbit c 0 then a else b, 0)))

/-- LANE_PERMUTE's fixed permutations are permutations: within a group every source place is taken by exactly one
destination place; ROTATE by AMOUNT and by the rest, REVERSE twice, and DEINTERLEAVE after INTERLEAVE give every element
its place again (R337). -/
def Sys2Proof.Claims.LanePermutationsPermute : Prop :=
  ∀ (g amount : Nat), (∃ k, 1 ≤ k ∧ g = 2 ^ k) → amount < g →
    (∀ p, 1 ≤ p → p ≤ 4 → ∀ y < g, ∃ k < g, lanePlace p g amount k = y ∧ ∀ j < g, lanePlace p g amount j = y → j = k) ∧
    (∀ k < g, lanePlace 1 g ((g - amount) % g) (lanePlace 1 g amount k) = k) ∧
    (∀ k < g, lanePlace 2 g amount (lanePlace 2 g amount k) = k) ∧
    (∀ k < g, lanePlace 3 g amount (lanePlace 4 g amount k) = k)

/-- The values of element-wise opcodes, and the permutations of lanes (R332–R337). -/
def Obligations.ElementAndLaneValues : Prop :=
  Claims.ElementValues ∧
  Claims.LanePermutationsPermute

/-- A value that a float format holds, other than a NaN, is read without a flag in strict mode and written again with its own
bits and without a flag, in every rounding mode; ±∞ without SAT (R102, R106, R110–R112). -/
def Obligations.FloatsKeepTheirBits : Prop :=
  ∀ (fmt : Nat) (a : Arith) (b r16 : Nat), [1, 2, 3, 4, 5].contains fmt = true → a.strict = true → r16 < 2 ^ 16 →
    b < 2 ^ fmtBits fmt →
    let v := readFloat fmt true b
    v.1 ≠ .nan → (a.sat = false ∨ ∀ neg, v.1 ≠ .inf neg) → v.2 = 0 ∧ writeFloat fmt a v.1 r16 = (b, 0)
end

