-- ==== Sys2Proof/Laws/Bits.lean ====
section
/-! SUPPORT. Bit fields of a register word: what a field holds after it has been set, and that the others keep theirs. -/

namespace Sys2Proof.Machine
open Sys2Proof

theorem testBit_mask {n k : Nat} : (2 ^ n - 1).testBit k = decide (k < n) := Nat.testBit_two_pow_sub_one n k

theorem getLsbD_fmask {lo n i : Nat} (hi : i < 64) : (fmask lo n).getLsbD i = (decide (lo ≤ i) && decide (i < lo + n)) := by
  unfold fmask
  rw [BitVec.getLsbD_ofNat, Nat.testBit_shiftLeft, testBit_mask]
  by_cases h : lo ≤ i
  · have : (i - lo < n) ↔ (i < lo + n) := by omega
    simp [h, hi, this]
  · simp [h]

/-- A bit of a word of which a field has been set. -/
theorem getLsbD_putFld {w : Word} {lo n v i : Nat} (hi : i < 64) :
    (putFld w lo n v).getLsbD i = if lo ≤ i ∧ i < lo + n then v.testBit (i - lo) else w.getLsbD i := by
  unfold putFld
  rw [BitVec.getLsbD_or, BitVec.getLsbD_and, BitVec.getLsbD_not, getLsbD_fmask hi, BitVec.getLsbD_ofNat,
    Nat.testBit_shiftLeft, Nat.testBit_mod_two_pow]
  by_cases h1 : lo ≤ i
  · by_cases h2 : i < lo + n
    · have h3 : i - lo < n := by omega
      simp [h1, h2, h3, hi]
    · have h3 : ¬ i - lo < n := by omega
      simp [h1, h2, h3, hi]
  · simp [h1, hi]

theorem testBit_fld {w : Word} {lo n k : Nat} : (fld w lo n).testBit k = (decide (k < n) && w.getLsbD (lo + k)) := by
  unfold fld nfld
  rw [Nat.testBit_mod_two_pow, Nat.testBit_shiftRight]
  rfl

/-- A field that has been set holds the low bits of what it was set to. -/
theorem fld_putFld_same {w : Word} {lo n v : Nat} (h : lo + n ≤ 64) : fld (putFld w lo n v) lo n = v % 2 ^ n := by
  apply Nat.eq_of_testBit_eq
  intro k
  rw [testBit_fld, Nat.testBit_mod_two_pow]
  by_cases hk : k < n
  · rw [getLsbD_putFld (by omega), if_pos (by omega)]
    simp [hk]
  · simp [hk]

/-- A field that does not overlap the one set is unchanged. -/
theorem fld_putFld_apart {w : Word} {lo n v lo' n' : Nat} (h : lo' + n' ≤ 64) (d : lo' + n' ≤ lo ∨ lo + n ≤ lo') :
    fld (putFld w lo n v) lo' n' = fld w lo' n' := by
  apply Nat.eq_of_testBit_eq
  intro k
  rw [testBit_fld, testBit_fld]
  by_cases hk : k < n'
  · rw [getLsbD_putFld (by omega), if_neg (by omega)]
  · simp [hk]

theorem bitOf_putFld_apart {w : Word} {lo n v i : Nat} (hi : i < 64) (d : i < lo ∨ lo + n ≤ i) :
    bitOf (putFld w lo n v) i = bitOf w i := by
  unfold bitOf
  rw [getLsbD_putFld hi, if_neg (by omega)]

theorem bitOf_putBit_same {w : Word} {i : Nat} {b : Bool} (hi : i < 64) : bitOf (putBit w i b) i = b := by
  unfold bitOf putBit
  rw [getLsbD_putFld hi, if_pos (by omega)]
  cases b <;> simp [b2n]

theorem bitOf_putBit_apart {w : Word} {i j : Nat} {b : Bool} (hj : j < 64) (d : j ≠ i) :
    bitOf (putBit w i b) j = bitOf w j := by
  unfold putBit
  exact bitOf_putFld_apart hj (by omega)

theorem fld_lt {w : Word} {lo n : Nat} : fld w lo n < 2 ^ n := Nat.mod_lt _ (Nat.two_pow_pos n)

end Sys2Proof.Machine
end

