-- ==== Sys2Proof/Laws/Folds.lean ====
section
/-! SUPPORT. What every turn of a loop keeps, the loop keeps. -/

namespace Sys2Proof.Machine
open Sys2Proof

variable {σ α β γ : Type} {P : σ → Prop}

theorem foldl_keeps {f : σ → α → σ} {l : List α} {s : σ} (h : ∀ x a, P x → P (f x a)) (hs : P s) : P (l.foldl f s) := by
  induction l generalizing s with
  | nil => exact hs
  | cons a t ih => exact ih (h s a hs)

theorem foldl_fst_keeps {f : σ × β → α → σ × β} {l : List α} {s : σ × β} (h : ∀ x a, P x.1 → P (f x a).1) (hs : P s.1) :
    P (l.foldl f s).1 := by
  induction l generalizing s with
  | nil => exact hs
  | cons a t ih => exact ih (h s a hs)

theorem foldl_snd_keeps {f : β × σ → α → β × σ} {l : List α} {s : β × σ} (h : ∀ x a, P x.2 → P (f x a).2) (hs : P s.2) :
    P (l.foldl f s).2 := by
  induction l generalizing s with
  | nil => exact hs
  | cons a t ih => exact ih (h s a hs)

theorem foldl_snd_snd_keeps {f : β × γ × σ → α → β × γ × σ} {l : List α} {s : β × γ × σ}
    (h : ∀ x a, P x.2.2 → P (f x a).2.2) (hs : P s.2.2) : P (l.foldl f s).2.2 := by
  induction l generalizing s with
  | nil => exact hs
  | cons a t ih => exact ih (h s a hs)

theorem forRange_keeps {n lo : Nat} {f : Nat → σ → σ} {s : σ} (h : ∀ i x, P x → P (f i x)) (hs : P s) :
    P (forRange lo n f s) := by
  induction n generalizing lo s with
  | zero => exact hs
  | succ n ih => exact ih (h lo s hs)

theorem forRange_fst_keeps {n lo : Nat} {f : Nat → σ × β → σ × β} {s : σ × β} (h : ∀ i x, P x.1 → P (f i x).1)
    (hs : P s.1) : P (forRange lo n f s).1 := by
  induction n generalizing lo s with
  | zero => exact hs
  | succ n ih => exact ih (h lo s hs)

theorem forRange_snd_keeps {n lo : Nat} {f : Nat → β × σ → β × σ} {s : β × σ} (h : ∀ i x, P x.2 → P (f i x).2)
    (hs : P s.2) : P (forRange lo n f s).2 := by
  induction n generalizing lo s with
  | zero => exact hs
  | succ n ih => exact ih (h lo s hs)

theorem forWhile_keeps {n lo : Nat} {p : σ → Bool} {f : Nat → σ → σ} {s : σ} (h : ∀ i x, P x → P (f i x)) (hs : P s) :
    P (forWhile p lo n f s) := by
  induction n generalizing lo s with
  | zero => exact hs
  | succ n ih => unfold forWhile; split; exacts [hs, ih (h lo s hs)]

theorem forWhile_snd_keeps {n lo : Nat} {p : β × σ → Bool} {f : Nat → β × σ → β × σ} {s : β × σ}
    (h : ∀ i x, P x.2 → P (f i x).2) (hs : P s.2) : P (forWhile p lo n f s).2 := by
  induction n generalizing lo s with
  | zero => exact hs
  | succ n ih => unfold forWhile; split; exacts [hs, ih (h lo s hs)]

theorem forWhile_snd_snd_keeps {n lo : Nat} {p : β × γ × σ → Bool} {f : Nat → β × γ × σ → β × γ × σ} {s : β × γ × σ}
    (h : ∀ i x, P x.2.2 → P (f i x).2.2) (hs : P s.2.2) : P (forWhile p lo n f s).2.2 := by
  induction n generalizing lo s with
  | zero => exact hs
  | succ n ih => unfold forWhile; split; exacts [hs, ih (h lo s hs)]

theorem getD_keeps {o : Option σ} {s : σ} (h : ∀ y, o = some y → P y) (hs : P s) : P (o.getD s) := by
  cases o with
  | none => exact hs
  | some y => exact h y rfl

end Sys2Proof.Machine
end

