-- ==== Sys2Proof/Laws/Maps.lean ====
section
/-! SUPPORT. Sparse maps and sets: what a write changes, and that every operation keeps the canonical form. -/

namespace Sys2Proof.Machine
open Sys2Proof

variable {β : Type} [DecidableEq β] {d : Nat → β}

theorem mwfFrom_mono : ∀ {m : List (Nat × β)} {lo lo' : Nat}, lo' ≤ lo → mwfFrom d lo m = true → mwfFrom d lo' m = true
  | [], _, _, _, _ => rfl
  | (a, v) :: t, lo, lo', h, w => by
    simp only [mwfFrom, Bool.and_eq_true, decide_eq_true_eq] at w ⊢
    exact ⟨⟨le_trans h w.1.1, w.1.2⟩, w.2⟩

theorem mset_wfFrom : ∀ {m : List (Nat × β)} {lo k : Nat} {v : β}, lo ≤ k → mwfFrom d lo m = true →
    mwfFrom d lo (mset d m k v) = true
  | [], lo, k, v, h, _ => by
    unfold mset
    split <;> simp_all [mwfFrom]
  | (a, w) :: t, lo, k, v, h, hw => by
    simp only [mwfFrom, Bool.and_eq_true, decide_eq_true_eq] at hw
    unfold mset
    split
    · split
      · simp_all [mwfFrom]
      · simp only [mwfFrom, Bool.and_eq_true, decide_eq_true_eq]
        exact ⟨⟨h, ‹_›⟩, ⟨by omega, hw.1.2⟩, hw.2⟩
    · split
      · split
        · exact mwfFrom_mono (by omega) hw.2
        · subst k
          simp only [mwfFrom, Bool.and_eq_true, decide_eq_true_eq]
          exact ⟨⟨h, ‹_›⟩, hw.2⟩
      · simp only [mwfFrom, Bool.and_eq_true, decide_eq_true_eq]
        exact ⟨hw.1, mset_wfFrom (by omega) hw.2⟩

/-- A write keeps the canonical form. -/
theorem mset_wf {m : List (Nat × β)} {k : Nat} {v : β} (h : mwf d m = true) : mwf d (mset d m k v) = true :=
  mset_wfFrom (Nat.zero_le k) h

theorem mget_of_lt : ∀ {m : List (Nat × β)} {lo k : Nat}, k < lo → mwfFrom d lo m = true → mget d m k = d k
  | [], _, _, _, _ => rfl
  | (a, v) :: t, lo, k, h, w => by
    simp only [mwfFrom, Bool.and_eq_true, decide_eq_true_eq] at w
    unfold mget
    rw [if_neg (by omega), if_pos (by omega)]

theorem mget_mset_from : ∀ {m : List (Nat × β)} {lo k : Nat} {v : β} {j : Nat}, mwfFrom d lo m = true →
    mget d (mset d m k v) j = if j = k then v else mget d m j
  | [], lo, k, v, j, _ => by
    unfold mset
    split
    · simp only [mget]; split <;> simp_all
    · simp only [mget]; split
      · rfl
      · simp
  | (a, w) :: t, lo, k, v, j, hw => by
    simp only [mwfFrom, Bool.and_eq_true, decide_eq_true_eq] at hw
    have low : ∀ {i}, i < a + 1 → mget d t i = d i := fun h => mget_of_lt h hw.2
    unfold mset
    split
    · rename_i h
      split
      · rename_i hv
        split
        · subst hv; subst j; simp only [mget]; rw [if_neg (by omega), if_pos h]
        · rfl
      · simp only [mget]
        by_cases hj : j = k
        · simp [hj]
        · rw [if_neg hj, if_neg hj]
          by_cases h2 : j < k
          · rw [if_pos h2, if_neg (by omega), if_pos (by omega)]
          · rw [if_neg h2]
    · split
      · rename_i h1 h; subst h
        split
        · rename_i hv
          by_cases hj : j = k
          · rw [if_pos hj, hj, low (by omega), hv]
          · rw [if_neg hj]; simp only [mget]; rw [if_neg hj]
            split
            · rw [low (by omega)]
            · rfl
        · simp only [mget]
          by_cases hj : j = k
          · simp [hj]
          · simp [hj]
      · simp only [mget]
        rw [mget_mset_from hw.2]
        by_cases hj : j = k
        · rw [if_pos hj, if_neg (by omega), if_neg (by omega)]
          rw [if_pos hj]
        · simp [hj]

/-- A canonical map reads the value written at the key written, and elsewhere as before. -/
theorem mget_mset {m : List (Nat × β)} {k : Nat} {v : β} {j : Nat} (h : mwf d m = true) :
    mget d (mset d m k v) j = if j = k then v else mget d m j :=
  mget_mset_from h

theorem filter_wfFrom {p : Nat × β → Bool} : ∀ {m : List (Nat × β)} {lo : Nat}, mwfFrom d lo m = true →
    mwfFrom d lo (m.filter p) = true
  | [], _, _ => rfl
  | (a, v) :: t, lo, w => by
    simp only [mwfFrom, Bool.and_eq_true, decide_eq_true_eq] at w
    rw [List.filter_cons]
    split
    · simp only [mwfFrom, Bool.and_eq_true, decide_eq_true_eq]
      exact ⟨w.1, filter_wfFrom w.2⟩
    · exact mwfFrom_mono (by omega) (filter_wfFrom w.2)

/-- Taking entries out keeps the canonical form. -/
theorem filter_wf {p : Nat × β → Bool} {m : List (Nat × β)} (h : mwf d m = true) : mwf d (m.filter p) = true :=
  filter_wfFrom h

theorem swfFrom_mono : ∀ {m : List Nat} {lo lo' : Nat}, lo' ≤ lo → swfFrom lo m = true → swfFrom lo' m = true
  | [], _, _, _, _ => rfl
  | a :: t, lo, lo', h, w => by
    simp only [swfFrom, Bool.and_eq_true, decide_eq_true_eq] at w ⊢
    exact ⟨le_trans h w.1, w.2⟩

theorem sins_wfFrom : ∀ {m : List Nat} {lo k : Nat}, lo ≤ k → swfFrom lo m = true → swfFrom lo (sins m k) = true
  | [], lo, k, h, _ => by simp [sins, swfFrom, h]
  | a :: t, lo, k, h, w => by
    simp only [swfFrom, Bool.and_eq_true, decide_eq_true_eq] at w
    unfold sins
    split
    · simp only [swfFrom, Bool.and_eq_true, decide_eq_true_eq]
      exact ⟨h, by omega, w.2⟩
    · split
      · simp only [swfFrom, Bool.and_eq_true, decide_eq_true_eq]; exact w
      · simp only [swfFrom, Bool.and_eq_true, decide_eq_true_eq]
        exact ⟨w.1, sins_wfFrom (by omega) w.2⟩

/-- Putting a member in keeps the canonical form. -/
theorem sins_wf {m : List Nat} {k : Nat} (h : swf m = true) : swf (sins m k) = true := sins_wfFrom (Nat.zero_le k) h

theorem sdel_wfFrom : ∀ {m : List Nat} {lo k : Nat}, swfFrom lo m = true → swfFrom lo (sdel m k) = true
  | [], _, _, _ => rfl
  | a :: t, lo, k, w => by
    simp only [swfFrom, Bool.and_eq_true, decide_eq_true_eq] at w
    unfold sdel
    split
    · simp only [swfFrom, Bool.and_eq_true, decide_eq_true_eq]; exact w
    · split
      · exact swfFrom_mono (by omega) w.2
      · simp only [swfFrom, Bool.and_eq_true, decide_eq_true_eq]
        exact ⟨w.1, sdel_wfFrom w.2⟩

/-- Taking a member out keeps the canonical form. -/
theorem sdel_wf {m : List Nat} {k : Nat} (h : swf m = true) : swf (sdel m k) = true := sdel_wfFrom h

theorem filter_swfFrom {p : Nat → Bool} : ∀ {m : List Nat} {lo : Nat}, swfFrom lo m = true →
    swfFrom lo (m.filter p) = true
  | [], _, _ => rfl
  | a :: t, lo, w => by
    simp only [swfFrom, Bool.and_eq_true, decide_eq_true_eq] at w
    rw [List.filter_cons]
    split
    · simp only [swfFrom, Bool.and_eq_true, decide_eq_true_eq]
      exact ⟨w.1, filter_swfFrom w.2⟩
    · exact swfFrom_mono (by omega) (filter_swfFrom w.2)

theorem filter_swf {p : Nat → Bool} {m : List Nat} (h : swf m = true) : swf (m.filter p) = true := filter_swfFrom h

theorem smem_of_lt : ∀ {m : List Nat} {lo k : Nat}, k < lo → swfFrom lo m = true → smem m k = false
  | [], _, _, _, _ => rfl
  | a :: t, lo, k, h, w => by
    simp only [swfFrom, Bool.and_eq_true, decide_eq_true_eq] at w
    unfold smem
    rw [if_neg (by omega), if_pos (by omega)]

theorem smem_sins : ∀ {m : List Nat} {k j : Nat}, smem (sins m k) j = (decide (j = k) || smem m j)
  | [], k, j => by
    unfold sins smem
    by_cases h : j = k
    · simp [h]
    · simp [h, smem]
  | a :: t, k, j => by
    unfold sins
    split
    · simp only [smem]
      by_cases h : j = k
      · simp [h]
      · simp only [h, if_false, decide_false, Bool.false_or]
        split
        · rw [if_neg (by omega), if_pos (by omega)]
        · rfl
    · split
      · subst k; simp only [smem]; by_cases h : j = a <;> simp [h]
      · simp only [smem]
        rw [smem_sins]
        by_cases h : j = k
        · rw [if_neg (by omega), if_neg (by omega)]; simp [h]
        · simp [h]

theorem smem_sdel_from : ∀ {m : List Nat} {lo k j : Nat}, swfFrom lo m = true →
    smem (sdel m k) j = (!decide (j = k) && smem m j)
  | [], _, k, j, _ => by simp [sdel, smem]
  | a :: t, lo, k, j, w => by
    simp only [swfFrom, Bool.and_eq_true, decide_eq_true_eq] at w
    unfold sdel
    split
    · simp only [smem]
      by_cases h : j = k
      · rw [if_neg (by omega), if_pos (by omega)]; simp
      · simp [h]
    · split
      · subst k
        simp only [smem]
        by_cases h : j = a
        · rw [h, smem_of_lt (Nat.lt_succ_self a) w.2]; simp
        · simp only [h, if_false, decide_false, Bool.not_false, Bool.true_and]
          split
          · rw [smem_of_lt (by omega) w.2]
          · rfl
      · simp only [smem]
        rw [smem_sdel_from w.2]
        by_cases h : j = k
        · rw [if_neg (by omega), if_neg (by omega)]; simp [h]
        · simp [h]

theorem smem_sdel {m : List Nat} {k j : Nat} (h : swf m = true) : smem (sdel m k) j = (!decide (j = k) && smem m j) :=
  smem_sdel_from h

theorem append_swfFrom : ∀ {a b : List Nat} {lo m : Nat}, swfFrom lo a = true → (∀ x ∈ a, x < m) → lo ≤ m →
    swfFrom m b = true → swfFrom lo (a ++ b) = true
  | [], _, _, _, _, _, h, hb => swfFrom_mono h hb
  | x :: a, b, lo, m, ha, hx, h, hb => by
    simp only [swfFrom, Bool.and_eq_true, decide_eq_true_eq] at ha
    have hm := hx x (by simp)
    simp only [List.cons_append, swfFrom, Bool.and_eq_true, decide_eq_true_eq]
    exact ⟨ha.1, append_swfFrom ha.2 (fun y hy => hx y (by simp [hy])) hm hb⟩

theorem filter_ge_swfFrom {m : Nat} : ∀ {l : List Nat} {lo : Nat}, swfFrom lo l = true →
    swfFrom m (l.filter (fun x => decide (m ≤ x))) = true
  | [], _, _ => rfl
  | a :: t, lo, w => by
    simp only [swfFrom, Bool.and_eq_true, decide_eq_true_eq] at w
    rw [List.filter_cons]
    split
    · rename_i h
      simp only [swfFrom, Bool.and_eq_true, decide_eq_true_eq] at h ⊢
      exact ⟨h, filter_swfFrom w.2⟩
    · exact filter_ge_swfFrom w.2

theorem range_swfFrom : ∀ {n m k : Nat}, m ≤ k → swfFrom m ((List.range' k n).map id) = true
  | 0, _, _, _ => rfl
  | n + 1, m, k, h => by
    simp only [List.range'_succ, List.map_cons, id, swfFrom, Bool.and_eq_true, decide_eq_true_eq]
    exact ⟨h, range_swfFrom (le_refl _)⟩

theorem shifted_range_swfFrom {m n : Nat} : swfFrom m ((List.range n).map (fun i => m + i)) = true := by
  have h : (List.range n).map (fun i => m + i) = (List.range' m n).map id := by
    simp [List.range'_eq_map_range]
  rw [h]
  exact range_swfFrom (le_refl _)

/-- A set in which the numbers of a span are replaced by all of them. -/
theorem splice_swf {l : List Nat} {m n : Nat} (h : swf l = true) :
    swf (l.filter (fun x => decide (x < m)) ++ (List.range n).map (fun i => m + i) ++
      l.filter (fun x => decide (m + n ≤ x))) = true := by
  refine append_swfFrom (m := m + n) (append_swfFrom (m := m) (filter_swf h) ?_ (Nat.zero_le _) shifted_range_swfFrom) ?_
    (Nat.zero_le _) (filter_ge_swfFrom h)
  · intro x hx
    simpa using (List.mem_filter.mp hx).2
  · intro x hx
    rcases List.mem_append.mp hx with hx | hx
    · have := (List.mem_filter.mp hx).2
      simp only [decide_eq_true_eq] at this
      omega
    · obtain ⟨i, hi, rfl⟩ := List.mem_map.mp hx
      have := List.mem_range.mp hi
      omega

/-- A set from which the numbers of a span are taken. -/
theorem cut_swf {l : List Nat} {m k : Nat} (h : swf l = true) (hm : m ≤ k) :
    swf (l.filter (fun x => decide (x < m)) ++ [] ++ l.filter (fun x => decide (k ≤ x))) = true := by
  rw [List.append_nil]
  refine append_swfFrom (m := k) (filter_swf h) ?_ (Nat.zero_le _) (filter_ge_swfFrom h)
  intro x hx
  have := (List.mem_filter.mp hx).2
  simp only [decide_eq_true_eq] at this
  omega

end Sys2Proof.Machine
end

