-- ==== Sys2Proof/Laws/State.lean ====
section
/-! SUPPORT. What each named update of the state leaves in every field, and what a register reads as after a write. -/

namespace Sys2Proof.Machine
open Sys2Proof

/-! ### setReg -/

@[simp] theorem setReg_pending (s : State) (o : Nat) (v : Word) : (setReg s o v).pending = s.pending := rfl
@[simp] theorem setReg_freeCtr (s : State) (o : Nat) (v : Word) : (setReg s o v).freeCtr = s.freeCtr := rfl
@[simp] theorem setReg_mem (s : State) (o : Nat) (v : Word) : (setReg s o v).mem = s.mem := rfl
@[simp] theorem setReg_tiles (s : State) (o : Nat) (v : Word) : (setReg s o v).tiles = s.tiles := rfl
@[simp] theorem setReg_matPoison (s : State) (o : Nat) (v : Word) : (setReg s o v).matPoison = s.matPoison := rfl
@[simp] theorem setReg_towPoison (s : State) (o : Nat) (v : Word) : (setReg s o v).towPoison = s.towPoison := rfl
@[simp] theorem setReg_full (s : State) (o : Nat) (v : Word) : (setReg s o v).full = s.full := rfl
@[simp] theorem setReg_upsets (s : State) (o : Nat) (v : Word) : (setReg s o v).upsets = s.upsets := rfl
@[simp] theorem setReg_fronds (s : State) (o : Nat) (v : Word) : (setReg s o v).fronds = s.fronds := rfl
@[simp] theorem setReg_ahead (s : State) (o : Nat) (v : Word) : (setReg s o v).ahead = s.ahead := rfl
@[simp] theorem setReg_aborts (s : State) (o : Nat) (v : Word) : (setReg s o v).aborts = s.aborts := rfl
@[simp] theorem setReg_images (s : State) (o : Nat) (v : Word) : (setReg s o v).images = s.images := rfl
@[simp] theorem setReg_horizons (s : State) (o : Nat) (v : Word) : (setReg s o v).horizons = s.horizons := rfl
@[simp] theorem setReg_proj (s : State) (o : Nat) (v : Word) : (setReg s o v).proj = s.proj := rfl
@[simp] theorem setReg_cushions (s : State) (o : Nat) (v : Word) : (setReg s o v).cushions = s.cushions := rfl
@[simp] theorem setReg_fractions (s : State) (o : Nat) (v : Word) : (setReg s o v).fractions = s.fractions := rfl
@[simp] theorem setReg_lastAccept (s : State) (o : Nat) (v : Word) : (setReg s o v).lastAccept = s.lastAccept := rfl
@[simp] theorem setReg_lastDecode (s : State) (o : Nat) (v : Word) : (setReg s o v).lastDecode = s.lastDecode := rfl
@[simp] theorem setReg_lastSignal (s : State) (o : Nat) (v : Word) : (setReg s o v).lastSignal = s.lastSignal := rfl
@[simp] theorem setReg_lastTail (s : State) (o : Nat) (v : Word) : (setReg s o v).lastTail = s.lastTail := rfl
@[simp] theorem setReg_accepted (s : State) (o : Nat) (v : Word) : (setReg s o v).accepted = s.accepted := rfl
@[simp] theorem setReg_episodes (s : State) (o : Nat) (v : Word) : (setReg s o v).episodes = s.episodes := rfl
@[simp] theorem setReg_suspends (s : State) (o : Nat) (v : Word) : (setReg s o v).suspends = s.suspends := rfl
@[simp] theorem setReg_quiesced (s : State) (o : Nat) (v : Word) : (setReg s o v).quiesced = s.quiesced := rfl
@[simp] theorem setReg_heldAccess (s : State) (o : Nat) (v : Word) : (setReg s o v).heldAccess = s.heldAccess := rfl
@[simp] theorem setReg_log (s : State) (o : Nat) (v : Word) : (setReg s o v).log = s.log := rfl
@[simp] theorem setReg_maint (s : State) (o : Nat) (v : Word) : (setReg s o v).maint = s.maint := rfl
@[simp] theorem setReg_host (s : State) (o : Nat) (v : Word) : (setReg s o v).host = s.host := rfl
@[simp] theorem setReg_links (s : State) (o : Nat) (v : Word) : (setReg s o v).links = s.links := rfl
@[simp] theorem setReg_fail (s : State) (o : Nat) (v : Word) : (setReg s o v).fail = s.fail := rfl
@[simp] theorem setReg_sec (s : State) (o : Nat) (v : Word) : (setReg s o v).sec = s.sec := rfl
@[simp] theorem setReg_rng (s : State) (o : Nat) (v : Word) : (setReg s o v).rng = s.rng := rfl
@[simp] theorem setReg_pins (s : State) (o : Nat) (v : Word) : (setReg s o v).pins = s.pins := rfl
@[simp] theorem setReg_levelBeat (s : State) (o : Nat) (v : Word) : (setReg s o v).levelBeat = s.levelBeat := rfl
@[simp] theorem setReg_powerHist (s : State) (o : Nat) (v : Word) : (setReg s o v).powerHist = s.powerHist := rfl
@[simp] theorem setReg_start (s : State) (o : Nat) (v : Word) : (setReg s o v).start = s.start := rfl

/-! ### memSet -/

@[simp] theorem memSet_pending (s : State) (k : Nat) (v : Byte) : (memSet s k v).pending = s.pending := rfl
@[simp] theorem memSet_freeCtr (s : State) (k : Nat) (v : Byte) : (memSet s k v).freeCtr = s.freeCtr := rfl
@[simp] theorem memSet_regs (s : State) (k : Nat) (v : Byte) : (memSet s k v).regs = s.regs := rfl
@[simp] theorem memSet_tiles (s : State) (k : Nat) (v : Byte) : (memSet s k v).tiles = s.tiles := rfl
@[simp] theorem memSet_matPoison (s : State) (k : Nat) (v : Byte) : (memSet s k v).matPoison = s.matPoison := rfl
@[simp] theorem memSet_towPoison (s : State) (k : Nat) (v : Byte) : (memSet s k v).towPoison = s.towPoison := rfl
@[simp] theorem memSet_full (s : State) (k : Nat) (v : Byte) : (memSet s k v).full = s.full := rfl
@[simp] theorem memSet_upsets (s : State) (k : Nat) (v : Byte) : (memSet s k v).upsets = s.upsets := rfl
@[simp] theorem memSet_fronds (s : State) (k : Nat) (v : Byte) : (memSet s k v).fronds = s.fronds := rfl
@[simp] theorem memSet_ahead (s : State) (k : Nat) (v : Byte) : (memSet s k v).ahead = s.ahead := rfl
@[simp] theorem memSet_aborts (s : State) (k : Nat) (v : Byte) : (memSet s k v).aborts = s.aborts := rfl
@[simp] theorem memSet_images (s : State) (k : Nat) (v : Byte) : (memSet s k v).images = s.images := rfl
@[simp] theorem memSet_horizons (s : State) (k : Nat) (v : Byte) : (memSet s k v).horizons = s.horizons := rfl
@[simp] theorem memSet_proj (s : State) (k : Nat) (v : Byte) : (memSet s k v).proj = s.proj := rfl
@[simp] theorem memSet_cushions (s : State) (k : Nat) (v : Byte) : (memSet s k v).cushions = s.cushions := rfl
@[simp] theorem memSet_fractions (s : State) (k : Nat) (v : Byte) : (memSet s k v).fractions = s.fractions := rfl
@[simp] theorem memSet_lastAccept (s : State) (k : Nat) (v : Byte) : (memSet s k v).lastAccept = s.lastAccept := rfl
@[simp] theorem memSet_lastDecode (s : State) (k : Nat) (v : Byte) : (memSet s k v).lastDecode = s.lastDecode := rfl
@[simp] theorem memSet_lastSignal (s : State) (k : Nat) (v : Byte) : (memSet s k v).lastSignal = s.lastSignal := rfl
@[simp] theorem memSet_lastTail (s : State) (k : Nat) (v : Byte) : (memSet s k v).lastTail = s.lastTail := rfl
@[simp] theorem memSet_accepted (s : State) (k : Nat) (v : Byte) : (memSet s k v).accepted = s.accepted := rfl
@[simp] theorem memSet_episodes (s : State) (k : Nat) (v : Byte) : (memSet s k v).episodes = s.episodes := rfl
@[simp] theorem memSet_suspends (s : State) (k : Nat) (v : Byte) : (memSet s k v).suspends = s.suspends := rfl
@[simp] theorem memSet_quiesced (s : State) (k : Nat) (v : Byte) : (memSet s k v).quiesced = s.quiesced := rfl
@[simp] theorem memSet_heldAccess (s : State) (k : Nat) (v : Byte) : (memSet s k v).heldAccess = s.heldAccess := rfl
@[simp] theorem memSet_log (s : State) (k : Nat) (v : Byte) : (memSet s k v).log = s.log := rfl
@[simp] theorem memSet_maint (s : State) (k : Nat) (v : Byte) : (memSet s k v).maint = s.maint := rfl
@[simp] theorem memSet_host (s : State) (k : Nat) (v : Byte) : (memSet s k v).host = s.host := rfl
@[simp] theorem memSet_links (s : State) (k : Nat) (v : Byte) : (memSet s k v).links = s.links := rfl
@[simp] theorem memSet_fail (s : State) (k : Nat) (v : Byte) : (memSet s k v).fail = s.fail := rfl
@[simp] theorem memSet_sec (s : State) (k : Nat) (v : Byte) : (memSet s k v).sec = s.sec := rfl
@[simp] theorem memSet_rng (s : State) (k : Nat) (v : Byte) : (memSet s k v).rng = s.rng := rfl
@[simp] theorem memSet_pins (s : State) (k : Nat) (v : Byte) : (memSet s k v).pins = s.pins := rfl
@[simp] theorem memSet_levelBeat (s : State) (k : Nat) (v : Byte) : (memSet s k v).levelBeat = s.levelBeat := rfl
@[simp] theorem memSet_powerHist (s : State) (k : Nat) (v : Byte) : (memSet s k v).powerHist = s.powerHist := rfl
@[simp] theorem memSet_start (s : State) (k : Nat) (v : Byte) : (memSet s k v).start = s.start := rfl

/-! ### setTileByte -/

@[simp] theorem setTileByte_pending (s : State) (k b : Nat) (v : Byte) : (setTileByte k b v s).pending = s.pending := rfl
@[simp] theorem setTileByte_freeCtr (s : State) (k b : Nat) (v : Byte) : (setTileByte k b v s).freeCtr = s.freeCtr := rfl
@[simp] theorem setTileByte_regs (s : State) (k b : Nat) (v : Byte) : (setTileByte k b v s).regs = s.regs := rfl
@[simp] theorem setTileByte_mem (s : State) (k b : Nat) (v : Byte) : (setTileByte k b v s).mem = s.mem := rfl
@[simp] theorem setTileByte_matPoison (s : State) (k b : Nat) (v : Byte) : (setTileByte k b v s).matPoison = s.matPoison := rfl
@[simp] theorem setTileByte_towPoison (s : State) (k b : Nat) (v : Byte) : (setTileByte k b v s).towPoison = s.towPoison := rfl
@[simp] theorem setTileByte_full (s : State) (k b : Nat) (v : Byte) : (setTileByte k b v s).full = s.full := rfl
@[simp] theorem setTileByte_upsets (s : State) (k b : Nat) (v : Byte) : (setTileByte k b v s).upsets = s.upsets := rfl
@[simp] theorem setTileByte_fronds (s : State) (k b : Nat) (v : Byte) : (setTileByte k b v s).fronds = s.fronds := rfl
@[simp] theorem setTileByte_ahead (s : State) (k b : Nat) (v : Byte) : (setTileByte k b v s).ahead = s.ahead := rfl
@[simp] theorem setTileByte_aborts (s : State) (k b : Nat) (v : Byte) : (setTileByte k b v s).aborts = s.aborts := rfl
@[simp] theorem setTileByte_images (s : State) (k b : Nat) (v : Byte) : (setTileByte k b v s).images = s.images := rfl
@[simp] theorem setTileByte_horizons (s : State) (k b : Nat) (v : Byte) : (setTileByte k b v s).horizons = s.horizons := rfl
@[simp] theorem setTileByte_proj (s : State) (k b : Nat) (v : Byte) : (setTileByte k b v s).proj = s.proj := rfl
@[simp] theorem setTileByte_cushions (s : State) (k b : Nat) (v : Byte) : (setTileByte k b v s).cushions = s.cushions := rfl
@[simp] theorem setTileByte_fractions (s : State) (k b : Nat) (v : Byte) : (setTileByte k b v s).fractions = s.fractions := rfl
@[simp] theorem setTileByte_lastAccept (s : State) (k b : Nat) (v : Byte) : (setTileByte k b v s).lastAccept = s.lastAccept := rfl
@[simp] theorem setTileByte_lastDecode (s : State) (k b : Nat) (v : Byte) : (setTileByte k b v s).lastDecode = s.lastDecode := rfl
@[simp] theorem setTileByte_lastSignal (s : State) (k b : Nat) (v : Byte) : (setTileByte k b v s).lastSignal = s.lastSignal := rfl
@[simp] theorem setTileByte_lastTail (s : State) (k b : Nat) (v : Byte) : (setTileByte k b v s).lastTail = s.lastTail := rfl
@[simp] theorem setTileByte_accepted (s : State) (k b : Nat) (v : Byte) : (setTileByte k b v s).accepted = s.accepted := rfl
@[simp] theorem setTileByte_episodes (s : State) (k b : Nat) (v : Byte) : (setTileByte k b v s).episodes = s.episodes := rfl
@[simp] theorem setTileByte_suspends (s : State) (k b : Nat) (v : Byte) : (setTileByte k b v s).suspends = s.suspends := rfl
@[simp] theorem setTileByte_quiesced (s : State) (k b : Nat) (v : Byte) : (setTileByte k b v s).quiesced = s.quiesced := rfl
@[simp] theorem setTileByte_heldAccess (s : State) (k b : Nat) (v : Byte) : (setTileByte k b v s).heldAccess = s.heldAccess := rfl
@[simp] theorem setTileByte_log (s : State) (k b : Nat) (v : Byte) : (setTileByte k b v s).log = s.log := rfl
@[simp] theorem setTileByte_maint (s : State) (k b : Nat) (v : Byte) : (setTileByte k b v s).maint = s.maint := rfl
@[simp] theorem setTileByte_host (s : State) (k b : Nat) (v : Byte) : (setTileByte k b v s).host = s.host := rfl
@[simp] theorem setTileByte_links (s : State) (k b : Nat) (v : Byte) : (setTileByte k b v s).links = s.links := rfl
@[simp] theorem setTileByte_fail (s : State) (k b : Nat) (v : Byte) : (setTileByte k b v s).fail = s.fail := rfl
@[simp] theorem setTileByte_sec (s : State) (k b : Nat) (v : Byte) : (setTileByte k b v s).sec = s.sec := rfl
@[simp] theorem setTileByte_rng (s : State) (k b : Nat) (v : Byte) : (setTileByte k b v s).rng = s.rng := rfl
@[simp] theorem setTileByte_pins (s : State) (k b : Nat) (v : Byte) : (setTileByte k b v s).pins = s.pins := rfl
@[simp] theorem setTileByte_levelBeat (s : State) (k b : Nat) (v : Byte) : (setTileByte k b v s).levelBeat = s.levelBeat := rfl
@[simp] theorem setTileByte_powerHist (s : State) (k b : Nat) (v : Byte) : (setTileByte k b v s).powerHist = s.powerHist := rfl
@[simp] theorem setTileByte_start (s : State) (k b : Nat) (v : Byte) : (setTileByte k b v s).start = s.start := rfl

/-! ### putFrond -/

@[simp] theorem putFrond_pending (s : State) (f : Frond) : (putFrond s f).pending = s.pending := rfl
@[simp] theorem putFrond_freeCtr (s : State) (f : Frond) : (putFrond s f).freeCtr = s.freeCtr := rfl
@[simp] theorem putFrond_regs (s : State) (f : Frond) : (putFrond s f).regs = s.regs := rfl
@[simp] theorem putFrond_mem (s : State) (f : Frond) : (putFrond s f).mem = s.mem := rfl
@[simp] theorem putFrond_tiles (s : State) (f : Frond) : (putFrond s f).tiles = s.tiles := rfl
@[simp] theorem putFrond_matPoison (s : State) (f : Frond) : (putFrond s f).matPoison = s.matPoison := rfl
@[simp] theorem putFrond_towPoison (s : State) (f : Frond) : (putFrond s f).towPoison = s.towPoison := rfl
@[simp] theorem putFrond_full (s : State) (f : Frond) : (putFrond s f).full = s.full := rfl
@[simp] theorem putFrond_upsets (s : State) (f : Frond) : (putFrond s f).upsets = s.upsets := rfl
@[simp] theorem putFrond_ahead (s : State) (f : Frond) : (putFrond s f).ahead = s.ahead := rfl
@[simp] theorem putFrond_aborts (s : State) (f : Frond) : (putFrond s f).aborts = s.aborts := rfl
@[simp] theorem putFrond_images (s : State) (f : Frond) : (putFrond s f).images = s.images := rfl
@[simp] theorem putFrond_horizons (s : State) (f : Frond) : (putFrond s f).horizons = s.horizons := rfl
@[simp] theorem putFrond_proj (s : State) (f : Frond) : (putFrond s f).proj = s.proj := rfl
@[simp] theorem putFrond_cushions (s : State) (f : Frond) : (putFrond s f).cushions = s.cushions := rfl
@[simp] theorem putFrond_fractions (s : State) (f : Frond) : (putFrond s f).fractions = s.fractions := rfl
@[simp] theorem putFrond_lastAccept (s : State) (f : Frond) : (putFrond s f).lastAccept = s.lastAccept := rfl
@[simp] theorem putFrond_lastDecode (s : State) (f : Frond) : (putFrond s f).lastDecode = s.lastDecode := rfl
@[simp] theorem putFrond_lastSignal (s : State) (f : Frond) : (putFrond s f).lastSignal = s.lastSignal := rfl
@[simp] theorem putFrond_lastTail (s : State) (f : Frond) : (putFrond s f).lastTail = s.lastTail := rfl
@[simp] theorem putFrond_accepted (s : State) (f : Frond) : (putFrond s f).accepted = s.accepted := rfl
@[simp] theorem putFrond_episodes (s : State) (f : Frond) : (putFrond s f).episodes = s.episodes := rfl
@[simp] theorem putFrond_suspends (s : State) (f : Frond) : (putFrond s f).suspends = s.suspends := rfl
@[simp] theorem putFrond_quiesced (s : State) (f : Frond) : (putFrond s f).quiesced = s.quiesced := rfl
@[simp] theorem putFrond_heldAccess (s : State) (f : Frond) : (putFrond s f).heldAccess = s.heldAccess := rfl
@[simp] theorem putFrond_log (s : State) (f : Frond) : (putFrond s f).log = s.log := rfl
@[simp] theorem putFrond_maint (s : State) (f : Frond) : (putFrond s f).maint = s.maint := rfl
@[simp] theorem putFrond_host (s : State) (f : Frond) : (putFrond s f).host = s.host := rfl
@[simp] theorem putFrond_links (s : State) (f : Frond) : (putFrond s f).links = s.links := rfl
@[simp] theorem putFrond_fail (s : State) (f : Frond) : (putFrond s f).fail = s.fail := rfl
@[simp] theorem putFrond_sec (s : State) (f : Frond) : (putFrond s f).sec = s.sec := rfl
@[simp] theorem putFrond_rng (s : State) (f : Frond) : (putFrond s f).rng = s.rng := rfl
@[simp] theorem putFrond_pins (s : State) (f : Frond) : (putFrond s f).pins = s.pins := rfl
@[simp] theorem putFrond_levelBeat (s : State) (f : Frond) : (putFrond s f).levelBeat = s.levelBeat := rfl
@[simp] theorem putFrond_powerHist (s : State) (f : Frond) : (putFrond s f).powerHist = s.powerHist := rfl
@[simp] theorem putFrond_start (s : State) (f : Frond) : (putFrond s f).start = s.start := rfl

/-! ### dropFrond -/

@[simp] theorem dropFrond_pending (s : State) (f : Frond) : (dropFrond s f).pending = s.pending := rfl
@[simp] theorem dropFrond_freeCtr (s : State) (f : Frond) : (dropFrond s f).freeCtr = s.freeCtr := rfl
@[simp] theorem dropFrond_regs (s : State) (f : Frond) : (dropFrond s f).regs = s.regs := rfl
@[simp] theorem dropFrond_mem (s : State) (f : Frond) : (dropFrond s f).mem = s.mem := rfl
@[simp] theorem dropFrond_tiles (s : State) (f : Frond) : (dropFrond s f).tiles = s.tiles := rfl
@[simp] theorem dropFrond_matPoison (s : State) (f : Frond) : (dropFrond s f).matPoison = s.matPoison := rfl
@[simp] theorem dropFrond_towPoison (s : State) (f : Frond) : (dropFrond s f).towPoison = s.towPoison := rfl
@[simp] theorem dropFrond_full (s : State) (f : Frond) : (dropFrond s f).full = s.full := rfl
@[simp] theorem dropFrond_upsets (s : State) (f : Frond) : (dropFrond s f).upsets = s.upsets := rfl
@[simp] theorem dropFrond_ahead (s : State) (f : Frond) : (dropFrond s f).ahead = s.ahead := rfl
@[simp] theorem dropFrond_aborts (s : State) (f : Frond) : (dropFrond s f).aborts = s.aborts := rfl
@[simp] theorem dropFrond_images (s : State) (f : Frond) : (dropFrond s f).images = s.images := rfl
@[simp] theorem dropFrond_horizons (s : State) (f : Frond) : (dropFrond s f).horizons = s.horizons := rfl
@[simp] theorem dropFrond_proj (s : State) (f : Frond) : (dropFrond s f).proj = s.proj := rfl
@[simp] theorem dropFrond_cushions (s : State) (f : Frond) : (dropFrond s f).cushions = s.cushions := rfl
@[simp] theorem dropFrond_fractions (s : State) (f : Frond) : (dropFrond s f).fractions = s.fractions := rfl
@[simp] theorem dropFrond_lastAccept (s : State) (f : Frond) : (dropFrond s f).lastAccept = s.lastAccept := rfl
@[simp] theorem dropFrond_lastDecode (s : State) (f : Frond) : (dropFrond s f).lastDecode = s.lastDecode := rfl
@[simp] theorem dropFrond_lastSignal (s : State) (f : Frond) : (dropFrond s f).lastSignal = s.lastSignal := rfl
@[simp] theorem dropFrond_lastTail (s : State) (f : Frond) : (dropFrond s f).lastTail = s.lastTail := rfl
@[simp] theorem dropFrond_accepted (s : State) (f : Frond) : (dropFrond s f).accepted = s.accepted := rfl
@[simp] theorem dropFrond_episodes (s : State) (f : Frond) : (dropFrond s f).episodes = s.episodes := rfl
@[simp] theorem dropFrond_suspends (s : State) (f : Frond) : (dropFrond s f).suspends = s.suspends := rfl
@[simp] theorem dropFrond_quiesced (s : State) (f : Frond) : (dropFrond s f).quiesced = s.quiesced := rfl
@[simp] theorem dropFrond_heldAccess (s : State) (f : Frond) : (dropFrond s f).heldAccess = s.heldAccess := rfl
@[simp] theorem dropFrond_log (s : State) (f : Frond) : (dropFrond s f).log = s.log := rfl
@[simp] theorem dropFrond_maint (s : State) (f : Frond) : (dropFrond s f).maint = s.maint := rfl
@[simp] theorem dropFrond_host (s : State) (f : Frond) : (dropFrond s f).host = s.host := rfl
@[simp] theorem dropFrond_links (s : State) (f : Frond) : (dropFrond s f).links = s.links := rfl
@[simp] theorem dropFrond_fail (s : State) (f : Frond) : (dropFrond s f).fail = s.fail := rfl
@[simp] theorem dropFrond_sec (s : State) (f : Frond) : (dropFrond s f).sec = s.sec := rfl
@[simp] theorem dropFrond_rng (s : State) (f : Frond) : (dropFrond s f).rng = s.rng := rfl
@[simp] theorem dropFrond_pins (s : State) (f : Frond) : (dropFrond s f).pins = s.pins := rfl
@[simp] theorem dropFrond_levelBeat (s : State) (f : Frond) : (dropFrond s f).levelBeat = s.levelBeat := rfl
@[simp] theorem dropFrond_powerHist (s : State) (f : Frond) : (dropFrond s f).powerHist = s.powerHist := rfl
@[simp] theorem dropFrond_start (s : State) (f : Frond) : (dropFrond s f).start = s.start := rfl

/-! ### emit -/

@[simp] theorem emit_pending (s : State) (x : HostOut) : (emit s x).pending = s.pending := rfl
@[simp] theorem emit_freeCtr (s : State) (x : HostOut) : (emit s x).freeCtr = s.freeCtr := rfl
@[simp] theorem emit_regs (s : State) (x : HostOut) : (emit s x).regs = s.regs := rfl
@[simp] theorem emit_mem (s : State) (x : HostOut) : (emit s x).mem = s.mem := rfl
@[simp] theorem emit_tiles (s : State) (x : HostOut) : (emit s x).tiles = s.tiles := rfl
@[simp] theorem emit_matPoison (s : State) (x : HostOut) : (emit s x).matPoison = s.matPoison := rfl
@[simp] theorem emit_towPoison (s : State) (x : HostOut) : (emit s x).towPoison = s.towPoison := rfl
@[simp] theorem emit_full (s : State) (x : HostOut) : (emit s x).full = s.full := rfl
@[simp] theorem emit_upsets (s : State) (x : HostOut) : (emit s x).upsets = s.upsets := rfl
@[simp] theorem emit_fronds (s : State) (x : HostOut) : (emit s x).fronds = s.fronds := rfl
@[simp] theorem emit_ahead (s : State) (x : HostOut) : (emit s x).ahead = s.ahead := rfl
@[simp] theorem emit_aborts (s : State) (x : HostOut) : (emit s x).aborts = s.aborts := rfl
@[simp] theorem emit_images (s : State) (x : HostOut) : (emit s x).images = s.images := rfl
@[simp] theorem emit_horizons (s : State) (x : HostOut) : (emit s x).horizons = s.horizons := rfl
@[simp] theorem emit_proj (s : State) (x : HostOut) : (emit s x).proj = s.proj := rfl
@[simp] theorem emit_cushions (s : State) (x : HostOut) : (emit s x).cushions = s.cushions := rfl
@[simp] theorem emit_fractions (s : State) (x : HostOut) : (emit s x).fractions = s.fractions := rfl
@[simp] theorem emit_lastAccept (s : State) (x : HostOut) : (emit s x).lastAccept = s.lastAccept := rfl
@[simp] theorem emit_lastDecode (s : State) (x : HostOut) : (emit s x).lastDecode = s.lastDecode := rfl
@[simp] theorem emit_lastSignal (s : State) (x : HostOut) : (emit s x).lastSignal = s.lastSignal := rfl
@[simp] theorem emit_lastTail (s : State) (x : HostOut) : (emit s x).lastTail = s.lastTail := rfl
@[simp] theorem emit_accepted (s : State) (x : HostOut) : (emit s x).accepted = s.accepted := rfl
@[simp] theorem emit_episodes (s : State) (x : HostOut) : (emit s x).episodes = s.episodes := rfl
@[simp] theorem emit_suspends (s : State) (x : HostOut) : (emit s x).suspends = s.suspends := rfl
@[simp] theorem emit_quiesced (s : State) (x : HostOut) : (emit s x).quiesced = s.quiesced := rfl
@[simp] theorem emit_heldAccess (s : State) (x : HostOut) : (emit s x).heldAccess = s.heldAccess := rfl
@[simp] theorem emit_log (s : State) (x : HostOut) : (emit s x).log = s.log := rfl
@[simp] theorem emit_maint (s : State) (x : HostOut) : (emit s x).maint = s.maint := rfl
@[simp] theorem emit_links (s : State) (x : HostOut) : (emit s x).links = s.links := rfl
@[simp] theorem emit_fail (s : State) (x : HostOut) : (emit s x).fail = s.fail := rfl
@[simp] theorem emit_sec (s : State) (x : HostOut) : (emit s x).sec = s.sec := rfl
@[simp] theorem emit_rng (s : State) (x : HostOut) : (emit s x).rng = s.rng := rfl
@[simp] theorem emit_pins (s : State) (x : HostOut) : (emit s x).pins = s.pins := rfl
@[simp] theorem emit_levelBeat (s : State) (x : HostOut) : (emit s x).levelBeat = s.levelBeat := rfl
@[simp] theorem emit_powerHist (s : State) (x : HostOut) : (emit s x).powerHist = s.powerHist := rfl
@[simp] theorem emit_start (s : State) (x : HostOut) : (emit s x).start = s.start := rfl

/-! ### Registers -/

/-- A register reads what was last written, and the others as before. -/
theorem reg_setReg {s : State} {o o' : Nat} {v : Word} (h : mwf regReset s.regs = true) :
    reg (setReg s o v) o' = if o' = o then v else reg s o' := mget_mset h

theorem reg_setReg_same {s : State} {o : Nat} {v : Word} (h : mwf regReset s.regs = true) : reg (setReg s o v) o = v := by
  rw [reg_setReg h, if_pos (Eq.refl o)]

theorem reg_setReg_apart {s : State} {o o' : Nat} {v : Word} (h : mwf regReset s.regs = true) (d : o' ≠ o) :
    reg (setReg s o v) o' = reg s o' := by
  rw [reg_setReg h, if_neg d]

theorem setReg_regs_wf {s : State} {o : Nat} {v : Word} (h : mwf regReset s.regs = true) :
    mwf regReset (setReg s o v).regs = true := mset_wf h

theorem reg_setF_apart {s : State} {o o' lo n v : Nat} (h : mwf regReset s.regs = true) (d : o' ≠ o) :
    reg (setF s o lo n v) o' = reg s o' := reg_setReg_apart h d

theorem regF_setF_same {s : State} {o lo n v : Nat} (h : mwf regReset s.regs = true) (b : lo + n ≤ 64) :
    regF (setF s o lo n v) o lo n = v % 2 ^ n := by
  unfold regF setF
  rw [reg_setReg_same h, fld_putFld_same b]

theorem regF_setF_apart {s : State} {o o' lo n v lo' n' : Nat} (h : mwf regReset s.regs = true) (b : lo' + n' ≤ 64)
    (d : o' ≠ o ∨ lo' + n' ≤ lo ∨ lo + n ≤ lo') : regF (setF s o lo n v) o' lo' n' = regF s o' lo' n' := by
  unfold regF setF
  rw [reg_setReg h]
  split
  · subst o'
    exact fld_putFld_apart b (by omega)
  · rfl

theorem regB_setB_same {s : State} {o i : Nat} {b : Bool} (h : mwf regReset s.regs = true) (hi : i < 64) :
    regB (setB s o i b) o i = b := by
  unfold regB setB setF
  rw [reg_setReg_same h]
  exact bitOf_putBit_same hi

theorem regB_setF_apart {s : State} {o o' lo n v i : Nat} (h : mwf regReset s.regs = true) (hi : i < 64)
    (d : o' ≠ o ∨ i < lo ∨ lo + n ≤ i) : regB (setF s o lo n v) o' i = regB s o' i := by
  unfold regB setF
  rw [reg_setReg h]
  split
  · subst o'
    exact bitOf_putFld_apart hi (by omega)
  · rfl

/-! ### Memory and tiles -/

/-- A byte of memory reads what was last written, and the others as before. -/
theorem mem_memSet {s : State} {k j : Nat} {v : Byte} (h : mwf memDefault s.mem = true) :
    mget memDefault (memSet s k v).mem j = if j = k then v else mget memDefault s.mem j := mget_mset h

/-- A byte of a tile reads what was last written, and the others as before. -/
theorem tile_setTileByte {s : State} {k b j : Nat} {v : Byte} (h : mwf memDefault s.tiles = true) :
    mget memDefault (setTileByte k b v s).tiles j = if j = k * 8192 + b then v else mget memDefault s.tiles j :=
  mget_mset h

/-! ### The queue -/

/-- A command's effect leaves the waiting commands as they were. -/
theorem effect_pending {s t u : State} (h : effect s t = .next u) : u.pending = s.pending := by
  cases h; rfl

theorem ifOk_pending {s t u : State} {b : Bool} (h : ifOk s b t = .next u) : u.pending = s.pending := by
  unfold ifOk at h
  split at h
  · exact effect_pending h
  · cases h

/-- What a command's effect is, when the operation keeps the waiting commands as they were. -/
theorem effect_next {s t : State} (h : t.pending = s.pending) : effect s t = .next t := by
  unfold effect
  rw [← h]

end Sys2Proof.Machine
end

