-- ==== Sys2Proof/Laws/Ops.lean ====
section
/-! SUPPORT. What the shared operations can do, said once: counters, the beat, the event log, interrupts, the gate of
register writes and the progress of fronds. -/

namespace Sys2Proof.Machine
open Sys2Proof

/-! ### Counters and fields -/

theorem reg_setF {s : State} {o o' lo n v : Nat} (h : mwf regReset s.regs = true) :
    reg (setF s o lo n v) o' = if o' = o then putFld (reg s o) lo n v else reg s o' := reg_setReg h

theorem reg_setB {s : State} {o o' i : Nat} {b : Bool} (h : mwf regReset s.regs = true) :
    reg (setB s o i b) o' = if o' = o then putBit (reg s o) i b else reg s o' := reg_setReg h

theorem reg_bump {s : State} {o o' k : Nat} (h : mwf regReset s.regs = true) :
    reg (bump s o k) o' = if o' = o then BitVec.ofNat 64 (satAdd 64 (reg s o).toNat k) else reg s o' := reg_setReg h

theorem setF_regs_wf {s : State} {o lo n v : Nat} (h : mwf regReset s.regs = true) :
    mwf regReset (setF s o lo n v).regs = true := mset_wf h

theorem setB_regs_wf {s : State} {o i : Nat} {b : Bool} (h : mwf regReset s.regs = true) :
    mwf regReset (setB s o i b).regs = true := mset_wf h

theorem bump_regs_wf {s : State} {o k : Nat} (h : mwf regReset s.regs = true) :
    mwf regReset (bump s o k).regs = true := mset_wf h

/-- A register set again holds the later value. -/
theorem setReg_eq (s : State) (o : Nat) (v : Word) : setReg s o v = { s with regs := (setReg s o v).regs } := rfl

/-! ### The event log -/

/-- An event changes the log and the count of dropped events, nothing else. -/
theorem logEntry_eq (s : State) (e : LogEntry) :
    logEntry s e = { s with log := (logEntry s e).log, regs := (logEntry s e).regs } := by
  unfold logEntry
  dsimp only
  split
  · rfl
  · split
    · split <;> rfl
    · split <;> rfl

/-- Every register but the count of dropped events is as it was. -/
theorem reg_logEntry {s : State} {e : LogEntry} {o : Nat} (h : mwf regReset s.regs = true) (d : o ≠ rLogDrop) :
    reg (logEntry s e) o = reg s o := by
  unfold logEntry
  dsimp only
  split
  · rfl
  · split
    · split <;> rfl
    · split
      · exact reg_setF_apart h d
      · rfl

theorem logEntry_regs_wf {s : State} {e : LogEntry} (h : mwf regReset s.regs = true) :
    mwf regReset (logEntry s e).regs = true := by
  unfold logEntry
  dsimp only
  split
  · exact h
  · split
    · split <;> exact h
    · split
      · exact setF_regs_wf h
      · exact h

/-- An event that folds into no other is held, in key order, while the hold buffer has room. -/
theorem logEntry_held {s : State} {e : LogEntry} (c : coalesces e.code = false) (r : s.log.hold.length < 256) :
    logEntry s e = { s with log := { s.log with hold := holdInsert s.log.hold e } } := by
  unfold logEntry
  simp [c, Nat.not_le.mpr r]

@[simp] theorem logEntry_pending (s : State) (e : LogEntry) : (logEntry s e).pending = s.pending := by
  rw [logEntry_eq]

@[simp] theorem logEntry_fronds (s : State) (e : LogEntry) : (logEntry s e).fronds = s.fronds := by
  rw [logEntry_eq]

@[simp] theorem logEntry_mem (s : State) (e : LogEntry) : (logEntry s e).mem = s.mem := by
  rw [logEntry_eq]

/-! ### The gate -/

/-- A write that R479 serves has its effect. -/
theorem gated_served {s : State} {m : Master} {o : Nat} {f : State → State}
    (h : (∀ p, m ≠ .pcie p) ∨ isReady s = true ∨ earlyWritable o = true) : gated s m o f = f s := by
  unfold gated
  split
  · rename_i p
    rcases h with h | h | h
    · exact absurd rfl (h p)
    · simp [h]
    · simp [h]
  · rfl

/-- A host's write before READY is dropped. -/
theorem gated_refused {s : State} {p : Fin 2} {o : Nat} {f : State → State} (h : isReady s = false)
    (e : earlyWritable o = false) : gated s (.pcie p) o f = logMaster s 0x8003 (.pcie p) (absReg o) := by
  simp [gated, h, e]

/-- What a command's effect is, as a next state. -/
theorem effect_eq (s t : State) : effect s t = .next { t with pending := s.pending } := rfl

end Sys2Proof.Machine
end

