-- ==== Sys2Proof/Laws/CanonBase.lean ====
section
/-! SUPPORT. The rules by which a meaning is shown to keep the canonical form: one for each way in which meanings are
put together. -/

namespace Sys2Proof.Machine
open Sys2Proof

/-- Both states of a progress unit in hand are canonical. -/
structure Run.Canonical (r : Run) : Prop where
  st : r.st.Canonical
  base : r.base.Canonical

/-- A change of what the canonical form does not speak of keeps it. -/
theorem congr_canon {s t : State} (h : s.Canonical) (h1 : t.regs = s.regs) (h2 : t.mem = s.mem) (h3 : t.tiles = s.tiles)
    (h4 : t.matPoison = s.matPoison) (h5 : t.towPoison = s.towPoison) (h6 : t.full = s.full) : t.Canonical :=
  ⟨h1 ▸ h.regs, h2 ▸ h.mem, h3 ▸ h.tiles, h4 ▸ h.matPoison, h5 ▸ h.towPoison, h6 ▸ h.full⟩

/-- Whatever next state an answer names is canonical. -/
def AnswerCanonical (a : Answer) : Prop := ∀ t, a = .next t → t.Canonical

theorem effect_canon {s t : State} (h : t.Canonical) : AnswerCanonical (effect s t) := by
  intro u hu
  cases hu
  exact ⟨h.regs, h.mem, h.tiles, h.matPoison, h.towPoison, h.full⟩

theorem ifOk_canon {s t : State} {b : Bool} (h : t.Canonical) : AnswerCanonical (ifOk s b t) := by
  unfold ifOk
  split
  · exact effect_canon h
  · intro u hu; cases hu

theorem next_canon {s : State} (h : s.Canonical) : AnswerCanonical (.next s) := by
  intro u hu; cases hu; exact h

theorem setReg_canon {s : State} {o : Nat} {v : Word} (h : s.Canonical) : (setReg s o v).Canonical :=
  ⟨mset_wf h.regs, h.mem, h.tiles, h.matPoison, h.towPoison, h.full⟩

theorem reset_canon : State.reset.Canonical := ⟨rfl, rfl, rfl, rfl, rfl, rfl⟩

end Sys2Proof.Machine
end

