-- ==== Sys2Proof/Laws/CanonState.lean ====
section
/-! SUPPORT. Every operation keeps the canonical form: registers, memory, the event log, queues and links. -/

namespace Sys2Proof.Machine
open Sys2Proof

/-! ### Ops -/

theorem setF_canon {s : State} {o : ℕ} {lo : ℕ} {n : ℕ} {v : ℕ} (h_s : s.Canonical) :
    (setF s o lo n v).Canonical := by
  unfold setF
  repeat' first
    | with_reducible assumption | with_reducible apply setReg_canon

theorem setB_canon {s : State} {o : ℕ} {i : ℕ} {b : Bool} (h_s : s.Canonical) :
    (setB s o i b).Canonical := by
  unfold setB
  repeat' first
    | with_reducible assumption | with_reducible apply setF_canon

theorem bump_canon {s : State} {o : ℕ} {k : ℕ} (h_s : s.Canonical) :
    (bump s o k).Canonical := by
  unfold bump
  repeat' first
    | with_reducible assumption | with_reducible apply setReg_canon

theorem bump32_canon {s : State} {o : ℕ} {k : ℕ} (h_s : s.Canonical) :
    (bump32 s o k).Canonical := by
  unfold bump32
  repeat' first
    | with_reducible assumption | with_reducible apply setF_canon

theorem bumpUnits_canon {s : State} {o : ℕ} {u : ℕ} {k : ℕ} (h_s : s.Canonical) :
    (bumpUnits s o u k).Canonical := by
  unfold bumpUnits
  repeat' first
    | with_reducible assumption | with_reducible apply bump_canon | dsimp only
    | with_reducible apply State.Canonical.regs | with_reducible apply State.Canonical.mem
    | with_reducible apply State.Canonical.tiles | with_reducible apply State.Canonical.matPoison
    | with_reducible apply State.Canonical.towPoison | with_reducible apply State.Canonical.full
    | (refine State.Canonical.mk ?_ ?_ ?_ ?_ ?_ ?_ <;> dsimp only)

theorem takeFree_canon {s : State} (h_s : s.Canonical) :
    ((takeFree s).2).Canonical := by
  unfold takeFree
  repeat' first
    | with_reducible assumption | dsimp only | with_reducible apply State.Canonical.regs
    | with_reducible apply State.Canonical.mem | with_reducible apply State.Canonical.tiles
    | with_reducible apply State.Canonical.matPoison | with_reducible apply State.Canonical.towPoison
    | with_reducible apply State.Canonical.full | (refine State.Canonical.mk ?_ ?_ ?_ ?_ ?_ ?_ <;> dsimp only)

theorem advanceTo_canon {s : State} {b : ℕ} (h_s : s.Canonical) :
    (advanceTo s b).Canonical := by
  unfold advanceTo
  repeat' first
    | with_reducible assumption | with_reducible apply setReg_canon | with_reducible apply bump_canon | split

theorem countNd_canon {s : State} {o : ℕ} {k : ℕ} (h_s : s.Canonical) :
    (countNd s o k).Canonical := by
  unfold countNd
  repeat' first
    | with_reducible assumption | with_reducible apply bump_canon

theorem setPort_canon {s : State} {p : ℕ} {x : PortState} (h_s : s.Canonical) :
    (setPort s p x).Canonical := by
  unfold setPort
  repeat' first
    | with_reducible assumption | split | dsimp only | with_reducible apply State.Canonical.regs
    | with_reducible apply State.Canonical.mem | with_reducible apply State.Canonical.tiles
    | with_reducible apply State.Canonical.matPoison | with_reducible apply State.Canonical.towPoison
    | with_reducible apply State.Canonical.full | (refine State.Canonical.mk ?_ ?_ ?_ ?_ ?_ ?_ <;> dsimp only)

theorem emit_canon {s : State} {x : HostOut} (h_s : s.Canonical) :
    (emit s x).Canonical := by
  unfold emit
  repeat' first
    | with_reducible assumption | dsimp only | with_reducible apply State.Canonical.regs
    | with_reducible apply State.Canonical.mem | with_reducible apply State.Canonical.tiles
    | with_reducible apply State.Canonical.matPoison | with_reducible apply State.Canonical.towPoison
    | with_reducible apply State.Canonical.full | (refine State.Canonical.mk ?_ ?_ ?_ ?_ ?_ ?_ <;> dsimp only)

theorem sendVector_canon {s : State} {p : ℕ} {v : ℕ} (h_s : s.Canonical) :
    (sendVector s p v).Canonical := by
  unfold sendVector
  repeat' first
    | with_reducible assumption | with_reducible apply emit_canon | split | dsimp only
    | with_reducible apply State.Canonical.regs | with_reducible apply State.Canonical.mem
    | with_reducible apply State.Canonical.tiles | with_reducible apply State.Canonical.matPoison
    | with_reducible apply State.Canonical.towPoison | with_reducible apply State.Canonical.full
    | (refine State.Canonical.mk ?_ ?_ ?_ ?_ ?_ ?_ <;> dsimp only)

theorem raiseOn_canon {s : State} {p : ℕ} {src : ℕ} (h_s : s.Canonical) :
    (raiseOn s p src).Canonical := by
  unfold raiseOn
  repeat' first
    | with_reducible assumption | with_reducible apply sendVector_canon | with_reducible apply setB_canon | split

theorem raiseIrq_canon {s : State} {src : ℕ} (h_s : s.Canonical) :
    (raiseIrq s src).Canonical := by
  unfold raiseIrq
  repeat' first
    | with_reducible assumption | with_reducible apply raiseOn_canon

theorem logEntry_canon {s : State} {e : LogEntry} (h_s : s.Canonical) :
    (logEntry s e).Canonical := by
  unfold logEntry
  dsimp only
  split
  · exact congr_canon h_s rfl rfl rfl rfl rfl rfl
  · split
    · split
      · exact congr_canon h_s rfl rfl rfl rfl rfl rfl
      · exact h_s
    · split
      · exact bump32_canon (congr_canon h_s rfl rfl rfl rfl rfl rfl)
      · exact congr_canon h_s rfl rfl rfl rfl rfl rfl

theorem logEv_canon {s : State} {code : ℕ} {cls : ℕ} {idx : ℕ} {pay : ℕ} (h_s : s.Canonical) :
    (logEv s code cls idx pay).Canonical := by
  unfold logEv
  repeat' first
    | with_reducible assumption | with_reducible apply logEntry_canon

theorem logQueue_canon {s : State} {code : ℕ} {r : ℕ} {pay : ℕ} (h_s : s.Canonical) :
    (logQueue s code r pay).Canonical := by
  unfold logQueue
  repeat' first
    | with_reducible assumption | with_reducible apply logEv_canon

theorem logChip_canon {s : State} {code : ℕ} {pay : ℕ} (h_s : s.Canonical) :
    (logChip s code pay).Canonical := by
  unfold logChip
  repeat' first
    | with_reducible assumption | with_reducible apply logEv_canon

theorem logMaster_canon {s : State} {code : ℕ} {m : Master} {addr : ℕ} (h_s : s.Canonical) :
    (logMaster s code m addr).Canonical := by
  unfold logMaster
  repeat' first
    | with_reducible assumption | with_reducible apply logEv_canon

/-! ### Mem -/

theorem memSet_canon {s : State} {k : ℕ} {v : Byte} (h_s : s.Canonical) :
    (memSet s k v).Canonical := by
  unfold memSet
  repeat' first
    | with_reducible assumption | with_reducible apply mset_wf | dsimp only
    | with_reducible apply State.Canonical.regs | with_reducible apply State.Canonical.mem
    | with_reducible apply State.Canonical.tiles | with_reducible apply State.Canonical.matPoison
    | with_reducible apply State.Canonical.towPoison | with_reducible apply State.Canonical.full
    | (refine State.Canonical.mk ?_ ?_ ?_ ?_ ?_ ?_ <;> dsimp only)

theorem putByte_canon {s : State} {a : ℕ} {v : Byte} (h_s : s.Canonical) :
    (putByte s a v).Canonical := by
  unfold putByte
  repeat' first
    | with_reducible assumption | with_reducible apply memSet_canon | split

theorem putBytes_canon {s : State} {a : ℕ} {x2 : List Byte} (h_s : s.Canonical) :
    (putBytes s a x2).Canonical := by
  revert h_s
  fun_induction putBytes s a x2
  all_goals
    try rename_i ih
    intro h_s
    repeat' first
      | with_reducible assumption | with_reducible apply ih | with_reducible apply putByte_canon

theorem countMatPoison_canon {s : State} {r : ℕ} {up : Bool} (h_s : s.Canonical) :
    (countMatPoison s r up).Canonical := by
  unfold countMatPoison
  repeat' first
    | with_reducible assumption | with_reducible apply setF_canon

theorem countTowPoison_canon {s : State} {t : ℕ} {up : Bool} (h_s : s.Canonical) :
    (countTowPoison s t up).Canonical := by
  unfold countTowPoison
  repeat' first
    | with_reducible assumption | with_reducible apply setReg_canon

theorem poisonLine_canon {s : State} {l : ℕ} (h_s : s.Canonical) :
    (poisonLine s l).Canonical := by
  unfold poisonLine
  repeat' first
    | with_reducible assumption | with_reducible apply countMatPoison_canon | with_reducible apply sins_wf | split
    | dsimp only | with_reducible apply State.Canonical.regs | with_reducible apply State.Canonical.mem
    | with_reducible apply State.Canonical.tiles | with_reducible apply State.Canonical.matPoison
    | with_reducible apply State.Canonical.towPoison | with_reducible apply State.Canonical.full
    | (refine State.Canonical.mk ?_ ?_ ?_ ?_ ?_ ?_ <;> dsimp only)

theorem clearLine_canon {s : State} {l : ℕ} (h_s : s.Canonical) :
    (clearLine s l).Canonical := by
  unfold clearLine
  repeat' first
    | with_reducible assumption | with_reducible apply countMatPoison_canon | with_reducible apply sdel_wf | split
    | dsimp only | with_reducible apply State.Canonical.regs | with_reducible apply State.Canonical.mem
    | with_reducible apply State.Canonical.tiles | with_reducible apply State.Canonical.matPoison
    | with_reducible apply State.Canonical.towPoison | with_reducible apply State.Canonical.full
    | (refine State.Canonical.mk ?_ ?_ ?_ ?_ ?_ ?_ <;> dsimp only)

theorem poisonGranule_canon {s : State} {g : ℕ} (h_s : s.Canonical) :
    (poisonGranule s g).Canonical := by
  unfold poisonGranule
  repeat' first
    | with_reducible assumption | with_reducible apply countTowPoison_canon | with_reducible apply sins_wf | split
    | dsimp only | with_reducible apply State.Canonical.regs | with_reducible apply State.Canonical.mem
    | with_reducible apply State.Canonical.tiles | with_reducible apply State.Canonical.matPoison
    | with_reducible apply State.Canonical.towPoison | with_reducible apply State.Canonical.full
    | (refine State.Canonical.mk ?_ ?_ ?_ ?_ ?_ ?_ <;> dsimp only)

theorem clearGranule_canon {s : State} {g : ℕ} (h_s : s.Canonical) :
    (clearGranule s g).Canonical := by
  unfold clearGranule
  repeat' first
    | with_reducible assumption | with_reducible apply countTowPoison_canon | with_reducible apply sdel_wf | split
    | dsimp only | with_reducible apply State.Canonical.regs | with_reducible apply State.Canonical.mem
    | with_reducible apply State.Canonical.tiles | with_reducible apply State.Canonical.matPoison
    | with_reducible apply State.Canonical.towPoison | with_reducible apply State.Canonical.full
    | (refine State.Canonical.mk ?_ ?_ ?_ ?_ ?_ ?_ <;> dsimp only)

theorem poisonAt_canon {s : State} {a : ℕ} (h_s : s.Canonical) :
    (poisonAt s a).Canonical := by
  unfold poisonAt
  repeat' first
    | with_reducible assumption | with_reducible apply poisonGranule_canon | with_reducible apply poisonLine_canon
    | split

theorem matReport_canon {s : State} {r : ℕ} {o : ℕ} {kind : ℕ} {code : ℕ} (h_s : s.Canonical) :
    (matReport s r o kind code).Canonical := by
  unfold matReport
  repeat' first
    | with_reducible assumption | with_reducible apply logEv_canon | with_reducible apply setF_canon

theorem towReport_canon {s : State} {h : ℕ} {kind : ℕ} {code : ℕ} (h_s : s.Canonical) :
    (towReport s h kind code).Canonical := by
  unfold towReport
  repeat' first
    | with_reducible assumption | with_reducible apply logEv_canon | with_reducible apply setF_canon

theorem matArrival_canon {s : State} {r : ℕ} {o : ℕ} (h_s : s.Canonical) : (matArrival s r o).Canonical :=
  setF_canon (bump32_canon h_s)

theorem towArrival_canon {s : State} {h : ℕ} (h_s : s.Canonical) : (towArrival s h).Canonical :=
  setF_canon (bump_canon h_s)

theorem dropUpset_canon {s : State} {k : ℕ} (h_s : s.Canonical) :
    (dropUpset s k).Canonical := by
  unfold dropUpset
  repeat' first
    | with_reducible assumption | intro _ | dsimp only | with_reducible apply State.Canonical.regs
    | with_reducible apply State.Canonical.mem | with_reducible apply State.Canonical.tiles
    | with_reducible apply State.Canonical.matPoison | with_reducible apply State.Canonical.towPoison
    | with_reducible apply State.Canonical.full | (refine State.Canonical.mk ?_ ?_ ?_ ?_ ?_ ?_ <;> dsimp only)

theorem readHbm_canon {s : State} {h : ℕ} {res : Bool} (h_s : s.Canonical) :
    (readHbm s h res).Canonical := by
  unfold readHbm
  repeat' first
    | with_reducible assumption | with_reducible apply poisonGranule_canon | with_reducible apply towReport_canon
    | with_reducible apply bump_canon | split | dsimp only

theorem readMat_canon {s : State} {r : ℕ} {o : ℕ} {producer : Bool} (h_s : s.Canonical) :
    (readMat s r o producer).Canonical := by
  unfold readMat
  repeat' first
    | with_reducible assumption | with_reducible apply poisonLine_canon | with_reducible apply matReport_canon
    | with_reducible apply bump32_canon | with_reducible apply dropUpset_canon | with_reducible apply countNd_canon
    | split | dsimp only

theorem noteRead_canon {s : State} {a : ℕ} {res : Bool} {producer : Bool} (h_s : s.Canonical) :
    (noteRead s a res producer).Canonical := by
  unfold noteRead
  repeat' first
    | with_reducible assumption | with_reducible apply readHbm_canon | with_reducible apply readMat_canon | split

theorem externalWrite_canon {s : State} {a : ℕ} {data : List Byte} (h_s : s.Canonical) :
    (externalWrite s a data).Canonical := by
  unfold externalWrite
  repeat' first
    | with_reducible assumption | with_reducible apply forRange_keeps | with_reducible apply clearLine_canon
    | with_reducible apply dropUpset_canon | with_reducible apply putBytes_canon | intro _ | split | dsimp only

/-! ### Tables -/

theorem snapshotDone_canon {s : State} (h_s : s.Canonical) :
    (snapshotDone s).Canonical := by
  unfold snapshotDone
  repeat' first
    | with_reducible assumption | with_reducible apply forRange_keeps | with_reducible apply setB_canon
    | with_reducible apply setF_canon | with_reducible apply logEv_canon | intro _ | split | dsimp only | exact rfl
    | with_reducible apply State.Canonical.regs | with_reducible apply State.Canonical.mem
    | with_reducible apply State.Canonical.tiles | with_reducible apply State.Canonical.matPoison
    | with_reducible apply State.Canonical.towPoison | with_reducible apply State.Canonical.full
    | (refine State.Canonical.mk ?_ ?_ ?_ ?_ ?_ ?_ <;> dsimp only)

theorem restoreDone_canon {s : State} (h_s : s.Canonical) :
    (restoreDone s).Canonical := by
  unfold restoreDone
  repeat' first
    | with_reducible assumption | with_reducible apply setReg_canon | dsimp only
    | with_reducible apply State.Canonical.regs | with_reducible apply State.Canonical.mem
    | with_reducible apply State.Canonical.tiles | with_reducible apply State.Canonical.matPoison
    | with_reducible apply State.Canonical.towPoison | with_reducible apply State.Canonical.full
    | (refine State.Canonical.mk ?_ ?_ ?_ ?_ ?_ ?_ <;> dsimp only)

/-! ### Fronds -/

theorem putFrond_canon {s : State} {f : Frond} (h_s : s.Canonical) :
    (putFrond s f).Canonical := by
  unfold putFrond
  repeat' first
    | with_reducible assumption | intro _ | split | dsimp only | with_reducible apply State.Canonical.regs
    | with_reducible apply State.Canonical.mem | with_reducible apply State.Canonical.tiles
    | with_reducible apply State.Canonical.matPoison | with_reducible apply State.Canonical.towPoison
    | with_reducible apply State.Canonical.full | (refine State.Canonical.mk ?_ ?_ ?_ ?_ ?_ ?_ <;> dsimp only)

theorem dropFrond_canon {s : State} {f : Frond} (h_s : s.Canonical) :
    (dropFrond s f).Canonical := by
  unfold dropFrond
  repeat' first
    | with_reducible assumption | intro _ | dsimp only | with_reducible apply State.Canonical.regs
    | with_reducible apply State.Canonical.mem | with_reducible apply State.Canonical.tiles
    | with_reducible apply State.Canonical.matPoison | with_reducible apply State.Canonical.towPoison
    | with_reducible apply State.Canonical.full | (refine State.Canonical.mk ?_ ?_ ?_ ?_ ?_ ?_ <;> dsimp only)

theorem consumeWaits_canon {s : State} {f : Frond} (h_s : s.Canonical) :
    (consumeWaits s f).Canonical := by
  unfold consumeWaits
  repeat' first
    | with_reducible assumption | with_reducible apply foldl_keeps | with_reducible apply setF_canon | intro _

theorem noteSignal_canon {s : State} {o : ℕ} {n : ℕ} (h_s : s.Canonical) :
    (noteSignal s o n).Canonical := by
  unfold noteSignal
  repeat' first
    | with_reducible assumption | dsimp only | with_reducible apply State.Canonical.regs
    | with_reducible apply State.Canonical.mem | with_reducible apply State.Canonical.tiles
    | with_reducible apply State.Canonical.matPoison | with_reducible apply State.Canonical.towPoison
    | with_reducible apply State.Canonical.full | (refine State.Canonical.mk ?_ ?_ ?_ ?_ ?_ ?_ <;> dsimp only)

theorem signal_canon {s : State} {r : ℕ} {t : TokWord} (h_s : s.Canonical) :
    (signal s r t).Canonical := by
  unfold signal
  repeat' first
    | with_reducible assumption | with_reducible apply noteSignal_canon | with_reducible apply setF_canon
    | with_reducible apply logQueue_canon | with_reducible apply logChip_canon | split | dsimp only

theorem applySignals_canon {s : State} {f : Frond} (h_s : s.Canonical) :
    (applySignals s f).Canonical := by
  unfold applySignals
  repeat' first
    | with_reducible assumption | with_reducible apply foldl_keeps | with_reducible apply signal_canon | intro _

theorem logFrondAt_canon {s : State} {f : Frond} {b : ℕ} {code : ℕ} {pay : ℕ} (h_s : s.Canonical) :
    (logFrondAt s f b code pay).Canonical := by
  unfold logFrondAt
  repeat' first
    | with_reducible assumption | with_reducible apply logEntry_canon

theorem logFrond_canon {s : State} {f : Frond} {code : ℕ} {pay : ℕ} (h_s : s.Canonical) :
    (logFrond s f code pay).Canonical := by
  unfold logFrond
  repeat' first
    | with_reducible assumption | with_reducible apply logFrondAt_canon

theorem logUnit_canon {s : State} {f : Frond} {code : ℕ} {cls : ℕ} {idx : ℕ} {pay : ℕ} (h_s : s.Canonical) :
    (logUnit s f code cls idx pay).Canonical := by
  unfold logUnit
  repeat' first
    | with_reducible assumption | with_reducible apply logEntry_canon

theorem unpend_canon {s : State} {f : Frond} (h_s : s.Canonical) :
    (unpend s f).Canonical := by
  unfold unpend
  repeat' first
    | with_reducible assumption | with_reducible apply foldl_keeps | with_reducible apply setB_canon | intro _ | split
    | dsimp only | with_reducible apply State.Canonical.regs | with_reducible apply State.Canonical.mem
    | with_reducible apply State.Canonical.tiles | with_reducible apply State.Canonical.matPoison
    | with_reducible apply State.Canonical.towPoison | with_reducible apply State.Canonical.full
    | (refine State.Canonical.mk ?_ ?_ ?_ ?_ ?_ ?_ <;> dsimp only)

theorem pendAt_canon {s : State} {f : Frond} (h_s : s.Canonical) :
    (pendAt s f).Canonical := by
  unfold pendAt
  repeat' first
    | with_reducible assumption | with_reducible apply putFrond_canon | with_reducible apply foldl_keeps
    | with_reducible apply setB_canon | with_reducible apply setF_canon | intro _

theorem noteServed_canon {s : State} {f : Frond} (h_s : s.Canonical) :
    (noteServed s f).Canonical := by
  unfold noteServed
  repeat' first
    | with_reducible assumption | with_reducible apply foldl_keeps | with_reducible apply setReg_canon | intro _
    | split

theorem poisonUnit_canon {s : State} {d : Slot} {p : ℤ} (h_s : s.Canonical) :
    (poisonUnit s d p).Canonical := by
  unfold poisonUnit
  repeat' first
    | with_reducible assumption | with_reducible apply forRange_keeps | with_reducible apply poisonAt_canon | intro _
    | split

theorem poisonSlot_canon {s : State} {f : Frond} {i : ℕ} (h_s : s.Canonical) :
    (poisonSlot s f i).Canonical := by
  unfold poisonSlot
  repeat' first
    | with_reducible assumption | with_reducible apply forRange_keeps | with_reducible apply poisonUnit_canon
    | intro _ | split | dsimp only

theorem poisonTile_canon {s : State} {k : ℕ} {b : Bool} (h_s : s.Canonical) :
    (poisonTile s k b).Canonical := by
  unfold poisonTile
  repeat' first
    | with_reducible assumption | with_reducible apply setB_canon

theorem poisonCtd_canon {s : State} {d : Slot} (h_s : s.Canonical) :
    (poisonCtd s d).Canonical := by
  unfold poisonCtd
  repeat' first
    | with_reducible assumption | with_reducible apply putByte_canon | split

theorem poisonDests_canon {s : State} {f : Frond} {x : Status} (h_s : s.Canonical) :
    (poisonDests s f x).Canonical := by
  unfold poisonDests
  repeat' first
    | with_reducible assumption | with_reducible apply foldl_keeps | with_reducible apply poisonTile_canon
    | with_reducible apply forRange_keeps | with_reducible apply poisonAt_canon | with_reducible apply poisonCtd_canon
    | with_reducible apply poisonSlot_canon | with_reducible apply poisonLine_canon | intro _ | split

theorem poisonWritten_canon {s : State} {f : Frond} (h_s : s.Canonical) :
    (poisonWritten s f).Canonical := by
  unfold poisonWritten
  repeat' first
    | with_reducible assumption | with_reducible apply foldl_keeps | with_reducible apply poisonTile_canon
    | with_reducible apply poisonGranule_canon | with_reducible apply poisonLine_canon
    | with_reducible apply poisonCtd_canon | intro _ | split

theorem clearWhole_canon {s : State} {f : Frond} (h_s : s.Canonical) :
    (clearWhole s f).Canonical := by
  unfold clearWhole
  repeat' first
    | with_reducible assumption | with_reducible apply foldl_keeps | with_reducible apply clearGranule_canon
    | with_reducible apply poisonTile_canon | with_reducible apply clearLine_canon | intro _ | split

theorem settlePoison_canon {s : State} {f : Frond} (h_s : s.Canonical) :
    (settlePoison s f).Canonical := by
  unfold settlePoison
  repeat' first
    | with_reducible assumption | with_reducible apply clearWhole_canon | with_reducible apply poisonWritten_canon
    | with_reducible apply poisonDests_canon | split | dsimp only

theorem openEp_canon {s : State} {k : ℕ} (h_s : s.Canonical) :
    (openEp s k).Canonical := by
  unfold openEp
  repeat' first
    | with_reducible assumption | dsimp only | with_reducible apply State.Canonical.regs
    | with_reducible apply State.Canonical.mem | with_reducible apply State.Canonical.tiles
    | with_reducible apply State.Canonical.matPoison | with_reducible apply State.Canonical.towPoison
    | with_reducible apply State.Canonical.full | (refine State.Canonical.mk ?_ ?_ ?_ ?_ ?_ ?_ <;> dsimp only)

theorem closeEp_canon {s : State} {k : ℕ} (h_s : s.Canonical) :
    (closeEp s k).Canonical := by
  unfold closeEp
  repeat' first
    | with_reducible assumption | dsimp only | with_reducible apply State.Canonical.regs
    | with_reducible apply State.Canonical.mem | with_reducible apply State.Canonical.tiles
    | with_reducible apply State.Canonical.matPoison | with_reducible apply State.Canonical.towPoison
    | with_reducible apply State.Canonical.full | (refine State.Canonical.mk ?_ ?_ ?_ ?_ ?_ ?_ <;> dsimp only)

theorem oncePer_canon {s : State} {k : ℕ} {ev : State → State} (h_s : s.Canonical) (h_ev : (∀ y0, y0.Canonical → (ev y0).Canonical)) :
    (oncePer s k ev).Canonical := by
  unfold oncePer
  repeat' first
    | with_reducible assumption | with_reducible apply h_ev | with_reducible apply openEp_canon | split

theorem storeRecord_canon {s : State} {f : Frond} {bits : ℕ} (h_s : s.Canonical) :
    (storeRecord s f bits).Canonical := by
  unfold storeRecord
  repeat' first
    | with_reducible assumption | with_reducible apply setF_canon | with_reducible apply closeEp_canon
    | with_reducible apply putBytes_canon | with_reducible apply oncePer_canon | with_reducible apply logQueue_canon
    | intro _ | split

theorem writeRecord_canon {s : State} {f : Frond} {b : ℕ} (h_s : s.Canonical) :
    (writeRecord s f b).Canonical := by
  unfold writeRecord
  repeat' first
    | with_reducible assumption | with_reducible apply storeRecord_canon | with_reducible apply closeEp_canon
    | with_reducible apply oncePer_canon | with_reducible apply setF_canon | with_reducible apply logQueue_canon
    | intro _ | split

theorem noteMiss_canon {s : State} {f : Frond} {b : ℕ} (h_s : s.Canonical) :
    (noteMiss s f b).Canonical := by
  unfold noteMiss
  repeat' first
    | with_reducible assumption | with_reducible apply bump_canon | with_reducible apply logFrondAt_canon
    | with_reducible apply raiseIrq_canon | split | dsimp only

theorem advanceHead_canon {s : State} {r : ℕ} {q : ℕ} {x3 : ℕ} (h_s : s.Canonical) :
    (advanceHead s r q x3).Canonical := by
  revert h_s
  fun_induction advanceHead s r q x3
  all_goals
    try rename_i ih
    intro h_s
    repeat' first
      | with_reducible assumption | with_reducible apply ih | with_reducible apply setF_canon | split | dsimp only
      | dsimp +zetaDelta only | with_reducible apply State.Canonical.regs | with_reducible apply State.Canonical.mem
      | with_reducible apply State.Canonical.tiles | with_reducible apply State.Canonical.matPoison
      | with_reducible apply State.Canonical.towPoison | with_reducible apply State.Canonical.full
      | (refine State.Canonical.mk ?_ ?_ ?_ ?_ ?_ ?_ <;> dsimp only)

theorem imageStep_canon {s : State} {r : ℕ} {q : ℕ} (h_s : s.Canonical) :
    (imageStep s r q).Canonical := by
  unfold imageStep
  repeat' first
    | with_reducible assumption | with_reducible apply logQueue_canon | with_reducible apply setB_canon
    | with_reducible apply setF_canon | intro _ | split | dsimp only | with_reducible apply State.Canonical.regs
    | with_reducible apply State.Canonical.mem | with_reducible apply State.Canonical.tiles
    | with_reducible apply State.Canonical.matPoison | with_reducible apply State.Canonical.towPoison
    | with_reducible apply State.Canonical.full | (refine State.Canonical.mk ?_ ?_ ?_ ?_ ?_ ?_ <;> dsimp only)

theorem tileRelease_canon {s : State} {f : Frond} (h_s : s.Canonical) :
    (tileRelease s f).Canonical := by
  unfold tileRelease
  repeat' first
    | with_reducible assumption | with_reducible apply setReg_canon | intro _ | split | dsimp only
    | with_reducible apply State.Canonical.regs | with_reducible apply State.Canonical.mem
    | with_reducible apply State.Canonical.tiles | with_reducible apply State.Canonical.matPoison
    | with_reducible apply State.Canonical.towPoison | with_reducible apply State.Canonical.full
    | (refine State.Canonical.mk ?_ ?_ ?_ ?_ ?_ ?_ <;> dsimp only)

theorem failRelease_canon {s : State} {f : Frond} (h_s : s.Canonical) :
    (failRelease s f).Canonical := by
  unfold failRelease
  repeat' first
    | with_reducible assumption | with_reducible apply restoreDone_canon | with_reducible apply snapshotDone_canon
    | intro _ | split | dsimp only | exact rfl | with_reducible apply State.Canonical.regs
    | with_reducible apply State.Canonical.mem | with_reducible apply State.Canonical.tiles
    | with_reducible apply State.Canonical.matPoison | with_reducible apply State.Canonical.towPoison
    | with_reducible apply State.Canonical.full | (refine State.Canonical.mk ?_ ?_ ?_ ?_ ?_ ?_ <;> dsimp only)

theorem countSwitch_canon {s : State} {f : Frond} (h_s : s.Canonical) :
    (countSwitch s f).Canonical := by
  unfold countSwitch
  repeat' first
    | with_reducible assumption | with_reducible apply bump_canon | split

theorem releaseNow_canon {s : State} {f : Frond} {b : ℕ} (h_s : s.Canonical) :
    (releaseNow s f b).Canonical := by
  unfold releaseNow
  extract_lets s1 s2 s3 s4 s5 s6
  have h1 : s1.Canonical := noteServed_canon (unpend_canon (settlePoison_canon (noteMiss_canon (countSwitch_canon h_s))))
  have h2 : s2.Canonical := applySignals_canon (failRelease_canon (tileRelease_canon h1))
  have h3 : s3.Canonical := by
    unfold s3; split
    · exact writeRecord_canon h2
    · exact h2
  have h4 : s4.Canonical := by
    unfold s4; split
    · exact raiseIrq_canon h3
    · exact h3
  have h5 : s5.Canonical := dropFrond_canon h4
  exact imageStep_canon (advanceHead_canon (congr_canon h5 rfl rfl rfl rfl rfl rfl))

theorem release_canon {s : State} {f : Frond} (h_s : s.Canonical) :
    (release s f).Canonical := by
  unfold release
  repeat' first
    | with_reducible assumption | with_reducible apply releaseNow_canon | with_reducible apply oncePer_canon
    | with_reducible apply dropFrond_canon | with_reducible apply logQueue_canon | intro _ | split | dsimp only
    | with_reducible apply State.Canonical.regs | with_reducible apply State.Canonical.mem
    | with_reducible apply State.Canonical.tiles | with_reducible apply State.Canonical.matPoison
    | with_reducible apply State.Canonical.towPoison | with_reducible apply State.Canonical.full
    | (refine State.Canonical.mk ?_ ?_ ?_ ?_ ?_ ?_ <;> dsimp only)

theorem releaseHeld_canon {s : State} {r : ℕ} {q : ℕ} {x3 : ℕ} (h_s : s.Canonical) :
    (releaseHeld s r q x3).Canonical := by
  revert h_s
  fun_induction releaseHeld s r q x3
  all_goals
    try rename_i ih
    intro h_s
    repeat' first
      | with_reducible assumption | with_reducible apply ih | with_reducible apply releaseNow_canon
      | with_reducible apply closeEp_canon

/-! ### Gate -/

theorem gated_canon {s : State} {m : Master} {o : ℕ} {eff : State → State} (h_s : s.Canonical) (h_eff : (∀ y0, y0.Canonical → (eff y0).Canonical)) :
    (gated s m o eff).Canonical := by
  unfold gated
  repeat' first
    | with_reducible assumption | with_reducible apply h_eff | with_reducible apply logMaster_canon | split

/-! ### QueueRegs -/

theorem logQueueReg_canon {s : State} {code : ℕ} {r : ℕ} {q : ℕ} {o : ℕ} (h_s : s.Canonical) :
    (logQueueReg s code r q o).Canonical := by
  unfold logQueueReg
  repeat' first
    | with_reducible assumption | with_reducible apply logQueue_canon

theorem wrQtail_canon {s : State} {r : ℕ} {q : ℕ} {t : ℕ} (h_s : s.Canonical) :
    (wrQtail s r q t).Canonical := by
  unfold wrQtail
  repeat' first
    | with_reducible assumption | with_reducible apply setF_canon | with_reducible apply logQueueReg_canon | intro _
    | split | dsimp only | with_reducible apply State.Canonical.regs | with_reducible apply State.Canonical.mem
    | with_reducible apply State.Canonical.tiles | with_reducible apply State.Canonical.matPoison
    | with_reducible apply State.Canonical.towPoison | with_reducible apply State.Canonical.full
    | (refine State.Canonical.mk ?_ ?_ ?_ ?_ ?_ ?_ <;> dsimp only)

theorem wrCrtail_canon {s : State} {r : ℕ} {q : ℕ} {t : ℕ} (h_s : s.Canonical) :
    (wrCrtail s r q t).Canonical := by
  unfold wrCrtail
  repeat' first
    | with_reducible assumption | with_reducible apply releaseHeld_canon | with_reducible apply setF_canon

theorem fetchBad_canon {s : State} {r : ℕ} {q : ℕ} {a : ℕ} (h_s : s.Canonical) :
    (fetchBad s r q a).Canonical := by
  unfold fetchBad
  repeat' first
    | with_reducible assumption | with_reducible apply logQueue_canon | with_reducible apply setB_canon | split

theorem startImage_canon {s : State} {r : ℕ} {q : ℕ} (h_s : s.Canonical) :
    (startImage s r q).Canonical := by
  unfold startImage
  repeat' first
    | with_reducible assumption | with_reducible apply setF_canon | with_reducible apply logQueue_canon
    | with_reducible apply setB_canon | with_reducible apply fetchBad_canon | split | dsimp only
    | with_reducible apply State.Canonical.regs | with_reducible apply State.Canonical.mem
    | with_reducible apply State.Canonical.tiles | with_reducible apply State.Canonical.matPoison
    | with_reducible apply State.Canonical.towPoison | with_reducible apply State.Canonical.full
    | (refine State.Canonical.mk ?_ ?_ ?_ ?_ ?_ ?_ <;> dsimp only)

theorem wrEnable_canon {s : State} {r : ℕ} {q : ℕ} {en : Bool} (h_s : s.Canonical) :
    (wrEnable s r q en).Canonical := by
  unfold wrEnable
  repeat' first
    | with_reducible assumption | with_reducible apply setB_canon | with_reducible apply startImage_canon | split
    | dsimp only

theorem wrRestart_canon {s : State} {r : ℕ} {q : ℕ} (h_s : s.Canonical) :
    (wrRestart s r q).Canonical := by
  unfold wrRestart
  repeat' first
    | with_reducible assumption | with_reducible apply startImage_canon | with_reducible apply setB_canon | split

theorem wrQueueBase_canon {s : State} {r : ℕ} {q : ℕ} {o : ℕ} {v : Word} (h_s : s.Canonical) :
    (wrQueueBase s r q o v).Canonical := by
  unfold wrQueueBase
  repeat' first
    | with_reducible assumption | with_reducible apply logQueueReg_canon | with_reducible apply setF_canon | split

theorem wrCrcfg_canon {s : State} {r : ℕ} {q : ℕ} {v : Word} (h_s : s.Canonical) :
    (wrCrcfg s r q v).Canonical := by
  unfold wrCrcfg
  repeat' first
    | with_reducible assumption | with_reducible apply logQueueReg_canon | with_reducible apply setF_canon | split

theorem wrQctrl_canon {s : State} {r : ℕ} {q : ℕ} {v : Word} (h_s : s.Canonical) :
    (wrQctrl s r q v).Canonical := by
  unfold wrQctrl
  repeat' first
    | with_reducible assumption | with_reducible apply wrEnable_canon | with_reducible apply logQueueReg_canon
    | with_reducible apply setB_canon | with_reducible apply wrRestart_canon | split

theorem wrQueueCfg_canon {s : State} {r : ℕ} {q : ℕ} {k : QueueCfg} {v : Word} (h_s : s.Canonical) :
    (wrQueueCfg s r q k v).Canonical := by
  unfold wrQueueCfg
  repeat' first
    | with_reducible assumption | with_reducible apply wrQueueBase_canon | with_reducible apply closeEp_canon
    | with_reducible apply wrCrcfg_canon | with_reducible apply wrQctrl_canon | split

/-! ### Abort -/

theorem withdrawArrival_canon {s : State} {f : Frond} (h_s : s.Canonical) :
    (withdrawArrival s f).Canonical := by
  unfold withdrawArrival
  repeat' first
    | with_reducible assumption | intro _ | dsimp only | with_reducible apply State.Canonical.regs
    | with_reducible apply State.Canonical.mem | with_reducible apply State.Canonical.tiles
    | with_reducible apply State.Canonical.matPoison | with_reducible apply State.Canonical.towPoison
    | with_reducible apply State.Canonical.full | (refine State.Canonical.mk ?_ ?_ ?_ ?_ ?_ ?_ <;> dsimp only)

theorem abortFrond_canon {s : State} {f : Frond} (h_s : s.Canonical) :
    (abortFrond s f).Canonical := by
  unfold abortFrond
  repeat' first
    | with_reducible assumption | with_reducible apply withdrawArrival_canon | with_reducible apply putFrond_canon
    | split

theorem abortOne_canon {s : State} {r : ℕ} {q : ℕ} {k : ℕ} (h_s : s.Canonical) :
    (abortOne s r q k).Canonical := by
  unfold abortOne
  repeat' first
    | with_reducible assumption | with_reducible apply abortFrond_canon | intro _ | split | dsimp only
    | with_reducible apply State.Canonical.regs | with_reducible apply State.Canonical.mem
    | with_reducible apply State.Canonical.tiles | with_reducible apply State.Canonical.matPoison
    | with_reducible apply State.Canonical.towPoison | with_reducible apply State.Canonical.full
    | (refine State.Canonical.mk ?_ ?_ ?_ ?_ ?_ ?_ <;> dsimp only)

theorem wrAbort_canon {s : State} {r : ℕ} {q : ℕ} {seq : ℕ} {scope : ℕ} (h_s : s.Canonical) :
    (wrAbort s r q seq scope).Canonical := by
  unfold wrAbort
  repeat' first
    | with_reducible assumption | with_reducible apply foldl_keeps | with_reducible apply abortOne_canon
    | with_reducible apply logEntry_canon | intro _

theorem wrPreempt_canon {s : State} {r : ℕ} {q : ℕ} {mode : ℕ} (h_s : s.Canonical) :
    (wrPreempt s r q mode).Canonical := by
  unfold wrPreempt
  repeat' first
    | with_reducible assumption | with_reducible apply setB_canon | intro _ | split | dsimp only
    | with_reducible apply State.Canonical.regs | with_reducible apply State.Canonical.mem
    | with_reducible apply State.Canonical.tiles | with_reducible apply State.Canonical.matPoison
    | with_reducible apply State.Canonical.towPoison | with_reducible apply State.Canonical.full
    | (refine State.Canonical.mk ?_ ?_ ?_ ?_ ?_ ?_ <;> dsimp only)

theorem wrResume_canon {s : State} {r : ℕ} {q : ℕ} (h_s : s.Canonical) :
    (wrResume s r q).Canonical := by
  unfold wrResume
  repeat' first
    | with_reducible assumption | with_reducible apply setB_canon | intro _ | split | dsimp only
    | with_reducible apply State.Canonical.regs | with_reducible apply State.Canonical.mem
    | with_reducible apply State.Canonical.tiles | with_reducible apply State.Canonical.matPoison
    | with_reducible apply State.Canonical.towPoison | with_reducible apply State.Canonical.full
    | (refine State.Canonical.mk ?_ ?_ ?_ ?_ ?_ ?_ <;> dsimp only)

theorem undecode_canon {s : State} {r : ℕ} {q : ℕ} (h_s : s.Canonical) :
    (undecode s r q).Canonical := by
  unfold undecode
  repeat' first
    | with_reducible assumption | with_reducible apply setF_canon | intro _ | dsimp only
    | with_reducible apply State.Canonical.regs | with_reducible apply State.Canonical.mem
    | with_reducible apply State.Canonical.tiles | with_reducible apply State.Canonical.matPoison
    | with_reducible apply State.Canonical.towPoison | with_reducible apply State.Canonical.full
    | (refine State.Canonical.mk ?_ ?_ ?_ ?_ ?_ ?_ <;> dsimp only)

theorem preemptDone_canon {s : State} {r : ℕ} {q : ℕ} (h_s : s.Canonical) :
    (preemptDone s r q).Canonical := by
  unfold preemptDone
  repeat' first
    | with_reducible assumption | with_reducible apply logQueue_canon | with_reducible apply setB_canon
    | with_reducible apply undecode_canon | intro _ | split | dsimp only | with_reducible apply State.Canonical.regs
    | with_reducible apply State.Canonical.mem | with_reducible apply State.Canonical.tiles
    | with_reducible apply State.Canonical.matPoison | with_reducible apply State.Canonical.towPoison
    | with_reducible apply State.Canonical.full | (refine State.Canonical.mk ?_ ?_ ?_ ?_ ?_ ?_ <;> dsimp only)

/-! ### Primes -/

theorem primeBad_canon {s : State} {k : ℕ} {cause : ℕ} (h_s : s.Canonical) :
    (primeBad s k cause).Canonical := by
  unfold primeBad
  repeat' first
    | with_reducible assumption | with_reducible apply logEv_canon | with_reducible apply setF_canon

theorem loadPrime_canon {s : State} {k : ℕ} {q : ℕ} {root : ℕ} (h_s : s.Canonical) :
    (loadPrime s k q root).Canonical := by
  unfold loadPrime
  repeat' first
    | with_reducible assumption | with_reducible apply setF_canon | with_reducible apply setReg_canon
    | with_reducible apply primeBad_canon | intro _ | split

theorem loadPrimes_canon {s : State} {table : List Byte} (h_s : s.Canonical) :
    (loadPrimes s table).Canonical := by
  unfold loadPrimes
  repeat' first
    | with_reducible assumption | with_reducible apply logEv_canon | with_reducible apply setB_canon
    | with_reducible apply forRange_keeps | with_reducible apply loadPrime_canon | intro _

/-! ### Link -/

theorem setLinkPort_canon {s : State} {p : ℕ} {x : LinkPort} (h_s : s.Canonical) :
    (setLinkPort s p x).Canonical := by
  unfold setLinkPort
  repeat' first
    | with_reducible assumption | dsimp only | with_reducible apply State.Canonical.regs
    | with_reducible apply State.Canonical.mem | with_reducible apply State.Canonical.tiles
    | with_reducible apply State.Canonical.matPoison | with_reducible apply State.Canonical.towPoison
    | with_reducible apply State.Canonical.full | (refine State.Canonical.mk ?_ ?_ ?_ ?_ ?_ ?_ <;> dsimp only)

theorem logLink_canon {s : State} {code : ℕ} {p : ℕ} {reason : ℕ} {addr : ℕ} (h_s : s.Canonical) :
    (logLink s code p reason addr).Canonical := by
  unfold logLink
  repeat' first
    | with_reducible assumption | with_reducible apply logEv_canon

theorem transmit_canon {s : State} {p : ℕ} {k : Packet} (h_s : s.Canonical) :
    (transmit s p k).Canonical := by
  unfold transmit
  repeat' first
    | with_reducible assumption | with_reducible apply setLinkPort_canon | with_reducible apply bump_canon | intro _
    | dsimp only | with_reducible apply State.Canonical.regs | with_reducible apply State.Canonical.mem
    | with_reducible apply State.Canonical.tiles | with_reducible apply State.Canonical.matPoison
    | with_reducible apply State.Canonical.towPoison | with_reducible apply State.Canonical.full
    | (refine State.Canonical.mk ?_ ?_ ?_ ?_ ?_ ?_ <;> dsimp only)

theorem drainPort_canon {s : State} {p : ℕ} {x2 : ℕ} (h_s : s.Canonical) :
    (drainPort s p x2).Canonical := by
  revert h_s
  fun_induction drainPort s p x2
  all_goals
    try rename_i ih
    intro h_s
    repeat' first
      | with_reducible assumption | with_reducible apply ih | with_reducible apply transmit_canon
      | with_reducible apply setLinkPort_canon

theorem sendOn_canon {s : State} {p : ℕ} {k : Packet} (h_s : s.Canonical) :
    (sendOn s p k).Canonical := by
  unfold sendOn
  repeat' first
    | with_reducible assumption | with_reducible apply drainPort_canon | with_reducible apply setLinkPort_canon
    | split

theorem routeOut_canon {s : State} {k : Packet} {die : ℕ} (h_s : s.Canonical) :
    (routeOut s k die).Canonical := by
  unfold routeOut
  repeat' first
    | with_reducible assumption | with_reducible apply logChip_canon | with_reducible apply bump_canon
    | with_reducible apply sendOn_canon | with_reducible apply countNd_canon | split

theorem inject_canon {s : State} {k : Packet} (h_s : s.Canonical) :
    (inject s k).Canonical := by
  unfold inject
  repeat' first
    | with_reducible assumption | with_reducible apply routeOut_canon | split | dsimp only
    | with_reducible apply State.Canonical.regs | with_reducible apply State.Canonical.mem
    | with_reducible apply State.Canonical.tiles | with_reducible apply State.Canonical.matPoison
    | with_reducible apply State.Canonical.towPoison | with_reducible apply State.Canonical.full
    | (refine State.Canonical.mk ?_ ?_ ?_ ?_ ?_ ?_ <;> dsimp only)

theorem sendAll_canon {s : State} {k : Packet} {except : Option ℕ} (h_s : s.Canonical) :
    (sendAll s k except).Canonical := by
  unfold sendAll
  repeat' first
    | with_reducible assumption | with_reducible apply forRange_keeps | with_reducible apply sendOn_canon | intro _
    | split

theorem commitAlias_canon {s : State} {i : ℕ} {valid : Bool} {l : ℕ} {p : ℕ} {dead : Bool} (h_s : s.Canonical) :
    (commitAlias s i valid l p dead).Canonical := by
  unfold commitAlias
  repeat' first
    | with_reducible assumption | with_reducible apply logChip_canon | with_reducible apply setReg_canon | intro _
    | split | dsimp only | with_reducible apply State.Canonical.regs | with_reducible apply State.Canonical.mem
    | with_reducible apply State.Canonical.tiles | with_reducible apply State.Canonical.matPoison
    | with_reducible apply State.Canonical.towPoison | with_reducible apply State.Canonical.full
    | (refine State.Canonical.mk ?_ ?_ ?_ ?_ ?_ ?_ <;> dsimp only)

theorem setAlias_canon {s : State} {l : ℕ} {p : ℕ} {dead : Bool} (h_s : s.Canonical) :
    (∀ y0, setAlias s l p dead = some y0 → y0.Canonical) := by
  unfold setAlias
  intro y hy
  split at hy
  · cases hy; exact commitAlias_canon h_s
  · split at hy
    · cases hy; exact commitAlias_canon h_s
    · cases hy

/-! ### ExtMem -/

theorem noteSpan_canon {s : State} {a : ℕ} {n : ℕ} (h_s : s.Canonical) :
    (noteSpan s a n).Canonical := by
  unfold noteSpan
  repeat' first
    | with_reducible assumption | with_reducible apply forRange_keeps | with_reducible apply readMat_canon
    | with_reducible apply readHbm_canon | intro _ | split | dsimp only

theorem logPoisonRead_canon {s : State} {a : ℕ} (h_s : s.Canonical) :
    (logPoisonRead s a).Canonical := by
  unfold logPoisonRead
  repeat' first
    | with_reducible assumption | with_reducible apply logEv_canon | split

theorem extRead_canon {s : State} {a : ℕ} {n : ℕ} (h_s : s.Canonical) :
    ((extRead s a n).1).Canonical := by
  unfold extRead
  repeat' first
    | with_reducible assumption | with_reducible apply noteSpan_canon | with_reducible apply logPoisonRead_canon
    | split | dsimp only

theorem hostMemRead_canon {s : State} {p : ℕ} {a : ℕ} {n : ℕ} (h_s : s.Canonical) :
    (hostMemRead s p a n).Canonical := by
  unfold hostMemRead
  repeat' first
    | with_reducible assumption | with_reducible apply emit_canon | with_reducible apply logEv_canon
    | with_reducible apply extRead_canon | split

theorem hostMemWrite_canon {s : State} {p : ℕ} {a : ℕ} {d : List Byte} (h_s : s.Canonical) :
    (hostMemWrite s p a d).Canonical := by
  unfold hostMemWrite
  repeat' first
    | with_reducible assumption | with_reducible apply logEv_canon | with_reducible apply externalWrite_canon | split

theorem mgmtMem_canon {s : State} {wr : Bool} {a : ℕ} {d : List Byte} {n : ℕ} (h_s : s.Canonical) :
    (mgmtMem s wr a d n).Canonical := by
  unfold mgmtMem
  repeat' first
    | with_reducible assumption | with_reducible apply emit_canon | with_reducible apply logEv_canon
    | with_reducible apply extRead_canon | with_reducible apply externalWrite_canon | split

theorem hold_canon {s : State} {i : Instr} (h_s : s.Canonical) :
    (hold s i).Canonical := by
  unfold hold
  repeat' first
    | with_reducible assumption | dsimp only | with_reducible apply State.Canonical.regs
    | with_reducible apply State.Canonical.mem | with_reducible apply State.Canonical.tiles
    | with_reducible apply State.Canonical.matPoison | with_reducible apply State.Canonical.towPoison
    | with_reducible apply State.Canonical.full | (refine State.Canonical.mk ?_ ?_ ?_ ?_ ?_ ?_ <;> dsimp only)

theorem performHeld_canon {s : State} {i : Instr} (h_s : s.Canonical) :
    (performHeld s i).Canonical := by
  unfold performHeld
  repeat' first
    | with_reducible assumption | with_reducible apply hostMemRead_canon | with_reducible apply hostMemWrite_canon
    | with_reducible apply mgmtMem_canon | split

theorem releaseAccesses_canon {s : State} (h_s : s.Canonical) :
    (releaseAccesses s).Canonical := by
  unfold releaseAccesses
  repeat' first
    | with_reducible assumption | with_reducible apply foldl_keeps | with_reducible apply performHeld_canon | intro _
    | dsimp only | with_reducible apply State.Canonical.regs | with_reducible apply State.Canonical.mem
    | with_reducible apply State.Canonical.tiles | with_reducible apply State.Canonical.matPoison
    | with_reducible apply State.Canonical.towPoison | with_reducible apply State.Canonical.full
    | (refine State.Canonical.mk ?_ ?_ ?_ ?_ ?_ ?_ <;> dsimp only)

end Sys2Proof.Machine
end

