-- ==== Sys2Proof/Laws/CanonCommands.lean ====
section
/-! SUPPORT. Every operation keeps the canonical form: register writes, packets, events and maintenance. -/

namespace Sys2Proof.Machine
open Sys2Proof

/-! ### MatRegs -/

theorem logMat_canon {s : State} {code : ℕ} {r : ℕ} {o : ℕ} (h_s : s.Canonical) :
    (logMat s code r o).Canonical := by
  unfold logMat
  repeat' first
    | with_reducible assumption | with_reducible apply logEv_canon

theorem hoffLines_canon {s : State} {r : ℕ} {old : Word} {new : Word} (h_s : s.Canonical) :
    (hoffLines s r old new).Canonical := by
  unfold hoffLines
  extract_lets l0 po pn oin nin kept lo n below above mid
  have hk : swf kept = true := filter_swf h_s.full
  split
  · refine ⟨h_s.regs, h_s.mem, h_s.tiles, h_s.matPoison, h_s.towPoison, ?_⟩
    unfold mid
    split
    · exact splice_swf hk
    · exact cut_swf hk (Nat.le_add_right _ _)
  · have h1 : State.Canonical { s with full := kept } := ⟨h_s.regs, h_s.mem, h_s.tiles, h_s.matPoison, h_s.towPoison, hk⟩
    split
    · with_reducible apply forRange_keeps
      · intro l x hx
        dsimp only
        split
        · exact hx
        · split
          · exact ⟨hx.regs, hx.mem, hx.tiles, hx.matPoison, hx.towPoison, sins_wf hx.full⟩
          · exact takeFree_canon hx
      · exact h1
    · exact h1

theorem wrMatMode_canon {s : State} {r : ℕ} {v : Word} (h_s : s.Canonical) :
    (wrMatMode s r v).Canonical := by
  unfold wrMatMode
  repeat' first
    | with_reducible assumption | with_reducible apply setB_canon | with_reducible apply logMat_canon | split

theorem wrHoff_canon {s : State} {r : ℕ} {h : ℕ} {v : Word} (h_s : s.Canonical) :
    (wrHoff s r h v).Canonical := by
  unfold wrHoff
  repeat' first
    | with_reducible assumption | with_reducible apply hoffLines_canon | with_reducible apply setReg_canon
    | with_reducible apply logMat_canon | split | dsimp only

theorem wrCirc_canon {s : State} {r : ℕ} {k : ℕ} {v : Word} (h_s : s.Canonical) :
    (wrCirc s r k v).Canonical := by
  unfold wrCirc
  repeat' first
    | with_reducible assumption | with_reducible apply setReg_canon | with_reducible apply logMat_canon | split
    | dsimp only

theorem wrCircPtr_canon {s : State} {m : Master} {r : ℕ} {k : ℕ} {tail : Bool} {v : Word} (h_s : s.Canonical) :
    (wrCircPtr s m r k tail v).Canonical := by
  unfold wrCircPtr
  repeat' first
    | with_reducible assumption | with_reducible apply setF_canon | with_reducible apply logMaster_canon | split

theorem reencodeLine_canon {s : State} {cls : ℕ} {l : ℕ} (h_s : s.Canonical) :
    (reencodeLine s cls l).Canonical := by
  unfold reencodeLine
  repeat' first
    | with_reducible assumption | with_reducible apply dropUpset_canon | with_reducible apply poisonLine_canon | split
    | dsimp only

theorem wrPclass_canon {s : State} {r : ℕ} {k : ℕ} {v : Word} (h_s : s.Canonical) :
    (wrPclass s r k v).Canonical := by
  unfold wrPclass
  repeat' first
    | with_reducible assumption | with_reducible apply forRange_keeps | with_reducible apply setF_canon
    | with_reducible apply reencodeLine_canon | with_reducible apply logMat_canon | intro _ | split | dsimp only

theorem wrChcfg_canon {s : State} {r : ℕ} {c : ℕ} {v : Word} (h_s : s.Canonical) :
    (wrChcfg s r c v).Canonical := by
  unfold wrChcfg
  repeat' first
    | with_reducible assumption | with_reducible apply setReg_canon | with_reducible apply logEv_canon | intro _
    | split | dsimp only

/-! ### Rng -/

theorem logRng_canon {s : State} {code : ℕ} {pay : ℕ} (h_s : s.Canonical) :
    (logRng s code pay).Canonical := by
  unfold logRng
  repeat' first
    | with_reducible assumption | with_reducible apply logEv_canon

theorem fillPool_canon {s : State} (h_s : s.Canonical) :
    (fillPool s).Canonical := by
  unfold fillPool
  repeat' first
    | with_reducible assumption | with_reducible apply setF_canon | split | dsimp only
    | with_reducible apply State.Canonical.regs | with_reducible apply State.Canonical.mem
    | with_reducible apply State.Canonical.tiles | with_reducible apply State.Canonical.matPoison
    | with_reducible apply State.Canonical.towPoison | with_reducible apply State.Canonical.full
    | (refine State.Canonical.mk ?_ ?_ ?_ ?_ ?_ ?_ <;> dsimp only)

theorem waitPool_canon {s : State} (h_s : s.Canonical) :
    (waitPool s).Canonical := by
  unfold waitPool
  repeat' first
    | with_reducible assumption | with_reducible apply fillPool_canon | with_reducible apply advanceTo_canon | split
    | dsimp only

theorem takePool_canon {s : State} (h_s : s.Canonical) :
    ((takePool s).2).Canonical := by
  unfold takePool
  repeat' first
    | with_reducible assumption | with_reducible apply setF_canon | intro _ | dsimp only
    | with_reducible apply State.Canonical.regs | with_reducible apply State.Canonical.mem
    | with_reducible apply State.Canonical.tiles | with_reducible apply State.Canonical.matPoison
    | with_reducible apply State.Canonical.towPoison | with_reducible apply State.Canonical.full
    | (refine State.Canonical.mk ?_ ?_ ?_ ?_ ?_ ?_ <;> dsimp only)

theorem setDrbg_canon {s : State} {i : ℕ} {d : Drbg} (h_s : s.Canonical) :
    (setDrbg s i d).Canonical := by
  unfold setDrbg
  repeat' first
    | with_reducible assumption | with_reducible apply setReg_canon | dsimp only
    | with_reducible apply State.Canonical.regs | with_reducible apply State.Canonical.mem
    | with_reducible apply State.Canonical.tiles | with_reducible apply State.Canonical.matPoison
    | with_reducible apply State.Canonical.towPoison | with_reducible apply State.Canonical.full
    | (refine State.Canonical.mk ?_ ?_ ?_ ?_ ?_ ?_ <;> dsimp only)

theorem instantiate_canon {s : State} {i : ℕ} (h_s : s.Canonical) :
    (instantiate s i).Canonical := by
  unfold instantiate
  repeat' first
    | with_reducible assumption | with_reducible apply setDrbg_canon | with_reducible apply takePool_canon

theorem reseed_canon {s : State} {i : ℕ} (h_s : s.Canonical) :
    (reseed s i).Canonical := by
  unfold reseed
  repeat' first
    | with_reducible assumption | with_reducible apply setDrbg_canon | with_reducible apply bump_canon
    | with_reducible apply takePool_canon

theorem reseedDue_canon {s : State} {i : ℕ} (h_s : s.Canonical) :
    (reseedDue s i).Canonical := by
  unfold reseedDue
  repeat' first
    | with_reducible assumption | with_reducible apply fillPool_canon | with_reducible apply reseed_canon | split
    | dsimp only

theorem drbgRequest_canon {s : State} {i : ℕ} {len : ℕ} (h_s : s.Canonical) :
    ((drbgRequest s i len).2).Canonical := by
  unfold drbgRequest
  repeat' first
    | with_reducible assumption | with_reducible apply reseedDue_canon | with_reducible apply setDrbg_canon
    | with_reducible apply countNd_canon | with_reducible apply bump_canon | split | dsimp only

theorem drbgDraw_canon {s : State} {i : ℕ} {x2 : ℕ} {x3 : ℕ} (h_s : s.Canonical) :
    ((drbgDraw s i x2 x3).2).Canonical := by
  revert h_s
  fun_induction drbgDraw s i x2 x3
  all_goals
    try rename_i ih
    intro h_s
    repeat' first
      | with_reducible assumption | with_reducible apply ih | with_reducible apply drbgRequest_canon

theorem logDraw_canon {s : State} {i : ℕ} {x2 : Draw} (h_s : s.Canonical) :
    (logDraw s i x2).Canonical := by
  unfold logDraw
  repeat' first
    | with_reducible assumption | with_reducible apply logEv_canon | split

theorem seedAll_canon {s : State} {wait : Bool} (h_s : s.Canonical) :
    (seedAll s wait).Canonical := by
  unfold seedAll
  repeat' first
    | with_reducible assumption | with_reducible apply forRange_keeps | with_reducible apply fillPool_canon
    | with_reducible apply instantiate_canon | with_reducible apply reseed_canon | with_reducible apply waitPool_canon
    | intro _ | split | dsimp only

theorem sourceGood_canon {s : State} (h_s : s.Canonical) :
    (sourceGood s).Canonical := by
  unfold sourceGood
  repeat' first
    | with_reducible assumption | with_reducible apply setF_canon | with_reducible apply setB_canon | dsimp only
    | with_reducible apply State.Canonical.regs | with_reducible apply State.Canonical.mem
    | with_reducible apply State.Canonical.tiles | with_reducible apply State.Canonical.matPoison
    | with_reducible apply State.Canonical.towPoison | with_reducible apply State.Canonical.full
    | (refine State.Canonical.mk ?_ ?_ ?_ ?_ ?_ ?_ <;> dsimp only)

theorem sourceBad_canon {s : State} (h_s : s.Canonical) :
    (sourceBad s).Canonical := by
  unfold sourceBad
  repeat' first
    | with_reducible assumption | with_reducible apply setF_canon | with_reducible apply setB_canon
    | with_reducible apply fillPool_canon | with_reducible apply logRng_canon | split | dsimp only
    | with_reducible apply State.Canonical.regs | with_reducible apply State.Canonical.mem
    | with_reducible apply State.Canonical.tiles | with_reducible apply State.Canonical.matPoison
    | with_reducible apply State.Canonical.towPoison | with_reducible apply State.Canonical.full
    | (refine State.Canonical.mk ?_ ?_ ?_ ?_ ?_ ?_ <;> dsimp only)

theorem startTest_canon {s : State} {x1 : List Bool} (h_s : s.Canonical) :
    (startTest s x1).Canonical := by
  revert h_s
  fun_induction startTest s x1
  all_goals
    try rename_i ih
    intro h_s
    repeat' first
      | with_reducible assumption | with_reducible apply ih | with_reducible apply sourceGood_canon
      | with_reducible apply sourceBad_canon

theorem healthFail_canon {s : State} {apt : Bool} {rerun : Bool} (h_s : s.Canonical) :
    (healthFail s apt rerun).Canonical := by
  unfold healthFail
  repeat' first
    | with_reducible assumption | with_reducible apply sourceBad_canon | with_reducible apply setB_canon
    | with_reducible apply logRng_canon | with_reducible apply bump_canon | with_reducible apply sourceGood_canon
    | split | dsimp only

theorem recovered_canon {s : State} (h_s : s.Canonical) :
    (recovered s).Canonical := by
  unfold recovered
  repeat' first
    | with_reducible assumption | with_reducible apply seedAll_canon | with_reducible apply sourceGood_canon
    | with_reducible apply logRng_canon | split

theorem rngRetry_canon {s : State} {pass : Bool} (h_s : s.Canonical) :
    (rngRetry s pass).Canonical := by
  unfold rngRetry
  repeat' first
    | with_reducible assumption | with_reducible apply sourceBad_canon | with_reducible apply setF_canon
    | with_reducible apply setB_canon | with_reducible apply seedAll_canon | with_reducible apply sourceGood_canon
    | split

/-! ### Errors -/

theorem stopFrond_canon {s : State} {f : Frond} {st : Status} (h_s : s.Canonical) :
    (stopFrond s f st).Canonical := by
  unfold stopFrond
  repeat' first
    | with_reducible assumption | with_reducible apply putFrond_canon | with_reducible apply unpend_canon

theorem stopInFlight_canon {s : State} {here : ℕ → Bool} (h_s : s.Canonical) :
    (stopInFlight s here).Canonical := by
  unfold stopInFlight
  repeat' first
    | with_reducible assumption | with_reducible apply foldl_keeps | with_reducible apply stopFrond_canon | intro _

theorem stopPorts_canon {s : State} (h_s : s.Canonical) :
    (stopPorts s).Canonical := by
  unfold stopPorts
  repeat' first
    | with_reducible assumption | with_reducible apply forRange_keeps | with_reducible apply setB_canon | intro _

theorem declareSelf_canon {s : State} (h_s : s.Canonical) :
    (declareSelf s).Canonical := by
  unfold declareSelf
  repeat' first
    | with_reducible assumption | with_reducible apply stopPorts_canon | with_reducible apply logChip_canon
    | with_reducible apply sendAll_canon

theorem moduleFault_canon {s : State} {cause : ℕ} (h_s : s.Canonical) :
    (moduleFault s cause).Canonical := by
  unfold moduleFault
  repeat' first
    | with_reducible assumption | with_reducible apply stopInFlight_canon | with_reducible apply logChip_canon
    | with_reducible apply declareSelf_canon | intro _ | split | dsimp only
    | with_reducible apply State.Canonical.regs | with_reducible apply State.Canonical.mem
    | with_reducible apply State.Canonical.tiles | with_reducible apply State.Canonical.matPoison
    | with_reducible apply State.Canonical.towPoison | with_reducible apply State.Canonical.full
    | (refine State.Canonical.mk ?_ ?_ ?_ ?_ ?_ ?_ <;> dsimp only)

theorem faultDecoded_canon {s : State} {r : ℕ} (h_s : s.Canonical) :
    (faultDecoded s r).Canonical := by
  unfold faultDecoded
  repeat' first
    | with_reducible assumption | intro _ | split | dsimp only | with_reducible apply State.Canonical.regs
    | with_reducible apply State.Canonical.mem | with_reducible apply State.Canonical.tiles
    | with_reducible apply State.Canonical.matPoison | with_reducible apply State.Canonical.towPoison
    | with_reducible apply State.Canonical.full | (refine State.Canonical.mk ?_ ?_ ?_ ?_ ?_ ?_ <;> dsimp only)

theorem regionFault_canon {s : State} {r : ℕ} {cause : ℕ} (h_s : s.Canonical) :
    (regionFault s r cause).Canonical := by
  unfold regionFault
  repeat' first
    | with_reducible assumption | with_reducible apply faultDecoded_canon | with_reducible apply stopInFlight_canon
    | with_reducible apply logQueue_canon | with_reducible apply moduleFault_canon | split | dsimp only
    | with_reducible apply State.Canonical.regs | with_reducible apply State.Canonical.mem
    | with_reducible apply State.Canonical.tiles | with_reducible apply State.Canonical.matPoison
    | with_reducible apply State.Canonical.towPoison | with_reducible apply State.Canonical.full
    | (refine State.Canonical.mk ?_ ?_ ?_ ?_ ?_ ?_ <;> dsimp only)

theorem cellReplayAt_canon {s : State} {f : Frond} {e : ℕ} {cell : ℕ} (h_s : s.Canonical) :
    (cellReplayAt s f e cell).Canonical := by
  unfold cellReplayAt
  repeat' first
    | with_reducible assumption | with_reducible apply putFrond_canon | with_reducible apply logUnit_canon
    | with_reducible apply bump_canon | with_reducible apply countNd_canon | split

theorem countCellFault_canon {s : State} {e : ℕ} {cell : ℕ} (h_s : s.Canonical) :
    (countCellFault s e cell).Canonical := by
  unfold countCellFault
  repeat' first
    | with_reducible assumption | with_reducible apply regionFault_canon | intro _ | split | dsimp only
    | with_reducible apply State.Canonical.regs | with_reducible apply State.Canonical.mem
    | with_reducible apply State.Canonical.tiles | with_reducible apply State.Canonical.matPoison
    | with_reducible apply State.Canonical.towPoison | with_reducible apply State.Canonical.full
    | (refine State.Canonical.mk ?_ ?_ ?_ ?_ ?_ ?_ <;> dsimp only)

theorem cellFaultAt_canon {s : State} {f : Frond} {e : ℕ} {cell : ℕ} (h_s : s.Canonical) :
    (cellFaultAt s f e cell).Canonical := by
  unfold cellFaultAt
  repeat' first
    | with_reducible assumption | with_reducible apply countCellFault_canon | with_reducible apply stopFrond_canon
    | with_reducible apply logUnit_canon

theorem cellReplay_canon {s : State} {x : FrondRef} {u : UnitSel} {cell : Fin 8} (h_s : s.Canonical) :
    (cellReplay s x u cell).Canonical := by
  unfold cellReplay
  repeat' first
    | with_reducible assumption | with_reducible apply cellReplayAt_canon | split

theorem cellFault_canon {s : State} {x : FrondRef} {u : UnitSel} {cell : Fin 8} (h_s : s.Canonical) :
    (cellFault s x u cell).Canonical := by
  unfold cellFault
  repeat' first
    | with_reducible assumption | with_reducible apply cellFaultAt_canon | split

theorem blockFault_canon {s : State} {x : FrondRef} (h_s : s.Canonical) :
    (blockFault s x).Canonical := by
  unfold blockFault
  repeat' first
    | with_reducible assumption | with_reducible apply stopFrond_canon | with_reducible apply logUnit_canon | split

theorem periParity_canon {s : State} {x : FrondRef} (h_s : s.Canonical) :
    (periParity s x).Canonical := by
  unfold periParity
  repeat' first
    | with_reducible assumption | with_reducible apply putFrond_canon | with_reducible apply countNd_canon
    | with_reducible apply bump_canon | with_reducible apply logUnit_canon | with_reducible apply stopFrond_canon
    | split | dsimp only

theorem sporeReplay_canon {s : State} {x : FrondRef} {cell : Fin 8} (h_s : s.Canonical) :
    (sporeReplay s x cell).Canonical := by
  unfold sporeReplay
  repeat' first
    | with_reducible assumption | with_reducible apply cellReplayAt_canon | split

theorem bridgeReplay_canon {s : State} {d : ℕ} (h_s : s.Canonical) :
    (bridgeReplay s d).Canonical := by
  unfold bridgeReplay
  repeat' first
    | with_reducible assumption | with_reducible apply countNd_canon | with_reducible apply moduleFault_canon
    | with_reducible apply logEv_canon | intro _ | split | dsimp only | with_reducible apply State.Canonical.regs
    | with_reducible apply State.Canonical.mem | with_reducible apply State.Canonical.tiles
    | with_reducible apply State.Canonical.matPoison | with_reducible apply State.Canonical.towPoison
    | with_reducible apply State.Canonical.full | (refine State.Canonical.mk ?_ ?_ ?_ ?_ ?_ ?_ <;> dsimp only)

/-! ### Coll -/

theorem dropClash_canon {c : Coll} {s : State} (h_s : s.Canonical) :
    (dropClash c s).Canonical := by
  unfold dropClash
  repeat' first
    | with_reducible assumption | intro _ | dsimp only | with_reducible apply State.Canonical.regs
    | with_reducible apply State.Canonical.mem | with_reducible apply State.Canonical.tiles
    | with_reducible apply State.Canonical.matPoison | with_reducible apply State.Canonical.towPoison
    | with_reducible apply State.Canonical.full | (refine State.Canonical.mk ?_ ?_ ?_ ?_ ?_ ?_ <;> dsimp only)

theorem resendStep_canon {s : State} {f : Frond} {dest : ℕ} (h_s : s.Canonical) :
    (resendStep s f dest).Canonical := by
  unfold resendStep
  repeat' first
    | with_reducible assumption | with_reducible apply foldl_keeps | with_reducible apply inject_canon | intro _
    | split

theorem landBytes_canon {s : State} {f : Frond} {off : ℕ} {d : List Byte} {poison : Bool} (h_s : s.Canonical) :
    (landBytes s f off d poison).Canonical := by
  unfold landBytes
  repeat' first
    | with_reducible assumption | with_reducible apply putFrond_canon | with_reducible apply putBytes_canon

theorem ghostWrite_canon {s : State} {c : Coll} (h_s : s.Canonical) :
    (∀ y0, ghostWrite s c = some y0 → y0.Canonical) := by
  unfold ghostWrite
  intro y hy
  dsimp only at hy
  split at hy
  · cases hy
  · cases hy; exact landBytes_canon h_s

theorem keepGhost_canon {s : State} {c : Coll} (h_s : s.Canonical) :
    (keepGhost s c).Canonical := by
  unfold keepGhost
  repeat' first
    | with_reducible assumption | dsimp only | with_reducible apply State.Canonical.regs
    | with_reducible apply State.Canonical.mem | with_reducible apply State.Canonical.tiles
    | with_reducible apply State.Canonical.matPoison | with_reducible apply State.Canonical.towPoison
    | with_reducible apply State.Canonical.full | (refine State.Canonical.mk ?_ ?_ ?_ ?_ ?_ ?_ <;> dsimp only)

theorem runGhost_canon {s : State} {c : Coll} {x2 : ℕ} (h_s : s.Canonical) :
    (runGhost s c x2).Canonical := by
  revert h_s
  fun_induction runGhost s c x2
  all_goals
    try rename_i ih
    intro h_s
    repeat' first
      | with_reducible assumption | with_reducible apply ih | with_reducible apply keepGhost_canon
      | with_reducible apply foldl_keeps | with_reducible apply inject_canon | with_reducible apply getD_keeps
      | exact ghostWrite_canon ‹_› _ ‹_› | intro _ | split | dsimp only | dsimp +zetaDelta only
      | with_reducible apply State.Canonical.regs | with_reducible apply State.Canonical.mem
      | with_reducible apply State.Canonical.tiles | with_reducible apply State.Canonical.matPoison
      | with_reducible apply State.Canonical.towPoison | with_reducible apply State.Canonical.full
      | (refine State.Canonical.mk ?_ ?_ ?_ ?_ ?_ ?_ <;> dsimp only)

theorem runGhosts_canon {s : State} (h_s : s.Canonical) :
    (runGhosts s).Canonical := by
  unfold runGhosts
  repeat' first
    | with_reducible assumption | with_reducible apply foldl_keeps | with_reducible apply runGhost_canon | intro _
    | dsimp only | exact rfl | with_reducible apply State.Canonical.regs | with_reducible apply State.Canonical.mem
    | with_reducible apply State.Canonical.tiles | with_reducible apply State.Canonical.matPoison
    | with_reducible apply State.Canonical.towPoison | with_reducible apply State.Canonical.full
    | (refine State.Canonical.mk ?_ ?_ ?_ ?_ ?_ ?_ <;> dsimp only)

theorem startGhost_canon {s : State} {c : Coll} (h_s : s.Canonical) :
    (startGhost s c).Canonical := by
  unfold startGhost
  repeat' first
    | with_reducible assumption | intro _ | split | dsimp only | with_reducible apply State.Canonical.regs
    | with_reducible apply State.Canonical.mem | with_reducible apply State.Canonical.tiles
    | with_reducible apply State.Canonical.matPoison | with_reducible apply State.Canonical.towPoison
    | with_reducible apply State.Canonical.full | (refine State.Canonical.mk ?_ ?_ ?_ ?_ ?_ ?_ <;> dsimp only)

theorem ghostFor_canon {s : State} {c : Coll} (h_s : s.Canonical) :
    (ghostFor s c).Canonical := by
  unfold ghostFor
  repeat' first
    | with_reducible assumption | with_reducible apply startGhost_canon | split

theorem ghostFrom_canon {s : State} {k : Packet} (h_s : s.Canonical) :
    (ghostFrom s k).Canonical := by
  unfold ghostFrom
  repeat' first
    | with_reducible assumption | with_reducible apply startGhost_canon | intro _ | split

/-! ### Maint -/

theorem logMaint_canon {s : State} {code : ℕ} {pay : ℕ} (h_s : s.Canonical) :
    (logMaint s code pay).Canonical := by
  unfold logMaint
  repeat' first
    | with_reducible assumption | with_reducible apply logEv_canon

theorem maintStat_canon {s : State} (h_s : s.Canonical) :
    (maintStat s).Canonical := by
  unfold maintStat
  repeat' first
    | with_reducible assumption | with_reducible apply setReg_canon

theorem scrubSector_canon {s : State} {h : ℕ} (h_s : s.Canonical) :
    ((scrubSector s h).1).Canonical := by
  unfold scrubSector
  repeat' first
    | with_reducible assumption | with_reducible apply readHbm_canon | with_reducible apply takeFree_canon
    | with_reducible apply dropUpset_canon | split | dsimp only

theorem logPass_canon {s : State} {tower : ℕ} {fixed : ℕ} {bad : ℕ} (h_s : s.Canonical) :
    (logPass s tower fixed bad).Canonical := by
  unfold logPass
  repeat' first
    | with_reducible assumption | with_reducible apply logMaint_canon

theorem scrubGranule_canon {s : State} {t : ℕ} {g : ℕ} (h_s : s.Canonical) :
    (scrubGranule s t g).Canonical := by
  unfold scrubGranule
  repeat' first
    | with_reducible assumption | with_reducible apply forRange_keeps | with_reducible apply scrubSector_canon
    | intro _ | dsimp only | with_reducible apply State.Canonical.regs | with_reducible apply State.Canonical.mem
    | with_reducible apply State.Canonical.tiles | with_reducible apply State.Canonical.matPoison
    | with_reducible apply State.Canonical.towPoison | with_reducible apply State.Canonical.full
    | (refine State.Canonical.mk ?_ ?_ ?_ ?_ ?_ ?_ <;> dsimp only)

theorem scrubRun_canon {s : State} {t : ℕ} {g : ℕ} (h_s : s.Canonical) :
    (scrubRun s t g).Canonical := by
  unfold scrubRun
  repeat' first
    | with_reducible assumption | with_reducible apply forRange_keeps | with_reducible apply scrubGranule_canon
    | intro _

theorem endPass_canon {s : State} {t : ℕ} (h_s : s.Canonical) :
    (endPass s t).Canonical := by
  unfold endPass
  repeat' first
    | with_reducible assumption | with_reducible apply setF_canon | dsimp only
    | with_reducible apply State.Canonical.regs | with_reducible apply State.Canonical.mem
    | with_reducible apply State.Canonical.tiles | with_reducible apply State.Canonical.matPoison
    | with_reducible apply State.Canonical.towPoison | with_reducible apply State.Canonical.full
    | (refine State.Canonical.mk ?_ ?_ ?_ ?_ ?_ ?_ <;> dsimp only)

theorem scrubStepOf_canon {s : State} {t : ℕ} (h_s : s.Canonical) :
    (scrubStepOf s t).Canonical := by
  unfold scrubStepOf
  repeat' first
    | with_reducible assumption | with_reducible apply endPass_canon | with_reducible apply logPass_canon
    | with_reducible apply scrubRun_canon | with_reducible apply setF_canon | split | dsimp only

theorem drainFrom_canon {s : State} {x1 : ℕ} (h_s : s.Canonical) :
    (drainFrom s x1).Canonical := by
  revert h_s
  fun_induction drainFrom s x1
  all_goals
    try rename_i ih
    intro h_s
    repeat' first
      | with_reducible assumption | with_reducible apply ih | with_reducible apply logMaint_canon
      | with_reducible apply setF_canon | with_reducible apply putBytes_canon | split | dsimp only
      | dsimp +zetaDelta only | with_reducible apply State.Canonical.regs | with_reducible apply State.Canonical.mem
      | with_reducible apply State.Canonical.tiles | with_reducible apply State.Canonical.matPoison
      | with_reducible apply State.Canonical.towPoison | with_reducible apply State.Canonical.full
      | (refine State.Canonical.mk ?_ ?_ ?_ ?_ ?_ ?_ <;> dsimp only)

theorem degradeFronds_canon {s : State} (h_s : s.Canonical) :
    (degradeFronds s).Canonical := by
  unfold degradeFronds
  repeat' first
    | with_reducible assumption | intro _ | split | dsimp only | with_reducible apply State.Canonical.regs
    | with_reducible apply State.Canonical.mem | with_reducible apply State.Canonical.tiles
    | with_reducible apply State.Canonical.matPoison | with_reducible apply State.Canonical.towPoison
    | with_reducible apply State.Canonical.full | (refine State.Canonical.mk ?_ ?_ ?_ ?_ ?_ ?_ <;> dsimp only)

theorem takePortDown_canon {s : State} {p : ℕ} (h_s : s.Canonical) :
    (takePortDown s p).Canonical := by
  unfold takePortDown
  repeat' first
    | with_reducible assumption | with_reducible apply setLinkPort_canon | with_reducible apply degradeFronds_canon
    | with_reducible apply logLink_canon | with_reducible apply setB_canon | with_reducible apply foldl_keeps
    | with_reducible apply sendOn_canon | intro _ | split | dsimp only

theorem beginAct_canon {s : State} {q : MaintReq} (h_s : s.Canonical) :
    (beginAct s q).Canonical := by
  unfold beginAct
  repeat' first
    | with_reducible assumption | with_reducible apply scrubStepOf_canon | with_reducible apply setB_canon
    | with_reducible apply setLinkPort_canon | with_reducible apply takePortDown_canon
    | with_reducible apply drainFrom_canon | split

theorem startAct_canon {s : State} {q : MaintReq} (h_s : s.Canonical) :
    (startAct s q).Canonical := by
  unfold startAct
  repeat' first
    | with_reducible assumption | with_reducible apply beginAct_canon | with_reducible apply logMaint_canon
    | dsimp only | with_reducible apply State.Canonical.regs | with_reducible apply State.Canonical.mem
    | with_reducible apply State.Canonical.tiles | with_reducible apply State.Canonical.matPoison
    | with_reducible apply State.Canonical.towPoison | with_reducible apply State.Canonical.full
    | (refine State.Canonical.mk ?_ ?_ ?_ ?_ ?_ ?_ <;> dsimp only)

theorem requestAct_canon {s : State} {act : Activity} {scope : ℕ} {frond : Option (ℕ × ℕ × ℕ)} (h_s : s.Canonical) :
    (requestAct s act scope frond).Canonical := by
  unfold requestAct
  repeat' first
    | with_reducible assumption | with_reducible apply maintStat_canon | with_reducible apply startAct_canon
    | with_reducible apply logMaint_canon | intro _ | split | dsimp only | with_reducible apply State.Canonical.regs
    | with_reducible apply State.Canonical.mem | with_reducible apply State.Canonical.tiles
    | with_reducible apply State.Canonical.matPoison | with_reducible apply State.Canonical.towPoison
    | with_reducible apply State.Canonical.full | (refine State.Canonical.mk ?_ ?_ ?_ ?_ ?_ ?_ <;> dsimp only)

theorem startNext_canon {s : State} (h_s : s.Canonical) :
    (startNext s).Canonical := by
  unfold startNext
  repeat' first
    | with_reducible assumption | with_reducible apply maintStat_canon | with_reducible apply startAct_canon | intro _
    | split | dsimp only | with_reducible apply State.Canonical.regs | with_reducible apply State.Canonical.mem
    | with_reducible apply State.Canonical.tiles | with_reducible apply State.Canonical.matPoison
    | with_reducible apply State.Canonical.towPoison | with_reducible apply State.Canonical.full
    | (refine State.Canonical.mk ?_ ?_ ?_ ?_ ?_ ?_ <;> dsimp only)

theorem endAct_canon {s : State} {act : Activity} {scope : ℕ} {lost : Bool} (h_s : s.Canonical) :
    (endAct s act scope lost).Canonical := by
  unfold endAct
  repeat' first
    | with_reducible assumption | with_reducible apply maintStat_canon | with_reducible apply logMaint_canon | intro _
    | split | dsimp only | with_reducible apply State.Canonical.regs | with_reducible apply State.Canonical.mem
    | with_reducible apply State.Canonical.tiles | with_reducible apply State.Canonical.matPoison
    | with_reducible apply State.Canonical.towPoison | with_reducible apply State.Canonical.full
    | (refine State.Canonical.mk ?_ ?_ ?_ ?_ ?_ ?_ <;> dsimp only)

theorem logTherm_canon {s : State} {die : ℕ} {corr : BitVec 16} (h_s : s.Canonical) :
    (logTherm s die corr).Canonical := by
  unfold logTherm
  repeat' first
    | with_reducible assumption | with_reducible apply logMaint_canon

theorem maintDone_canon {s : State} {act : Activity} {scope : ℕ} {corr : BitVec 16} (h_s : s.Canonical) :
    (maintDone s act scope corr).Canonical := by
  unfold maintDone
  repeat' first
    | with_reducible assumption | with_reducible apply endAct_canon | with_reducible apply logTherm_canon | intro _
    | split

theorem ringWrite_canon {s : State} {e : LogEntry} (h_s : s.Canonical) :
    (ringWrite s e).Canonical := by
  unfold ringWrite
  repeat' first
    | with_reducible assumption | with_reducible apply setF_canon | with_reducible apply bump32_canon | split
    | dsimp only | with_reducible apply State.Canonical.regs | with_reducible apply State.Canonical.mem
    | with_reducible apply State.Canonical.tiles | with_reducible apply State.Canonical.matPoison
    | with_reducible apply State.Canonical.towPoison | with_reducible apply State.Canonical.full
    | (refine State.Canonical.mk ?_ ?_ ?_ ?_ ?_ ?_ <;> dsimp only)

theorem logIrq_canon {s : State} {e : LogEntry} (h_s : s.Canonical) :
    (logIrq s e).Canonical := by
  unfold logIrq
  repeat' first
    | with_reducible assumption | with_reducible apply raiseIrq_canon | with_reducible apply setB_canon | split
    | dsimp only

theorem ringEnter_canon {s : State} (h_s : s.Canonical) :
    (ringEnter s).Canonical := by
  unfold ringEnter
  repeat' first
    | with_reducible assumption | with_reducible apply logIrq_canon | with_reducible apply ringWrite_canon
    | with_reducible apply advanceTo_canon | with_reducible apply requestAct_canon | split | dsimp only | exact rfl
    | with_reducible apply State.Canonical.regs | with_reducible apply State.Canonical.mem
    | with_reducible apply State.Canonical.tiles | with_reducible apply State.Canonical.matPoison
    | with_reducible apply State.Canonical.towPoison | with_reducible apply State.Canonical.full
    | (refine State.Canonical.mk ?_ ?_ ?_ ?_ ?_ ?_ <;> dsimp only)

theorem wrRdSel_canon {s : State} {v : Word} (h_s : s.Canonical) :
    (wrRdSel s v).Canonical := by
  unfold wrRdSel
  repeat' first
    | with_reducible assumption | with_reducible apply forRange_keeps | with_reducible apply setReg_canon | intro _

theorem wrLogTail_canon {s : State} {v : Word} (h_s : s.Canonical) :
    (wrLogTail s v).Canonical := by
  unfold wrLogTail
  repeat' first
    | with_reducible assumption | with_reducible apply setF_canon

theorem wrDrainTail_canon {s : State} {v : Word} (h_s : s.Canonical) :
    (wrDrainTail s v).Canonical := by
  unfold wrDrainTail
  repeat' first
    | with_reducible assumption | with_reducible apply setF_canon | split | dsimp only
    | with_reducible apply State.Canonical.regs | with_reducible apply State.Canonical.mem
    | with_reducible apply State.Canonical.tiles | with_reducible apply State.Canonical.matPoison
    | with_reducible apply State.Canonical.towPoison | with_reducible apply State.Canonical.full
    | (refine State.Canonical.mk ?_ ?_ ?_ ?_ ?_ ?_ <;> dsimp only)

theorem wrMaintReq_canon {s : State} {act : ℕ} {scope : ℕ} (h_s : s.Canonical) :
    (wrMaintReq s act scope).Canonical := by
  unfold wrMaintReq
  repeat' first
    | with_reducible assumption | with_reducible apply requestAct_canon | split

/-! ### KeySet -/

theorem logKset_canon {s : State} {code : ℕ} {r : ℕ} {k : ℕ} {reason : ℕ} (h_s : s.Canonical) :
    (logKset s code r k reason).Canonical := by
  unfold logKset
  repeat' first
    | with_reducible assumption | with_reducible apply logEv_canon

theorem ksetGo_canon {s : State} {r : ℕ} {k : ℕ} (h_s : s.Canonical) :
    (ksetGo s r k).Canonical := by
  unfold ksetGo
  repeat' first
    | with_reducible assumption | with_reducible apply setB_canon | with_reducible apply logKset_canon | split

theorem ksetDone_canon {s : State} {r : ℕ} {k : ℕ} (h_s : s.Canonical) :
    (ksetDone s r k).Canonical := by
  unfold ksetDone
  repeat' first
    | with_reducible assumption | with_reducible apply logKset_canon | with_reducible apply setReg_canon
    | with_reducible apply setF_canon | with_reducible apply setB_canon | with_reducible apply noteSpan_canon | split
    | dsimp only

theorem ksetClear_canon {s : State} {r : ℕ} {k : ℕ} (h_s : s.Canonical) :
    (ksetClear s r k).Canonical := by
  unfold ksetClear
  repeat' first
    | with_reducible assumption | with_reducible apply setReg_canon | with_reducible apply setF_canon
    | with_reducible apply setB_canon | with_reducible apply logKset_canon | intro _ | split

theorem wrKsetBase_canon {s : State} {r : ℕ} {k : ℕ} {v : Word} (h_s : s.Canonical) :
    (wrKsetBase s r k v).Canonical := by
  unfold wrKsetBase
  repeat' first
    | with_reducible assumption | with_reducible apply setF_canon | with_reducible apply logEv_canon | split

/-! ### Tower -/

theorem logTow_canon {s : State} {code : ℕ} {t : ℕ} (h_s : s.Canonical) :
    (logTow s code t).Canonical := by
  unfold logTow
  repeat' first
    | with_reducible assumption | with_reducible apply logEv_canon

theorem logTowReg_canon {s : State} {code : ℕ} {t : ℕ} {o : ℕ} (h_s : s.Canonical) :
    (logTowReg s code t o).Canonical := by
  unfold logTowReg
  repeat' first
    | with_reducible assumption | with_reducible apply logEv_canon

theorem refresh_canon {s : State} {t : ℕ} {b : Word} {hits : List FrondRef} (h_s : s.Canonical) :
    (refresh s t b hits).Canonical := by
  unfold refresh
  repeat' first
    | with_reducible assumption | with_reducible apply foldl_keeps | with_reducible apply putFrond_canon
    | with_reducible apply bump_canon | with_reducible apply advanceTo_canon | intro _ | split

theorem setRate_canon {s : State} {t : ℕ} {twice : Bool} (h_s : s.Canonical) :
    (setRate s t twice).Canonical := by
  unfold setRate
  repeat' first
    | with_reducible assumption | with_reducible apply logTow_canon | with_reducible apply setF_canon
    | with_reducible apply setB_canon | split

theorem tempSample_canon {s : State} {t : ℕ} {temp : ℕ} (h_s : s.Canonical) :
    (tempSample s t temp).Canonical := by
  unfold tempSample
  repeat' first
    | with_reducible assumption | with_reducible apply setF_canon | with_reducible apply setRate_canon | split
    | dsimp only

theorem wrRfsh_canon {s : State} {t : ℕ} {v : Word} (h_s : s.Canonical) :
    (wrRfsh s t v).Canonical := by
  unfold wrRfsh
  repeat' first
    | with_reducible assumption | with_reducible apply setF_canon | with_reducible apply setRate_canon
    | with_reducible apply logTowReg_canon | split | dsimp only

theorem endQuiesce_canon {s : State} {t : ℕ} (h_s : s.Canonical) :
    (endQuiesce s t).Canonical := by
  unfold endQuiesce
  repeat' first
    | with_reducible assumption | with_reducible apply releaseAccesses_canon | with_reducible apply setB_canon
    | intro _ | dsimp only | with_reducible apply State.Canonical.regs | with_reducible apply State.Canonical.mem
    | with_reducible apply State.Canonical.tiles | with_reducible apply State.Canonical.matPoison
    | with_reducible apply State.Canonical.towPoison | with_reducible apply State.Canonical.full
    | (refine State.Canonical.mk ?_ ?_ ?_ ?_ ?_ ?_ <;> dsimp only)

theorem wrQuiesce_canon {s : State} {t : ℕ} {v : Word} (h_s : s.Canonical) :
    (wrQuiesce s t v).Canonical := by
  unfold wrQuiesce
  repeat' first
    | with_reducible assumption | with_reducible apply logTowReg_canon | with_reducible apply endQuiesce_canon
    | with_reducible apply setB_canon | split | dsimp only | with_reducible apply State.Canonical.regs
    | with_reducible apply State.Canonical.mem | with_reducible apply State.Canonical.tiles
    | with_reducible apply State.Canonical.matPoison | with_reducible apply State.Canonical.towPoison
    | with_reducible apply State.Canonical.full | (refine State.Canonical.mk ?_ ?_ ?_ ?_ ?_ ?_ <;> dsimp only)

theorem towerIdle_canon {s : State} {t : ℕ} (h_s : s.Canonical) :
    (towerIdle s t).Canonical := by
  unfold towerIdle
  repeat' first
    | with_reducible assumption | with_reducible apply setB_canon | split

theorem quiesceTimeout_canon {s : State} {t : ℕ} (h_s : s.Canonical) :
    (quiesceTimeout s t).Canonical := by
  unfold quiesceTimeout
  repeat' first
    | with_reducible assumption | with_reducible apply endQuiesce_canon | with_reducible apply logTow_canon
    | with_reducible apply advanceTo_canon | with_reducible apply endAct_canon | with_reducible apply setB_canon
    | split

theorem wrMargin_canon {s : State} {t : ℕ} {v : Word} (h_s : s.Canonical) :
    (wrMargin s t v).Canonical := by
  unfold wrMargin
  repeat' first
    | with_reducible assumption | with_reducible apply requestAct_canon | with_reducible apply setF_canon
    | with_reducible apply logTowReg_canon | with_reducible apply setB_canon | split | dsimp only

theorem recordMargins_canon {s : State} {t : ℕ} {kind : ℕ} {rec : List MarginRec} (h_s : s.Canonical) :
    (recordMargins s t kind rec).Canonical := by
  unfold recordMargins
  repeat' first
    | with_reducible assumption | with_reducible apply setReg_canon | with_reducible apply forRange_keeps
    | with_reducible apply logTow_canon | with_reducible apply setB_canon | intro _ | split

theorem marginDone_canon {s : State} {t : ℕ} {rec : List MarginRec} (h_s : s.Canonical) :
    (marginDone s t rec).Canonical := by
  unfold marginDone
  repeat' first
    | with_reducible assumption | with_reducible apply endAct_canon | with_reducible apply setB_canon
    | with_reducible apply recordMargins_canon | split | dsimp only

theorem wrPoisonOp_canon {s : State} {t : ℕ} {g : ℕ} {op : ℕ} (h_s : s.Canonical) :
    (wrPoisonOp s t g op).Canonical := by
  unfold wrPoisonOp
  repeat' first
    | with_reducible assumption | with_reducible apply setB_canon | with_reducible apply setF_canon
    | with_reducible apply clearGranule_canon | with_reducible apply poisonGranule_canon | split

/-! ### Pke -/

theorem logPke_canon {s : State} {code : ℕ} {pay : ℕ} (h_s : s.Canonical) :
    (logPke s code pay).Canonical := by
  unfold logPke
  repeat' first
    | with_reducible assumption | with_reducible apply logEv_canon

theorem fillSlot_canon {s : State} {type : ℕ} {origin : ℕ} {part : KeyPart} (h_s : s.Canonical) :
    (fillSlot s type origin part).Canonical := by
  unfold fillSlot
  repeat' first
    | with_reducible assumption | with_reducible apply logPke_canon | with_reducible apply setReg_canon | intro _
    | split | dsimp only | with_reducible apply State.Canonical.regs | with_reducible apply State.Canonical.mem
    | with_reducible apply State.Canonical.tiles | with_reducible apply State.Canonical.matPoison
    | with_reducible apply State.Canonical.towPoison | with_reducible apply State.Canonical.full
    | (refine State.Canonical.mk ?_ ?_ ?_ ?_ ?_ ?_ <;> dsimp only)

theorem emptySlot_canon {s : State} {k : ℕ} (h_s : s.Canonical) :
    (emptySlot s k).Canonical := by
  unfold emptySlot
  repeat' first
    | with_reducible assumption | with_reducible apply logPke_canon | with_reducible apply setReg_canon | intro _
    | split | dsimp only | with_reducible apply State.Canonical.regs | with_reducible apply State.Canonical.mem
    | with_reducible apply State.Canonical.tiles | with_reducible apply State.Canonical.matPoison
    | with_reducible apply State.Canonical.towPoison | with_reducible apply State.Canonical.full
    | (refine State.Canonical.mk ?_ ?_ ?_ ?_ ?_ ?_ <;> dsimp only)

theorem freeBytes_canon {s : State} {x1 : ℕ} (h_s : s.Canonical) :
    ((freeBytes s x1).2).Canonical := by
  revert h_s
  fun_induction freeBytes s x1
  all_goals
    try rename_i ih
    intro h_s
    repeat' first
      | with_reducible assumption | with_reducible apply ih | with_reducible apply takeFree_canon

theorem pkeRead_canon {s : State} {a : ℕ} {n : ℕ} (h_s : s.Canonical) :
    (((pkeRead s a n).2).2).Canonical := by
  unfold pkeRead
  repeat' first
    | with_reducible assumption | with_reducible apply freeBytes_canon | with_reducible apply noteSpan_canon | split

theorem withOperands_canon {s : State} {pre : List ℕ} {spans : List (ℕ × ℕ)} {f : State → List (List Byte) → PkeResult × State} (h_s : s.Canonical) (h_f : (∀ y0, y0.Canonical → (∀ y1, ((f y0 y1).2).Canonical))) :
    ((withOperands s pre spans f).2).Canonical := by
  unfold withOperands
  dsimp only
  split
  · exact h_s
  · have h := foldl_snd_snd_keeps (f := fun (a : List (List Byte) × Bool × State) (p : Nat × Nat) =>
      (a.1 ++ [(pkeRead a.2.2 p.1 p.2).1], a.2.1 || (pkeRead a.2.2 p.1 p.2).2.1, (pkeRead a.2.2 p.1 p.2).2.2))
      (l := spans) (s := ([], false, s)) (fun _ _ hx => pkeRead_canon hx) h_s
    split
    · exact h
    · exact h_f _ h _

theorem pkeShake_canon {s : State} (h_s : s.Canonical) :
    ((pkeShake s).2).Canonical := by
  unfold pkeShake
  repeat' first
    | with_reducible assumption | with_reducible apply withOperands_canon | intro _

theorem pkeVerify_canon {s : State} (h_s : s.Canonical) :
    ((pkeVerify s).2).Canonical := by
  unfold pkeVerify
  repeat' first
    | with_reducible assumption | with_reducible apply withOperands_canon | intro _

theorem pkeSign_canon {s : State} (h_s : s.Canonical) :
    ((pkeSign s).2).Canonical := by
  unfold pkeSign
  repeat' first
    | with_reducible assumption | with_reducible apply withOperands_canon | intro _

theorem pkeX448_canon {s : State} (h_s : s.Canonical) :
    ((pkeX448 s).2).Canonical := by
  unfold pkeX448
  repeat' first
    | with_reducible assumption | with_reducible apply withOperands_canon | intro _ | split | dsimp only

theorem pkeKeygen_canon {s : State} (h_s : s.Canonical) :
    ((pkeKeygen s).2).Canonical := by
  unfold pkeKeygen
  repeat' first
    | with_reducible assumption | with_reducible apply withOperands_canon | with_reducible apply drbgRequest_canon
    | with_reducible apply logDraw_canon | intro _ | split | dsimp only

theorem pkePubkey_canon {s : State} (h_s : s.Canonical) :
    ((pkePubkey s).2).Canonical := by
  unfold pkePubkey
  repeat' first
    | with_reducible assumption | with_reducible apply withOperands_canon | intro _

theorem pkeKdf_canon {s : State} (h_s : s.Canonical) :
    ((pkeKdf s).2).Canonical := by
  unfold pkeKdf
  repeat' first
    | with_reducible assumption | with_reducible apply withOperands_canon | intro _

theorem pkeMac_canon {s : State} (h_s : s.Canonical) :
    ((pkeMac s).2).Canonical := by
  unfold pkeMac
  repeat' first
    | with_reducible assumption | with_reducible apply withOperands_canon | intro _

theorem pkeClear_canon {s : State} (h_s : s.Canonical) :
    ((pkeClear s).2).Canonical := by
  unfold pkeClear
  repeat' first
    | with_reducible assumption | with_reducible apply withOperands_canon | intro _

theorem pkeAttest_canon {s : State} (h_s : s.Canonical) :
    ((pkeAttest s).2).Canonical := by
  unfold pkeAttest
  repeat' first
    | with_reducible assumption | with_reducible apply withOperands_canon | intro _

theorem pkeCompute_canon {s : State} {op : ℕ} (h_s : s.Canonical) :
    ((pkeCompute s op).2).Canonical := by
  unfold pkeCompute
  repeat' first
    | with_reducible assumption | with_reducible apply pkeAttest_canon | with_reducible apply pkeClear_canon
    | with_reducible apply pkeMac_canon | with_reducible apply pkeKdf_canon | with_reducible apply pkePubkey_canon
    | with_reducible apply pkeKeygen_canon | with_reducible apply pkeX448_canon | with_reducible apply pkeSign_canon
    | with_reducible apply pkeVerify_canon | with_reducible apply pkeShake_canon | split

theorem pkeGo_canon {s : State} {op : ℕ} {v : Word} (h_s : s.Canonical) :
    (pkeGo s op v).Canonical := by
  unfold pkeGo
  repeat' first
    | with_reducible assumption | with_reducible apply setB_canon | with_reducible apply pkeCompute_canon
    | with_reducible apply setReg_canon | with_reducible apply logPke_canon | intro _ | split | dsimp only
    | with_reducible apply State.Canonical.regs | with_reducible apply State.Canonical.mem
    | with_reducible apply State.Canonical.tiles | with_reducible apply State.Canonical.matPoison
    | with_reducible apply State.Canonical.towPoison | with_reducible apply State.Canonical.full
    | (refine State.Canonical.mk ?_ ?_ ?_ ?_ ?_ ?_ <;> dsimp only)

theorem settleSlots_canon {s : State} {keys : List KeyPart} {how : List (ℕ × ℕ)} (h_s : s.Canonical) :
    (settleSlots s keys how).Canonical := by
  unfold settleSlots
  repeat' first
    | with_reducible assumption | with_reducible apply foldl_keeps | with_reducible apply emptySlot_canon
    | with_reducible apply fillSlot_canon | intro _

theorem settleOut_canon {s : State} {outs : List (ℕ × List Byte)} (h_s : s.Canonical) :
    (settleOut s outs).Canonical := by
  unfold settleOut
  repeat' first
    | with_reducible assumption | with_reducible apply foldl_keeps | with_reducible apply externalWrite_canon
    | intro _ | split

theorem pkeComplete_canon {s : State} {beats : ℕ} (h_s : s.Canonical) :
    (pkeComplete s beats).Canonical := by
  unfold pkeComplete
  repeat' first
    | with_reducible assumption | with_reducible apply raiseIrq_canon | with_reducible apply setB_canon
    | with_reducible apply logPke_canon | with_reducible apply bump_canon | with_reducible apply setF_canon
    | with_reducible apply setReg_canon | with_reducible apply advanceTo_canon | with_reducible apply settleOut_canon
    | with_reducible apply settleSlots_canon | split | dsimp only | exact rfl
    | with_reducible apply State.Canonical.regs | with_reducible apply State.Canonical.mem
    | with_reducible apply State.Canonical.tiles | with_reducible apply State.Canonical.matPoison
    | with_reducible apply State.Canonical.towPoison | with_reducible apply State.Canonical.full
    | (refine State.Canonical.mk ?_ ?_ ?_ ?_ ?_ ?_ <;> dsimp only)

/-! ### Power -/

theorem bootStop_canon {s : State} {reason : ℕ} (h_s : s.Canonical) :
    (bootStop s reason).Canonical := by
  unfold bootStop
  repeat' first
    | with_reducible assumption | with_reducible apply raiseIrq_canon | with_reducible apply stopPorts_canon
    | with_reducible apply logEv_canon | with_reducible apply setF_canon | with_reducible apply setB_canon | split
    | dsimp only | with_reducible apply State.Canonical.regs | with_reducible apply State.Canonical.mem
    | with_reducible apply State.Canonical.tiles | with_reducible apply State.Canonical.matPoison
    | with_reducible apply State.Canonical.towPoison | with_reducible apply State.Canonical.full
    | (refine State.Canonical.mk ?_ ?_ ?_ ?_ ?_ ?_ <;> dsimp only)

theorem logCanary_canon {s : State} {code : ℕ} {d : ℕ} {pay : ℕ} (h_s : s.Canonical) :
    (logCanary s code d pay).Canonical := by
  unfold logCanary
  repeat' first
    | with_reducible assumption | with_reducible apply logEv_canon

theorem suspendPromises_canon {s : State} (h_s : s.Canonical) :
    (suspendPromises s).Canonical := by
  unfold suspendPromises
  repeat' first
    | with_reducible assumption | intro _ | split | dsimp only | with_reducible apply State.Canonical.regs
    | with_reducible apply State.Canonical.mem | with_reducible apply State.Canonical.tiles
    | with_reducible apply State.Canonical.matPoison | with_reducible apply State.Canonical.towPoison
    | with_reducible apply State.Canonical.full | (refine State.Canonical.mk ?_ ?_ ?_ ?_ ?_ ?_ <;> dsimp only)

theorem changeLevel_canon {s : State} {d : ℕ} {new : ℕ} {cause : ℕ} (h_s : s.Canonical) :
    (changeLevel s d new cause).Canonical := by
  unfold changeLevel
  repeat' first
    | with_reducible assumption | with_reducible apply setF_canon | with_reducible apply logCanary_canon | split
    | dsimp only | with_reducible apply State.Canonical.regs | with_reducible apply State.Canonical.mem
    | with_reducible apply State.Canonical.tiles | with_reducible apply State.Canonical.matPoison
    | with_reducible apply State.Canonical.towPoison | with_reducible apply State.Canonical.full
    | (refine State.Canonical.mk ?_ ?_ ?_ ?_ ?_ ?_ <;> dsimp only)

theorem stretch_canon {s : State} {d : ℕ} {cause : ℕ} (h_s : s.Canonical) :
    (stretch s d cause).Canonical := by
  unfold stretch
  repeat' first
    | with_reducible assumption | with_reducible apply suspendPromises_canon | with_reducible apply changeLevel_canon
    | with_reducible apply setF_canon | with_reducible apply moduleFault_canon | with_reducible apply logCanary_canon
    | split | dsimp only

theorem unstretch_canon {s : State} {d : ℕ} (h_s : s.Canonical) :
    (unstretch s d).Canonical := by
  unfold unstretch
  repeat' first
    | with_reducible assumption | with_reducible apply changeLevel_canon | with_reducible apply advanceTo_canon
    | split | dsimp only

theorem stepRail_canon {s : State} {lo : ℕ} {up : Bool} (h_s : s.Canonical) :
    (stepRail s lo up).Canonical := by
  unfold stepRail
  repeat' first
    | with_reducible assumption | with_reducible apply setF_canon | split | dsimp only

theorem stepRails_canon {s : State} {up : Bool} (h_s : s.Canonical) :
    (stepRails s up).Canonical := by
  unfold stepRails
  repeat' first
    | with_reducible assumption | with_reducible apply stepRail_canon

theorem voltageTick_canon {s : State} {slack : ℕ} {full : Bool} (h_s : s.Canonical) :
    (voltageTick s slack full).Canonical := by
  unfold voltageTick
  repeat' first
    | with_reducible assumption | with_reducible apply setF_canon | with_reducible apply stepRails_canon | split
    | dsimp only

theorem powerEstimate_canon {s : State} {watts : ℕ} (h_s : s.Canonical) :
    (powerEstimate s watts).Canonical := by
  unfold powerEstimate
  repeat' first
    | with_reducible assumption | with_reducible apply setB_canon | with_reducible apply stepRails_canon | split
    | dsimp only | with_reducible apply State.Canonical.regs | with_reducible apply State.Canonical.mem
    | with_reducible apply State.Canonical.tiles | with_reducible apply State.Canonical.matPoison
    | with_reducible apply State.Canonical.towPoison | with_reducible apply State.Canonical.full
    | (refine State.Canonical.mk ?_ ?_ ?_ ?_ ?_ ?_ <;> dsimp only)

theorem wrCapW_canon {s : State} {w : ℕ} (h_s : s.Canonical) :
    (wrCapW s w).Canonical := by
  unfold wrCapW
  repeat' first
    | with_reducible assumption | with_reducible apply setF_canon

theorem noteTemp_canon {s : State} {d : ℕ} {t : ℕ} (h_s : s.Canonical) :
    (noteTemp s d t).Canonical := by
  unfold noteTemp
  repeat' first
    | with_reducible assumption | with_reducible apply setF_canon

theorem throttle_canon {s : State} {d : ℕ} {t : ℕ} (h_s : s.Canonical) :
    (throttle s d t).Canonical := by
  unfold throttle
  repeat' first
    | with_reducible assumption | with_reducible apply noteTemp_canon | with_reducible apply setB_canon | split

theorem hotClear_canon {s : State} {t0 : ℕ} {t1 : ℕ} (h_s : s.Canonical) :
    (hotClear s t0 t1).Canonical := by
  unfold hotClear
  repeat' first
    | with_reducible assumption | with_reducible apply noteTemp_canon | with_reducible apply setB_canon | split

theorem thermTrip_canon {s : State} {d : ℕ} {t : ℕ} (h_s : s.Canonical) :
    (thermTrip s d t).Canonical := by
  unfold thermTrip
  repeat' first
    | with_reducible assumption | with_reducible apply throttle_canon | with_reducible apply moduleFault_canon
    | with_reducible apply logCanary_canon | with_reducible apply setB_canon | split | dsimp only
    | with_reducible apply State.Canonical.regs | with_reducible apply State.Canonical.mem
    | with_reducible apply State.Canonical.tiles | with_reducible apply State.Canonical.matPoison
    | with_reducible apply State.Canonical.towPoison | with_reducible apply State.Canonical.full
    | (refine State.Canonical.mk ?_ ?_ ?_ ?_ ?_ ?_ <;> dsimp only)

theorem loseLog_canon {s : State} (h_s : s.Canonical) :
    (loseLog s).Canonical := by
  unfold loseLog
  repeat' first
    | with_reducible assumption | with_reducible apply setReg_canon | dsimp only
    | with_reducible apply State.Canonical.regs | with_reducible apply State.Canonical.mem
    | with_reducible apply State.Canonical.tiles | with_reducible apply State.Canonical.matPoison
    | with_reducible apply State.Canonical.towPoison | with_reducible apply State.Canonical.full
    | (refine State.Canonical.mk ?_ ?_ ?_ ?_ ?_ ?_ <;> dsimp only)

theorem unspecify_canon {s : State} (h_s : s.Canonical) :
    (unspecify s).Canonical := by
  unfold unspecify
  repeat' first
    | with_reducible assumption | intro _ | split | dsimp only | with_reducible apply State.Canonical.regs
    | with_reducible apply State.Canonical.mem | with_reducible apply State.Canonical.tiles
    | with_reducible apply State.Canonical.matPoison | with_reducible apply State.Canonical.towPoison
    | with_reducible apply State.Canonical.full | (refine State.Canonical.mk ?_ ?_ ?_ ?_ ?_ ?_ <;> dsimp only)

theorem railOut_canon {s : State} {x1 : Rail} (h_s : s.Canonical) :
    (railOut s x1).Canonical := by
  unfold railOut
  repeat' first
    | with_reducible assumption | with_reducible apply stretch_canon | with_reducible apply loseLog_canon
    | with_reducible apply unspecify_canon | split

theorem wrMemcfg_canon {s : State} {m : Master} {v : Word} (h_s : s.Canonical) :
    (wrMemcfg s m v).Canonical := by
  unfold wrMemcfg
  repeat' first
    | with_reducible assumption | with_reducible apply setB_canon | with_reducible apply setF_canon
    | with_reducible apply logMaster_canon | split

theorem clearNd_canon {s : State} (h_s : s.Canonical) :
    (clearNd s).Canonical := by
  unfold clearNd
  repeat' first
    | with_reducible assumption | with_reducible apply forRange_keeps | with_reducible apply setReg_canon | intro _

/-! ### Host -/

theorem logPort_canon {s : State} {code : ℕ} {p : ℕ} {addr : ℕ} (h_s : s.Canonical) :
    (logPort s code p addr).Canonical := by
  unfold logPort
  repeat' first
    | with_reducible assumption | with_reducible apply logEv_canon

theorem atcPut_canon {s : State} {p : ℕ} {u : ℕ} {log2 : ℕ} (h_s : s.Canonical) :
    (atcPut s p u log2).Canonical := by
  unfold atcPut
  repeat' first
    | with_reducible assumption | intro _ | split | dsimp only | with_reducible apply State.Canonical.regs
    | with_reducible apply State.Canonical.mem | with_reducible apply State.Canonical.tiles
    | with_reducible apply State.Canonical.matPoison | with_reducible apply State.Canonical.towPoison
    | with_reducible apply State.Canonical.full | (refine State.Canonical.mk ?_ ?_ ?_ ?_ ?_ ?_ <;> dsimp only)

theorem countOut_canon {s : State} {p : ℕ} (h_s : s.Canonical) :
    (countOut s p).Canonical := by
  unfold countOut
  repeat' first
    | with_reducible assumption | with_reducible apply setF_canon

theorem sendPages_canon {s : State} {p : ℕ} {x2 : ℕ} (h_s : s.Canonical) :
    (sendPages s p x2).Canonical := by
  revert h_s
  fun_induction sendPages s p x2
  all_goals
    try rename_i ih
    intro h_s
    repeat' first
      | with_reducible assumption | with_reducible apply ih | with_reducible apply countOut_canon
      | with_reducible apply emit_canon | with_reducible apply bump_canon | with_reducible apply countNd_canon
      | intro _ | split | dsimp only | dsimp +zetaDelta only | with_reducible apply State.Canonical.regs
      | with_reducible apply State.Canonical.mem | with_reducible apply State.Canonical.tiles
      | with_reducible apply State.Canonical.matPoison | with_reducible apply State.Canonical.towPoison
      | with_reducible apply State.Canonical.full | (refine State.Canonical.mk ?_ ?_ ?_ ?_ ?_ ?_ <;> dsimp only)

theorem denyPage_canon {s : State} {p : ℕ} {u : ℕ} {code : ℕ} (h_s : s.Canonical) :
    (denyPage s p u code).Canonical := by
  unfold denyPage
  repeat' first
    | with_reducible assumption | with_reducible apply sendPages_canon | with_reducible apply foldl_keeps
    | with_reducible apply stopFrond_canon | with_reducible apply logPort_canon | with_reducible apply bump_canon
    | intro _ | dsimp only | with_reducible apply State.Canonical.regs | with_reducible apply State.Canonical.mem
    | with_reducible apply State.Canonical.tiles | with_reducible apply State.Canonical.matPoison
    | with_reducible apply State.Canonical.towPoison | with_reducible apply State.Canonical.full
    | (refine State.Canonical.mk ?_ ?_ ?_ ?_ ?_ ?_ <;> dsimp only)

theorem freePage_canon {s : State} {p : ℕ} {u : ℕ} {log2 : ℕ} {asked : Bool} (h_s : s.Canonical) :
    (freePage s p u log2 asked).Canonical := by
  unfold freePage
  repeat' first
    | with_reducible assumption | intro _ | split | dsimp only | with_reducible apply State.Canonical.regs
    | with_reducible apply State.Canonical.mem | with_reducible apply State.Canonical.tiles
    | with_reducible apply State.Canonical.matPoison | with_reducible apply State.Canonical.towPoison
    | with_reducible apply State.Canonical.full | (refine State.Canonical.mk ?_ ?_ ?_ ?_ ?_ ?_ <;> dsimp only)

theorem pendRows_canon {s : State} {p : ℕ} {u : ℕ} (h_s : s.Canonical) :
    (pendRows s p u).Canonical := by
  unfold pendRows
  repeat' first
    | with_reducible assumption | with_reducible apply foldl_keeps | with_reducible apply pendAt_canon

theorem atsAnswer_canon {s : State} {p : ℕ} {u : ℕ} {res : AtsResult} (h_s : s.Canonical) :
    (atsAnswer s p u res).Canonical := by
  unfold atsAnswer
  repeat' first
    | with_reducible assumption | with_reducible apply freePage_canon | with_reducible apply atcPut_canon
    | with_reducible apply denyPage_canon | with_reducible apply countOut_canon | with_reducible apply emit_canon
    | with_reducible apply bump_canon | with_reducible apply countNd_canon | with_reducible apply sendPages_canon
    | intro _ | split | dsimp only | with_reducible apply State.Canonical.regs
    | with_reducible apply State.Canonical.mem | with_reducible apply State.Canonical.tiles
    | with_reducible apply State.Canonical.matPoison | with_reducible apply State.Canonical.towPoison
    | with_reducible apply State.Canonical.full | (refine State.Canonical.mk ?_ ?_ ?_ ?_ ?_ ?_ <;> dsimp only)

theorem atsDone_canon {s : State} {p : ℕ} {u : ℕ} {res : AtsResult} (h_s : s.Canonical) :
    (atsDone s p u res).Canonical := by
  unfold atsDone
  repeat' first
    | with_reducible assumption | with_reducible apply pendRows_canon | with_reducible apply atsAnswer_canon | split

theorem pageResponse_canon {s : State} {p : ℕ} {u : ℕ} {code : PageResp} (h_s : s.Canonical) :
    (pageResponse s p u code).Canonical := by
  unfold pageResponse
  repeat' first
    | with_reducible assumption | with_reducible apply emit_canon | with_reducible apply sendPages_canon
    | with_reducible apply denyPage_canon | with_reducible apply setPort_canon | intro _ | split | dsimp only
    | with_reducible apply State.Canonical.regs | with_reducible apply State.Canonical.mem
    | with_reducible apply State.Canonical.tiles | with_reducible apply State.Canonical.matPoison
    | with_reducible apply State.Canonical.towPoison | with_reducible apply State.Canonical.full
    | (refine State.Canonical.mk ?_ ?_ ?_ ?_ ?_ ?_ <;> dsimp only)

theorem pageTimeout_canon {s : State} {p : ℕ} {u : ℕ} (h_s : s.Canonical) :
    (pageTimeout s p u).Canonical := by
  unfold pageTimeout
  repeat' first
    | with_reducible assumption | with_reducible apply denyPage_canon | with_reducible apply advanceTo_canon | intro _
    | split | dsimp only

theorem invalidate_canon {s : State} {p : ℕ} {u : ℕ} {log2 : ℕ} (h_s : s.Canonical) :
    (invalidate s p u log2).Canonical := by
  unfold invalidate
  repeat' first
    | with_reducible assumption | with_reducible apply emit_canon | intro _ | dsimp only
    | with_reducible apply State.Canonical.regs | with_reducible apply State.Canonical.mem
    | with_reducible apply State.Canonical.tiles | with_reducible apply State.Canonical.matPoison
    | with_reducible apply State.Canonical.towPoison | with_reducible apply State.Canonical.full
    | (refine State.Canonical.mk ?_ ?_ ?_ ?_ ?_ ?_ <;> dsimp only)

theorem cplErr_canon {s : State} {x : FrondRef} {ep : Bool} (h_s : s.Canonical) :
    (cplErr s x ep).Canonical := by
  unfold cplErr
  repeat' first
    | with_reducible assumption | with_reducible apply stopFrond_canon | with_reducible apply logPort_canon
    | with_reducible apply bump_canon | with_reducible apply putFrond_canon | split

theorem zeroPort_canon {s : State} {p : ℕ} (h_s : s.Canonical) :
    (zeroPort s p).Canonical := by
  unfold zeroPort
  repeat' first
    | with_reducible assumption | with_reducible apply foldl_keeps | with_reducible apply setReg_canon | intro _

theorem portReset_canon {s : State} {p : ℕ} (h_s : s.Canonical) :
    (portReset s p).Canonical := by
  unfold portReset
  extract_lets s1 h s2
  have h1 : s1.Canonical := zeroPort_canon h_s
  clear_value s1
  have h2 : s2.Canonical := ⟨h1.regs, h1.mem, h1.tiles, h1.matPoison, h1.towPoison, h1.full⟩
  clear_value s2
  exact setPort_canon h2

theorem freeSems_canon {s : State} {p : ℕ} (h_s : s.Canonical) :
    (freeSems s p).Canonical := by
  unfold freeSems
  repeat' first
    | with_reducible assumption | with_reducible apply forRange_keeps | with_reducible apply logPort_canon
    | with_reducible apply setF_canon | intro _ | split

theorem portLost_canon {s : State} {p : ℕ} (h_s : s.Canonical) :
    (portLost s p).Canonical := by
  unfold portLost
  repeat' first
    | with_reducible assumption | with_reducible apply raiseOn_canon | with_reducible apply setF_canon
    | with_reducible apply foldl_keeps | with_reducible apply stopFrond_canon | with_reducible apply logPort_canon
    | with_reducible apply freeSems_canon | with_reducible apply portReset_canon | intro _

theorem perst_canon {s : State} {p : ℕ} (h_s : s.Canonical) :
    (perst s p).Canonical := by
  unfold perst
  repeat' first
    | with_reducible assumption | with_reducible apply portLost_canon | split | dsimp only
    | with_reducible apply State.Canonical.regs | with_reducible apply State.Canonical.mem
    | with_reducible apply State.Canonical.tiles | with_reducible apply State.Canonical.matPoison
    | with_reducible apply State.Canonical.towPoison | with_reducible apply State.Canonical.full
    | (refine State.Canonical.mk ?_ ?_ ?_ ?_ ?_ ?_ <;> dsimp only)

theorem portUpNow_canon {s : State} {p : ℕ} {speed : ℕ} {width : ℕ} (h_s : s.Canonical) :
    (portUpNow s p speed width).Canonical := by
  unfold portUpNow
  repeat' first
    | with_reducible assumption | with_reducible apply raiseOn_canon | with_reducible apply logPort_canon
    | with_reducible apply setF_canon | with_reducible apply setB_canon | split | dsimp only
    | with_reducible apply State.Canonical.regs | with_reducible apply State.Canonical.mem
    | with_reducible apply State.Canonical.tiles | with_reducible apply State.Canonical.matPoison
    | with_reducible apply State.Canonical.towPoison | with_reducible apply State.Canonical.full
    | (refine State.Canonical.mk ?_ ?_ ?_ ?_ ?_ ?_ <;> dsimp only)

theorem sendPending_canon {s : State} {p : ℕ} (h_s : s.Canonical) :
    (sendPending s p).Canonical := by
  unfold sendPending
  repeat' first
    | with_reducible assumption | with_reducible apply forRange_keeps | with_reducible apply emit_canon | intro _
    | split | dsimp only | with_reducible apply State.Canonical.regs | with_reducible apply State.Canonical.mem
    | with_reducible apply State.Canonical.tiles | with_reducible apply State.Canonical.matPoison
    | with_reducible apply State.Canonical.towPoison | with_reducible apply State.Canonical.full
    | (refine State.Canonical.mk ?_ ?_ ?_ ?_ ?_ ?_ <;> dsimp only)

theorem maskMwin_canon {s : State} {p : ℕ} {v : ℕ} (h_s : s.Canonical) :
    (maskMwin s p v).Canonical := by
  unfold maskMwin
  repeat' first
    | with_reducible assumption | with_reducible apply setReg_canon

theorem configWrite_canon {s : State} {p : ℕ} {k : PcieCfg} {v : Word} (h_s : s.Canonical) :
    (configWrite s p k v).Canonical := by
  unfold configWrite
  repeat' first
    | with_reducible assumption | with_reducible apply setB_canon | with_reducible apply sendPages_canon
    | with_reducible apply setPort_canon | with_reducible apply sendPending_canon
    | with_reducible apply maskMwin_canon | split | dsimp only

theorem wrSem_canon {s : State} {m : Master} {k : ℕ} {v : Word} (h_s : s.Canonical) :
    (wrSem s m k v).Canonical := by
  unfold wrSem
  repeat' first
    | with_reducible assumption | with_reducible apply setF_canon | split | dsimp only

theorem wrMboxCtl_canon {s : State} {m : Master} {d : ℕ} (h_s : s.Canonical) :
    (wrMboxCtl s m d).Canonical := by
  unfold wrMboxCtl
  repeat' first
    | with_reducible assumption | with_reducible apply raiseOn_canon | with_reducible apply setF_canon
    | with_reducible apply setB_canon | with_reducible apply emit_canon | split | dsimp only

theorem wrMboxData_canon {s : State} {m : Master} {d : ℕ} {j : ℕ} {v : Word} (h_s : s.Canonical) :
    (wrMboxData s m d j v).Canonical := by
  unfold wrMboxData
  repeat' first
    | with_reducible assumption | with_reducible apply setReg_canon | with_reducible apply logMaster_canon | split

theorem flashPut_canon {s : State} {a : ℕ} {x2 : List Byte} (h_s : s.Canonical) :
    (flashPut s a x2).Canonical := by
  revert h_s
  fun_induction flashPut s a x2
  all_goals
    try rename_i ih
    intro h_s
    repeat' first
      | with_reducible assumption | with_reducible apply ih | dsimp only | exact rfl
      | with_reducible apply State.Canonical.regs | with_reducible apply State.Canonical.mem
      | with_reducible apply State.Canonical.tiles | with_reducible apply State.Canonical.matPoison
      | with_reducible apply State.Canonical.towPoison | with_reducible apply State.Canonical.full
      | (refine State.Canonical.mk ?_ ?_ ?_ ?_ ?_ ?_ <;> dsimp only)

theorem nvCommand_canon {s : State} {m : Master} {op : ℕ} {len : ℕ} (h_s : s.Canonical) :
    (nvCommand s m op len).Canonical := by
  unfold nvCommand
  repeat' first
    | with_reducible assumption | with_reducible apply setF_canon | with_reducible apply logMaster_canon
    | with_reducible apply setB_canon | split | dsimp only | with_reducible apply State.Canonical.regs
    | with_reducible apply State.Canonical.mem | with_reducible apply State.Canonical.tiles
    | with_reducible apply State.Canonical.matPoison | with_reducible apply State.Canonical.towPoison
    | with_reducible apply State.Canonical.full | (refine State.Canonical.mk ?_ ?_ ?_ ?_ ?_ ?_ <;> dsimp only)

theorem setNvBuffer_canon {s : State} {b : List Byte} (h_s : s.Canonical) :
    (setNvBuffer s b).Canonical := by
  unfold setNvBuffer
  repeat' first
    | with_reducible assumption | with_reducible apply forRange_keeps | with_reducible apply setReg_canon | intro _

theorem nvEffect_canon {s : State} {op : ℕ} {a : ℕ} {len : ℕ} (h_s : s.Canonical) :
    (nvEffect s op a len).Canonical := by
  unfold nvEffect
  repeat' first
    | with_reducible assumption | with_reducible apply flashPut_canon | with_reducible apply setNvBuffer_canon
    | intro _ | split | dsimp only | with_reducible apply State.Canonical.regs
    | with_reducible apply State.Canonical.mem | with_reducible apply State.Canonical.tiles
    | with_reducible apply State.Canonical.matPoison | with_reducible apply State.Canonical.towPoison
    | with_reducible apply State.Canonical.full | (refine State.Canonical.mk ?_ ?_ ?_ ?_ ?_ ?_ <;> dsimp only)

theorem nvSpoil_canon {s : State} {op : ℕ} {a : ℕ} {len : ℕ} (h_s : s.Canonical) :
    (nvSpoil s op a len).Canonical := by
  unfold nvSpoil
  repeat' first
    | with_reducible assumption | with_reducible apply forRange_keeps | with_reducible apply flashPut_canon
    | with_reducible apply takeFree_canon | intro _ | split

theorem nvDone_canon {s : State} {err : FlashErr} (h_s : s.Canonical) :
    (nvDone s err).Canonical := by
  unfold nvDone
  repeat' first
    | with_reducible assumption | with_reducible apply raiseIrq_canon | with_reducible apply setF_canon
    | with_reducible apply setB_canon | with_reducible apply nvSpoil_canon | with_reducible apply nvEffect_canon
    | split | dsimp only | with_reducible apply State.Canonical.regs | with_reducible apply State.Canonical.mem
    | with_reducible apply State.Canonical.tiles | with_reducible apply State.Canonical.matPoison
    | with_reducible apply State.Canonical.towPoison | with_reducible apply State.Canonical.full
    | (refine State.Canonical.mk ?_ ?_ ?_ ?_ ?_ ?_ <;> dsimp only)

theorem fwExpiry_canon {s : State} (h_s : s.Canonical) :
    (fwExpiry s).Canonical := by
  unfold fwExpiry
  repeat' first
    | with_reducible assumption | with_reducible apply logEv_canon | with_reducible apply setF_canon
    | with_reducible apply moduleFault_canon | with_reducible apply bootStop_canon | split | dsimp only
    | with_reducible apply State.Canonical.regs | with_reducible apply State.Canonical.mem
    | with_reducible apply State.Canonical.tiles | with_reducible apply State.Canonical.matPoison
    | with_reducible apply State.Canonical.towPoison | with_reducible apply State.Canonical.full
    | (refine State.Canonical.mk ?_ ?_ ?_ ?_ ?_ ?_ <;> dsimp only)

theorem fillRestart_canon {s : State} (h_s : s.Canonical) :
    (fillRestart s).Canonical := by
  unfold fillRestart
  repeat' first
    | with_reducible assumption | with_reducible apply logChip_canon | intro _ | split

theorem watchdog_canon {s : State} (h_s : s.Canonical) :
    (watchdog s).Canonical := by
  unfold watchdog
  repeat' first
    | with_reducible assumption | with_reducible apply fillRestart_canon | with_reducible apply fwExpiry_canon
    | with_reducible apply advanceTo_canon

theorem mctp_canon {s : State} {x1 : MctpReq} (h_s : s.Canonical) :
    (mctp s x1).Canonical := by
  unfold mctp
  repeat' first
    | with_reducible assumption | with_reducible apply emit_canon | with_reducible apply wrCapW_canon | split

/-! ### LinkCmd -/

theorem sendIdle_canon {s : State} {p : ℕ} (h_s : s.Canonical) :
    (sendIdle s p).Canonical := by
  unfold sendIdle
  repeat' first
    | with_reducible assumption | with_reducible apply setLinkPort_canon | intro _ | split | dsimp only
    | with_reducible apply State.Canonical.regs | with_reducible apply State.Canonical.mem
    | with_reducible apply State.Canonical.tiles | with_reducible apply State.Canonical.matPoison
    | with_reducible apply State.Canonical.towPoison | with_reducible apply State.Canonical.full
    | (refine State.Canonical.mk ?_ ?_ ?_ ?_ ?_ ?_ <;> dsimp only)

theorem takeHeader_canon {s : State} {p : ℕ} {h : LinkHdr} (h_s : s.Canonical) :
    (takeHeader s p h).Canonical := by
  unfold takeHeader
  repeat' first
    | with_reducible assumption | with_reducible apply setLinkPort_canon

theorem countRetry_canon {s : State} {k : Packet} (h_s : s.Canonical) :
    (countRetry s k).Canonical := by
  unfold countRetry
  repeat' first
    | with_reducible assumption | intro _ | split | dsimp only | with_reducible apply State.Canonical.regs
    | with_reducible apply State.Canonical.mem | with_reducible apply State.Canonical.tiles
    | with_reducible apply State.Canonical.matPoison | with_reducible apply State.Canonical.towPoison
    | with_reducible apply State.Canonical.full | (refine State.Canonical.mk ?_ ?_ ?_ ?_ ?_ ?_ <;> dsimp only)

theorem replayPort_canon {s : State} {p : ℕ} (h_s : s.Canonical) :
    (replayPort s p).Canonical := by
  unfold replayPort
  repeat' first
    | with_reducible assumption | with_reducible apply setF_canon | with_reducible apply setLinkPort_canon
    | with_reducible apply countRetry_canon | with_reducible apply countNd_canon
    | with_reducible apply requestAct_canon | with_reducible apply takePortDown_canon
    | with_reducible apply logLink_canon | intro _ | split | dsimp only | exact rfl
    | with_reducible apply State.Canonical.regs | with_reducible apply State.Canonical.mem
    | with_reducible apply State.Canonical.tiles | with_reducible apply State.Canonical.matPoison
    | with_reducible apply State.Canonical.towPoison | with_reducible apply State.Canonical.full
    | (refine State.Canonical.mk ?_ ?_ ?_ ?_ ?_ ?_ <;> dsimp only)

theorem onHeader_canon {s : State} {p : ℕ} {h : LinkHdr} {nak : Bool} (h_s : s.Canonical) :
    (onHeader s p h nak).Canonical := by
  unfold onHeader
  repeat' first
    | with_reducible assumption | with_reducible apply drainPort_canon | with_reducible apply takeHeader_canon
    | with_reducible apply replayPort_canon | split

theorem refusePacket_canon {s : State} {p : ℕ} (h_s : s.Canonical) :
    (refusePacket s p).Canonical := by
  unfold refusePacket
  repeat' first
    | with_reducible assumption | with_reducible apply sendIdle_canon | with_reducible apply setLinkPort_canon

theorem receive_canon {s : State} {p : ℕ} {k : Packet} {deliver : State → State} (h_s : s.Canonical) (h_deliver : (∀ y0, y0.Canonical → (deliver y0).Canonical)) :
    (receive s p k deliver).Canonical := by
  unfold receive
  repeat' first
    | with_reducible assumption | with_reducible apply h_deliver | with_reducible apply routeOut_canon
    | with_reducible apply sendIdle_canon | with_reducible apply bump_canon | with_reducible apply setLinkPort_canon
    | with_reducible apply onHeader_canon | with_reducible apply logLink_canon
    | with_reducible apply refusePacket_canon | split | dsimp only

theorem keepEarly_canon {k : Packet} {s : State} (h_s : s.Canonical) :
    (keepEarly k s).Canonical := by
  unfold keepEarly
  repeat' first
    | with_reducible assumption | dsimp only | with_reducible apply State.Canonical.regs
    | with_reducible apply State.Canonical.mem | with_reducible apply State.Canonical.tiles
    | with_reducible apply State.Canonical.matPoison | with_reducible apply State.Canonical.towPoison
    | with_reducible apply State.Canonical.full | (refine State.Canonical.mk ?_ ?_ ?_ ?_ ?_ ?_ <;> dsimp only)

theorem reply_canon {s : State} {type : ℕ} {vc : ℕ} {len : ℕ} {destL : ℕ} {tag : ℕ} {offset : ℕ} {body : Body} (h_s : s.Canonical) :
    (reply s type vc len destL tag offset body).Canonical := by
  unfold reply
  repeat' first
    | with_reducible assumption | with_reducible apply inject_canon

theorem takeData_canon {k : Packet} {s : State} (h_s : s.Canonical) :
    (takeData k s).Canonical := by
  unfold takeData
  repeat' first
    | with_reducible assumption | with_reducible apply reply_canon | with_reducible apply putBytes_canon
    | with_reducible apply forRange_keeps | with_reducible apply poisonAt_canon | with_reducible apply keepEarly_canon
    | intro _ | split | dsimp only

theorem takeRts_canon {k : Packet} {s : State} (h_s : s.Canonical) :
    (takeRts k s).Canonical := by
  unfold takeRts
  repeat' first
    | with_reducible assumption | split | dsimp only | with_reducible apply State.Canonical.regs
    | with_reducible apply State.Canonical.mem | with_reducible apply State.Canonical.tiles
    | with_reducible apply State.Canonical.matPoison | with_reducible apply State.Canonical.towPoison
    | with_reducible apply State.Canonical.full | (refine State.Canonical.mk ?_ ?_ ?_ ?_ ?_ ?_ <;> dsimp only)

theorem takeCts_canon {k : Packet} {s : State} (h_s : s.Canonical) :
    (takeCts k s).Canonical := by
  unfold takeCts
  repeat' first
    | with_reducible assumption | with_reducible apply keepEarly_canon | intro _ | split | dsimp only
    | with_reducible apply State.Canonical.regs | with_reducible apply State.Canonical.mem
    | with_reducible apply State.Canonical.tiles | with_reducible apply State.Canonical.matPoison
    | with_reducible apply State.Canonical.towPoison | with_reducible apply State.Canonical.full
    | (refine State.Canonical.mk ?_ ?_ ?_ ?_ ?_ ?_ <;> dsimp only)

theorem takeTee_canon {k : Packet} {s : State} (h_s : s.Canonical) :
    (takeTee k s).Canonical := by
  unfold takeTee
  repeat' first
    | with_reducible assumption | with_reducible apply keepEarly_canon | with_reducible apply reply_canon | split

theorem takeMaint_canon {k : Packet} {s : State} (h_s : s.Canonical) :
    (takeMaint k s).Canonical := by
  unfold takeMaint
  repeat' first
    | with_reducible assumption | with_reducible apply emit_canon | dsimp only
    | with_reducible apply State.Canonical.regs | with_reducible apply State.Canonical.mem
    | with_reducible apply State.Canonical.tiles | with_reducible apply State.Canonical.matPoison
    | with_reducible apply State.Canonical.towPoison | with_reducible apply State.Canonical.full
    | (refine State.Canonical.mk ?_ ?_ ?_ ?_ ?_ ?_ <;> dsimp only)

theorem refMismatch_canon {s : State} {p : ℕ} (h_s : s.Canonical) :
    (refMismatch s p).Canonical := by
  unfold refMismatch
  repeat' first
    | with_reducible assumption | with_reducible apply setB_canon | with_reducible apply logEv_canon | split
    | dsimp only | with_reducible apply State.Canonical.regs | with_reducible apply State.Canonical.mem
    | with_reducible apply State.Canonical.tiles | with_reducible apply State.Canonical.matPoison
    | with_reducible apply State.Canonical.towPoison | with_reducible apply State.Canonical.full
    | (refine State.Canonical.mk ?_ ?_ ?_ ?_ ?_ ?_ <;> dsimp only)

theorem raisePort_canon {s : State} {p : ℕ} {t : TrainInfo} (h_s : s.Canonical) :
    (raisePort s p t).Canonical := by
  unfold raisePort
  repeat' first
    | with_reducible assumption | with_reducible apply drainPort_canon | with_reducible apply endAct_canon
    | with_reducible apply logLink_canon | with_reducible apply setLinkPort_canon | with_reducible apply setB_canon
    | with_reducible apply setReg_canon | with_reducible apply refMismatch_canon | split

theorem linkUp_canon {s : State} {p : ℕ} {t : TrainInfo} (h_s : s.Canonical) :
    (linkUp s p t).Canonical := by
  unfold linkUp
  repeat' first
    | with_reducible assumption | with_reducible apply raisePort_canon | with_reducible apply setReg_canon
    | with_reducible apply setF_canon | with_reducible apply logLink_canon | with_reducible apply setB_canon | split
    | dsimp only

theorem wrLinkEnable_canon {s : State} {p : ℕ} {en : Bool} (h_s : s.Canonical) :
    (wrLinkEnable s p en).Canonical := by
  unfold wrLinkEnable
  repeat' first
    | with_reducible assumption | with_reducible apply setLinkPort_canon | with_reducible apply takePortDown_canon
    | with_reducible apply setB_canon | split

theorem wrGroup_canon {s : State} {g : ℕ} {b : Bool} {v : Word} (h_s : s.Canonical) :
    (wrGroup s g b v).Canonical := by
  unfold wrGroup
  repeat' first
    | with_reducible assumption | with_reducible apply setReg_canon | with_reducible apply logLink_canon | intro _
    | split | dsimp only

theorem collTimeout_canon {s : State} {x : FrondRef} (h_s : s.Canonical) :
    (collTimeout s x).Canonical := by
  unfold collTimeout
  repeat' first
    | with_reducible assumption | with_reducible apply withdrawArrival_canon | with_reducible apply stopFrond_canon
    | with_reducible apply logFrond_canon | intro _ | split | dsimp only | with_reducible apply State.Canonical.regs
    | with_reducible apply State.Canonical.mem | with_reducible apply State.Canonical.tiles
    | with_reducible apply State.Canonical.matPoison | with_reducible apply State.Canonical.towPoison
    | with_reducible apply State.Canonical.full | (refine State.Canonical.mk ?_ ?_ ?_ ?_ ?_ ?_ <;> dsimp only)

theorem teeFail_canon {s : State} {r : ℕ} {k : ℕ} (h_s : s.Canonical) :
    (teeFail s r k).Canonical := by
  unfold teeFail
  repeat' first
    | with_reducible assumption | with_reducible apply logQueue_canon | intro _ | split | dsimp only
    | with_reducible apply State.Canonical.regs | with_reducible apply State.Canonical.mem
    | with_reducible apply State.Canonical.tiles | with_reducible apply State.Canonical.matPoison
    | with_reducible apply State.Canonical.towPoison | with_reducible apply State.Canonical.full
    | (refine State.Canonical.mk ?_ ?_ ?_ ?_ ?_ ?_ <;> dsimp only)

theorem takeColl_canon {k : Packet} {s : State} (h_s : s.Canonical) :
    (takeColl k s).Canonical := by
  unfold takeColl
  repeat' first
    | with_reducible assumption | with_reducible apply runGhosts_canon | with_reducible apply ghostFrom_canon
    | with_reducible apply keepEarly_canon

/-! ### Barrier -/

theorem giveBeat_canon {s : State} {f : Frond} {t : ℕ} (h_s : s.Canonical) :
    (giveBeat s f t).Canonical := by
  unfold giveBeat
  repeat' first
    | with_reducible assumption | with_reducible apply putFrond_canon | with_reducible apply logFrond_canon | split

theorem checkLocal_canon {s : State} {key : ℕ} (h_s : s.Canonical) :
    (checkLocal s key).Canonical := by
  unfold checkLocal
  repeat' first
    | with_reducible assumption | with_reducible apply foldl_keeps | with_reducible apply putFrond_canon | intro _
    | split | dsimp only | with_reducible apply State.Canonical.regs | with_reducible apply State.Canonical.mem
    | with_reducible apply State.Canonical.tiles | with_reducible apply State.Canonical.matPoison
    | with_reducible apply State.Canonical.towPoison | with_reducible apply State.Canonical.full
    | (refine State.Canonical.mk ?_ ?_ ?_ ?_ ?_ ?_ <;> dsimp only)

theorem arriveLocal_canon {s : State} {f : Frond} (h_s : s.Canonical) :
    (arriveLocal s f).Canonical := by
  unfold arriveLocal
  repeat' first
    | with_reducible assumption | with_reducible apply checkLocal_canon | with_reducible apply putFrond_canon
    | dsimp only | with_reducible apply State.Canonical.regs | with_reducible apply State.Canonical.mem
    | with_reducible apply State.Canonical.tiles | with_reducible apply State.Canonical.matPoison
    | with_reducible apply State.Canonical.towPoison | with_reducible apply State.Canonical.full
    | (refine State.Canonical.mk ?_ ?_ ?_ ?_ ?_ ?_ <;> dsimp only)

theorem jobLost_canon {s : State} (h_s : s.Canonical) :
    (jobLost s).Canonical := by
  unfold jobLost
  repeat' first
    | with_reducible assumption | with_reducible apply logChip_canon | split | dsimp only
    | with_reducible apply State.Canonical.regs | with_reducible apply State.Canonical.mem
    | with_reducible apply State.Canonical.tiles | with_reducible apply State.Canonical.matPoison
    | with_reducible apply State.Canonical.towPoison | with_reducible apply State.Canonical.full
    | (refine State.Canonical.mk ?_ ?_ ?_ ?_ ?_ ?_ <;> dsimp only)

theorem takeRelease_canon {s : State} {id : ℕ} {t : ℕ} {drops : List ℕ} (h_s : s.Canonical) :
    (takeRelease s id t drops).Canonical := by
  unfold takeRelease
  repeat' first
    | with_reducible assumption | with_reducible apply foldl_keeps | with_reducible apply giveBeat_canon | intro _
    | split | dsimp only | with_reducible apply State.Canonical.regs | with_reducible apply State.Canonical.mem
    | with_reducible apply State.Canonical.tiles | with_reducible apply State.Canonical.matPoison
    | with_reducible apply State.Canonical.towPoison | with_reducible apply State.Canonical.full
    | (refine State.Canonical.mk ?_ ?_ ?_ ?_ ?_ ?_ <;> dsimp only)

theorem checkRoot_canon {s : State} {g : ℕ} {id : ℕ} (h_s : s.Canonical) :
    (checkRoot s g id).Canonical := by
  unfold checkRoot
  repeat' first
    | with_reducible assumption | with_reducible apply takeRelease_canon | with_reducible apply foldl_keeps
    | with_reducible apply reply_canon | with_reducible apply jobLost_canon | intro _ | split | dsimp only
    | with_reducible apply State.Canonical.regs | with_reducible apply State.Canonical.mem
    | with_reducible apply State.Canonical.tiles | with_reducible apply State.Canonical.matPoison
    | with_reducible apply State.Canonical.towPoison | with_reducible apply State.Canonical.full
    | (refine State.Canonical.mk ?_ ?_ ?_ ?_ ?_ ?_ <;> dsimp only)

theorem putArrival_canon {s : State} {id : ℕ} {rank : ℕ} {lvl : ℕ} {fresh : Bool} (h_s : s.Canonical) :
    (putArrival s id rank lvl fresh).Canonical := by
  unfold putArrival
  repeat' first
    | with_reducible assumption | intro _ | dsimp only | with_reducible apply State.Canonical.regs
    | with_reducible apply State.Canonical.mem | with_reducible apply State.Canonical.tiles
    | with_reducible apply State.Canonical.matPoison | with_reducible apply State.Canonical.towPoison
    | with_reducible apply State.Canonical.full | (refine State.Canonical.mk ?_ ?_ ?_ ?_ ?_ ?_ <;> dsimp only)

theorem arriveRank_canon {s : State} {g : ℕ} {id : ℕ} {rank : ℕ} {fresh : Bool} (h_s : s.Canonical) :
    (arriveRank s g id rank fresh).Canonical := by
  unfold arriveRank
  repeat' first
    | with_reducible assumption | with_reducible apply reply_canon | with_reducible apply putArrival_canon | split
    | dsimp only

theorem arriveFor_canon {s : State} {g : ℕ} {id : ℕ} {f : Frond} (h_s : s.Canonical) :
    (arriveFor s g id f).Canonical := by
  unfold arriveFor
  repeat' first
    | with_reducible assumption | with_reducible apply arriveRank_canon | split

theorem arriveGroup_canon {s : State} {f : Frond} (h_s : s.Canonical) :
    (arriveGroup s f).Canonical := by
  unfold arriveGroup
  repeat' first
    | with_reducible assumption | with_reducible apply arriveFor_canon | with_reducible apply checkRoot_canon | split
    | dsimp only

theorem barrierArrive_canon {s : State} {f : Frond} (h_s : s.Canonical) :
    (barrierArrive s f).Canonical := by
  unfold barrierArrive
  repeat' first
    | with_reducible assumption | with_reducible apply arriveGroup_canon | with_reducible apply putFrond_canon
    | with_reducible apply arriveLocal_canon | split

theorem resendArrivals_canon {s : State} (h_s : s.Canonical) :
    (resendArrivals s).Canonical := by
  unfold resendArrivals
  repeat' first
    | with_reducible assumption | with_reducible apply foldl_keeps | with_reducible apply arriveGroup_canon

theorem takeArrive_canon {k : Packet} {s : State} (h_s : s.Canonical) :
    (takeArrive k s).Canonical := by
  unfold takeArrive
  repeat' first
    | with_reducible assumption | with_reducible apply putArrival_canon | with_reducible apply checkRoot_canon | split
    | dsimp only

theorem takeBarRelease_canon {k : Packet} {s : State} (h_s : s.Canonical) :
    (takeBarRelease k s).Canonical := by
  unfold takeBarRelease
  repeat' first
    | with_reducible assumption | with_reducible apply takeRelease_canon | split

theorem wrAliasF_canon {s : State} {i : ℕ} {v : Word} (h_s : s.Canonical) :
    (wrAliasF s i v).Canonical := by
  unfold wrAliasF
  repeat' first
    | with_reducible assumption | with_reducible apply setReg_canon | with_reducible apply resendArrivals_canon
    | with_reducible apply commitAlias_canon | split

/-! ### Sync -/

theorem phaseNow_canon {s : State} (h_s : s.Canonical) :
    ((phaseNow s).2).Canonical := by
  unfold phaseNow
  repeat' first
    | with_reducible assumption | with_reducible apply takeFree_canon

theorem heartbeatSend_canon {s : State} (h_s : s.Canonical) :
    (heartbeatSend s).Canonical := by
  unfold heartbeatSend
  repeat' first
    | with_reducible assumption | with_reducible apply sendAll_canon | with_reducible apply phaseNow_canon
    | with_reducible apply advanceTo_canon

theorem setAligned_canon {s : State} (h_s : s.Canonical) :
    (setAligned s).Canonical := by
  unfold setAligned
  repeat' first
    | with_reducible assumption | with_reducible apply setB_canon | split

theorem judgeError_canon {s : State} {p : ℕ} {err : ℤ} (h_s : s.Canonical) :
    (judgeError s p err).Canonical := by
  unfold judgeError
  repeat' first
    | with_reducible assumption | with_reducible apply setAligned_canon | with_reducible apply setB_canon
    | with_reducible apply logCanary_canon | split

theorem takeHeartbeat_canon {p : ℕ} {k : Packet} {err : ℤ} {s : State} (h_s : s.Canonical) :
    (takeHeartbeat p k err s).Canonical := by
  unfold takeHeartbeat
  repeat' first
    | with_reducible assumption | with_reducible apply setLinkPort_canon | with_reducible apply judgeError_canon
    | split | dsimp only

theorem alignOut_canon {s : State} {from_ : Option ℕ} (h_s : s.Canonical) :
    (alignOut s from_).Canonical := by
  unfold alignOut
  repeat' first
    | with_reducible assumption | with_reducible apply forRange_keeps | with_reducible apply sendOn_canon
    | with_reducible apply phaseNow_canon | intro _ | split | dsimp only

theorem takeAlign_canon {p : ℕ} {k : Packet} {s : State} (h_s : s.Canonical) :
    (takeAlign p k s).Canonical := by
  unfold takeAlign
  repeat' first
    | with_reducible assumption | with_reducible apply alignOut_canon | with_reducible apply setAligned_canon
    | with_reducible apply setF_canon | with_reducible apply setReg_canon | split

/-! ### Fail -/

theorem setFailState_canon {s : State} {n : ℕ} (h_s : s.Canonical) :
    (setFailState s n).Canonical := by
  unfold setFailState
  repeat' first
    | with_reducible assumption | with_reducible apply raiseIrq_canon | with_reducible apply setF_canon | split

theorem sendReady_canon {s : State} {dest : ℕ} {kind : ℕ} {value : ℕ} {value2 : ℕ} {domain : ℕ} {board : ℕ} (h_s : s.Canonical) :
    (sendReady s dest kind value value2 domain board).Canonical := by
  unfold sendReady
  repeat' first
    | with_reducible assumption | with_reducible apply reply_canon

theorem refusePair_canon {s : State} {refused : ℕ} {code : ℕ} {pay : ℕ} (h_s : s.Canonical) :
    (refusePair s refused code pay).Canonical := by
  unfold refusePair
  repeat' first
    | with_reducible assumption | with_reducible apply setFailState_canon | with_reducible apply logChip_canon
    | with_reducible apply setF_canon

theorem judgeSync_canon {s : State} {sender : ℕ} {value : ℕ} {value2 : ℕ} {domain : ℕ} {board : ℕ} (h_s : s.Canonical) :
    (judgeSync s sender value value2 domain board).Canonical := by
  unfold judgeSync
  repeat' first
    | with_reducible assumption | with_reducible apply setFailState_canon | with_reducible apply logChip_canon
    | with_reducible apply setF_canon | with_reducible apply refusePair_canon | with_reducible apply setB_canon
    | with_reducible apply takeFree_canon | split | dsimp only | with_reducible apply State.Canonical.regs
    | with_reducible apply State.Canonical.mem | with_reducible apply State.Canonical.tiles
    | with_reducible apply State.Canonical.matPoison | with_reducible apply State.Canonical.towPoison
    | with_reducible apply State.Canonical.full | (refine State.Canonical.mk ?_ ?_ ?_ ?_ ?_ ?_ <;> dsimp only)

theorem takeSync_canon {k : Packet} {s : State} (h_s : s.Canonical) :
    (takeSync k s).Canonical := by
  unfold takeSync
  repeat' first
    | with_reducible assumption | with_reducible apply keepEarly_canon | with_reducible apply judgeSync_canon | split

theorem armTables_canon {s : State} (h_s : s.Canonical) :
    (armTables s).Canonical := by
  unfold armTables
  repeat' first
    | with_reducible assumption | with_reducible apply forRange_keeps | with_reducible apply setB_canon | intro _

theorem armNow_canon {s : State} (h_s : s.Canonical) :
    (armNow s).Canonical := by
  unfold armNow
  repeat' first
    | with_reducible assumption | with_reducible apply setFailState_canon | with_reducible apply armTables_canon
    | with_reducible apply foldl_keeps | with_reducible apply takeSync_canon | with_reducible apply sendReady_canon
    | intro _ | split | dsimp only | with_reducible apply State.Canonical.regs
    | with_reducible apply State.Canonical.mem | with_reducible apply State.Canonical.tiles
    | with_reducible apply State.Canonical.matPoison | with_reducible apply State.Canonical.towPoison
    | with_reducible apply State.Canonical.full | (refine State.Canonical.mk ?_ ?_ ?_ ?_ ?_ ?_ <;> dsimp only)

theorem wrFailCtrl_canon {s : State} {m : Master} {v : Word} (h_s : s.Canonical) :
    (wrFailCtrl s m v).Canonical := by
  unfold wrFailCtrl
  repeat' first
    | with_reducible assumption | with_reducible apply setB_canon | with_reducible apply logMaster_canon
    | with_reducible apply setFailState_canon | with_reducible apply armNow_canon | split | dsimp only

theorem partnerAbsent_canon {s : State} (h_s : s.Canonical) :
    (partnerAbsent s).Canonical := by
  unfold partnerAbsent
  repeat' first
    | with_reducible assumption | with_reducible apply refusePair_canon | with_reducible apply advanceTo_canon | split
    | dsimp only | with_reducible apply State.Canonical.regs | with_reducible apply State.Canonical.mem
    | with_reducible apply State.Canonical.tiles | with_reducible apply State.Canonical.matPoison
    | with_reducible apply State.Canonical.towPoison | with_reducible apply State.Canonical.full
    | (refine State.Canonical.mk ?_ ?_ ?_ ?_ ?_ ?_ <;> dsimp only)

theorem takeColdDirty_canon {k : Packet} {s : State} (h_s : s.Canonical) :
    (takeColdDirty k s).Canonical := by
  unfold takeColdDirty
  repeat' first
    | with_reducible assumption | with_reducible apply sendReady_canon | with_reducible apply setB_canon | split
    | dsimp only

theorem dirtyNow_canon {s : State} {i : ℕ} (h_s : s.Canonical) :
    (dirtyNow s i).Canonical := by
  unfold dirtyNow
  repeat' first
    | with_reducible assumption | with_reducible apply setB_canon | intro _ | dsimp only
    | with_reducible apply State.Canonical.regs | with_reducible apply State.Canonical.mem
    | with_reducible apply State.Canonical.tiles | with_reducible apply State.Canonical.matPoison
    | with_reducible apply State.Canonical.towPoison | with_reducible apply State.Canonical.full
    | (refine State.Canonical.mk ?_ ?_ ?_ ?_ ?_ ?_ <;> dsimp only)

theorem takeDirtyAck_canon {k : Packet} {s : State} (h_s : s.Canonical) :
    (takeDirtyAck k s).Canonical := by
  unfold takeDirtyAck
  repeat' first
    | with_reducible assumption | with_reducible apply bump_canon | with_reducible apply dirtyNow_canon | split

theorem unprotected_canon {s : State} {i : ℕ} (h_s : s.Canonical) :
    (unprotected s i).Canonical := by
  unfold unprotected
  repeat' first
    | with_reducible assumption | with_reducible apply logChip_canon | with_reducible apply dirtyNow_canon
    | with_reducible apply advanceTo_canon | split | dsimp only | with_reducible apply State.Canonical.regs
    | with_reducible apply State.Canonical.mem | with_reducible apply State.Canonical.tiles
    | with_reducible apply State.Canonical.matPoison | with_reducible apply State.Canonical.towPoison
    | with_reducible apply State.Canonical.full | (refine State.Canonical.mk ?_ ?_ ?_ ?_ ?_ ?_ <;> dsimp only)

theorem judgeDigest_canon {s : State} {own : ℕ} {shadow : ℕ} (h_s : s.Canonical) :
    (judgeDigest s own shadow).Canonical := by
  unfold judgeDigest
  repeat' first
    | with_reducible assumption | with_reducible apply setFailState_canon | with_reducible apply logChip_canon | split
    | dsimp only | with_reducible apply State.Canonical.regs | with_reducible apply State.Canonical.mem
    | with_reducible apply State.Canonical.tiles | with_reducible apply State.Canonical.matPoison
    | with_reducible apply State.Canonical.towPoison | with_reducible apply State.Canonical.full
    | (refine State.Canonical.mk ?_ ?_ ?_ ?_ ?_ ?_ <;> dsimp only)

theorem takeDigest_canon {k : Packet} {s : State} (h_s : s.Canonical) :
    (takeDigest k s).Canonical := by
  unfold takeDigest
  repeat' first
    | with_reducible assumption | with_reducible apply judgeDigest_canon | with_reducible apply keepEarly_canon
    | split

theorem fence_canon {s : State} (h_s : s.Canonical) :
    (fence s).Canonical := by
  unfold fence
  repeat' first
    | with_reducible assumption | with_reducible apply stopInFlight_canon | with_reducible apply logChip_canon
    | with_reducible apply setFailState_canon | intro _ | split

theorem noteSeen_canon {s : State} {k : ℕ × ℕ × ℕ} (h_s : s.Canonical) :
    (noteSeen s k).Canonical := by
  unfold noteSeen
  repeat' first
    | with_reducible assumption | dsimp only | with_reducible apply State.Canonical.regs
    | with_reducible apply State.Canonical.mem | with_reducible apply State.Canonical.tiles
    | with_reducible apply State.Canonical.matPoison | with_reducible apply State.Canonical.towPoison
    | with_reducible apply State.Canonical.full | (refine State.Canonical.mk ?_ ?_ ?_ ?_ ?_ ?_ <;> dsimp only)

theorem lossAliases_canon {s : State} {deadL : ℕ} {deadP : ℕ} {standin : ℕ} (h_s : s.Canonical) :
    (∀ y0, lossAliases s deadL deadP standin = some y0 → y0.Canonical) := by
  unfold lossAliases
  intro y hy
  split at hy
  · cases hy
  · split at hy
    · cases hy; exact setAlias_canon h_s _ ‹_›
    · exact setAlias_canon (setAlias_canon h_s _ ‹_›) _ hy

theorem restartCollectives_canon {s : State} {deadL : ℕ} (h_s : s.Canonical) :
    (restartCollectives s deadL).Canonical := by
  unfold restartCollectives
  repeat' first
    | with_reducible assumption | with_reducible apply foldl_keeps | with_reducible apply resendStep_canon
    | with_reducible apply putFrond_canon | with_reducible apply logFrond_canon | with_reducible apply runGhosts_canon
    | intro _

theorem startStandin_canon {s : State} {deadL : ℕ} {deadP : ℕ} {origin : ℕ} (h_s : s.Canonical) :
    (startStandin s deadL deadP origin).Canonical := by
  unfold startStandin
  repeat' first
    | with_reducible assumption | with_reducible apply logChip_canon | with_reducible apply setFailState_canon
    | with_reducible apply setReg_canon | with_reducible apply sendAll_canon | with_reducible apply noteSeen_canon
    | intro _ | split | dsimp only | with_reducible apply State.Canonical.regs
    | with_reducible apply State.Canonical.mem | with_reducible apply State.Canonical.tiles
    | with_reducible apply State.Canonical.matPoison | with_reducible apply State.Canonical.towPoison
    | with_reducible apply State.Canonical.full | (refine State.Canonical.mk ?_ ?_ ?_ ?_ ?_ ?_ <;> dsimp only)

theorem firstLoss_canon {s : State} {deadL : ℕ} {deadP : ℕ} {standin : ℕ} {origin : ℕ} {code : ℕ} (h_s : s.Canonical) :
    (firstLoss s deadL deadP standin origin code).Canonical := by
  unfold firstLoss
  repeat' first
    | with_reducible assumption | with_reducible apply fence_canon | with_reducible apply logChip_canon
    | with_reducible apply resendArrivals_canon | with_reducible apply restartCollectives_canon
    | exact lossAliases_canon ‹_› _ ‹_› | with_reducible apply setReg_canon | with_reducible apply startStandin_canon
    | with_reducible apply jobLost_canon | split

theorem applyLoss_canon {s : State} {deadL : ℕ} {deadP : ℕ} {standin : ℕ} {origin : ℕ} {code : ℕ} {confirm : Bool} {rollback : Bool} (h_s : s.Canonical) :
    (applyLoss s deadL deadP standin origin code confirm rollback).Canonical := by
  unfold applyLoss
  repeat' first
    | with_reducible assumption | with_reducible apply bump_canon | with_reducible apply noteSeen_canon
    | with_reducible apply firstLoss_canon | with_reducible apply fence_canon | intro _ | split | dsimp only
    | with_reducible apply State.Canonical.regs | with_reducible apply State.Canonical.mem
    | with_reducible apply State.Canonical.tiles | with_reducible apply State.Canonical.matPoison
    | with_reducible apply State.Canonical.towPoison | with_reducible apply State.Canonical.full
    | (refine State.Canonical.mk ?_ ?_ ?_ ?_ ?_ ?_ <;> dsimp only)

theorem takeLoss_canon {p : ℕ} {k : Packet} {s : State} (h_s : s.Canonical) :
    (takeLoss p k s).Canonical := by
  unfold takeLoss
  repeat' first
    | with_reducible assumption | with_reducible apply applyLoss_canon | with_reducible apply sendAll_canon | split

theorem declareLoss_canon {s : State} {p : ℕ} (h_s : s.Canonical) :
    (declareLoss s p).Canonical := by
  unfold declareLoss
  repeat' first
    | with_reducible assumption | with_reducible apply applyLoss_canon | with_reducible apply sendAll_canon
    | with_reducible apply advanceTo_canon | intro _ | split | dsimp only

theorem selfFence_canon {s : State} (h_s : s.Canonical) :
    (selfFence s).Canonical := by
  unfold selfFence
  repeat' first
    | with_reducible assumption | with_reducible apply fence_canon | with_reducible apply advanceTo_canon | split

theorem claimGemma_canon {s : State} (h_s : s.Canonical) :
    (claimGemma s).Canonical := by
  unfold claimGemma
  repeat' first
    | with_reducible assumption | with_reducible apply logChip_canon | with_reducible apply inject_canon | split
    | dsimp only | with_reducible apply State.Canonical.regs | with_reducible apply State.Canonical.mem
    | with_reducible apply State.Canonical.tiles | with_reducible apply State.Canonical.matPoison
    | with_reducible apply State.Canonical.towPoison | with_reducible apply State.Canonical.full
    | (refine State.Canonical.mk ?_ ?_ ?_ ?_ ?_ ?_ <;> dsimp only)

theorem takeClaim_canon {k : Packet} {s : State} (h_s : s.Canonical) :
    (takeClaim k s).Canonical := by
  unfold takeClaim
  repeat' first
    | with_reducible assumption | with_reducible apply sendReady_canon | with_reducible apply setFailState_canon
    | split | dsimp only | with_reducible apply State.Canonical.regs | with_reducible apply State.Canonical.mem
    | with_reducible apply State.Canonical.tiles | with_reducible apply State.Canonical.matPoison
    | with_reducible apply State.Canonical.towPoison | with_reducible apply State.Canonical.full
    | (refine State.Canonical.mk ?_ ?_ ?_ ?_ ?_ ?_ <;> dsimp only)

theorem takeAccept_canon {k : Packet} {s : State} (h_s : s.Canonical) :
    (takeAccept k s).Canonical := by
  unfold takeAccept
  repeat' first
    | with_reducible assumption | with_reducible apply logChip_canon | with_reducible apply setReg_canon
    | with_reducible apply setB_canon | split | dsimp only | with_reducible apply State.Canonical.regs
    | with_reducible apply State.Canonical.mem | with_reducible apply State.Canonical.tiles
    | with_reducible apply State.Canonical.matPoison | with_reducible apply State.Canonical.towPoison
    | with_reducible apply State.Canonical.full | (refine State.Canonical.mk ?_ ?_ ?_ ?_ ?_ ?_ <;> dsimp only)

theorem takeBusy_canon {k : Packet} {s : State} (h_s : s.Canonical) :
    (takeBusy k s).Canonical := by
  unfold takeBusy
  repeat' first
    | with_reducible assumption | with_reducible apply claimGemma_canon | with_reducible apply setB_canon | split
    | dsimp only | with_reducible apply State.Canonical.regs | with_reducible apply State.Canonical.mem
    | with_reducible apply State.Canonical.tiles | with_reducible apply State.Canonical.matPoison
    | with_reducible apply State.Canonical.towPoison | with_reducible apply State.Canonical.full
    | (refine State.Canonical.mk ?_ ?_ ?_ ?_ ?_ ?_ <;> dsimp only)

theorem fillDone_canon {s : State} (h_s : s.Canonical) :
    (fillDone s).Canonical := by
  unfold fillDone
  repeat' first
    | with_reducible assumption | with_reducible apply logChip_canon | with_reducible apply setB_canon | split

theorem completeHandover_canon {s : State} {l : ℕ} {g : ℕ} (h_s : s.Canonical) :
    (completeHandover s l g).Canonical := by
  unfold completeHandover
  extract_lets dead s1 s2
  have h1 : s1.Canonical := getD_keeps (setAlias_canon h_s) h_s
  have h2 : s2.Canonical := by
    with_reducible apply forRange_keeps
    · intro i x hx
      split
      · exact setB_canon hx
      · exact hx
    · exact h1
  exact resendArrivals_canon (congr_canon h2 rfl rfl rfl rfl rfl rfl)

theorem becomeMember_canon {s : State} {symbiontP : ℕ} (h_s : s.Canonical) :
    (becomeMember s symbiontP).Canonical := by
  unfold becomeMember
  repeat' first
    | with_reducible assumption | with_reducible apply forRange_keeps | with_reducible apply wrEnable_canon
    | with_reducible apply logChip_canon | with_reducible apply setFailState_canon | with_reducible apply setReg_canon
    | intro _ | split | dsimp only | with_reducible apply State.Canonical.regs
    | with_reducible apply State.Canonical.mem | with_reducible apply State.Canonical.tiles
    | with_reducible apply State.Canonical.matPoison | with_reducible apply State.Canonical.towPoison
    | with_reducible apply State.Canonical.full | (refine State.Canonical.mk ?_ ?_ ?_ ?_ ?_ ?_ <;> dsimp only)

theorem takeAdopt_canon {p : ℕ} {k : Packet} {s : State} (h_s : s.Canonical) :
    (takeAdopt p k s).Canonical := by
  unfold takeAdopt
  repeat' first
    | with_reducible assumption | with_reducible apply noteSeen_canon | with_reducible apply sendAll_canon
    | with_reducible apply completeHandover_canon | with_reducible apply becomeMember_canon | split | dsimp only
    | with_reducible apply State.Canonical.regs | with_reducible apply State.Canonical.mem
    | with_reducible apply State.Canonical.tiles | with_reducible apply State.Canonical.matPoison
    | with_reducible apply State.Canonical.towPoison | with_reducible apply State.Canonical.full
    | (refine State.Canonical.mk ?_ ?_ ?_ ?_ ?_ ?_ <;> dsimp only)

/-! ### RegWrite -/

theorem readAs_canon {s : State} {m : Master} {o : ℕ} {len : ℕ} (h_s : s.Canonical) :
    ((readAs s m o len).1).Canonical := by
  unfold readAs
  repeat' first
    | with_reducible assumption | with_reducible apply logMaster_canon | split

theorem plainWrite_canon {s : State} {row : RegRow} {o : ℕ} {x : RegWr} (h_s : s.Canonical) :
    (plainWrite s row o x).Canonical := by
  unfold plainWrite
  repeat' first
    | with_reducible assumption | with_reducible apply setReg_canon

theorem wrSys_canon {s : State} {m : Master} {row : RegRow} {k : ℕ} {x : RegWr} (h_s : s.Canonical) :
    (wrSys s m row k x).Canonical := by
  unfold wrSys
  repeat' first
    | with_reducible assumption | with_reducible apply plainWrite_canon | with_reducible apply rngRetry_canon
    | with_reducible apply takeFree_canon | with_reducible apply wrCapW_canon | with_reducible apply setF_canon
    | with_reducible apply wrMemcfg_canon | split

theorem wrBeat_canon {s : State} {row : RegRow} {o : ℕ} {x : RegWr} (h_s : s.Canonical) :
    (wrBeat s row o x).Canonical := by
  unfold wrBeat
  repeat' first
    | with_reducible assumption | with_reducible apply plainWrite_canon | with_reducible apply setReg_canon
    | with_reducible apply clearNd_canon | split

theorem wrLog_canon {s : State} {row : RegRow} {o : ℕ} {x : RegWr} (h_s : s.Canonical) :
    (wrLog s row o x).Canonical := by
  unfold wrLog
  repeat' first
    | with_reducible assumption | with_reducible apply plainWrite_canon | with_reducible apply wrDrainTail_canon
    | with_reducible apply wrRdSel_canon | with_reducible apply wrLogTail_canon | split

theorem wrMaint_canon {s : State} {row : RegRow} {o : ℕ} {x : RegWr} (h_s : s.Canonical) :
    (wrMaint s row o x).Canonical := by
  unfold wrMaint
  repeat' first
    | with_reducible assumption | with_reducible apply plainWrite_canon | with_reducible apply setF_canon
    | with_reducible apply wrMaintReq_canon | split

theorem wrFail_canon {s : State} {m : Master} {row : RegRow} {o : ℕ} {x : RegWr} (h_s : s.Canonical) :
    (wrFail s m row o x).Canonical := by
  unfold wrFail
  repeat' first
    | with_reducible assumption | with_reducible apply plainWrite_canon | with_reducible apply logMaster_canon
    | with_reducible apply wrFailCtrl_canon | split

theorem wrPke_canon {s : State} {row : RegRow} {o : ℕ} {x : RegWr} (h_s : s.Canonical) :
    (wrPke s row o x).Canonical := by
  unfold wrPke
  repeat' first
    | with_reducible assumption | with_reducible apply plainWrite_canon | with_reducible apply logPke_canon
    | with_reducible apply pkeGo_canon | split

theorem wrMgmt_canon {s : State} {m : Master} {row : RegRow} {o : ℕ} {x : RegWr} (h_s : s.Canonical) :
    (wrMgmt s m row o x).Canonical := by
  unfold wrMgmt
  repeat' first
    | with_reducible assumption | with_reducible apply wrMboxData_canon | with_reducible apply wrMboxCtl_canon
    | with_reducible apply plainWrite_canon | with_reducible apply wrSem_canon | with_reducible apply setReg_canon
    | split | dsimp only | with_reducible apply State.Canonical.regs | with_reducible apply State.Canonical.mem
    | with_reducible apply State.Canonical.tiles | with_reducible apply State.Canonical.matPoison
    | with_reducible apply State.Canonical.towPoison | with_reducible apply State.Canonical.full
    | (refine State.Canonical.mk ?_ ?_ ?_ ?_ ?_ ?_ <;> dsimp only)

theorem wrNv_canon {s : State} {m : Master} {row : RegRow} {o : ℕ} {x : RegWr} (h_s : s.Canonical) :
    (wrNv s m row o x).Canonical := by
  unfold wrNv
  repeat' first
    | with_reducible assumption | with_reducible apply plainWrite_canon | with_reducible apply nvCommand_canon | split

theorem wrTorus_canon {s : State} {m : Master} {v : Word} (h_s : s.Canonical) :
    (wrTorus s m v).Canonical := by
  unfold wrTorus
  repeat' first
    | with_reducible assumption | with_reducible apply setF_canon | with_reducible apply setB_canon
    | with_reducible apply logMaster_canon | split | dsimp only

theorem wrLink_canon {s : State} {m : Master} {row : RegRow} {n : ℕ} {o : ℕ} {x : RegWr} (h_s : s.Canonical) :
    (wrLink s m row n o x).Canonical := by
  unfold wrLink
  repeat' first
    | with_reducible assumption | with_reducible apply plainWrite_canon | with_reducible apply wrAliasF_canon
    | with_reducible apply wrGroup_canon | with_reducible apply setF_canon | with_reducible apply wrTorus_canon
    | with_reducible apply logMaster_canon | with_reducible apply requestAct_canon
    | with_reducible apply wrLinkEnable_canon | split

theorem wrPcie_canon {s : State} {row : RegRow} {n : ℕ} {o : ℕ} {x : RegWr} (h_s : s.Canonical) :
    (wrPcie s row n o x).Canonical := by
  unfold wrPcie
  repeat' first
    | with_reducible assumption | with_reducible apply plainWrite_canon | with_reducible apply maskMwin_canon | split

theorem wrTow_canon {s : State} {row : RegRow} {t : ℕ} {k : ℕ} {x : RegWr} (h_s : s.Canonical) :
    (wrTow s row t k x).Canonical := by
  unfold wrTow
  repeat' first
    | with_reducible assumption | with_reducible apply plainWrite_canon | with_reducible apply wrMargin_canon
    | with_reducible apply wrPoisonOp_canon | with_reducible apply wrRfsh_canon | with_reducible apply wrQuiesce_canon
    | split

theorem wrSeq_canon {s : State} {row : RegRow} {r : ℕ} {k : ℕ} {x : RegWr} (h_s : s.Canonical) :
    (wrSeq s row r k x).Canonical := by
  unfold wrSeq
  repeat' first
    | with_reducible assumption | with_reducible apply plainWrite_canon | with_reducible apply wrPreempt_canon
    | with_reducible apply wrResume_canon | with_reducible apply wrAbort_canon | with_reducible apply wrCrtail_canon
    | with_reducible apply wrQueueCfg_canon | with_reducible apply wrQtail_canon | split

theorem wrMat_canon {s : State} {m : Master} {row : RegRow} {r : ℕ} {k : ℕ} {x : RegWr} (h_s : s.Canonical) :
    (wrMat s m row r k x).Canonical := by
  unfold wrMat
  repeat' first
    | with_reducible assumption | with_reducible apply plainWrite_canon | with_reducible apply wrPclass_canon
    | with_reducible apply wrCircPtr_canon | with_reducible apply wrCirc_canon | with_reducible apply wrHoff_canon
    | with_reducible apply setF_canon | with_reducible apply wrMatMode_canon | split

theorem wrPeri_canon {s : State} {row : RegRow} {r : ℕ} {k : ℕ} {x : RegWr} (h_s : s.Canonical) :
    (wrPeri s row r k x).Canonical := by
  unfold wrPeri
  repeat' first
    | with_reducible assumption | with_reducible apply plainWrite_canon | with_reducible apply wrKsetBase_canon
    | with_reducible apply ksetGo_canon | with_reducible apply ksetClear_canon | split

theorem writeReg_canon {s : State} {m : Master} {row : RegRow} {b : Blk} {o : ℕ} {x : RegWr} (h_s : s.Canonical) :
    (writeReg s m row b o x).Canonical := by
  unfold writeReg
  repeat' first
    | with_reducible assumption | with_reducible apply wrSys_canon | with_reducible apply wrBeat_canon
    | with_reducible apply wrLog_canon | with_reducible apply wrMaint_canon | with_reducible apply wrFail_canon
    | with_reducible apply wrPke_canon | with_reducible apply wrMgmt_canon | with_reducible apply wrNv_canon
    | with_reducible apply wrLink_canon | with_reducible apply wrPcie_canon | with_reducible apply wrTow_canon
    | with_reducible apply wrSeq_canon | with_reducible apply wrMat_canon | with_reducible apply plainWrite_canon
    | with_reducible apply wrChcfg_canon | with_reducible apply wrPeri_canon | split | dsimp only

theorem writeAs_canon {s : State} {m : Master} {o : ℕ} {len : ℕ} {v : ℕ} (h_s : s.Canonical) :
    (writeAs s m o len v).Canonical := by
  unfold writeAs
  repeat' first
    | with_reducible assumption | with_reducible apply writeReg_canon | with_reducible apply logMaster_canon | split

theorem hostRead_canon {s : State} {p : Fin 2} {bar : Bar} {a : ℕ} {n : ℕ} (h_s : s.Canonical) :
    (hostRead s p bar a n).Canonical := by
  unfold hostRead
  repeat' first
    | with_reducible assumption | with_reducible apply emit_canon | with_reducible apply readAs_canon
    | with_reducible apply hostMemRead_canon | with_reducible apply hold_canon | split

theorem hostWrite_canon {s : State} {p : Fin 2} {bar : Bar} {a : ℕ} {d : List Byte} (h_s : s.Canonical) :
    (hostWrite s p bar a d).Canonical := by
  unfold hostWrite
  repeat' first
    | with_reducible assumption | with_reducible apply gated_canon | with_reducible apply writeAs_canon
    | with_reducible apply hostMemWrite_canon | with_reducible apply hold_canon | with_reducible apply logMaster_canon
    | intro _ | split

theorem doorbellRead_canon {s : State} {p : Fin 2} {o : ℕ} {n : ℕ} (h_s : s.Canonical) :
    (doorbellRead s p o n).Canonical := by
  unfold doorbellRead
  repeat' first
    | with_reducible assumption | with_reducible apply hostRead_canon | with_reducible apply emit_canon | split

theorem doorbellWrite_canon {s : State} {p : Fin 2} {o : ℕ} {d : List Byte} (h_s : s.Canonical) :
    (doorbellWrite s p o d).Canonical := by
  unfold doorbellWrite
  repeat' first
    | with_reducible assumption | with_reducible apply hostWrite_canon | with_reducible apply sendPending_canon
    | intro _ | split | dsimp only | with_reducible apply State.Canonical.regs
    | with_reducible apply State.Canonical.mem | with_reducible apply State.Canonical.tiles
    | with_reducible apply State.Canonical.matPoison | with_reducible apply State.Canonical.towPoison
    | with_reducible apply State.Canonical.full | (refine State.Canonical.mk ?_ ?_ ?_ ?_ ?_ ?_ <;> dsimp only)

theorem barRead_canon {s : State} {p : Fin 2} {bar : Bar} {o : ℕ} {n : ℕ} (h_s : s.Canonical) :
    (barRead s p bar o n).Canonical := by
  unfold barRead
  repeat' first
    | with_reducible assumption | with_reducible apply hostRead_canon | with_reducible apply emit_canon
    | with_reducible apply doorbellRead_canon | split

theorem barWrite_canon {s : State} {p : Fin 2} {bar : Bar} {o : ℕ} {d : List Byte} (h_s : s.Canonical) :
    (barWrite s p bar o d).Canonical := by
  unfold barWrite
  repeat' first
    | with_reducible assumption | with_reducible apply hostWrite_canon | with_reducible apply doorbellWrite_canon
    | split

theorem mgmtAccess_canon {s : State} {wr : Bool} {a : BitVec 40} {d : List Byte} {n : ℕ} (h_s : s.Canonical) :
    (mgmtAccess s wr a d n).Canonical := by
  unfold mgmtAccess
  repeat' first
    | with_reducible assumption | with_reducible apply emit_canon | with_reducible apply readAs_canon
    | with_reducible apply writeAs_canon | with_reducible apply mgmtMem_canon | with_reducible apply hold_canon
    | split

end Sys2Proof.Machine
end

