-- ==== Sys2Proof/Laws/CanonUnits.lean ====
section
/-! SUPPORT. Every operation keeps the canonical form: the progress units of the streaming, tile, tensor and polynomial opcodes. -/

namespace Sys2Proof.Machine
open Sys2Proof

/-! ### Access -/

theorem Run.st_canon {self : Run} (h_self : self.Canonical) :
    (Run.st self).Canonical := by
  unfold Run.st
  repeat' first
    | with_reducible assumption | dsimp only | with_reducible apply Run.Canonical.st

theorem Run.base_canon {self : Run} (h_self : self.Canonical) :
    (Run.base self).Canonical := by
  unfold Run.base
  repeat' first
    | with_reducible assumption | dsimp only | with_reducible apply Run.Canonical.base

theorem Run.halt_canon {r : Run} {x : Status} (h_r : r.Canonical) :
    (Run.halt r x).Canonical := by
  unfold Run.halt
  repeat' first
    | with_reducible assumption | with_reducible apply Run.st_canon | with_reducible apply Run.base_canon | split
    | dsimp only | (refine Run.Canonical.mk ?_ ?_ <;> dsimp only)

theorem Run.both_canon {r : Run} {f : State → State} (h_r : r.Canonical) (h_f : (∀ y0, y0.Canonical → (f y0).Canonical)) :
    (Run.both r f).Canonical := by
  unfold Run.both
  repeat' first
    | with_reducible assumption | with_reducible apply h_f | with_reducible apply Run.st_canon
    | with_reducible apply Run.base_canon | dsimp only | (refine Run.Canonical.mk ?_ ?_ <;> dsimp only)

theorem Run.up_canon {r : Run} {f : State → State} (h_r : r.Canonical) (h_f : (∀ y0, y0.Canonical → (f y0).Canonical)) :
    (Run.up r f).Canonical := by
  unfold Run.up
  repeat' first
    | with_reducible assumption | with_reducible apply h_f | with_reducible apply Run.st_canon
    | with_reducible apply Run.base_canon | split | dsimp only | (refine Run.Canonical.mk ?_ ?_ <;> dsimp only)

theorem Run.flag_canon {r : Run} {m : ℕ} (h_r : r.Canonical) :
    (Run.flag r m).Canonical := by
  unfold Run.flag
  repeat' first
    | with_reducible assumption | with_reducible apply Run.st_canon | with_reducible apply Run.base_canon | split
    | dsimp only | (refine Run.Canonical.mk ?_ ?_ <;> dsimp only)

theorem Run.taint_canon {r : Run} {b : Bool} (h_r : r.Canonical) :
    (Run.taint r b).Canonical := by
  unfold Run.taint
  repeat' first
    | with_reducible assumption | with_reducible apply Run.st_canon | with_reducible apply Run.base_canon | split
    | dsimp only | (refine Run.Canonical.mk ?_ ?_ <;> dsimp only)

theorem Run.when_canon {r : Run} {b : Bool} {f : Run → Run} (h_r : r.Canonical) (h_f : (∀ y0, y0.Canonical → (f y0).Canonical)) :
    (Run.when r b f).Canonical := by
  unfold Run.when
  repeat' first
    | with_reducible assumption | with_reducible apply h_f | split

theorem Run.park_canon {r : Run} {id : ℕ} {line : ℕ} {write : Bool} {circ : Option ℕ} (h_r : r.Canonical) :
    (Run.park r id line write circ).Canonical := by
  unfold Run.park
  repeat' first
    | with_reducible assumption | with_reducible apply Run.st_canon | with_reducible apply Run.base_canon | dsimp only
    | (refine Run.Canonical.mk ?_ ?_ <;> dsimp only)

theorem Run.take_canon {r : Run} {g : Grant} (h_r : r.Canonical) :
    (Run.take r g).Canonical := by
  unfold Run.take
  repeat' first
    | with_reducible assumption | with_reducible apply Run.st_canon | with_reducible apply Run.base_canon | intro _
    | dsimp only | (refine Run.Canonical.mk ?_ ?_ <;> dsimp only)

theorem swapLine_canon {line : ℕ} {write : Bool} {s : State} (h_s : s.Canonical) :
    (swapLine line write s).Canonical := by
  unfold swapLine
  repeat' first
    | with_reducible assumption | with_reducible apply sdel_wf | with_reducible apply sins_wf | split | dsimp only
    | with_reducible apply State.Canonical.regs | with_reducible apply State.Canonical.mem
    | with_reducible apply State.Canonical.tiles | with_reducible apply State.Canonical.matPoison
    | with_reducible apply State.Canonical.towPoison | with_reducible apply State.Canonical.full
    | (refine State.Canonical.mk ?_ ?_ ?_ ?_ ?_ ?_ <;> dsimp only)

theorem recomputeLine_canon {s : State} {a : ℕ} (h_s : s.Canonical) :
    (recomputeLine s a).Canonical := by
  unfold recomputeLine
  repeat' first
    | with_reducible assumption | intro _ | split | dsimp only | with_reducible apply State.Canonical.regs
    | with_reducible apply State.Canonical.mem | with_reducible apply State.Canonical.tiles
    | with_reducible apply State.Canonical.matPoison | with_reducible apply State.Canonical.towPoison
    | with_reducible apply State.Canonical.full | (refine State.Canonical.mk ?_ ?_ ?_ ?_ ?_ ?_ <;> dsimp only)

theorem checkRead_canon {s : State} {a : ℕ} {res : Bool} (h_s : s.Canonical) :
    ((checkRead s a res).1).Canonical := by
  unfold checkRead
  repeat' first
    | with_reducible assumption | with_reducible apply noteRead_canon | with_reducible apply recomputeLine_canon
    | split

theorem grantLine_canon {s : State} {line : ℕ} {write : Bool} {res : Bool} (h_s : s.Canonical) :
    ((grantLine s line write res).1).Canonical := by
  unfold grantLine
  repeat' first
    | with_reducible assumption | with_reducible apply checkRead_canon | split

theorem Run.openLine_canon {r : Run} {id : ℕ} {line : ℕ} {write : Bool} {res : Bool} (h_r : r.Canonical) :
    (Run.openLine r id line write res).Canonical := by
  unfold Run.openLine
  repeat' first
    | with_reducible assumption | with_reducible apply Run.st_canon | with_reducible apply Run.take_canon
    | with_reducible apply Run.base_canon | with_reducible apply Run.taint_canon | with_reducible apply Run.both_canon
    | with_reducible apply grantLine_canon | with_reducible apply swapLine_canon | with_reducible apply Run.park_canon
    | intro _ | split | dsimp only | (refine Run.Canonical.mk ?_ ?_ <;> dsimp only)

theorem circMove_canon {rg : ℕ} {k : ℕ} {write : Bool} {s : State} (h_s : s.Canonical) :
    (circMove rg k write s).Canonical := by
  unfold circMove
  repeat' first
    | with_reducible assumption | with_reducible apply setF_canon

theorem Run.openCirc_canon {r : Run} {id : ℕ} {k : ℕ} {n : ℕ} {write : Bool} {res : Bool} (h_r : r.Canonical) :
    (Run.openCirc r id k n write res).Canonical := by
  unfold Run.openCirc
  repeat' first
    | with_reducible assumption | with_reducible apply Run.st_canon | with_reducible apply Run.take_canon
    | with_reducible apply Run.base_canon | with_reducible apply Run.taint_canon | with_reducible apply Run.both_canon
    | with_reducible apply grantLine_canon | with_reducible apply circMove_canon | with_reducible apply Run.park_canon
    | split | dsimp only | (refine Run.Canonical.mk ?_ ?_ <;> dsimp only)

theorem Run.window_canon {r : Run} {p : ℕ} {o : ℕ} (h_r : r.Canonical) :
    (Run.window r p o).Canonical := by
  unfold Run.window
  repeat' first
    | with_reducible assumption | with_reducible apply Run.st_canon | with_reducible apply Run.both_canon
    | with_reducible apply emit_canon | with_reducible apply bump_canon | with_reducible apply Run.base_canon
    | with_reducible apply Run.halt_canon | intro _ | split | dsimp only
    | (refine Run.Canonical.mk ?_ ?_ <;> dsimp only)

theorem Run.touchRead_canon {r : Run} {id : ℕ} {a : ℕ} {res : Bool} (h_r : r.Canonical) :
    (Run.touchRead r id a res).Canonical := by
  unfold Run.touchRead
  repeat' first
    | with_reducible assumption | with_reducible apply Run.window_canon | with_reducible apply Run.taint_canon
    | with_reducible apply checkRead_canon | with_reducible apply Run.st_canon | with_reducible apply Run.base_canon
    | with_reducible apply Run.openLine_canon | split | dsimp only | (refine Run.Canonical.mk ?_ ?_ <;> dsimp only)

theorem Run.regRead_canon {r : Run} {o : ℕ} {n : ℕ} (h_r : r.Canonical) :
    ((Run.regRead r o n).2).Canonical := by
  unfold Run.regRead
  repeat' first
    | with_reducible assumption | with_reducible apply readAs_canon | with_reducible apply Run.st_canon
    | with_reducible apply Run.base_canon | dsimp only | (refine Run.Canonical.mk ?_ ?_ <;> dsimp only)

theorem Run.rdBytes_canon {r : Run} {id : ℕ} {a : ℕ} {n : ℕ} {res : Bool} (h_r : r.Canonical) :
    ((Run.rdBytes r id a n res).2).Canonical := by
  unfold Run.rdBytes
  repeat' first
    | with_reducible assumption | with_reducible apply Run.regRead_canon | with_reducible apply Run.touchRead_canon
    | split | dsimp only

theorem Run.touchWrite_canon {r : Run} {id : ℕ} {a : ℕ} (h_r : r.Canonical) :
    (Run.touchWrite r id a).Canonical := by
  unfold Run.touchWrite
  repeat' first
    | with_reducible assumption | with_reducible apply Run.window_canon | with_reducible apply Run.openLine_canon
    | with_reducible apply Run.st_canon | with_reducible apply Run.base_canon | split | dsimp only
    | (refine Run.Canonical.mk ?_ ?_ <;> dsimp only)

theorem settleUpset_canon {s : State} {a : ℕ} {whole : ℕ → ℕ → Bool} (h_s : s.Canonical) :
    ((settleUpset s a whole).1).Canonical := by
  unfold settleUpset
  repeat' first
    | with_reducible assumption | with_reducible apply dropUpset_canon | with_reducible apply readHbm_canon | split

theorem Run.redo_canon {r : Run} (h_r : r.Canonical) : (Run.redo r).Canonical := by
  unfold Run.redo
  repeat' first
    | with_reducible assumption | with_reducible apply countNd_canon | with_reducible apply Run.st_canon
    | with_reducible apply Run.base_canon | dsimp only | (refine Run.Canonical.mk ?_ ?_ <;> dsimp only)

theorem Run.meetArrival_canon {r : Run} {key : ℕ} {count : State → State} (h_r : r.Canonical)
    (h_count : ∀ s, s.Canonical → (count s).Canonical) :
    (Run.meetArrival r key count).Canonical := by
  unfold Run.meetArrival
  repeat' first
    | with_reducible assumption | with_reducible apply Run.halt_canon | with_reducible apply Run.redo_canon
    | with_reducible apply dropUpset_canon | with_reducible apply Run.st_canon | with_reducible apply Run.base_canon
    | apply h_count | split | dsimp only | (refine Run.Canonical.mk ?_ ?_ <;> dsimp only)

theorem Run.arrives_canon {r : Run} {a : ℕ} {res : Bool} (h_r : r.Canonical) :
    (Run.arrives r a res).Canonical := by
  unfold Run.arrives
  repeat' first
    | with_reducible assumption | with_reducible apply Run.meetArrival_canon | with_reducible apply matArrival_canon
    | with_reducible apply towArrival_canon | intro _ | split

theorem Run.wrBytes_canon {r : Run} {id : ℕ} {a : ℕ} {d : List Byte} {whole : ℕ → ℕ → Bool} (h_r : r.Canonical) :
    (Run.wrBytes r id a d whole).Canonical := by
  unfold Run.wrBytes
  repeat' first
    | with_reducible assumption | with_reducible apply Run.arrives_canon | with_reducible apply writeAs_canon | with_reducible apply Run.st_canon
    | with_reducible apply Run.base_canon | with_reducible apply settleUpset_canon
    | with_reducible apply Run.touchWrite_canon | with_reducible apply putBytes_canon | split | dsimp only
    | (refine Run.Canonical.mk ?_ ?_ <;> dsimp only)

theorem Run.place_canon {r : Run} {d : Slot} {e : ℕ} {write : Bool} (h_r : r.Canonical) :
    ((Run.place r d e write).2).Canonical := by
  unfold Run.place
  repeat' first
    | with_reducible assumption | with_reducible apply Run.openCirc_canon | intro _ | split | dsimp only

theorem Run.clamp_canon {r : Run} {d : Slot} {e : ℕ} (h_r : r.Canonical) :
    (Run.clamp r d e).Canonical := by
  unfold Run.clamp
  repeat' first
    | with_reducible assumption | with_reducible apply Run.st_canon | with_reducible apply Run.base_canon
    | with_reducible apply bump_canon | split | dsimp only | (refine Run.Canonical.mk ?_ ?_ <;> dsimp only)

theorem Run.rd_canon {r : Run} {d : Slot} {e : ℕ} (h_r : r.Canonical) :
    ((Run.rd r d e).2).Canonical := by
  unfold Run.rd
  repeat' first
    | with_reducible assumption | with_reducible apply Run.taint_canon | with_reducible apply Run.clamp_canon
    | with_reducible apply Run.rdBytes_canon | with_reducible apply Run.place_canon | split

theorem Run.flushBuf_canon {r : Run} {b : SecBuf} (h_r : r.Canonical) :
    (Run.flushBuf r b).Canonical := by
  unfold Run.flushBuf
  repeat' first
    | with_reducible assumption | with_reducible apply Run.arrives_canon | with_reducible apply Run.touchWrite_canon | with_reducible apply readHbm_canon
    | with_reducible apply Run.st_canon | with_reducible apply Run.base_canon | with_reducible apply Run.wrBytes_canon
    | intro _ | split | dsimp only | (refine Run.Canonical.mk ?_ ?_ <;> dsimp only)

theorem Run.flush_canon {r : Run} {keep : SecBuf → Bool} (h_r : r.Canonical) :
    (Run.flush r keep).Canonical := by
  unfold Run.flush
  repeat' first
    | with_reducible assumption | with_reducible apply Run.st_canon | with_reducible apply foldl_keeps
    | with_reducible apply Run.flushBuf_canon | with_reducible apply Run.base_canon | intro _ | dsimp only
    | (refine Run.Canonical.mk ?_ ?_ <;> dsimp only)

theorem Run.wrRes_canon {r : Run} {id : ℕ} {a : ℕ} {w : ℕ} {v : ℕ} (h_r : r.Canonical) :
    (Run.wrRes r id a w v).Canonical := by
  unfold Run.wrRes
  repeat' first
    | with_reducible assumption | with_reducible apply Run.st_canon | with_reducible apply Run.base_canon
    | with_reducible apply Run.flush_canon | intro _ | split | dsimp only
    | (refine Run.Canonical.mk ?_ ?_ <;> dsimp only)

theorem Run.wrPlace_canon {r : Run} {d : Slot} {a : ℕ} {w : ℕ} {v : ℕ} {last : Bool} (h_r : r.Canonical) :
    (Run.wrPlace r d a w v last).Canonical := by
  unfold Run.wrPlace
  repeat' first
    | with_reducible assumption | with_reducible apply Run.wrBytes_canon | with_reducible apply Run.touchWrite_canon
    | with_reducible apply Run.wrRes_canon | intro _ | split | dsimp only

theorem Run.wr_canon {r : Run} {d : Slot} {e : ℕ} {v : ℕ} (h_r : r.Canonical) :
    (Run.wr r d e v).Canonical := by
  unfold Run.wr
  repeat' first
    | with_reducible assumption | with_reducible apply Run.wrPlace_canon | with_reducible apply Run.clamp_canon
    | with_reducible apply Run.place_canon | split

theorem logSkip_canon {s : State} {f : Frond} {x : Status} (h_s : s.Canonical) :
    (logSkip s f x).Canonical := by
  unfold logSkip
  repeat' first
    | with_reducible assumption | with_reducible apply logFrond_canon | split

theorem haltFrond_canon {s : State} {f : Frond} {x : Status} (h_s : s.Canonical) :
    (haltFrond s f x).Canonical := by
  unfold haltFrond
  repeat' first
    | with_reducible assumption | with_reducible apply stopFrond_canon | with_reducible apply logSkip_canon
    | with_reducible apply putFrond_canon

theorem Run.close_canon {r0 : Run} {f : Frond} (h_r0 : r0.Canonical) :
    (Run.close r0 f).Canonical := by
  unfold Run.close
  repeat' first
    | with_reducible assumption | with_reducible apply haltFrond_canon | with_reducible apply Run.st_canon
    | with_reducible apply Run.flush_canon | with_reducible apply putFrond_canon | with_reducible apply Run.base_canon
    | intro _ | split | dsimp only

theorem runUnit_canon {body : Run → Run} {s : State} {f : Frond} (h_body : (∀ y0, y0.Canonical → (body y0).Canonical)) (h_s : s.Canonical) :
    (runUnit body s f).Canonical := by
  unfold runUnit
  repeat' first
    | with_reducible assumption | with_reducible apply h_body | with_reducible apply Run.close_canon | dsimp only
    | (refine Run.Canonical.mk ?_ ?_ <;> dsimp only)

theorem runUnits_canon {op : ℕ} {body : Run → Run} {x : FrondRef} {x3 : ℕ} {x4 : State} (h_body : (∀ y0, y0.Canonical → (body y0).Canonical)) (h_x4 : x4.Canonical) :
    (runUnits op body x x3 x4).Canonical := by
  revert h_body h_x4
  fun_induction runUnits op body x x3 x4
  all_goals
    try rename_i ih
    intro h_body h_x4
    repeat' first
      | with_reducible assumption | with_reducible apply h_body | with_reducible apply ih
      | with_reducible apply runUnit_canon

theorem Run.each_canon {r : Run} {size : ℕ} {total : ℕ} {body : ℕ → Run → Run} (h_r : r.Canonical) (h_body : (∀ y0, (∀ y1, y1.Canonical → (body y0 y1).Canonical))) :
    (Run.each r size total body).Canonical := by
  unfold Run.each
  repeat' first
    | with_reducible assumption | with_reducible apply h_body | with_reducible apply forWhile_keeps

/-! ### Collect -/

theorem Run.await_canon {r : Run} (h_r : r.Canonical) :
    (Run.await r).Canonical := by
  unfold Run.await
  repeat' first
    | with_reducible assumption | with_reducible apply Run.st_canon | with_reducible apply Run.base_canon | split
    | dsimp only | (refine Run.Canonical.mk ?_ ?_ <;> dsimp only)

theorem Run.commit_canon {r : Run} {n : ℕ} (h_r : r.Canonical) :
    (Run.commit r n).Canonical := by
  unfold Run.commit
  repeat' first
    | with_reducible assumption | with_reducible apply Run.st_canon | split | dsimp only
    | (refine Run.Canonical.mk ?_ ?_ <;> dsimp only)

theorem Run.sendPackets_canon {r : Run} {l : List Packet} (h_r : r.Canonical) :
    (Run.sendPackets r l).Canonical := by
  unfold Run.sendPackets
  repeat' first
    | with_reducible assumption | with_reducible apply Run.halt_canon | with_reducible apply Run.up_canon
    | with_reducible apply logFrond_canon | with_reducible apply runGhosts_canon | with_reducible apply foldl_keeps
    | with_reducible apply inject_canon | intro _ | split

theorem Run.stopWith_canon {r : Run} {x : Status} {code : ℕ} (h_r : r.Canonical) :
    (Run.stopWith r x code).Canonical := by
  unfold Run.stopWith
  repeat' first
    | with_reducible assumption | with_reducible apply Run.halt_canon | with_reducible apply Run.up_canon
    | with_reducible apply logFrond_canon | intro _

theorem Run.rdMarked_canon {r : Run} {d : Slot} {e : ℕ} (h_r : r.Canonical) :
    ((Run.rdMarked r d e).2).Canonical := by
  unfold Run.rdMarked
  repeat' first
    | with_reducible assumption | with_reducible apply Run.st_canon | with_reducible apply Run.rd_canon
    | with_reducible apply Run.base_canon | dsimp only | (refine Run.Canonical.mk ?_ ?_ <;> dsimp only)

theorem Run.rdRange_canon {r : Run} {d : Slot} {lo : ℕ} {n : ℕ} (h_r : r.Canonical) :
    ((Run.rdRange r d lo n).2).Canonical := by
  unfold Run.rdRange
  repeat' first
    | with_reducible assumption | with_reducible apply forWhile_snd_keeps | with_reducible apply Run.rdMarked_canon
    | intro _ | split

theorem Run.wrRange_canon {r : Run} {d : Slot} {lo : ℕ} {l : List ℕ} (h_r : r.Canonical) :
    (Run.wrRange r d lo l).Canonical := by
  unfold Run.wrRange
  repeat' first
    | with_reducible assumption | with_reducible apply foldl_snd_keeps | with_reducible apply Run.taint_canon
    | with_reducible apply Run.wr_canon | intro _

theorem teeTo_canon {f : Frond} {src : ℕ} {l : List (ℕ × Byte)} {poison : Bool} {s : State} {t : TeeEntry} (h_s : s.Canonical) :
    (teeTo f src l poison s t).Canonical := by
  unfold teeTo
  repeat' first
    | with_reducible assumption | with_reducible apply foldl_keeps | with_reducible apply inject_canon | intro _
    | split | dsimp only | with_reducible apply State.Canonical.regs | with_reducible apply State.Canonical.mem
    | with_reducible apply State.Canonical.tiles | with_reducible apply State.Canonical.matPoison
    | with_reducible apply State.Canonical.towPoison | with_reducible apply State.Canonical.full
    | (refine State.Canonical.mk ?_ ?_ ?_ ?_ ?_ ?_ <;> dsimp only)

theorem Run.teeShard_canon {r : Run} {c : Coll} {v : List ℕ} (h_r : r.Canonical) :
    (Run.teeShard r c v).Canonical := by
  unfold Run.teeShard
  repeat' first
    | with_reducible assumption | with_reducible apply Run.up_canon | with_reducible apply foldl_keeps
    | with_reducible apply teeTo_canon | intro _

theorem teeArmUnit_canon {r : Run} (h_r : r.Canonical) :
    (teeArmUnit r).Canonical := by
  unfold teeArmUnit
  repeat' first
    | with_reducible assumption | with_reducible apply Run.up_canon | with_reducible apply Run.halt_canon | intro _
    | split | dsimp only | exact rfl | with_reducible apply State.Canonical.regs
    | with_reducible apply State.Canonical.mem | with_reducible apply State.Canonical.tiles
    | with_reducible apply State.Canonical.matPoison | with_reducible apply State.Canonical.towPoison
    | with_reducible apply State.Canonical.full | (refine State.Canonical.mk ?_ ?_ ?_ ?_ ?_ ?_ <;> dsimp only)

theorem ringLoad_canon {r : Run} (h_r : r.Canonical) :
    (ringLoad r).Canonical := by
  unfold ringLoad
  repeat' first
    | with_reducible assumption | with_reducible apply Run.st_canon | with_reducible apply Run.rdRange_canon
    | with_reducible apply Run.base_canon | split | dsimp only | (refine Run.Canonical.mk ?_ ?_ <;> dsimp only)

theorem ringSend_canon {c : Coll} {st : RingStep} {r : Run} (h_r : r.Canonical) :
    (ringSend c st r).Canonical := by
  unfold ringSend
  repeat' first
    | with_reducible assumption | with_reducible apply Run.commit_canon | with_reducible apply Run.sendPackets_canon
    | with_reducible apply Run.up_canon | with_reducible apply ghostFor_canon | intro _ | split

theorem ringFinish_canon {r : Run} {c : Coll} (h_r : r.Canonical) :
    (ringFinish r c).Canonical := by
  unfold ringFinish
  repeat' first
    | with_reducible assumption | with_reducible apply Run.wrRange_canon | split

theorem ringTake_canon {c : Coll} {st : RingStep} {r : Run} (h_r : r.Canonical) :
    (ringTake c st r).Canonical := by
  unfold ringTake
  repeat' first
    | with_reducible assumption | with_reducible apply Run.await_canon | with_reducible apply Run.stopWith_canon
    | with_reducible apply Run.up_canon | with_reducible apply dropClash_canon | with_reducible apply ringFinish_canon
    | with_reducible apply Run.flag_canon | with_reducible apply Run.st_canon | with_reducible apply Run.base_canon
    | with_reducible apply Run.teeShard_canon | split | dsimp only | with_reducible apply State.Canonical.regs
    | with_reducible apply State.Canonical.mem | with_reducible apply State.Canonical.tiles
    | with_reducible apply State.Canonical.matPoison | with_reducible apply State.Canonical.towPoison
    | with_reducible apply State.Canonical.full | (refine State.Canonical.mk ?_ ?_ ?_ ?_ ?_ ?_ <;> dsimp only)
    | (refine Run.Canonical.mk ?_ ?_ <;> dsimp only)

theorem ringUnit_canon {r : Run} (h_r : r.Canonical) :
    (ringUnit r).Canonical := by
  unfold ringUnit
  repeat' first
    | with_reducible assumption | with_reducible apply Run.halt_canon | with_reducible apply ringLoad_canon
    | with_reducible apply ringTake_canon | with_reducible apply ringSend_canon
    | with_reducible apply ringFinish_canon | with_reducible apply Run.teeShard_canon | split | dsimp only

theorem bcastUnit_canon {r : Run} (h_r : r.Canonical) :
    (bcastUnit r).Canonical := by
  unfold bcastUnit
  repeat' first
    | with_reducible assumption | with_reducible apply Run.halt_canon | with_reducible apply Run.await_canon
    | with_reducible apply Run.stopWith_canon | with_reducible apply Run.up_canon
    | with_reducible apply dropClash_canon | with_reducible apply Run.wrRange_canon
    | with_reducible apply Run.sendPackets_canon | with_reducible apply Run.st_canon
    | with_reducible apply Run.base_canon | with_reducible apply Run.taint_canon
    | with_reducible apply Run.rdRange_canon | with_reducible apply Run.commit_canon
    | with_reducible apply runGhosts_canon | with_reducible apply ghostFor_canon | intro _ | split | dsimp only
    | exact rfl | with_reducible apply State.Canonical.regs | with_reducible apply State.Canonical.mem
    | with_reducible apply State.Canonical.tiles | with_reducible apply State.Canonical.matPoison
    | with_reducible apply State.Canonical.towPoison | with_reducible apply State.Canonical.full
    | (refine State.Canonical.mk ?_ ?_ ?_ ?_ ?_ ?_ <;> dsimp only) | (refine Run.Canonical.mk ?_ ?_ <;> dsimp only)

theorem sendRts_canon {r : Run} (h_r : r.Canonical) :
    (sendRts r).Canonical := by
  unfold sendRts
  repeat' first
    | with_reducible assumption | with_reducible apply Run.commit_canon | with_reducible apply Run.sendPackets_canon
    | split

theorem sendGrant_canon {r : Run} (h_r : r.Canonical) :
    (sendGrant r).Canonical := by
  unfold sendGrant
  repeat' first
    | with_reducible assumption | with_reducible apply Run.await_canon | with_reducible apply Run.stopWith_canon
    | with_reducible apply Run.up_canon | with_reducible apply Run.commit_canon | intro _ | split | dsimp only
    | with_reducible apply State.Canonical.regs | with_reducible apply State.Canonical.mem
    | with_reducible apply State.Canonical.tiles | with_reducible apply State.Canonical.matPoison
    | with_reducible apply State.Canonical.towPoison | with_reducible apply State.Canonical.full
    | (refine State.Canonical.mk ?_ ?_ ?_ ?_ ?_ ?_ <;> dsimp only)

theorem sendPiece_canon {r : Run} (h_r : r.Canonical) :
    (sendPiece r).Canonical := by
  unfold sendPiece
  repeat' first
    | with_reducible assumption | with_reducible apply Run.commit_canon | with_reducible apply Run.sendPackets_canon
    | with_reducible apply Run.taint_canon | with_reducible apply Run.rdRange_canon | intro _ | split

theorem sendUnit_canon {r : Run} (h_r : r.Canonical) :
    (sendUnit r).Canonical := by
  unfold sendUnit
  repeat' first
    | with_reducible assumption | with_reducible apply sendPiece_canon | with_reducible apply sendGrant_canon
    | with_reducible apply sendRts_canon | with_reducible apply Run.st_canon | with_reducible apply Run.base_canon
    | split | dsimp only | (refine Run.Canonical.mk ?_ ?_ <;> dsimp only)

theorem recvMeet_canon {r : Run} (h_r : r.Canonical) :
    (recvMeet r).Canonical := by
  unfold recvMeet
  repeat' first
    | with_reducible assumption | with_reducible apply Run.await_canon | with_reducible apply Run.stopWith_canon
    | with_reducible apply Run.sendPackets_canon | with_reducible apply Run.up_canon
    | with_reducible apply Run.commit_canon | intro _ | split | dsimp only | with_reducible apply State.Canonical.regs
    | with_reducible apply State.Canonical.mem | with_reducible apply State.Canonical.tiles
    | with_reducible apply State.Canonical.matPoison | with_reducible apply State.Canonical.towPoison
    | with_reducible apply State.Canonical.full | (refine State.Canonical.mk ?_ ?_ ?_ ?_ ?_ ?_ <;> dsimp only)

theorem recvUnit_canon {r : Run} (h_r : r.Canonical) :
    (recvUnit r).Canonical := by
  unfold recvUnit
  repeat' first
    | with_reducible assumption | with_reducible apply Run.await_canon | with_reducible apply recvMeet_canon
    | with_reducible apply Run.wrRange_canon | with_reducible apply Run.taint_canon
    | with_reducible apply Run.st_canon | with_reducible apply Run.base_canon | split | dsimp only
    | with_reducible apply State.Canonical.regs | with_reducible apply State.Canonical.mem
    | with_reducible apply State.Canonical.tiles | with_reducible apply State.Canonical.matPoison
    | with_reducible apply State.Canonical.towPoison | with_reducible apply State.Canonical.full
    | (refine State.Canonical.mk ?_ ?_ ?_ ?_ ?_ ?_ <;> dsimp only) | (refine Run.Canonical.mk ?_ ?_ <;> dsimp only)

/-! ### Tiles -/

theorem setTileByte_canon {k : ℕ} {b : ℕ} {v : Byte} {s : State} (h_s : s.Canonical) :
    (setTileByte k b v s).Canonical := by
  unfold setTileByte
  repeat' first
    | with_reducible assumption | with_reducible apply mset_wf | dsimp only
    | with_reducible apply State.Canonical.regs | with_reducible apply State.Canonical.mem
    | with_reducible apply State.Canonical.tiles | with_reducible apply State.Canonical.matPoison
    | with_reducible apply State.Canonical.towPoison | with_reducible apply State.Canonical.full
    | (refine State.Canonical.mk ?_ ?_ ?_ ?_ ?_ ?_ <;> dsimp only)

theorem setTileBytes_canon {k : ℕ} {b : ℕ} {l : List Byte} {s : State} (h_s : s.Canonical) :
    (setTileBytes k b l s).Canonical := by
  unfold setTileBytes
  repeat' first
    | with_reducible assumption | with_reducible apply foldl_snd_keeps | with_reducible apply setTileByte_canon
    | intro _

theorem zeroTile_canon {k : ℕ} {s : State} (h_s : s.Canonical) :
    (zeroTile k s).Canonical := by
  unfold zeroTile
  repeat' first
    | with_reducible assumption | with_reducible apply filter_wf | intro _ | dsimp only
    | with_reducible apply State.Canonical.regs | with_reducible apply State.Canonical.mem
    | with_reducible apply State.Canonical.tiles | with_reducible apply State.Canonical.matPoison
    | with_reducible apply State.Canonical.towPoison | with_reducible apply State.Canonical.full
    | (refine State.Canonical.mk ?_ ?_ ?_ ?_ ?_ ?_ <;> dsimp only)

theorem padRow_canon {s : State} {k : ℕ} {r : ℕ} (h_s : s.Canonical) :
    (padRow s k r).Canonical := by
  unfold padRow
  repeat' first
    | with_reducible assumption | with_reducible apply forRange_keeps | with_reducible apply setTileByte_canon
    | intro _ | split

theorem padAfter_canon {s : State} {k : ℕ} {e : ℕ} (h_s : s.Canonical) :
    (padAfter s k e).Canonical := by
  unfold padAfter
  repeat' first
    | with_reducible assumption | with_reducible apply padRow_canon | split | dsimp only

theorem setTileElem_canon {s : State} {k : ℕ} {e : ℕ} {v : ℕ} (h_s : s.Canonical) :
    (setTileElem s k e v).Canonical := by
  unfold setTileElem
  repeat' first
    | with_reducible assumption | with_reducible apply padAfter_canon | with_reducible apply setTileBytes_canon
    | with_reducible apply setTileByte_canon | split

theorem Run.rdTile_canon {r : Run} {k : ℕ} {e : ℕ} (h_r : r.Canonical) :
    ((Run.rdTile r k e).2).Canonical := by
  unfold Run.rdTile
  repeat' first
    | with_reducible assumption | with_reducible apply Run.taint_canon | split

theorem Run.noteTile_canon {r : Run} {k : ℕ} (h_r : r.Canonical) :
    (Run.noteTile r k).Canonical := by
  unfold Run.noteTile
  repeat' first
    | with_reducible assumption | with_reducible apply Run.st_canon | with_reducible apply Run.base_canon | dsimp only
    | (refine Run.Canonical.mk ?_ ?_ <;> dsimp only)

theorem Run.wrTile_canon {r : Run} {k : ℕ} {e : ℕ} {v : ℕ} (h_r : r.Canonical) :
    (Run.wrTile r k e v).Canonical := by
  unfold Run.wrTile
  repeat' first
    | with_reducible assumption | with_reducible apply Run.noteTile_canon | with_reducible apply Run.up_canon
    | with_reducible apply setTileElem_canon | intro _ | split

theorem Run.skipTile_canon {r : Run} {k : ℕ} {e : ℕ} (h_r : r.Canonical) :
    (Run.skipTile r k e).Canonical := by
  unfold Run.skipTile
  repeat' first
    | with_reducible assumption | with_reducible apply Run.st_canon | with_reducible apply Run.up_canon
    | with_reducible apply padAfter_canon | with_reducible apply Run.base_canon | intro _ | split | dsimp only
    | (refine Run.Canonical.mk ?_ ?_ <;> dsimp only)

theorem Run.gate_canon {r : Run} {late : State → (ℕ → Word) → Option Status} {waits : Bool} {body : Run → Run} (h_r : r.Canonical) (h_body : (∀ y0, y0.Canonical → (body y0).Canonical)) :
    (Run.gate r late waits body).Canonical := by
  unfold Run.gate
  repeat' first
    | with_reducible assumption | with_reducible apply h_body | with_reducible apply Run.st_canon
    | with_reducible apply Run.base_canon | with_reducible apply Run.halt_canon | intro _ | split | dsimp only
    | (refine Run.Canonical.mk ?_ ?_ <;> dsimp only)

theorem shapeUnit_canon {r : Run} (h_r : r.Canonical) :
    (shapeUnit r).Canonical := by
  unfold shapeUnit
  repeat' first
    | with_reducible assumption | with_reducible apply Run.gate_canon | with_reducible apply Run.noteTile_canon
    | with_reducible apply Run.up_canon | with_reducible apply setReg_canon | with_reducible apply zeroTile_canon
    | intro _ | split

theorem Run.fromNextRow_canon {r : Run} {k : ℕ} (h_r : r.Canonical) :
    (Run.fromNextRow r k).Canonical := by
  unfold Run.fromNextRow
  repeat' first
    | with_reducible assumption | with_reducible apply Run.st_canon | with_reducible apply Run.base_canon | split
    | dsimp only | (refine Run.Canonical.mk ?_ ?_ <;> dsimp only)

theorem rowUnit_canon {elem : ℕ → ℕ → Run → Run} {r : Run} (h_elem : (∀ y0, (∀ y1, (∀ y2, y2.Canonical → (elem y0 y1 y2).Canonical)))) (h_r : r.Canonical) :
    (rowUnit elem r).Canonical := by
  unfold rowUnit
  repeat' first
    | with_reducible assumption | with_reducible apply h_elem | with_reducible apply Run.gate_canon
    | with_reducible apply forWhile_keeps | with_reducible apply Run.fromNextRow_canon | intro _

theorem loadElem_canon {k : ℕ} {e : ℕ} {r : Run} (h_r : r.Canonical) :
    (loadElem k e r).Canonical := by
  unfold loadElem
  repeat' first
    | with_reducible assumption | with_reducible apply Run.wrTile_canon | with_reducible apply Run.rd_canon

theorem storeElem_canon {k : ℕ} {e : ℕ} {r : Run} (h_r : r.Canonical) :
    (storeElem k e r).Canonical := by
  unfold storeElem
  repeat' first
    | with_reducible assumption | with_reducible apply Run.wr_canon | with_reducible apply Run.rdTile_canon

theorem Run.putImage_canon {r : Run} {e : ℕ} {l : List Byte} (h_r : r.Canonical) :
    (Run.putImage r e l).Canonical := by
  unfold Run.putImage
  repeat' first
    | with_reducible assumption | with_reducible apply foldl_snd_keeps | with_reducible apply Run.wr_canon | intro _

theorem saveUnit_canon {r : Run} (h_r : r.Canonical) :
    (saveUnit r).Canonical := by
  unfold saveUnit
  repeat' first
    | with_reducible assumption | with_reducible apply Run.gate_canon | with_reducible apply Run.putImage_canon
    | with_reducible apply Run.taint_canon | with_reducible apply Run.st_canon | with_reducible apply Run.base_canon
    | intro _ | split | dsimp only | (refine Run.Canonical.mk ?_ ?_ <;> dsimp only)

theorem Run.getImage_canon {r : Run} {e : ℕ} {n : ℕ} (h_r : r.Canonical) :
    ((Run.getImage r e n).2).Canonical := by
  unfold Run.getImage
  repeat' first
    | with_reducible assumption | with_reducible apply forWhile_snd_keeps | with_reducible apply Run.rd_canon
    | intro _

theorem restoreState_canon {v : ℕ} {b : List ℕ} {k : ℕ} {s : State} (h_s : s.Canonical) :
    (restoreState v b k s).Canonical := by
  unfold restoreState
  repeat' first
    | with_reducible assumption | with_reducible apply setReg_canon

theorem restoreFirst_canon {r : Run} (h_r : r.Canonical) :
    (restoreFirst r).Canonical := by
  unfold restoreFirst
  repeat' first
    | with_reducible assumption | with_reducible apply Run.up_canon | with_reducible apply Run.st_canon
    | with_reducible apply Run.getImage_canon | with_reducible apply Run.base_canon | with_reducible apply foldl_keeps
    | with_reducible apply restoreState_canon | with_reducible apply Run.halt_canon | intro _ | split | dsimp only
    | (refine Run.Canonical.mk ?_ ?_ <;> dsimp only)

theorem restoreUnit_canon {r : Run} (h_r : r.Canonical) :
    (restoreUnit r).Canonical := by
  unfold restoreUnit
  repeat' first
    | with_reducible assumption | with_reducible apply Run.gate_canon | with_reducible apply Run.noteTile_canon
    | with_reducible apply Run.up_canon | with_reducible apply Run.getImage_canon
    | with_reducible apply restoreState_canon | with_reducible apply setTileBytes_canon
    | with_reducible apply restoreFirst_canon | intro _ | split | dsimp only

/-! ### Operand -/

theorem Run.rdOp_canon {r : Run} {o : Opnd} {e : ℕ} (h_r : r.Canonical) :
    ((Run.rdOp r o e).2).Canonical := by
  unfold Run.rdOp
  repeat' first
    | with_reducible assumption | with_reducible apply Run.rd_canon | with_reducible apply Run.rdTile_canon | split

theorem Run.rdOps_canon {r : Run} {o : Opnd} {lo : ℕ} {n : ℕ} (h_r : r.Canonical) :
    ((Run.rdOps r o lo n).2).Canonical := by
  unfold Run.rdOps
  repeat' first
    | with_reducible assumption | with_reducible apply forWhile_snd_keeps | with_reducible apply Run.rdOp_canon
    | intro _

theorem Run.wrOp_canon {r : Run} {o : Opnd} {e : ℕ} {v : ℕ} (h_r : r.Canonical) :
    (Run.wrOp r o e v).Canonical := by
  unfold Run.wrOp
  repeat' first
    | with_reducible assumption | with_reducible apply Run.wr_canon | with_reducible apply Run.wrTile_canon | split

theorem Run.wrOps_canon {r : Run} {o : Opnd} {lo : ℕ} {l : List ℕ} (h_r : r.Canonical) :
    (Run.wrOps r o lo l).Canonical := by
  unfold Run.wrOps
  repeat' first
    | with_reducible assumption | with_reducible apply foldl_snd_keeps | with_reducible apply Run.wrOp_canon | intro _

theorem Run.skipOp_canon {r : Run} {o : Opnd} {e : ℕ} (h_r : r.Canonical) :
    (Run.skipOp r o e).Canonical := by
  unfold Run.skipOp
  repeat' first
    | with_reducible assumption | with_reducible apply Run.skipTile_canon | split

/-! ### Vec -/

theorem ewElem_canon {total : ℕ} {fmt : ℕ} {bw : ℕ} {e : ℕ} {r : Run} (h_r : r.Canonical) :
    (ewElem total fmt bw e r).Canonical := by
  unfold ewElem
  repeat' first
    | with_reducible assumption | with_reducible apply Run.up_canon | with_reducible apply Run.wrOp_canon
    | with_reducible apply Run.flag_canon | with_reducible apply Run.rdOp_canon | with_reducible apply bumpUnits_canon
    | with_reducible apply Run.skipOp_canon | with_reducible apply bump_canon | intro _ | split | dsimp only

theorem ewUnit_canon {r : Run} (h_r : r.Canonical) :
    (ewUnit r).Canonical := by
  unfold ewUnit
  repeat' first
    | with_reducible assumption | with_reducible apply Run.gate_canon | with_reducible apply Run.each_canon
    | with_reducible apply ewElem_canon | intro _

theorem lanePlaces_canon {r : Run} (h_r : r.Canonical) :
    ((lanePlaces r).2).Canonical := by
  unfold lanePlaces
  repeat' first
    | with_reducible assumption | with_reducible apply Run.up_canon | with_reducible apply Run.st_canon
    | with_reducible apply Run.rdOps_canon | with_reducible apply Run.base_canon | with_reducible apply bump_canon
    | intro _ | split | dsimp only | (refine Run.Canonical.mk ?_ ?_ <;> dsimp only)

theorem laneGroup_canon {total : ℕ} {fmt : ℕ} {e : ℕ} {r : Run} (h_r : r.Canonical) :
    (laneGroup total fmt e r).Canonical := by
  unfold laneGroup
  repeat' first
    | with_reducible assumption | with_reducible apply Run.st_canon | with_reducible apply Run.flag_canon
    | with_reducible apply Run.rdOps_canon | with_reducible apply lanePlaces_canon
    | with_reducible apply Run.base_canon | intro _ | split | dsimp only
    | (refine Run.Canonical.mk ?_ ?_ <;> dsimp only)

theorem laneElem_canon {total : ℕ} {fmt : ℕ} {e : ℕ} {r0 : Run} (h_r0 : r0.Canonical) :
    (laneElem total fmt e r0).Canonical := by
  unfold laneElem
  repeat' first
    | with_reducible assumption | with_reducible apply Run.up_canon | with_reducible apply Run.wrOp_canon
    | with_reducible apply laneGroup_canon | with_reducible apply bumpUnits_canon | intro _ | split

theorem laneUnit_canon {r : Run} (h_r : r.Canonical) :
    (laneUnit r).Canonical := by
  unfold laneUnit
  repeat' first
    | with_reducible assumption | with_reducible apply Run.gate_canon | with_reducible apply Run.each_canon
    | with_reducible apply laneElem_canon | intro _

theorem broadcastElem_canon {total : ℕ} {src : ℕ} {e : ℕ} {r : Run} (h_r : r.Canonical) :
    (broadcastElem total src e r).Canonical := by
  unfold broadcastElem
  repeat' first
    | with_reducible assumption | with_reducible apply Run.up_canon | with_reducible apply Run.wrOp_canon
    | with_reducible apply Run.rdOp_canon | with_reducible apply bumpUnits_canon | intro _

theorem broadcastUnit_canon {r : Run} (h_r : r.Canonical) :
    (broadcastUnit r).Canonical := by
  unfold broadcastUnit
  repeat' first
    | with_reducible assumption | with_reducible apply Run.gate_canon | with_reducible apply Run.each_canon
    | with_reducible apply broadcastElem_canon | intro _

theorem reduceElem_canon {total : ℕ} {fmt : ℕ} {s : ℕ} {r : Run} (h_r : r.Canonical) :
    (reduceElem total fmt s r).Canonical := by
  unfold reduceElem
  repeat' first
    | with_reducible assumption | with_reducible apply Run.up_canon | with_reducible apply Run.wrOp_canon
    | with_reducible apply Run.flag_canon | with_reducible apply Run.rdOps_canon
    | with_reducible apply bumpUnits_canon | intro _

theorem reduceUnit_canon {r : Run} (h_r : r.Canonical) :
    (reduceUnit r).Canonical := by
  unfold reduceUnit
  repeat' first
    | with_reducible assumption | with_reducible apply Run.gate_canon | with_reducible apply Run.each_canon
    | with_reducible apply reduceElem_canon | intro _

/-! ### Conv -/

theorem scaleOf_canon {f : Frond} {strict : Bool} {e : ℕ} {r : Run} (h_r : r.Canonical) :
    ((scaleOf f strict e r).2).Canonical := by
  unfold scaleOf
  repeat' first
    | with_reducible assumption | with_reducible apply Run.rd_canon | split

theorem convElem_canon {e : ℕ} {r : Run} (h_r : r.Canonical) :
    (convElem e r).Canonical := by
  unfold convElem
  repeat' first
    | with_reducible assumption | with_reducible apply Run.up_canon | with_reducible apply Run.wr_canon
    | with_reducible apply Run.flag_canon | with_reducible apply scaleOf_canon | with_reducible apply Run.rd_canon
    | with_reducible apply bumpUnits_canon | intro _ | split

theorem convUnit_canon {r : Run} (h_r : r.Canonical) :
    (convUnit r).Canonical := by
  unfold convUnit
  repeat' first
    | with_reducible assumption | with_reducible apply Run.each_canon | with_reducible apply convElem_canon

/-! ### Ctd -/

theorem Run.bytes_canon {r : Run} {id : ℕ} {a : ℕ} {n : ℕ} (h_r : r.Canonical) :
    ((Run.bytes r id a n).2).Canonical := by
  unfold Run.bytes
  repeat' first
    | with_reducible assumption | with_reducible apply forWhile_snd_keeps | with_reducible apply Run.rdBytes_canon
    | intro _

theorem Run.loadDescs_canon {r : Run} {slots : List ℕ} (h_r : r.Canonical) :
    (Run.loadDescs r slots).Canonical := by
  unfold Run.loadDescs
  repeat' first
    | with_reducible assumption | with_reducible apply Run.st_canon | with_reducible apply foldl_snd_keeps
    | with_reducible apply Run.bytes_canon | with_reducible apply Run.base_canon | intro _ | split | dsimp only
    | (refine Run.Canonical.mk ?_ ?_ <;> dsimp only)

theorem Run.cost_canon {r : Run} {fp : ℕ} {code : ℕ} (h_r : r.Canonical) :
    ((Run.cost r fp code).2).Canonical := by
  unfold Run.cost
  repeat' first
    | with_reducible assumption | with_reducible apply Run.bytes_canon | split

theorem leastBudget_canon {s : State} {l : List Ctd} (h_s : s.Canonical) :
    ((leastBudget s l).2).Canonical := by
  unfold leastBudget
  repeat' first
    | with_reducible assumption | with_reducible apply takeFree_canon | intro _ | split

theorem budgetOf_canon {s : State} {r : ℕ} {l : List Ctd} {cost : ℕ} (h_s : s.Canonical) :
    ((budgetOf s r l cost).2).Canonical := by
  unfold budgetOf
  repeat' first
    | with_reducible assumption | with_reducible apply leastBudget_canon | split

theorem Run.rdLimb_canon {r : Run} {id : ℕ} {a : ℕ} {n : ℕ} (h_r : r.Canonical) :
    ((Run.rdLimb r id a n).2).Canonical := by
  unfold Run.rdLimb
  repeat' first
    | with_reducible assumption | with_reducible apply forWhile_snd_keeps | with_reducible apply Run.rdBytes_canon
    | intro _

theorem Run.wroteRun_canon {r : Run} {a : ℕ} {n : ℕ} (h_r : r.Canonical) :
    (Run.wroteRun r a n).Canonical := by
  unfold Run.wroteRun
  repeat' first
    | with_reducible assumption | with_reducible apply Run.st_canon | with_reducible apply Run.base_canon | split
    | dsimp only | (refine Run.Canonical.mk ?_ ?_ <;> dsimp only)

theorem Run.wrLimb_canon {r : Run} {id : ℕ} {a : ℕ} {l : List ℕ} (h_r : r.Canonical) :
    (Run.wrLimb r id a l).Canonical := by
  unfold Run.wrLimb
  repeat' first
    | with_reducible assumption | with_reducible apply Run.arrives_canon | with_reducible apply Run.wroteRun_canon | with_reducible apply forWhile_keeps
    | with_reducible apply Run.wrBytes_canon | intro _

theorem Run.reduce_canon {r : Run} {q : ℕ} {cnt : ℕ} {l : List ℕ} (h_r : r.Canonical) :
    ((Run.reduce r q cnt l).2).Canonical := by
  unfold Run.reduce
  repeat' first
    | with_reducible assumption | with_reducible apply Run.up_canon | with_reducible apply Run.flag_canon
    | with_reducible apply bump_canon | intro _ | split | dsimp only

theorem Run.srcLimb_canon {r : Run} {slot : ℕ} {c : Ctd} {i : ℕ} {p : ℕ} {j : ℕ} (h_r : r.Canonical) :
    ((Run.srcLimb r slot c i p j).2).Canonical := by
  unfold Run.srcLimb
  repeat' first
    | with_reducible assumption | with_reducible apply Run.reduce_canon | with_reducible apply Run.rdLimb_canon
    | split

theorem Run.dstLimb_canon {r : Run} {slot : ℕ} {c : Ctd} {i : ℕ} {p : ℕ} {j : ℕ} {l : List ℕ} (h_r : r.Canonical) :
    (Run.dstLimb r slot c i p j l).Canonical := by
  unfold Run.dstLimb
  repeat' first
    | with_reducible assumption | with_reducible apply Run.up_canon | with_reducible apply Run.wrLimb_canon
    | with_reducible apply bump_canon | intro _

theorem Run.putDesc_canon {r : Run} {i : ℕ} {b : List Byte} (h_r : r.Canonical) :
    (Run.putDesc r i b).Canonical := by
  unfold Run.putDesc
  repeat' first
    | with_reducible assumption | with_reducible apply Run.wroteRun_canon | with_reducible apply Run.wrBytes_canon

theorem Run.last_canon {r : Run} (h_r : r.Canonical) :
    (Run.last r).Canonical := by
  unfold Run.last
  repeat' first
    | with_reducible assumption | with_reducible apply Run.st_canon | with_reducible apply Run.base_canon | dsimp only
    | (refine Run.Canonical.mk ?_ ?_ <;> dsimp only)

theorem Run.poisonedResult_canon {r : Run} {ds : List (ℕ × List Byte)} (h_r : r.Canonical) :
    (Run.poisonedResult r ds).Canonical := by
  unfold Run.poisonedResult
  repeat' first
    | with_reducible assumption | with_reducible apply Run.last_canon | with_reducible apply foldl_keeps
    | with_reducible apply Run.putDesc_canon | with_reducible apply Run.st_canon | with_reducible apply Run.base_canon
    | intro _ | dsimp only | (refine Run.Canonical.mk ?_ ?_ <;> dsimp only)

/-! ### Matrix -/

theorem Run.rdBlock_canon {r : Run} {slot : ℕ} {cols : ℕ} {rows : ℕ × ℕ} {cs : ℕ × ℕ} (h_r : r.Canonical) :
    ((Run.rdBlock r slot cols rows cs).2).Canonical := by
  unfold Run.rdBlock
  repeat' first
    | with_reducible assumption | with_reducible apply forWhile_snd_keeps | with_reducible apply Run.rdOps_canon
    | intro _

theorem countTile_canon {f : Frond} {t : ℕ} {macs : ℕ} {s : State} (h_s : s.Canonical) :
    (countTile f t macs s).Canonical := by
  unfold countTile
  repeat' first
    | with_reducible assumption | with_reducible apply bumpUnits_canon | with_reducible apply bump_canon

theorem matUnit_canon {r : Run} (h_r : r.Canonical) :
    (matUnit r).Canonical := by
  unfold matUnit
  repeat' first
    | with_reducible assumption | with_reducible apply Run.up_canon | with_reducible apply forWhile_keeps
    | with_reducible apply Run.wr_canon | with_reducible apply Run.flag_canon | with_reducible apply Run.rdBlock_canon
    | with_reducible apply Run.rdOps_canon | with_reducible apply countTile_canon | intro _ | split

/-! ### Poly -/

theorem polyBudget_canon {f : Frond} {src : List Ctd} {r : Run} (h_r : r.Canonical) :
    ((polyBudget f src r).2).Canonical := by
  unfold polyBudget
  repeat' first
    | with_reducible assumption | with_reducible apply budgetOf_canon | with_reducible apply Run.st_canon
    | with_reducible apply Run.cost_canon | with_reducible apply Run.base_canon | split | dsimp only
    | (refine Run.Canonical.mk ?_ ?_ <;> dsimp only)

theorem Run.polyLimb_canon {r : Run} {slot : ℕ} {c : Ctd} {i : ℕ} {p : ℕ} {j : ℕ} (h_r : r.Canonical) :
    ((Run.polyLimb r slot c i p j).2).Canonical := by
  unfold Run.polyLimb
  repeat' first
    | with_reducible assumption | with_reducible apply Run.srcLimb_canon | with_reducible apply Run.rdLimb_canon
    | with_reducible apply Run.flag_canon | intro _ | split | dsimp only

theorem Run.limbs_canon {r : Run} {slot : ℕ} {c : Ctd} {l : List (ℕ × ℕ × ℕ)} (h_r : r.Canonical) :
    ((Run.limbs r slot c l).2).Canonical := by
  unfold Run.limbs
  repeat' first
    | with_reducible assumption | with_reducible apply foldl_snd_keeps | with_reducible apply Run.polyLimb_canon
    | intro _

theorem Run.polyStore_canon {r : Run} {res : Ctd} {i : ℕ} {p : ℕ} {j : ℕ} {l : List ℕ} (h_r : r.Canonical) :
    (Run.polyStore r res i p j l).Canonical := by
  unfold Run.polyStore
  repeat' first
    | with_reducible assumption | with_reducible apply Run.dstLimb_canon | with_reducible apply Run.up_canon
    | with_reducible apply Run.wrLimb_canon | with_reducible apply bumpUnits_canon | intro _ | split

theorem polyPosition_canon {a : Ctd} {b : Ctd} {res : Ctd} {r0 : Run} (h_r0 : r0.Canonical) :
    (polyPosition a b res r0).Canonical := by
  unfold polyPosition
  repeat' first
    | with_reducible assumption | with_reducible apply foldl_keeps | with_reducible apply Run.polyStore_canon
    | with_reducible apply Run.limbs_canon | with_reducible apply Run.st_canon | with_reducible apply Run.base_canon
    | with_reducible apply Run.putDesc_canon | intro _ | split | dsimp only
    | (refine Run.Canonical.mk ?_ ?_ <;> dsimp only)

theorem polyStart_canon {a : Ctd} {b : Ctd} {res : Ctd} {r : Run} (h_r : r.Canonical) :
    (polyStart a b res r).Canonical := by
  unfold polyStart
  repeat' first
    | with_reducible assumption | with_reducible apply Run.halt_canon | with_reducible apply polyPosition_canon
    | with_reducible apply Run.st_canon | with_reducible apply polyBudget_canon | with_reducible apply Run.base_canon
    | with_reducible apply Run.poisonedResult_canon | intro _ | split | dsimp only
    | (refine Run.Canonical.mk ?_ ?_ <;> dsimp only)

theorem polyUnit_canon {r0 : Run} (h_r0 : r0.Canonical) :
    (polyUnit r0).Canonical := by
  unfold polyUnit
  repeat' first
    | with_reducible assumption | with_reducible apply polyPosition_canon | with_reducible apply Run.loadDescs_canon
    | with_reducible apply polyStart_canon | split | dsimp only

/-! ### Encode -/

theorem fixElem_canon {c : Ctd} {p : ℕ} {k : ℕ} {r : Run} (h_r : r.Canonical) :
    (fixElem c p k r).Canonical := by
  unfold fixElem
  repeat' first
    | with_reducible assumption | with_reducible apply Run.up_canon | with_reducible apply Run.touchWrite_canon
    | with_reducible apply Run.flag_canon | with_reducible apply Run.rd_canon | with_reducible apply Run.wrRes_canon
    | with_reducible apply bumpUnits_canon | intro _ | split

theorem fixBack_canon {c : Ctd} {k : ℕ} {r : Run} (h_r : r.Canonical) :
    (fixBack c k r).Canonical := by
  unfold fixBack
  repeat' first
    | with_reducible assumption | with_reducible apply Run.up_canon | with_reducible apply Run.wr_canon
    | with_reducible apply Run.flag_canon | with_reducible apply Run.rdBytes_canon
    | with_reducible apply bumpUnits_canon | intro _ | split

theorem fixGo_canon {c : Ctd} {r : Run} (h_r : r.Canonical) :
    (fixGo c r).Canonical := by
  unfold fixGo
  repeat' first
    | with_reducible assumption | with_reducible apply forWhile_keeps | with_reducible apply fixBack_canon
    | with_reducible apply Run.wroteRun_canon | with_reducible apply Run.flush_canon
    | with_reducible apply fixElem_canon | with_reducible apply Run.putDesc_canon | intro _ | split | dsimp only

theorem fixUnit_canon {r0 : Run} (h_r0 : r0.Canonical) :
    (fixUnit r0).Canonical := by
  unfold fixUnit
  repeat' first
    | with_reducible assumption | with_reducible apply fixGo_canon | with_reducible apply Run.loadDescs_canon
    | with_reducible apply Run.halt_canon | with_reducible apply Run.st_canon | with_reducible apply Run.base_canon
    | with_reducible apply Run.poisonedResult_canon | split | dsimp only
    | (refine Run.Canonical.mk ?_ ?_ <;> dsimp only)

/-! ### Func -/

theorem Run.rdNum_canon {r : Run} {o : Opnd} {fmt : ℕ} {strict : Bool} {e : ℕ} (h_r : r.Canonical) :
    ((Run.rdNum r o fmt strict e).2).Canonical := by
  unfold Run.rdNum
  repeat' first
    | with_reducible assumption | with_reducible apply Run.flag_canon | with_reducible apply Run.rdOp_canon

theorem Run.rdNums_canon {r : Run} {o : Opnd} {fmt : ℕ} {strict : Bool} {lo : ℕ} {n : ℕ} (h_r : r.Canonical) :
    ((Run.rdNums r o fmt strict lo n).2).Canonical := by
  unfold Run.rdNums
  repeat' first
    | with_reducible assumption | with_reducible apply forWhile_snd_keeps | with_reducible apply Run.rdNum_canon
    | intro _

theorem Run.counted_canon {r : Run} {n : ℕ} {k : ℕ} (h_r : r.Canonical) :
    (Run.counted r n k).Canonical := by
  unfold Run.counted
  repeat' first
    | with_reducible assumption | with_reducible apply Run.up_canon | with_reducible apply bumpUnits_canon | intro _

theorem funcElem_canon {fmt : ℕ} {e : ℕ} {r : Run} (h_r : r.Canonical) :
    (funcElem fmt e r).Canonical := by
  unfold funcElem
  repeat' first
    | with_reducible assumption | with_reducible apply Run.counted_canon | with_reducible apply Run.wrOp_canon
    | with_reducible apply Run.flag_canon | with_reducible apply Run.rdOp_canon
    | with_reducible apply Run.skipOp_canon | with_reducible apply Run.up_canon | with_reducible apply bump_canon
    | intro _ | split | dsimp only

theorem funcUnit_canon {r : Run} (h_r : r.Canonical) :
    (funcUnit r).Canonical := by
  unfold funcUnit
  repeat' first
    | with_reducible assumption | with_reducible apply Run.gate_canon | with_reducible apply Run.each_canon
    | with_reducible apply funcElem_canon | intro _

theorem segUnit_canon {body : ℕ → Run → Run} {r : Run} (h_body : (∀ y0, (∀ y1, y1.Canonical → (body y0 y1).Canonical))) (h_r : r.Canonical) :
    (segUnit body r).Canonical := by
  unfold segUnit
  repeat' first
    | with_reducible assumption | with_reducible apply h_body | with_reducible apply Run.gate_canon
    | with_reducible apply Run.up_canon | with_reducible apply bump_canon | intro _

theorem Run.wrNums_canon {r : Run} {o : Opnd} {fmt : ℕ} {lo : ℕ} {dr : ℕ} {a : Arith} {l : List Num} (h_r : r.Canonical) :
    (Run.wrNums r o fmt lo dr a l).Canonical := by
  unfold Run.wrNums
  repeat' first
    | with_reducible assumption | with_reducible apply foldl_snd_keeps | with_reducible apply Run.wrOp_canon
    | with_reducible apply Run.flag_canon | intro _

theorem momentsSeg_canon {s : ℕ} {r : Run} (h_r : r.Canonical) :
    (momentsSeg s r).Canonical := by
  unfold momentsSeg
  repeat' first
    | with_reducible assumption | with_reducible apply Run.counted_canon | with_reducible apply Run.wrNums_canon
    | with_reducible apply Run.flag_canon | with_reducible apply Run.rdNums_canon

theorem Run.rdScale_canon {r : Run} {i : ℕ} {strict : Bool} {none : Num} (h_r : r.Canonical) :
    ((Run.rdScale r i strict none).2).Canonical := by
  unfold Run.rdScale
  repeat' first
    | with_reducible assumption | with_reducible apply Run.flag_canon | with_reducible apply Run.rdNums_canon | split
    | dsimp only

theorem Run.wrAffine_canon {r : Run} {s : ℕ} {beta : Bool} {u : List (Flagged Num)} {g : List Num} {b : List Num} (h_r : r.Canonical) :
    (Run.wrAffine r s beta u g b).Canonical := by
  unfold Run.wrAffine
  repeat' first
    | with_reducible assumption | with_reducible apply Run.counted_canon | with_reducible apply Run.wrNums_canon
    | with_reducible apply Run.flag_canon

theorem layerSeg_canon {s : ℕ} {r : Run} (h_r : r.Canonical) :
    (layerSeg s r).Canonical := by
  unfold layerSeg
  repeat' first
    | with_reducible assumption | with_reducible apply Run.wrAffine_canon | with_reducible apply Run.rdScale_canon
    | with_reducible apply Run.flag_canon | with_reducible apply Run.rdNums_canon

theorem rmsSeg_canon {s : ℕ} {r : Run} (h_r : r.Canonical) :
    (rmsSeg s r).Canonical := by
  unfold rmsSeg
  repeat' first
    | with_reducible assumption | with_reducible apply Run.wrAffine_canon | with_reducible apply Run.rdScale_canon
    | with_reducible apply Run.flag_canon | with_reducible apply Run.rdNums_canon

theorem Run.wrState_canon {r : Run} {e : ℕ} {v : Num} (h_r : r.Canonical) :
    (Run.wrState r e v).Canonical := by
  unfold Run.wrState
  repeat' first
    | with_reducible assumption | with_reducible apply Run.wrOp_canon

theorem stepRow_canon {k : ℕ} {r : Run} (h_r : r.Canonical) :
    (stepRow k r).Canonical := by
  unfold stepRow
  repeat' first
    | with_reducible assumption | with_reducible apply Run.wrState_canon | with_reducible apply Run.wrNums_canon
    | with_reducible apply Run.flag_canon | with_reducible apply Run.counted_canon
    | with_reducible apply Run.rdNums_canon

theorem correctRow_canon {k : ℕ} {r : Run} (h_r : r.Canonical) :
    (correctRow k r).Canonical := by
  unfold correctRow
  repeat' first
    | with_reducible assumption | with_reducible apply Run.counted_canon | with_reducible apply Run.wrNums_canon
    | with_reducible apply Run.flag_canon | with_reducible apply Run.rdOps_canon
    | with_reducible apply Run.wrOps_canon | intro _ | split | dsimp only

/-! ### Streams -/

theorem copyElem_canon {f : Frond} {e : ℕ} {r : Run} (h_r : r.Canonical) :
    (copyElem f e r).Canonical := by
  unfold copyElem
  repeat' first
    | with_reducible assumption | with_reducible apply Run.wr_canon | with_reducible apply Run.rd_canon

theorem copyUnit_canon {r : Run} (h_r : r.Canonical) :
    (copyUnit r).Canonical := by
  unfold copyUnit
  repeat' first
    | with_reducible assumption | with_reducible apply Run.each_canon | with_reducible apply copyElem_canon

theorem fillUnit_canon {r : Run} (h_r : r.Canonical) :
    (fillUnit r).Canonical := by
  unfold fillUnit
  repeat' first
    | with_reducible assumption | with_reducible apply Run.each_canon | with_reducible apply Run.flag_canon
    | with_reducible apply Run.wr_canon | intro _

theorem transposeElem_canon {f : Frond} {e : ℕ} {r : Run} (h_r : r.Canonical) :
    (transposeElem f e r).Canonical := by
  unfold transposeElem
  repeat' first
    | with_reducible assumption | with_reducible apply Run.wrPlace_canon | with_reducible apply Run.clamp_canon
    | with_reducible apply Run.rd_canon

theorem transposeUnit_canon {r : Run} (h_r : r.Canonical) :
    (transposeUnit r).Canonical := by
  unfold transposeUnit
  repeat' first
    | with_reducible assumption | with_reducible apply Run.each_canon | with_reducible apply transposeElem_canon

theorem permuteElem_canon {f : Frond} {e : ℕ} {r : Run} (h_r : r.Canonical) :
    (permuteElem f e r).Canonical := by
  unfold permuteElem
  repeat' first
    | with_reducible assumption | with_reducible apply Run.wr_canon | with_reducible apply Run.rd_canon

theorem permuteUnit_canon {r : Run} (h_r : r.Canonical) :
    (permuteUnit r).Canonical := by
  unfold permuteUnit
  repeat' first
    | with_reducible assumption | with_reducible apply Run.each_canon | with_reducible apply permuteElem_canon

/-! ### Gather -/

theorem readIndex_canon {f : Frond} {n : ℕ} {r : Run} (h_r : r.Canonical) :
    ((readIndex f n r).2).Canonical := by
  unfold readIndex
  repeat' first
    | with_reducible assumption | with_reducible apply Run.rd_canon | with_reducible apply bump_canon
    | with_reducible apply Run.st_canon | with_reducible apply Run.base_canon | split | dsimp only
    | (refine Run.Canonical.mk ?_ ?_ <;> dsimp only)

theorem readWindow_canon {f : Frond} {r : Run} (h_r : r.Canonical) :
    ((readWindow f r).2).Canonical := by
  unfold readWindow
  repeat' first
    | with_reducible assumption | with_reducible apply forWhile_snd_keeps | with_reducible apply readIndex_canon
    | intro _

theorem noteSaved_canon {f : Frond} {l : List (ℕ × ℕ)} {r : Run} (h_r : r.Canonical) :
    (noteSaved f l r).Canonical := by
  unfold noteSaved
  repeat' first
    | with_reducible assumption | with_reducible apply Run.up_canon | with_reducible apply bump_canon | intro _

theorem readRow_canon {f : Frond} {slot : ℕ} {x : ℕ} {r : Run} (h_r : r.Canonical) :
    ((readRow f slot x r).2).Canonical := by
  unfold readRow
  repeat' first
    | with_reducible assumption | with_reducible apply forWhile_snd_keeps | with_reducible apply Run.rd_canon
    | intro _

theorem writeRow_canon {f : Frond} {slot : ℕ} {x : ℕ} {l : List ℕ} {r : Run} (h_r : r.Canonical) :
    (writeRow f slot x l r).Canonical := by
  unfold writeRow
  repeat' first
    | with_reducible assumption | with_reducible apply foldl_snd_keeps | with_reducible apply Run.wr_canon | intro _

theorem gatherUnit_canon {r : Run} (h_r : r.Canonical) :
    (gatherUnit r).Canonical := by
  unfold gatherUnit
  repeat' first
    | with_reducible assumption | with_reducible apply foldl_keeps | with_reducible apply writeRow_canon
    | with_reducible apply noteSaved_canon | with_reducible apply foldl_snd_keeps | with_reducible apply readRow_canon
    | with_reducible apply readWindow_canon | intro _

theorem scatterUnit_canon {r : Run} (h_r : r.Canonical) :
    (scatterUnit r).Canonical := by
  unfold scatterUnit
  repeat' first
    | with_reducible assumption | with_reducible apply foldl_keeps | with_reducible apply writeRow_canon
    | with_reducible apply readRow_canon | with_reducible apply Run.taint_canon | with_reducible apply noteSaved_canon
    | with_reducible apply readWindow_canon | intro _ | split

theorem addElem_canon {f : Frond} {n : ℕ} {x : ℕ} {m : ℕ} {p : AddBuf × Run} (h_p : ((p).2).Canonical) :
    ((addElem f n x m p).2).Canonical := by
  unfold addElem
  repeat' first
    | with_reducible assumption | with_reducible apply Run.flag_canon | with_reducible apply Run.rd_canon | intro _
    | split

theorem scatterAddUnit_canon {r : Run} (h_r : r.Canonical) :
    (scatterAddUnit r).Canonical := by
  unfold scatterAddUnit
  repeat' first
    | with_reducible assumption | with_reducible apply foldl_keeps | with_reducible apply Run.wr_canon
    | with_reducible apply foldl_snd_keeps | with_reducible apply forWhile_snd_keeps
    | with_reducible apply addElem_canon | with_reducible apply noteSaved_canon
    | with_reducible apply readWindow_canon | intro _

end Sys2Proof.Machine
end

