-- ==== Sys2Proof/Laws/CanonSchemes.lean ====
section
/-! SUPPORT. Every operation keeps the canonical form: the progress units of the key-switching, protection, service and scheme opcodes. -/

namespace Sys2Proof.Machine
open Sys2Proof

/-! ### KSwitch -/

theorem Run.dirEntry_canon {r : Run} {i : ℕ} (h_r : r.Canonical) :
    ((Run.dirEntry r i).2).Canonical := by
  unfold Run.dirEntry
  repeat' first
    | with_reducible assumption | with_reducible apply Run.bytes_canon

theorem Run.dirSearch_canon {t : ℕ} {g : ℕ} {x2 : ℕ} {x3 : ℕ} {x4 : ℕ} {x5 : Run} (h_x5 : x5.Canonical) :
    ((Run.dirSearch t g x2 x3 x4 x5).2).Canonical := by
  revert h_x5
  fun_induction Run.dirSearch t g x2 x3 x4 x5
  all_goals
    try rename_i ih
    intro h_x5
    repeat' first
      | with_reducible assumption | with_reducible apply ih | with_reducible apply Run.dirEntry_canon

theorem Run.loadKey_canon {r : Run} {w : KeyWant} (h_r : r.Canonical) :
    ((Run.loadKey r w).2).Canonical := by
  unfold Run.loadKey
  repeat' first
    | with_reducible assumption | with_reducible apply Run.st_canon | with_reducible apply Run.bytes_canon
    | with_reducible apply Run.base_canon | with_reducible apply Run.dirEntry_canon
    | with_reducible apply Run.dirSearch_canon | intro _ | split | dsimp only
    | (refine Run.Canonical.mk ?_ ?_ <;> dsimp only)

theorem Run.bindFail_canon {r : Run} {reason : ℕ} (h_r : r.Canonical) :
    (Run.bindFail r reason).Canonical := by
  unfold Run.bindFail
  repeat' first
    | with_reducible assumption | with_reducible apply Run.halt_canon | with_reducible apply Run.up_canon
    | with_reducible apply logUnit_canon | intro _

theorem Run.noteScratch_canon {r : Run} {n : ℕ} (h_r : r.Canonical) :
    (Run.noteScratch r n).Canonical := by
  unfold Run.noteScratch
  repeat' first
    | with_reducible assumption | with_reducible apply Run.st_canon | with_reducible apply Run.base_canon | split
    | dsimp only | (refine Run.Canonical.mk ?_ ?_ <;> dsimp only)

theorem Run.fillScratch_canon {r : Run} {n : ℕ} (h_r : r.Canonical) :
    (Run.fillScratch r n).Canonical := by
  unfold Run.fillScratch
  repeat' first
    | with_reducible assumption | with_reducible apply forWhile_keeps | with_reducible apply Run.wrBytes_canon
    | with_reducible apply freeBytes_canon | with_reducible apply Run.st_canon | with_reducible apply Run.base_canon
    | intro _ | dsimp only | (refine Run.Canonical.mk ?_ ?_ <;> dsimp only)

theorem Run.kCost_canon {r : Run} {h : List ℕ} {a : Ctd} (h_r : r.Canonical) :
    ((Run.kCost r h a).2).Canonical := by
  unfold Run.kCost
  repeat' first
    | with_reducible assumption | with_reducible apply Run.cost_canon | split

theorem Run.keyLimbs_canon {r : Run} {h : KsHeader} {e : KsEntry} {a : Ctd} {p : ℕ} {j : ℕ} (h_r : r.Canonical) :
    ((Run.keyLimbs r h e a p j).2).Canonical := by
  unfold Run.keyLimbs
  repeat' first
    | with_reducible assumption | with_reducible apply Run.up_canon | with_reducible apply Run.rdLimb_canon
    | with_reducible apply Run.flag_canon | with_reducible apply bump_canon | intro _ | split

theorem Run.innerAt_canon {r : Run} {h : KsHeader} {e : KsEntry} {a : Ctd} {p : ℕ} {ds : List (List ℕ)} (h_r : r.Canonical) :
    ((Run.innerAt r h e a p ds).2).Canonical := by
  unfold Run.innerAt
  repeat' first
    | with_reducible assumption | with_reducible apply Run.up_canon | with_reducible apply forWhile_snd_keeps
    | with_reducible apply Run.keyLimbs_canon | with_reducible apply bump_canon | intro _

theorem Run.switchDigits_canon {r : Run} {h : KsHeader} {e : KsEntry} {a : Ctd} {digits : List (List (List ℕ))} (h_r : r.Canonical) :
    ((Run.switchDigits r h e a digits).2).Canonical := by
  unfold Run.switchDigits
  repeat' first
    | with_reducible assumption | with_reducible apply foldl_snd_keeps | with_reducible apply Run.innerAt_canon
    | intro _

theorem countConv_canon {f : Frond} {n : ℕ} {limbs : List ℕ} {s : State} (h_s : s.Canonical) :
    (countConv f n limbs s).Canonical := by
  unfold countConv
  repeat' first
    | with_reducible assumption | with_reducible apply foldl_snd_keeps | with_reducible apply bumpUnits_canon
    | intro _ | split

theorem Run.polyAll_canon {r : Run} {a : Ctd} {i : ℕ} (h_r : r.Canonical) :
    ((Run.polyAll r a i).2).Canonical := by
  unfold Run.polyAll
  repeat' first
    | with_reducible assumption | with_reducible apply foldl_snd_keeps | with_reducible apply Run.srcLimb_canon
    | intro _

theorem Run.digitsIn_canon {r : Run} {h : KsHeader} {a : Ctd} {b : Ctd} (h_r : r.Canonical) :
    ((Run.digitsIn r h a b).2).Canonical := by
  unfold Run.digitsIn
  repeat' first
    | with_reducible assumption | with_reducible apply foldl_snd_keeps | with_reducible apply Run.rdLimb_canon
    | with_reducible apply Run.flag_canon | intro _ | split | dsimp only

theorem Run.putPair_canon {r : Run} {res : Ctd} {x : List (List ℕ)} {y : List (List ℕ)} (h_r : r.Canonical) :
    (Run.putPair r res x y).Canonical := by
  unfold Run.putPair
  repeat' first
    | with_reducible assumption | with_reducible apply foldl_keeps | with_reducible apply Run.dstLimb_canon | intro _

theorem kWhole_canon {h : KsHeader} {e : KsEntry} {a : Ctd} {b : Ctd} {res : Ctd} {r : Run} (h_r : r.Canonical) :
    (kWhole h e a b res r).Canonical := by
  unfold kWhole
  repeat' first
    | with_reducible assumption | with_reducible apply Run.up_canon | with_reducible apply Run.putPair_canon
    | with_reducible apply Run.switchDigits_canon | with_reducible apply Run.polyAll_canon
    | with_reducible apply Run.digitsIn_canon | with_reducible apply countConv_canon | with_reducible apply bump_canon
    | intro _ | split

theorem kDigit_canon {h : KsHeader} {a : Ctd} {res : Ctd} {r : Run} (h_r : r.Canonical) :
    (kDigit h a res r).Canonical := by
  unfold kDigit
  repeat' first
    | with_reducible assumption | with_reducible apply Run.up_canon | with_reducible apply foldl_keeps
    | with_reducible apply Run.wrLimb_canon | with_reducible apply bump_canon | with_reducible apply Run.st_canon
    | with_reducible apply Run.polyAll_canon | with_reducible apply Run.base_canon
    | with_reducible apply countConv_canon | intro _ | split | dsimp only
    | (refine Run.Canonical.mk ?_ ?_ <;> dsimp only)

theorem kPosition_canon {a : Ctd} {res : Ctd} {r : Run} (h_r : r.Canonical) :
    (kPosition a res r).Canonical := by
  unfold kPosition
  repeat' first
    | with_reducible assumption | with_reducible apply Run.up_canon | with_reducible apply foldl_keeps
    | with_reducible apply Run.dstLimb_canon | with_reducible apply Run.limbs_canon | with_reducible apply bump_canon
    | intro _

theorem kGo_canon {h : KsHeader} {e : KsEntry} {a : Ctd} {b : Ctd} {res : Ctd} {r : Run} (h_r : r.Canonical) :
    (kGo h e a b res r).Canonical := by
  unfold kGo
  repeat' first
    | with_reducible assumption | with_reducible apply Run.fillScratch_canon | with_reducible apply kWhole_canon
    | with_reducible apply kDigit_canon | with_reducible apply kPosition_canon
    | with_reducible apply Run.putDesc_canon | split | dsimp only

theorem kStart_canon {h : KsHeader} {e : Option KsEntry} {a : Ctd} {b : Ctd} {res : Ctd} {r0 : Run} (h_r0 : r0.Canonical) :
    (kStart h e a b res r0).Canonical := by
  unfold kStart
  repeat' first
    | with_reducible assumption | with_reducible apply Run.halt_canon | with_reducible apply Run.noteScratch_canon
    | with_reducible apply kGo_canon | with_reducible apply budgetOf_canon | with_reducible apply Run.st_canon
    | with_reducible apply Run.kCost_canon | with_reducible apply Run.base_canon
    | with_reducible apply Run.poisonedResult_canon | with_reducible apply Run.bindFail_canon | intro _ | split
    | dsimp only | (refine Run.Canonical.mk ?_ ?_ <;> dsimp only)

theorem kUnit_canon {r0 : Run} (h_r0 : r0.Canonical) :
    (kUnit r0).Canonical := by
  unfold kUnit
  repeat' first
    | with_reducible assumption | with_reducible apply kGo_canon | with_reducible apply Run.loadKey_canon
    | with_reducible apply kStart_canon | with_reducible apply Run.loadDescs_canon | split | dsimp only

/-! ### Protect -/

theorem landAll_canon {x : FrondRef} {x1 : ℕ} {x2 : State} (h_x2 : x2.Canonical) :
    (landAll x x1 x2).Canonical := by
  revert h_x2
  fun_induction landAll x x1 x2
  all_goals
    try rename_i ih
    intro h_x2
    repeat' first
      | with_reducible assumption | with_reducible apply ih | with_reducible apply inject_canon
      | with_reducible apply landBytes_canon | intro _ | split | dsimp only | dsimp +zetaDelta only
      | with_reducible apply State.Canonical.regs | with_reducible apply State.Canonical.mem
      | with_reducible apply State.Canonical.tiles | with_reducible apply State.Canonical.matPoison
      | with_reducible apply State.Canonical.towPoison | with_reducible apply State.Canonical.full
      | (refine State.Canonical.mk ?_ ?_ ?_ ?_ ?_ ?_ <;> dsimp only)

theorem landUnit_canon {r : Run} (h_r : r.Canonical) :
    (landUnit r).Canonical := by
  unfold landUnit
  repeat' first
    | with_reducible assumption | with_reducible apply Run.st_canon | with_reducible apply Run.base_canon
    | with_reducible apply Run.wroteRun_canon | split | dsimp only | (refine Run.Canonical.mk ?_ ?_ <;> dsimp only)

theorem teeApply_canon {x : FrondRef} {s : State} (h_s : s.Canonical) :
    (teeApply x s).Canonical := by
  unfold teeApply
  repeat' first
    | with_reducible assumption | with_reducible apply landAll_canon | with_reducible apply runGhosts_canon
    | with_reducible apply runUnit_canon | with_reducible apply landUnit_canon | with_reducible apply putFrond_canon
    | split | dsimp only

theorem Run.copySector_canon {r : Run} {src : ℕ} {dst : ℕ} (h_r : r.Canonical) :
    (Run.copySector r src dst).Canonical := by
  unfold Run.copySector
  repeat' first
    | with_reducible assumption | with_reducible apply Run.taint_canon | with_reducible apply Run.wrBytes_canon
    | with_reducible apply Run.st_canon | with_reducible apply Run.rdBytes_canon | with_reducible apply Run.base_canon
    | with_reducible apply Run.up_canon | with_reducible apply poisonAt_canon | intro _ | split | dsimp only
    | (refine Run.Canonical.mk ?_ ?_ <;> dsimp only)

theorem Run.copySpan_canon {r : Run} {src : ℕ} {dst : ℕ} {n : ℕ} (h_r : r.Canonical) :
    (Run.copySpan r src dst n).Canonical := by
  unfold Run.copySpan
  repeat' first
    | with_reducible assumption | with_reducible apply Run.wroteRun_canon | with_reducible apply forWhile_keeps
    | with_reducible apply Run.copySector_canon | intro _

theorem Run.sendFill_canon {r : Run} {src : ℕ} {n : ℕ} {dest : ℕ} {off : ℕ} {addr : ℕ} (h_r : r.Canonical) :
    (Run.sendFill r src n dest off addr).Canonical := by
  unfold Run.sendFill
  repeat' first
    | with_reducible assumption | with_reducible apply Run.sendPackets_canon | with_reducible apply Run.st_canon
    | with_reducible apply Run.bytes_canon | with_reducible apply Run.base_canon | dsimp only
    | (refine Run.Canonical.mk ?_ ?_ <;> dsimp only)

theorem Run.awaitAcks_canon {r : Run} {dest : ℕ} {n : ℕ} (h_r : r.Canonical) :
    (Run.awaitAcks r dest n).Canonical := by
  unfold Run.awaitAcks
  repeat' first
    | with_reducible assumption | with_reducible apply Run.up_canon | with_reducible apply Run.await_canon | intro _
    | split | dsimp only | with_reducible apply State.Canonical.regs | with_reducible apply State.Canonical.mem
    | with_reducible apply State.Canonical.tiles | with_reducible apply State.Canonical.matPoison
    | with_reducible apply State.Canonical.towPoison | with_reducible apply State.Canonical.full
    | (refine State.Canonical.mk ?_ ?_ ?_ ?_ ?_ ?_ <;> dsimp only)

theorem epochUnit_canon {r : Run} (h_r : r.Canonical) :
    (epochUnit r).Canonical := by
  unfold epochUnit
  repeat' first
    | with_reducible assumption | with_reducible apply Run.awaitAcks_canon | with_reducible apply Run.commit_canon
    | with_reducible apply Run.copySpan_canon | with_reducible apply Run.sendFill_canon | split

theorem fillUnitOut_canon {r : Run} (h_r : r.Canonical) :
    (fillUnitOut r).Canonical := by
  unfold fillUnitOut
  repeat' first
    | with_reducible assumption | with_reducible apply Run.awaitAcks_canon | with_reducible apply Run.commit_canon
    | with_reducible apply Run.sendFill_canon | split

theorem Run.putRecord_canon {r : Run} (h_r : r.Canonical) :
    (Run.putRecord r).Canonical := by
  unfold Run.putRecord
  repeat' first
    | with_reducible assumption | with_reducible apply foldl_keeps | with_reducible apply Run.wr_canon | intro _
    | split

theorem takeDrops_canon {s : State} {f : Frond} (h_s : s.Canonical) :
    (takeDrops s f).Canonical := by
  unfold takeDrops
  repeat' first
    | with_reducible assumption | with_reducible apply putFrond_canon | intro _ | split | dsimp only | exact rfl
    | with_reducible apply State.Canonical.regs | with_reducible apply State.Canonical.mem
    | with_reducible apply State.Canonical.tiles | with_reducible apply State.Canonical.matPoison
    | with_reducible apply State.Canonical.towPoison | with_reducible apply State.Canonical.full
    | (refine State.Canonical.mk ?_ ?_ ?_ ?_ ?_ ?_ <;> dsimp only)

theorem redoUnit_canon {s : State} {f : Frond} {g : Frond} (h_s : s.Canonical) :
    (redoUnit s f g).Canonical := by
  unfold redoUnit
  repeat' first
    | with_reducible assumption | with_reducible apply runUnit_canon | with_reducible apply ringUnit_canon
    | with_reducible apply dropFrond_canon | with_reducible apply stopFrond_canon | intro _ | split | dsimp only
    | exact rfl | with_reducible apply State.Canonical.regs | with_reducible apply State.Canonical.mem
    | with_reducible apply State.Canonical.tiles | with_reducible apply State.Canonical.matPoison
    | with_reducible apply State.Canonical.towPoison | with_reducible apply State.Canonical.full
    | (refine State.Canonical.mk ?_ ?_ ?_ ?_ ?_ ?_ <;> dsimp only)

theorem redoNext_canon {s : State} {f : Frond} {g : Frond} (h_s : s.Canonical) :
    (redoNext s f g).Canonical := by
  unfold redoNext
  repeat' first
    | with_reducible assumption | with_reducible apply clearWhole_canon | with_reducible apply bump_canon
    | with_reducible apply poisonDests_canon | with_reducible apply redoUnit_canon | split | dsimp only
    | with_reducible apply State.Canonical.regs | with_reducible apply State.Canonical.mem
    | with_reducible apply State.Canonical.tiles | with_reducible apply State.Canonical.matPoison
    | with_reducible apply State.Canonical.towPoison | with_reducible apply State.Canonical.full
    | (refine State.Canonical.mk ?_ ?_ ?_ ?_ ?_ ?_ <;> dsimp only)

theorem startRollback_canon {s : State} {f : Frond} (h_s : s.Canonical) :
    (startRollback s f).Canonical := by
  unfold startRollback
  repeat' first
    | with_reducible assumption | with_reducible apply putFrond_canon | with_reducible apply logFrond_canon
    | with_reducible apply setFailState_canon | split | dsimp only | exact rfl
    | with_reducible apply State.Canonical.regs | with_reducible apply State.Canonical.mem
    | with_reducible apply State.Canonical.tiles | with_reducible apply State.Canonical.matPoison
    | with_reducible apply State.Canonical.towPoison | with_reducible apply State.Canonical.full
    | (refine State.Canonical.mk ?_ ?_ ?_ ?_ ?_ ?_ <;> dsimp only)

theorem endRollback_canon {s : State} {f : Frond} (h_s : s.Canonical) :
    (endRollback s f).Canonical := by
  unfold endRollback
  repeat' first
    | with_reducible assumption | with_reducible apply logFrond_canon | with_reducible apply setFailState_canon
    | split

theorem commitFinish_canon {s : State} {f : Frond} (h_s : s.Canonical) :
    (commitFinish s f).Canonical := by
  unfold commitFinish
  repeat' first
    | with_reducible assumption | with_reducible apply runUnit_canon | with_reducible apply Run.putRecord_canon
    | with_reducible apply endRollback_canon | intro _ | split | dsimp only

theorem commitStep_canon {s : State} {f : Frond} (h_s : s.Canonical) :
    (commitStep s f).Canonical := by
  unfold commitStep
  repeat' first
    | with_reducible assumption | with_reducible apply barrierArrive_canon | with_reducible apply redoNext_canon
    | with_reducible apply commitFinish_canon | with_reducible apply takeDrops_canon
    | with_reducible apply startRollback_canon | split

theorem commitRun_canon {x : FrondRef} {x1 : ℕ} {x2 : State} (h_x2 : x2.Canonical) :
    (commitRun x x1 x2).Canonical := by
  revert h_x2
  fun_induction commitRun x x1 x2
  all_goals
    try rename_i ih
    intro h_x2
    repeat' first
      | with_reducible assumption | with_reducible apply ih | with_reducible apply commitStep_canon

theorem shadowCheck_canon {s : State} (h_s : s.Canonical) :
    (shadowCheck s).Canonical := by
  unfold shadowCheck
  repeat' first
    | with_reducible assumption | with_reducible apply takeDigest_canon | with_reducible apply sendReady_canon | split
    | dsimp only | with_reducible apply State.Canonical.regs | with_reducible apply State.Canonical.mem
    | with_reducible apply State.Canonical.tiles | with_reducible apply State.Canonical.matPoison
    | with_reducible apply State.Canonical.towPoison | with_reducible apply State.Canonical.full
    | (refine State.Canonical.mk ?_ ?_ ?_ ?_ ?_ ?_ <;> dsimp only)

theorem sendSpans_canon {s : State} {dest : ℕ} {tag : ℕ} {l : List (ℕ × ℕ × ℕ)} (h_s : s.Canonical) :
    (sendSpans s dest tag l).Canonical := by
  unfold sendSpans
  repeat' first
    | with_reducible assumption | with_reducible apply foldl_keeps | with_reducible apply inject_canon | intro _

theorem reseedShadows_canon {s : State} {f : Frond} (h_s : s.Canonical) :
    (reseedShadows s f).Canonical := by
  unfold reseedShadows
  repeat' first
    | with_reducible assumption | with_reducible apply logFrond_canon | with_reducible apply setFailState_canon
    | with_reducible apply sendSpans_canon | intro _ | split | dsimp only | with_reducible apply State.Canonical.regs
    | with_reducible apply State.Canonical.mem | with_reducible apply State.Canonical.tiles
    | with_reducible apply State.Canonical.matPoison | with_reducible apply State.Canonical.towPoison
    | with_reducible apply State.Canonical.full | (refine State.Canonical.mk ?_ ?_ ?_ ?_ ?_ ?_ <;> dsimp only)

theorem handOver_canon {s : State} {f : Frond} (h_s : s.Canonical) :
    (handOver s f).Canonical := by
  unfold handOver
  repeat' first
    | with_reducible assumption | with_reducible apply logFrond_canon | with_reducible apply setFailState_canon
    | with_reducible apply completeHandover_canon | with_reducible apply setReg_canon
    | with_reducible apply sendAll_canon | with_reducible apply noteSeen_canon | with_reducible apply sendSpans_canon
    | intro _ | split | dsimp only | exact rfl | with_reducible apply State.Canonical.regs
    | with_reducible apply State.Canonical.mem | with_reducible apply State.Canonical.tiles
    | with_reducible apply State.Canonical.matPoison | with_reducible apply State.Canonical.towPoison
    | with_reducible apply State.Canonical.full | (refine State.Canonical.mk ?_ ?_ ?_ ?_ ?_ ?_ <;> dsimp only)

theorem handOverDue_canon {s : State} (h_s : s.Canonical) :
    (handOverDue s).Canonical := by
  unfold handOverDue
  repeat' first
    | with_reducible assumption | with_reducible apply completeHandover_canon | split

theorem startImages_canon {s : State} {ended : ℕ} (h_s : s.Canonical) :
    (startImages s ended).Canonical := by
  unfold startImages
  repeat' first
    | with_reducible assumption | with_reducible apply forRange_keeps | with_reducible apply wrEnable_canon
    | with_reducible apply setB_canon | with_reducible apply setReg_canon | intro _ | split | dsimp only
    | with_reducible apply State.Canonical.regs | with_reducible apply State.Canonical.mem
    | with_reducible apply State.Canonical.tiles | with_reducible apply State.Canonical.matPoison
    | with_reducible apply State.Canonical.towPoison | with_reducible apply State.Canonical.full
    | (refine State.Canonical.mk ?_ ?_ ?_ ?_ ?_ ?_ <;> dsimp only)

theorem boundary_canon {f : Frond} {s : State} (h_s : s.Canonical) :
    (boundary f s).Canonical := by
  unfold boundary
  repeat' first
    | with_reducible assumption | with_reducible apply startImages_canon | with_reducible apply handOverDue_canon
    | with_reducible apply handOver_canon | with_reducible apply reseedShadows_canon
    | with_reducible apply setReg_canon | with_reducible apply shadowCheck_canon | split | dsimp only | exact rfl
    | with_reducible apply State.Canonical.regs | with_reducible apply State.Canonical.mem
    | with_reducible apply State.Canonical.tiles | with_reducible apply State.Canonical.matPoison
    | with_reducible apply State.Canonical.towPoison | with_reducible apply State.Canonical.full
    | (refine State.Canonical.mk ?_ ?_ ?_ ?_ ?_ ?_ <;> dsimp only)

theorem nextStep_canon {s : State} (h_s : s.Canonical) :
    (nextStep s).Canonical := by
  unfold nextStep
  repeat' first
    | with_reducible assumption | split | dsimp only | with_reducible apply State.Canonical.regs
    | with_reducible apply State.Canonical.mem | with_reducible apply State.Canonical.tiles
    | with_reducible apply State.Canonical.matPoison | with_reducible apply State.Canonical.towPoison
    | with_reducible apply State.Canonical.full | (refine State.Canonical.mk ?_ ?_ ?_ ?_ ?_ ?_ <;> dsimp only)

theorem boundaryUnit_canon {r : Run} (h_r : r.Canonical) :
    (boundaryUnit r).Canonical := by
  unfold boundaryUnit
  repeat' first
    | with_reducible assumption | with_reducible apply Run.up_canon | with_reducible apply Run.putRecord_canon
    | with_reducible apply boundary_canon | with_reducible apply nextStep_canon

/-! ### Service -/

theorem barrierUnit_canon {s : State} {x : FrondRef} (h_s : s.Canonical) :
    (barrierUnit s x).Canonical := by
  unfold barrierUnit
  repeat' first
    | with_reducible assumption | with_reducible apply barrierArrive_canon | split

theorem failCell_canon {f : Frond} {s : State} {c : CellSel} (h_s : s.Canonical) :
    (failCell f s c).Canonical := by
  unfold failCell
  repeat' first
    | with_reducible assumption | with_reducible apply countCellFault_canon | with_reducible apply logUnit_canon
    | split

theorem testUnit_canon {fails : List CellSel} {r : Run} (h_r : r.Canonical) :
    (testUnit fails r).Canonical := by
  unfold testUnit
  repeat' first
    | with_reducible assumption | with_reducible apply Run.halt_canon | with_reducible apply Run.up_canon
    | with_reducible apply foldl_keeps | with_reducible apply Run.wr_canon | with_reducible apply logMaint_canon
    | with_reducible apply failCell_canon | intro _ | split | dsimp only

theorem scrubUnit_canon {r : Run} (h_r : r.Canonical) :
    (scrubUnit r).Canonical := by
  unfold scrubUnit
  repeat' first
    | with_reducible assumption | with_reducible apply forRange_fst_keeps | with_reducible apply scrubSector_canon
    | with_reducible apply Run.st_canon | with_reducible apply Run.base_canon | with_reducible apply Run.up_canon
    | with_reducible apply logPass_canon | intro _ | split | dsimp only
    | (refine Run.Canonical.mk ?_ ?_ <;> dsimp only)

theorem markUnit_canon {r : Run} (h_r : r.Canonical) :
    (markUnit r).Canonical := by
  unfold markUnit
  repeat' first
    | with_reducible assumption | with_reducible apply Run.up_canon | with_reducible apply logFrondAt_canon | intro _

theorem resumeGranted_canon {s : State} {f : Frond} {g : Grant} {bad : Bool} (h_s : s.Canonical) :
    (resumeGranted s f g bad).Canonical := by
  unfold resumeGranted
  repeat' first
    | with_reducible assumption | with_reducible apply putFrond_canon

theorem grantTo_canon {s : State} {f : Frond} {p : Parked} {line : ℕ} {seq : ℕ} (h_s : s.Canonical) :
    (grantTo s f p line seq).Canonical := by
  unfold grantTo
  repeat' first
    | with_reducible assumption | with_reducible apply resumeGranted_canon | with_reducible apply grantLine_canon

theorem presentAgain_canon {s : State} {x : FrondRef} {circ : Bool} (h_s : s.Canonical) :
    (presentAgain s x circ).Canonical := by
  unfold presentAgain
  repeat' first
    | with_reducible assumption | with_reducible apply swapLine_canon | with_reducible apply grantTo_canon
    | with_reducible apply circMove_canon | split

theorem waitExpires_canon {s : State} {x : FrondRef} {circ : Bool} (h_s : s.Canonical) :
    (waitExpires s x circ).Canonical := by
  unfold waitExpires
  repeat' first
    | with_reducible assumption | with_reducible apply stopFrond_canon | with_reducible apply logUnit_canon
    | with_reducible apply advanceTo_canon | split

/-! ### Scheme -/

theorem xBudget_canon {f : Frond} {x : XIn} {r : Run} (h_r : r.Canonical) :
    ((xBudget f x r).2).Canonical := by
  unfold xBudget
  repeat' first
    | with_reducible assumption | with_reducible apply Run.cost_canon | split | dsimp only

theorem Run.lwe_canon {r : Run} {w : Lwd} {j : ℕ} (h_r : r.Canonical) :
    ((Run.lwe r w j).2).Canonical := by
  unfold Run.lwe
  repeat' first
    | with_reducible assumption | with_reducible apply Run.reduce_canon | with_reducible apply Run.rdLimb_canon

theorem Run.lwes_canon {r : Run} {w : Lwd} {lo : ℕ} {n : ℕ} (h_r : r.Canonical) :
    ((Run.lwes r w lo n).2).Canonical := by
  unfold Run.lwes
  repeat' first
    | with_reducible assumption | with_reducible apply forWhile_snd_keeps | with_reducible apply Run.lwe_canon
    | intro _

theorem Run.putLwes_canon {r : Run} {d : Lwd} {lo : ℕ} {l : List (List ℕ)} (h_r : r.Canonical) :
    (Run.putLwes r d lo l).Canonical := by
  unfold Run.putLwes
  repeat' first
    | with_reducible assumption | with_reducible apply foldl_snd_keeps | with_reducible apply Run.wrLimb_canon
    | intro _

theorem countKey_canon {f : Frond} {bytes : ℕ} {res : ℕ} {refused : ℕ} {down : ℕ} {up : ℕ} {s : State} (h_s : s.Canonical) :
    (countKey f bytes res refused down up s).Canonical := by
  unfold countKey
  repeat' first
    | with_reducible assumption | with_reducible apply bump_canon

theorem xExtract_canon {x : XIn} {d : Lwd} {r : Run} (h_r : r.Canonical) :
    (xExtract x d r).Canonical := by
  unfold xExtract
  repeat' first
    | with_reducible assumption | with_reducible apply Run.putLwes_canon | with_reducible apply Run.st_canon
    | with_reducible apply Run.limbs_canon | with_reducible apply Run.base_canon | intro _ | split | dsimp only
    | (refine Run.Canonical.mk ?_ ?_ <;> dsimp only)

theorem xSwitch_canon {x : XIn} {d : Lwd} {r : Run} (h_r : r.Canonical) :
    (xSwitch x d r).Canonical := by
  unfold xSwitch
  repeat' first
    | with_reducible assumption | with_reducible apply Run.up_canon | with_reducible apply Run.putLwes_canon
    | with_reducible apply Run.rdLimb_canon | with_reducible apply Run.lwes_canon
    | with_reducible apply Run.flag_canon | with_reducible apply countKey_canon | intro _ | split

theorem Run.keyRow_canon {r : Run} {e : KsEntry} {q : ℕ} {t : ℕ} {tag : ℕ} {n : ℕ} (h_r : r.Canonical) :
    (((Run.keyRow r e q t tag n).2).2).Canonical := by
  unfold Run.keyRow
  repeat' first
    | with_reducible assumption | with_reducible apply Run.rdLimb_canon | with_reducible apply Run.flag_canon
    | intro _ | split | dsimp only

theorem Run.keyRows_canon {r : Run} {e : KsEntry} {q : ℕ} {lo : ℕ} {k : ℕ} {tag : ℕ} {n : ℕ} (h_r : r.Canonical) :
    (((Run.keyRows r e q lo k tag n).2).2).Canonical := by
  unfold Run.keyRows
  repeat' first
    | with_reducible assumption | with_reducible apply forWhile_snd_snd_keeps | with_reducible apply Run.keyRow_canon
    | intro _

theorem xRotate_canon {x : XIn} {d : Lwd} {r : Run} (h_r : r.Canonical) :
    (xRotate x d r).Canonical := by
  unfold xRotate
  repeat' first
    | with_reducible assumption | with_reducible apply Run.up_canon | with_reducible apply Run.putLwes_canon
    | with_reducible apply forWhile_snd_snd_keeps | with_reducible apply Run.keyRows_canon
    | with_reducible apply Run.lwes_canon | with_reducible apply Run.st_canon | with_reducible apply Run.srcLimb_canon
    | with_reducible apply Run.base_canon | with_reducible apply countKey_canon | intro _ | split | dsimp only
    | (refine Run.Canonical.mk ?_ ?_ <;> dsimp only)

theorem xRepack_canon {x : XIn} {d : Ctd} {r : Run} (h_r : r.Canonical) :
    (xRepack x d r).Canonical := by
  unfold xRepack
  repeat' first
    | with_reducible assumption | with_reducible apply Run.up_canon | with_reducible apply Run.dstLimb_canon
    | with_reducible apply forWhile_snd_snd_keeps | with_reducible apply Run.keyRows_canon
    | with_reducible apply Run.lwes_canon | with_reducible apply countKey_canon | intro _

theorem Run.drawBytes_canon {r : Run} {len : ℕ} (h_r : r.Canonical) :
    ((Run.drawBytes r len).2).Canonical := by
  unfold Run.drawBytes
  repeat' first
    | with_reducible assumption | with_reducible apply drbgDraw_canon | with_reducible apply Run.st_canon
    | with_reducible apply Run.base_canon | with_reducible apply Run.halt_canon | with_reducible apply logDraw_canon
    | split | dsimp only | (refine Run.Canonical.mk ?_ ?_ <;> dsimp only)

theorem xExport_canon {x : XIn} {own : Ctd} {share : Ctd} {r : Run} (h_r : r.Canonical) :
    (xExport x own share r).Canonical := by
  unfold xExport
  repeat' first
    | with_reducible assumption | with_reducible apply foldl_keeps | with_reducible apply Run.dstLimb_canon
    | with_reducible apply Run.limbs_canon | with_reducible apply Run.drawBytes_canon | intro _

theorem xImport_canon {x : XIn} {d : Ctd} {r : Run} (h_r : r.Canonical) :
    (xImport x d r).Canonical := by
  unfold xImport
  repeat' first
    | with_reducible assumption | with_reducible apply foldl_keeps | with_reducible apply Run.dstLimb_canon
    | with_reducible apply Run.limbs_canon | intro _

theorem xGo_canon {x : XIn} {r : Run} (h_r : r.Canonical) :
    (xGo x r).Canonical := by
  unfold xGo
  repeat' first
    | with_reducible assumption | with_reducible apply Run.fillScratch_canon | with_reducible apply xImport_canon
    | with_reducible apply xExport_canon | with_reducible apply xRepack_canon | with_reducible apply xRotate_canon
    | with_reducible apply xSwitch_canon | with_reducible apply xExtract_canon | with_reducible apply foldl_keeps
    | with_reducible apply Run.putDesc_canon | intro _ | split | dsimp only

theorem xStart_canon {e : Option KsEntry} {r0 : Run} (h_r0 : r0.Canonical) :
    (xStart e r0).Canonical := by
  unfold xStart
  repeat' first
    | with_reducible assumption | with_reducible apply Run.halt_canon | with_reducible apply Run.noteScratch_canon
    | with_reducible apply xGo_canon | with_reducible apply Run.st_canon | with_reducible apply xBudget_canon
    | with_reducible apply Run.base_canon | with_reducible apply Run.poisonedResult_canon
    | with_reducible apply Run.bindFail_canon | intro _ | split | dsimp only
    | (refine Run.Canonical.mk ?_ ?_ <;> dsimp only)

theorem xUnit_canon {r0 : Run} (h_r0 : r0.Canonical) :
    (xUnit r0).Canonical := by
  unfold xUnit
  repeat' first
    | with_reducible assumption | with_reducible apply xGo_canon | with_reducible apply Run.loadDescs_canon
    | with_reducible apply xStart_canon | with_reducible apply Run.loadKey_canon | split | dsimp only

/-! ### Share -/

theorem Run.drawTo_canon {r : Run} {n : ℕ} {x2 : ℕ} (h_r : r.Canonical) :
    (Run.drawTo r n x2).Canonical := by
  induction x2 generalizing r with
  | zero => exact h_r
  | succ k ih =>
    unfold Run.drawTo
    change (if n ≤ r.fr.buf.length then r else _).Canonical
    split
    · exact h_r
    · have h1 := Run.drawBytes_canon (len := min 65536 (drawTotal r.fr - r.fr.buf.length)) h_r
      generalize r.drawBytes (min 65536 (drawTotal r.fr - r.fr.buf.length)) = v at h1 ⊢
      dsimp only
      split
      · exact ih ⟨h1.st, h1.base⟩
      · exact ⟨h1.st, h1.base⟩

theorem Run.rdShare_canon {r : Run} {q : ℕ} {i : ℕ} {e : ℕ} (h_r : r.Canonical) :
    ((Run.rdShare r q i e).2).Canonical := by
  unfold Run.rdShare
  repeat' first
    | with_reducible assumption | with_reducible apply Run.flag_canon | with_reducible apply Run.rd_canon

theorem beaverElem_canon {e : ℕ} {r : Run} (h_r : r.Canonical) :
    (beaverElem e r).Canonical := by
  unfold beaverElem
  repeat' first
    | with_reducible assumption | with_reducible apply Run.wr_canon | with_reducible apply Run.rdShare_canon | split
    | dsimp only

theorem splitElem_canon {e : ℕ} {r : Run} (h_r : r.Canonical) :
    (splitElem e r).Canonical := by
  unfold splitElem
  repeat' first
    | with_reducible assumption | with_reducible apply Run.wr_canon | with_reducible apply Run.rdShare_canon

theorem openElem_canon {e : ℕ} {r : Run} (h_r : r.Canonical) :
    (openElem e r).Canonical := by
  unfold openElem
  repeat' first
    | with_reducible assumption | with_reducible apply Run.wr_canon | with_reducible apply Run.rdShare_canon

theorem floodElem_canon {e : ℕ} {r : Run} (h_r : r.Canonical) :
    (floodElem e r).Canonical := by
  unfold floodElem
  repeat' first
    | with_reducible assumption | with_reducible apply Run.wr_canon | with_reducible apply Run.rdShare_canon

theorem randElem_canon {e : ℕ} {r : Run} (h_r : r.Canonical) :
    (randElem e r).Canonical := by
  unfold randElem
  repeat' first
    | with_reducible assumption | with_reducible apply Run.wr_canon

theorem shareUnit_canon {elem : ℕ → Run → Run} {r : Run} (h_elem : (∀ y0, (∀ y1, y1.Canonical → (elem y0 y1).Canonical))) (h_r : r.Canonical) :
    (shareUnit elem r).Canonical := by
  unfold shareUnit
  repeat' first
    | with_reducible assumption | with_reducible apply h_elem | with_reducible apply Run.each_canon
    | with_reducible apply Run.drawTo_canon | split

theorem openAnnounce_canon {r : Run} (h_r : r.Canonical) :
    (openAnnounce r).Canonical := by
  unfold openAnnounce
  repeat' first
    | with_reducible assumption | with_reducible apply Run.commit_canon | with_reducible apply Run.sendPackets_canon
    | split

theorem openMeet_canon {r : Run} (h_r : r.Canonical) :
    (openMeet r).Canonical := by
  unfold openMeet
  repeat' first
    | with_reducible assumption | with_reducible apply Run.await_canon | with_reducible apply Run.stopWith_canon
    | with_reducible apply Run.sendPackets_canon | with_reducible apply Run.up_canon
    | with_reducible apply Run.commit_canon | intro _ | split | dsimp only | with_reducible apply State.Canonical.regs
    | with_reducible apply State.Canonical.mem | with_reducible apply State.Canonical.tiles
    | with_reducible apply State.Canonical.matPoison | with_reducible apply State.Canonical.towPoison
    | with_reducible apply State.Canonical.full | (refine State.Canonical.mk ?_ ?_ ?_ ?_ ?_ ?_ <;> dsimp only)

theorem openSend_canon {r : Run} (h_r : r.Canonical) :
    (openSend r).Canonical := by
  unfold openSend
  repeat' first
    | with_reducible assumption | with_reducible apply Run.await_canon | with_reducible apply Run.commit_canon
    | with_reducible apply Run.sendPackets_canon | with_reducible apply Run.taint_canon
    | with_reducible apply Run.rdRange_canon | with_reducible apply Run.up_canon | intro _ | split | dsimp only
    | with_reducible apply State.Canonical.regs | with_reducible apply State.Canonical.mem
    | with_reducible apply State.Canonical.tiles | with_reducible apply State.Canonical.matPoison
    | with_reducible apply State.Canonical.towPoison | with_reducible apply State.Canonical.full
    | (refine State.Canonical.mk ?_ ?_ ?_ ?_ ?_ ?_ <;> dsimp only)

theorem openTake_canon {r : Run} (h_r : r.Canonical) :
    (openTake r).Canonical := by
  unfold openTake
  repeat' first
    | with_reducible assumption | with_reducible apply Run.await_canon | with_reducible apply Run.commit_canon
    | with_reducible apply Run.flush_canon | with_reducible apply Run.wrRange_canon
    | with_reducible apply Run.taint_canon | with_reducible apply Run.st_canon | with_reducible apply Run.base_canon
    | intro _ | split | dsimp only | with_reducible apply State.Canonical.regs
    | with_reducible apply State.Canonical.mem | with_reducible apply State.Canonical.tiles
    | with_reducible apply State.Canonical.matPoison | with_reducible apply State.Canonical.towPoison
    | with_reducible apply State.Canonical.full | (refine State.Canonical.mk ?_ ?_ ?_ ?_ ?_ ?_ <;> dsimp only)
    | (refine Run.Canonical.mk ?_ ?_ <;> dsimp only)

theorem openUnit_canon {r : Run} (h_r : r.Canonical) :
    (openUnit r).Canonical := by
  unfold openUnit
  repeat' first
    | with_reducible assumption | with_reducible apply shareUnit_canon | with_reducible apply openElem_canon
    | with_reducible apply openTake_canon | with_reducible apply openSend_canon | with_reducible apply openMeet_canon
    | with_reducible apply openAnnounce_canon | split | dsimp only

end Sys2Proof.Machine
end

