-- ==== Sys2Proof/Laws/CanonSequencer.lean ====
section
/-! SUPPORT. Every operation keeps the canonical form: decode, acceptance, release, start-up and the step. -/

namespace Sys2Proof.Machine
open Sys2Proof

/-! ### Queue -/

theorem noteUnmapped_canon {s : State} {f : Frond} {p : Option OpSpec} (h_s : s.Canonical) :
    (noteUnmapped s f p).Canonical := by
  unfold noteUnmapped
  repeat' first
    | with_reducible assumption | with_reducible apply logFrond_canon | split

theorem enterFrond_canon {s : State} {f0 : Frond} (h_s : s.Canonical) :
    (enterFrond s f0).Canonical := by
  unfold enterFrond
  repeat' first
    | with_reducible assumption | with_reducible apply noteUnmapped_canon | intro _ | split | dsimp only
    | with_reducible apply State.Canonical.regs | with_reducible apply State.Canonical.mem
    | with_reducible apply State.Canonical.tiles | with_reducible apply State.Canonical.matPoison
    | with_reducible apply State.Canonical.towPoison | with_reducible apply State.Canonical.full
    | (refine State.Canonical.mk ?_ ?_ ?_ ?_ ?_ ?_ <;> dsimp only)

theorem decodeOne_canon {s : State} {r : ℕ} {q : ℕ} (h_s : s.Canonical) :
    (decodeOne s r q).Canonical := by
  unfold decodeOne
  repeat' first
    | with_reducible assumption | with_reducible apply enterFrond_canon | with_reducible apply setF_canon
    | with_reducible apply noteSpan_canon | with_reducible apply fetchBad_canon | split | dsimp only
    | with_reducible apply State.Canonical.regs | with_reducible apply State.Canonical.mem
    | with_reducible apply State.Canonical.tiles | with_reducible apply State.Canonical.matPoison
    | with_reducible apply State.Canonical.towPoison | with_reducible apply State.Canonical.full
    | (refine State.Canonical.mk ?_ ?_ ?_ ?_ ?_ ?_ <;> dsimp only)

theorem decodeStep_canon {s : State} {r : ℕ} (h_s : s.Canonical) :
    (decodeStep s r).Canonical := by
  unfold decodeStep
  repeat' first
    | with_reducible assumption | with_reducible apply decodeOne_canon | with_reducible apply advanceTo_canon | split

theorem askActivity_canon {s : State} {f : Frond} (h_s : s.Canonical) :
    (askActivity s f).Canonical := by
  unfold askActivity
  repeat' first
    | with_reducible assumption | with_reducible apply requestAct_canon | intro _ | split

theorem endActivity_canon {s : State} {f : Frond} (h_s : s.Canonical) :
    (endActivity s f).Canonical := by
  unfold endActivity
  repeat' first
    | with_reducible assumption | with_reducible apply endAct_canon | with_reducible apply maintStat_canon | intro _
    | split | dsimp only | with_reducible apply State.Canonical.regs | with_reducible apply State.Canonical.mem
    | with_reducible apply State.Canonical.tiles | with_reducible apply State.Canonical.matPoison
    | with_reducible apply State.Canonical.towPoison | with_reducible apply State.Canonical.full
    | (refine State.Canonical.mk ?_ ?_ ?_ ?_ ?_ ?_ <;> dsimp only)

theorem pickFrond_canon {s : State} {r : ℕ} (h_s : s.Canonical) :
    ((pickFrond s r).2).Canonical := by
  unfold pickFrond
  repeat' first
    | with_reducible assumption | with_reducible apply foldl_snd_keeps | with_reducible apply askActivity_canon
    | intro _ | split | dsimp only

theorem nameTile_canon {s : State} {k : ℕ} {source : Bool} (h_s : s.Canonical) :
    (nameTile s k source).Canonical := by
  unfold nameTile
  repeat' first
    | with_reducible assumption | with_reducible apply forRange_keeps | with_reducible apply bump_canon | intro _
    | split | dsimp only | exact rfl | with_reducible apply State.Canonical.regs
    | with_reducible apply State.Canonical.mem | with_reducible apply State.Canonical.tiles
    | with_reducible apply State.Canonical.matPoison | with_reducible apply State.Canonical.towPoison
    | with_reducible apply State.Canonical.full | (refine State.Canonical.mk ?_ ?_ ?_ ?_ ?_ ?_ <;> dsimp only)

theorem projectShapes_canon {s : State} {f : Frond} (h_s : s.Canonical) :
    (projectShapes s f).Canonical := by
  unfold projectShapes
  repeat' first
    | with_reducible assumption | intro _ | split | dsimp only | with_reducible apply State.Canonical.regs
    | with_reducible apply State.Canonical.mem | with_reducible apply State.Canonical.tiles
    | with_reducible apply State.Canonical.matPoison | with_reducible apply State.Canonical.towPoison
    | with_reducible apply State.Canonical.full | (refine State.Canonical.mk ?_ ?_ ?_ ?_ ?_ ?_ <;> dsimp only)

theorem touchTensor_canon {s : State} {i : ℕ} (h_s : s.Canonical) :
    (touchTensor s i).Canonical := by
  unfold touchTensor
  repeat' first
    | with_reducible assumption | with_reducible apply setF_canon | with_reducible apply sendReady_canon | split
    | dsimp only | with_reducible apply State.Canonical.regs | with_reducible apply State.Canonical.mem
    | with_reducible apply State.Canonical.tiles | with_reducible apply State.Canonical.matPoison
    | with_reducible apply State.Canonical.towPoison | with_reducible apply State.Canonical.full
    | (refine State.Canonical.mk ?_ ?_ ?_ ?_ ?_ ?_ <;> dsimp only)

theorem noteTensors_canon {s : State} {l : List (ℕ × ℕ)} (h_s : s.Canonical) :
    (noteTensors s l).Canonical := by
  unfold noteTensors
  repeat' first
    | with_reducible assumption | with_reducible apply forRange_keeps | with_reducible apply touchTensor_canon
    | intro _ | split

theorem ordered_canon {s : State} {f : Frond} (h_s : s.Canonical) :
    ((ordered s f).2).Canonical := by
  unfold ordered
  repeat' first
    | with_reducible assumption | dsimp only | with_reducible apply State.Canonical.regs
    | with_reducible apply State.Canonical.mem | with_reducible apply State.Canonical.tiles
    | with_reducible apply State.Canonical.matPoison | with_reducible apply State.Canonical.towPoison
    | with_reducible apply State.Canonical.full | (refine State.Canonical.mk ?_ ?_ ?_ ?_ ?_ ?_ <;> dsimp only)

theorem discardAhead_canon {s : State} {f : Frond} (h_s : s.Canonical) :
    (discardAhead s f).Canonical := by
  unfold discardAhead
  repeat' first
    | with_reducible assumption | with_reducible apply setF_canon | split

theorem skipAt_canon {s : State} {f : Frond} {x : Status} {code : ℕ} (h_s : s.Canonical) :
    (skipAt s f x code).Canonical := by
  unfold skipAt
  repeat' first
    | with_reducible assumption | with_reducible apply putFrond_canon | with_reducible apply discardAhead_canon
    | with_reducible apply endActivity_canon | with_reducible apply logFrond_canon | with_reducible apply bump_canon
    | split

theorem refuseAt_canon {s : State} {f : Frond} {prom : ℕ} (h_s : s.Canonical) :
    (refuseAt s f prom).Canonical := by
  unfold refuseAt
  repeat' first
    | with_reducible assumption | with_reducible apply putFrond_canon | with_reducible apply discardAhead_canon
    | with_reducible apply endActivity_canon | with_reducible apply logFrond_canon

theorem admitFrond_canon {s : State} {f : Frond} {p : OpSpec} {es : List ℕ} {i : ℕ} {prom : ℕ} (h_s : s.Canonical) :
    (admitFrond s f p es i prom).Canonical := by
  unfold admitFrond
  repeat' first
    | with_reducible assumption | with_reducible apply putFrond_canon | with_reducible apply noteTensors_canon
    | with_reducible apply projectShapes_canon | with_reducible apply foldl_keeps
    | with_reducible apply nameTile_canon | intro _ | split | dsimp only | with_reducible apply State.Canonical.regs
    | with_reducible apply State.Canonical.mem | with_reducible apply State.Canonical.tiles
    | with_reducible apply State.Canonical.matPoison | with_reducible apply State.Canonical.towPoison
    | with_reducible apply State.Canonical.full | (refine State.Canonical.mk ?_ ?_ ?_ ?_ ?_ ?_ <;> dsimp only)

theorem judge_canon {s : State} {f : Frond} {p : OpSpec} (h_s : s.Canonical) :
    (judge s f p).Canonical := by
  unfold judge
  repeat' first
    | with_reducible assumption | with_reducible apply skipAt_canon | with_reducible apply admitFrond_canon
    | with_reducible apply refuseAt_canon | with_reducible apply putFrond_canon | with_reducible apply bump_canon
    | intro _ | split | dsimp only

theorem acceptOne_canon {s0 : State} {f0 : Frond} (h_s0 : s0.Canonical) :
    (acceptOne s0 f0).Canonical := by
  unfold acceptOne
  repeat' first
    | with_reducible assumption | with_reducible apply skipAt_canon | with_reducible apply consumeWaits_canon
    | with_reducible apply ordered_canon | with_reducible apply judge_canon | with_reducible apply putFrond_canon
    | with_reducible apply discardAhead_canon | with_reducible apply endActivity_canon | split | dsimp only

theorem acceptStep_canon {s : State} {r : ℕ} (h_s : s.Canonical) :
    (acceptStep s r).Canonical := by
  unfold acceptStep
  have hp := pickFrond_canon (r := r) h_s
  split
  · exact h_s
  · split <;> rename_i heq <;> rw [heq] at hp
    · exact acceptOne_canon (advanceTo_canon hp)
    · exact hp

theorem fetchElem_canon {share : ℕ} {i : ℕ} {x : FrondRef} {s : State} (h_s : s.Canonical) :
    (fetchElem share i x s).Canonical := by
  unfold fetchElem
  repeat' first
    | with_reducible assumption | with_reducible apply putFrond_canon | with_reducible apply bump_canon
    | with_reducible apply checkRead_canon | intro _ | split | dsimp only

theorem runAhead_canon {s : State} {x : FrondRef} {i : ℕ} {n : ℕ} (h_s : s.Canonical) :
    (runAhead s x i n).Canonical := by
  unfold runAhead
  repeat' first
    | with_reducible assumption | with_reducible apply forRange_keeps | with_reducible apply fetchElem_canon | intro _
    | split

theorem openBytes_canon {s : State} {a : ℕ} {n : ℕ} (h_s : s.Canonical) :
    (openBytes s a n).Canonical := by
  unfold openBytes
  repeat' first
    | with_reducible assumption | with_reducible apply forRange_keeps | with_reducible apply putByte_canon
    | with_reducible apply takeFree_canon | intro _

theorem freeOutputs_canon {s : State} {f : Frond} (h_s : s.Canonical) :
    (freeOutputs s f).Canonical := by
  unfold freeOutputs
  repeat' first
    | with_reducible assumption | with_reducible apply foldl_keeps | with_reducible apply forRange_keeps
    | with_reducible apply setTileByte_canon | with_reducible apply takeFree_canon
    | with_reducible apply openBytes_canon | intro _ | split | dsimp only

theorem releaseOn_canon {s : State} {f : Frond} (h_s : s.Canonical) :
    (releaseOn s f).Canonical := by
  unfold releaseOn
  repeat' first
    | with_reducible assumption | with_reducible apply release_canon | with_reducible apply freeOutputs_canon
    | with_reducible apply endActivity_canon

theorem frondComplete_canon {s : State} {x : FrondRef} {b : ℕ} (h_s : s.Canonical) :
    (frondComplete s x b).Canonical := by
  unfold frondComplete
  repeat' first
    | with_reducible assumption | with_reducible apply releaseOn_canon | with_reducible apply advanceTo_canon
    | with_reducible apply putFrond_canon | split | dsimp only

theorem pacedRelease_canon {s : State} {x : FrondRef} (h_s : s.Canonical) :
    (pacedRelease s x).Canonical := by
  unfold pacedRelease
  repeat' first
    | with_reducible assumption | with_reducible apply releaseOn_canon | with_reducible apply advanceTo_canon | split

theorem skippedRelease_canon {s : State} {x : FrondRef} (h_s : s.Canonical) :
    (skippedRelease s x).Canonical := by
  unfold skippedRelease
  repeat' first
    | with_reducible assumption | with_reducible apply releaseOn_canon | with_reducible apply advanceTo_canon | split

theorem barrierRelease_canon {s : State} {x : FrondRef} (h_s : s.Canonical) :
    (barrierRelease s x).Canonical := by
  unfold barrierRelease
  repeat' first
    | with_reducible assumption | with_reducible apply releaseOn_canon | with_reducible apply advanceTo_canon | split
    | dsimp only

/-! ### Start -/

theorem flushLog_canon {s : State} (h_s : s.Canonical) :
    (flushLog s).Canonical := by
  unfold flushLog
  repeat' first
    | with_reducible assumption | with_reducible apply foldl_keeps | with_reducible apply ringWrite_canon | intro _
    | split | dsimp only | exact rfl | with_reducible apply State.Canonical.regs
    | with_reducible apply State.Canonical.mem | with_reducible apply State.Canonical.tiles
    | with_reducible apply State.Canonical.matPoison | with_reducible apply State.Canonical.towPoison
    | with_reducible apply State.Canonical.full | (refine State.Canonical.mk ?_ ?_ ?_ ?_ ?_ ?_ <;> dsimp only)

theorem moduleReset_canon {s : State} (h_s : s.Canonical) :
    (moduleReset s).Canonical := by
  unfold moduleReset
  repeat' first
    | with_reducible assumption | with_reducible apply foldl_keeps | with_reducible apply setReg_canon
    | with_reducible apply filter_wf | intro _ | split | with_reducible apply And.intro | dsimp only | exact rfl
    | dsimp +zetaDelta only | with_reducible apply State.Canonical.mem
    | with_reducible apply State.Canonical.towPoison | (refine State.Canonical.mk ?_ ?_ ?_ ?_ ?_ ?_ <;> dsimp only)

theorem powerFall_canon {s : State} (h_s : s.Canonical) :
    (powerFall s).Canonical := by
  unfold powerFall
  repeat' first
    | with_reducible assumption | with_reducible apply moduleReset_canon | with_reducible apply loseLog_canon
    | intro _ | split | with_reducible apply And.intro | dsimp only | exact rfl | dsimp +zetaDelta only
    | with_reducible apply State.Canonical.regs | with_reducible apply State.Canonical.mem
    | with_reducible apply State.Canonical.towPoison | (refine State.Canonical.mk ?_ ?_ ?_ ?_ ?_ ?_ <;> dsimp only)

theorem resetFall_canon {s : State} (h_s : s.Canonical) :
    (resetFall s).Canonical := by
  unfold resetFall
  repeat' first
    | with_reducible assumption | with_reducible apply setB_canon | with_reducible apply setF_canon
    | with_reducible apply moduleReset_canon | split | dsimp only | with_reducible apply State.Canonical.regs
    | with_reducible apply State.Canonical.mem | with_reducible apply State.Canonical.tiles
    | with_reducible apply State.Canonical.matPoison | with_reducible apply State.Canonical.towPoison
    | with_reducible apply State.Canonical.full | (refine State.Canonical.mk ?_ ?_ ?_ ?_ ?_ ?_ <;> dsimp only)

theorem toStep_canon {s : State} {n : ℕ} (h_s : s.Canonical) :
    (toStep s n).Canonical := by
  unfold toStep
  repeat' first
    | with_reducible assumption | with_reducible apply logEv_canon | with_reducible apply setF_canon

theorem unlessStopped_canon {f : State → State} {s : State} (h_f : (∀ y0, y0.Canonical → (f y0).Canonical)) (h_s : s.Canonical) :
    (unlessStopped f s).Canonical := by
  unfold unlessStopped
  repeat' first
    | with_reducible assumption | with_reducible apply h_f | split

theorem refuseImage_canon {s : State} {reason : ℕ} (h_s : s.Canonical) :
    (refuseImage s reason).Canonical := by
  unfold refuseImage
  repeat' first
    | with_reducible assumption | with_reducible apply bootStop_canon | with_reducible apply logEv_canon
    | with_reducible apply setF_canon

theorem stepSignature_canon {s : State} (h_s : s.Canonical) :
    (stepSignature s).Canonical := by
  unfold stepSignature
  repeat' first
    | with_reducible assumption | with_reducible apply refuseImage_canon | with_reducible apply bootStop_canon
    | with_reducible apply logEv_canon | with_reducible apply setReg_canon | split | dsimp only
    | with_reducible apply State.Canonical.regs | with_reducible apply State.Canonical.mem
    | with_reducible apply State.Canonical.tiles | with_reducible apply State.Canonical.matPoison
    | with_reducible apply State.Canonical.towPoison | with_reducible apply State.Canonical.full
    | (refine State.Canonical.mk ?_ ?_ ?_ ?_ ?_ ?_ <;> dsimp only)

theorem identityFail_canon {s : State} {reason : ℕ} (h_s : s.Canonical) :
    (identityFail s reason).Canonical := by
  unfold identityFail
  repeat' first
    | with_reducible assumption | with_reducible apply bootStop_canon | with_reducible apply logPke_canon
    | with_reducible apply setF_canon

theorem stepIdentity_canon {s : State} (h_s : s.Canonical) :
    (stepIdentity s).Canonical := by
  unfold stepIdentity
  repeat' first
    | with_reducible assumption | with_reducible apply logPke_canon | with_reducible apply setReg_canon
    | with_reducible apply fillSlot_canon | with_reducible apply identityFail_canon | split | dsimp only

theorem applyEntry_canon {s : State} {r : RegEntry} (h_s : s.Canonical) :
    (applyEntry s r).Canonical := by
  unfold applyEntry
  repeat' first
    | with_reducible assumption | with_reducible apply logEv_canon | with_reducible apply readAs_canon
    | with_reducible apply writeAs_canon | split | dsimp only

theorem applyPhase_canon {s : State} {n : ℕ} (h_s : s.Canonical) :
    (applyPhase s n).Canonical := by
  unfold applyPhase
  repeat' first
    | with_reducible assumption | with_reducible apply foldl_keeps | with_reducible apply applyEntry_canon

theorem applyMaps_canon {s : State} (h_s : s.Canonical) :
    (applyMaps s).Canonical := by
  unfold applyMaps
  repeat' first
    | with_reducible assumption | with_reducible apply foldl_keeps | with_reducible apply setReg_canon | intro _

theorem trainTower_canon {e : StartEnv} {t : ℕ} {s : State} (h_s : s.Canonical) :
    (trainTower e t s).Canonical := by
  unfold trainTower
  repeat' first
    | with_reducible assumption | with_reducible apply setReg_canon | with_reducible apply recordMargins_canon
    | with_reducible apply setB_canon | with_reducible apply filter_wf | with_reducible apply filter_swf
    | with_reducible apply bootStop_canon | with_reducible apply logTow_canon | intro _ | split | dsimp only
    | with_reducible apply State.Canonical.regs | with_reducible apply State.Canonical.mem
    | with_reducible apply State.Canonical.tiles | with_reducible apply State.Canonical.matPoison
    | with_reducible apply State.Canonical.towPoison | with_reducible apply State.Canonical.full
    | (refine State.Canonical.mk ?_ ?_ ?_ ?_ ?_ ?_ <;> dsimp only)

theorem stepSources_canon {e : StartEnv} {s : State} (h_s : s.Canonical) :
    (stepSources e s).Canonical := by
  unfold stepSources
  repeat' first
    | with_reducible assumption | with_reducible apply seedAll_canon | with_reducible apply startTest_canon
    | with_reducible apply loadPrimes_canon | with_reducible apply setF_canon | dsimp only
    | with_reducible apply State.Canonical.regs | with_reducible apply State.Canonical.mem
    | with_reducible apply State.Canonical.tiles | with_reducible apply State.Canonical.matPoison
    | with_reducible apply State.Canonical.towPoison | with_reducible apply State.Canonical.full
    | (refine State.Canonical.mk ?_ ?_ ?_ ?_ ?_ ?_ <;> dsimp only)

theorem loadSection_canon {img : List Byte} {s : State} {e : Section} (h_s : s.Canonical) :
    (loadSection img s e).Canonical := by
  unfold loadSection
  repeat' first
    | with_reducible assumption | with_reducible apply putBytes_canon | with_reducible apply setB_canon
    | with_reducible apply setF_canon | with_reducible apply bootStop_canon | split

theorem stepLoad_canon {s : State} (h_s : s.Canonical) :
    (stepLoad s).Canonical := by
  unfold stepLoad
  repeat' first
    | with_reducible assumption | with_reducible apply foldl_keeps | with_reducible apply loadSection_canon
    | with_reducible apply applyPhase_canon

theorem stepReady_canon {s : State} (h_s : s.Canonical) :
    (stepReady s).Canonical := by
  unfold stepReady
  repeat' first
    | with_reducible assumption | with_reducible apply foldl_keeps | with_reducible apply wrEnable_canon
    | with_reducible apply raiseIrq_canon | with_reducible apply logEv_canon | with_reducible apply setB_canon
    | with_reducible apply applyPhase_canon | intro _

theorem finish_canon {s : State} (h_s : s.Canonical) :
    (finish s).Canonical := by
  unfold finish
  repeat' first
    | with_reducible assumption | with_reducible apply unlessStopped_canon | with_reducible apply stepReady_canon
    | with_reducible apply toStep_canon | with_reducible apply stepLoad_canon | intro _

theorem stepAlign_canon {s : State} (h_s : s.Canonical) :
    (stepAlign s).Canonical := by
  unfold stepAlign
  repeat' first
    | with_reducible assumption | with_reducible apply toStep_canon | with_reducible apply finish_canon
    | with_reducible apply alignOut_canon | with_reducible apply setAligned_canon | split | dsimp only

theorem afterLinks_canon {s : State} (h_s : s.Canonical) :
    (afterLinks s).Canonical := by
  unfold afterLinks
  repeat' first
    | with_reducible assumption | with_reducible apply stepAlign_canon | split

theorem afterAlign_canon {s : State} (h_s : s.Canonical) :
    (afterAlign s).Canonical := by
  unfold afterAlign
  repeat' first
    | with_reducible assumption | with_reducible apply finish_canon | split

theorem stepsFromFlash_canon {e : StartEnv} {s : State} (h_s : s.Canonical) :
    (stepsFromFlash e s).Canonical := by
  unfold stepsFromFlash
  repeat' first
    | with_reducible assumption | with_reducible apply unlessStopped_canon | with_reducible apply afterLinks_canon
    | with_reducible apply toStep_canon | with_reducible apply stepSources_canon | with_reducible apply forRange_keeps
    | with_reducible apply trainTower_canon | with_reducible apply applyMaps_canon
    | with_reducible apply applyPhase_canon | with_reducible apply stepIdentity_canon
    | with_reducible apply stepSignature_canon | with_reducible apply setF_canon | with_reducible apply bootStop_canon
    | intro _ | split

theorem releaseReset_canon {s : State} {e : StartEnv} (h_s : s.Canonical) :
    (releaseReset s e).Canonical := by
  unfold releaseReset
  repeat' first
    | with_reducible assumption | with_reducible apply setF_canon | with_reducible apply setReg_canon
    | with_reducible apply stepsFromFlash_canon | with_reducible apply setB_canon | split | dsimp only
    | with_reducible apply State.Canonical.regs | with_reducible apply State.Canonical.mem
    | with_reducible apply State.Canonical.tiles | with_reducible apply State.Canonical.matPoison
    | with_reducible apply State.Canonical.towPoison | with_reducible apply State.Canonical.full
    | (refine State.Canonical.mk ?_ ?_ ?_ ?_ ?_ ?_ <;> dsimp only)

theorem powerRise_canon {s : State} {e : StartEnv} (h_s : s.Canonical) :
    (powerRise s e).Canonical := by
  unfold powerRise
  repeat' first
    | with_reducible assumption | with_reducible apply releaseReset_canon | split | dsimp only
    | with_reducible apply State.Canonical.regs | with_reducible apply State.Canonical.mem
    | with_reducible apply State.Canonical.tiles | with_reducible apply State.Canonical.matPoison
    | with_reducible apply State.Canonical.towPoison | with_reducible apply State.Canonical.full
    | (refine State.Canonical.mk ?_ ?_ ?_ ?_ ?_ ?_ <;> dsimp only)

theorem resetRise_canon {s : State} {e : StartEnv} (h_s : s.Canonical) :
    (resetRise s e).Canonical := by
  unfold resetRise
  repeat' first
    | with_reducible assumption | with_reducible apply releaseReset_canon | split | dsimp only
    | with_reducible apply State.Canonical.regs | with_reducible apply State.Canonical.mem
    | with_reducible apply State.Canonical.tiles | with_reducible apply State.Canonical.matPoison
    | with_reducible apply State.Canonical.towPoison | with_reducible apply State.Canonical.full
    | (refine State.Canonical.mk ?_ ?_ ?_ ?_ ?_ ?_ <;> dsimp only)

theorem linkTimeout_canon {s : State} (h_s : s.Canonical) :
    (linkTimeout s).Canonical := by
  unfold linkTimeout
  repeat' first
    | with_reducible assumption | with_reducible apply stepAlign_canon | with_reducible apply advanceTo_canon | split

theorem alignTimeout_canon {s : State} (h_s : s.Canonical) :
    (alignTimeout s).Canonical := by
  unfold alignTimeout
  repeat' first
    | with_reducible assumption | with_reducible apply finish_canon | with_reducible apply advanceTo_canon | split

/-! ### Tick -/

theorem tick_canon {s : State} (h_s : s.Canonical) :
    (tick s).Canonical := by
  unfold tick
  repeat' first
    | with_reducible assumption | with_reducible apply advanceTo_canon

/-! ### Step -/

theorem State.withFetchWord_canon {s : State} {nbits : ℕ} {w : ℕ} (h_s : s.Canonical) :
    (State.withFetchWord s nbits w).Canonical := by
  unfold State.withFetchWord
  repeat' first
    | with_reducible assumption | split | dsimp only | with_reducible apply State.Canonical.regs
    | with_reducible apply State.Canonical.mem | with_reducible apply State.Canonical.tiles
    | with_reducible apply State.Canonical.matPoison | with_reducible apply State.Canonical.towPoison
    | with_reducible apply State.Canonical.full | (refine State.Canonical.mk ?_ ?_ ?_ ?_ ?_ ?_ <;> dsimp only)

end Sys2Proof.Machine
end

