-- ==== Sys2Proof/Laws/CanonExec.lean ====
section
/-! SUPPORT. Every command keeps the canonical form, one lemma for each meaning. -/

namespace Sys2Proof.Machine
open Sys2Proof

theorem execQtailWrite_canon {m : Master} {r : Fin 8} {q : Fin 4} {t : Word32} {s : State} (h_s : s.Canonical) :
    AnswerCanonical (execQtailWrite m r q t s) := by
  unfold execQtailWrite
  repeat' first
    | with_reducible assumption | with_reducible apply effect_canon | with_reducible apply gated_canon
    | with_reducible apply wrQtail_canon | with_reducible apply effect_canon | with_reducible apply ifOk_canon
    | with_reducible apply next_canon | split | intro _

theorem execCrtailWrite_canon {m : Master} {r : Fin 8} {q : Fin 4} {t : Word32} {s : State} (h_s : s.Canonical) :
    AnswerCanonical (execCrtailWrite m r q t s) := by
  unfold execCrtailWrite
  repeat' first
    | with_reducible assumption | with_reducible apply effect_canon | with_reducible apply gated_canon
    | with_reducible apply wrCrtail_canon | with_reducible apply effect_canon | with_reducible apply ifOk_canon
    | with_reducible apply next_canon | split | intro _

theorem execQueueEnableWrite_canon {m : Master} {r : Fin 8} {q : Fin 4} {en : Bool} {s : State} (h_s : s.Canonical) :
    AnswerCanonical (execQueueEnableWrite m r q en s) := by
  unfold execQueueEnableWrite
  repeat' first
    | with_reducible assumption | with_reducible apply effect_canon | with_reducible apply gated_canon
    | with_reducible apply wrEnable_canon | with_reducible apply effect_canon | with_reducible apply ifOk_canon
    | with_reducible apply next_canon | split | intro _

theorem execQueueRestart_canon {m : Master} {r : Fin 8} {q : Fin 4} {s : State} (h_s : s.Canonical) :
    AnswerCanonical (execQueueRestart m r q s) := by
  unfold execQueueRestart
  repeat' first
    | with_reducible assumption | with_reducible apply effect_canon | with_reducible apply gated_canon
    | with_reducible apply wrRestart_canon | with_reducible apply effect_canon | with_reducible apply ifOk_canon
    | with_reducible apply next_canon | split | intro _

theorem execQueueCfgWrite_canon {m : Master} {r : Fin 8} {q : Fin 4} {k : QueueCfg} {v : Word} {s : State} (h_s : s.Canonical) :
    AnswerCanonical (execQueueCfgWrite m r q k v s) := by
  unfold execQueueCfgWrite
  repeat' first
    | with_reducible assumption | with_reducible apply effect_canon | with_reducible apply gated_canon
    | with_reducible apply wrQueueCfg_canon | with_reducible apply effect_canon | with_reducible apply ifOk_canon
    | with_reducible apply next_canon | split | intro _

theorem execTokenWrite_canon {m : Master} {t : TokenRef} {v : Word} {s : State} (h_s : s.Canonical) :
    AnswerCanonical (execTokenWrite m t v s) := by
  unfold execTokenWrite
  repeat' first
    | with_reducible assumption | with_reducible apply effect_canon | with_reducible apply gated_canon
    | with_reducible apply setF_canon | with_reducible apply effect_canon | with_reducible apply ifOk_canon
    | with_reducible apply next_canon | split | intro _

theorem execAbortSingle_canon {m : Master} {r : Fin 8} {q : Fin 4} {seq : Word32} {s : State} (h_s : s.Canonical) :
    AnswerCanonical (execAbortSingle m r q seq s) := by
  unfold execAbortSingle
  repeat' first
    | with_reducible assumption | with_reducible apply effect_canon | with_reducible apply gated_canon
    | with_reducible apply wrAbort_canon | with_reducible apply effect_canon | with_reducible apply ifOk_canon
    | with_reducible apply next_canon | split | intro _

theorem execAbortThrough_canon {m : Master} {r : Fin 8} {q : Fin 4} {seq : Word32} {s : State} (h_s : s.Canonical) :
    AnswerCanonical (execAbortThrough m r q seq s) := by
  unfold execAbortThrough
  repeat' first
    | with_reducible assumption | with_reducible apply effect_canon | with_reducible apply gated_canon
    | with_reducible apply wrAbort_canon | with_reducible apply effect_canon | with_reducible apply ifOk_canon
    | with_reducible apply next_canon | split | intro _

theorem execAbortQueue_canon {m : Master} {r : Fin 8} {q : Fin 4} {seq : Word32} {s : State} (h_s : s.Canonical) :
    AnswerCanonical (execAbortQueue m r q seq s) := by
  unfold execAbortQueue
  repeat' first
    | with_reducible assumption | with_reducible apply effect_canon | with_reducible apply gated_canon
    | with_reducible apply wrAbort_canon | with_reducible apply effect_canon | with_reducible apply ifOk_canon
    | with_reducible apply next_canon | split | intro _

theorem execPreemptDrain_canon {m : Master} {r : Fin 8} {q : Fin 4} {s : State} (h_s : s.Canonical) :
    AnswerCanonical (execPreemptDrain m r q s) := by
  unfold execPreemptDrain
  repeat' first
    | with_reducible assumption | with_reducible apply effect_canon | with_reducible apply gated_canon
    | with_reducible apply wrPreempt_canon | with_reducible apply effect_canon | with_reducible apply ifOk_canon
    | with_reducible apply next_canon | split | intro _

theorem execPreemptSuspend_canon {m : Master} {r : Fin 8} {q : Fin 4} {s : State} (h_s : s.Canonical) :
    AnswerCanonical (execPreemptSuspend m r q s) := by
  unfold execPreemptSuspend
  repeat' first
    | with_reducible assumption | with_reducible apply effect_canon | with_reducible apply gated_canon
    | with_reducible apply wrPreempt_canon | with_reducible apply effect_canon | with_reducible apply ifOk_canon
    | with_reducible apply next_canon | split | intro _

theorem execPreemptResume_canon {m : Master} {r : Fin 8} {q : Fin 4} {s : State} (h_s : s.Canonical) :
    AnswerCanonical (execPreemptResume m r q s) := by
  unfold execPreemptResume
  repeat' first
    | with_reducible assumption | with_reducible apply effect_canon | with_reducible apply gated_canon
    | with_reducible apply wrResume_canon | with_reducible apply effect_canon | with_reducible apply ifOk_canon
    | with_reducible apply next_canon | split | intro _

theorem execPreemptDone_canon {r : Fin 8} {q : Fin 4} {s : State} (h_s : s.Canonical) :
    AnswerCanonical (execPreemptDone r q s) := by
  unfold execPreemptDone
  repeat' first
    | with_reducible assumption | with_reducible apply effect_canon | with_reducible apply preemptDone_canon

theorem execMatModeWrite_canon {m : Master} {r : Fin 8} {v : Word} {s : State} (h_s : s.Canonical) :
    AnswerCanonical (execMatModeWrite m r v s) := by
  unfold execMatModeWrite
  repeat' first
    | with_reducible assumption | with_reducible apply effect_canon | with_reducible apply gated_canon
    | with_reducible apply wrMatMode_canon | with_reducible apply effect_canon | with_reducible apply ifOk_canon
    | with_reducible apply next_canon | split | intro _

theorem execHoffCfgWrite_canon {m : Master} {r : Fin 8} {h : Fin 16} {v : Word} {s : State} (h_s : s.Canonical) :
    AnswerCanonical (execHoffCfgWrite m r h v s) := by
  unfold execHoffCfgWrite
  repeat' first
    | with_reducible assumption | with_reducible apply effect_canon | with_reducible apply gated_canon
    | with_reducible apply wrHoff_canon | with_reducible apply effect_canon | with_reducible apply ifOk_canon
    | with_reducible apply next_canon | split | intro _

theorem execCircCfgWrite_canon {m : Master} {r : Fin 8} {k : Fin 4} {v : Word} {s : State} (h_s : s.Canonical) :
    AnswerCanonical (execCircCfgWrite m r k v s) := by
  unfold execCircCfgWrite
  repeat' first
    | with_reducible assumption | with_reducible apply effect_canon | with_reducible apply gated_canon
    | with_reducible apply wrCirc_canon | with_reducible apply effect_canon | with_reducible apply ifOk_canon
    | with_reducible apply next_canon | split | intro _

theorem execCircPointerWrite_canon {m : Master} {r : Fin 8} {k : Fin 4} {tail : Bool} {v : Word} {s : State} (h_s : s.Canonical) :
    AnswerCanonical (execCircPointerWrite m r k tail v s) := by
  unfold execCircPointerWrite
  repeat' first
    | with_reducible assumption | with_reducible apply effect_canon | with_reducible apply gated_canon
    | with_reducible apply wrCircPtr_canon | with_reducible apply effect_canon | with_reducible apply ifOk_canon
    | with_reducible apply next_canon | split | intro _

theorem execPclassWrite_canon {m : Master} {r : Fin 8} {k : Fin 16} {v : Word} {s : State} (h_s : s.Canonical) :
    AnswerCanonical (execPclassWrite m r k v s) := by
  unfold execPclassWrite
  repeat' first
    | with_reducible assumption | with_reducible apply effect_canon | with_reducible apply gated_canon
    | with_reducible apply wrPclass_canon | with_reducible apply effect_canon | with_reducible apply ifOk_canon
    | with_reducible apply next_canon | split | intro _

theorem execChcfgWrite_canon {m : Master} {r : Fin 8} {c : Fin 32} {v : Word} {s : State} (h_s : s.Canonical) :
    AnswerCanonical (execChcfgWrite m r c v s) := by
  unfold execChcfgWrite
  repeat' first
    | with_reducible assumption | with_reducible apply effect_canon | with_reducible apply gated_canon
    | with_reducible apply wrChcfg_canon | with_reducible apply effect_canon | with_reducible apply ifOk_canon
    | with_reducible apply next_canon | split | intro _

theorem execEntropyHealthFail_canon {apt : Bool} {rerun : Bool} {s : State} (h_s : s.Canonical) :
    AnswerCanonical (execEntropyHealthFail apt rerun s) := by
  unfold execEntropyHealthFail
  repeat' first
    | with_reducible assumption | with_reducible apply effect_canon | with_reducible apply healthFail_canon

theorem execEntropyRecovered_canon {s : State} (h_s : s.Canonical) :
    AnswerCanonical (execEntropyRecovered s) := by
  unfold execEntropyRecovered
  repeat' first
    | with_reducible assumption | with_reducible apply effect_canon | with_reducible apply recovered_canon

theorem execRngRetry_canon {m : Master} {pass : Bool} {s : State} (h_s : s.Canonical) :
    AnswerCanonical (execRngRetry m pass s) := by
  unfold execRngRetry
  repeat' first
    | with_reducible assumption | with_reducible apply effect_canon | with_reducible apply gated_canon
    | with_reducible apply rngRetry_canon | with_reducible apply effect_canon | with_reducible apply ifOk_canon
    | with_reducible apply next_canon | split | intro _

theorem execDrbgReseed_canon {i : Fin 9} {s : State} (h_s : s.Canonical) :
    AnswerCanonical (execDrbgReseed i s) := by
  unfold execDrbgReseed
  repeat' first
    | with_reducible assumption | with_reducible apply effect_canon | with_reducible apply reseedDue_canon

theorem execInstantiateUnseeded_canon {s : State} (h_s : s.Canonical) :
    AnswerCanonical (execInstantiateUnseeded s) := by
  unfold execInstantiateUnseeded
  repeat' first
    | with_reducible assumption | with_reducible apply effect_canon | with_reducible apply seedAll_canon
    | with_reducible apply effect_canon | with_reducible apply ifOk_canon | with_reducible apply next_canon | split

theorem execCellReplay_canon {f : FrondRef} {u : UnitSel} {cell : Fin 8} {s : State} (h_s : s.Canonical) :
    AnswerCanonical (execCellReplay f u cell s) := by
  unfold execCellReplay
  repeat' first
    | with_reducible assumption | with_reducible apply effect_canon | with_reducible apply cellReplay_canon

theorem execCellFault_canon {f : FrondRef} {u : UnitSel} {cell : Fin 8} {s : State} (h_s : s.Canonical) :
    AnswerCanonical (execCellFault f u cell s) := by
  unfold execCellFault
  repeat' first
    | with_reducible assumption | with_reducible apply effect_canon | with_reducible apply cellFault_canon

theorem execSequencerParity_canon {r : Fin 8} {s : State} (h_s : s.Canonical) :
    AnswerCanonical (execSequencerParity r s) := by
  unfold execSequencerParity
  repeat' first
    | with_reducible assumption | with_reducible apply effect_canon | with_reducible apply regionFault_canon

theorem execBlockFault_canon {f : FrondRef} {s : State} (h_s : s.Canonical) :
    AnswerCanonical (execBlockFault f s) := by
  unfold execBlockFault
  repeat' first
    | with_reducible assumption | with_reducible apply effect_canon | with_reducible apply blockFault_canon

theorem execBridgeReplay_canon {d : Fin 2} {s : State} (h_s : s.Canonical) :
    AnswerCanonical (execBridgeReplay d s) := by
  unfold execBridgeReplay
  repeat' first
    | with_reducible assumption | with_reducible apply effect_canon | with_reducible apply bridgeReplay_canon

theorem execPeriParity_canon {f : FrondRef} {s : State} (h_s : s.Canonical) :
    AnswerCanonical (execPeriParity f s) := by
  unfold execPeriParity
  repeat' first
    | with_reducible assumption | with_reducible apply effect_canon | with_reducible apply periParity_canon

theorem execSporeExpanderReplay_canon {f : FrondRef} {cell : Fin 8} {s : State} (h_s : s.Canonical) :
    AnswerCanonical (execSporeExpanderReplay f cell s) := by
  unfold execSporeExpanderReplay
  repeat' first
    | with_reducible assumption | with_reducible apply effect_canon | with_reducible apply sporeReplay_canon

theorem execLogRingEntry_canon {s : State} (h_s : s.Canonical) :
    AnswerCanonical (execLogRingEntry s) := by
  unfold execLogRingEntry
  repeat' first
    | with_reducible assumption | with_reducible apply effect_canon | with_reducible apply ringEnter_canon

theorem execLogRdSelWrite_canon {m : Master} {v : Word} {s : State} (h_s : s.Canonical) :
    AnswerCanonical (execLogRdSelWrite m v s) := by
  unfold execLogRdSelWrite
  repeat' first
    | with_reducible assumption | with_reducible apply effect_canon | with_reducible apply gated_canon
    | with_reducible apply wrRdSel_canon | with_reducible apply effect_canon | with_reducible apply ifOk_canon
    | with_reducible apply next_canon | split | intro _

theorem execLogTailWrite_canon {m : Master} {v : Word} {s : State} (h_s : s.Canonical) :
    AnswerCanonical (execLogTailWrite m v s) := by
  unfold execLogTailWrite
  repeat' first
    | with_reducible assumption | with_reducible apply effect_canon | with_reducible apply gated_canon
    | with_reducible apply wrLogTail_canon | with_reducible apply effect_canon | with_reducible apply ifOk_canon
    | with_reducible apply next_canon | split | intro _

theorem execDrainTailWrite_canon {m : Master} {v : Word} {s : State} (h_s : s.Canonical) :
    AnswerCanonical (execDrainTailWrite m v s) := by
  unfold execDrainTailWrite
  repeat' first
    | with_reducible assumption | with_reducible apply effect_canon | with_reducible apply gated_canon
    | with_reducible apply wrDrainTail_canon | with_reducible apply effect_canon | with_reducible apply ifOk_canon
    | with_reducible apply next_canon | split | intro _

theorem execMaintReqScrub_canon {m : Master} {scope : BitVec 8} {s : State} (h_s : s.Canonical) :
    AnswerCanonical (execMaintReqScrub m scope s) := by
  unfold execMaintReqScrub
  repeat' first
    | with_reducible assumption | with_reducible apply effect_canon | with_reducible apply gated_canon
    | with_reducible apply wrMaintReq_canon | with_reducible apply effect_canon | with_reducible apply ifOk_canon
    | with_reducible apply next_canon | split | intro _

theorem execMaintReqRetrain_canon {m : Master} {scope : BitVec 8} {s : State} (h_s : s.Canonical) :
    AnswerCanonical (execMaintReqRetrain m scope s) := by
  unfold execMaintReqRetrain
  repeat' first
    | with_reducible assumption | with_reducible apply effect_canon | with_reducible apply gated_canon
    | with_reducible apply wrMaintReq_canon | with_reducible apply effect_canon | with_reducible apply ifOk_canon
    | with_reducible apply next_canon | split | intro _

theorem execMaintReqDrain_canon {m : Master} {scope : BitVec 8} {s : State} (h_s : s.Canonical) :
    AnswerCanonical (execMaintReqDrain m scope s) := by
  unfold execMaintReqDrain
  repeat' first
    | with_reducible assumption | with_reducible apply effect_canon | with_reducible apply gated_canon
    | with_reducible apply wrMaintReq_canon | with_reducible apply effect_canon | with_reducible apply ifOk_canon
    | with_reducible apply next_canon | split | intro _

theorem execMaintReqThermal_canon {m : Master} {scope : BitVec 8} {s : State} (h_s : s.Canonical) :
    AnswerCanonical (execMaintReqThermal m scope s) := by
  unfold execMaintReqThermal
  repeat' first
    | with_reducible assumption | with_reducible apply effect_canon | with_reducible apply gated_canon
    | with_reducible apply wrMaintReq_canon | with_reducible apply effect_canon | with_reducible apply ifOk_canon
    | with_reducible apply next_canon | split | intro _

theorem execMaintStart_canon {s : State} (h_s : s.Canonical) :
    AnswerCanonical (execMaintStart s) := by
  unfold execMaintStart
  repeat' first
    | with_reducible assumption | with_reducible apply effect_canon | with_reducible apply startNext_canon

theorem execMaintDone_canon {act : Activity} {scope : ℕ} {corr : BitVec 16} {s : State} (h_s : s.Canonical) :
    AnswerCanonical (execMaintDone act scope corr s) := by
  unfold execMaintDone
  repeat' first
    | with_reducible assumption | with_reducible apply effect_canon | with_reducible apply maintDone_canon

theorem execThermalRecalibration_canon {d : Fin 2} {s : State} (h_s : s.Canonical) :
    AnswerCanonical (execThermalRecalibration d s) := by
  unfold execThermalRecalibration
  repeat' first
    | with_reducible assumption | with_reducible apply effect_canon | with_reducible apply requestAct_canon

theorem execScrubStep_canon {t : Fin 8} {s : State} (h_s : s.Canonical) :
    AnswerCanonical (execScrubStep t s) := by
  unfold execScrubStep
  repeat' first
    | with_reducible assumption | with_reducible apply effect_canon | with_reducible apply requestAct_canon
    | with_reducible apply effect_canon | with_reducible apply ifOk_canon | with_reducible apply next_canon | split

theorem execKsetGo_canon {m : Master} {r : Fin 8} {k : Fin 16} {s : State} (h_s : s.Canonical) :
    AnswerCanonical (execKsetGo m r k s) := by
  unfold execKsetGo
  repeat' first
    | with_reducible assumption | with_reducible apply effect_canon | with_reducible apply gated_canon
    | with_reducible apply ksetGo_canon | with_reducible apply effect_canon | with_reducible apply ifOk_canon
    | with_reducible apply next_canon | split | intro _

theorem execKsetRegistered_canon {r : Fin 8} {k : Fin 16} {s : State} (h_s : s.Canonical) :
    AnswerCanonical (execKsetRegistered r k s) := by
  unfold execKsetRegistered
  repeat' first
    | with_reducible assumption | with_reducible apply effect_canon | with_reducible apply ksetDone_canon

theorem execKsetClear_canon {m : Master} {r : Fin 8} {k : Fin 16} {s : State} (h_s : s.Canonical) :
    AnswerCanonical (execKsetClear m r k s) := by
  unfold execKsetClear
  repeat' first
    | with_reducible assumption | with_reducible apply effect_canon | with_reducible apply gated_canon
    | with_reducible apply ksetClear_canon | with_reducible apply effect_canon | with_reducible apply ifOk_canon
    | with_reducible apply next_canon | split | intro _

theorem execKsetBaseWrite_canon {m : Master} {r : Fin 8} {k : Fin 16} {v : Word} {s : State} (h_s : s.Canonical) :
    AnswerCanonical (execKsetBaseWrite m r k v s) := by
  unfold execKsetBaseWrite
  repeat' first
    | with_reducible assumption | with_reducible apply effect_canon | with_reducible apply gated_canon
    | with_reducible apply wrKsetBase_canon | with_reducible apply effect_canon | with_reducible apply ifOk_canon
    | with_reducible apply next_canon | split | intro _

theorem execRefresh_canon {t : Fin 8} {b : Word} {hits : List FrondRef} {s : State} (h_s : s.Canonical) :
    AnswerCanonical (execRefresh t b hits s) := by
  unfold execRefresh
  repeat' first
    | with_reducible assumption | with_reducible apply effect_canon | with_reducible apply refresh_canon

theorem execDramTempSample_canon {t : Fin 8} {temp : BitVec 8} {s : State} (h_s : s.Canonical) :
    AnswerCanonical (execDramTempSample t temp s) := by
  unfold execDramTempSample
  repeat' first
    | with_reducible assumption | with_reducible apply effect_canon | with_reducible apply tempSample_canon

theorem execRfshModeWrite_canon {m : Master} {t : Fin 8} {v : Word} {s : State} (h_s : s.Canonical) :
    AnswerCanonical (execRfshModeWrite m t v s) := by
  unfold execRfshModeWrite
  repeat' first
    | with_reducible assumption | with_reducible apply effect_canon | with_reducible apply gated_canon
    | with_reducible apply wrRfsh_canon | with_reducible apply effect_canon | with_reducible apply ifOk_canon
    | with_reducible apply next_canon | split | intro _

theorem execQuiesceWrite_canon {m : Master} {t : Fin 8} {v : Word} {s : State} (h_s : s.Canonical) :
    AnswerCanonical (execQuiesceWrite m t v s) := by
  unfold execQuiesceWrite
  repeat' first
    | with_reducible assumption | with_reducible apply effect_canon | with_reducible apply gated_canon
    | with_reducible apply wrQuiesce_canon | with_reducible apply effect_canon | with_reducible apply ifOk_canon
    | with_reducible apply next_canon | split | intro _

theorem execTowerQuiesced_canon {t : Fin 8} {s : State} (h_s : s.Canonical) :
    AnswerCanonical (execTowerQuiesced t s) := by
  unfold execTowerQuiesced
  repeat' first
    | with_reducible assumption | with_reducible apply effect_canon | with_reducible apply towerIdle_canon

theorem execTowQuiesceTimeout_canon {t : Fin 8} {s : State} (h_s : s.Canonical) :
    AnswerCanonical (execTowQuiesceTimeout t s) := by
  unfold execTowQuiesceTimeout
  repeat' first
    | with_reducible assumption | with_reducible apply effect_canon | with_reducible apply quiesceTimeout_canon

theorem execMarginGo_canon {m : Master} {t : Fin 8} {v : Word} {s : State} (h_s : s.Canonical) :
    AnswerCanonical (execMarginGo m t v s) := by
  unfold execMarginGo
  repeat' first
    | with_reducible assumption | with_reducible apply effect_canon | with_reducible apply gated_canon
    | with_reducible apply wrMargin_canon | with_reducible apply effect_canon | with_reducible apply ifOk_canon
    | with_reducible apply next_canon | split | intro _

theorem execMarginDone_canon {t : Fin 8} {rec : List MarginRec} {s : State} (h_s : s.Canonical) :
    AnswerCanonical (execMarginDone t rec s) := by
  unfold execMarginDone
  repeat' first
    | with_reducible assumption | with_reducible apply effect_canon | with_reducible apply marginDone_canon

theorem execPoisonOpQuery_canon {m : Master} {t : Fin 8} {g : BitVec 24} {s : State} (h_s : s.Canonical) :
    AnswerCanonical (execPoisonOpQuery m t g s) := by
  unfold execPoisonOpQuery
  repeat' first
    | with_reducible assumption | with_reducible apply effect_canon | with_reducible apply gated_canon
    | with_reducible apply wrPoisonOp_canon | with_reducible apply effect_canon | with_reducible apply ifOk_canon
    | with_reducible apply next_canon | split | intro _

theorem execPoisonOpSet_canon {m : Master} {t : Fin 8} {g : BitVec 24} {s : State} (h_s : s.Canonical) :
    AnswerCanonical (execPoisonOpSet m t g s) := by
  unfold execPoisonOpSet
  repeat' first
    | with_reducible assumption | with_reducible apply effect_canon | with_reducible apply gated_canon
    | with_reducible apply wrPoisonOp_canon | with_reducible apply effect_canon | with_reducible apply ifOk_canon
    | with_reducible apply next_canon | split | intro _

theorem execPoisonOpClear_canon {m : Master} {t : Fin 8} {g : BitVec 24} {s : State} (h_s : s.Canonical) :
    AnswerCanonical (execPoisonOpClear m t g s) := by
  unfold execPoisonOpClear
  repeat' first
    | with_reducible assumption | with_reducible apply effect_canon | with_reducible apply gated_canon
    | with_reducible apply wrPoisonOp_canon | with_reducible apply effect_canon | with_reducible apply ifOk_canon
    | with_reducible apply next_canon | split | intro _

theorem execRailOutOfTolerance_canon {rail : Rail} {s : State} (h_s : s.Canonical) :
    AnswerCanonical (execRailOutOfTolerance rail s) := by
  unfold execRailOutOfTolerance
  repeat' first
    | with_reducible assumption | with_reducible apply effect_canon | with_reducible apply railOut_canon
    | with_reducible apply effect_canon | with_reducible apply ifOk_canon | with_reducible apply next_canon | split

theorem execVmgmtLoss_canon {s : State} (h_s : s.Canonical) :
    AnswerCanonical (execVmgmtLoss s) := by
  unfold execVmgmtLoss
  repeat' first
    | with_reducible assumption | with_reducible apply effect_canon | with_reducible apply loseLog_canon

theorem execSysrefLockTimeout_canon {s : State} (h_s : s.Canonical) :
    AnswerCanonical (execSysrefLockTimeout s) := by
  unfold execSysrefLockTimeout
  repeat' first
    | with_reducible assumption | with_reducible apply effect_canon | with_reducible apply bootStop_canon
    | with_reducible apply advanceTo_canon | with_reducible apply effect_canon | with_reducible apply ifOk_canon
    | with_reducible apply next_canon | split

theorem execRefLoss_canon {s : State} (h_s : s.Canonical) :
    AnswerCanonical (execRefLoss s) := by
  unfold execRefLoss
  repeat' first
    | with_reducible assumption | with_reducible apply effect_canon | with_reducible apply setB_canon
    | with_reducible apply logCanary_canon | with_reducible apply effect_canon | with_reducible apply ifOk_canon
    | with_reducible apply next_canon | split

theorem execThermalThrottle_canon {d : Fin 2} {t : BitVec 8} {s : State} (h_s : s.Canonical) :
    AnswerCanonical (execThermalThrottle d t s) := by
  unfold execThermalThrottle
  repeat' first
    | with_reducible assumption | with_reducible apply effect_canon | with_reducible apply throttle_canon

theorem execHotClear_canon {t0 : BitVec 8} {t1 : BitVec 8} {s : State} (h_s : s.Canonical) :
    AnswerCanonical (execHotClear t0 t1 s) := by
  unfold execHotClear
  repeat' first
    | with_reducible assumption | with_reducible apply effect_canon | with_reducible apply hotClear_canon

theorem execThermtrip_canon {d : Fin 2} {t : BitVec 8} {s : State} (h_s : s.Canonical) :
    AnswerCanonical (execThermtrip d t s) := by
  unfold execThermtrip
  repeat' first
    | with_reducible assumption | with_reducible apply effect_canon | with_reducible apply thermTrip_canon

theorem execVoltageLoopTick_canon {slack : BitVec 8} {full : Bool} {s : State} (h_s : s.Canonical) :
    AnswerCanonical (execVoltageLoopTick slack full s) := by
  unfold execVoltageLoopTick
  repeat' first
    | with_reducible assumption | with_reducible apply effect_canon | with_reducible apply voltageTick_canon

theorem execPowerEstimate_canon {watts : ℕ} {s : State} (h_s : s.Canonical) :
    AnswerCanonical (execPowerEstimate watts s) := by
  unfold execPowerEstimate
  repeat' first
    | with_reducible assumption | with_reducible apply effect_canon | with_reducible apply powerEstimate_canon

theorem execBeatStretch_canon {d : Fin 2} {cause : StretchCause} {s : State} (h_s : s.Canonical) :
    AnswerCanonical (execBeatStretch d cause s) := by
  unfold execBeatStretch
  repeat' first
    | with_reducible assumption | with_reducible apply effect_canon | with_reducible apply stretch_canon

theorem execBeatUnstretch_canon {d : Fin 2} {s : State} (h_s : s.Canonical) :
    AnswerCanonical (execBeatUnstretch d s) := by
  unfold execBeatUnstretch
  repeat' first
    | with_reducible assumption | with_reducible apply effect_canon | with_reducible apply unstretch_canon

theorem execPwrcapWrite_canon {m : Master} {w : BitVec 16} {s : State} (h_s : s.Canonical) :
    AnswerCanonical (execPwrcapWrite m w s) := by
  unfold execPwrcapWrite
  repeat' first
    | with_reducible assumption | with_reducible apply effect_canon | with_reducible apply gated_canon
    | with_reducible apply wrCapW_canon | with_reducible apply effect_canon | with_reducible apply ifOk_canon
    | with_reducible apply next_canon | split | intro _

theorem execMemcfgWrite_canon {m : Master} {v : Word} {s : State} (h_s : s.Canonical) :
    AnswerCanonical (execMemcfgWrite m v s) := by
  unfold execMemcfgWrite
  repeat' first
    | with_reducible assumption | with_reducible apply effect_canon | with_reducible apply gated_canon
    | with_reducible apply wrMemcfg_canon | with_reducible apply effect_canon | with_reducible apply ifOk_canon
    | with_reducible apply next_canon | split | intro _

theorem execNdClr_canon {m : Master} {s : State} (h_s : s.Canonical) :
    AnswerCanonical (execNdClr m s) := by
  unfold execNdClr
  repeat' first
    | with_reducible assumption | with_reducible apply effect_canon | with_reducible apply gated_canon
    | with_reducible apply clearNd_canon

theorem execMissClr_canon {m : Master} {s : State} (h_s : s.Canonical) :
    AnswerCanonical (execMissClr m s) := by
  unfold execMissClr
  repeat' first
    | with_reducible assumption | with_reducible apply effect_canon | with_reducible apply gated_canon
    | with_reducible apply setReg_canon | with_reducible apply effect_canon | with_reducible apply ifOk_canon
    | with_reducible apply next_canon | split | intro _

theorem execShake256_canon {m : Master} {v : Word} {s : State} (h_s : s.Canonical) :
    AnswerCanonical (execShake256 m v s) := by
  unfold execShake256
  repeat' first
    | with_reducible assumption | with_reducible apply effect_canon | with_reducible apply gated_canon
    | with_reducible apply pkeGo_canon | with_reducible apply effect_canon | with_reducible apply ifOk_canon
    | with_reducible apply next_canon | split | intro _

theorem execEd448Verify_canon {m : Master} {v : Word} {s : State} (h_s : s.Canonical) :
    AnswerCanonical (execEd448Verify m v s) := by
  unfold execEd448Verify
  repeat' first
    | with_reducible assumption | with_reducible apply effect_canon | with_reducible apply gated_canon
    | with_reducible apply pkeGo_canon | with_reducible apply effect_canon | with_reducible apply ifOk_canon
    | with_reducible apply next_canon | split | intro _

theorem execEd448Sign_canon {m : Master} {v : Word} {s : State} (h_s : s.Canonical) :
    AnswerCanonical (execEd448Sign m v s) := by
  unfold execEd448Sign
  repeat' first
    | with_reducible assumption | with_reducible apply effect_canon | with_reducible apply gated_canon
    | with_reducible apply pkeGo_canon | with_reducible apply effect_canon | with_reducible apply ifOk_canon
    | with_reducible apply next_canon | split | intro _

theorem execX448_canon {m : Master} {v : Word} {s : State} (h_s : s.Canonical) :
    AnswerCanonical (execX448 m v s) := by
  unfold execX448
  repeat' first
    | with_reducible assumption | with_reducible apply effect_canon | with_reducible apply gated_canon
    | with_reducible apply pkeGo_canon | with_reducible apply effect_canon | with_reducible apply ifOk_canon
    | with_reducible apply next_canon | split | intro _

theorem execKeygen_canon {m : Master} {v : Word} {s : State} (h_s : s.Canonical) :
    AnswerCanonical (execKeygen m v s) := by
  unfold execKeygen
  repeat' first
    | with_reducible assumption | with_reducible apply effect_canon | with_reducible apply gated_canon
    | with_reducible apply pkeGo_canon | with_reducible apply effect_canon | with_reducible apply ifOk_canon
    | with_reducible apply next_canon | split | intro _

theorem execPubkey_canon {m : Master} {v : Word} {s : State} (h_s : s.Canonical) :
    AnswerCanonical (execPubkey m v s) := by
  unfold execPubkey
  repeat' first
    | with_reducible assumption | with_reducible apply effect_canon | with_reducible apply gated_canon
    | with_reducible apply pkeGo_canon | with_reducible apply effect_canon | with_reducible apply ifOk_canon
    | with_reducible apply next_canon | split | intro _

theorem execKdf_canon {m : Master} {v : Word} {s : State} (h_s : s.Canonical) :
    AnswerCanonical (execKdf m v s) := by
  unfold execKdf
  repeat' first
    | with_reducible assumption | with_reducible apply effect_canon | with_reducible apply gated_canon
    | with_reducible apply pkeGo_canon | with_reducible apply effect_canon | with_reducible apply ifOk_canon
    | with_reducible apply next_canon | split | intro _

theorem execMac_canon {m : Master} {v : Word} {s : State} (h_s : s.Canonical) :
    AnswerCanonical (execMac m v s) := by
  unfold execMac
  repeat' first
    | with_reducible assumption | with_reducible apply effect_canon | with_reducible apply gated_canon
    | with_reducible apply pkeGo_canon | with_reducible apply effect_canon | with_reducible apply ifOk_canon
    | with_reducible apply next_canon | split | intro _

theorem execClear_canon {m : Master} {v : Word} {s : State} (h_s : s.Canonical) :
    AnswerCanonical (execClear m v s) := by
  unfold execClear
  repeat' first
    | with_reducible assumption | with_reducible apply effect_canon | with_reducible apply gated_canon
    | with_reducible apply pkeGo_canon | with_reducible apply effect_canon | with_reducible apply ifOk_canon
    | with_reducible apply next_canon | split | intro _

theorem execAttest_canon {m : Master} {v : Word} {s : State} (h_s : s.Canonical) :
    AnswerCanonical (execAttest m v s) := by
  unfold execAttest
  repeat' first
    | with_reducible assumption | with_reducible apply effect_canon | with_reducible apply gated_canon
    | with_reducible apply pkeGo_canon | with_reducible apply effect_canon | with_reducible apply ifOk_canon
    | with_reducible apply next_canon | split | intro _

theorem execPkeComplete_canon {beats : Word32} {s : State} (h_s : s.Canonical) :
    AnswerCanonical (execPkeComplete beats s) := by
  unfold execPkeComplete
  repeat' first
    | with_reducible assumption | with_reducible apply effect_canon | with_reducible apply pkeComplete_canon

theorem execPerstAssert_canon {p : Fin 2} {s : State} (h_s : s.Canonical) :
    AnswerCanonical (execPerstAssert p s) := by
  unfold execPerstAssert
  repeat' first
    | with_reducible assumption | with_reducible apply effect_canon | with_reducible apply perst_canon

theorem execAtsTranslationCompletion_canon {p : Fin 2} {u : Word} {res : AtsResult} {s : State} (h_s : s.Canonical) :
    AnswerCanonical (execAtsTranslationCompletion p u res s) := by
  unfold execAtsTranslationCompletion
  repeat' first
    | with_reducible assumption | with_reducible apply effect_canon | with_reducible apply atsDone_canon

theorem execAtsInvalidation_canon {p : Fin 2} {u : Word} {log2 : ℕ} {s : State} (h_s : s.Canonical) :
    AnswerCanonical (execAtsInvalidation p u log2 s) := by
  unfold execAtsInvalidation
  repeat' first
    | with_reducible assumption | with_reducible apply ifOk_canon | with_reducible apply invalidate_canon

theorem execPageResponse_canon {p : Fin 2} {u : Word} {code : PageResp} {s : State} (h_s : s.Canonical) :
    AnswerCanonical (execPageResponse p u code s) := by
  unfold execPageResponse
  repeat' first
    | with_reducible assumption | with_reducible apply effect_canon | with_reducible apply pageResponse_canon

theorem execPageReqTimeout_canon {p : Fin 2} {u : Word} {s : State} (h_s : s.Canonical) :
    AnswerCanonical (execPageReqTimeout p u s) := by
  unfold execPageReqTimeout
  repeat' first
    | with_reducible assumption | with_reducible apply effect_canon | with_reducible apply pageTimeout_canon

theorem execHostCplErr_canon {f : FrondRef} {ep : Bool} {s : State} (h_s : s.Canonical) :
    AnswerCanonical (execHostCplErr f ep s) := by
  unfold execHostCplErr
  repeat' first
    | with_reducible assumption | with_reducible apply effect_canon | with_reducible apply cplErr_canon

theorem execPcieLinkDown_canon {p : Fin 2} {s : State} (h_s : s.Canonical) :
    AnswerCanonical (execPcieLinkDown p s) := by
  unfold execPcieLinkDown
  repeat' first
    | with_reducible assumption | with_reducible apply effect_canon | with_reducible apply portLost_canon
    | with_reducible apply effect_canon | with_reducible apply ifOk_canon | with_reducible apply next_canon | split

theorem execPcieLinkUp_canon {p : Fin 2} {speed : BitVec 4} {width : BitVec 5} {s : State} (h_s : s.Canonical) :
    AnswerCanonical (execPcieLinkUp p speed width s) := by
  unfold execPcieLinkUp
  repeat' first
    | with_reducible assumption | with_reducible apply effect_canon | with_reducible apply portUpNow_canon
    | with_reducible apply effect_canon | with_reducible apply ifOk_canon | with_reducible apply next_canon | split

theorem execPcieConfigWrite_canon {p : Fin 2} {k : PcieCfg} {v : Word} {s : State} (h_s : s.Canonical) :
    AnswerCanonical (execPcieConfigWrite p k v s) := by
  unfold execPcieConfigWrite
  repeat' first
    | with_reducible assumption | with_reducible apply effect_canon | with_reducible apply configWrite_canon

theorem execSemAcquire_canon {m : Master} {k : Fin 16} {s : State} (h_s : s.Canonical) :
    AnswerCanonical (execSemAcquire m k s) := by
  unfold execSemAcquire
  repeat' first
    | with_reducible assumption | with_reducible apply effect_canon | with_reducible apply wrSem_canon

theorem execSemRelease_canon {m : Master} {k : Fin 16} {s : State} (h_s : s.Canonical) :
    AnswerCanonical (execSemRelease m k s) := by
  unfold execSemRelease
  repeat' first
    | with_reducible assumption | with_reducible apply effect_canon | with_reducible apply wrSem_canon

theorem execMboxDataWrite_canon {m : Master} {d : Fin 3} {j : Fin 8} {v : Word} {s : State} (h_s : s.Canonical) :
    AnswerCanonical (execMboxDataWrite m d j v s) := by
  unfold execMboxDataWrite
  repeat' first
    | with_reducible assumption | with_reducible apply effect_canon | with_reducible apply wrMboxData_canon

theorem execMboxSend_canon {m : Master} {d : Fin 3} {s : State} (h_s : s.Canonical) :
    AnswerCanonical (execMboxSend m d s) := by
  unfold execMboxSend
  repeat' first
    | with_reducible assumption | with_reducible apply effect_canon | with_reducible apply wrMboxCtl_canon

theorem execMboxClear_canon {m : Master} {d : Fin 3} {s : State} (h_s : s.Canonical) :
    AnswerCanonical (execMboxClear m d s) := by
  unfold execMboxClear
  repeat' first
    | with_reducible assumption | with_reducible apply effect_canon | with_reducible apply wrMboxCtl_canon

theorem execNvcfgRead_canon {m : Master} {len : BitVec 9} {s : State} (h_s : s.Canonical) :
    AnswerCanonical (execNvcfgRead m len s) := by
  unfold execNvcfgRead
  repeat' first
    | with_reducible assumption | with_reducible apply ifOk_canon | with_reducible apply nvCommand_canon

theorem execNvcfgProgram_canon {m : Master} {len : BitVec 9} {s : State} (h_s : s.Canonical) :
    AnswerCanonical (execNvcfgProgram m len s) := by
  unfold execNvcfgProgram
  repeat' first
    | with_reducible assumption | with_reducible apply ifOk_canon | with_reducible apply nvCommand_canon

theorem execNvcfgErase_canon {m : Master} {len : BitVec 9} {s : State} (h_s : s.Canonical) :
    AnswerCanonical (execNvcfgErase m len s) := by
  unfold execNvcfgErase
  repeat' first
    | with_reducible assumption | with_reducible apply ifOk_canon | with_reducible apply nvCommand_canon

theorem execNvcfgDone_canon {err : FlashErr} {s : State} (h_s : s.Canonical) :
    AnswerCanonical (execNvcfgDone err s) := by
  unfold execNvcfgDone
  repeat' first
    | with_reducible assumption | with_reducible apply effect_canon | with_reducible apply nvDone_canon

theorem execWdtKick_canon {m : Master} {s : State} (h_s : s.Canonical) :
    AnswerCanonical (execWdtKick m s) := by
  unfold execWdtKick
  repeat' first
    | with_reducible assumption | with_reducible apply effect_canon | with_reducible apply gated_canon
    | with_reducible apply effect_canon | with_reducible apply ifOk_canon | with_reducible apply next_canon | split
    | intro _ | dsimp only | with_reducible apply State.Canonical.regs | with_reducible apply State.Canonical.mem
    | with_reducible apply State.Canonical.tiles | with_reducible apply State.Canonical.matPoison
    | with_reducible apply State.Canonical.towPoison | with_reducible apply State.Canonical.full
    | (refine State.Canonical.mk ?_ ?_ ?_ ?_ ?_ ?_ <;> dsimp only)

theorem execFwWatchdog_canon {s : State} (h_s : s.Canonical) :
    AnswerCanonical (execFwWatchdog s) := by
  unfold execFwWatchdog
  repeat' first
    | with_reducible assumption | with_reducible apply effect_canon | with_reducible apply watchdog_canon

theorem execFwTrap_canon {cause : Word} {s : State} (h_s : s.Canonical) :
    AnswerCanonical (execFwTrap cause s) := by
  unfold execFwTrap
  repeat' first
    | with_reducible assumption | with_reducible apply effect_canon | with_reducible apply fillRestart_canon
    | with_reducible apply fwExpiry_canon | with_reducible apply logEv_canon

theorem execMctpMessage_canon {q : MctpReq} {s : State} (h_s : s.Canonical) :
    AnswerCanonical (execMctpMessage q s) := by
  unfold execMctpMessage
  repeat' first
    | with_reducible assumption | with_reducible apply effect_canon | with_reducible apply mctp_canon

theorem execLinkEnableWrite_canon {m : Master} {p : Fin 16} {en : Bool} {s : State} (h_s : s.Canonical) :
    AnswerCanonical (execLinkEnableWrite m p en s) := by
  unfold execLinkEnableWrite
  repeat' first
    | with_reducible assumption | with_reducible apply effect_canon | with_reducible apply gated_canon
    | with_reducible apply wrLinkEnable_canon | with_reducible apply effect_canon | with_reducible apply ifOk_canon
    | with_reducible apply next_canon | split | intro _

theorem execLinkRetrainWrite_canon {m : Master} {p : Fin 16} {s : State} (h_s : s.Canonical) :
    AnswerCanonical (execLinkRetrainWrite m p s) := by
  unfold execLinkRetrainWrite
  repeat' first
    | with_reducible assumption | with_reducible apply effect_canon | with_reducible apply gated_canon
    | with_reducible apply requestAct_canon | with_reducible apply effect_canon | with_reducible apply ifOk_canon
    | with_reducible apply next_canon | split | intro _

theorem execCrcFailure_canon {p : Fin 16} {badCrc : Bool} {s : State} (h_s : s.Canonical) :
    AnswerCanonical (execCrcFailure p badCrc s) := by
  unfold execCrcFailure
  repeat' first
    | with_reducible assumption | with_reducible apply effect_canon | with_reducible apply refusePacket_canon
    | with_reducible apply bump_canon | with_reducible apply effect_canon | with_reducible apply ifOk_canon
    | with_reducible apply next_canon | split

theorem execLinkReplay_canon {p : Fin 16} {k : Packet} {s : State} (h_s : s.Canonical) :
    AnswerCanonical (execLinkReplay p k s) := by
  unfold execLinkReplay
  repeat' first
    | with_reducible assumption | with_reducible apply ifOk_canon | with_reducible apply onHeader_canon
    | with_reducible apply effect_canon | with_reducible apply ifOk_canon | with_reducible apply next_canon | split

theorem execLinkBadType_canon {p : Fin 16} {k : Packet} {s : State} (h_s : s.Canonical) :
    AnswerCanonical (execLinkBadType p k s) := by
  unfold execLinkBadType
  repeat' first
    | with_reducible assumption | with_reducible apply ifOk_canon | with_reducible apply receive_canon
    | with_reducible apply effect_canon | with_reducible apply ifOk_canon | with_reducible apply next_canon | split
    | intro _

theorem execIdle_canon {p : Fin 16} {k : Packet} {s : State} (h_s : s.Canonical) :
    AnswerCanonical (execIdle p k s) := by
  unfold execIdle
  repeat' first
    | with_reducible assumption | with_reducible apply ifOk_canon | with_reducible apply onHeader_canon
    | with_reducible apply effect_canon | with_reducible apply ifOk_canon | with_reducible apply next_canon | split

theorem execData_canon {p : Fin 16} {k : Packet} {s : State} (h_s : s.Canonical) :
    AnswerCanonical (execData p k s) := by
  unfold execData
  repeat' first
    | with_reducible assumption | with_reducible apply ifOk_canon | with_reducible apply receive_canon
    | with_reducible apply takeData_canon

theorem execRts_canon {p : Fin 16} {k : Packet} {s : State} (h_s : s.Canonical) :
    AnswerCanonical (execRts p k s) := by
  unfold execRts
  repeat' first
    | with_reducible assumption | with_reducible apply ifOk_canon | with_reducible apply receive_canon
    | with_reducible apply takeRts_canon

theorem execCts_canon {p : Fin 16} {k : Packet} {s : State} (h_s : s.Canonical) :
    AnswerCanonical (execCts p k s) := by
  unfold execCts
  repeat' first
    | with_reducible assumption | with_reducible apply ifOk_canon | with_reducible apply receive_canon
    | with_reducible apply takeCts_canon

theorem execColl_canon {p : Fin 16} {k : Packet} {s : State} (h_s : s.Canonical) :
    AnswerCanonical (execColl p k s) := by
  unfold execColl
  repeat' first
    | with_reducible assumption | with_reducible apply ifOk_canon | with_reducible apply receive_canon
    | with_reducible apply takeColl_canon

theorem execTee_canon {p : Fin 16} {k : Packet} {s : State} (h_s : s.Canonical) :
    AnswerCanonical (execTee p k s) := by
  unfold execTee
  repeat' first
    | with_reducible assumption | with_reducible apply ifOk_canon | with_reducible apply receive_canon
    | with_reducible apply takeTee_canon

theorem execMaint_canon {p : Fin 16} {k : Packet} {s : State} (h_s : s.Canonical) :
    AnswerCanonical (execMaint p k s) := by
  unfold execMaint
  repeat' first
    | with_reducible assumption | with_reducible apply ifOk_canon | with_reducible apply receive_canon
    | with_reducible apply takeMaint_canon

theorem execGroupWrite_canon {m : Master} {g : Fin 64} {b : Bool} {v : Word} {s : State} (h_s : s.Canonical) :
    AnswerCanonical (execGroupWrite m g b v s) := by
  unfold execGroupWrite
  repeat' first
    | with_reducible assumption | with_reducible apply effect_canon | with_reducible apply gated_canon
    | with_reducible apply wrGroup_canon | with_reducible apply effect_canon | with_reducible apply ifOk_canon
    | with_reducible apply next_canon | split | intro _

theorem execCollTimeout_canon {f : FrondRef} {s : State} (h_s : s.Canonical) :
    AnswerCanonical (execCollTimeout f s) := by
  unfold execCollTimeout
  repeat' first
    | with_reducible assumption | with_reducible apply effect_canon | with_reducible apply collTimeout_canon

theorem execTeeFail_canon {r : Fin 8} {k : ℕ} {s : State} (h_s : s.Canonical) :
    AnswerCanonical (execTeeFail r k s) := by
  unfold execTeeFail
  repeat' first
    | with_reducible assumption | with_reducible apply effect_canon | with_reducible apply teeFail_canon

theorem execBarArrive_canon {p : Fin 16} {k : Packet} {s : State} (h_s : s.Canonical) :
    AnswerCanonical (execBarArrive p k s) := by
  unfold execBarArrive
  repeat' first
    | with_reducible assumption | with_reducible apply ifOk_canon | with_reducible apply receive_canon
    | with_reducible apply takeArrive_canon

theorem execBarRelease_canon {p : Fin 16} {k : Packet} {s : State} (h_s : s.Canonical) :
    AnswerCanonical (execBarRelease p k s) := by
  unfold execBarRelease
  repeat' first
    | with_reducible assumption | with_reducible apply ifOk_canon | with_reducible apply receive_canon
    | with_reducible apply takeBarRelease_canon

theorem execAliasCommit_canon {m : Master} {i : BitVec 8} {v : Word} {s : State} (h_s : s.Canonical) :
    AnswerCanonical (execAliasCommit m i v s) := by
  unfold execAliasCommit
  repeat' first
    | with_reducible assumption | with_reducible apply effect_canon | with_reducible apply gated_canon
    | with_reducible apply wrAliasF_canon | with_reducible apply effect_canon | with_reducible apply ifOk_canon
    | with_reducible apply next_canon | split | intro _

theorem execHeartbeatSend_canon {s : State} (h_s : s.Canonical) :
    AnswerCanonical (execHeartbeatSend s) := by
  unfold execHeartbeatSend
  repeat' first
    | with_reducible assumption | with_reducible apply effect_canon | with_reducible apply heartbeatSend_canon

theorem execHeartbeat_canon {p : Fin 16} {k : Packet} {err : ℤ} {s : State} (h_s : s.Canonical) :
    AnswerCanonical (execHeartbeat p k err s) := by
  unfold execHeartbeat
  repeat' first
    | with_reducible assumption | with_reducible apply ifOk_canon | with_reducible apply receive_canon
    | with_reducible apply takeHeartbeat_canon

theorem execArmWrite_canon {m : Master} {v : Word} {s : State} (h_s : s.Canonical) :
    AnswerCanonical (execArmWrite m v s) := by
  unfold execArmWrite
  repeat' first
    | with_reducible assumption | with_reducible apply effect_canon | with_reducible apply gated_canon
    | with_reducible apply wrFailCtrl_canon | with_reducible apply effect_canon | with_reducible apply ifOk_canon
    | with_reducible apply next_canon | split | intro _

theorem execReadySync_canon {p : Fin 16} {k : Packet} {s : State} (h_s : s.Canonical) :
    AnswerCanonical (execReadySync p k s) := by
  unfold execReadySync
  repeat' first
    | with_reducible assumption | with_reducible apply ifOk_canon | with_reducible apply receive_canon
    | with_reducible apply takeSync_canon

theorem execCfgPartnerAbsent_canon {s : State} (h_s : s.Canonical) :
    AnswerCanonical (execCfgPartnerAbsent s) := by
  unfold execCfgPartnerAbsent
  repeat' first
    | with_reducible assumption | with_reducible apply effect_canon | with_reducible apply partnerAbsent_canon

theorem execReadyColdDirty_canon {p : Fin 16} {k : Packet} {s : State} (h_s : s.Canonical) :
    AnswerCanonical (execReadyColdDirty p k s) := by
  unfold execReadyColdDirty
  repeat' first
    | with_reducible assumption | with_reducible apply ifOk_canon | with_reducible apply receive_canon
    | with_reducible apply takeColdDirty_canon

theorem execReadyDirtyAck_canon {p : Fin 16} {k : Packet} {s : State} (h_s : s.Canonical) :
    AnswerCanonical (execReadyDirtyAck p k s) := by
  unfold execReadyDirtyAck
  repeat' first
    | with_reducible assumption | with_reducible apply ifOk_canon | with_reducible apply receive_canon
    | with_reducible apply takeDirtyAck_canon

theorem execUnprotected_canon {i : ℕ} {s : State} (h_s : s.Canonical) :
    AnswerCanonical (execUnprotected i s) := by
  unfold execUnprotected
  repeat' first
    | with_reducible assumption | with_reducible apply effect_canon | with_reducible apply unprotected_canon

theorem execReadyDigest_canon {p : Fin 16} {k : Packet} {s : State} (h_s : s.Canonical) :
    AnswerCanonical (execReadyDigest p k s) := by
  unfold execReadyDigest
  repeat' first
    | with_reducible assumption | with_reducible apply ifOk_canon | with_reducible apply receive_canon
    | with_reducible apply takeDigest_canon

theorem execLossDeclared_canon {p : Fin 16} {s : State} (h_s : s.Canonical) :
    AnswerCanonical (execLossDeclared p s) := by
  unfold execLossDeclared
  repeat' first
    | with_reducible assumption | with_reducible apply effect_canon | with_reducible apply declareLoss_canon

theorem execSelfFenced_canon {s : State} (h_s : s.Canonical) :
    AnswerCanonical (execSelfFenced s) := by
  unfold execSelfFenced
  repeat' first
    | with_reducible assumption | with_reducible apply effect_canon | with_reducible apply selfFence_canon

theorem execLossReceived_canon {p : Fin 16} {k : Packet} {s : State} (h_s : s.Canonical) :
    AnswerCanonical (execLossReceived p k s) := by
  unfold execLossReceived
  repeat' first
    | with_reducible assumption | with_reducible apply ifOk_canon | with_reducible apply receive_canon
    | with_reducible apply takeLoss_canon

theorem execGemmaClaim_canon {s : State} (h_s : s.Canonical) :
    AnswerCanonical (execGemmaClaim s) := by
  unfold execGemmaClaim
  repeat' first
    | with_reducible assumption | with_reducible apply effect_canon | with_reducible apply claimGemma_canon

theorem execAdoptClaim_canon {p : Fin 16} {k : Packet} {s : State} (h_s : s.Canonical) :
    AnswerCanonical (execAdoptClaim p k s) := by
  unfold execAdoptClaim
  repeat' first
    | with_reducible assumption | with_reducible apply ifOk_canon | with_reducible apply receive_canon
    | with_reducible apply takeClaim_canon

theorem execReadyAccept_canon {p : Fin 16} {k : Packet} {s : State} (h_s : s.Canonical) :
    AnswerCanonical (execReadyAccept p k s) := by
  unfold execReadyAccept
  repeat' first
    | with_reducible assumption | with_reducible apply ifOk_canon | with_reducible apply receive_canon
    | with_reducible apply takeAccept_canon

theorem execReadyBusy_canon {p : Fin 16} {k : Packet} {s : State} (h_s : s.Canonical) :
    AnswerCanonical (execReadyBusy p k s) := by
  unfold execReadyBusy
  repeat' first
    | with_reducible assumption | with_reducible apply ifOk_canon | with_reducible apply receive_canon
    | with_reducible apply takeBusy_canon

theorem execGemmaFillDone_canon {s : State} (h_s : s.Canonical) :
    AnswerCanonical (execGemmaFillDone s) := by
  unfold execGemmaFillDone
  repeat' first
    | with_reducible assumption | with_reducible apply effect_canon | with_reducible apply fillDone_canon

theorem execAdoptCommit_canon {p : Fin 16} {k : Packet} {s : State} (h_s : s.Canonical) :
    AnswerCanonical (execAdoptCommit p k s) := by
  unfold execAdoptCommit
  repeat' first
    | with_reducible assumption | with_reducible apply ifOk_canon | with_reducible apply receive_canon
    | with_reducible apply takeAdopt_canon

theorem execAdoptRelease_canon {p : Fin 16} {k : Packet} {s : State} (h_s : s.Canonical) :
    AnswerCanonical (execAdoptRelease p k s) := by
  unfold execAdoptRelease
  repeat' first
    | with_reducible assumption | with_reducible apply ifOk_canon | with_reducible apply receive_canon
    | with_reducible apply effect_canon | with_reducible apply ifOk_canon | with_reducible apply next_canon | split
    | intro _

theorem execHostBarRead_canon {p : Fin 2} {bar : Bar} {o : ℕ} {len : ℕ} {s : State} (h_s : s.Canonical) :
    AnswerCanonical (execHostBarRead p bar o len s) := by
  unfold execHostBarRead
  repeat' first
    | with_reducible assumption | with_reducible apply ifOk_canon | with_reducible apply barRead_canon

theorem execHostBarWrite_canon {p : Fin 2} {bar : Bar} {o : ℕ} {data : List Byte} {s : State} (h_s : s.Canonical) :
    AnswerCanonical (execHostBarWrite p bar o data s) := by
  unfold execHostBarWrite
  repeat' first
    | with_reducible assumption | with_reducible apply ifOk_canon | with_reducible apply barWrite_canon

theorem execMgmtCoreAccess_canon {wr : Bool} {a : BitVec 40} {data : List Byte} {len : ℕ} {s : State} (h_s : s.Canonical) :
    AnswerCanonical (execMgmtCoreAccess wr a data len s) := by
  unfold execMgmtCoreAccess
  repeat' first
    | with_reducible assumption | with_reducible apply ifOk_canon | with_reducible apply mgmtAccess_canon

theorem execRegisterWrite_canon {m : Master} {a : BitVec 40} {len : ℕ} {v : Word} {s : State} (h_s : s.Canonical) :
    AnswerCanonical (execRegisterWrite m a len v s) := by
  unfold execRegisterWrite
  repeat' first
    | with_reducible assumption | with_reducible apply ifOk_canon | with_reducible apply gated_canon
    | with_reducible apply writeAs_canon | with_reducible apply effect_canon | with_reducible apply ifOk_canon
    | with_reducible apply next_canon | split | intro _

theorem runFrond_canon {op : ℕ} {body : Run → Run} {x : FrondRef} {n : ℕ} {s : State} (h_body : (∀ y0, y0.Canonical → (body y0).Canonical)) (h_s : s.Canonical) :
    AnswerCanonical (runFrond op body x n s) := by
  unfold runFrond
  repeat' first
    | with_reducible assumption | with_reducible apply h_body | with_reducible apply effect_canon
    | with_reducible apply runUnits_canon | with_reducible apply effect_canon | with_reducible apply ifOk_canon
    | with_reducible apply next_canon | split

theorem execSend_canon {f : FrondRef} {n : ℕ} {s : State} (h_s : s.Canonical) :
    AnswerCanonical (execSend f n s) := by
  unfold execSend
  repeat' first
    | with_reducible assumption | with_reducible apply runFrond_canon | with_reducible apply sendUnit_canon

theorem execRecv_canon {f : FrondRef} {n : ℕ} {s : State} (h_s : s.Canonical) :
    AnswerCanonical (execRecv f n s) := by
  unfold execRecv
  repeat' first
    | with_reducible assumption | with_reducible apply runFrond_canon | with_reducible apply recvUnit_canon

theorem execReduceScatter_canon {f : FrondRef} {n : ℕ} {s : State} (h_s : s.Canonical) :
    AnswerCanonical (execReduceScatter f n s) := by
  unfold execReduceScatter
  repeat' first
    | with_reducible assumption | with_reducible apply runFrond_canon | with_reducible apply ringUnit_canon

theorem execAllGather_canon {f : FrondRef} {n : ℕ} {s : State} (h_s : s.Canonical) :
    AnswerCanonical (execAllGather f n s) := by
  unfold execAllGather
  repeat' first
    | with_reducible assumption | with_reducible apply runFrond_canon | with_reducible apply ringUnit_canon

theorem execAllReduce_canon {f : FrondRef} {n : ℕ} {s : State} (h_s : s.Canonical) :
    AnswerCanonical (execAllReduce f n s) := by
  unfold execAllReduce
  repeat' first
    | with_reducible assumption | with_reducible apply runFrond_canon | with_reducible apply ringUnit_canon

theorem execBcast_canon {f : FrondRef} {n : ℕ} {s : State} (h_s : s.Canonical) :
    AnswerCanonical (execBcast f n s) := by
  unfold execBcast
  repeat' first
    | with_reducible assumption | with_reducible apply runFrond_canon | with_reducible apply bcastUnit_canon

theorem execTeeArm_canon {f : FrondRef} {n : ℕ} {s : State} (h_s : s.Canonical) :
    AnswerCanonical (execTeeArm f n s) := by
  unfold execTeeArm
  repeat' first
    | with_reducible assumption | with_reducible apply runFrond_canon | with_reducible apply teeArmUnit_canon

theorem execTileShape_canon {f : FrondRef} {n : ℕ} {s : State} (h_s : s.Canonical) :
    AnswerCanonical (execTileShape f n s) := by
  unfold execTileShape
  repeat' first
    | with_reducible assumption | with_reducible apply runFrond_canon | with_reducible apply shapeUnit_canon

theorem execTileLoad_canon {f : FrondRef} {n : ℕ} {s : State} (h_s : s.Canonical) :
    AnswerCanonical (execTileLoad f n s) := by
  unfold execTileLoad
  repeat' first
    | with_reducible assumption | with_reducible apply runFrond_canon | with_reducible apply rowUnit_canon
    | with_reducible apply loadElem_canon | with_reducible apply effect_canon | with_reducible apply ifOk_canon
    | with_reducible apply next_canon | split | intro _

theorem execTileStore_canon {f : FrondRef} {n : ℕ} {s : State} (h_s : s.Canonical) :
    AnswerCanonical (execTileStore f n s) := by
  unfold execTileStore
  repeat' first
    | with_reducible assumption | with_reducible apply runFrond_canon | with_reducible apply rowUnit_canon
    | with_reducible apply storeElem_canon | with_reducible apply effect_canon | with_reducible apply ifOk_canon
    | with_reducible apply next_canon | split | intro _

theorem execTileSave_canon {f : FrondRef} {n : ℕ} {s : State} (h_s : s.Canonical) :
    AnswerCanonical (execTileSave f n s) := by
  unfold execTileSave
  repeat' first
    | with_reducible assumption | with_reducible apply runFrond_canon | with_reducible apply saveUnit_canon

theorem execTileRestore_canon {f : FrondRef} {n : ℕ} {s : State} (h_s : s.Canonical) :
    AnswerCanonical (execTileRestore f n s) := by
  unfold execTileRestore
  repeat' first
    | with_reducible assumption | with_reducible apply runFrond_canon | with_reducible apply restoreUnit_canon

theorem execTileSuspendDiscard_canon {f : FrondRef} {s : State} (h_s : s.Canonical) :
    AnswerCanonical (execTileSuspendDiscard f s) := by
  unfold execTileSuspendDiscard
  repeat' first
    | with_reducible assumption | with_reducible apply effect_canon | with_reducible apply pendAt_canon
    | with_reducible apply advanceTo_canon | with_reducible apply effect_canon | with_reducible apply ifOk_canon
    | with_reducible apply next_canon | split

theorem execAdd_canon {f : FrondRef} {n : ℕ} {s : State} (h_s : s.Canonical) :
    AnswerCanonical (execAdd f n s) := by
  unfold execAdd
  repeat' first
    | with_reducible assumption | with_reducible apply runFrond_canon | with_reducible apply ewUnit_canon

theorem execSub_canon {f : FrondRef} {n : ℕ} {s : State} (h_s : s.Canonical) :
    AnswerCanonical (execSub f n s) := by
  unfold execSub
  repeat' first
    | with_reducible assumption | with_reducible apply runFrond_canon | with_reducible apply ewUnit_canon

theorem execMul_canon {f : FrondRef} {n : ℕ} {s : State} (h_s : s.Canonical) :
    AnswerCanonical (execMul f n s) := by
  unfold execMul
  repeat' first
    | with_reducible assumption | with_reducible apply runFrond_canon | with_reducible apply ewUnit_canon

theorem execFma_canon {f : FrondRef} {n : ℕ} {s : State} (h_s : s.Canonical) :
    AnswerCanonical (execFma f n s) := by
  unfold execFma
  repeat' first
    | with_reducible assumption | with_reducible apply runFrond_canon | with_reducible apply ewUnit_canon

theorem execMin_canon {f : FrondRef} {n : ℕ} {s : State} (h_s : s.Canonical) :
    AnswerCanonical (execMin f n s) := by
  unfold execMin
  repeat' first
    | with_reducible assumption | with_reducible apply runFrond_canon | with_reducible apply ewUnit_canon

theorem execMax_canon {f : FrondRef} {n : ℕ} {s : State} (h_s : s.Canonical) :
    AnswerCanonical (execMax f n s) := by
  unfold execMax
  repeat' first
    | with_reducible assumption | with_reducible apply runFrond_canon | with_reducible apply ewUnit_canon

theorem execAbs_canon {f : FrondRef} {n : ℕ} {s : State} (h_s : s.Canonical) :
    AnswerCanonical (execAbs f n s) := by
  unfold execAbs
  repeat' first
    | with_reducible assumption | with_reducible apply runFrond_canon | with_reducible apply ewUnit_canon

theorem execNeg_canon {f : FrondRef} {n : ℕ} {s : State} (h_s : s.Canonical) :
    AnswerCanonical (execNeg f n s) := by
  unfold execNeg
  repeat' first
    | with_reducible assumption | with_reducible apply runFrond_canon | with_reducible apply ewUnit_canon

theorem execDiv_canon {f : FrondRef} {n : ℕ} {s : State} (h_s : s.Canonical) :
    AnswerCanonical (execDiv f n s) := by
  unfold execDiv
  repeat' first
    | with_reducible assumption | with_reducible apply runFrond_canon | with_reducible apply ewUnit_canon

theorem execSqrt_canon {f : FrondRef} {n : ℕ} {s : State} (h_s : s.Canonical) :
    AnswerCanonical (execSqrt f n s) := by
  unfold execSqrt
  repeat' first
    | with_reducible assumption | with_reducible apply runFrond_canon | with_reducible apply ewUnit_canon

theorem execCmp_canon {f : FrondRef} {n : ℕ} {s : State} (h_s : s.Canonical) :
    AnswerCanonical (execCmp f n s) := by
  unfold execCmp
  repeat' first
    | with_reducible assumption | with_reducible apply runFrond_canon | with_reducible apply ewUnit_canon

theorem execSelect_canon {f : FrondRef} {n : ℕ} {s : State} (h_s : s.Canonical) :
    AnswerCanonical (execSelect f n s) := by
  unfold execSelect
  repeat' first
    | with_reducible assumption | with_reducible apply runFrond_canon | with_reducible apply ewUnit_canon

theorem execLogic_canon {f : FrondRef} {n : ℕ} {s : State} (h_s : s.Canonical) :
    AnswerCanonical (execLogic f n s) := by
  unfold execLogic
  repeat' first
    | with_reducible assumption | with_reducible apply runFrond_canon | with_reducible apply ewUnit_canon

theorem execShift_canon {f : FrondRef} {n : ℕ} {s : State} (h_s : s.Canonical) :
    AnswerCanonical (execShift f n s) := by
  unfold execShift
  repeat' first
    | with_reducible assumption | with_reducible apply runFrond_canon | with_reducible apply ewUnit_canon

theorem execRadd_canon {f : FrondRef} {n : ℕ} {s : State} (h_s : s.Canonical) :
    AnswerCanonical (execRadd f n s) := by
  unfold execRadd
  repeat' first
    | with_reducible assumption | with_reducible apply runFrond_canon | with_reducible apply ewUnit_canon

theorem execRsub_canon {f : FrondRef} {n : ℕ} {s : State} (h_s : s.Canonical) :
    AnswerCanonical (execRsub f n s) := by
  unfold execRsub
  repeat' first
    | with_reducible assumption | with_reducible apply runFrond_canon | with_reducible apply ewUnit_canon

theorem execRmul_canon {f : FrondRef} {n : ℕ} {s : State} (h_s : s.Canonical) :
    AnswerCanonical (execRmul f n s) := by
  unfold execRmul
  repeat' first
    | with_reducible assumption | with_reducible apply runFrond_canon | with_reducible apply ewUnit_canon

theorem execLanePermute_canon {f : FrondRef} {n : ℕ} {s : State} (h_s : s.Canonical) :
    AnswerCanonical (execLanePermute f n s) := by
  unfold execLanePermute
  repeat' first
    | with_reducible assumption | with_reducible apply runFrond_canon | with_reducible apply laneUnit_canon

theorem execBroadcast_canon {f : FrondRef} {n : ℕ} {s : State} (h_s : s.Canonical) :
    AnswerCanonical (execBroadcast f n s) := by
  unfold execBroadcast
  repeat' first
    | with_reducible assumption | with_reducible apply runFrond_canon | with_reducible apply broadcastUnit_canon

theorem execRsum_canon {f : FrondRef} {n : ℕ} {s : State} (h_s : s.Canonical) :
    AnswerCanonical (execRsum f n s) := by
  unfold execRsum
  repeat' first
    | with_reducible assumption | with_reducible apply runFrond_canon | with_reducible apply reduceUnit_canon

theorem execRmax_canon {f : FrondRef} {n : ℕ} {s : State} (h_s : s.Canonical) :
    AnswerCanonical (execRmax f n s) := by
  unfold execRmax
  repeat' first
    | with_reducible assumption | with_reducible apply runFrond_canon | with_reducible apply reduceUnit_canon

theorem execRmin_canon {f : FrondRef} {n : ℕ} {s : State} (h_s : s.Canonical) :
    AnswerCanonical (execRmin f n s) := by
  unfold execRmin
  repeat' first
    | with_reducible assumption | with_reducible apply runFrond_canon | with_reducible apply reduceUnit_canon

theorem execRargmax_canon {f : FrondRef} {n : ℕ} {s : State} (h_s : s.Canonical) :
    AnswerCanonical (execRargmax f n s) := by
  unfold execRargmax
  repeat' first
    | with_reducible assumption | with_reducible apply runFrond_canon | with_reducible apply reduceUnit_canon

theorem execConvert_canon {f : FrondRef} {n : ℕ} {s : State} (h_s : s.Canonical) :
    AnswerCanonical (execConvert f n s) := by
  unfold execConvert
  repeat' first
    | with_reducible assumption | with_reducible apply runFrond_canon | with_reducible apply convUnit_canon

theorem execPackInt4_canon {f : FrondRef} {n : ℕ} {s : State} (h_s : s.Canonical) :
    AnswerCanonical (execPackInt4 f n s) := by
  unfold execPackInt4
  repeat' first
    | with_reducible assumption | with_reducible apply runFrond_canon | with_reducible apply convUnit_canon

theorem execUnpackInt4_canon {f : FrondRef} {n : ℕ} {s : State} (h_s : s.Canonical) :
    AnswerCanonical (execUnpackInt4 f n s) := by
  unfold execUnpackInt4
  repeat' first
    | with_reducible assumption | with_reducible apply runFrond_canon | with_reducible apply convUnit_canon

theorem execMatmul_canon {f : FrondRef} {n : ℕ} {s : State} (h_s : s.Canonical) :
    AnswerCanonical (execMatmul f n s) := by
  unfold execMatmul
  repeat' first
    | with_reducible assumption | with_reducible apply runFrond_canon | with_reducible apply matUnit_canon

theorem execMatmulAcc_canon {f : FrondRef} {n : ℕ} {s : State} (h_s : s.Canonical) :
    AnswerCanonical (execMatmulAcc f n s) := by
  unfold execMatmulAcc
  repeat' first
    | with_reducible assumption | with_reducible apply runFrond_canon | with_reducible apply matUnit_canon

theorem execMatmulEpi_canon {f : FrondRef} {n : ℕ} {s : State} (h_s : s.Canonical) :
    AnswerCanonical (execMatmulEpi f n s) := by
  unfold execMatmulEpi
  repeat' first
    | with_reducible assumption | with_reducible apply runFrond_canon | with_reducible apply matUnit_canon

theorem execResMatmul_canon {f : FrondRef} {n : ℕ} {s : State} (h_s : s.Canonical) :
    AnswerCanonical (execResMatmul f n s) := by
  unfold execResMatmul
  repeat' first
    | with_reducible assumption | with_reducible apply runFrond_canon | with_reducible apply matUnit_canon

theorem execNtt_canon {f : FrondRef} {n : ℕ} {s : State} (h_s : s.Canonical) :
    AnswerCanonical (execNtt f n s) := by
  unfold execNtt
  repeat' first
    | with_reducible assumption | with_reducible apply runFrond_canon | with_reducible apply polyUnit_canon

theorem execIntt_canon {f : FrondRef} {n : ℕ} {s : State} (h_s : s.Canonical) :
    AnswerCanonical (execIntt f n s) := by
  unfold execIntt
  repeat' first
    | with_reducible assumption | with_reducible apply runFrond_canon | with_reducible apply polyUnit_canon

theorem execPadd_canon {f : FrondRef} {n : ℕ} {s : State} (h_s : s.Canonical) :
    AnswerCanonical (execPadd f n s) := by
  unfold execPadd
  repeat' first
    | with_reducible assumption | with_reducible apply runFrond_canon | with_reducible apply polyUnit_canon

theorem execPsub_canon {f : FrondRef} {n : ℕ} {s : State} (h_s : s.Canonical) :
    AnswerCanonical (execPsub f n s) := by
  unfold execPsub
  repeat' first
    | with_reducible assumption | with_reducible apply runFrond_canon | with_reducible apply polyUnit_canon

theorem execPmul_canon {f : FrondRef} {n : ℕ} {s : State} (h_s : s.Canonical) :
    AnswerCanonical (execPmul f n s) := by
  unfold execPmul
  repeat' first
    | with_reducible assumption | with_reducible apply runFrond_canon | with_reducible apply polyUnit_canon

theorem execPmulPlain_canon {f : FrondRef} {n : ℕ} {s : State} (h_s : s.Canonical) :
    AnswerCanonical (execPmulPlain f n s) := by
  unfold execPmulPlain
  repeat' first
    | with_reducible assumption | with_reducible apply runFrond_canon | with_reducible apply polyUnit_canon

theorem execPneg_canon {f : FrondRef} {n : ℕ} {s : State} (h_s : s.Canonical) :
    AnswerCanonical (execPneg f n s) := by
  unfold execPneg
  repeat' first
    | with_reducible assumption | with_reducible apply runFrond_canon | with_reducible apply polyUnit_canon

theorem execRescale_canon {f : FrondRef} {n : ℕ} {s : State} (h_s : s.Canonical) :
    AnswerCanonical (execRescale f n s) := by
  unfold execRescale
  repeat' first
    | with_reducible assumption | with_reducible apply runFrond_canon | with_reducible apply polyUnit_canon

theorem execModraise_canon {f : FrondRef} {n : ℕ} {s : State} (h_s : s.Canonical) :
    AnswerCanonical (execModraise f n s) := by
  unfold execModraise
  repeat' first
    | with_reducible assumption | with_reducible apply runFrond_canon | with_reducible apply polyUnit_canon

theorem execBaseconvP_canon {f : FrondRef} {n : ℕ} {s : State} (h_s : s.Canonical) :
    AnswerCanonical (execBaseconvP f n s) := by
  unfold execBaseconvP
  repeat' first
    | with_reducible assumption | with_reducible apply runFrond_canon | with_reducible apply polyUnit_canon

theorem execModdrop_canon {f : FrondRef} {n : ℕ} {s : State} (h_s : s.Canonical) :
    AnswerCanonical (execModdrop f n s) := by
  unfold execModdrop
  repeat' first
    | with_reducible assumption | with_reducible apply runFrond_canon | with_reducible apply polyUnit_canon

theorem execTensor_canon {f : FrondRef} {n : ℕ} {s : State} (h_s : s.Canonical) :
    AnswerCanonical (execTensor f n s) := by
  unfold execTensor
  repeat' first
    | with_reducible assumption | with_reducible apply runFrond_canon | with_reducible apply polyUnit_canon

theorem execBaseconvM_canon {f : FrondRef} {n : ℕ} {s : State} (h_s : s.Canonical) :
    AnswerCanonical (execBaseconvM f n s) := by
  unfold execBaseconvM
  repeat' first
    | with_reducible assumption | with_reducible apply runFrond_canon | with_reducible apply polyUnit_canon

theorem execFixToRes_canon {f : FrondRef} {n : ℕ} {s : State} (h_s : s.Canonical) :
    AnswerCanonical (execFixToRes f n s) := by
  unfold execFixToRes
  repeat' first
    | with_reducible assumption | with_reducible apply runFrond_canon | with_reducible apply fixUnit_canon

theorem execResToFix_canon {f : FrondRef} {n : ℕ} {s : State} (h_s : s.Canonical) :
    AnswerCanonical (execResToFix f n s) := by
  unfold execResToFix
  repeat' first
    | with_reducible assumption | with_reducible apply runFrond_canon | with_reducible apply fixUnit_canon

theorem execFunc_canon {f : FrondRef} {n : ℕ} {s : State} (h_s : s.Canonical) :
    AnswerCanonical (execFunc f n s) := by
  unfold execFunc
  repeat' first
    | with_reducible assumption | with_reducible apply runFrond_canon | with_reducible apply funcUnit_canon

theorem execMoments_canon {f : FrondRef} {n : ℕ} {s : State} (h_s : s.Canonical) :
    AnswerCanonical (execMoments f n s) := by
  unfold execMoments
  repeat' first
    | with_reducible assumption | with_reducible apply runFrond_canon | with_reducible apply segUnit_canon
    | with_reducible apply momentsSeg_canon | with_reducible apply effect_canon | with_reducible apply ifOk_canon
    | with_reducible apply next_canon | split | intro _

theorem execLayernorm_canon {f : FrondRef} {n : ℕ} {s : State} (h_s : s.Canonical) :
    AnswerCanonical (execLayernorm f n s) := by
  unfold execLayernorm
  repeat' first
    | with_reducible assumption | with_reducible apply runFrond_canon | with_reducible apply segUnit_canon
    | with_reducible apply layerSeg_canon | with_reducible apply effect_canon | with_reducible apply ifOk_canon
    | with_reducible apply next_canon | split | intro _

theorem execRmsnorm_canon {f : FrondRef} {n : ℕ} {s : State} (h_s : s.Canonical) :
    AnswerCanonical (execRmsnorm f n s) := by
  unfold execRmsnorm
  repeat' first
    | with_reducible assumption | with_reducible apply runFrond_canon | with_reducible apply segUnit_canon
    | with_reducible apply rmsSeg_canon | with_reducible apply effect_canon | with_reducible apply ifOk_canon
    | with_reducible apply next_canon | split | intro _

theorem execSoftmaxStep_canon {f : FrondRef} {n : ℕ} {s : State} (h_s : s.Canonical) :
    AnswerCanonical (execSoftmaxStep f n s) := by
  unfold execSoftmaxStep
  repeat' first
    | with_reducible assumption | with_reducible apply runFrond_canon | with_reducible apply segUnit_canon
    | with_reducible apply stepRow_canon | with_reducible apply effect_canon | with_reducible apply ifOk_canon
    | with_reducible apply next_canon | split | intro _

theorem execSoftmaxCorrect_canon {f : FrondRef} {n : ℕ} {s : State} (h_s : s.Canonical) :
    AnswerCanonical (execSoftmaxCorrect f n s) := by
  unfold execSoftmaxCorrect
  repeat' first
    | with_reducible assumption | with_reducible apply runFrond_canon | with_reducible apply segUnit_canon
    | with_reducible apply correctRow_canon | with_reducible apply effect_canon | with_reducible apply ifOk_canon
    | with_reducible apply next_canon | split | intro _

theorem execMove_canon {f : FrondRef} {n : ℕ} {s : State} (h_s : s.Canonical) :
    AnswerCanonical (execMove f n s) := by
  unfold execMove
  repeat' first
    | with_reducible assumption | with_reducible apply runFrond_canon | with_reducible apply copyUnit_canon

theorem execFill_canon {f : FrondRef} {n : ℕ} {s : State} (h_s : s.Canonical) :
    AnswerCanonical (execFill f n s) := by
  unfold execFill
  repeat' first
    | with_reducible assumption | with_reducible apply runFrond_canon | with_reducible apply fillUnit_canon

theorem execPrefetch_canon {f : FrondRef} {n : ℕ} {s : State} (h_s : s.Canonical) :
    AnswerCanonical (execPrefetch f n s) := by
  unfold execPrefetch
  repeat' first
    | with_reducible assumption | with_reducible apply runFrond_canon | with_reducible apply copyUnit_canon

theorem execCopy_canon {f : FrondRef} {n : ℕ} {s : State} (h_s : s.Canonical) :
    AnswerCanonical (execCopy f n s) := by
  unfold execCopy
  repeat' first
    | with_reducible assumption | with_reducible apply runFrond_canon | with_reducible apply copyUnit_canon

theorem execRelayout_canon {f : FrondRef} {n : ℕ} {s : State} (h_s : s.Canonical) :
    AnswerCanonical (execRelayout f n s) := by
  unfold execRelayout
  repeat' first
    | with_reducible assumption | with_reducible apply runFrond_canon | with_reducible apply copyUnit_canon

theorem execTranspose_canon {f : FrondRef} {n : ℕ} {s : State} (h_s : s.Canonical) :
    AnswerCanonical (execTranspose f n s) := by
  unfold execTranspose
  repeat' first
    | with_reducible assumption | with_reducible apply runFrond_canon | with_reducible apply transposeUnit_canon

theorem execPermute_canon {f : FrondRef} {n : ℕ} {s : State} (h_s : s.Canonical) :
    AnswerCanonical (execPermute f n s) := by
  unfold execPermute
  repeat' first
    | with_reducible assumption | with_reducible apply runFrond_canon | with_reducible apply permuteUnit_canon

theorem execGather_canon {f : FrondRef} {n : ℕ} {s : State} (h_s : s.Canonical) :
    AnswerCanonical (execGather f n s) := by
  unfold execGather
  repeat' first
    | with_reducible assumption | with_reducible apply runFrond_canon | with_reducible apply gatherUnit_canon

theorem execScatter_canon {f : FrondRef} {n : ℕ} {s : State} (h_s : s.Canonical) :
    AnswerCanonical (execScatter f n s) := by
  unfold execScatter
  repeat' first
    | with_reducible assumption | with_reducible apply runFrond_canon | with_reducible apply scatterUnit_canon

theorem execScatterAdd_canon {f : FrondRef} {n : ℕ} {s : State} (h_s : s.Canonical) :
    AnswerCanonical (execScatterAdd f n s) := by
  unfold execScatterAdd
  repeat' first
    | with_reducible assumption | with_reducible apply runFrond_canon | with_reducible apply scatterAddUnit_canon

theorem execKeyswitch_canon {f : FrondRef} {n : ℕ} {s : State} (h_s : s.Canonical) :
    AnswerCanonical (execKeyswitch f n s) := by
  unfold execKeyswitch
  repeat' first
    | with_reducible assumption | with_reducible apply runFrond_canon | with_reducible apply kUnit_canon

theorem execRelin_canon {f : FrondRef} {n : ℕ} {s : State} (h_s : s.Canonical) :
    AnswerCanonical (execRelin f n s) := by
  unfold execRelin
  repeat' first
    | with_reducible assumption | with_reducible apply runFrond_canon | with_reducible apply kUnit_canon

theorem execRotate_canon {f : FrondRef} {n : ℕ} {s : State} (h_s : s.Canonical) :
    AnswerCanonical (execRotate f n s) := by
  unfold execRotate
  repeat' first
    | with_reducible assumption | with_reducible apply runFrond_canon | with_reducible apply kUnit_canon

theorem execConj_canon {f : FrondRef} {n : ℕ} {s : State} (h_s : s.Canonical) :
    AnswerCanonical (execConj f n s) := by
  unfold execConj
  repeat' first
    | with_reducible assumption | with_reducible apply runFrond_canon | with_reducible apply kUnit_canon

theorem execHoistDecomp_canon {f : FrondRef} {n : ℕ} {s : State} (h_s : s.Canonical) :
    AnswerCanonical (execHoistDecomp f n s) := by
  unfold execHoistDecomp
  repeat' first
    | with_reducible assumption | with_reducible apply runFrond_canon | with_reducible apply kUnit_canon

theorem execHoistRotate_canon {f : FrondRef} {n : ℕ} {s : State} (h_s : s.Canonical) :
    AnswerCanonical (execHoistRotate f n s) := by
  unfold execHoistRotate
  repeat' first
    | with_reducible assumption | with_reducible apply runFrond_canon | with_reducible apply kUnit_canon

theorem execAutomorph_canon {f : FrondRef} {n : ℕ} {s : State} (h_s : s.Canonical) :
    AnswerCanonical (execAutomorph f n s) := by
  unfold execAutomorph
  repeat' first
    | with_reducible assumption | with_reducible apply runFrond_canon | with_reducible apply kUnit_canon

theorem ofKind_canon {k : ℕ} {f : FrondRef} {s : State} {a : Answer} (h_s : s.Canonical) (h_a : AnswerCanonical (a)) :
    AnswerCanonical (ofKind k f s a) := by
  unfold ofKind
  repeat' first
    | with_reducible assumption | with_reducible apply effect_canon | with_reducible apply ifOk_canon
    | with_reducible apply next_canon | split

theorem execTeeApply_canon {f : FrondRef} {n : ℕ} {s : State} (h_s : s.Canonical) :
    AnswerCanonical (execTeeApply f n s) := by
  unfold execTeeApply
  repeat' first
    | with_reducible assumption | with_reducible apply effect_canon | with_reducible apply teeApply_canon
    | with_reducible apply effect_canon | with_reducible apply ifOk_canon | with_reducible apply next_canon | split

theorem execEpochSnapshot_canon {f : FrondRef} {n : ℕ} {s : State} (h_s : s.Canonical) :
    AnswerCanonical (execEpochSnapshot f n s) := by
  unfold execEpochSnapshot
  repeat' first
    | with_reducible assumption | with_reducible apply ofKind_canon | with_reducible apply runFrond_canon
    | with_reducible apply epochUnit_canon

theorem execEpochRestore_canon {f : FrondRef} {n : ℕ} {s : State} (h_s : s.Canonical) :
    AnswerCanonical (execEpochRestore f n s) := by
  unfold execEpochRestore
  repeat' first
    | with_reducible assumption | with_reducible apply ofKind_canon | with_reducible apply runFrond_canon
    | with_reducible apply epochUnit_canon

theorem execGemmaFill_canon {f : FrondRef} {n : ℕ} {s : State} (h_s : s.Canonical) :
    AnswerCanonical (execGemmaFill f n s) := by
  unfold execGemmaFill
  repeat' first
    | with_reducible assumption | with_reducible apply runFrond_canon | with_reducible apply fillUnitOut_canon

theorem execStandinMarkCommit_canon {f : FrondRef} {n : ℕ} {s : State} (h_s : s.Canonical) :
    AnswerCanonical (execStandinMarkCommit f n s) := by
  unfold execStandinMarkCommit
  repeat' first
    | with_reducible assumption | with_reducible apply effect_canon | with_reducible apply commitRun_canon

theorem execStandinMarkBoundary_canon {f : FrondRef} {n : ℕ} {s : State} (h_s : s.Canonical) :
    AnswerCanonical (execStandinMarkBoundary f n s) := by
  unfold execStandinMarkBoundary
  repeat' first
    | with_reducible assumption | with_reducible apply ofKind_canon | with_reducible apply runFrond_canon
    | with_reducible apply boundaryUnit_canon

theorem execNop_canon {f : FrondRef} {n : ℕ} {s : State} (h_s : s.Canonical) :
    AnswerCanonical (execNop f n s) := by
  unfold execNop
  repeat' first
    | with_reducible assumption | with_reducible apply runFrond_canon | with_reducible apply effect_canon
    | with_reducible apply ifOk_canon | with_reducible apply next_canon | split | intro _

theorem execWait_canon {f : FrondRef} {n : ℕ} {s : State} (h_s : s.Canonical) :
    AnswerCanonical (execWait f n s) := by
  unfold execWait
  repeat' first
    | with_reducible assumption | with_reducible apply runFrond_canon | with_reducible apply effect_canon
    | with_reducible apply ifOk_canon | with_reducible apply next_canon | split | intro _

theorem execSignal_canon {f : FrondRef} {n : ℕ} {s : State} (h_s : s.Canonical) :
    AnswerCanonical (execSignal f n s) := by
  unfold execSignal
  repeat' first
    | with_reducible assumption | with_reducible apply runFrond_canon | with_reducible apply effect_canon
    | with_reducible apply ifOk_canon | with_reducible apply next_canon | split | intro _

theorem execFence_canon {f : FrondRef} {n : ℕ} {s : State} (h_s : s.Canonical) :
    AnswerCanonical (execFence f n s) := by
  unfold execFence
  repeat' first
    | with_reducible assumption | with_reducible apply runFrond_canon | with_reducible apply effect_canon
    | with_reducible apply ifOk_canon | with_reducible apply next_canon | split | intro _

theorem execBarrier_canon {f : FrondRef} {n : ℕ} {s : State} (h_s : s.Canonical) :
    AnswerCanonical (execBarrier f n s) := by
  unfold execBarrier
  repeat' first
    | with_reducible assumption | with_reducible apply effect_canon | with_reducible apply barrierUnit_canon
    | with_reducible apply effect_canon | with_reducible apply ifOk_canon | with_reducible apply next_canon | split

theorem execSelftest_canon {f : FrondRef} {n : ℕ} {fails : List CellSel} {s : State} (h_s : s.Canonical) :
    AnswerCanonical (execSelftest f n fails s) := by
  unfold execSelftest
  repeat' first
    | with_reducible assumption | with_reducible apply runFrond_canon | with_reducible apply testUnit_canon

theorem execScrubRange_canon {f : FrondRef} {n : ℕ} {s : State} (h_s : s.Canonical) :
    AnswerCanonical (execScrubRange f n s) := by
  unfold execScrubRange
  repeat' first
    | with_reducible assumption | with_reducible apply runFrond_canon | with_reducible apply scrubUnit_canon

theorem execLogMark_canon {f : FrondRef} {n : ℕ} {s : State} (h_s : s.Canonical) :
    AnswerCanonical (execLogMark f n s) := by
  unfold execLogMark
  repeat' first
    | with_reducible assumption | with_reducible apply runFrond_canon | with_reducible apply markUnit_canon

theorem execHandoffAccessGrant_canon {f : FrondRef} {s : State} (h_s : s.Canonical) :
    AnswerCanonical (execHandoffAccessGrant f s) := by
  unfold execHandoffAccessGrant
  repeat' first
    | with_reducible assumption | with_reducible apply effect_canon | with_reducible apply presentAgain_canon

theorem execHandoffTimeout_canon {f : FrondRef} {s : State} (h_s : s.Canonical) :
    AnswerCanonical (execHandoffTimeout f s) := by
  unfold execHandoffTimeout
  repeat' first
    | with_reducible assumption | with_reducible apply effect_canon | with_reducible apply waitExpires_canon

theorem execCircAccessGrant_canon {f : FrondRef} {s : State} (h_s : s.Canonical) :
    AnswerCanonical (execCircAccessGrant f s) := by
  unfold execCircAccessGrant
  repeat' first
    | with_reducible assumption | with_reducible apply effect_canon | with_reducible apply presentAgain_canon

theorem execCircTimeout_canon {f : FrondRef} {s : State} (h_s : s.Canonical) :
    AnswerCanonical (execCircTimeout f s) := by
  unfold execCircTimeout
  repeat' first
    | with_reducible assumption | with_reducible apply effect_canon | with_reducible apply waitExpires_canon

theorem execSampleExtract_canon {f : FrondRef} {n : ℕ} {s : State} (h_s : s.Canonical) :
    AnswerCanonical (execSampleExtract f n s) := by
  unfold execSampleExtract
  repeat' first
    | with_reducible assumption | with_reducible apply runFrond_canon | with_reducible apply xUnit_canon

theorem execLweKeyswitch_canon {f : FrondRef} {n : ℕ} {s : State} (h_s : s.Canonical) :
    AnswerCanonical (execLweKeyswitch f n s) := by
  unfold execLweKeyswitch
  repeat' first
    | with_reducible assumption | with_reducible apply runFrond_canon | with_reducible apply xUnit_canon

theorem execBlindRotate_canon {f : FrondRef} {n : ℕ} {s : State} (h_s : s.Canonical) :
    AnswerCanonical (execBlindRotate f n s) := by
  unfold execBlindRotate
  repeat' first
    | with_reducible assumption | with_reducible apply runFrond_canon | with_reducible apply xUnit_canon

theorem execRepack_canon {f : FrondRef} {n : ℕ} {s : State} (h_s : s.Canonical) :
    AnswerCanonical (execRepack f n s) := by
  unfold execRepack
  repeat' first
    | with_reducible assumption | with_reducible apply runFrond_canon | with_reducible apply xUnit_canon

theorem execMaskedExport_canon {f : FrondRef} {n : ℕ} {s : State} (h_s : s.Canonical) :
    AnswerCanonical (execMaskedExport f n s) := by
  unfold execMaskedExport
  repeat' first
    | with_reducible assumption | with_reducible apply runFrond_canon | with_reducible apply xUnit_canon

theorem execMaskedImport_canon {f : FrondRef} {n : ℕ} {s : State} (h_s : s.Canonical) :
    AnswerCanonical (execMaskedImport f n s) := by
  unfold execMaskedImport
  repeat' first
    | with_reducible assumption | with_reducible apply runFrond_canon | with_reducible apply xUnit_canon

theorem execShareSplit_canon {f : FrondRef} {n : ℕ} {s : State} (h_s : s.Canonical) :
    AnswerCanonical (execShareSplit f n s) := by
  unfold execShareSplit
  repeat' first
    | with_reducible assumption | with_reducible apply runFrond_canon | with_reducible apply shareUnit_canon
    | with_reducible apply splitElem_canon | with_reducible apply effect_canon | with_reducible apply ifOk_canon
    | with_reducible apply next_canon | split | intro _

theorem execBeaverMul_canon {f : FrondRef} {n : ℕ} {s : State} (h_s : s.Canonical) :
    AnswerCanonical (execBeaverMul f n s) := by
  unfold execBeaverMul
  repeat' first
    | with_reducible assumption | with_reducible apply runFrond_canon | with_reducible apply shareUnit_canon
    | with_reducible apply beaverElem_canon | with_reducible apply effect_canon | with_reducible apply ifOk_canon
    | with_reducible apply next_canon | split | intro _

theorem execShareOpen_canon {f : FrondRef} {n : ℕ} {s : State} (h_s : s.Canonical) :
    AnswerCanonical (execShareOpen f n s) := by
  unfold execShareOpen
  repeat' first
    | with_reducible assumption | with_reducible apply runFrond_canon | with_reducible apply openUnit_canon

theorem execRandError_canon {f : FrondRef} {n : ℕ} {s : State} (h_s : s.Canonical) :
    AnswerCanonical (execRandError f n s) := by
  unfold execRandError
  repeat' first
    | with_reducible assumption | with_reducible apply runFrond_canon | with_reducible apply shareUnit_canon
    | with_reducible apply randElem_canon | with_reducible apply effect_canon | with_reducible apply ifOk_canon
    | with_reducible apply next_canon | split | intro _

theorem execRandUniform_canon {f : FrondRef} {n : ℕ} {s : State} (h_s : s.Canonical) :
    AnswerCanonical (execRandUniform f n s) := by
  unfold execRandUniform
  repeat' first
    | with_reducible assumption | with_reducible apply runFrond_canon | with_reducible apply shareUnit_canon
    | with_reducible apply randElem_canon | with_reducible apply effect_canon | with_reducible apply ifOk_canon
    | with_reducible apply next_canon | split | intro _

theorem execFlood_canon {f : FrondRef} {n : ℕ} {s : State} (h_s : s.Canonical) :
    AnswerCanonical (execFlood f n s) := by
  unfold execFlood
  repeat' first
    | with_reducible assumption | with_reducible apply runFrond_canon | with_reducible apply shareUnit_canon
    | with_reducible apply floodElem_canon | with_reducible apply effect_canon | with_reducible apply ifOk_canon
    | with_reducible apply next_canon | split | intro _

theorem execMask_canon {f : FrondRef} {n : ℕ} {s : State} (h_s : s.Canonical) :
    AnswerCanonical (execMask f n s) := by
  unfold execMask
  repeat' first
    | with_reducible assumption | with_reducible apply runFrond_canon | with_reducible apply shareUnit_canon
    | with_reducible apply randElem_canon | with_reducible apply effect_canon | with_reducible apply ifOk_canon
    | with_reducible apply next_canon | split | intro _

theorem execFrondDecode_canon {r : Fin 8} {s : State} (h_s : s.Canonical) :
    AnswerCanonical (execFrondDecode r s) := by
  unfold execFrondDecode
  repeat' first
    | with_reducible assumption | with_reducible apply effect_canon | with_reducible apply decodeStep_canon

theorem execFrondAccept_canon {r : Fin 8} {s : State} (h_s : s.Canonical) :
    AnswerCanonical (execFrondAccept r s) := by
  unfold execFrondAccept
  repeat' first
    | with_reducible assumption | with_reducible apply effect_canon | with_reducible apply acceptStep_canon

theorem execSkippedFrondRelease_canon {f : FrondRef} {s : State} (h_s : s.Canonical) :
    AnswerCanonical (execSkippedFrondRelease f s) := by
  unfold execSkippedFrondRelease
  repeat' first
    | with_reducible assumption | with_reducible apply effect_canon | with_reducible apply skippedRelease_canon

theorem execFrondComplete_canon {f : FrondRef} {b : Word} {s : State} (h_s : s.Canonical) :
    AnswerCanonical (execFrondComplete f b s) := by
  unfold execFrondComplete
  repeat' first
    | with_reducible assumption | with_reducible apply effect_canon | with_reducible apply frondComplete_canon

theorem execPacedRelease_canon {f : FrondRef} {s : State} (h_s : s.Canonical) :
    AnswerCanonical (execPacedRelease f s) := by
  unfold execPacedRelease
  repeat' first
    | with_reducible assumption | with_reducible apply effect_canon | with_reducible apply pacedRelease_canon

theorem execRunAhead_canon {f : FrondRef} {slot : Fin 4} {n : ℕ} {s : State} (h_s : s.Canonical) :
    AnswerCanonical (execRunAhead f slot n s) := by
  unfold execRunAhead
  repeat' first
    | with_reducible assumption | with_reducible apply effect_canon | with_reducible apply runAhead_canon

theorem execBarrierReleaseAtT_canon {f : FrondRef} {s : State} (h_s : s.Canonical) :
    AnswerCanonical (execBarrierReleaseAtT f s) := by
  unfold execBarrierReleaseAtT
  repeat' first
    | with_reducible assumption | with_reducible apply effect_canon | with_reducible apply barrierRelease_canon

theorem execPowerGoodRise_canon {e : StartEnv} {s : State} (h_s : s.Canonical) :
    AnswerCanonical (execPowerGoodRise e s) := by
  unfold execPowerGoodRise
  repeat' first
    | with_reducible assumption | with_reducible apply ifOk_canon | with_reducible apply powerRise_canon

theorem execPowerGoodFall_canon {s : State} (h_s : s.Canonical) :
    AnswerCanonical (execPowerGoodFall s) := by
  unfold execPowerGoodFall
  repeat' first
    | with_reducible assumption | with_reducible apply effect_canon | with_reducible apply powerFall_canon

theorem execResetNFall_canon {s : State} (h_s : s.Canonical) :
    AnswerCanonical (execResetNFall s) := by
  unfold execResetNFall
  repeat' first
    | with_reducible assumption | with_reducible apply effect_canon | with_reducible apply resetFall_canon

theorem execResetNRise_canon {e : StartEnv} {s : State} (h_s : s.Canonical) :
    AnswerCanonical (execResetNRise e s) := by
  unfold execResetNRise
  repeat' first
    | with_reducible assumption | with_reducible apply ifOk_canon | with_reducible apply resetRise_canon

theorem execLinkUp_canon {p : Fin 16} {t : TrainInfo} {s : State} (h_s : s.Canonical) :
    AnswerCanonical (execLinkUp p t s) := by
  unfold execLinkUp
  repeat' first
    | with_reducible assumption | with_reducible apply effect_canon | with_reducible apply afterLinks_canon
    | with_reducible apply linkUp_canon

theorem execLinkTrainingTimeout_canon {s : State} (h_s : s.Canonical) :
    AnswerCanonical (execLinkTrainingTimeout s) := by
  unfold execLinkTrainingTimeout
  repeat' first
    | with_reducible assumption | with_reducible apply effect_canon | with_reducible apply linkTimeout_canon

theorem execAlign_canon {p : Fin 16} {k : Packet} {s : State} (h_s : s.Canonical) :
    AnswerCanonical (execAlign p k s) := by
  unfold execAlign
  repeat' first
    | with_reducible assumption | with_reducible apply ifOk_canon | with_reducible apply afterAlign_canon
    | with_reducible apply receive_canon | with_reducible apply takeAlign_canon

theorem execAlignTimeout_canon {s : State} (h_s : s.Canonical) :
    AnswerCanonical (execAlignTimeout s) := by
  unfold execAlignTimeout
  repeat' first
    | with_reducible assumption | with_reducible apply effect_canon | with_reducible apply alignTimeout_canon

end Sys2Proof.Machine
end

