-- ==== Sys2Proof/Laws/MemBase.lean ====
section
/-! SUPPORT. The rules by which a meaning is shown to leave every byte of memory and of the tiles as it was. -/

namespace Sys2Proof.Machine
open Sys2Proof

/-- Memory and tiles hold in `t` what they hold in `s0`. -/
structure KeepsMem (s0 t : State) : Prop where
  mem : t.mem = s0.mem
  tiles : t.tiles = s0.tiles

theorem KeepsMem.rfl {s : State} : KeepsMem s s := ⟨Eq.refl _, Eq.refl _⟩

/-- Whatever next state an answer names holds the memory and the tiles of `s0`. -/
def AnswerKeepsMem (s0 : State) (a : Answer) : Prop := ∀ t, a = .next t → KeepsMem s0 t

theorem effect_keepsMem {s0 s t : State} (h : KeepsMem s0 t) : AnswerKeepsMem s0 (effect s t) := by
  intro u hu
  cases hu
  exact ⟨h.mem, h.tiles⟩

theorem ifOk_keepsMem {s0 s t : State} {b : Bool} (h : KeepsMem s0 t) : AnswerKeepsMem s0 (ifOk s b t) := by
  unfold ifOk
  split
  · exact effect_keepsMem h
  · intro u hu; cases hu

theorem next_keepsMem {s0 s : State} (h : KeepsMem s0 s) : AnswerKeepsMem s0 (.next s) := by
  intro u hu; cases hu; exact h

theorem setReg_keepsMem {s0 s : State} {o : Nat} {v : Word} (h : KeepsMem s0 s) : KeepsMem s0 (setReg s o v) :=
  ⟨h.mem, h.tiles⟩

end Sys2Proof.Machine
end

