-- ==== Sys2Proof/Laws/MemState.lean ====
section
/-! SUPPORT. Operations that leave every byte of memory and of the tiles as it was: registers, the event log, queues and links. -/

namespace Sys2Proof.Machine
open Sys2Proof

/-! ### Ops -/

theorem setF_keepsMem {s0 : State} {s : State} {o : ℕ} {lo : ℕ} {n : ℕ} {v : ℕ} (h_s : KeepsMem s0 s) :
    KeepsMem s0 (setF s o lo n v) := by
  unfold setF
  repeat' first
    | with_reducible assumption | with_reducible apply setReg_keepsMem

theorem setB_keepsMem {s0 : State} {s : State} {o : ℕ} {i : ℕ} {b : Bool} (h_s : KeepsMem s0 s) :
    KeepsMem s0 (setB s o i b) := by
  unfold setB
  repeat' first
    | with_reducible assumption | with_reducible apply setF_keepsMem

theorem bump_keepsMem {s0 : State} {s : State} {o : ℕ} {k : ℕ} (h_s : KeepsMem s0 s) :
    KeepsMem s0 (bump s o k) := by
  unfold bump
  repeat' first
    | with_reducible assumption | with_reducible apply setReg_keepsMem

theorem bump32_keepsMem {s0 : State} {s : State} {o : ℕ} {k : ℕ} (h_s : KeepsMem s0 s) :
    KeepsMem s0 (bump32 s o k) := by
  unfold bump32
  repeat' first
    | with_reducible assumption | with_reducible apply setF_keepsMem

theorem bumpUnits_keepsMem {s0 : State} {s : State} {o : ℕ} {u : ℕ} {k : ℕ} (h_s : KeepsMem s0 s) :
    KeepsMem s0 (bumpUnits s o u k) := by
  unfold bumpUnits
  repeat' first
    | with_reducible assumption | with_reducible apply bump_keepsMem | dsimp only | with_reducible apply KeepsMem.mem
    | with_reducible apply KeepsMem.tiles | (refine KeepsMem.mk ?_ ?_ <;> dsimp only)

theorem takeFree_keepsMem {s0 : State} {s : State} (h_s : KeepsMem s0 s) :
    KeepsMem s0 ((takeFree s).2) := by
  unfold takeFree
  repeat' first
    | with_reducible assumption | dsimp only | with_reducible apply KeepsMem.mem | with_reducible apply KeepsMem.tiles
    | (refine KeepsMem.mk ?_ ?_ <;> dsimp only)

theorem advanceTo_keepsMem {s0 : State} {s : State} {b : ℕ} (h_s : KeepsMem s0 s) :
    KeepsMem s0 (advanceTo s b) := by
  unfold advanceTo
  repeat' first
    | with_reducible assumption | with_reducible apply setReg_keepsMem | with_reducible apply bump_keepsMem | split

theorem countNd_keepsMem {s0 : State} {s : State} {o : ℕ} {k : ℕ} (h_s : KeepsMem s0 s) :
    KeepsMem s0 (countNd s o k) := by
  unfold countNd
  repeat' first
    | with_reducible assumption | with_reducible apply bump_keepsMem

theorem setPort_keepsMem {s0 : State} {s : State} {p : ℕ} {x : PortState} (h_s : KeepsMem s0 s) :
    KeepsMem s0 (setPort s p x) := by
  unfold setPort
  repeat' first
    | with_reducible assumption | split | dsimp only | with_reducible apply KeepsMem.mem
    | with_reducible apply KeepsMem.tiles | (refine KeepsMem.mk ?_ ?_ <;> dsimp only)

theorem emit_keepsMem {s0 : State} {s : State} {x : HostOut} (h_s : KeepsMem s0 s) :
    KeepsMem s0 (emit s x) := by
  unfold emit
  repeat' first
    | with_reducible assumption | dsimp only | with_reducible apply KeepsMem.mem | with_reducible apply KeepsMem.tiles
    | (refine KeepsMem.mk ?_ ?_ <;> dsimp only)

theorem sendVector_keepsMem {s0 : State} {s : State} {p : ℕ} {v : ℕ} (h_s : KeepsMem s0 s) :
    KeepsMem s0 (sendVector s p v) := by
  unfold sendVector
  repeat' first
    | with_reducible assumption | with_reducible apply emit_keepsMem | split | dsimp only
    | with_reducible apply KeepsMem.mem | with_reducible apply KeepsMem.tiles
    | (refine KeepsMem.mk ?_ ?_ <;> dsimp only)

theorem raiseOn_keepsMem {s0 : State} {s : State} {p : ℕ} {src : ℕ} (h_s : KeepsMem s0 s) :
    KeepsMem s0 (raiseOn s p src) := by
  unfold raiseOn
  repeat' first
    | with_reducible assumption | with_reducible apply sendVector_keepsMem | with_reducible apply setB_keepsMem | split

theorem raiseIrq_keepsMem {s0 : State} {s : State} {src : ℕ} (h_s : KeepsMem s0 s) :
    KeepsMem s0 (raiseIrq s src) := by
  unfold raiseIrq
  repeat' first
    | with_reducible assumption | with_reducible apply raiseOn_keepsMem

theorem logEntry_keepsMem {s0 : State} {s : State} {e : LogEntry} (h_s : KeepsMem s0 s) :
    KeepsMem s0 (logEntry s e) := by
  unfold logEntry
  dsimp only
  split
  · exact ⟨h_s.mem, h_s.tiles⟩
  · split
    · split
      · exact ⟨h_s.mem, h_s.tiles⟩
      · exact h_s
    · split
      · exact bump32_keepsMem ⟨h_s.mem, h_s.tiles⟩
      · exact ⟨h_s.mem, h_s.tiles⟩

theorem logEv_keepsMem {s0 : State} {s : State} {code : ℕ} {cls : ℕ} {idx : ℕ} {pay : ℕ} (h_s : KeepsMem s0 s) :
    KeepsMem s0 (logEv s code cls idx pay) := by
  unfold logEv
  repeat' first
    | with_reducible assumption | with_reducible apply logEntry_keepsMem

theorem logQueue_keepsMem {s0 : State} {s : State} {code : ℕ} {r : ℕ} {pay : ℕ} (h_s : KeepsMem s0 s) :
    KeepsMem s0 (logQueue s code r pay) := by
  unfold logQueue
  repeat' first
    | with_reducible assumption | with_reducible apply logEv_keepsMem

theorem logChip_keepsMem {s0 : State} {s : State} {code : ℕ} {pay : ℕ} (h_s : KeepsMem s0 s) :
    KeepsMem s0 (logChip s code pay) := by
  unfold logChip
  repeat' first
    | with_reducible assumption | with_reducible apply logEv_keepsMem

theorem logMaster_keepsMem {s0 : State} {s : State} {code : ℕ} {m : Master} {addr : ℕ} (h_s : KeepsMem s0 s) :
    KeepsMem s0 (logMaster s code m addr) := by
  unfold logMaster
  repeat' first
    | with_reducible assumption | with_reducible apply logEv_keepsMem

/-! ### Mem -/

theorem countMatPoison_keepsMem {s0 : State} {s : State} {r : ℕ} {up : Bool} (h_s : KeepsMem s0 s) :
    KeepsMem s0 (countMatPoison s r up) := by
  unfold countMatPoison
  repeat' first
    | with_reducible assumption | with_reducible apply setF_keepsMem

theorem countTowPoison_keepsMem {s0 : State} {s : State} {t : ℕ} {up : Bool} (h_s : KeepsMem s0 s) :
    KeepsMem s0 (countTowPoison s t up) := by
  unfold countTowPoison
  repeat' first
    | with_reducible assumption | with_reducible apply setReg_keepsMem

theorem poisonLine_keepsMem {s0 : State} {s : State} {l : ℕ} (h_s : KeepsMem s0 s) :
    KeepsMem s0 (poisonLine s l) := by
  unfold poisonLine
  repeat' first
    | with_reducible assumption | with_reducible apply countMatPoison_keepsMem | split | dsimp only
    | with_reducible apply KeepsMem.mem | with_reducible apply KeepsMem.tiles
    | (refine KeepsMem.mk ?_ ?_ <;> dsimp only)

theorem clearLine_keepsMem {s0 : State} {s : State} {l : ℕ} (h_s : KeepsMem s0 s) :
    KeepsMem s0 (clearLine s l) := by
  unfold clearLine
  repeat' first
    | with_reducible assumption | with_reducible apply countMatPoison_keepsMem | split | dsimp only
    | with_reducible apply KeepsMem.mem | with_reducible apply KeepsMem.tiles
    | (refine KeepsMem.mk ?_ ?_ <;> dsimp only)

theorem poisonGranule_keepsMem {s0 : State} {s : State} {g : ℕ} (h_s : KeepsMem s0 s) :
    KeepsMem s0 (poisonGranule s g) := by
  unfold poisonGranule
  repeat' first
    | with_reducible assumption | with_reducible apply countTowPoison_keepsMem | split | dsimp only
    | with_reducible apply KeepsMem.mem | with_reducible apply KeepsMem.tiles
    | (refine KeepsMem.mk ?_ ?_ <;> dsimp only)

theorem clearGranule_keepsMem {s0 : State} {s : State} {g : ℕ} (h_s : KeepsMem s0 s) :
    KeepsMem s0 (clearGranule s g) := by
  unfold clearGranule
  repeat' first
    | with_reducible assumption | with_reducible apply countTowPoison_keepsMem | split | dsimp only
    | with_reducible apply KeepsMem.mem | with_reducible apply KeepsMem.tiles
    | (refine KeepsMem.mk ?_ ?_ <;> dsimp only)

theorem poisonAt_keepsMem {s0 : State} {s : State} {a : ℕ} (h_s : KeepsMem s0 s) :
    KeepsMem s0 (poisonAt s a) := by
  unfold poisonAt
  repeat' first
    | with_reducible assumption | with_reducible apply poisonGranule_keepsMem | with_reducible apply poisonLine_keepsMem | split

theorem matReport_keepsMem {s0 : State} {s : State} {r : ℕ} {o : ℕ} {kind : ℕ} {code : ℕ} (h_s : KeepsMem s0 s) :
    KeepsMem s0 (matReport s r o kind code) := by
  unfold matReport
  repeat' first
    | with_reducible assumption | with_reducible apply logEv_keepsMem | with_reducible apply setF_keepsMem

theorem towReport_keepsMem {s0 : State} {s : State} {h : ℕ} {kind : ℕ} {code : ℕ} (h_s : KeepsMem s0 s) :
    KeepsMem s0 (towReport s h kind code) := by
  unfold towReport
  repeat' first
    | with_reducible assumption | with_reducible apply logEv_keepsMem | with_reducible apply setF_keepsMem

theorem dropUpset_keepsMem {s0 : State} {s : State} {k : ℕ} (h_s : KeepsMem s0 s) :
    KeepsMem s0 (dropUpset s k) := by
  unfold dropUpset
  repeat' first
    | with_reducible assumption | intro _ | dsimp only | with_reducible apply KeepsMem.mem
    | with_reducible apply KeepsMem.tiles | (refine KeepsMem.mk ?_ ?_ <;> dsimp only)

theorem readHbm_keepsMem {s0 : State} {s : State} {h : ℕ} {res : Bool} (h_s : KeepsMem s0 s) :
    KeepsMem s0 (readHbm s h res) := by
  unfold readHbm
  repeat' first
    | with_reducible assumption | with_reducible apply poisonGranule_keepsMem | with_reducible apply towReport_keepsMem
    | with_reducible apply bump_keepsMem | split | dsimp only

theorem readMat_keepsMem {s0 : State} {s : State} {r : ℕ} {o : ℕ} {producer : Bool} (h_s : KeepsMem s0 s) :
    KeepsMem s0 (readMat s r o producer) := by
  unfold readMat
  repeat' first
    | with_reducible assumption | with_reducible apply poisonLine_keepsMem | with_reducible apply matReport_keepsMem
    | with_reducible apply bump32_keepsMem | with_reducible apply dropUpset_keepsMem | with_reducible apply countNd_keepsMem | split
    | dsimp only

theorem noteRead_keepsMem {s0 : State} {s : State} {a : ℕ} {res : Bool} {producer : Bool} (h_s : KeepsMem s0 s) :
    KeepsMem s0 (noteRead s a res producer) := by
  unfold noteRead
  repeat' first
    | with_reducible assumption | with_reducible apply readHbm_keepsMem | with_reducible apply readMat_keepsMem | split

/-! ### Tables -/

theorem snapshotDone_keepsMem {s0 : State} {s : State} (h_s : KeepsMem s0 s) :
    KeepsMem s0 (snapshotDone s) := by
  unfold snapshotDone
  repeat' first
    | with_reducible assumption | with_reducible apply forRange_keeps | with_reducible apply setB_keepsMem
    | with_reducible apply setF_keepsMem | with_reducible apply logEv_keepsMem | intro _ | split | dsimp only | exact rfl
    | with_reducible apply KeepsMem.mem | with_reducible apply KeepsMem.tiles
    | (refine KeepsMem.mk ?_ ?_ <;> dsimp only)

theorem restoreDone_keepsMem {s0 : State} {s : State} (h_s : KeepsMem s0 s) :
    KeepsMem s0 (restoreDone s) := by
  unfold restoreDone
  repeat' first
    | with_reducible assumption | with_reducible apply setReg_keepsMem | dsimp only | with_reducible apply KeepsMem.mem
    | with_reducible apply KeepsMem.tiles | (refine KeepsMem.mk ?_ ?_ <;> dsimp only)

/-! ### Fronds -/

theorem putFrond_keepsMem {s0 : State} {s : State} {f : Frond} (h_s : KeepsMem s0 s) :
    KeepsMem s0 (putFrond s f) := by
  unfold putFrond
  repeat' first
    | with_reducible assumption | intro _ | split | dsimp only | with_reducible apply KeepsMem.mem
    | with_reducible apply KeepsMem.tiles | (refine KeepsMem.mk ?_ ?_ <;> dsimp only)

theorem dropFrond_keepsMem {s0 : State} {s : State} {f : Frond} (h_s : KeepsMem s0 s) :
    KeepsMem s0 (dropFrond s f) := by
  unfold dropFrond
  repeat' first
    | with_reducible assumption | intro _ | dsimp only | with_reducible apply KeepsMem.mem
    | with_reducible apply KeepsMem.tiles | (refine KeepsMem.mk ?_ ?_ <;> dsimp only)

theorem consumeWaits_keepsMem {s0 : State} {s : State} {f : Frond} (h_s : KeepsMem s0 s) :
    KeepsMem s0 (consumeWaits s f) := by
  unfold consumeWaits
  repeat' first
    | with_reducible assumption | with_reducible apply foldl_keeps | with_reducible apply setF_keepsMem | intro _

theorem noteSignal_keepsMem {s0 : State} {s : State} {o : ℕ} {n : ℕ} (h_s : KeepsMem s0 s) :
    KeepsMem s0 (noteSignal s o n) := by
  unfold noteSignal
  repeat' first
    | with_reducible assumption | dsimp only | with_reducible apply KeepsMem.mem | with_reducible apply KeepsMem.tiles
    | (refine KeepsMem.mk ?_ ?_ <;> dsimp only)

theorem signal_keepsMem {s0 : State} {s : State} {r : ℕ} {t : TokWord} (h_s : KeepsMem s0 s) :
    KeepsMem s0 (signal s r t) := by
  unfold signal
  repeat' first
    | with_reducible assumption | with_reducible apply noteSignal_keepsMem | with_reducible apply setF_keepsMem
    | with_reducible apply logQueue_keepsMem | with_reducible apply logChip_keepsMem | split | dsimp only

theorem applySignals_keepsMem {s0 : State} {s : State} {f : Frond} (h_s : KeepsMem s0 s) :
    KeepsMem s0 (applySignals s f) := by
  unfold applySignals
  repeat' first
    | with_reducible assumption | with_reducible apply foldl_keeps | with_reducible apply signal_keepsMem | intro _

theorem logFrondAt_keepsMem {s0 : State} {s : State} {f : Frond} {b : ℕ} {code : ℕ} {pay : ℕ} (h_s : KeepsMem s0 s) :
    KeepsMem s0 (logFrondAt s f b code pay) := by
  unfold logFrondAt
  repeat' first
    | with_reducible assumption | with_reducible apply logEntry_keepsMem

theorem logFrond_keepsMem {s0 : State} {s : State} {f : Frond} {code : ℕ} {pay : ℕ} (h_s : KeepsMem s0 s) :
    KeepsMem s0 (logFrond s f code pay) := by
  unfold logFrond
  repeat' first
    | with_reducible assumption | with_reducible apply logFrondAt_keepsMem

theorem logUnit_keepsMem {s0 : State} {s : State} {f : Frond} {code : ℕ} {cls : ℕ} {idx : ℕ} {pay : ℕ} (h_s : KeepsMem s0 s) :
    KeepsMem s0 (logUnit s f code cls idx pay) := by
  unfold logUnit
  repeat' first
    | with_reducible assumption | with_reducible apply logEntry_keepsMem

theorem unpend_keepsMem {s0 : State} {s : State} {f : Frond} (h_s : KeepsMem s0 s) :
    KeepsMem s0 (unpend s f) := by
  unfold unpend
  repeat' first
    | with_reducible assumption | with_reducible apply foldl_keeps | with_reducible apply setB_keepsMem | intro _ | split
    | dsimp only | with_reducible apply KeepsMem.mem | with_reducible apply KeepsMem.tiles
    | (refine KeepsMem.mk ?_ ?_ <;> dsimp only)

theorem pendAt_keepsMem {s0 : State} {s : State} {f : Frond} (h_s : KeepsMem s0 s) :
    KeepsMem s0 (pendAt s f) := by
  unfold pendAt
  repeat' first
    | with_reducible assumption | with_reducible apply putFrond_keepsMem | with_reducible apply foldl_keeps
    | with_reducible apply setB_keepsMem | with_reducible apply setF_keepsMem | intro _

theorem noteServed_keepsMem {s0 : State} {s : State} {f : Frond} (h_s : KeepsMem s0 s) :
    KeepsMem s0 (noteServed s f) := by
  unfold noteServed
  repeat' first
    | with_reducible assumption | with_reducible apply foldl_keeps | with_reducible apply setReg_keepsMem | intro _ | split

theorem poisonUnit_keepsMem {s0 : State} {s : State} {d : Slot} {p : ℤ} (h_s : KeepsMem s0 s) :
    KeepsMem s0 (poisonUnit s d p) := by
  unfold poisonUnit
  repeat' first
    | with_reducible assumption | with_reducible apply forRange_keeps | with_reducible apply poisonAt_keepsMem | intro _
    | split

theorem poisonSlot_keepsMem {s0 : State} {s : State} {f : Frond} {i : ℕ} (h_s : KeepsMem s0 s) :
    KeepsMem s0 (poisonSlot s f i) := by
  unfold poisonSlot
  repeat' first
    | with_reducible assumption | with_reducible apply forRange_keeps | with_reducible apply poisonUnit_keepsMem | intro _
    | split | dsimp only

theorem poisonTile_keepsMem {s0 : State} {s : State} {k : ℕ} {b : Bool} (h_s : KeepsMem s0 s) :
    KeepsMem s0 (poisonTile s k b) := by
  unfold poisonTile
  repeat' first
    | with_reducible assumption | with_reducible apply setB_keepsMem

theorem clearWhole_keepsMem {s0 : State} {s : State} {f : Frond} (h_s : KeepsMem s0 s) :
    KeepsMem s0 (clearWhole s f) := by
  unfold clearWhole
  repeat' first
    | with_reducible assumption | with_reducible apply foldl_keeps | with_reducible apply clearGranule_keepsMem
    | with_reducible apply poisonTile_keepsMem | with_reducible apply clearLine_keepsMem | intro _ | split

theorem openEp_keepsMem {s0 : State} {s : State} {k : ℕ} (h_s : KeepsMem s0 s) :
    KeepsMem s0 (openEp s k) := by
  unfold openEp
  repeat' first
    | with_reducible assumption | dsimp only | with_reducible apply KeepsMem.mem | with_reducible apply KeepsMem.tiles
    | (refine KeepsMem.mk ?_ ?_ <;> dsimp only)

theorem closeEp_keepsMem {s0 : State} {s : State} {k : ℕ} (h_s : KeepsMem s0 s) :
    KeepsMem s0 (closeEp s k) := by
  unfold closeEp
  repeat' first
    | with_reducible assumption | dsimp only | with_reducible apply KeepsMem.mem | with_reducible apply KeepsMem.tiles
    | (refine KeepsMem.mk ?_ ?_ <;> dsimp only)

theorem oncePer_keepsMem {s0 : State} {s : State} {k : ℕ} {ev : State → State} (h_s : KeepsMem s0 s) (h_ev : (∀ y0, KeepsMem s0 y0 → KeepsMem s0 (ev y0))) :
    KeepsMem s0 (oncePer s k ev) := by
  unfold oncePer
  repeat' first
    | with_reducible assumption | with_reducible apply h_ev | with_reducible apply openEp_keepsMem | split

theorem noteMiss_keepsMem {s0 : State} {s : State} {f : Frond} {b : ℕ} (h_s : KeepsMem s0 s) :
    KeepsMem s0 (noteMiss s f b) := by
  unfold noteMiss
  repeat' first
    | with_reducible assumption | with_reducible apply bump_keepsMem | with_reducible apply logFrondAt_keepsMem
    | with_reducible apply raiseIrq_keepsMem | split | dsimp only

theorem advanceHead_keepsMem {s0 : State} {s : State} {r : ℕ} {q : ℕ} {x3 : ℕ} (h_s : KeepsMem s0 s) :
    KeepsMem s0 (advanceHead s r q x3) := by
  revert h_s
  fun_induction advanceHead s r q x3
  all_goals
    try rename_i ih
    intro h_s
    repeat' first
      | with_reducible assumption | with_reducible apply ih | with_reducible apply setF_keepsMem | split | dsimp only
      | dsimp +zetaDelta only | with_reducible apply KeepsMem.mem | with_reducible apply KeepsMem.tiles
      | (refine KeepsMem.mk ?_ ?_ <;> dsimp only)

theorem imageStep_keepsMem {s0 : State} {s : State} {r : ℕ} {q : ℕ} (h_s : KeepsMem s0 s) :
    KeepsMem s0 (imageStep s r q) := by
  unfold imageStep
  repeat' first
    | with_reducible assumption | with_reducible apply logQueue_keepsMem | with_reducible apply setB_keepsMem
    | with_reducible apply setF_keepsMem | intro _ | split | dsimp only | with_reducible apply KeepsMem.mem
    | with_reducible apply KeepsMem.tiles | (refine KeepsMem.mk ?_ ?_ <;> dsimp only)

theorem tileRelease_keepsMem {s0 : State} {s : State} {f : Frond} (h_s : KeepsMem s0 s) :
    KeepsMem s0 (tileRelease s f) := by
  unfold tileRelease
  repeat' first
    | with_reducible assumption | with_reducible apply setReg_keepsMem | intro _ | split | dsimp only
    | with_reducible apply KeepsMem.mem | with_reducible apply KeepsMem.tiles
    | (refine KeepsMem.mk ?_ ?_ <;> dsimp only)

theorem failRelease_keepsMem {s0 : State} {s : State} {f : Frond} (h_s : KeepsMem s0 s) :
    KeepsMem s0 (failRelease s f) := by
  unfold failRelease
  repeat' first
    | with_reducible assumption | with_reducible apply restoreDone_keepsMem | with_reducible apply snapshotDone_keepsMem
    | intro _ | split | dsimp only | exact rfl | with_reducible apply KeepsMem.mem
    | with_reducible apply KeepsMem.tiles | (refine KeepsMem.mk ?_ ?_ <;> dsimp only)

theorem countSwitch_keepsMem {s0 : State} {s : State} {f : Frond} (h_s : KeepsMem s0 s) :
    KeepsMem s0 (countSwitch s f) := by
  unfold countSwitch
  repeat' first
    | with_reducible assumption | with_reducible apply bump_keepsMem | split

/-! ### Gate -/

theorem gated_keepsMem {s0 : State} {s : State} {m : Master} {o : ℕ} {eff : State → State} (h_s : KeepsMem s0 s) (h_eff : (∀ y0, KeepsMem s0 y0 → KeepsMem s0 (eff y0))) :
    KeepsMem s0 (gated s m o eff) := by
  unfold gated
  repeat' first
    | with_reducible assumption | with_reducible apply h_eff | with_reducible apply logMaster_keepsMem | split

/-! ### QueueRegs -/

theorem logQueueReg_keepsMem {s0 : State} {s : State} {code : ℕ} {r : ℕ} {q : ℕ} {o : ℕ} (h_s : KeepsMem s0 s) :
    KeepsMem s0 (logQueueReg s code r q o) := by
  unfold logQueueReg
  repeat' first
    | with_reducible assumption | with_reducible apply logQueue_keepsMem

theorem wrQtail_keepsMem {s0 : State} {s : State} {r : ℕ} {q : ℕ} {t : ℕ} (h_s : KeepsMem s0 s) :
    KeepsMem s0 (wrQtail s r q t) := by
  unfold wrQtail
  repeat' first
    | with_reducible assumption | with_reducible apply setF_keepsMem | with_reducible apply logQueueReg_keepsMem | intro _
    | split | dsimp only | with_reducible apply KeepsMem.mem | with_reducible apply KeepsMem.tiles
    | (refine KeepsMem.mk ?_ ?_ <;> dsimp only)

theorem fetchBad_keepsMem {s0 : State} {s : State} {r : ℕ} {q : ℕ} {a : ℕ} (h_s : KeepsMem s0 s) :
    KeepsMem s0 (fetchBad s r q a) := by
  unfold fetchBad
  repeat' first
    | with_reducible assumption | with_reducible apply logQueue_keepsMem | with_reducible apply setB_keepsMem | split

theorem startImage_keepsMem {s0 : State} {s : State} {r : ℕ} {q : ℕ} (h_s : KeepsMem s0 s) :
    KeepsMem s0 (startImage s r q) := by
  unfold startImage
  repeat' first
    | with_reducible assumption | with_reducible apply setF_keepsMem | with_reducible apply logQueue_keepsMem
    | with_reducible apply setB_keepsMem | with_reducible apply fetchBad_keepsMem | split | dsimp only
    | with_reducible apply KeepsMem.mem | with_reducible apply KeepsMem.tiles
    | (refine KeepsMem.mk ?_ ?_ <;> dsimp only)

theorem wrEnable_keepsMem {s0 : State} {s : State} {r : ℕ} {q : ℕ} {en : Bool} (h_s : KeepsMem s0 s) :
    KeepsMem s0 (wrEnable s r q en) := by
  unfold wrEnable
  repeat' first
    | with_reducible assumption | with_reducible apply setB_keepsMem | with_reducible apply startImage_keepsMem | split
    | dsimp only

theorem wrRestart_keepsMem {s0 : State} {s : State} {r : ℕ} {q : ℕ} (h_s : KeepsMem s0 s) :
    KeepsMem s0 (wrRestart s r q) := by
  unfold wrRestart
  repeat' first
    | with_reducible assumption | with_reducible apply startImage_keepsMem | with_reducible apply setB_keepsMem | split

theorem wrQueueBase_keepsMem {s0 : State} {s : State} {r : ℕ} {q : ℕ} {o : ℕ} {v : Word} (h_s : KeepsMem s0 s) :
    KeepsMem s0 (wrQueueBase s r q o v) := by
  unfold wrQueueBase
  repeat' first
    | with_reducible assumption | with_reducible apply logQueueReg_keepsMem | with_reducible apply setF_keepsMem | split

theorem wrCrcfg_keepsMem {s0 : State} {s : State} {r : ℕ} {q : ℕ} {v : Word} (h_s : KeepsMem s0 s) :
    KeepsMem s0 (wrCrcfg s r q v) := by
  unfold wrCrcfg
  repeat' first
    | with_reducible assumption | with_reducible apply logQueueReg_keepsMem | with_reducible apply setF_keepsMem | split

theorem wrQctrl_keepsMem {s0 : State} {s : State} {r : ℕ} {q : ℕ} {v : Word} (h_s : KeepsMem s0 s) :
    KeepsMem s0 (wrQctrl s r q v) := by
  unfold wrQctrl
  repeat' first
    | with_reducible assumption | with_reducible apply wrEnable_keepsMem | with_reducible apply logQueueReg_keepsMem
    | with_reducible apply setB_keepsMem | with_reducible apply wrRestart_keepsMem | split

theorem wrQueueCfg_keepsMem {s0 : State} {s : State} {r : ℕ} {q : ℕ} {k : QueueCfg} {v : Word} (h_s : KeepsMem s0 s) :
    KeepsMem s0 (wrQueueCfg s r q k v) := by
  unfold wrQueueCfg
  repeat' first
    | with_reducible assumption | with_reducible apply wrQueueBase_keepsMem | with_reducible apply closeEp_keepsMem
    | with_reducible apply wrCrcfg_keepsMem | with_reducible apply wrQctrl_keepsMem | split

/-! ### Abort -/

theorem withdrawArrival_keepsMem {s0 : State} {s : State} {f : Frond} (h_s : KeepsMem s0 s) :
    KeepsMem s0 (withdrawArrival s f) := by
  unfold withdrawArrival
  repeat' first
    | with_reducible assumption | intro _ | dsimp only | with_reducible apply KeepsMem.mem
    | with_reducible apply KeepsMem.tiles | (refine KeepsMem.mk ?_ ?_ <;> dsimp only)

theorem abortFrond_keepsMem {s0 : State} {s : State} {f : Frond} (h_s : KeepsMem s0 s) :
    KeepsMem s0 (abortFrond s f) := by
  unfold abortFrond
  repeat' first
    | with_reducible assumption | with_reducible apply withdrawArrival_keepsMem | with_reducible apply putFrond_keepsMem | split

theorem abortOne_keepsMem {s0 : State} {s : State} {r : ℕ} {q : ℕ} {k : ℕ} (h_s : KeepsMem s0 s) :
    KeepsMem s0 (abortOne s r q k) := by
  unfold abortOne
  repeat' first
    | with_reducible assumption | with_reducible apply abortFrond_keepsMem | intro _ | split | dsimp only
    | with_reducible apply KeepsMem.mem | with_reducible apply KeepsMem.tiles
    | (refine KeepsMem.mk ?_ ?_ <;> dsimp only)

theorem wrAbort_keepsMem {s0 : State} {s : State} {r : ℕ} {q : ℕ} {seq : ℕ} {scope : ℕ} (h_s : KeepsMem s0 s) :
    KeepsMem s0 (wrAbort s r q seq scope) := by
  unfold wrAbort
  repeat' first
    | with_reducible assumption | with_reducible apply foldl_keeps | with_reducible apply abortOne_keepsMem
    | with_reducible apply logEntry_keepsMem | intro _

theorem wrPreempt_keepsMem {s0 : State} {s : State} {r : ℕ} {q : ℕ} {mode : ℕ} (h_s : KeepsMem s0 s) :
    KeepsMem s0 (wrPreempt s r q mode) := by
  unfold wrPreempt
  repeat' first
    | with_reducible assumption | with_reducible apply setB_keepsMem | intro _ | split | dsimp only
    | with_reducible apply KeepsMem.mem | with_reducible apply KeepsMem.tiles
    | (refine KeepsMem.mk ?_ ?_ <;> dsimp only)

theorem wrResume_keepsMem {s0 : State} {s : State} {r : ℕ} {q : ℕ} (h_s : KeepsMem s0 s) :
    KeepsMem s0 (wrResume s r q) := by
  unfold wrResume
  repeat' first
    | with_reducible assumption | with_reducible apply setB_keepsMem | intro _ | split | dsimp only
    | with_reducible apply KeepsMem.mem | with_reducible apply KeepsMem.tiles
    | (refine KeepsMem.mk ?_ ?_ <;> dsimp only)

theorem undecode_keepsMem {s0 : State} {s : State} {r : ℕ} {q : ℕ} (h_s : KeepsMem s0 s) :
    KeepsMem s0 (undecode s r q) := by
  unfold undecode
  repeat' first
    | with_reducible assumption | with_reducible apply setF_keepsMem | intro _ | dsimp only
    | with_reducible apply KeepsMem.mem | with_reducible apply KeepsMem.tiles
    | (refine KeepsMem.mk ?_ ?_ <;> dsimp only)

theorem preemptDone_keepsMem {s0 : State} {s : State} {r : ℕ} {q : ℕ} (h_s : KeepsMem s0 s) :
    KeepsMem s0 (preemptDone s r q) := by
  unfold preemptDone
  repeat' first
    | with_reducible assumption | with_reducible apply logQueue_keepsMem | with_reducible apply setB_keepsMem
    | with_reducible apply undecode_keepsMem | intro _ | split | dsimp only | with_reducible apply KeepsMem.mem
    | with_reducible apply KeepsMem.tiles | (refine KeepsMem.mk ?_ ?_ <;> dsimp only)

/-! ### Primes -/

theorem primeBad_keepsMem {s0 : State} {s : State} {k : ℕ} {cause : ℕ} (h_s : KeepsMem s0 s) :
    KeepsMem s0 (primeBad s k cause) := by
  unfold primeBad
  repeat' first
    | with_reducible assumption | with_reducible apply logEv_keepsMem | with_reducible apply setF_keepsMem

theorem loadPrime_keepsMem {s0 : State} {s : State} {k : ℕ} {q : ℕ} {root : ℕ} (h_s : KeepsMem s0 s) :
    KeepsMem s0 (loadPrime s k q root) := by
  unfold loadPrime
  repeat' first
    | with_reducible assumption | with_reducible apply setF_keepsMem | with_reducible apply setReg_keepsMem
    | with_reducible apply primeBad_keepsMem | intro _ | split

theorem loadPrimes_keepsMem {s0 : State} {s : State} {table : List Byte} (h_s : KeepsMem s0 s) :
    KeepsMem s0 (loadPrimes s table) := by
  unfold loadPrimes
  repeat' first
    | with_reducible assumption | with_reducible apply logEv_keepsMem | with_reducible apply setB_keepsMem
    | with_reducible apply forRange_keeps | with_reducible apply loadPrime_keepsMem | intro _

/-! ### Link -/

theorem setLinkPort_keepsMem {s0 : State} {s : State} {p : ℕ} {x : LinkPort} (h_s : KeepsMem s0 s) :
    KeepsMem s0 (setLinkPort s p x) := by
  unfold setLinkPort
  repeat' first
    | with_reducible assumption | dsimp only | with_reducible apply KeepsMem.mem | with_reducible apply KeepsMem.tiles
    | (refine KeepsMem.mk ?_ ?_ <;> dsimp only)

theorem logLink_keepsMem {s0 : State} {s : State} {code : ℕ} {p : ℕ} {reason : ℕ} {addr : ℕ} (h_s : KeepsMem s0 s) :
    KeepsMem s0 (logLink s code p reason addr) := by
  unfold logLink
  repeat' first
    | with_reducible assumption | with_reducible apply logEv_keepsMem

theorem transmit_keepsMem {s0 : State} {s : State} {p : ℕ} {k : Packet} (h_s : KeepsMem s0 s) :
    KeepsMem s0 (transmit s p k) := by
  unfold transmit
  repeat' first
    | with_reducible assumption | with_reducible apply setLinkPort_keepsMem | with_reducible apply bump_keepsMem | intro _
    | dsimp only | with_reducible apply KeepsMem.mem | with_reducible apply KeepsMem.tiles
    | (refine KeepsMem.mk ?_ ?_ <;> dsimp only)

theorem drainPort_keepsMem {s0 : State} {s : State} {p : ℕ} {x2 : ℕ} (h_s : KeepsMem s0 s) :
    KeepsMem s0 (drainPort s p x2) := by
  revert h_s
  fun_induction drainPort s p x2
  all_goals
    try rename_i ih
    intro h_s
    repeat' first
      | with_reducible assumption | with_reducible apply ih | with_reducible apply transmit_keepsMem
      | with_reducible apply setLinkPort_keepsMem

theorem sendOn_keepsMem {s0 : State} {s : State} {p : ℕ} {k : Packet} (h_s : KeepsMem s0 s) :
    KeepsMem s0 (sendOn s p k) := by
  unfold sendOn
  repeat' first
    | with_reducible assumption | with_reducible apply drainPort_keepsMem | with_reducible apply setLinkPort_keepsMem | split

theorem routeOut_keepsMem {s0 : State} {s : State} {k : Packet} {die : ℕ} (h_s : KeepsMem s0 s) :
    KeepsMem s0 (routeOut s k die) := by
  unfold routeOut
  repeat' first
    | with_reducible assumption | with_reducible apply logChip_keepsMem | with_reducible apply bump_keepsMem
    | with_reducible apply sendOn_keepsMem | with_reducible apply countNd_keepsMem | split

theorem inject_keepsMem {s0 : State} {s : State} {k : Packet} (h_s : KeepsMem s0 s) :
    KeepsMem s0 (inject s k) := by
  unfold inject
  repeat' first
    | with_reducible assumption | with_reducible apply routeOut_keepsMem | split | dsimp only
    | with_reducible apply KeepsMem.mem | with_reducible apply KeepsMem.tiles
    | (refine KeepsMem.mk ?_ ?_ <;> dsimp only)

theorem sendAll_keepsMem {s0 : State} {s : State} {k : Packet} {except : Option ℕ} (h_s : KeepsMem s0 s) :
    KeepsMem s0 (sendAll s k except) := by
  unfold sendAll
  repeat' first
    | with_reducible assumption | with_reducible apply forRange_keeps | with_reducible apply sendOn_keepsMem | intro _
    | split

theorem commitAlias_keepsMem {s0 : State} {s : State} {i : ℕ} {valid : Bool} {l : ℕ} {p : ℕ} {dead : Bool} (h_s : KeepsMem s0 s) :
    KeepsMem s0 (commitAlias s i valid l p dead) := by
  unfold commitAlias
  repeat' first
    | with_reducible assumption | with_reducible apply logChip_keepsMem | with_reducible apply setReg_keepsMem | intro _ | split
    | dsimp only | with_reducible apply KeepsMem.mem | with_reducible apply KeepsMem.tiles
    | (refine KeepsMem.mk ?_ ?_ <;> dsimp only)

theorem setAlias_keepsMem {s0 : State} {s : State} {l : ℕ} {p : ℕ} {dead : Bool} (h_s : KeepsMem s0 s) :
    (∀ y0, setAlias s l p dead = some y0 → KeepsMem s0 y0) := by
  unfold setAlias
  intro y hy
  split at hy
  · cases hy; exact commitAlias_keepsMem h_s
  · split at hy
    · cases hy; exact commitAlias_keepsMem h_s
    · cases hy

/-! ### ExtMem -/

theorem noteSpan_keepsMem {s0 : State} {s : State} {a : ℕ} {n : ℕ} (h_s : KeepsMem s0 s) :
    KeepsMem s0 (noteSpan s a n) := by
  unfold noteSpan
  repeat' first
    | with_reducible assumption | with_reducible apply forRange_keeps | with_reducible apply readMat_keepsMem
    | with_reducible apply readHbm_keepsMem | intro _ | split | dsimp only

theorem logPoisonRead_keepsMem {s0 : State} {s : State} {a : ℕ} (h_s : KeepsMem s0 s) :
    KeepsMem s0 (logPoisonRead s a) := by
  unfold logPoisonRead
  repeat' first
    | with_reducible assumption | with_reducible apply logEv_keepsMem | split

theorem extRead_keepsMem {s0 : State} {s : State} {a : ℕ} {n : ℕ} (h_s : KeepsMem s0 s) :
    KeepsMem s0 ((extRead s a n).1) := by
  unfold extRead
  repeat' first
    | with_reducible assumption | with_reducible apply noteSpan_keepsMem | with_reducible apply logPoisonRead_keepsMem | split
    | dsimp only

theorem hostMemRead_keepsMem {s0 : State} {s : State} {p : ℕ} {a : ℕ} {n : ℕ} (h_s : KeepsMem s0 s) :
    KeepsMem s0 (hostMemRead s p a n) := by
  unfold hostMemRead
  repeat' first
    | with_reducible assumption | with_reducible apply emit_keepsMem | with_reducible apply logEv_keepsMem
    | with_reducible apply extRead_keepsMem | split

theorem hold_keepsMem {s0 : State} {s : State} {i : Instr} (h_s : KeepsMem s0 s) :
    KeepsMem s0 (hold s i) := by
  unfold hold
  repeat' first
    | with_reducible assumption | dsimp only | with_reducible apply KeepsMem.mem | with_reducible apply KeepsMem.tiles
    | (refine KeepsMem.mk ?_ ?_ <;> dsimp only)

end Sys2Proof.Machine
end

