-- ==== Sys2Proof/Laws/MemCommands.lean ====
section
/-! SUPPORT. Operations that leave every byte of memory and of the tiles as it was: register writes, packets, events and maintenance. -/

namespace Sys2Proof.Machine
open Sys2Proof

/-! ### MatRegs -/

theorem logMat_keepsMem {s0 : State} {s : State} {code : ℕ} {r : ℕ} {o : ℕ} (h_s : KeepsMem s0 s) :
    KeepsMem s0 (logMat s code r o) := by
  unfold logMat
  repeat' first
    | with_reducible assumption | with_reducible apply logEv_keepsMem

theorem hoffLines_keepsMem {s0 : State} {s : State} {r : ℕ} {old : Word} {new : Word} (h_s : KeepsMem s0 s) :
    KeepsMem s0 (hoffLines s r old new) := by
  unfold hoffLines
  repeat' first
    | with_reducible assumption | with_reducible apply forRange_keeps | with_reducible apply takeFree_keepsMem | intro _
    | split | dsimp only | exact rfl | with_reducible apply KeepsMem.mem | with_reducible apply KeepsMem.tiles
    | (refine KeepsMem.mk ?_ ?_ <;> dsimp only)

theorem wrMatMode_keepsMem {s0 : State} {s : State} {r : ℕ} {v : Word} (h_s : KeepsMem s0 s) :
    KeepsMem s0 (wrMatMode s r v) := by
  unfold wrMatMode
  repeat' first
    | with_reducible assumption | with_reducible apply setB_keepsMem | with_reducible apply logMat_keepsMem | split

theorem wrHoff_keepsMem {s0 : State} {s : State} {r : ℕ} {h : ℕ} {v : Word} (h_s : KeepsMem s0 s) :
    KeepsMem s0 (wrHoff s r h v) := by
  unfold wrHoff
  repeat' first
    | with_reducible assumption | with_reducible apply hoffLines_keepsMem | with_reducible apply setReg_keepsMem
    | with_reducible apply logMat_keepsMem | split | dsimp only

theorem wrCirc_keepsMem {s0 : State} {s : State} {r : ℕ} {k : ℕ} {v : Word} (h_s : KeepsMem s0 s) :
    KeepsMem s0 (wrCirc s r k v) := by
  unfold wrCirc
  repeat' first
    | with_reducible assumption | with_reducible apply setReg_keepsMem | with_reducible apply logMat_keepsMem | split
    | dsimp only

theorem wrCircPtr_keepsMem {s0 : State} {s : State} {m : Master} {r : ℕ} {k : ℕ} {tail : Bool} {v : Word} (h_s : KeepsMem s0 s) :
    KeepsMem s0 (wrCircPtr s m r k tail v) := by
  unfold wrCircPtr
  repeat' first
    | with_reducible assumption | with_reducible apply setF_keepsMem | with_reducible apply logMaster_keepsMem | split

theorem reencodeLine_keepsMem {s0 : State} {s : State} {cls : ℕ} {l : ℕ} (h_s : KeepsMem s0 s) :
    KeepsMem s0 (reencodeLine s cls l) := by
  unfold reencodeLine
  repeat' first
    | with_reducible assumption | with_reducible apply dropUpset_keepsMem | with_reducible apply poisonLine_keepsMem | split
    | dsimp only

theorem wrPclass_keepsMem {s0 : State} {s : State} {r : ℕ} {k : ℕ} {v : Word} (h_s : KeepsMem s0 s) :
    KeepsMem s0 (wrPclass s r k v) := by
  unfold wrPclass
  repeat' first
    | with_reducible assumption | with_reducible apply forRange_keeps | with_reducible apply setF_keepsMem
    | with_reducible apply reencodeLine_keepsMem | with_reducible apply logMat_keepsMem | intro _ | split | dsimp only

theorem wrChcfg_keepsMem {s0 : State} {s : State} {r : ℕ} {c : ℕ} {v : Word} (h_s : KeepsMem s0 s) :
    KeepsMem s0 (wrChcfg s r c v) := by
  unfold wrChcfg
  repeat' first
    | with_reducible assumption | with_reducible apply setReg_keepsMem | with_reducible apply logEv_keepsMem | intro _ | split
    | dsimp only

/-! ### Rng -/

theorem logRng_keepsMem {s0 : State} {s : State} {code : ℕ} {pay : ℕ} (h_s : KeepsMem s0 s) :
    KeepsMem s0 (logRng s code pay) := by
  unfold logRng
  repeat' first
    | with_reducible assumption | with_reducible apply logEv_keepsMem

theorem fillPool_keepsMem {s0 : State} {s : State} (h_s : KeepsMem s0 s) :
    KeepsMem s0 (fillPool s) := by
  unfold fillPool
  repeat' first
    | with_reducible assumption | with_reducible apply setF_keepsMem | split | dsimp only
    | with_reducible apply KeepsMem.mem | with_reducible apply KeepsMem.tiles
    | (refine KeepsMem.mk ?_ ?_ <;> dsimp only)

theorem waitPool_keepsMem {s0 : State} {s : State} (h_s : KeepsMem s0 s) :
    KeepsMem s0 (waitPool s) := by
  unfold waitPool
  repeat' first
    | with_reducible assumption | with_reducible apply fillPool_keepsMem | with_reducible apply advanceTo_keepsMem | split
    | dsimp only

theorem takePool_keepsMem {s0 : State} {s : State} (h_s : KeepsMem s0 s) :
    KeepsMem s0 ((takePool s).2) := by
  unfold takePool
  repeat' first
    | with_reducible assumption | with_reducible apply setF_keepsMem | intro _ | dsimp only
    | with_reducible apply KeepsMem.mem | with_reducible apply KeepsMem.tiles
    | (refine KeepsMem.mk ?_ ?_ <;> dsimp only)

theorem setDrbg_keepsMem {s0 : State} {s : State} {i : ℕ} {d : Drbg} (h_s : KeepsMem s0 s) :
    KeepsMem s0 (setDrbg s i d) := by
  unfold setDrbg
  repeat' first
    | with_reducible assumption | with_reducible apply setReg_keepsMem | dsimp only | with_reducible apply KeepsMem.mem
    | with_reducible apply KeepsMem.tiles | (refine KeepsMem.mk ?_ ?_ <;> dsimp only)

theorem instantiate_keepsMem {s0 : State} {s : State} {i : ℕ} (h_s : KeepsMem s0 s) :
    KeepsMem s0 (instantiate s i) := by
  unfold instantiate
  repeat' first
    | with_reducible assumption | with_reducible apply setDrbg_keepsMem | with_reducible apply takePool_keepsMem

theorem reseed_keepsMem {s0 : State} {s : State} {i : ℕ} (h_s : KeepsMem s0 s) :
    KeepsMem s0 (reseed s i) := by
  unfold reseed
  repeat' first
    | with_reducible assumption | with_reducible apply setDrbg_keepsMem | with_reducible apply bump_keepsMem
    | with_reducible apply takePool_keepsMem

theorem reseedDue_keepsMem {s0 : State} {s : State} {i : ℕ} (h_s : KeepsMem s0 s) :
    KeepsMem s0 (reseedDue s i) := by
  unfold reseedDue
  repeat' first
    | with_reducible assumption | with_reducible apply fillPool_keepsMem | with_reducible apply reseed_keepsMem | split
    | dsimp only

theorem drbgRequest_keepsMem {s0 : State} {s : State} {i : ℕ} {len : ℕ} (h_s : KeepsMem s0 s) :
    KeepsMem s0 ((drbgRequest s i len).2) := by
  unfold drbgRequest
  repeat' first
    | with_reducible assumption | with_reducible apply reseedDue_keepsMem | with_reducible apply setDrbg_keepsMem
    | with_reducible apply countNd_keepsMem | with_reducible apply bump_keepsMem | split | dsimp only

theorem drbgDraw_keepsMem {s0 : State} {s : State} {i : ℕ} {x2 : ℕ} {x3 : ℕ} (h_s : KeepsMem s0 s) :
    KeepsMem s0 ((drbgDraw s i x2 x3).2) := by
  revert h_s
  fun_induction drbgDraw s i x2 x3
  all_goals
    try rename_i ih
    intro h_s
    repeat' first
      | with_reducible assumption | with_reducible apply ih | with_reducible apply drbgRequest_keepsMem

theorem logDraw_keepsMem {s0 : State} {s : State} {i : ℕ} {x2 : Draw} (h_s : KeepsMem s0 s) :
    KeepsMem s0 (logDraw s i x2) := by
  unfold logDraw
  repeat' first
    | with_reducible assumption | with_reducible apply logEv_keepsMem | split

theorem seedAll_keepsMem {s0 : State} {s : State} {wait : Bool} (h_s : KeepsMem s0 s) :
    KeepsMem s0 (seedAll s wait) := by
  unfold seedAll
  repeat' first
    | with_reducible assumption | with_reducible apply forRange_keeps | with_reducible apply fillPool_keepsMem
    | with_reducible apply instantiate_keepsMem | with_reducible apply reseed_keepsMem | with_reducible apply waitPool_keepsMem
    | intro _ | split | dsimp only

theorem sourceGood_keepsMem {s0 : State} {s : State} (h_s : KeepsMem s0 s) :
    KeepsMem s0 (sourceGood s) := by
  unfold sourceGood
  repeat' first
    | with_reducible assumption | with_reducible apply setF_keepsMem | with_reducible apply setB_keepsMem | dsimp only
    | with_reducible apply KeepsMem.mem | with_reducible apply KeepsMem.tiles
    | (refine KeepsMem.mk ?_ ?_ <;> dsimp only)

theorem sourceBad_keepsMem {s0 : State} {s : State} (h_s : KeepsMem s0 s) :
    KeepsMem s0 (sourceBad s) := by
  unfold sourceBad
  repeat' first
    | with_reducible assumption | with_reducible apply setF_keepsMem | with_reducible apply setB_keepsMem
    | with_reducible apply fillPool_keepsMem | with_reducible apply logRng_keepsMem | split | dsimp only
    | with_reducible apply KeepsMem.mem | with_reducible apply KeepsMem.tiles
    | (refine KeepsMem.mk ?_ ?_ <;> dsimp only)

theorem startTest_keepsMem {s0 : State} {s : State} {x1 : List Bool} (h_s : KeepsMem s0 s) :
    KeepsMem s0 (startTest s x1) := by
  revert h_s
  fun_induction startTest s x1
  all_goals
    try rename_i ih
    intro h_s
    repeat' first
      | with_reducible assumption | with_reducible apply ih | with_reducible apply sourceGood_keepsMem
      | with_reducible apply sourceBad_keepsMem

theorem healthFail_keepsMem {s0 : State} {s : State} {apt : Bool} {rerun : Bool} (h_s : KeepsMem s0 s) :
    KeepsMem s0 (healthFail s apt rerun) := by
  unfold healthFail
  repeat' first
    | with_reducible assumption | with_reducible apply sourceBad_keepsMem | with_reducible apply setB_keepsMem
    | with_reducible apply logRng_keepsMem | with_reducible apply bump_keepsMem | with_reducible apply sourceGood_keepsMem | split
    | dsimp only

theorem recovered_keepsMem {s0 : State} {s : State} (h_s : KeepsMem s0 s) :
    KeepsMem s0 (recovered s) := by
  unfold recovered
  repeat' first
    | with_reducible assumption | with_reducible apply seedAll_keepsMem | with_reducible apply sourceGood_keepsMem
    | with_reducible apply logRng_keepsMem | split

theorem rngRetry_keepsMem {s0 : State} {s : State} {pass : Bool} (h_s : KeepsMem s0 s) :
    KeepsMem s0 (rngRetry s pass) := by
  unfold rngRetry
  repeat' first
    | with_reducible assumption | with_reducible apply sourceBad_keepsMem | with_reducible apply setF_keepsMem
    | with_reducible apply setB_keepsMem | with_reducible apply seedAll_keepsMem | with_reducible apply sourceGood_keepsMem | split

/-! ### Errors -/

theorem stopFrond_keepsMem {s0 : State} {s : State} {f : Frond} {st : Status} (h_s : KeepsMem s0 s) :
    KeepsMem s0 (stopFrond s f st) := by
  unfold stopFrond
  repeat' first
    | with_reducible assumption | with_reducible apply putFrond_keepsMem | with_reducible apply unpend_keepsMem

theorem stopInFlight_keepsMem {s0 : State} {s : State} {here : ℕ → Bool} (h_s : KeepsMem s0 s) :
    KeepsMem s0 (stopInFlight s here) := by
  unfold stopInFlight
  repeat' first
    | with_reducible assumption | with_reducible apply foldl_keeps | with_reducible apply stopFrond_keepsMem | intro _

theorem stopPorts_keepsMem {s0 : State} {s : State} (h_s : KeepsMem s0 s) :
    KeepsMem s0 (stopPorts s) := by
  unfold stopPorts
  repeat' first
    | with_reducible assumption | with_reducible apply forRange_keeps | with_reducible apply setB_keepsMem | intro _

theorem declareSelf_keepsMem {s0 : State} {s : State} (h_s : KeepsMem s0 s) :
    KeepsMem s0 (declareSelf s) := by
  unfold declareSelf
  repeat' first
    | with_reducible assumption | with_reducible apply stopPorts_keepsMem | with_reducible apply logChip_keepsMem
    | with_reducible apply sendAll_keepsMem

theorem moduleFault_keepsMem {s0 : State} {s : State} {cause : ℕ} (h_s : KeepsMem s0 s) :
    KeepsMem s0 (moduleFault s cause) := by
  unfold moduleFault
  repeat' first
    | with_reducible assumption | with_reducible apply stopInFlight_keepsMem | with_reducible apply logChip_keepsMem
    | with_reducible apply declareSelf_keepsMem | intro _ | split | dsimp only | with_reducible apply KeepsMem.mem
    | with_reducible apply KeepsMem.tiles | (refine KeepsMem.mk ?_ ?_ <;> dsimp only)

theorem faultDecoded_keepsMem {s0 : State} {s : State} {r : ℕ} (h_s : KeepsMem s0 s) :
    KeepsMem s0 (faultDecoded s r) := by
  unfold faultDecoded
  repeat' first
    | with_reducible assumption | intro _ | split | dsimp only | with_reducible apply KeepsMem.mem
    | with_reducible apply KeepsMem.tiles | (refine KeepsMem.mk ?_ ?_ <;> dsimp only)

theorem regionFault_keepsMem {s0 : State} {s : State} {r : ℕ} {cause : ℕ} (h_s : KeepsMem s0 s) :
    KeepsMem s0 (regionFault s r cause) := by
  unfold regionFault
  repeat' first
    | with_reducible assumption | with_reducible apply faultDecoded_keepsMem | with_reducible apply stopInFlight_keepsMem
    | with_reducible apply logQueue_keepsMem | with_reducible apply moduleFault_keepsMem | split | dsimp only
    | with_reducible apply KeepsMem.mem | with_reducible apply KeepsMem.tiles
    | (refine KeepsMem.mk ?_ ?_ <;> dsimp only)

theorem cellReplayAt_keepsMem {s0 : State} {s : State} {f : Frond} {e : ℕ} {cell : ℕ} (h_s : KeepsMem s0 s) :
    KeepsMem s0 (cellReplayAt s f e cell) := by
  unfold cellReplayAt
  repeat' first
    | with_reducible assumption | with_reducible apply putFrond_keepsMem | with_reducible apply logUnit_keepsMem
    | with_reducible apply bump_keepsMem | with_reducible apply countNd_keepsMem | split

theorem countCellFault_keepsMem {s0 : State} {s : State} {e : ℕ} {cell : ℕ} (h_s : KeepsMem s0 s) :
    KeepsMem s0 (countCellFault s e cell) := by
  unfold countCellFault
  repeat' first
    | with_reducible assumption | with_reducible apply regionFault_keepsMem | intro _ | split | dsimp only
    | with_reducible apply KeepsMem.mem | with_reducible apply KeepsMem.tiles
    | (refine KeepsMem.mk ?_ ?_ <;> dsimp only)

theorem cellFaultAt_keepsMem {s0 : State} {s : State} {f : Frond} {e : ℕ} {cell : ℕ} (h_s : KeepsMem s0 s) :
    KeepsMem s0 (cellFaultAt s f e cell) := by
  unfold cellFaultAt
  repeat' first
    | with_reducible assumption | with_reducible apply countCellFault_keepsMem | with_reducible apply stopFrond_keepsMem
    | with_reducible apply logUnit_keepsMem

theorem cellReplay_keepsMem {s0 : State} {s : State} {x : FrondRef} {u : UnitSel} {cell : Fin 8} (h_s : KeepsMem s0 s) :
    KeepsMem s0 (cellReplay s x u cell) := by
  unfold cellReplay
  repeat' first
    | with_reducible assumption | with_reducible apply cellReplayAt_keepsMem | split

theorem cellFault_keepsMem {s0 : State} {s : State} {x : FrondRef} {u : UnitSel} {cell : Fin 8} (h_s : KeepsMem s0 s) :
    KeepsMem s0 (cellFault s x u cell) := by
  unfold cellFault
  repeat' first
    | with_reducible assumption | with_reducible apply cellFaultAt_keepsMem | split

theorem blockFault_keepsMem {s0 : State} {s : State} {x : FrondRef} (h_s : KeepsMem s0 s) :
    KeepsMem s0 (blockFault s x) := by
  unfold blockFault
  repeat' first
    | with_reducible assumption | with_reducible apply stopFrond_keepsMem | with_reducible apply logUnit_keepsMem | split

theorem periParity_keepsMem {s0 : State} {s : State} {x : FrondRef} (h_s : KeepsMem s0 s) :
    KeepsMem s0 (periParity s x) := by
  unfold periParity
  repeat' first
    | with_reducible assumption | with_reducible apply putFrond_keepsMem | with_reducible apply countNd_keepsMem
    | with_reducible apply bump_keepsMem | with_reducible apply logUnit_keepsMem | with_reducible apply stopFrond_keepsMem | split
    | dsimp only

theorem sporeReplay_keepsMem {s0 : State} {s : State} {x : FrondRef} {cell : Fin 8} (h_s : KeepsMem s0 s) :
    KeepsMem s0 (sporeReplay s x cell) := by
  unfold sporeReplay
  repeat' first
    | with_reducible assumption | with_reducible apply cellReplayAt_keepsMem | split

theorem bridgeReplay_keepsMem {s0 : State} {s : State} {d : ℕ} (h_s : KeepsMem s0 s) :
    KeepsMem s0 (bridgeReplay s d) := by
  unfold bridgeReplay
  repeat' first
    | with_reducible assumption | with_reducible apply countNd_keepsMem | with_reducible apply moduleFault_keepsMem
    | with_reducible apply logEv_keepsMem | intro _ | split | dsimp only | with_reducible apply KeepsMem.mem
    | with_reducible apply KeepsMem.tiles | (refine KeepsMem.mk ?_ ?_ <;> dsimp only)

/-! ### Maint -/

theorem logMaint_keepsMem {s0 : State} {s : State} {code : ℕ} {pay : ℕ} (h_s : KeepsMem s0 s) :
    KeepsMem s0 (logMaint s code pay) := by
  unfold logMaint
  repeat' first
    | with_reducible assumption | with_reducible apply logEv_keepsMem

theorem maintStat_keepsMem {s0 : State} {s : State} (h_s : KeepsMem s0 s) :
    KeepsMem s0 (maintStat s) := by
  unfold maintStat
  repeat' first
    | with_reducible assumption | with_reducible apply setReg_keepsMem

theorem scrubSector_keepsMem {s0 : State} {s : State} {h : ℕ} (h_s : KeepsMem s0 s) :
    KeepsMem s0 ((scrubSector s h).1) := by
  unfold scrubSector
  repeat' first
    | with_reducible assumption | with_reducible apply readHbm_keepsMem | with_reducible apply takeFree_keepsMem
    | with_reducible apply dropUpset_keepsMem | split | dsimp only

theorem logPass_keepsMem {s0 : State} {s : State} {tower : ℕ} {fixed : ℕ} {bad : ℕ} (h_s : KeepsMem s0 s) :
    KeepsMem s0 (logPass s tower fixed bad) := by
  unfold logPass
  repeat' first
    | with_reducible assumption | with_reducible apply logMaint_keepsMem

theorem scrubGranule_keepsMem {s0 : State} {s : State} {t : ℕ} {g : ℕ} (h_s : KeepsMem s0 s) :
    KeepsMem s0 (scrubGranule s t g) := by
  unfold scrubGranule
  repeat' first
    | with_reducible assumption | with_reducible apply forRange_keeps | with_reducible apply scrubSector_keepsMem | intro _
    | dsimp only | with_reducible apply KeepsMem.mem | with_reducible apply KeepsMem.tiles
    | (refine KeepsMem.mk ?_ ?_ <;> dsimp only)

theorem scrubRun_keepsMem {s0 : State} {s : State} {t : ℕ} {g : ℕ} (h_s : KeepsMem s0 s) :
    KeepsMem s0 (scrubRun s t g) := by
  unfold scrubRun
  repeat' first
    | with_reducible assumption | with_reducible apply forRange_keeps | with_reducible apply scrubGranule_keepsMem
    | intro _

theorem endPass_keepsMem {s0 : State} {s : State} {t : ℕ} (h_s : KeepsMem s0 s) :
    KeepsMem s0 (endPass s t) := by
  unfold endPass
  repeat' first
    | with_reducible assumption | with_reducible apply setF_keepsMem | dsimp only | with_reducible apply KeepsMem.mem
    | with_reducible apply KeepsMem.tiles | (refine KeepsMem.mk ?_ ?_ <;> dsimp only)

theorem scrubStepOf_keepsMem {s0 : State} {s : State} {t : ℕ} (h_s : KeepsMem s0 s) :
    KeepsMem s0 (scrubStepOf s t) := by
  unfold scrubStepOf
  repeat' first
    | with_reducible assumption | with_reducible apply endPass_keepsMem | with_reducible apply logPass_keepsMem
    | with_reducible apply scrubRun_keepsMem | with_reducible apply setF_keepsMem | split | dsimp only

theorem degradeFronds_keepsMem {s0 : State} {s : State} (h_s : KeepsMem s0 s) :
    KeepsMem s0 (degradeFronds s) := by
  unfold degradeFronds
  repeat' first
    | with_reducible assumption | intro _ | split | dsimp only | with_reducible apply KeepsMem.mem
    | with_reducible apply KeepsMem.tiles | (refine KeepsMem.mk ?_ ?_ <;> dsimp only)

theorem takePortDown_keepsMem {s0 : State} {s : State} {p : ℕ} (h_s : KeepsMem s0 s) :
    KeepsMem s0 (takePortDown s p) := by
  unfold takePortDown
  repeat' first
    | with_reducible assumption | with_reducible apply setLinkPort_keepsMem | with_reducible apply degradeFronds_keepsMem
    | with_reducible apply logLink_keepsMem | with_reducible apply setB_keepsMem | with_reducible apply foldl_keeps
    | with_reducible apply sendOn_keepsMem | intro _ | split | dsimp only

theorem endAct_keepsMem {s0 : State} {s : State} {act : Activity} {scope : ℕ} {lost : Bool} (h_s : KeepsMem s0 s) :
    KeepsMem s0 (endAct s act scope lost) := by
  unfold endAct
  repeat' first
    | with_reducible assumption | with_reducible apply maintStat_keepsMem | with_reducible apply logMaint_keepsMem | intro _
    | split | dsimp only | with_reducible apply KeepsMem.mem | with_reducible apply KeepsMem.tiles
    | (refine KeepsMem.mk ?_ ?_ <;> dsimp only)

theorem logTherm_keepsMem {s0 : State} {s : State} {die : ℕ} {corr : BitVec 16} (h_s : KeepsMem s0 s) :
    KeepsMem s0 (logTherm s die corr) := by
  unfold logTherm
  repeat' first
    | with_reducible assumption | with_reducible apply logMaint_keepsMem

theorem maintDone_keepsMem {s0 : State} {s : State} {act : Activity} {scope : ℕ} {corr : BitVec 16} (h_s : KeepsMem s0 s) :
    KeepsMem s0 (maintDone s act scope corr) := by
  unfold maintDone
  repeat' first
    | with_reducible assumption | with_reducible apply endAct_keepsMem | with_reducible apply logTherm_keepsMem | intro _
    | split

theorem ringWrite_keepsMem {s0 : State} {s : State} {e : LogEntry} (h_s : KeepsMem s0 s) :
    KeepsMem s0 (ringWrite s e) := by
  unfold ringWrite
  repeat' first
    | with_reducible assumption | with_reducible apply setF_keepsMem | with_reducible apply bump32_keepsMem | split | dsimp only
    | with_reducible apply KeepsMem.mem | with_reducible apply KeepsMem.tiles
    | (refine KeepsMem.mk ?_ ?_ <;> dsimp only)

theorem logIrq_keepsMem {s0 : State} {s : State} {e : LogEntry} (h_s : KeepsMem s0 s) :
    KeepsMem s0 (logIrq s e) := by
  unfold logIrq
  repeat' first
    | with_reducible assumption | with_reducible apply raiseIrq_keepsMem | with_reducible apply setB_keepsMem | split
    | dsimp only

theorem wrRdSel_keepsMem {s0 : State} {s : State} {v : Word} (h_s : KeepsMem s0 s) :
    KeepsMem s0 (wrRdSel s v) := by
  unfold wrRdSel
  repeat' first
    | with_reducible assumption | with_reducible apply forRange_keeps | with_reducible apply setReg_keepsMem | intro _

theorem wrLogTail_keepsMem {s0 : State} {s : State} {v : Word} (h_s : KeepsMem s0 s) :
    KeepsMem s0 (wrLogTail s v) := by
  unfold wrLogTail
  repeat' first
    | with_reducible assumption | with_reducible apply setF_keepsMem

theorem wrDrainTail_keepsMem {s0 : State} {s : State} {v : Word} (h_s : KeepsMem s0 s) :
    KeepsMem s0 (wrDrainTail s v) := by
  unfold wrDrainTail
  repeat' first
    | with_reducible assumption | with_reducible apply setF_keepsMem | split | dsimp only
    | with_reducible apply KeepsMem.mem | with_reducible apply KeepsMem.tiles
    | (refine KeepsMem.mk ?_ ?_ <;> dsimp only)

/-! ### Coll -/

theorem dropClash_keepsMem {s0 : State} {c : Coll} {s : State} (h_s : KeepsMem s0 s) :
    KeepsMem s0 (dropClash c s) := by
  unfold dropClash
  repeat' first
    | with_reducible assumption | intro _ | dsimp only | with_reducible apply KeepsMem.mem
    | with_reducible apply KeepsMem.tiles | (refine KeepsMem.mk ?_ ?_ <;> dsimp only)

theorem resendStep_keepsMem {s0 : State} {s : State} {f : Frond} {dest : ℕ} (h_s : KeepsMem s0 s) :
    KeepsMem s0 (resendStep s f dest) := by
  unfold resendStep
  repeat' first
    | with_reducible assumption | with_reducible apply foldl_keeps | with_reducible apply inject_keepsMem | intro _ | split

theorem keepGhost_keepsMem {s0 : State} {s : State} {c : Coll} (h_s : KeepsMem s0 s) :
    KeepsMem s0 (keepGhost s c) := by
  unfold keepGhost
  repeat' first
    | with_reducible assumption | dsimp only | with_reducible apply KeepsMem.mem | with_reducible apply KeepsMem.tiles
    | (refine KeepsMem.mk ?_ ?_ <;> dsimp only)

theorem startGhost_keepsMem {s0 : State} {s : State} {c : Coll} (h_s : KeepsMem s0 s) :
    KeepsMem s0 (startGhost s c) := by
  unfold startGhost
  repeat' first
    | with_reducible assumption | intro _ | split | dsimp only | with_reducible apply KeepsMem.mem
    | with_reducible apply KeepsMem.tiles | (refine KeepsMem.mk ?_ ?_ <;> dsimp only)

theorem ghostFor_keepsMem {s0 : State} {s : State} {c : Coll} (h_s : KeepsMem s0 s) :
    KeepsMem s0 (ghostFor s c) := by
  unfold ghostFor
  repeat' first
    | with_reducible assumption | with_reducible apply startGhost_keepsMem | split

theorem ghostFrom_keepsMem {s0 : State} {s : State} {k : Packet} (h_s : KeepsMem s0 s) :
    KeepsMem s0 (ghostFrom s k) := by
  unfold ghostFrom
  repeat' first
    | with_reducible assumption | with_reducible apply startGhost_keepsMem | intro _ | split

/-! ### Tower -/

theorem logTow_keepsMem {s0 : State} {s : State} {code : ℕ} {t : ℕ} (h_s : KeepsMem s0 s) :
    KeepsMem s0 (logTow s code t) := by
  unfold logTow
  repeat' first
    | with_reducible assumption | with_reducible apply logEv_keepsMem

theorem logTowReg_keepsMem {s0 : State} {s : State} {code : ℕ} {t : ℕ} {o : ℕ} (h_s : KeepsMem s0 s) :
    KeepsMem s0 (logTowReg s code t o) := by
  unfold logTowReg
  repeat' first
    | with_reducible assumption | with_reducible apply logEv_keepsMem

theorem refresh_keepsMem {s0 : State} {s : State} {t : ℕ} {b : Word} {hits : List FrondRef} (h_s : KeepsMem s0 s) :
    KeepsMem s0 (refresh s t b hits) := by
  unfold refresh
  repeat' first
    | with_reducible assumption | with_reducible apply foldl_keeps | with_reducible apply putFrond_keepsMem
    | with_reducible apply bump_keepsMem | with_reducible apply advanceTo_keepsMem | intro _ | split

theorem setRate_keepsMem {s0 : State} {s : State} {t : ℕ} {twice : Bool} (h_s : KeepsMem s0 s) :
    KeepsMem s0 (setRate s t twice) := by
  unfold setRate
  repeat' first
    | with_reducible assumption | with_reducible apply logTow_keepsMem | with_reducible apply setF_keepsMem
    | with_reducible apply setB_keepsMem | split

theorem tempSample_keepsMem {s0 : State} {s : State} {t : ℕ} {temp : ℕ} (h_s : KeepsMem s0 s) :
    KeepsMem s0 (tempSample s t temp) := by
  unfold tempSample
  repeat' first
    | with_reducible assumption | with_reducible apply setF_keepsMem | with_reducible apply setRate_keepsMem | split
    | dsimp only

theorem wrRfsh_keepsMem {s0 : State} {s : State} {t : ℕ} {v : Word} (h_s : KeepsMem s0 s) :
    KeepsMem s0 (wrRfsh s t v) := by
  unfold wrRfsh
  repeat' first
    | with_reducible assumption | with_reducible apply setF_keepsMem | with_reducible apply setRate_keepsMem
    | with_reducible apply logTowReg_keepsMem | split | dsimp only

theorem towerIdle_keepsMem {s0 : State} {s : State} {t : ℕ} (h_s : KeepsMem s0 s) :
    KeepsMem s0 (towerIdle s t) := by
  unfold towerIdle
  repeat' first
    | with_reducible assumption | with_reducible apply setB_keepsMem | split

theorem recordMargins_keepsMem {s0 : State} {s : State} {t : ℕ} {kind : ℕ} {rec : List MarginRec} (h_s : KeepsMem s0 s) :
    KeepsMem s0 (recordMargins s t kind rec) := by
  unfold recordMargins
  repeat' first
    | with_reducible assumption | with_reducible apply setReg_keepsMem | with_reducible apply forRange_keeps
    | with_reducible apply logTow_keepsMem | with_reducible apply setB_keepsMem | intro _ | split

theorem marginDone_keepsMem {s0 : State} {s : State} {t : ℕ} {rec : List MarginRec} (h_s : KeepsMem s0 s) :
    KeepsMem s0 (marginDone s t rec) := by
  unfold marginDone
  repeat' first
    | with_reducible assumption | with_reducible apply endAct_keepsMem | with_reducible apply setB_keepsMem
    | with_reducible apply recordMargins_keepsMem | split | dsimp only

theorem wrPoisonOp_keepsMem {s0 : State} {s : State} {t : ℕ} {g : ℕ} {op : ℕ} (h_s : KeepsMem s0 s) :
    KeepsMem s0 (wrPoisonOp s t g op) := by
  unfold wrPoisonOp
  repeat' first
    | with_reducible assumption | with_reducible apply setB_keepsMem | with_reducible apply setF_keepsMem
    | with_reducible apply clearGranule_keepsMem | with_reducible apply poisonGranule_keepsMem | split

/-! ### KeySet -/

theorem logKset_keepsMem {s0 : State} {s : State} {code : ℕ} {r : ℕ} {k : ℕ} {reason : ℕ} (h_s : KeepsMem s0 s) :
    KeepsMem s0 (logKset s code r k reason) := by
  unfold logKset
  repeat' first
    | with_reducible assumption | with_reducible apply logEv_keepsMem

theorem ksetGo_keepsMem {s0 : State} {s : State} {r : ℕ} {k : ℕ} (h_s : KeepsMem s0 s) :
    KeepsMem s0 (ksetGo s r k) := by
  unfold ksetGo
  repeat' first
    | with_reducible assumption | with_reducible apply setB_keepsMem | with_reducible apply logKset_keepsMem | split

theorem ksetDone_keepsMem {s0 : State} {s : State} {r : ℕ} {k : ℕ} (h_s : KeepsMem s0 s) :
    KeepsMem s0 (ksetDone s r k) := by
  unfold ksetDone
  repeat' first
    | with_reducible assumption | with_reducible apply logKset_keepsMem | with_reducible apply setReg_keepsMem
    | with_reducible apply setF_keepsMem | with_reducible apply setB_keepsMem | with_reducible apply noteSpan_keepsMem | split
    | dsimp only

theorem ksetClear_keepsMem {s0 : State} {s : State} {r : ℕ} {k : ℕ} (h_s : KeepsMem s0 s) :
    KeepsMem s0 (ksetClear s r k) := by
  unfold ksetClear
  repeat' first
    | with_reducible assumption | with_reducible apply setReg_keepsMem | with_reducible apply setF_keepsMem
    | with_reducible apply setB_keepsMem | with_reducible apply logKset_keepsMem | intro _ | split

theorem wrKsetBase_keepsMem {s0 : State} {s : State} {r : ℕ} {k : ℕ} {v : Word} (h_s : KeepsMem s0 s) :
    KeepsMem s0 (wrKsetBase s r k v) := by
  unfold wrKsetBase
  repeat' first
    | with_reducible assumption | with_reducible apply setF_keepsMem | with_reducible apply logEv_keepsMem | split

/-! ### Pke -/

theorem logPke_keepsMem {s0 : State} {s : State} {code : ℕ} {pay : ℕ} (h_s : KeepsMem s0 s) :
    KeepsMem s0 (logPke s code pay) := by
  unfold logPke
  repeat' first
    | with_reducible assumption | with_reducible apply logEv_keepsMem

theorem fillSlot_keepsMem {s0 : State} {s : State} {type : ℕ} {origin : ℕ} {part : KeyPart} (h_s : KeepsMem s0 s) :
    KeepsMem s0 (fillSlot s type origin part) := by
  unfold fillSlot
  repeat' first
    | with_reducible assumption | with_reducible apply logPke_keepsMem | with_reducible apply setReg_keepsMem | intro _ | split
    | dsimp only | with_reducible apply KeepsMem.mem | with_reducible apply KeepsMem.tiles
    | (refine KeepsMem.mk ?_ ?_ <;> dsimp only)

theorem emptySlot_keepsMem {s0 : State} {s : State} {k : ℕ} (h_s : KeepsMem s0 s) :
    KeepsMem s0 (emptySlot s k) := by
  unfold emptySlot
  repeat' first
    | with_reducible assumption | with_reducible apply logPke_keepsMem | with_reducible apply setReg_keepsMem | intro _ | split
    | dsimp only | with_reducible apply KeepsMem.mem | with_reducible apply KeepsMem.tiles
    | (refine KeepsMem.mk ?_ ?_ <;> dsimp only)

theorem freeBytes_keepsMem {s0 : State} {s : State} {x1 : ℕ} (h_s : KeepsMem s0 s) :
    KeepsMem s0 ((freeBytes s x1).2) := by
  revert h_s
  fun_induction freeBytes s x1
  all_goals
    try rename_i ih
    intro h_s
    repeat' first
      | with_reducible assumption | with_reducible apply ih | with_reducible apply takeFree_keepsMem

theorem pkeRead_keepsMem {s0 : State} {s : State} {a : ℕ} {n : ℕ} (h_s : KeepsMem s0 s) :
    KeepsMem s0 (((pkeRead s a n).2).2) := by
  unfold pkeRead
  repeat' first
    | with_reducible assumption | with_reducible apply freeBytes_keepsMem | with_reducible apply noteSpan_keepsMem | split

theorem withOperands_keepsMem {s0 : State} {s : State} {pre : List ℕ} {spans : List (ℕ × ℕ)} {f : State → List (List Byte) → PkeResult × State} (h_s : KeepsMem s0 s) (h_f : (∀ y0, KeepsMem s0 y0 → (∀ y1, KeepsMem s0 ((f y0 y1).2)))) :
    KeepsMem s0 ((withOperands s pre spans f).2) := by
  unfold withOperands
  repeat' first
    | with_reducible assumption | with_reducible apply h_f | with_reducible apply foldl_snd_snd_keeps
    | with_reducible apply pkeRead_keepsMem | intro _ | split | dsimp only

theorem pkeShake_keepsMem {s0 : State} {s : State} (h_s : KeepsMem s0 s) :
    KeepsMem s0 ((pkeShake s).2) := by
  unfold pkeShake
  repeat' first
    | with_reducible assumption | with_reducible apply withOperands_keepsMem | intro _

theorem pkeVerify_keepsMem {s0 : State} {s : State} (h_s : KeepsMem s0 s) :
    KeepsMem s0 ((pkeVerify s).2) := by
  unfold pkeVerify
  repeat' first
    | with_reducible assumption | with_reducible apply withOperands_keepsMem | intro _

theorem pkeSign_keepsMem {s0 : State} {s : State} (h_s : KeepsMem s0 s) :
    KeepsMem s0 ((pkeSign s).2) := by
  unfold pkeSign
  repeat' first
    | with_reducible assumption | with_reducible apply withOperands_keepsMem | intro _

theorem pkeX448_keepsMem {s0 : State} {s : State} (h_s : KeepsMem s0 s) :
    KeepsMem s0 ((pkeX448 s).2) := by
  unfold pkeX448
  repeat' first
    | with_reducible assumption | with_reducible apply withOperands_keepsMem | intro _ | split | dsimp only

theorem pkeKeygen_keepsMem {s0 : State} {s : State} (h_s : KeepsMem s0 s) :
    KeepsMem s0 ((pkeKeygen s).2) := by
  unfold pkeKeygen
  repeat' first
    | with_reducible assumption | with_reducible apply withOperands_keepsMem | with_reducible apply drbgRequest_keepsMem
    | with_reducible apply logDraw_keepsMem | intro _ | split | dsimp only

theorem pkePubkey_keepsMem {s0 : State} {s : State} (h_s : KeepsMem s0 s) :
    KeepsMem s0 ((pkePubkey s).2) := by
  unfold pkePubkey
  repeat' first
    | with_reducible assumption | with_reducible apply withOperands_keepsMem | intro _

theorem pkeKdf_keepsMem {s0 : State} {s : State} (h_s : KeepsMem s0 s) :
    KeepsMem s0 ((pkeKdf s).2) := by
  unfold pkeKdf
  repeat' first
    | with_reducible assumption | with_reducible apply withOperands_keepsMem | intro _

theorem pkeMac_keepsMem {s0 : State} {s : State} (h_s : KeepsMem s0 s) :
    KeepsMem s0 ((pkeMac s).2) := by
  unfold pkeMac
  repeat' first
    | with_reducible assumption | with_reducible apply withOperands_keepsMem | intro _

theorem pkeClear_keepsMem {s0 : State} {s : State} (h_s : KeepsMem s0 s) :
    KeepsMem s0 ((pkeClear s).2) := by
  unfold pkeClear
  repeat' first
    | with_reducible assumption | with_reducible apply withOperands_keepsMem | intro _

theorem pkeAttest_keepsMem {s0 : State} {s : State} (h_s : KeepsMem s0 s) :
    KeepsMem s0 ((pkeAttest s).2) := by
  unfold pkeAttest
  repeat' first
    | with_reducible assumption | with_reducible apply withOperands_keepsMem | intro _

theorem pkeCompute_keepsMem {s0 : State} {s : State} {op : ℕ} (h_s : KeepsMem s0 s) :
    KeepsMem s0 ((pkeCompute s op).2) := by
  unfold pkeCompute
  repeat' first
    | with_reducible assumption | with_reducible apply pkeAttest_keepsMem | with_reducible apply pkeClear_keepsMem
    | with_reducible apply pkeMac_keepsMem | with_reducible apply pkeKdf_keepsMem | with_reducible apply pkePubkey_keepsMem
    | with_reducible apply pkeKeygen_keepsMem | with_reducible apply pkeX448_keepsMem | with_reducible apply pkeSign_keepsMem
    | with_reducible apply pkeVerify_keepsMem | with_reducible apply pkeShake_keepsMem | split

theorem pkeGo_keepsMem {s0 : State} {s : State} {op : ℕ} {v : Word} (h_s : KeepsMem s0 s) :
    KeepsMem s0 (pkeGo s op v) := by
  unfold pkeGo
  repeat' first
    | with_reducible assumption | with_reducible apply setB_keepsMem | with_reducible apply pkeCompute_keepsMem
    | with_reducible apply setReg_keepsMem | with_reducible apply logPke_keepsMem | intro _ | split | dsimp only
    | with_reducible apply KeepsMem.mem | with_reducible apply KeepsMem.tiles
    | (refine KeepsMem.mk ?_ ?_ <;> dsimp only)

theorem settleSlots_keepsMem {s0 : State} {s : State} {keys : List KeyPart} {how : List (ℕ × ℕ)} (h_s : KeepsMem s0 s) :
    KeepsMem s0 (settleSlots s keys how) := by
  unfold settleSlots
  repeat' first
    | with_reducible assumption | with_reducible apply foldl_keeps | with_reducible apply emptySlot_keepsMem
    | with_reducible apply fillSlot_keepsMem | intro _

/-! ### Power -/

theorem bootStop_keepsMem {s0 : State} {s : State} {reason : ℕ} (h_s : KeepsMem s0 s) :
    KeepsMem s0 (bootStop s reason) := by
  unfold bootStop
  repeat' first
    | with_reducible assumption | with_reducible apply raiseIrq_keepsMem | with_reducible apply stopPorts_keepsMem
    | with_reducible apply logEv_keepsMem | with_reducible apply setF_keepsMem | with_reducible apply setB_keepsMem | split
    | dsimp only | with_reducible apply KeepsMem.mem | with_reducible apply KeepsMem.tiles
    | (refine KeepsMem.mk ?_ ?_ <;> dsimp only)

theorem logCanary_keepsMem {s0 : State} {s : State} {code : ℕ} {d : ℕ} {pay : ℕ} (h_s : KeepsMem s0 s) :
    KeepsMem s0 (logCanary s code d pay) := by
  unfold logCanary
  repeat' first
    | with_reducible assumption | with_reducible apply logEv_keepsMem

theorem suspendPromises_keepsMem {s0 : State} {s : State} (h_s : KeepsMem s0 s) :
    KeepsMem s0 (suspendPromises s) := by
  unfold suspendPromises
  repeat' first
    | with_reducible assumption | intro _ | split | dsimp only | with_reducible apply KeepsMem.mem
    | with_reducible apply KeepsMem.tiles | (refine KeepsMem.mk ?_ ?_ <;> dsimp only)

theorem changeLevel_keepsMem {s0 : State} {s : State} {d : ℕ} {new : ℕ} {cause : ℕ} (h_s : KeepsMem s0 s) :
    KeepsMem s0 (changeLevel s d new cause) := by
  unfold changeLevel
  repeat' first
    | with_reducible assumption | with_reducible apply setF_keepsMem | with_reducible apply logCanary_keepsMem | split
    | dsimp only | with_reducible apply KeepsMem.mem | with_reducible apply KeepsMem.tiles
    | (refine KeepsMem.mk ?_ ?_ <;> dsimp only)

theorem stretch_keepsMem {s0 : State} {s : State} {d : ℕ} {cause : ℕ} (h_s : KeepsMem s0 s) :
    KeepsMem s0 (stretch s d cause) := by
  unfold stretch
  repeat' first
    | with_reducible assumption | with_reducible apply suspendPromises_keepsMem | with_reducible apply changeLevel_keepsMem
    | with_reducible apply setF_keepsMem | with_reducible apply moduleFault_keepsMem | with_reducible apply logCanary_keepsMem
    | split | dsimp only

theorem unstretch_keepsMem {s0 : State} {s : State} {d : ℕ} (h_s : KeepsMem s0 s) :
    KeepsMem s0 (unstretch s d) := by
  unfold unstretch
  repeat' first
    | with_reducible assumption | with_reducible apply changeLevel_keepsMem | with_reducible apply advanceTo_keepsMem | split
    | dsimp only

theorem stepRail_keepsMem {s0 : State} {s : State} {lo : ℕ} {up : Bool} (h_s : KeepsMem s0 s) :
    KeepsMem s0 (stepRail s lo up) := by
  unfold stepRail
  repeat' first
    | with_reducible assumption | with_reducible apply setF_keepsMem | split | dsimp only

theorem stepRails_keepsMem {s0 : State} {s : State} {up : Bool} (h_s : KeepsMem s0 s) :
    KeepsMem s0 (stepRails s up) := by
  unfold stepRails
  repeat' first
    | with_reducible assumption | with_reducible apply stepRail_keepsMem

theorem voltageTick_keepsMem {s0 : State} {s : State} {slack : ℕ} {full : Bool} (h_s : KeepsMem s0 s) :
    KeepsMem s0 (voltageTick s slack full) := by
  unfold voltageTick
  repeat' first
    | with_reducible assumption | with_reducible apply setF_keepsMem | with_reducible apply stepRails_keepsMem | split
    | dsimp only

theorem powerEstimate_keepsMem {s0 : State} {s : State} {watts : ℕ} (h_s : KeepsMem s0 s) :
    KeepsMem s0 (powerEstimate s watts) := by
  unfold powerEstimate
  repeat' first
    | with_reducible assumption | with_reducible apply setB_keepsMem | with_reducible apply stepRails_keepsMem | split
    | dsimp only | with_reducible apply KeepsMem.mem | with_reducible apply KeepsMem.tiles
    | (refine KeepsMem.mk ?_ ?_ <;> dsimp only)

theorem wrCapW_keepsMem {s0 : State} {s : State} {w : ℕ} (h_s : KeepsMem s0 s) :
    KeepsMem s0 (wrCapW s w) := by
  unfold wrCapW
  repeat' first
    | with_reducible assumption | with_reducible apply setF_keepsMem

theorem noteTemp_keepsMem {s0 : State} {s : State} {d : ℕ} {t : ℕ} (h_s : KeepsMem s0 s) :
    KeepsMem s0 (noteTemp s d t) := by
  unfold noteTemp
  repeat' first
    | with_reducible assumption | with_reducible apply setF_keepsMem

theorem throttle_keepsMem {s0 : State} {s : State} {d : ℕ} {t : ℕ} (h_s : KeepsMem s0 s) :
    KeepsMem s0 (throttle s d t) := by
  unfold throttle
  repeat' first
    | with_reducible assumption | with_reducible apply noteTemp_keepsMem | with_reducible apply setB_keepsMem | split

theorem hotClear_keepsMem {s0 : State} {s : State} {t0 : ℕ} {t1 : ℕ} (h_s : KeepsMem s0 s) :
    KeepsMem s0 (hotClear s t0 t1) := by
  unfold hotClear
  repeat' first
    | with_reducible assumption | with_reducible apply noteTemp_keepsMem | with_reducible apply setB_keepsMem | split

theorem thermTrip_keepsMem {s0 : State} {s : State} {d : ℕ} {t : ℕ} (h_s : KeepsMem s0 s) :
    KeepsMem s0 (thermTrip s d t) := by
  unfold thermTrip
  repeat' first
    | with_reducible assumption | with_reducible apply throttle_keepsMem | with_reducible apply moduleFault_keepsMem
    | with_reducible apply logCanary_keepsMem | with_reducible apply setB_keepsMem | split | dsimp only
    | with_reducible apply KeepsMem.mem | with_reducible apply KeepsMem.tiles
    | (refine KeepsMem.mk ?_ ?_ <;> dsimp only)

theorem loseLog_keepsMem {s0 : State} {s : State} (h_s : KeepsMem s0 s) :
    KeepsMem s0 (loseLog s) := by
  unfold loseLog
  repeat' first
    | with_reducible assumption | with_reducible apply setReg_keepsMem | dsimp only | with_reducible apply KeepsMem.mem
    | with_reducible apply KeepsMem.tiles | (refine KeepsMem.mk ?_ ?_ <;> dsimp only)

theorem unspecify_keepsMem {s0 : State} {s : State} (h_s : KeepsMem s0 s) :
    KeepsMem s0 (unspecify s) := by
  unfold unspecify
  repeat' first
    | with_reducible assumption | intro _ | split | dsimp only | with_reducible apply KeepsMem.mem
    | with_reducible apply KeepsMem.tiles | (refine KeepsMem.mk ?_ ?_ <;> dsimp only)

theorem railOut_keepsMem {s0 : State} {s : State} {x1 : Rail} (h_s : KeepsMem s0 s) :
    KeepsMem s0 (railOut s x1) := by
  unfold railOut
  repeat' first
    | with_reducible assumption | with_reducible apply stretch_keepsMem | with_reducible apply loseLog_keepsMem
    | with_reducible apply unspecify_keepsMem | split

theorem wrMemcfg_keepsMem {s0 : State} {s : State} {m : Master} {v : Word} (h_s : KeepsMem s0 s) :
    KeepsMem s0 (wrMemcfg s m v) := by
  unfold wrMemcfg
  repeat' first
    | with_reducible assumption | with_reducible apply setB_keepsMem | with_reducible apply setF_keepsMem
    | with_reducible apply logMaster_keepsMem | split

theorem clearNd_keepsMem {s0 : State} {s : State} (h_s : KeepsMem s0 s) :
    KeepsMem s0 (clearNd s) := by
  unfold clearNd
  repeat' first
    | with_reducible assumption | with_reducible apply forRange_keeps | with_reducible apply setReg_keepsMem | intro _

/-! ### Host -/

theorem logPort_keepsMem {s0 : State} {s : State} {code : ℕ} {p : ℕ} {addr : ℕ} (h_s : KeepsMem s0 s) :
    KeepsMem s0 (logPort s code p addr) := by
  unfold logPort
  repeat' first
    | with_reducible assumption | with_reducible apply logEv_keepsMem

theorem atcPut_keepsMem {s0 : State} {s : State} {p : ℕ} {u : ℕ} {log2 : ℕ} (h_s : KeepsMem s0 s) :
    KeepsMem s0 (atcPut s p u log2) := by
  unfold atcPut
  repeat' first
    | with_reducible assumption | intro _ | split | dsimp only | with_reducible apply KeepsMem.mem
    | with_reducible apply KeepsMem.tiles | (refine KeepsMem.mk ?_ ?_ <;> dsimp only)

theorem countOut_keepsMem {s0 : State} {s : State} {p : ℕ} (h_s : KeepsMem s0 s) :
    KeepsMem s0 (countOut s p) := by
  unfold countOut
  repeat' first
    | with_reducible assumption | with_reducible apply setF_keepsMem

theorem sendPages_keepsMem {s0 : State} {s : State} {p : ℕ} {x2 : ℕ} (h_s : KeepsMem s0 s) :
    KeepsMem s0 (sendPages s p x2) := by
  revert h_s
  fun_induction sendPages s p x2
  all_goals
    try rename_i ih
    intro h_s
    repeat' first
      | with_reducible assumption | with_reducible apply ih | with_reducible apply countOut_keepsMem
      | with_reducible apply emit_keepsMem | with_reducible apply bump_keepsMem | with_reducible apply countNd_keepsMem | intro _
      | split | dsimp only | dsimp +zetaDelta only | with_reducible apply KeepsMem.mem
      | with_reducible apply KeepsMem.tiles | (refine KeepsMem.mk ?_ ?_ <;> dsimp only)

theorem denyPage_keepsMem {s0 : State} {s : State} {p : ℕ} {u : ℕ} {code : ℕ} (h_s : KeepsMem s0 s) :
    KeepsMem s0 (denyPage s p u code) := by
  unfold denyPage
  repeat' first
    | with_reducible assumption | with_reducible apply sendPages_keepsMem | with_reducible apply foldl_keeps
    | with_reducible apply stopFrond_keepsMem | with_reducible apply logPort_keepsMem | with_reducible apply bump_keepsMem | intro _
    | dsimp only | with_reducible apply KeepsMem.mem | with_reducible apply KeepsMem.tiles
    | (refine KeepsMem.mk ?_ ?_ <;> dsimp only)

theorem freePage_keepsMem {s0 : State} {s : State} {p : ℕ} {u : ℕ} {log2 : ℕ} {asked : Bool} (h_s : KeepsMem s0 s) :
    KeepsMem s0 (freePage s p u log2 asked) := by
  unfold freePage
  repeat' first
    | with_reducible assumption | intro _ | split | dsimp only | with_reducible apply KeepsMem.mem
    | with_reducible apply KeepsMem.tiles | (refine KeepsMem.mk ?_ ?_ <;> dsimp only)

theorem pendRows_keepsMem {s0 : State} {s : State} {p : ℕ} {u : ℕ} (h_s : KeepsMem s0 s) :
    KeepsMem s0 (pendRows s p u) := by
  unfold pendRows
  repeat' first
    | with_reducible assumption | with_reducible apply foldl_keeps | with_reducible apply pendAt_keepsMem

theorem atsAnswer_keepsMem {s0 : State} {s : State} {p : ℕ} {u : ℕ} {res : AtsResult} (h_s : KeepsMem s0 s) :
    KeepsMem s0 (atsAnswer s p u res) := by
  unfold atsAnswer
  repeat' first
    | with_reducible assumption | with_reducible apply freePage_keepsMem | with_reducible apply atcPut_keepsMem
    | with_reducible apply denyPage_keepsMem | with_reducible apply countOut_keepsMem | with_reducible apply emit_keepsMem
    | with_reducible apply bump_keepsMem | with_reducible apply countNd_keepsMem | with_reducible apply sendPages_keepsMem | intro _
    | split | dsimp only | with_reducible apply KeepsMem.mem | with_reducible apply KeepsMem.tiles
    | (refine KeepsMem.mk ?_ ?_ <;> dsimp only)

theorem atsDone_keepsMem {s0 : State} {s : State} {p : ℕ} {u : ℕ} {res : AtsResult} (h_s : KeepsMem s0 s) :
    KeepsMem s0 (atsDone s p u res) := by
  unfold atsDone
  repeat' first
    | with_reducible assumption | with_reducible apply pendRows_keepsMem | with_reducible apply atsAnswer_keepsMem | split

theorem pageResponse_keepsMem {s0 : State} {s : State} {p : ℕ} {u : ℕ} {code : PageResp} (h_s : KeepsMem s0 s) :
    KeepsMem s0 (pageResponse s p u code) := by
  unfold pageResponse
  repeat' first
    | with_reducible assumption | with_reducible apply emit_keepsMem | with_reducible apply sendPages_keepsMem
    | with_reducible apply denyPage_keepsMem | with_reducible apply setPort_keepsMem | intro _ | split | dsimp only
    | with_reducible apply KeepsMem.mem | with_reducible apply KeepsMem.tiles
    | (refine KeepsMem.mk ?_ ?_ <;> dsimp only)

theorem pageTimeout_keepsMem {s0 : State} {s : State} {p : ℕ} {u : ℕ} (h_s : KeepsMem s0 s) :
    KeepsMem s0 (pageTimeout s p u) := by
  unfold pageTimeout
  repeat' first
    | with_reducible assumption | with_reducible apply denyPage_keepsMem | with_reducible apply advanceTo_keepsMem | intro _
    | split | dsimp only

theorem invalidate_keepsMem {s0 : State} {s : State} {p : ℕ} {u : ℕ} {log2 : ℕ} (h_s : KeepsMem s0 s) :
    KeepsMem s0 (invalidate s p u log2) := by
  unfold invalidate
  repeat' first
    | with_reducible assumption | with_reducible apply emit_keepsMem | intro _ | dsimp only
    | with_reducible apply KeepsMem.mem | with_reducible apply KeepsMem.tiles
    | (refine KeepsMem.mk ?_ ?_ <;> dsimp only)

theorem cplErr_keepsMem {s0 : State} {s : State} {x : FrondRef} {ep : Bool} (h_s : KeepsMem s0 s) :
    KeepsMem s0 (cplErr s x ep) := by
  unfold cplErr
  repeat' first
    | with_reducible assumption | with_reducible apply stopFrond_keepsMem | with_reducible apply logPort_keepsMem
    | with_reducible apply bump_keepsMem | with_reducible apply putFrond_keepsMem | split

theorem zeroPort_keepsMem {s0 : State} {s : State} {p : ℕ} (h_s : KeepsMem s0 s) :
    KeepsMem s0 (zeroPort s p) := by
  unfold zeroPort
  repeat' first
    | with_reducible assumption | with_reducible apply foldl_keeps | with_reducible apply setReg_keepsMem | intro _

theorem portReset_keepsMem {s0 : State} {s : State} {p : ℕ} (h_s : KeepsMem s0 s) :
    KeepsMem s0 (portReset s p) := by
  unfold portReset
  repeat' first
    | with_reducible assumption | with_reducible apply setPort_keepsMem | with_reducible apply zeroPort_keepsMem | intro _
    | dsimp only | with_reducible apply KeepsMem.mem | with_reducible apply KeepsMem.tiles
    | (refine KeepsMem.mk ?_ ?_ <;> dsimp only)

theorem freeSems_keepsMem {s0 : State} {s : State} {p : ℕ} (h_s : KeepsMem s0 s) :
    KeepsMem s0 (freeSems s p) := by
  unfold freeSems
  repeat' first
    | with_reducible assumption | with_reducible apply forRange_keeps | with_reducible apply logPort_keepsMem
    | with_reducible apply setF_keepsMem | intro _ | split

theorem portLost_keepsMem {s0 : State} {s : State} {p : ℕ} (h_s : KeepsMem s0 s) :
    KeepsMem s0 (portLost s p) := by
  unfold portLost
  repeat' first
    | with_reducible assumption | with_reducible apply raiseOn_keepsMem | with_reducible apply setF_keepsMem
    | with_reducible apply foldl_keeps | with_reducible apply stopFrond_keepsMem | with_reducible apply logPort_keepsMem
    | with_reducible apply freeSems_keepsMem | with_reducible apply portReset_keepsMem | intro _

theorem perst_keepsMem {s0 : State} {s : State} {p : ℕ} (h_s : KeepsMem s0 s) :
    KeepsMem s0 (perst s p) := by
  unfold perst
  repeat' first
    | with_reducible assumption | with_reducible apply portLost_keepsMem | split | dsimp only
    | with_reducible apply KeepsMem.mem | with_reducible apply KeepsMem.tiles
    | (refine KeepsMem.mk ?_ ?_ <;> dsimp only)

theorem portUpNow_keepsMem {s0 : State} {s : State} {p : ℕ} {speed : ℕ} {width : ℕ} (h_s : KeepsMem s0 s) :
    KeepsMem s0 (portUpNow s p speed width) := by
  unfold portUpNow
  repeat' first
    | with_reducible assumption | with_reducible apply raiseOn_keepsMem | with_reducible apply logPort_keepsMem
    | with_reducible apply setF_keepsMem | with_reducible apply setB_keepsMem | split | dsimp only
    | with_reducible apply KeepsMem.mem | with_reducible apply KeepsMem.tiles
    | (refine KeepsMem.mk ?_ ?_ <;> dsimp only)

theorem sendPending_keepsMem {s0 : State} {s : State} {p : ℕ} (h_s : KeepsMem s0 s) :
    KeepsMem s0 (sendPending s p) := by
  unfold sendPending
  repeat' first
    | with_reducible assumption | with_reducible apply forRange_keeps | with_reducible apply emit_keepsMem | intro _
    | split | dsimp only | with_reducible apply KeepsMem.mem | with_reducible apply KeepsMem.tiles
    | (refine KeepsMem.mk ?_ ?_ <;> dsimp only)

theorem maskMwin_keepsMem {s0 : State} {s : State} {p : ℕ} {v : ℕ} (h_s : KeepsMem s0 s) :
    KeepsMem s0 (maskMwin s p v) := by
  unfold maskMwin
  repeat' first
    | with_reducible assumption | with_reducible apply setReg_keepsMem

theorem configWrite_keepsMem {s0 : State} {s : State} {p : ℕ} {k : PcieCfg} {v : Word} (h_s : KeepsMem s0 s) :
    KeepsMem s0 (configWrite s p k v) := by
  unfold configWrite
  repeat' first
    | with_reducible assumption | with_reducible apply setB_keepsMem | with_reducible apply sendPages_keepsMem
    | with_reducible apply setPort_keepsMem | with_reducible apply sendPending_keepsMem | with_reducible apply maskMwin_keepsMem
    | split | dsimp only

theorem wrSem_keepsMem {s0 : State} {s : State} {m : Master} {k : ℕ} {v : Word} (h_s : KeepsMem s0 s) :
    KeepsMem s0 (wrSem s m k v) := by
  unfold wrSem
  repeat' first
    | with_reducible assumption | with_reducible apply setF_keepsMem | split | dsimp only

theorem wrMboxCtl_keepsMem {s0 : State} {s : State} {m : Master} {d : ℕ} (h_s : KeepsMem s0 s) :
    KeepsMem s0 (wrMboxCtl s m d) := by
  unfold wrMboxCtl
  repeat' first
    | with_reducible assumption | with_reducible apply raiseOn_keepsMem | with_reducible apply setF_keepsMem
    | with_reducible apply setB_keepsMem | with_reducible apply emit_keepsMem | split | dsimp only

theorem wrMboxData_keepsMem {s0 : State} {s : State} {m : Master} {d : ℕ} {j : ℕ} {v : Word} (h_s : KeepsMem s0 s) :
    KeepsMem s0 (wrMboxData s m d j v) := by
  unfold wrMboxData
  repeat' first
    | with_reducible assumption | with_reducible apply setReg_keepsMem | with_reducible apply logMaster_keepsMem | split

theorem flashPut_keepsMem {s0 : State} {s : State} {a : ℕ} {x2 : List Byte} (h_s : KeepsMem s0 s) :
    KeepsMem s0 (flashPut s a x2) := by
  revert h_s
  fun_induction flashPut s a x2
  all_goals
    try rename_i ih
    intro h_s
    repeat' first
      | with_reducible assumption | with_reducible apply ih | dsimp only | exact rfl
      | with_reducible apply KeepsMem.mem | with_reducible apply KeepsMem.tiles
      | (refine KeepsMem.mk ?_ ?_ <;> dsimp only)

theorem nvCommand_keepsMem {s0 : State} {s : State} {m : Master} {op : ℕ} {len : ℕ} (h_s : KeepsMem s0 s) :
    KeepsMem s0 (nvCommand s m op len) := by
  unfold nvCommand
  repeat' first
    | with_reducible assumption | with_reducible apply setF_keepsMem | with_reducible apply logMaster_keepsMem
    | with_reducible apply setB_keepsMem | split | dsimp only | with_reducible apply KeepsMem.mem
    | with_reducible apply KeepsMem.tiles | (refine KeepsMem.mk ?_ ?_ <;> dsimp only)

theorem setNvBuffer_keepsMem {s0 : State} {s : State} {b : List Byte} (h_s : KeepsMem s0 s) :
    KeepsMem s0 (setNvBuffer s b) := by
  unfold setNvBuffer
  repeat' first
    | with_reducible assumption | with_reducible apply forRange_keeps | with_reducible apply setReg_keepsMem | intro _

theorem nvEffect_keepsMem {s0 : State} {s : State} {op : ℕ} {a : ℕ} {len : ℕ} (h_s : KeepsMem s0 s) :
    KeepsMem s0 (nvEffect s op a len) := by
  unfold nvEffect
  repeat' first
    | with_reducible assumption | with_reducible apply flashPut_keepsMem | with_reducible apply setNvBuffer_keepsMem | intro _
    | split | dsimp only | with_reducible apply KeepsMem.mem | with_reducible apply KeepsMem.tiles
    | (refine KeepsMem.mk ?_ ?_ <;> dsimp only)

theorem nvSpoil_keepsMem {s0 : State} {s : State} {op : ℕ} {a : ℕ} {len : ℕ} (h_s : KeepsMem s0 s) :
    KeepsMem s0 (nvSpoil s op a len) := by
  unfold nvSpoil
  repeat' first
    | with_reducible assumption | with_reducible apply forRange_keeps | with_reducible apply flashPut_keepsMem
    | with_reducible apply takeFree_keepsMem | intro _ | split

theorem nvDone_keepsMem {s0 : State} {s : State} {err : FlashErr} (h_s : KeepsMem s0 s) :
    KeepsMem s0 (nvDone s err) := by
  unfold nvDone
  repeat' first
    | with_reducible assumption | with_reducible apply raiseIrq_keepsMem | with_reducible apply setF_keepsMem
    | with_reducible apply setB_keepsMem | with_reducible apply nvSpoil_keepsMem | with_reducible apply nvEffect_keepsMem | split
    | dsimp only | with_reducible apply KeepsMem.mem | with_reducible apply KeepsMem.tiles
    | (refine KeepsMem.mk ?_ ?_ <;> dsimp only)

theorem fwExpiry_keepsMem {s0 : State} {s : State} (h_s : KeepsMem s0 s) :
    KeepsMem s0 (fwExpiry s) := by
  unfold fwExpiry
  repeat' first
    | with_reducible assumption | with_reducible apply logEv_keepsMem | with_reducible apply setF_keepsMem
    | with_reducible apply moduleFault_keepsMem | with_reducible apply bootStop_keepsMem | split | dsimp only
    | with_reducible apply KeepsMem.mem | with_reducible apply KeepsMem.tiles
    | (refine KeepsMem.mk ?_ ?_ <;> dsimp only)

theorem fillRestart_keepsMem {s0 : State} {s : State} (h_s : KeepsMem s0 s) :
    KeepsMem s0 (fillRestart s) := by
  unfold fillRestart
  repeat' first
    | with_reducible assumption | with_reducible apply logChip_keepsMem | intro _ | split

theorem watchdog_keepsMem {s0 : State} {s : State} (h_s : KeepsMem s0 s) :
    KeepsMem s0 (watchdog s) := by
  unfold watchdog
  repeat' first
    | with_reducible assumption | with_reducible apply fillRestart_keepsMem | with_reducible apply fwExpiry_keepsMem
    | with_reducible apply advanceTo_keepsMem

theorem mctp_keepsMem {s0 : State} {s : State} {x1 : MctpReq} (h_s : KeepsMem s0 s) :
    KeepsMem s0 (mctp s x1) := by
  unfold mctp
  repeat' first
    | with_reducible assumption | with_reducible apply emit_keepsMem | with_reducible apply wrCapW_keepsMem | split

/-! ### LinkCmd -/

theorem sendIdle_keepsMem {s0 : State} {s : State} {p : ℕ} (h_s : KeepsMem s0 s) :
    KeepsMem s0 (sendIdle s p) := by
  unfold sendIdle
  repeat' first
    | with_reducible assumption | with_reducible apply setLinkPort_keepsMem | intro _ | split | dsimp only
    | with_reducible apply KeepsMem.mem | with_reducible apply KeepsMem.tiles
    | (refine KeepsMem.mk ?_ ?_ <;> dsimp only)

theorem takeHeader_keepsMem {s0 : State} {s : State} {p : ℕ} {h : LinkHdr} (h_s : KeepsMem s0 s) :
    KeepsMem s0 (takeHeader s p h) := by
  unfold takeHeader
  repeat' first
    | with_reducible assumption | with_reducible apply setLinkPort_keepsMem

theorem countRetry_keepsMem {s0 : State} {s : State} {k : Packet} (h_s : KeepsMem s0 s) :
    KeepsMem s0 (countRetry s k) := by
  unfold countRetry
  repeat' first
    | with_reducible assumption | intro _ | split | dsimp only | with_reducible apply KeepsMem.mem
    | with_reducible apply KeepsMem.tiles | (refine KeepsMem.mk ?_ ?_ <;> dsimp only)

theorem refusePacket_keepsMem {s0 : State} {s : State} {p : ℕ} (h_s : KeepsMem s0 s) :
    KeepsMem s0 (refusePacket s p) := by
  unfold refusePacket
  repeat' first
    | with_reducible assumption | with_reducible apply sendIdle_keepsMem | with_reducible apply setLinkPort_keepsMem

theorem keepEarly_keepsMem {s0 : State} {k : Packet} {s : State} (h_s : KeepsMem s0 s) :
    KeepsMem s0 (keepEarly k s) := by
  unfold keepEarly
  repeat' first
    | with_reducible assumption | dsimp only | with_reducible apply KeepsMem.mem | with_reducible apply KeepsMem.tiles
    | (refine KeepsMem.mk ?_ ?_ <;> dsimp only)

theorem reply_keepsMem {s0 : State} {s : State} {type : ℕ} {vc : ℕ} {len : ℕ} {destL : ℕ} {tag : ℕ} {offset : ℕ} {body : Body} (h_s : KeepsMem s0 s) :
    KeepsMem s0 (reply s type vc len destL tag offset body) := by
  unfold reply
  repeat' first
    | with_reducible assumption | with_reducible apply inject_keepsMem

theorem takeRts_keepsMem {s0 : State} {k : Packet} {s : State} (h_s : KeepsMem s0 s) :
    KeepsMem s0 (takeRts k s) := by
  unfold takeRts
  repeat' first
    | with_reducible assumption | split | dsimp only | with_reducible apply KeepsMem.mem
    | with_reducible apply KeepsMem.tiles | (refine KeepsMem.mk ?_ ?_ <;> dsimp only)

theorem takeCts_keepsMem {s0 : State} {k : Packet} {s : State} (h_s : KeepsMem s0 s) :
    KeepsMem s0 (takeCts k s) := by
  unfold takeCts
  repeat' first
    | with_reducible assumption | with_reducible apply keepEarly_keepsMem | intro _ | split | dsimp only
    | with_reducible apply KeepsMem.mem | with_reducible apply KeepsMem.tiles
    | (refine KeepsMem.mk ?_ ?_ <;> dsimp only)

theorem takeTee_keepsMem {s0 : State} {k : Packet} {s : State} (h_s : KeepsMem s0 s) :
    KeepsMem s0 (takeTee k s) := by
  unfold takeTee
  repeat' first
    | with_reducible assumption | with_reducible apply keepEarly_keepsMem | with_reducible apply reply_keepsMem | split

theorem takeMaint_keepsMem {s0 : State} {k : Packet} {s : State} (h_s : KeepsMem s0 s) :
    KeepsMem s0 (takeMaint k s) := by
  unfold takeMaint
  repeat' first
    | with_reducible assumption | with_reducible apply emit_keepsMem | dsimp only | with_reducible apply KeepsMem.mem
    | with_reducible apply KeepsMem.tiles | (refine KeepsMem.mk ?_ ?_ <;> dsimp only)

theorem refMismatch_keepsMem {s0 : State} {s : State} {p : ℕ} (h_s : KeepsMem s0 s) :
    KeepsMem s0 (refMismatch s p) := by
  unfold refMismatch
  repeat' first
    | with_reducible assumption | with_reducible apply setB_keepsMem | with_reducible apply logEv_keepsMem | split | dsimp only
    | with_reducible apply KeepsMem.mem | with_reducible apply KeepsMem.tiles
    | (refine KeepsMem.mk ?_ ?_ <;> dsimp only)

theorem raisePort_keepsMem {s0 : State} {s : State} {p : ℕ} {t : TrainInfo} (h_s : KeepsMem s0 s) :
    KeepsMem s0 (raisePort s p t) := by
  unfold raisePort
  repeat' first
    | with_reducible assumption | with_reducible apply drainPort_keepsMem | with_reducible apply endAct_keepsMem
    | with_reducible apply logLink_keepsMem | with_reducible apply setLinkPort_keepsMem | with_reducible apply setB_keepsMem
    | with_reducible apply setReg_keepsMem | with_reducible apply refMismatch_keepsMem | split

theorem linkUp_keepsMem {s0 : State} {s : State} {p : ℕ} {t : TrainInfo} (h_s : KeepsMem s0 s) :
    KeepsMem s0 (linkUp s p t) := by
  unfold linkUp
  repeat' first
    | with_reducible assumption | with_reducible apply raisePort_keepsMem | with_reducible apply setReg_keepsMem
    | with_reducible apply setF_keepsMem | with_reducible apply logLink_keepsMem | with_reducible apply setB_keepsMem | split
    | dsimp only

theorem wrLinkEnable_keepsMem {s0 : State} {s : State} {p : ℕ} {en : Bool} (h_s : KeepsMem s0 s) :
    KeepsMem s0 (wrLinkEnable s p en) := by
  unfold wrLinkEnable
  repeat' first
    | with_reducible assumption | with_reducible apply setLinkPort_keepsMem | with_reducible apply takePortDown_keepsMem
    | with_reducible apply setB_keepsMem | split

theorem wrGroup_keepsMem {s0 : State} {s : State} {g : ℕ} {b : Bool} {v : Word} (h_s : KeepsMem s0 s) :
    KeepsMem s0 (wrGroup s g b v) := by
  unfold wrGroup
  repeat' first
    | with_reducible assumption | with_reducible apply setReg_keepsMem | with_reducible apply logLink_keepsMem | intro _ | split
    | dsimp only

theorem collTimeout_keepsMem {s0 : State} {s : State} {x : FrondRef} (h_s : KeepsMem s0 s) :
    KeepsMem s0 (collTimeout s x) := by
  unfold collTimeout
  repeat' first
    | with_reducible assumption | with_reducible apply withdrawArrival_keepsMem | with_reducible apply stopFrond_keepsMem
    | with_reducible apply logFrond_keepsMem | intro _ | split | dsimp only | with_reducible apply KeepsMem.mem
    | with_reducible apply KeepsMem.tiles | (refine KeepsMem.mk ?_ ?_ <;> dsimp only)

theorem teeFail_keepsMem {s0 : State} {s : State} {r : ℕ} {k : ℕ} (h_s : KeepsMem s0 s) :
    KeepsMem s0 (teeFail s r k) := by
  unfold teeFail
  repeat' first
    | with_reducible assumption | with_reducible apply logQueue_keepsMem | intro _ | split | dsimp only
    | with_reducible apply KeepsMem.mem | with_reducible apply KeepsMem.tiles
    | (refine KeepsMem.mk ?_ ?_ <;> dsimp only)

/-! ### Barrier -/

theorem giveBeat_keepsMem {s0 : State} {s : State} {f : Frond} {t : ℕ} (h_s : KeepsMem s0 s) :
    KeepsMem s0 (giveBeat s f t) := by
  unfold giveBeat
  repeat' first
    | with_reducible assumption | with_reducible apply putFrond_keepsMem | with_reducible apply logFrond_keepsMem | split

theorem checkLocal_keepsMem {s0 : State} {s : State} {key : ℕ} (h_s : KeepsMem s0 s) :
    KeepsMem s0 (checkLocal s key) := by
  unfold checkLocal
  repeat' first
    | with_reducible assumption | with_reducible apply foldl_keeps | with_reducible apply putFrond_keepsMem | intro _
    | split | dsimp only | with_reducible apply KeepsMem.mem | with_reducible apply KeepsMem.tiles
    | (refine KeepsMem.mk ?_ ?_ <;> dsimp only)

theorem arriveLocal_keepsMem {s0 : State} {s : State} {f : Frond} (h_s : KeepsMem s0 s) :
    KeepsMem s0 (arriveLocal s f) := by
  unfold arriveLocal
  repeat' first
    | with_reducible assumption | with_reducible apply checkLocal_keepsMem | with_reducible apply putFrond_keepsMem | dsimp only
    | with_reducible apply KeepsMem.mem | with_reducible apply KeepsMem.tiles
    | (refine KeepsMem.mk ?_ ?_ <;> dsimp only)

theorem jobLost_keepsMem {s0 : State} {s : State} (h_s : KeepsMem s0 s) :
    KeepsMem s0 (jobLost s) := by
  unfold jobLost
  repeat' first
    | with_reducible assumption | with_reducible apply logChip_keepsMem | split | dsimp only
    | with_reducible apply KeepsMem.mem | with_reducible apply KeepsMem.tiles
    | (refine KeepsMem.mk ?_ ?_ <;> dsimp only)

theorem takeRelease_keepsMem {s0 : State} {s : State} {id : ℕ} {t : ℕ} {drops : List ℕ} (h_s : KeepsMem s0 s) :
    KeepsMem s0 (takeRelease s id t drops) := by
  unfold takeRelease
  repeat' first
    | with_reducible assumption | with_reducible apply foldl_keeps | with_reducible apply giveBeat_keepsMem | intro _
    | split | dsimp only | with_reducible apply KeepsMem.mem | with_reducible apply KeepsMem.tiles
    | (refine KeepsMem.mk ?_ ?_ <;> dsimp only)

theorem checkRoot_keepsMem {s0 : State} {s : State} {g : ℕ} {id : ℕ} (h_s : KeepsMem s0 s) :
    KeepsMem s0 (checkRoot s g id) := by
  unfold checkRoot
  repeat' first
    | with_reducible assumption | with_reducible apply takeRelease_keepsMem | with_reducible apply foldl_keeps
    | with_reducible apply reply_keepsMem | with_reducible apply jobLost_keepsMem | intro _ | split | dsimp only
    | with_reducible apply KeepsMem.mem | with_reducible apply KeepsMem.tiles
    | (refine KeepsMem.mk ?_ ?_ <;> dsimp only)

theorem putArrival_keepsMem {s0 : State} {s : State} {id : ℕ} {rank : ℕ} {lvl : ℕ} {fresh : Bool} (h_s : KeepsMem s0 s) :
    KeepsMem s0 (putArrival s id rank lvl fresh) := by
  unfold putArrival
  repeat' first
    | with_reducible assumption | intro _ | dsimp only | with_reducible apply KeepsMem.mem
    | with_reducible apply KeepsMem.tiles | (refine KeepsMem.mk ?_ ?_ <;> dsimp only)

theorem arriveRank_keepsMem {s0 : State} {s : State} {g : ℕ} {id : ℕ} {rank : ℕ} {fresh : Bool} (h_s : KeepsMem s0 s) :
    KeepsMem s0 (arriveRank s g id rank fresh) := by
  unfold arriveRank
  repeat' first
    | with_reducible assumption | with_reducible apply reply_keepsMem | with_reducible apply putArrival_keepsMem | split
    | dsimp only

theorem arriveFor_keepsMem {s0 : State} {s : State} {g : ℕ} {id : ℕ} {f : Frond} (h_s : KeepsMem s0 s) :
    KeepsMem s0 (arriveFor s g id f) := by
  unfold arriveFor
  repeat' first
    | with_reducible assumption | with_reducible apply arriveRank_keepsMem | split

theorem arriveGroup_keepsMem {s0 : State} {s : State} {f : Frond} (h_s : KeepsMem s0 s) :
    KeepsMem s0 (arriveGroup s f) := by
  unfold arriveGroup
  repeat' first
    | with_reducible assumption | with_reducible apply arriveFor_keepsMem | with_reducible apply checkRoot_keepsMem | split
    | dsimp only

theorem barrierArrive_keepsMem {s0 : State} {s : State} {f : Frond} (h_s : KeepsMem s0 s) :
    KeepsMem s0 (barrierArrive s f) := by
  unfold barrierArrive
  repeat' first
    | with_reducible assumption | with_reducible apply arriveGroup_keepsMem | with_reducible apply putFrond_keepsMem
    | with_reducible apply arriveLocal_keepsMem | split

theorem resendArrivals_keepsMem {s0 : State} {s : State} (h_s : KeepsMem s0 s) :
    KeepsMem s0 (resendArrivals s) := by
  unfold resendArrivals
  repeat' first
    | with_reducible assumption | with_reducible apply foldl_keeps | with_reducible apply arriveGroup_keepsMem

theorem takeArrive_keepsMem {s0 : State} {k : Packet} {s : State} (h_s : KeepsMem s0 s) :
    KeepsMem s0 (takeArrive k s) := by
  unfold takeArrive
  repeat' first
    | with_reducible assumption | with_reducible apply putArrival_keepsMem | with_reducible apply checkRoot_keepsMem | split
    | dsimp only

theorem takeBarRelease_keepsMem {s0 : State} {k : Packet} {s : State} (h_s : KeepsMem s0 s) :
    KeepsMem s0 (takeBarRelease k s) := by
  unfold takeBarRelease
  repeat' first
    | with_reducible assumption | with_reducible apply takeRelease_keepsMem | split

theorem wrAliasF_keepsMem {s0 : State} {s : State} {i : ℕ} {v : Word} (h_s : KeepsMem s0 s) :
    KeepsMem s0 (wrAliasF s i v) := by
  unfold wrAliasF
  repeat' first
    | with_reducible assumption | with_reducible apply setReg_keepsMem | with_reducible apply resendArrivals_keepsMem
    | with_reducible apply commitAlias_keepsMem | split

/-! ### Sync -/

theorem phaseNow_keepsMem {s0 : State} {s : State} (h_s : KeepsMem s0 s) :
    KeepsMem s0 ((phaseNow s).2) := by
  unfold phaseNow
  repeat' first
    | with_reducible assumption | with_reducible apply takeFree_keepsMem

theorem heartbeatSend_keepsMem {s0 : State} {s : State} (h_s : KeepsMem s0 s) :
    KeepsMem s0 (heartbeatSend s) := by
  unfold heartbeatSend
  repeat' first
    | with_reducible assumption | with_reducible apply sendAll_keepsMem | with_reducible apply phaseNow_keepsMem
    | with_reducible apply advanceTo_keepsMem

theorem setAligned_keepsMem {s0 : State} {s : State} (h_s : KeepsMem s0 s) :
    KeepsMem s0 (setAligned s) := by
  unfold setAligned
  repeat' first
    | with_reducible assumption | with_reducible apply setB_keepsMem | split

theorem judgeError_keepsMem {s0 : State} {s : State} {p : ℕ} {err : ℤ} (h_s : KeepsMem s0 s) :
    KeepsMem s0 (judgeError s p err) := by
  unfold judgeError
  repeat' first
    | with_reducible assumption | with_reducible apply setAligned_keepsMem | with_reducible apply setB_keepsMem
    | with_reducible apply logCanary_keepsMem | split

theorem takeHeartbeat_keepsMem {s0 : State} {p : ℕ} {k : Packet} {err : ℤ} {s : State} (h_s : KeepsMem s0 s) :
    KeepsMem s0 (takeHeartbeat p k err s) := by
  unfold takeHeartbeat
  repeat' first
    | with_reducible assumption | with_reducible apply setLinkPort_keepsMem | with_reducible apply judgeError_keepsMem | split
    | dsimp only

theorem alignOut_keepsMem {s0 : State} {s : State} {from_ : Option ℕ} (h_s : KeepsMem s0 s) :
    KeepsMem s0 (alignOut s from_) := by
  unfold alignOut
  repeat' first
    | with_reducible assumption | with_reducible apply forRange_keeps | with_reducible apply sendOn_keepsMem
    | with_reducible apply phaseNow_keepsMem | intro _ | split | dsimp only

theorem takeAlign_keepsMem {s0 : State} {p : ℕ} {k : Packet} {s : State} (h_s : KeepsMem s0 s) :
    KeepsMem s0 (takeAlign p k s) := by
  unfold takeAlign
  repeat' first
    | with_reducible assumption | with_reducible apply alignOut_keepsMem | with_reducible apply setAligned_keepsMem
    | with_reducible apply setF_keepsMem | with_reducible apply setReg_keepsMem | split

/-! ### Fail -/

theorem setFailState_keepsMem {s0 : State} {s : State} {n : ℕ} (h_s : KeepsMem s0 s) :
    KeepsMem s0 (setFailState s n) := by
  unfold setFailState
  repeat' first
    | with_reducible assumption | with_reducible apply raiseIrq_keepsMem | with_reducible apply setF_keepsMem | split

theorem sendReady_keepsMem {s0 : State} {s : State} {dest : ℕ} {kind : ℕ} {value : ℕ} {value2 : ℕ} {domain : ℕ} {board : ℕ} (h_s : KeepsMem s0 s) :
    KeepsMem s0 (sendReady s dest kind value value2 domain board) := by
  unfold sendReady
  repeat' first
    | with_reducible assumption | with_reducible apply reply_keepsMem

theorem refusePair_keepsMem {s0 : State} {s : State} {refused : ℕ} {code : ℕ} {pay : ℕ} (h_s : KeepsMem s0 s) :
    KeepsMem s0 (refusePair s refused code pay) := by
  unfold refusePair
  repeat' first
    | with_reducible assumption | with_reducible apply setFailState_keepsMem | with_reducible apply logChip_keepsMem
    | with_reducible apply setF_keepsMem

theorem judgeSync_keepsMem {s0 : State} {s : State} {sender : ℕ} {value : ℕ} {value2 : ℕ} {domain : ℕ} {board : ℕ} (h_s : KeepsMem s0 s) :
    KeepsMem s0 (judgeSync s sender value value2 domain board) := by
  unfold judgeSync
  repeat' first
    | with_reducible assumption | with_reducible apply setFailState_keepsMem | with_reducible apply logChip_keepsMem
    | with_reducible apply setF_keepsMem | with_reducible apply refusePair_keepsMem | with_reducible apply setB_keepsMem
    | with_reducible apply takeFree_keepsMem | split | dsimp only | with_reducible apply KeepsMem.mem
    | with_reducible apply KeepsMem.tiles | (refine KeepsMem.mk ?_ ?_ <;> dsimp only)

theorem takeSync_keepsMem {s0 : State} {k : Packet} {s : State} (h_s : KeepsMem s0 s) :
    KeepsMem s0 (takeSync k s) := by
  unfold takeSync
  repeat' first
    | with_reducible assumption | with_reducible apply keepEarly_keepsMem | with_reducible apply judgeSync_keepsMem | split

theorem armTables_keepsMem {s0 : State} {s : State} (h_s : KeepsMem s0 s) :
    KeepsMem s0 (armTables s) := by
  unfold armTables
  repeat' first
    | with_reducible assumption | with_reducible apply forRange_keeps | with_reducible apply setB_keepsMem | intro _

theorem armNow_keepsMem {s0 : State} {s : State} (h_s : KeepsMem s0 s) :
    KeepsMem s0 (armNow s) := by
  unfold armNow
  repeat' first
    | with_reducible assumption | with_reducible apply setFailState_keepsMem | with_reducible apply armTables_keepsMem
    | with_reducible apply foldl_keeps | with_reducible apply takeSync_keepsMem | with_reducible apply sendReady_keepsMem
    | intro _ | split | dsimp only | with_reducible apply KeepsMem.mem | with_reducible apply KeepsMem.tiles
    | (refine KeepsMem.mk ?_ ?_ <;> dsimp only)

theorem wrFailCtrl_keepsMem {s0 : State} {s : State} {m : Master} {v : Word} (h_s : KeepsMem s0 s) :
    KeepsMem s0 (wrFailCtrl s m v) := by
  unfold wrFailCtrl
  repeat' first
    | with_reducible assumption | with_reducible apply setB_keepsMem | with_reducible apply logMaster_keepsMem
    | with_reducible apply setFailState_keepsMem | with_reducible apply armNow_keepsMem | split | dsimp only

theorem partnerAbsent_keepsMem {s0 : State} {s : State} (h_s : KeepsMem s0 s) :
    KeepsMem s0 (partnerAbsent s) := by
  unfold partnerAbsent
  repeat' first
    | with_reducible assumption | with_reducible apply refusePair_keepsMem | with_reducible apply advanceTo_keepsMem | split
    | dsimp only | with_reducible apply KeepsMem.mem | with_reducible apply KeepsMem.tiles
    | (refine KeepsMem.mk ?_ ?_ <;> dsimp only)

theorem takeColdDirty_keepsMem {s0 : State} {k : Packet} {s : State} (h_s : KeepsMem s0 s) :
    KeepsMem s0 (takeColdDirty k s) := by
  unfold takeColdDirty
  repeat' first
    | with_reducible assumption | with_reducible apply sendReady_keepsMem | with_reducible apply setB_keepsMem | split
    | dsimp only

theorem dirtyNow_keepsMem {s0 : State} {s : State} {i : ℕ} (h_s : KeepsMem s0 s) :
    KeepsMem s0 (dirtyNow s i) := by
  unfold dirtyNow
  repeat' first
    | with_reducible assumption | with_reducible apply setB_keepsMem | intro _ | dsimp only
    | with_reducible apply KeepsMem.mem | with_reducible apply KeepsMem.tiles
    | (refine KeepsMem.mk ?_ ?_ <;> dsimp only)

theorem takeDirtyAck_keepsMem {s0 : State} {k : Packet} {s : State} (h_s : KeepsMem s0 s) :
    KeepsMem s0 (takeDirtyAck k s) := by
  unfold takeDirtyAck
  repeat' first
    | with_reducible assumption | with_reducible apply bump_keepsMem | with_reducible apply dirtyNow_keepsMem | split

theorem unprotected_keepsMem {s0 : State} {s : State} {i : ℕ} (h_s : KeepsMem s0 s) :
    KeepsMem s0 (unprotected s i) := by
  unfold unprotected
  repeat' first
    | with_reducible assumption | with_reducible apply logChip_keepsMem | with_reducible apply dirtyNow_keepsMem
    | with_reducible apply advanceTo_keepsMem | split | dsimp only | with_reducible apply KeepsMem.mem
    | with_reducible apply KeepsMem.tiles | (refine KeepsMem.mk ?_ ?_ <;> dsimp only)

theorem judgeDigest_keepsMem {s0 : State} {s : State} {own : ℕ} {shadow : ℕ} (h_s : KeepsMem s0 s) :
    KeepsMem s0 (judgeDigest s own shadow) := by
  unfold judgeDigest
  repeat' first
    | with_reducible assumption | with_reducible apply setFailState_keepsMem | with_reducible apply logChip_keepsMem | split
    | dsimp only | with_reducible apply KeepsMem.mem | with_reducible apply KeepsMem.tiles
    | (refine KeepsMem.mk ?_ ?_ <;> dsimp only)

theorem takeDigest_keepsMem {s0 : State} {k : Packet} {s : State} (h_s : KeepsMem s0 s) :
    KeepsMem s0 (takeDigest k s) := by
  unfold takeDigest
  repeat' first
    | with_reducible assumption | with_reducible apply judgeDigest_keepsMem | with_reducible apply keepEarly_keepsMem | split

theorem fence_keepsMem {s0 : State} {s : State} (h_s : KeepsMem s0 s) :
    KeepsMem s0 (fence s) := by
  unfold fence
  repeat' first
    | with_reducible assumption | with_reducible apply stopInFlight_keepsMem | with_reducible apply logChip_keepsMem
    | with_reducible apply setFailState_keepsMem | intro _ | split

theorem noteSeen_keepsMem {s0 : State} {s : State} {k : ℕ × ℕ × ℕ} (h_s : KeepsMem s0 s) :
    KeepsMem s0 (noteSeen s k) := by
  unfold noteSeen
  repeat' first
    | with_reducible assumption | dsimp only | with_reducible apply KeepsMem.mem | with_reducible apply KeepsMem.tiles
    | (refine KeepsMem.mk ?_ ?_ <;> dsimp only)

theorem lossAliases_keepsMem {s0 : State} {s : State} {deadL : ℕ} {deadP : ℕ} {standin : ℕ} (h_s : KeepsMem s0 s) :
    (∀ y0, lossAliases s deadL deadP standin = some y0 → KeepsMem s0 y0) := by
  unfold lossAliases
  intro y hy
  split at hy
  · cases hy
  · split at hy
    · cases hy; exact setAlias_keepsMem h_s _ ‹_›
    · exact setAlias_keepsMem (setAlias_keepsMem h_s _ ‹_›) _ hy

theorem startStandin_keepsMem {s0 : State} {s : State} {deadL : ℕ} {deadP : ℕ} {origin : ℕ} (h_s : KeepsMem s0 s) :
    KeepsMem s0 (startStandin s deadL deadP origin) := by
  unfold startStandin
  repeat' first
    | with_reducible assumption | with_reducible apply logChip_keepsMem | with_reducible apply setFailState_keepsMem
    | with_reducible apply setReg_keepsMem | with_reducible apply sendAll_keepsMem | with_reducible apply noteSeen_keepsMem | intro _
    | split | dsimp only | with_reducible apply KeepsMem.mem | with_reducible apply KeepsMem.tiles
    | (refine KeepsMem.mk ?_ ?_ <;> dsimp only)

theorem selfFence_keepsMem {s0 : State} {s : State} (h_s : KeepsMem s0 s) :
    KeepsMem s0 (selfFence s) := by
  unfold selfFence
  repeat' first
    | with_reducible assumption | with_reducible apply fence_keepsMem | with_reducible apply advanceTo_keepsMem | split

theorem claimGemma_keepsMem {s0 : State} {s : State} (h_s : KeepsMem s0 s) :
    KeepsMem s0 (claimGemma s) := by
  unfold claimGemma
  repeat' first
    | with_reducible assumption | with_reducible apply logChip_keepsMem | with_reducible apply inject_keepsMem | split
    | dsimp only | with_reducible apply KeepsMem.mem | with_reducible apply KeepsMem.tiles
    | (refine KeepsMem.mk ?_ ?_ <;> dsimp only)

theorem takeClaim_keepsMem {s0 : State} {k : Packet} {s : State} (h_s : KeepsMem s0 s) :
    KeepsMem s0 (takeClaim k s) := by
  unfold takeClaim
  repeat' first
    | with_reducible assumption | with_reducible apply sendReady_keepsMem | with_reducible apply setFailState_keepsMem | split
    | dsimp only | with_reducible apply KeepsMem.mem | with_reducible apply KeepsMem.tiles
    | (refine KeepsMem.mk ?_ ?_ <;> dsimp only)

theorem takeAccept_keepsMem {s0 : State} {k : Packet} {s : State} (h_s : KeepsMem s0 s) :
    KeepsMem s0 (takeAccept k s) := by
  unfold takeAccept
  repeat' first
    | with_reducible assumption | with_reducible apply logChip_keepsMem | with_reducible apply setReg_keepsMem
    | with_reducible apply setB_keepsMem | split | dsimp only | with_reducible apply KeepsMem.mem
    | with_reducible apply KeepsMem.tiles | (refine KeepsMem.mk ?_ ?_ <;> dsimp only)

theorem takeBusy_keepsMem {s0 : State} {k : Packet} {s : State} (h_s : KeepsMem s0 s) :
    KeepsMem s0 (takeBusy k s) := by
  unfold takeBusy
  repeat' first
    | with_reducible assumption | with_reducible apply claimGemma_keepsMem | with_reducible apply setB_keepsMem | split
    | dsimp only | with_reducible apply KeepsMem.mem | with_reducible apply KeepsMem.tiles
    | (refine KeepsMem.mk ?_ ?_ <;> dsimp only)

theorem fillDone_keepsMem {s0 : State} {s : State} (h_s : KeepsMem s0 s) :
    KeepsMem s0 (fillDone s) := by
  unfold fillDone
  repeat' first
    | with_reducible assumption | with_reducible apply logChip_keepsMem | with_reducible apply setB_keepsMem | split

theorem completeHandover_keepsMem {s0 : State} {s : State} {l : ℕ} {g : ℕ} (h_s : KeepsMem s0 s) :
    KeepsMem s0 (completeHandover s l g) := by
  unfold completeHandover
  extract_lets dead s1 s2
  have h1 : KeepsMem s0 s1 := getD_keeps (setAlias_keepsMem h_s) h_s
  have h2 : KeepsMem s0 s2 := by
    with_reducible apply forRange_keeps
    · intro i x hx
      split
      · exact setB_keepsMem hx
      · exact hx
    · exact h1
  exact resendArrivals_keepsMem ⟨h2.mem, h2.tiles⟩

theorem becomeMember_keepsMem {s0 : State} {s : State} {symbiontP : ℕ} (h_s : KeepsMem s0 s) :
    KeepsMem s0 (becomeMember s symbiontP) := by
  unfold becomeMember
  repeat' first
    | with_reducible assumption | with_reducible apply forRange_keeps | with_reducible apply wrEnable_keepsMem
    | with_reducible apply logChip_keepsMem | with_reducible apply setFailState_keepsMem | with_reducible apply setReg_keepsMem
    | intro _ | split | dsimp only | with_reducible apply KeepsMem.mem | with_reducible apply KeepsMem.tiles
    | (refine KeepsMem.mk ?_ ?_ <;> dsimp only)

theorem takeAdopt_keepsMem {s0 : State} {p : ℕ} {k : Packet} {s : State} (h_s : KeepsMem s0 s) :
    KeepsMem s0 (takeAdopt p k s) := by
  unfold takeAdopt
  repeat' first
    | with_reducible assumption | with_reducible apply noteSeen_keepsMem | with_reducible apply sendAll_keepsMem
    | with_reducible apply completeHandover_keepsMem | with_reducible apply becomeMember_keepsMem | split | dsimp only
    | with_reducible apply KeepsMem.mem | with_reducible apply KeepsMem.tiles
    | (refine KeepsMem.mk ?_ ?_ <;> dsimp only)

/-! ### RegWrite -/

theorem readAs_keepsMem {s0 : State} {s : State} {m : Master} {o : ℕ} {len : ℕ} (h_s : KeepsMem s0 s) :
    KeepsMem s0 ((readAs s m o len).1) := by
  unfold readAs
  repeat' first
    | with_reducible assumption | with_reducible apply logMaster_keepsMem | split

theorem plainWrite_keepsMem {s0 : State} {s : State} {row : RegRow} {o : ℕ} {x : RegWr} (h_s : KeepsMem s0 s) :
    KeepsMem s0 (plainWrite s row o x) := by
  unfold plainWrite
  repeat' first
    | with_reducible assumption | with_reducible apply setReg_keepsMem

theorem wrSys_keepsMem {s0 : State} {s : State} {m : Master} {row : RegRow} {k : ℕ} {x : RegWr} (h_s : KeepsMem s0 s) :
    KeepsMem s0 (wrSys s m row k x) := by
  unfold wrSys
  repeat' first
    | with_reducible assumption | with_reducible apply plainWrite_keepsMem | with_reducible apply rngRetry_keepsMem
    | with_reducible apply takeFree_keepsMem | with_reducible apply wrCapW_keepsMem | with_reducible apply setF_keepsMem
    | with_reducible apply wrMemcfg_keepsMem | split

theorem wrBeat_keepsMem {s0 : State} {s : State} {row : RegRow} {o : ℕ} {x : RegWr} (h_s : KeepsMem s0 s) :
    KeepsMem s0 (wrBeat s row o x) := by
  unfold wrBeat
  repeat' first
    | with_reducible assumption | with_reducible apply plainWrite_keepsMem | with_reducible apply setReg_keepsMem
    | with_reducible apply clearNd_keepsMem | split

theorem wrLog_keepsMem {s0 : State} {s : State} {row : RegRow} {o : ℕ} {x : RegWr} (h_s : KeepsMem s0 s) :
    KeepsMem s0 (wrLog s row o x) := by
  unfold wrLog
  repeat' first
    | with_reducible assumption | with_reducible apply plainWrite_keepsMem | with_reducible apply wrDrainTail_keepsMem
    | with_reducible apply wrRdSel_keepsMem | with_reducible apply wrLogTail_keepsMem | split

theorem wrFail_keepsMem {s0 : State} {s : State} {m : Master} {row : RegRow} {o : ℕ} {x : RegWr} (h_s : KeepsMem s0 s) :
    KeepsMem s0 (wrFail s m row o x) := by
  unfold wrFail
  repeat' first
    | with_reducible assumption | with_reducible apply plainWrite_keepsMem | with_reducible apply logMaster_keepsMem
    | with_reducible apply wrFailCtrl_keepsMem | split

theorem wrPke_keepsMem {s0 : State} {s : State} {row : RegRow} {o : ℕ} {x : RegWr} (h_s : KeepsMem s0 s) :
    KeepsMem s0 (wrPke s row o x) := by
  unfold wrPke
  repeat' first
    | with_reducible assumption | with_reducible apply plainWrite_keepsMem | with_reducible apply logPke_keepsMem
    | with_reducible apply pkeGo_keepsMem | split

theorem wrMgmt_keepsMem {s0 : State} {s : State} {m : Master} {row : RegRow} {o : ℕ} {x : RegWr} (h_s : KeepsMem s0 s) :
    KeepsMem s0 (wrMgmt s m row o x) := by
  unfold wrMgmt
  repeat' first
    | with_reducible assumption | with_reducible apply wrMboxData_keepsMem | with_reducible apply wrMboxCtl_keepsMem
    | with_reducible apply plainWrite_keepsMem | with_reducible apply wrSem_keepsMem | with_reducible apply setReg_keepsMem | split
    | dsimp only | with_reducible apply KeepsMem.mem | with_reducible apply KeepsMem.tiles
    | (refine KeepsMem.mk ?_ ?_ <;> dsimp only)

theorem wrNv_keepsMem {s0 : State} {s : State} {m : Master} {row : RegRow} {o : ℕ} {x : RegWr} (h_s : KeepsMem s0 s) :
    KeepsMem s0 (wrNv s m row o x) := by
  unfold wrNv
  repeat' first
    | with_reducible assumption | with_reducible apply plainWrite_keepsMem | with_reducible apply nvCommand_keepsMem | split

theorem wrTorus_keepsMem {s0 : State} {s : State} {m : Master} {v : Word} (h_s : KeepsMem s0 s) :
    KeepsMem s0 (wrTorus s m v) := by
  unfold wrTorus
  repeat' first
    | with_reducible assumption | with_reducible apply setF_keepsMem | with_reducible apply setB_keepsMem
    | with_reducible apply logMaster_keepsMem | split | dsimp only

theorem wrPcie_keepsMem {s0 : State} {s : State} {row : RegRow} {n : ℕ} {o : ℕ} {x : RegWr} (h_s : KeepsMem s0 s) :
    KeepsMem s0 (wrPcie s row n o x) := by
  unfold wrPcie
  repeat' first
    | with_reducible assumption | with_reducible apply plainWrite_keepsMem | with_reducible apply maskMwin_keepsMem | split

theorem wrMat_keepsMem {s0 : State} {s : State} {m : Master} {row : RegRow} {r : ℕ} {k : ℕ} {x : RegWr} (h_s : KeepsMem s0 s) :
    KeepsMem s0 (wrMat s m row r k x) := by
  unfold wrMat
  repeat' first
    | with_reducible assumption | with_reducible apply plainWrite_keepsMem | with_reducible apply wrPclass_keepsMem
    | with_reducible apply wrCircPtr_keepsMem | with_reducible apply wrCirc_keepsMem | with_reducible apply wrHoff_keepsMem
    | with_reducible apply setF_keepsMem | with_reducible apply wrMatMode_keepsMem | split

theorem wrPeri_keepsMem {s0 : State} {s : State} {row : RegRow} {r : ℕ} {k : ℕ} {x : RegWr} (h_s : KeepsMem s0 s) :
    KeepsMem s0 (wrPeri s row r k x) := by
  unfold wrPeri
  repeat' first
    | with_reducible assumption | with_reducible apply plainWrite_keepsMem | with_reducible apply wrKsetBase_keepsMem
    | with_reducible apply ksetGo_keepsMem | with_reducible apply ksetClear_keepsMem | split

theorem hostRead_keepsMem {s0 : State} {s : State} {p : Fin 2} {bar : Bar} {a : ℕ} {n : ℕ} (h_s : KeepsMem s0 s) :
    KeepsMem s0 (hostRead s p bar a n) := by
  unfold hostRead
  repeat' first
    | with_reducible assumption | with_reducible apply emit_keepsMem | with_reducible apply readAs_keepsMem
    | with_reducible apply hostMemRead_keepsMem | with_reducible apply hold_keepsMem | split

theorem doorbellRead_keepsMem {s0 : State} {s : State} {p : Fin 2} {o : ℕ} {n : ℕ} (h_s : KeepsMem s0 s) :
    KeepsMem s0 (doorbellRead s p o n) := by
  unfold doorbellRead
  repeat' first
    | with_reducible assumption | with_reducible apply hostRead_keepsMem | with_reducible apply emit_keepsMem | split

theorem barRead_keepsMem {s0 : State} {s : State} {p : Fin 2} {bar : Bar} {o : ℕ} {n : ℕ} (h_s : KeepsMem s0 s) :
    KeepsMem s0 (barRead s p bar o n) := by
  unfold barRead
  repeat' first
    | with_reducible assumption | with_reducible apply hostRead_keepsMem | with_reducible apply emit_keepsMem
    | with_reducible apply doorbellRead_keepsMem | split

end Sys2Proof.Machine
end

