-- ==== Sys2Proof/Laws/MemUnits.lean ====
section
/-! SUPPORT. Operations that leave every byte of memory and of the tiles as it was: what the units do beside their stores. -/

namespace Sys2Proof.Machine
open Sys2Proof

/-! ### Access -/

theorem swapLine_keepsMem {s0 : State} {line : ℕ} {write : Bool} {s : State} (h_s : KeepsMem s0 s) :
    KeepsMem s0 (swapLine line write s) := by
  unfold swapLine
  repeat' first
    | with_reducible assumption | split | dsimp only | with_reducible apply KeepsMem.mem
    | with_reducible apply KeepsMem.tiles | (refine KeepsMem.mk ?_ ?_ <;> dsimp only)

theorem recomputeLine_keepsMem {s0 : State} {s : State} {a : ℕ} (h_s : KeepsMem s0 s) :
    KeepsMem s0 (recomputeLine s a) := by
  unfold recomputeLine
  repeat' first
    | with_reducible assumption | intro _ | split | dsimp only | with_reducible apply KeepsMem.mem
    | with_reducible apply KeepsMem.tiles | (refine KeepsMem.mk ?_ ?_ <;> dsimp only)

theorem checkRead_keepsMem {s0 : State} {s : State} {a : ℕ} {res : Bool} (h_s : KeepsMem s0 s) :
    KeepsMem s0 ((checkRead s a res).1) := by
  unfold checkRead
  repeat' first
    | with_reducible assumption | with_reducible apply noteRead_keepsMem | with_reducible apply recomputeLine_keepsMem | split

theorem grantLine_keepsMem {s0 : State} {s : State} {line : ℕ} {write : Bool} {res : Bool} (h_s : KeepsMem s0 s) :
    KeepsMem s0 ((grantLine s line write res).1) := by
  unfold grantLine
  repeat' first
    | with_reducible assumption | with_reducible apply checkRead_keepsMem | split

theorem circMove_keepsMem {s0 : State} {rg : ℕ} {k : ℕ} {write : Bool} {s : State} (h_s : KeepsMem s0 s) :
    KeepsMem s0 (circMove rg k write s) := by
  unfold circMove
  repeat' first
    | with_reducible assumption | with_reducible apply setF_keepsMem

theorem settleUpset_keepsMem {s0 : State} {s : State} {a : ℕ} {whole : ℕ → ℕ → Bool} (h_s : KeepsMem s0 s) :
    KeepsMem s0 ((settleUpset s a whole).1) := by
  unfold settleUpset
  repeat' first
    | with_reducible assumption | with_reducible apply dropUpset_keepsMem | with_reducible apply readHbm_keepsMem | split

theorem logSkip_keepsMem {s0 : State} {s : State} {f : Frond} {x : Status} (h_s : KeepsMem s0 s) :
    KeepsMem s0 (logSkip s f x) := by
  unfold logSkip
  repeat' first
    | with_reducible assumption | with_reducible apply logFrond_keepsMem | split

theorem haltFrond_keepsMem {s0 : State} {s : State} {f : Frond} {x : Status} (h_s : KeepsMem s0 s) :
    KeepsMem s0 (haltFrond s f x) := by
  unfold haltFrond
  repeat' first
    | with_reducible assumption | with_reducible apply stopFrond_keepsMem | with_reducible apply logSkip_keepsMem
    | with_reducible apply putFrond_keepsMem

/-! ### Collect -/

theorem teeTo_keepsMem {s0 : State} {f : Frond} {src : ℕ} {l : List (ℕ × Byte)} {poison : Bool} {s : State} {t : TeeEntry} (h_s : KeepsMem s0 s) :
    KeepsMem s0 (teeTo f src l poison s t) := by
  unfold teeTo
  repeat' first
    | with_reducible assumption | with_reducible apply foldl_keeps | with_reducible apply inject_keepsMem | intro _ | split
    | dsimp only | with_reducible apply KeepsMem.mem | with_reducible apply KeepsMem.tiles
    | (refine KeepsMem.mk ?_ ?_ <;> dsimp only)

/-! ### Tiles -/

theorem restoreState_keepsMem {s0 : State} {v : ℕ} {b : List ℕ} {k : ℕ} {s : State} (h_s : KeepsMem s0 s) :
    KeepsMem s0 (restoreState v b k s) := by
  unfold restoreState
  repeat' first
    | with_reducible assumption | with_reducible apply setReg_keepsMem

/-! ### Ctd -/

theorem leastBudget_keepsMem {s0 : State} {s : State} {l : List Ctd} (h_s : KeepsMem s0 s) :
    KeepsMem s0 ((leastBudget s l).2) := by
  unfold leastBudget
  repeat' first
    | with_reducible assumption | with_reducible apply takeFree_keepsMem | intro _ | split

theorem budgetOf_keepsMem {s0 : State} {s : State} {r : ℕ} {l : List Ctd} {cost : ℕ} (h_s : KeepsMem s0 s) :
    KeepsMem s0 ((budgetOf s r l cost).2) := by
  unfold budgetOf
  repeat' first
    | with_reducible assumption | with_reducible apply leastBudget_keepsMem | split

/-! ### Matrix -/

theorem countTile_keepsMem {s0 : State} {f : Frond} {t : ℕ} {macs : ℕ} {s : State} (h_s : KeepsMem s0 s) :
    KeepsMem s0 (countTile f t macs s) := by
  unfold countTile
  repeat' first
    | with_reducible assumption | with_reducible apply bumpUnits_keepsMem | with_reducible apply bump_keepsMem

/-! ### KSwitch -/

theorem countConv_keepsMem {s0 : State} {f : Frond} {n : ℕ} {limbs : List ℕ} {s : State} (h_s : KeepsMem s0 s) :
    KeepsMem s0 (countConv f n limbs s) := by
  unfold countConv
  repeat' first
    | with_reducible assumption | with_reducible apply foldl_snd_keeps | with_reducible apply bumpUnits_keepsMem | intro _
    | split

/-! ### Protect -/

theorem takeDrops_keepsMem {s0 : State} {s : State} {f : Frond} (h_s : KeepsMem s0 s) :
    KeepsMem s0 (takeDrops s f) := by
  unfold takeDrops
  repeat' first
    | with_reducible assumption | with_reducible apply putFrond_keepsMem | intro _ | split | dsimp only | exact rfl
    | with_reducible apply KeepsMem.mem | with_reducible apply KeepsMem.tiles
    | (refine KeepsMem.mk ?_ ?_ <;> dsimp only)

theorem startRollback_keepsMem {s0 : State} {s : State} {f : Frond} (h_s : KeepsMem s0 s) :
    KeepsMem s0 (startRollback s f) := by
  unfold startRollback
  repeat' first
    | with_reducible assumption | with_reducible apply putFrond_keepsMem | with_reducible apply logFrond_keepsMem
    | with_reducible apply setFailState_keepsMem | split | dsimp only | exact rfl | with_reducible apply KeepsMem.mem
    | with_reducible apply KeepsMem.tiles | (refine KeepsMem.mk ?_ ?_ <;> dsimp only)

theorem endRollback_keepsMem {s0 : State} {s : State} {f : Frond} (h_s : KeepsMem s0 s) :
    KeepsMem s0 (endRollback s f) := by
  unfold endRollback
  repeat' first
    | with_reducible assumption | with_reducible apply logFrond_keepsMem | with_reducible apply setFailState_keepsMem | split

theorem shadowCheck_keepsMem {s0 : State} {s : State} (h_s : KeepsMem s0 s) :
    KeepsMem s0 (shadowCheck s) := by
  unfold shadowCheck
  repeat' first
    | with_reducible assumption | with_reducible apply takeDigest_keepsMem | with_reducible apply sendReady_keepsMem | split
    | dsimp only | with_reducible apply KeepsMem.mem | with_reducible apply KeepsMem.tiles
    | (refine KeepsMem.mk ?_ ?_ <;> dsimp only)

theorem sendSpans_keepsMem {s0 : State} {s : State} {dest : ℕ} {tag : ℕ} {l : List (ℕ × ℕ × ℕ)} (h_s : KeepsMem s0 s) :
    KeepsMem s0 (sendSpans s dest tag l) := by
  unfold sendSpans
  repeat' first
    | with_reducible assumption | with_reducible apply foldl_keeps | with_reducible apply inject_keepsMem | intro _

theorem reseedShadows_keepsMem {s0 : State} {s : State} {f : Frond} (h_s : KeepsMem s0 s) :
    KeepsMem s0 (reseedShadows s f) := by
  unfold reseedShadows
  repeat' first
    | with_reducible assumption | with_reducible apply logFrond_keepsMem | with_reducible apply setFailState_keepsMem
    | with_reducible apply sendSpans_keepsMem | intro _ | split | dsimp only | with_reducible apply KeepsMem.mem
    | with_reducible apply KeepsMem.tiles | (refine KeepsMem.mk ?_ ?_ <;> dsimp only)

theorem handOver_keepsMem {s0 : State} {s : State} {f : Frond} (h_s : KeepsMem s0 s) :
    KeepsMem s0 (handOver s f) := by
  unfold handOver
  repeat' first
    | with_reducible assumption | with_reducible apply logFrond_keepsMem | with_reducible apply setFailState_keepsMem
    | with_reducible apply completeHandover_keepsMem | with_reducible apply setReg_keepsMem | with_reducible apply sendAll_keepsMem
    | with_reducible apply noteSeen_keepsMem | with_reducible apply sendSpans_keepsMem | intro _ | split | dsimp only
    | exact rfl | with_reducible apply KeepsMem.mem | with_reducible apply KeepsMem.tiles
    | (refine KeepsMem.mk ?_ ?_ <;> dsimp only)

theorem handOverDue_keepsMem {s0 : State} {s : State} (h_s : KeepsMem s0 s) :
    KeepsMem s0 (handOverDue s) := by
  unfold handOverDue
  repeat' first
    | with_reducible assumption | with_reducible apply completeHandover_keepsMem | split

theorem startImages_keepsMem {s0 : State} {s : State} {ended : ℕ} (h_s : KeepsMem s0 s) :
    KeepsMem s0 (startImages s ended) := by
  unfold startImages
  repeat' first
    | with_reducible assumption | with_reducible apply forRange_keeps | with_reducible apply wrEnable_keepsMem
    | with_reducible apply setB_keepsMem | with_reducible apply setReg_keepsMem | intro _ | split | dsimp only
    | with_reducible apply KeepsMem.mem | with_reducible apply KeepsMem.tiles
    | (refine KeepsMem.mk ?_ ?_ <;> dsimp only)

theorem boundary_keepsMem {s0 : State} {f : Frond} {s : State} (h_s : KeepsMem s0 s) :
    KeepsMem s0 (boundary f s) := by
  unfold boundary
  repeat' first
    | with_reducible assumption | with_reducible apply startImages_keepsMem | with_reducible apply handOverDue_keepsMem
    | with_reducible apply handOver_keepsMem | with_reducible apply reseedShadows_keepsMem | with_reducible apply setReg_keepsMem
    | with_reducible apply shadowCheck_keepsMem | split | dsimp only | exact rfl | with_reducible apply KeepsMem.mem
    | with_reducible apply KeepsMem.tiles | (refine KeepsMem.mk ?_ ?_ <;> dsimp only)

theorem nextStep_keepsMem {s0 : State} {s : State} (h_s : KeepsMem s0 s) :
    KeepsMem s0 (nextStep s) := by
  unfold nextStep
  repeat' first
    | with_reducible assumption | split | dsimp only | with_reducible apply KeepsMem.mem
    | with_reducible apply KeepsMem.tiles | (refine KeepsMem.mk ?_ ?_ <;> dsimp only)

/-! ### Service -/

theorem barrierUnit_keepsMem {s0 : State} {s : State} {x : FrondRef} (h_s : KeepsMem s0 s) :
    KeepsMem s0 (barrierUnit s x) := by
  unfold barrierUnit
  repeat' first
    | with_reducible assumption | with_reducible apply barrierArrive_keepsMem | split

theorem failCell_keepsMem {s0 : State} {f : Frond} {s : State} {c : CellSel} (h_s : KeepsMem s0 s) :
    KeepsMem s0 (failCell f s c) := by
  unfold failCell
  repeat' first
    | with_reducible assumption | with_reducible apply countCellFault_keepsMem | with_reducible apply logUnit_keepsMem | split

theorem resumeGranted_keepsMem {s0 : State} {s : State} {f : Frond} {g : Grant} {bad : Bool} (h_s : KeepsMem s0 s) :
    KeepsMem s0 (resumeGranted s f g bad) := by
  unfold resumeGranted
  repeat' first
    | with_reducible assumption | with_reducible apply putFrond_keepsMem

theorem grantTo_keepsMem {s0 : State} {s : State} {f : Frond} {p : Parked} {line : ℕ} {seq : ℕ} (h_s : KeepsMem s0 s) :
    KeepsMem s0 (grantTo s f p line seq) := by
  unfold grantTo
  repeat' first
    | with_reducible assumption | with_reducible apply resumeGranted_keepsMem | with_reducible apply grantLine_keepsMem

theorem presentAgain_keepsMem {s0 : State} {s : State} {x : FrondRef} {circ : Bool} (h_s : KeepsMem s0 s) :
    KeepsMem s0 (presentAgain s x circ) := by
  unfold presentAgain
  repeat' first
    | with_reducible assumption | with_reducible apply swapLine_keepsMem | with_reducible apply grantTo_keepsMem
    | with_reducible apply circMove_keepsMem | split

theorem waitExpires_keepsMem {s0 : State} {s : State} {x : FrondRef} {circ : Bool} (h_s : KeepsMem s0 s) :
    KeepsMem s0 (waitExpires s x circ) := by
  unfold waitExpires
  repeat' first
    | with_reducible assumption | with_reducible apply stopFrond_keepsMem | with_reducible apply logUnit_keepsMem
    | with_reducible apply advanceTo_keepsMem | split

/-! ### Scheme -/

theorem countKey_keepsMem {s0 : State} {f : Frond} {bytes : ℕ} {res : ℕ} {refused : ℕ} {down : ℕ} {up : ℕ} {s : State} (h_s : KeepsMem s0 s) :
    KeepsMem s0 (countKey f bytes res refused down up s) := by
  unfold countKey
  repeat' first
    | with_reducible assumption | with_reducible apply bump_keepsMem

end Sys2Proof.Machine
end

