-- ==== Sys2Proof/Laws/MemSequencer.lean ====
section
/-! SUPPORT. Operations that leave every byte of memory and of the tiles as it was: decode, acceptance and start-up. -/

namespace Sys2Proof.Machine
open Sys2Proof

/-! ### Queue -/

theorem noteUnmapped_keepsMem {s0 : State} {s : State} {f : Frond} {p : Option OpSpec} (h_s : KeepsMem s0 s) :
    KeepsMem s0 (noteUnmapped s f p) := by
  unfold noteUnmapped
  repeat' first
    | with_reducible assumption | with_reducible apply logFrond_keepsMem | split

theorem enterFrond_keepsMem {s0 : State} {s : State} {f0 : Frond} (h_s : KeepsMem s0 s) :
    KeepsMem s0 (enterFrond s f0) := by
  unfold enterFrond
  repeat' first
    | with_reducible assumption | with_reducible apply noteUnmapped_keepsMem | intro _ | split | dsimp only
    | with_reducible apply KeepsMem.mem | with_reducible apply KeepsMem.tiles
    | (refine KeepsMem.mk ?_ ?_ <;> dsimp only)

theorem decodeOne_keepsMem {s0 : State} {s : State} {r : ℕ} {q : ℕ} (h_s : KeepsMem s0 s) :
    KeepsMem s0 (decodeOne s r q) := by
  unfold decodeOne
  repeat' first
    | with_reducible assumption | with_reducible apply enterFrond_keepsMem | with_reducible apply setF_keepsMem
    | with_reducible apply noteSpan_keepsMem | with_reducible apply fetchBad_keepsMem | split | dsimp only
    | with_reducible apply KeepsMem.mem | with_reducible apply KeepsMem.tiles
    | (refine KeepsMem.mk ?_ ?_ <;> dsimp only)

theorem decodeStep_keepsMem {s0 : State} {s : State} {r : ℕ} (h_s : KeepsMem s0 s) :
    KeepsMem s0 (decodeStep s r) := by
  unfold decodeStep
  repeat' first
    | with_reducible assumption | with_reducible apply decodeOne_keepsMem | with_reducible apply advanceTo_keepsMem | split

theorem endActivity_keepsMem {s0 : State} {s : State} {f : Frond} (h_s : KeepsMem s0 s) :
    KeepsMem s0 (endActivity s f) := by
  unfold endActivity
  repeat' first
    | with_reducible assumption | with_reducible apply endAct_keepsMem | with_reducible apply maintStat_keepsMem | intro _
    | split | dsimp only | with_reducible apply KeepsMem.mem | with_reducible apply KeepsMem.tiles
    | (refine KeepsMem.mk ?_ ?_ <;> dsimp only)

theorem nameTile_keepsMem {s0 : State} {s : State} {k : ℕ} {source : Bool} (h_s : KeepsMem s0 s) :
    KeepsMem s0 (nameTile s k source) := by
  unfold nameTile
  repeat' first
    | with_reducible assumption | with_reducible apply forRange_keeps | with_reducible apply bump_keepsMem | intro _
    | split | dsimp only | exact rfl | with_reducible apply KeepsMem.mem | with_reducible apply KeepsMem.tiles
    | (refine KeepsMem.mk ?_ ?_ <;> dsimp only)

theorem projectShapes_keepsMem {s0 : State} {s : State} {f : Frond} (h_s : KeepsMem s0 s) :
    KeepsMem s0 (projectShapes s f) := by
  unfold projectShapes
  repeat' first
    | with_reducible assumption | intro _ | split | dsimp only | with_reducible apply KeepsMem.mem
    | with_reducible apply KeepsMem.tiles | (refine KeepsMem.mk ?_ ?_ <;> dsimp only)

theorem touchTensor_keepsMem {s0 : State} {s : State} {i : ℕ} (h_s : KeepsMem s0 s) :
    KeepsMem s0 (touchTensor s i) := by
  unfold touchTensor
  repeat' first
    | with_reducible assumption | with_reducible apply setF_keepsMem | with_reducible apply sendReady_keepsMem | split
    | dsimp only | with_reducible apply KeepsMem.mem | with_reducible apply KeepsMem.tiles
    | (refine KeepsMem.mk ?_ ?_ <;> dsimp only)

theorem noteTensors_keepsMem {s0 : State} {s : State} {l : List (ℕ × ℕ)} (h_s : KeepsMem s0 s) :
    KeepsMem s0 (noteTensors s l) := by
  unfold noteTensors
  repeat' first
    | with_reducible assumption | with_reducible apply forRange_keeps | with_reducible apply touchTensor_keepsMem | intro _
    | split

theorem ordered_keepsMem {s0 : State} {s : State} {f : Frond} (h_s : KeepsMem s0 s) :
    KeepsMem s0 ((ordered s f).2) := by
  unfold ordered
  repeat' first
    | with_reducible assumption | dsimp only | with_reducible apply KeepsMem.mem | with_reducible apply KeepsMem.tiles
    | (refine KeepsMem.mk ?_ ?_ <;> dsimp only)

theorem discardAhead_keepsMem {s0 : State} {s : State} {f : Frond} (h_s : KeepsMem s0 s) :
    KeepsMem s0 (discardAhead s f) := by
  unfold discardAhead
  repeat' first
    | with_reducible assumption | with_reducible apply setF_keepsMem | split

theorem skipAt_keepsMem {s0 : State} {s : State} {f : Frond} {x : Status} {code : ℕ} (h_s : KeepsMem s0 s) :
    KeepsMem s0 (skipAt s f x code) := by
  unfold skipAt
  repeat' first
    | with_reducible assumption | with_reducible apply putFrond_keepsMem | with_reducible apply discardAhead_keepsMem
    | with_reducible apply endActivity_keepsMem | with_reducible apply logFrond_keepsMem | with_reducible apply bump_keepsMem | split

theorem refuseAt_keepsMem {s0 : State} {s : State} {f : Frond} {prom : ℕ} (h_s : KeepsMem s0 s) :
    KeepsMem s0 (refuseAt s f prom) := by
  unfold refuseAt
  repeat' first
    | with_reducible assumption | with_reducible apply putFrond_keepsMem | with_reducible apply discardAhead_keepsMem
    | with_reducible apply endActivity_keepsMem | with_reducible apply logFrond_keepsMem

theorem admitFrond_keepsMem {s0 : State} {s : State} {f : Frond} {p : OpSpec} {es : List ℕ} {i : ℕ} {prom : ℕ} (h_s : KeepsMem s0 s) :
    KeepsMem s0 (admitFrond s f p es i prom) := by
  unfold admitFrond
  repeat' first
    | with_reducible assumption | with_reducible apply putFrond_keepsMem | with_reducible apply noteTensors_keepsMem
    | with_reducible apply projectShapes_keepsMem | with_reducible apply foldl_keeps | with_reducible apply nameTile_keepsMem
    | intro _ | split | dsimp only | with_reducible apply KeepsMem.mem | with_reducible apply KeepsMem.tiles
    | (refine KeepsMem.mk ?_ ?_ <;> dsimp only)

theorem judge_keepsMem {s0 : State} {s : State} {f : Frond} {p : OpSpec} (h_s : KeepsMem s0 s) :
    KeepsMem s0 (judge s f p) := by
  unfold judge
  repeat' first
    | with_reducible assumption | with_reducible apply skipAt_keepsMem | with_reducible apply admitFrond_keepsMem
    | with_reducible apply refuseAt_keepsMem | with_reducible apply putFrond_keepsMem | with_reducible apply bump_keepsMem | intro _
    | split | dsimp only

theorem acceptOne_keepsMem {s0 : State} {s0 : State} {f0 : Frond} (h_s0 : KeepsMem s0 s0) :
    KeepsMem s0 (acceptOne s0 f0) := by
  unfold acceptOne
  repeat' first
    | with_reducible assumption | with_reducible apply skipAt_keepsMem | with_reducible apply consumeWaits_keepsMem
    | with_reducible apply ordered_keepsMem | with_reducible apply judge_keepsMem | with_reducible apply putFrond_keepsMem
    | with_reducible apply discardAhead_keepsMem | with_reducible apply endActivity_keepsMem | split | dsimp only

theorem fetchElem_keepsMem {s0 : State} {share : ℕ} {i : ℕ} {x : FrondRef} {s : State} (h_s : KeepsMem s0 s) :
    KeepsMem s0 (fetchElem share i x s) := by
  unfold fetchElem
  repeat' first
    | with_reducible assumption | with_reducible apply putFrond_keepsMem | with_reducible apply bump_keepsMem
    | with_reducible apply checkRead_keepsMem | intro _ | split | dsimp only

theorem runAhead_keepsMem {s0 : State} {s : State} {x : FrondRef} {i : ℕ} {n : ℕ} (h_s : KeepsMem s0 s) :
    KeepsMem s0 (runAhead s x i n) := by
  unfold runAhead
  repeat' first
    | with_reducible assumption | with_reducible apply forRange_keeps | with_reducible apply fetchElem_keepsMem | intro _
    | split

/-! ### Start -/

theorem flushLog_keepsMem {s0 : State} {s : State} (h_s : KeepsMem s0 s) :
    KeepsMem s0 (flushLog s) := by
  unfold flushLog
  repeat' first
    | with_reducible assumption | with_reducible apply foldl_keeps | with_reducible apply ringWrite_keepsMem | intro _
    | split | dsimp only | exact rfl | with_reducible apply KeepsMem.mem | with_reducible apply KeepsMem.tiles
    | (refine KeepsMem.mk ?_ ?_ <;> dsimp only)

theorem toStep_keepsMem {s0 : State} {s : State} {n : ℕ} (h_s : KeepsMem s0 s) :
    KeepsMem s0 (toStep s n) := by
  unfold toStep
  repeat' first
    | with_reducible assumption | with_reducible apply logEv_keepsMem | with_reducible apply setF_keepsMem

theorem unlessStopped_keepsMem {s0 : State} {f : State → State} {s : State} (h_f : (∀ y0, KeepsMem s0 y0 → KeepsMem s0 (f y0))) (h_s : KeepsMem s0 s) :
    KeepsMem s0 (unlessStopped f s) := by
  unfold unlessStopped
  repeat' first
    | with_reducible assumption | with_reducible apply h_f | split

theorem refuseImage_keepsMem {s0 : State} {s : State} {reason : ℕ} (h_s : KeepsMem s0 s) :
    KeepsMem s0 (refuseImage s reason) := by
  unfold refuseImage
  repeat' first
    | with_reducible assumption | with_reducible apply bootStop_keepsMem | with_reducible apply logEv_keepsMem
    | with_reducible apply setF_keepsMem

theorem stepSignature_keepsMem {s0 : State} {s : State} (h_s : KeepsMem s0 s) :
    KeepsMem s0 (stepSignature s) := by
  unfold stepSignature
  repeat' first
    | with_reducible assumption | with_reducible apply refuseImage_keepsMem | with_reducible apply bootStop_keepsMem
    | with_reducible apply logEv_keepsMem | with_reducible apply setReg_keepsMem | split | dsimp only
    | with_reducible apply KeepsMem.mem | with_reducible apply KeepsMem.tiles
    | (refine KeepsMem.mk ?_ ?_ <;> dsimp only)

theorem identityFail_keepsMem {s0 : State} {s : State} {reason : ℕ} (h_s : KeepsMem s0 s) :
    KeepsMem s0 (identityFail s reason) := by
  unfold identityFail
  repeat' first
    | with_reducible assumption | with_reducible apply bootStop_keepsMem | with_reducible apply logPke_keepsMem
    | with_reducible apply setF_keepsMem

theorem stepIdentity_keepsMem {s0 : State} {s : State} (h_s : KeepsMem s0 s) :
    KeepsMem s0 (stepIdentity s) := by
  unfold stepIdentity
  repeat' first
    | with_reducible assumption | with_reducible apply logPke_keepsMem | with_reducible apply setReg_keepsMem
    | with_reducible apply fillSlot_keepsMem | with_reducible apply identityFail_keepsMem | split | dsimp only

theorem applyMaps_keepsMem {s0 : State} {s : State} (h_s : KeepsMem s0 s) :
    KeepsMem s0 (applyMaps s) := by
  unfold applyMaps
  repeat' first
    | with_reducible assumption | with_reducible apply foldl_keeps | with_reducible apply setReg_keepsMem | intro _

theorem stepSources_keepsMem {s0 : State} {e : StartEnv} {s : State} (h_s : KeepsMem s0 s) :
    KeepsMem s0 (stepSources e s) := by
  unfold stepSources
  repeat' first
    | with_reducible assumption | with_reducible apply seedAll_keepsMem | with_reducible apply startTest_keepsMem
    | with_reducible apply loadPrimes_keepsMem | with_reducible apply setF_keepsMem | dsimp only
    | with_reducible apply KeepsMem.mem | with_reducible apply KeepsMem.tiles
    | (refine KeepsMem.mk ?_ ?_ <;> dsimp only)

/-! ### Tick -/

theorem tick_keepsMem {s0 : State} {s : State} (h_s : KeepsMem s0 s) :
    KeepsMem s0 (tick s) := by
  unfold tick
  repeat' first
    | with_reducible assumption | with_reducible apply advanceTo_keepsMem

/-! ### Step -/

theorem State.withFetchWord_keepsMem {s0 : State} {s : State} {nbits : ℕ} {w : ℕ} (h_s : KeepsMem s0 s) :
    KeepsMem s0 (State.withFetchWord s nbits w) := by
  unfold State.withFetchWord
  repeat' first
    | with_reducible assumption | split | dsimp only | with_reducible apply KeepsMem.mem
    | with_reducible apply KeepsMem.tiles | (refine KeepsMem.mk ?_ ?_ <;> dsimp only)

end Sys2Proof.Machine
end

