-- ==== Sys2Proof/Laws/MemExec.lean ====
section
/-! SUPPORT. The commands that leave every byte of memory and of the tiles as it was, one lemma for each meaning. -/

namespace Sys2Proof.Machine
open Sys2Proof

theorem execQtailWrite_keepsMem {s0 : State} {m : Master} {r : Fin 8} {q : Fin 4} {t : Word32} {s : State} (h_s : KeepsMem s0 s) :
    AnswerKeepsMem s0 (execQtailWrite m r q t s) := by
  unfold execQtailWrite
  repeat' first
    | with_reducible assumption | with_reducible apply effect_keepsMem | with_reducible apply gated_keepsMem
    | with_reducible apply wrQtail_keepsMem | with_reducible apply effect_keepsMem | with_reducible apply ifOk_keepsMem
    | with_reducible apply next_keepsMem | split | intro _

theorem execQueueEnableWrite_keepsMem {s0 : State} {m : Master} {r : Fin 8} {q : Fin 4} {en : Bool} {s : State} (h_s : KeepsMem s0 s) :
    AnswerKeepsMem s0 (execQueueEnableWrite m r q en s) := by
  unfold execQueueEnableWrite
  repeat' first
    | with_reducible assumption | with_reducible apply effect_keepsMem | with_reducible apply gated_keepsMem
    | with_reducible apply wrEnable_keepsMem | with_reducible apply effect_keepsMem | with_reducible apply ifOk_keepsMem
    | with_reducible apply next_keepsMem | split | intro _

theorem execQueueRestart_keepsMem {s0 : State} {m : Master} {r : Fin 8} {q : Fin 4} {s : State} (h_s : KeepsMem s0 s) :
    AnswerKeepsMem s0 (execQueueRestart m r q s) := by
  unfold execQueueRestart
  repeat' first
    | with_reducible assumption | with_reducible apply effect_keepsMem | with_reducible apply gated_keepsMem
    | with_reducible apply wrRestart_keepsMem | with_reducible apply effect_keepsMem | with_reducible apply ifOk_keepsMem
    | with_reducible apply next_keepsMem | split | intro _

theorem execQueueCfgWrite_keepsMem {s0 : State} {m : Master} {r : Fin 8} {q : Fin 4} {k : QueueCfg} {v : Word} {s : State} (h_s : KeepsMem s0 s) :
    AnswerKeepsMem s0 (execQueueCfgWrite m r q k v s) := by
  unfold execQueueCfgWrite
  repeat' first
    | with_reducible assumption | with_reducible apply effect_keepsMem | with_reducible apply gated_keepsMem
    | with_reducible apply wrQueueCfg_keepsMem | with_reducible apply effect_keepsMem | with_reducible apply ifOk_keepsMem
    | with_reducible apply next_keepsMem | split | intro _

theorem execTokenWrite_keepsMem {s0 : State} {m : Master} {t : TokenRef} {v : Word} {s : State} (h_s : KeepsMem s0 s) :
    AnswerKeepsMem s0 (execTokenWrite m t v s) := by
  unfold execTokenWrite
  repeat' first
    | with_reducible assumption | with_reducible apply effect_keepsMem | with_reducible apply gated_keepsMem
    | with_reducible apply setF_keepsMem | with_reducible apply effect_keepsMem | with_reducible apply ifOk_keepsMem
    | with_reducible apply next_keepsMem | split | intro _

theorem execAbortSingle_keepsMem {s0 : State} {m : Master} {r : Fin 8} {q : Fin 4} {seq : Word32} {s : State} (h_s : KeepsMem s0 s) :
    AnswerKeepsMem s0 (execAbortSingle m r q seq s) := by
  unfold execAbortSingle
  repeat' first
    | with_reducible assumption | with_reducible apply effect_keepsMem | with_reducible apply gated_keepsMem
    | with_reducible apply wrAbort_keepsMem | with_reducible apply effect_keepsMem | with_reducible apply ifOk_keepsMem
    | with_reducible apply next_keepsMem | split | intro _

theorem execAbortThrough_keepsMem {s0 : State} {m : Master} {r : Fin 8} {q : Fin 4} {seq : Word32} {s : State} (h_s : KeepsMem s0 s) :
    AnswerKeepsMem s0 (execAbortThrough m r q seq s) := by
  unfold execAbortThrough
  repeat' first
    | with_reducible assumption | with_reducible apply effect_keepsMem | with_reducible apply gated_keepsMem
    | with_reducible apply wrAbort_keepsMem | with_reducible apply effect_keepsMem | with_reducible apply ifOk_keepsMem
    | with_reducible apply next_keepsMem | split | intro _

theorem execAbortQueue_keepsMem {s0 : State} {m : Master} {r : Fin 8} {q : Fin 4} {seq : Word32} {s : State} (h_s : KeepsMem s0 s) :
    AnswerKeepsMem s0 (execAbortQueue m r q seq s) := by
  unfold execAbortQueue
  repeat' first
    | with_reducible assumption | with_reducible apply effect_keepsMem | with_reducible apply gated_keepsMem
    | with_reducible apply wrAbort_keepsMem | with_reducible apply effect_keepsMem | with_reducible apply ifOk_keepsMem
    | with_reducible apply next_keepsMem | split | intro _

theorem execPreemptDrain_keepsMem {s0 : State} {m : Master} {r : Fin 8} {q : Fin 4} {s : State} (h_s : KeepsMem s0 s) :
    AnswerKeepsMem s0 (execPreemptDrain m r q s) := by
  unfold execPreemptDrain
  repeat' first
    | with_reducible assumption | with_reducible apply effect_keepsMem | with_reducible apply gated_keepsMem
    | with_reducible apply wrPreempt_keepsMem | with_reducible apply effect_keepsMem | with_reducible apply ifOk_keepsMem
    | with_reducible apply next_keepsMem | split | intro _

theorem execPreemptSuspend_keepsMem {s0 : State} {m : Master} {r : Fin 8} {q : Fin 4} {s : State} (h_s : KeepsMem s0 s) :
    AnswerKeepsMem s0 (execPreemptSuspend m r q s) := by
  unfold execPreemptSuspend
  repeat' first
    | with_reducible assumption | with_reducible apply effect_keepsMem | with_reducible apply gated_keepsMem
    | with_reducible apply wrPreempt_keepsMem | with_reducible apply effect_keepsMem | with_reducible apply ifOk_keepsMem
    | with_reducible apply next_keepsMem | split | intro _

theorem execPreemptResume_keepsMem {s0 : State} {m : Master} {r : Fin 8} {q : Fin 4} {s : State} (h_s : KeepsMem s0 s) :
    AnswerKeepsMem s0 (execPreemptResume m r q s) := by
  unfold execPreemptResume
  repeat' first
    | with_reducible assumption | with_reducible apply effect_keepsMem | with_reducible apply gated_keepsMem
    | with_reducible apply wrResume_keepsMem | with_reducible apply effect_keepsMem | with_reducible apply ifOk_keepsMem
    | with_reducible apply next_keepsMem | split | intro _

theorem execPreemptDone_keepsMem {s0 : State} {r : Fin 8} {q : Fin 4} {s : State} (h_s : KeepsMem s0 s) :
    AnswerKeepsMem s0 (execPreemptDone r q s) := by
  unfold execPreemptDone
  repeat' first
    | with_reducible assumption | with_reducible apply effect_keepsMem | with_reducible apply preemptDone_keepsMem

theorem execMatModeWrite_keepsMem {s0 : State} {m : Master} {r : Fin 8} {v : Word} {s : State} (h_s : KeepsMem s0 s) :
    AnswerKeepsMem s0 (execMatModeWrite m r v s) := by
  unfold execMatModeWrite
  repeat' first
    | with_reducible assumption | with_reducible apply effect_keepsMem | with_reducible apply gated_keepsMem
    | with_reducible apply wrMatMode_keepsMem | with_reducible apply effect_keepsMem | with_reducible apply ifOk_keepsMem
    | with_reducible apply next_keepsMem | split | intro _

theorem execHoffCfgWrite_keepsMem {s0 : State} {m : Master} {r : Fin 8} {h : Fin 16} {v : Word} {s : State} (h_s : KeepsMem s0 s) :
    AnswerKeepsMem s0 (execHoffCfgWrite m r h v s) := by
  unfold execHoffCfgWrite
  repeat' first
    | with_reducible assumption | with_reducible apply effect_keepsMem | with_reducible apply gated_keepsMem
    | with_reducible apply wrHoff_keepsMem | with_reducible apply effect_keepsMem | with_reducible apply ifOk_keepsMem
    | with_reducible apply next_keepsMem | split | intro _

theorem execCircCfgWrite_keepsMem {s0 : State} {m : Master} {r : Fin 8} {k : Fin 4} {v : Word} {s : State} (h_s : KeepsMem s0 s) :
    AnswerKeepsMem s0 (execCircCfgWrite m r k v s) := by
  unfold execCircCfgWrite
  repeat' first
    | with_reducible assumption | with_reducible apply effect_keepsMem | with_reducible apply gated_keepsMem
    | with_reducible apply wrCirc_keepsMem | with_reducible apply effect_keepsMem | with_reducible apply ifOk_keepsMem
    | with_reducible apply next_keepsMem | split | intro _

theorem execCircPointerWrite_keepsMem {s0 : State} {m : Master} {r : Fin 8} {k : Fin 4} {tail : Bool} {v : Word} {s : State} (h_s : KeepsMem s0 s) :
    AnswerKeepsMem s0 (execCircPointerWrite m r k tail v s) := by
  unfold execCircPointerWrite
  repeat' first
    | with_reducible assumption | with_reducible apply effect_keepsMem | with_reducible apply gated_keepsMem
    | with_reducible apply wrCircPtr_keepsMem | with_reducible apply effect_keepsMem | with_reducible apply ifOk_keepsMem
    | with_reducible apply next_keepsMem | split | intro _

theorem execPclassWrite_keepsMem {s0 : State} {m : Master} {r : Fin 8} {k : Fin 16} {v : Word} {s : State} (h_s : KeepsMem s0 s) :
    AnswerKeepsMem s0 (execPclassWrite m r k v s) := by
  unfold execPclassWrite
  repeat' first
    | with_reducible assumption | with_reducible apply effect_keepsMem | with_reducible apply gated_keepsMem
    | with_reducible apply wrPclass_keepsMem | with_reducible apply effect_keepsMem | with_reducible apply ifOk_keepsMem
    | with_reducible apply next_keepsMem | split | intro _

theorem execChcfgWrite_keepsMem {s0 : State} {m : Master} {r : Fin 8} {c : Fin 32} {v : Word} {s : State} (h_s : KeepsMem s0 s) :
    AnswerKeepsMem s0 (execChcfgWrite m r c v s) := by
  unfold execChcfgWrite
  repeat' first
    | with_reducible assumption | with_reducible apply effect_keepsMem | with_reducible apply gated_keepsMem
    | with_reducible apply wrChcfg_keepsMem | with_reducible apply effect_keepsMem | with_reducible apply ifOk_keepsMem
    | with_reducible apply next_keepsMem | split | intro _

theorem execCellReplay_keepsMem {s0 : State} {f : FrondRef} {u : UnitSel} {cell : Fin 8} {s : State} (h_s : KeepsMem s0 s) :
    AnswerKeepsMem s0 (execCellReplay f u cell s) := by
  unfold execCellReplay
  repeat' first
    | with_reducible assumption | with_reducible apply effect_keepsMem | with_reducible apply cellReplay_keepsMem

theorem execCellFault_keepsMem {s0 : State} {f : FrondRef} {u : UnitSel} {cell : Fin 8} {s : State} (h_s : KeepsMem s0 s) :
    AnswerKeepsMem s0 (execCellFault f u cell s) := by
  unfold execCellFault
  repeat' first
    | with_reducible assumption | with_reducible apply effect_keepsMem | with_reducible apply cellFault_keepsMem

theorem execSequencerParity_keepsMem {s0 : State} {r : Fin 8} {s : State} (h_s : KeepsMem s0 s) :
    AnswerKeepsMem s0 (execSequencerParity r s) := by
  unfold execSequencerParity
  repeat' first
    | with_reducible assumption | with_reducible apply effect_keepsMem | with_reducible apply regionFault_keepsMem

theorem execBlockFault_keepsMem {s0 : State} {f : FrondRef} {s : State} (h_s : KeepsMem s0 s) :
    AnswerKeepsMem s0 (execBlockFault f s) := by
  unfold execBlockFault
  repeat' first
    | with_reducible assumption | with_reducible apply effect_keepsMem | with_reducible apply blockFault_keepsMem

theorem execBridgeReplay_keepsMem {s0 : State} {d : Fin 2} {s : State} (h_s : KeepsMem s0 s) :
    AnswerKeepsMem s0 (execBridgeReplay d s) := by
  unfold execBridgeReplay
  repeat' first
    | with_reducible assumption | with_reducible apply effect_keepsMem | with_reducible apply bridgeReplay_keepsMem

theorem execPeriParity_keepsMem {s0 : State} {f : FrondRef} {s : State} (h_s : KeepsMem s0 s) :
    AnswerKeepsMem s0 (execPeriParity f s) := by
  unfold execPeriParity
  repeat' first
    | with_reducible assumption | with_reducible apply effect_keepsMem | with_reducible apply periParity_keepsMem

theorem execSporeExpanderReplay_keepsMem {s0 : State} {f : FrondRef} {cell : Fin 8} {s : State} (h_s : KeepsMem s0 s) :
    AnswerKeepsMem s0 (execSporeExpanderReplay f cell s) := by
  unfold execSporeExpanderReplay
  repeat' first
    | with_reducible assumption | with_reducible apply effect_keepsMem | with_reducible apply sporeReplay_keepsMem

theorem execEntropyHealthFail_keepsMem {s0 : State} {apt : Bool} {rerun : Bool} {s : State} (h_s : KeepsMem s0 s) :
    AnswerKeepsMem s0 (execEntropyHealthFail apt rerun s) := by
  unfold execEntropyHealthFail
  repeat' first
    | with_reducible assumption | with_reducible apply effect_keepsMem | with_reducible apply healthFail_keepsMem

theorem execEntropyRecovered_keepsMem {s0 : State} {s : State} (h_s : KeepsMem s0 s) :
    AnswerKeepsMem s0 (execEntropyRecovered s) := by
  unfold execEntropyRecovered
  repeat' first
    | with_reducible assumption | with_reducible apply effect_keepsMem | with_reducible apply recovered_keepsMem

theorem execRngRetry_keepsMem {s0 : State} {m : Master} {pass : Bool} {s : State} (h_s : KeepsMem s0 s) :
    AnswerKeepsMem s0 (execRngRetry m pass s) := by
  unfold execRngRetry
  repeat' first
    | with_reducible assumption | with_reducible apply effect_keepsMem | with_reducible apply gated_keepsMem
    | with_reducible apply rngRetry_keepsMem | with_reducible apply effect_keepsMem | with_reducible apply ifOk_keepsMem
    | with_reducible apply next_keepsMem | split | intro _

theorem execDrbgReseed_keepsMem {s0 : State} {i : Fin 9} {s : State} (h_s : KeepsMem s0 s) :
    AnswerKeepsMem s0 (execDrbgReseed i s) := by
  unfold execDrbgReseed
  repeat' first
    | with_reducible assumption | with_reducible apply effect_keepsMem | with_reducible apply reseedDue_keepsMem

theorem execInstantiateUnseeded_keepsMem {s0 : State} {s : State} (h_s : KeepsMem s0 s) :
    AnswerKeepsMem s0 (execInstantiateUnseeded s) := by
  unfold execInstantiateUnseeded
  repeat' first
    | with_reducible assumption | with_reducible apply effect_keepsMem | with_reducible apply seedAll_keepsMem
    | with_reducible apply effect_keepsMem | with_reducible apply ifOk_keepsMem | with_reducible apply next_keepsMem | split

theorem execLogRdSelWrite_keepsMem {s0 : State} {m : Master} {v : Word} {s : State} (h_s : KeepsMem s0 s) :
    AnswerKeepsMem s0 (execLogRdSelWrite m v s) := by
  unfold execLogRdSelWrite
  repeat' first
    | with_reducible assumption | with_reducible apply effect_keepsMem | with_reducible apply gated_keepsMem
    | with_reducible apply wrRdSel_keepsMem | with_reducible apply effect_keepsMem | with_reducible apply ifOk_keepsMem
    | with_reducible apply next_keepsMem | split | intro _

theorem execLogTailWrite_keepsMem {s0 : State} {m : Master} {v : Word} {s : State} (h_s : KeepsMem s0 s) :
    AnswerKeepsMem s0 (execLogTailWrite m v s) := by
  unfold execLogTailWrite
  repeat' first
    | with_reducible assumption | with_reducible apply effect_keepsMem | with_reducible apply gated_keepsMem
    | with_reducible apply wrLogTail_keepsMem | with_reducible apply effect_keepsMem | with_reducible apply ifOk_keepsMem
    | with_reducible apply next_keepsMem | split | intro _

theorem execDrainTailWrite_keepsMem {s0 : State} {m : Master} {v : Word} {s : State} (h_s : KeepsMem s0 s) :
    AnswerKeepsMem s0 (execDrainTailWrite m v s) := by
  unfold execDrainTailWrite
  repeat' first
    | with_reducible assumption | with_reducible apply effect_keepsMem | with_reducible apply gated_keepsMem
    | with_reducible apply wrDrainTail_keepsMem | with_reducible apply effect_keepsMem | with_reducible apply ifOk_keepsMem
    | with_reducible apply next_keepsMem | split | intro _

theorem execMaintDone_keepsMem {s0 : State} {act : Activity} {scope : ℕ} {corr : BitVec 16} {s : State} (h_s : KeepsMem s0 s) :
    AnswerKeepsMem s0 (execMaintDone act scope corr s) := by
  unfold execMaintDone
  repeat' first
    | with_reducible assumption | with_reducible apply effect_keepsMem | with_reducible apply maintDone_keepsMem

theorem execKsetGo_keepsMem {s0 : State} {m : Master} {r : Fin 8} {k : Fin 16} {s : State} (h_s : KeepsMem s0 s) :
    AnswerKeepsMem s0 (execKsetGo m r k s) := by
  unfold execKsetGo
  repeat' first
    | with_reducible assumption | with_reducible apply effect_keepsMem | with_reducible apply gated_keepsMem
    | with_reducible apply ksetGo_keepsMem | with_reducible apply effect_keepsMem | with_reducible apply ifOk_keepsMem
    | with_reducible apply next_keepsMem | split | intro _

theorem execKsetRegistered_keepsMem {s0 : State} {r : Fin 8} {k : Fin 16} {s : State} (h_s : KeepsMem s0 s) :
    AnswerKeepsMem s0 (execKsetRegistered r k s) := by
  unfold execKsetRegistered
  repeat' first
    | with_reducible assumption | with_reducible apply effect_keepsMem | with_reducible apply ksetDone_keepsMem

theorem execKsetClear_keepsMem {s0 : State} {m : Master} {r : Fin 8} {k : Fin 16} {s : State} (h_s : KeepsMem s0 s) :
    AnswerKeepsMem s0 (execKsetClear m r k s) := by
  unfold execKsetClear
  repeat' first
    | with_reducible assumption | with_reducible apply effect_keepsMem | with_reducible apply gated_keepsMem
    | with_reducible apply ksetClear_keepsMem | with_reducible apply effect_keepsMem | with_reducible apply ifOk_keepsMem
    | with_reducible apply next_keepsMem | split | intro _

theorem execKsetBaseWrite_keepsMem {s0 : State} {m : Master} {r : Fin 8} {k : Fin 16} {v : Word} {s : State} (h_s : KeepsMem s0 s) :
    AnswerKeepsMem s0 (execKsetBaseWrite m r k v s) := by
  unfold execKsetBaseWrite
  repeat' first
    | with_reducible assumption | with_reducible apply effect_keepsMem | with_reducible apply gated_keepsMem
    | with_reducible apply wrKsetBase_keepsMem | with_reducible apply effect_keepsMem | with_reducible apply ifOk_keepsMem
    | with_reducible apply next_keepsMem | split | intro _

theorem execRefresh_keepsMem {s0 : State} {t : Fin 8} {b : Word} {hits : List FrondRef} {s : State} (h_s : KeepsMem s0 s) :
    AnswerKeepsMem s0 (execRefresh t b hits s) := by
  unfold execRefresh
  repeat' first
    | with_reducible assumption | with_reducible apply effect_keepsMem | with_reducible apply refresh_keepsMem

theorem execDramTempSample_keepsMem {s0 : State} {t : Fin 8} {temp : BitVec 8} {s : State} (h_s : KeepsMem s0 s) :
    AnswerKeepsMem s0 (execDramTempSample t temp s) := by
  unfold execDramTempSample
  repeat' first
    | with_reducible assumption | with_reducible apply effect_keepsMem | with_reducible apply tempSample_keepsMem

theorem execRfshModeWrite_keepsMem {s0 : State} {m : Master} {t : Fin 8} {v : Word} {s : State} (h_s : KeepsMem s0 s) :
    AnswerKeepsMem s0 (execRfshModeWrite m t v s) := by
  unfold execRfshModeWrite
  repeat' first
    | with_reducible assumption | with_reducible apply effect_keepsMem | with_reducible apply gated_keepsMem
    | with_reducible apply wrRfsh_keepsMem | with_reducible apply effect_keepsMem | with_reducible apply ifOk_keepsMem
    | with_reducible apply next_keepsMem | split | intro _

theorem execTowerQuiesced_keepsMem {s0 : State} {t : Fin 8} {s : State} (h_s : KeepsMem s0 s) :
    AnswerKeepsMem s0 (execTowerQuiesced t s) := by
  unfold execTowerQuiesced
  repeat' first
    | with_reducible assumption | with_reducible apply effect_keepsMem | with_reducible apply towerIdle_keepsMem

theorem execMarginDone_keepsMem {s0 : State} {t : Fin 8} {rec : List MarginRec} {s : State} (h_s : KeepsMem s0 s) :
    AnswerKeepsMem s0 (execMarginDone t rec s) := by
  unfold execMarginDone
  repeat' first
    | with_reducible assumption | with_reducible apply effect_keepsMem | with_reducible apply marginDone_keepsMem

theorem execPoisonOpQuery_keepsMem {s0 : State} {m : Master} {t : Fin 8} {g : BitVec 24} {s : State} (h_s : KeepsMem s0 s) :
    AnswerKeepsMem s0 (execPoisonOpQuery m t g s) := by
  unfold execPoisonOpQuery
  repeat' first
    | with_reducible assumption | with_reducible apply effect_keepsMem | with_reducible apply gated_keepsMem
    | with_reducible apply wrPoisonOp_keepsMem | with_reducible apply effect_keepsMem | with_reducible apply ifOk_keepsMem
    | with_reducible apply next_keepsMem | split | intro _

theorem execPoisonOpSet_keepsMem {s0 : State} {m : Master} {t : Fin 8} {g : BitVec 24} {s : State} (h_s : KeepsMem s0 s) :
    AnswerKeepsMem s0 (execPoisonOpSet m t g s) := by
  unfold execPoisonOpSet
  repeat' first
    | with_reducible assumption | with_reducible apply effect_keepsMem | with_reducible apply gated_keepsMem
    | with_reducible apply wrPoisonOp_keepsMem | with_reducible apply effect_keepsMem | with_reducible apply ifOk_keepsMem
    | with_reducible apply next_keepsMem | split | intro _

theorem execPoisonOpClear_keepsMem {s0 : State} {m : Master} {t : Fin 8} {g : BitVec 24} {s : State} (h_s : KeepsMem s0 s) :
    AnswerKeepsMem s0 (execPoisonOpClear m t g s) := by
  unfold execPoisonOpClear
  repeat' first
    | with_reducible assumption | with_reducible apply effect_keepsMem | with_reducible apply gated_keepsMem
    | with_reducible apply wrPoisonOp_keepsMem | with_reducible apply effect_keepsMem | with_reducible apply ifOk_keepsMem
    | with_reducible apply next_keepsMem | split | intro _

theorem execRailOutOfTolerance_keepsMem {s0 : State} {rail : Rail} {s : State} (h_s : KeepsMem s0 s) :
    AnswerKeepsMem s0 (execRailOutOfTolerance rail s) := by
  unfold execRailOutOfTolerance
  repeat' first
    | with_reducible assumption | with_reducible apply effect_keepsMem | with_reducible apply railOut_keepsMem
    | with_reducible apply effect_keepsMem | with_reducible apply ifOk_keepsMem | with_reducible apply next_keepsMem | split

theorem execVmgmtLoss_keepsMem {s0 : State} {s : State} (h_s : KeepsMem s0 s) :
    AnswerKeepsMem s0 (execVmgmtLoss s) := by
  unfold execVmgmtLoss
  repeat' first
    | with_reducible assumption | with_reducible apply effect_keepsMem | with_reducible apply loseLog_keepsMem

theorem execSysrefLockTimeout_keepsMem {s0 : State} {s : State} (h_s : KeepsMem s0 s) :
    AnswerKeepsMem s0 (execSysrefLockTimeout s) := by
  unfold execSysrefLockTimeout
  repeat' first
    | with_reducible assumption | with_reducible apply effect_keepsMem | with_reducible apply bootStop_keepsMem
    | with_reducible apply advanceTo_keepsMem | with_reducible apply effect_keepsMem | with_reducible apply ifOk_keepsMem
    | with_reducible apply next_keepsMem | split

theorem execRefLoss_keepsMem {s0 : State} {s : State} (h_s : KeepsMem s0 s) :
    AnswerKeepsMem s0 (execRefLoss s) := by
  unfold execRefLoss
  repeat' first
    | with_reducible assumption | with_reducible apply effect_keepsMem | with_reducible apply setB_keepsMem
    | with_reducible apply logCanary_keepsMem | with_reducible apply effect_keepsMem | with_reducible apply ifOk_keepsMem
    | with_reducible apply next_keepsMem | split

theorem execThermalThrottle_keepsMem {s0 : State} {d : Fin 2} {t : BitVec 8} {s : State} (h_s : KeepsMem s0 s) :
    AnswerKeepsMem s0 (execThermalThrottle d t s) := by
  unfold execThermalThrottle
  repeat' first
    | with_reducible assumption | with_reducible apply effect_keepsMem | with_reducible apply throttle_keepsMem

theorem execHotClear_keepsMem {s0 : State} {t0 : BitVec 8} {t1 : BitVec 8} {s : State} (h_s : KeepsMem s0 s) :
    AnswerKeepsMem s0 (execHotClear t0 t1 s) := by
  unfold execHotClear
  repeat' first
    | with_reducible assumption | with_reducible apply effect_keepsMem | with_reducible apply hotClear_keepsMem

theorem execThermtrip_keepsMem {s0 : State} {d : Fin 2} {t : BitVec 8} {s : State} (h_s : KeepsMem s0 s) :
    AnswerKeepsMem s0 (execThermtrip d t s) := by
  unfold execThermtrip
  repeat' first
    | with_reducible assumption | with_reducible apply effect_keepsMem | with_reducible apply thermTrip_keepsMem

theorem execVoltageLoopTick_keepsMem {s0 : State} {slack : BitVec 8} {full : Bool} {s : State} (h_s : KeepsMem s0 s) :
    AnswerKeepsMem s0 (execVoltageLoopTick slack full s) := by
  unfold execVoltageLoopTick
  repeat' first
    | with_reducible assumption | with_reducible apply effect_keepsMem | with_reducible apply voltageTick_keepsMem

theorem execPowerEstimate_keepsMem {s0 : State} {watts : ℕ} {s : State} (h_s : KeepsMem s0 s) :
    AnswerKeepsMem s0 (execPowerEstimate watts s) := by
  unfold execPowerEstimate
  repeat' first
    | with_reducible assumption | with_reducible apply effect_keepsMem | with_reducible apply powerEstimate_keepsMem

theorem execBeatStretch_keepsMem {s0 : State} {d : Fin 2} {cause : StretchCause} {s : State} (h_s : KeepsMem s0 s) :
    AnswerKeepsMem s0 (execBeatStretch d cause s) := by
  unfold execBeatStretch
  repeat' first
    | with_reducible assumption | with_reducible apply effect_keepsMem | with_reducible apply stretch_keepsMem

theorem execBeatUnstretch_keepsMem {s0 : State} {d : Fin 2} {s : State} (h_s : KeepsMem s0 s) :
    AnswerKeepsMem s0 (execBeatUnstretch d s) := by
  unfold execBeatUnstretch
  repeat' first
    | with_reducible assumption | with_reducible apply effect_keepsMem | with_reducible apply unstretch_keepsMem

theorem execPwrcapWrite_keepsMem {s0 : State} {m : Master} {w : BitVec 16} {s : State} (h_s : KeepsMem s0 s) :
    AnswerKeepsMem s0 (execPwrcapWrite m w s) := by
  unfold execPwrcapWrite
  repeat' first
    | with_reducible assumption | with_reducible apply effect_keepsMem | with_reducible apply gated_keepsMem
    | with_reducible apply wrCapW_keepsMem | with_reducible apply effect_keepsMem | with_reducible apply ifOk_keepsMem
    | with_reducible apply next_keepsMem | split | intro _

theorem execMemcfgWrite_keepsMem {s0 : State} {m : Master} {v : Word} {s : State} (h_s : KeepsMem s0 s) :
    AnswerKeepsMem s0 (execMemcfgWrite m v s) := by
  unfold execMemcfgWrite
  repeat' first
    | with_reducible assumption | with_reducible apply effect_keepsMem | with_reducible apply gated_keepsMem
    | with_reducible apply wrMemcfg_keepsMem | with_reducible apply effect_keepsMem | with_reducible apply ifOk_keepsMem
    | with_reducible apply next_keepsMem | split | intro _

theorem execNdClr_keepsMem {s0 : State} {m : Master} {s : State} (h_s : KeepsMem s0 s) :
    AnswerKeepsMem s0 (execNdClr m s) := by
  unfold execNdClr
  repeat' first
    | with_reducible assumption | with_reducible apply effect_keepsMem | with_reducible apply gated_keepsMem
    | with_reducible apply clearNd_keepsMem

theorem execMissClr_keepsMem {s0 : State} {m : Master} {s : State} (h_s : KeepsMem s0 s) :
    AnswerKeepsMem s0 (execMissClr m s) := by
  unfold execMissClr
  repeat' first
    | with_reducible assumption | with_reducible apply effect_keepsMem | with_reducible apply gated_keepsMem
    | with_reducible apply setReg_keepsMem | with_reducible apply effect_keepsMem | with_reducible apply ifOk_keepsMem
    | with_reducible apply next_keepsMem | split | intro _

theorem execShake256_keepsMem {s0 : State} {m : Master} {v : Word} {s : State} (h_s : KeepsMem s0 s) :
    AnswerKeepsMem s0 (execShake256 m v s) := by
  unfold execShake256
  repeat' first
    | with_reducible assumption | with_reducible apply effect_keepsMem | with_reducible apply gated_keepsMem
    | with_reducible apply pkeGo_keepsMem | with_reducible apply effect_keepsMem | with_reducible apply ifOk_keepsMem
    | with_reducible apply next_keepsMem | split | intro _

theorem execEd448Verify_keepsMem {s0 : State} {m : Master} {v : Word} {s : State} (h_s : KeepsMem s0 s) :
    AnswerKeepsMem s0 (execEd448Verify m v s) := by
  unfold execEd448Verify
  repeat' first
    | with_reducible assumption | with_reducible apply effect_keepsMem | with_reducible apply gated_keepsMem
    | with_reducible apply pkeGo_keepsMem | with_reducible apply effect_keepsMem | with_reducible apply ifOk_keepsMem
    | with_reducible apply next_keepsMem | split | intro _

theorem execEd448Sign_keepsMem {s0 : State} {m : Master} {v : Word} {s : State} (h_s : KeepsMem s0 s) :
    AnswerKeepsMem s0 (execEd448Sign m v s) := by
  unfold execEd448Sign
  repeat' first
    | with_reducible assumption | with_reducible apply effect_keepsMem | with_reducible apply gated_keepsMem
    | with_reducible apply pkeGo_keepsMem | with_reducible apply effect_keepsMem | with_reducible apply ifOk_keepsMem
    | with_reducible apply next_keepsMem | split | intro _

theorem execX448_keepsMem {s0 : State} {m : Master} {v : Word} {s : State} (h_s : KeepsMem s0 s) :
    AnswerKeepsMem s0 (execX448 m v s) := by
  unfold execX448
  repeat' first
    | with_reducible assumption | with_reducible apply effect_keepsMem | with_reducible apply gated_keepsMem
    | with_reducible apply pkeGo_keepsMem | with_reducible apply effect_keepsMem | with_reducible apply ifOk_keepsMem
    | with_reducible apply next_keepsMem | split | intro _

theorem execKeygen_keepsMem {s0 : State} {m : Master} {v : Word} {s : State} (h_s : KeepsMem s0 s) :
    AnswerKeepsMem s0 (execKeygen m v s) := by
  unfold execKeygen
  repeat' first
    | with_reducible assumption | with_reducible apply effect_keepsMem | with_reducible apply gated_keepsMem
    | with_reducible apply pkeGo_keepsMem | with_reducible apply effect_keepsMem | with_reducible apply ifOk_keepsMem
    | with_reducible apply next_keepsMem | split | intro _

theorem execPubkey_keepsMem {s0 : State} {m : Master} {v : Word} {s : State} (h_s : KeepsMem s0 s) :
    AnswerKeepsMem s0 (execPubkey m v s) := by
  unfold execPubkey
  repeat' first
    | with_reducible assumption | with_reducible apply effect_keepsMem | with_reducible apply gated_keepsMem
    | with_reducible apply pkeGo_keepsMem | with_reducible apply effect_keepsMem | with_reducible apply ifOk_keepsMem
    | with_reducible apply next_keepsMem | split | intro _

theorem execKdf_keepsMem {s0 : State} {m : Master} {v : Word} {s : State} (h_s : KeepsMem s0 s) :
    AnswerKeepsMem s0 (execKdf m v s) := by
  unfold execKdf
  repeat' first
    | with_reducible assumption | with_reducible apply effect_keepsMem | with_reducible apply gated_keepsMem
    | with_reducible apply pkeGo_keepsMem | with_reducible apply effect_keepsMem | with_reducible apply ifOk_keepsMem
    | with_reducible apply next_keepsMem | split | intro _

theorem execMac_keepsMem {s0 : State} {m : Master} {v : Word} {s : State} (h_s : KeepsMem s0 s) :
    AnswerKeepsMem s0 (execMac m v s) := by
  unfold execMac
  repeat' first
    | with_reducible assumption | with_reducible apply effect_keepsMem | with_reducible apply gated_keepsMem
    | with_reducible apply pkeGo_keepsMem | with_reducible apply effect_keepsMem | with_reducible apply ifOk_keepsMem
    | with_reducible apply next_keepsMem | split | intro _

theorem execClear_keepsMem {s0 : State} {m : Master} {v : Word} {s : State} (h_s : KeepsMem s0 s) :
    AnswerKeepsMem s0 (execClear m v s) := by
  unfold execClear
  repeat' first
    | with_reducible assumption | with_reducible apply effect_keepsMem | with_reducible apply gated_keepsMem
    | with_reducible apply pkeGo_keepsMem | with_reducible apply effect_keepsMem | with_reducible apply ifOk_keepsMem
    | with_reducible apply next_keepsMem | split | intro _

theorem execAttest_keepsMem {s0 : State} {m : Master} {v : Word} {s : State} (h_s : KeepsMem s0 s) :
    AnswerKeepsMem s0 (execAttest m v s) := by
  unfold execAttest
  repeat' first
    | with_reducible assumption | with_reducible apply effect_keepsMem | with_reducible apply gated_keepsMem
    | with_reducible apply pkeGo_keepsMem | with_reducible apply effect_keepsMem | with_reducible apply ifOk_keepsMem
    | with_reducible apply next_keepsMem | split | intro _

theorem execPerstAssert_keepsMem {s0 : State} {p : Fin 2} {s : State} (h_s : KeepsMem s0 s) :
    AnswerKeepsMem s0 (execPerstAssert p s) := by
  unfold execPerstAssert
  repeat' first
    | with_reducible assumption | with_reducible apply effect_keepsMem | with_reducible apply perst_keepsMem

theorem execAtsTranslationCompletion_keepsMem {s0 : State} {p : Fin 2} {u : Word} {res : AtsResult} {s : State} (h_s : KeepsMem s0 s) :
    AnswerKeepsMem s0 (execAtsTranslationCompletion p u res s) := by
  unfold execAtsTranslationCompletion
  repeat' first
    | with_reducible assumption | with_reducible apply effect_keepsMem | with_reducible apply atsDone_keepsMem

theorem execAtsInvalidation_keepsMem {s0 : State} {p : Fin 2} {u : Word} {log2 : ℕ} {s : State} (h_s : KeepsMem s0 s) :
    AnswerKeepsMem s0 (execAtsInvalidation p u log2 s) := by
  unfold execAtsInvalidation
  repeat' first
    | with_reducible assumption | with_reducible apply ifOk_keepsMem | with_reducible apply invalidate_keepsMem

theorem execPageResponse_keepsMem {s0 : State} {p : Fin 2} {u : Word} {code : PageResp} {s : State} (h_s : KeepsMem s0 s) :
    AnswerKeepsMem s0 (execPageResponse p u code s) := by
  unfold execPageResponse
  repeat' first
    | with_reducible assumption | with_reducible apply effect_keepsMem | with_reducible apply pageResponse_keepsMem

theorem execPageReqTimeout_keepsMem {s0 : State} {p : Fin 2} {u : Word} {s : State} (h_s : KeepsMem s0 s) :
    AnswerKeepsMem s0 (execPageReqTimeout p u s) := by
  unfold execPageReqTimeout
  repeat' first
    | with_reducible assumption | with_reducible apply effect_keepsMem | with_reducible apply pageTimeout_keepsMem

theorem execHostCplErr_keepsMem {s0 : State} {f : FrondRef} {ep : Bool} {s : State} (h_s : KeepsMem s0 s) :
    AnswerKeepsMem s0 (execHostCplErr f ep s) := by
  unfold execHostCplErr
  repeat' first
    | with_reducible assumption | with_reducible apply effect_keepsMem | with_reducible apply cplErr_keepsMem

theorem execPcieLinkDown_keepsMem {s0 : State} {p : Fin 2} {s : State} (h_s : KeepsMem s0 s) :
    AnswerKeepsMem s0 (execPcieLinkDown p s) := by
  unfold execPcieLinkDown
  repeat' first
    | with_reducible assumption | with_reducible apply effect_keepsMem | with_reducible apply portLost_keepsMem
    | with_reducible apply effect_keepsMem | with_reducible apply ifOk_keepsMem | with_reducible apply next_keepsMem | split

theorem execPcieLinkUp_keepsMem {s0 : State} {p : Fin 2} {speed : BitVec 4} {width : BitVec 5} {s : State} (h_s : KeepsMem s0 s) :
    AnswerKeepsMem s0 (execPcieLinkUp p speed width s) := by
  unfold execPcieLinkUp
  repeat' first
    | with_reducible assumption | with_reducible apply effect_keepsMem | with_reducible apply portUpNow_keepsMem
    | with_reducible apply effect_keepsMem | with_reducible apply ifOk_keepsMem | with_reducible apply next_keepsMem | split

theorem execPcieConfigWrite_keepsMem {s0 : State} {p : Fin 2} {k : PcieCfg} {v : Word} {s : State} (h_s : KeepsMem s0 s) :
    AnswerKeepsMem s0 (execPcieConfigWrite p k v s) := by
  unfold execPcieConfigWrite
  repeat' first
    | with_reducible assumption | with_reducible apply effect_keepsMem | with_reducible apply configWrite_keepsMem

theorem execSemAcquire_keepsMem {s0 : State} {m : Master} {k : Fin 16} {s : State} (h_s : KeepsMem s0 s) :
    AnswerKeepsMem s0 (execSemAcquire m k s) := by
  unfold execSemAcquire
  repeat' first
    | with_reducible assumption | with_reducible apply effect_keepsMem | with_reducible apply wrSem_keepsMem

theorem execSemRelease_keepsMem {s0 : State} {m : Master} {k : Fin 16} {s : State} (h_s : KeepsMem s0 s) :
    AnswerKeepsMem s0 (execSemRelease m k s) := by
  unfold execSemRelease
  repeat' first
    | with_reducible assumption | with_reducible apply effect_keepsMem | with_reducible apply wrSem_keepsMem

theorem execMboxDataWrite_keepsMem {s0 : State} {m : Master} {d : Fin 3} {j : Fin 8} {v : Word} {s : State} (h_s : KeepsMem s0 s) :
    AnswerKeepsMem s0 (execMboxDataWrite m d j v s) := by
  unfold execMboxDataWrite
  repeat' first
    | with_reducible assumption | with_reducible apply effect_keepsMem | with_reducible apply wrMboxData_keepsMem

theorem execMboxSend_keepsMem {s0 : State} {m : Master} {d : Fin 3} {s : State} (h_s : KeepsMem s0 s) :
    AnswerKeepsMem s0 (execMboxSend m d s) := by
  unfold execMboxSend
  repeat' first
    | with_reducible assumption | with_reducible apply effect_keepsMem | with_reducible apply wrMboxCtl_keepsMem

theorem execMboxClear_keepsMem {s0 : State} {m : Master} {d : Fin 3} {s : State} (h_s : KeepsMem s0 s) :
    AnswerKeepsMem s0 (execMboxClear m d s) := by
  unfold execMboxClear
  repeat' first
    | with_reducible assumption | with_reducible apply effect_keepsMem | with_reducible apply wrMboxCtl_keepsMem

theorem execNvcfgRead_keepsMem {s0 : State} {m : Master} {len : BitVec 9} {s : State} (h_s : KeepsMem s0 s) :
    AnswerKeepsMem s0 (execNvcfgRead m len s) := by
  unfold execNvcfgRead
  repeat' first
    | with_reducible assumption | with_reducible apply ifOk_keepsMem | with_reducible apply nvCommand_keepsMem

theorem execNvcfgProgram_keepsMem {s0 : State} {m : Master} {len : BitVec 9} {s : State} (h_s : KeepsMem s0 s) :
    AnswerKeepsMem s0 (execNvcfgProgram m len s) := by
  unfold execNvcfgProgram
  repeat' first
    | with_reducible assumption | with_reducible apply ifOk_keepsMem | with_reducible apply nvCommand_keepsMem

theorem execNvcfgErase_keepsMem {s0 : State} {m : Master} {len : BitVec 9} {s : State} (h_s : KeepsMem s0 s) :
    AnswerKeepsMem s0 (execNvcfgErase m len s) := by
  unfold execNvcfgErase
  repeat' first
    | with_reducible assumption | with_reducible apply ifOk_keepsMem | with_reducible apply nvCommand_keepsMem

theorem execNvcfgDone_keepsMem {s0 : State} {err : FlashErr} {s : State} (h_s : KeepsMem s0 s) :
    AnswerKeepsMem s0 (execNvcfgDone err s) := by
  unfold execNvcfgDone
  repeat' first
    | with_reducible assumption | with_reducible apply effect_keepsMem | with_reducible apply nvDone_keepsMem

theorem execWdtKick_keepsMem {s0 : State} {m : Master} {s : State} (h_s : KeepsMem s0 s) :
    AnswerKeepsMem s0 (execWdtKick m s) := by
  unfold execWdtKick
  repeat' first
    | with_reducible assumption | with_reducible apply effect_keepsMem | with_reducible apply gated_keepsMem
    | with_reducible apply effect_keepsMem | with_reducible apply ifOk_keepsMem | with_reducible apply next_keepsMem | split
    | intro _ | dsimp only | with_reducible apply KeepsMem.mem | with_reducible apply KeepsMem.tiles
    | (refine KeepsMem.mk ?_ ?_ <;> dsimp only)

theorem execFwWatchdog_keepsMem {s0 : State} {s : State} (h_s : KeepsMem s0 s) :
    AnswerKeepsMem s0 (execFwWatchdog s) := by
  unfold execFwWatchdog
  repeat' first
    | with_reducible assumption | with_reducible apply effect_keepsMem | with_reducible apply watchdog_keepsMem

theorem execFwTrap_keepsMem {s0 : State} {cause : Word} {s : State} (h_s : KeepsMem s0 s) :
    AnswerKeepsMem s0 (execFwTrap cause s) := by
  unfold execFwTrap
  repeat' first
    | with_reducible assumption | with_reducible apply effect_keepsMem | with_reducible apply fillRestart_keepsMem
    | with_reducible apply fwExpiry_keepsMem | with_reducible apply logEv_keepsMem

theorem execMctpMessage_keepsMem {s0 : State} {q : MctpReq} {s : State} (h_s : KeepsMem s0 s) :
    AnswerKeepsMem s0 (execMctpMessage q s) := by
  unfold execMctpMessage
  repeat' first
    | with_reducible assumption | with_reducible apply effect_keepsMem | with_reducible apply mctp_keepsMem

theorem execLinkEnableWrite_keepsMem {s0 : State} {m : Master} {p : Fin 16} {en : Bool} {s : State} (h_s : KeepsMem s0 s) :
    AnswerKeepsMem s0 (execLinkEnableWrite m p en s) := by
  unfold execLinkEnableWrite
  repeat' first
    | with_reducible assumption | with_reducible apply effect_keepsMem | with_reducible apply gated_keepsMem
    | with_reducible apply wrLinkEnable_keepsMem | with_reducible apply effect_keepsMem | with_reducible apply ifOk_keepsMem
    | with_reducible apply next_keepsMem | split | intro _

theorem execCrcFailure_keepsMem {s0 : State} {p : Fin 16} {badCrc : Bool} {s : State} (h_s : KeepsMem s0 s) :
    AnswerKeepsMem s0 (execCrcFailure p badCrc s) := by
  unfold execCrcFailure
  repeat' first
    | with_reducible assumption | with_reducible apply effect_keepsMem | with_reducible apply refusePacket_keepsMem
    | with_reducible apply bump_keepsMem | with_reducible apply effect_keepsMem | with_reducible apply ifOk_keepsMem
    | with_reducible apply next_keepsMem | split

theorem execGroupWrite_keepsMem {s0 : State} {m : Master} {g : Fin 64} {b : Bool} {v : Word} {s : State} (h_s : KeepsMem s0 s) :
    AnswerKeepsMem s0 (execGroupWrite m g b v s) := by
  unfold execGroupWrite
  repeat' first
    | with_reducible assumption | with_reducible apply effect_keepsMem | with_reducible apply gated_keepsMem
    | with_reducible apply wrGroup_keepsMem | with_reducible apply effect_keepsMem | with_reducible apply ifOk_keepsMem
    | with_reducible apply next_keepsMem | split | intro _

theorem execCollTimeout_keepsMem {s0 : State} {f : FrondRef} {s : State} (h_s : KeepsMem s0 s) :
    AnswerKeepsMem s0 (execCollTimeout f s) := by
  unfold execCollTimeout
  repeat' first
    | with_reducible assumption | with_reducible apply effect_keepsMem | with_reducible apply collTimeout_keepsMem

theorem execTeeFail_keepsMem {s0 : State} {r : Fin 8} {k : ℕ} {s : State} (h_s : KeepsMem s0 s) :
    AnswerKeepsMem s0 (execTeeFail r k s) := by
  unfold execTeeFail
  repeat' first
    | with_reducible assumption | with_reducible apply effect_keepsMem | with_reducible apply teeFail_keepsMem

theorem execAliasCommit_keepsMem {s0 : State} {m : Master} {i : BitVec 8} {v : Word} {s : State} (h_s : KeepsMem s0 s) :
    AnswerKeepsMem s0 (execAliasCommit m i v s) := by
  unfold execAliasCommit
  repeat' first
    | with_reducible assumption | with_reducible apply effect_keepsMem | with_reducible apply gated_keepsMem
    | with_reducible apply wrAliasF_keepsMem | with_reducible apply effect_keepsMem | with_reducible apply ifOk_keepsMem
    | with_reducible apply next_keepsMem | split | intro _

theorem execHeartbeatSend_keepsMem {s0 : State} {s : State} (h_s : KeepsMem s0 s) :
    AnswerKeepsMem s0 (execHeartbeatSend s) := by
  unfold execHeartbeatSend
  repeat' first
    | with_reducible assumption | with_reducible apply effect_keepsMem | with_reducible apply heartbeatSend_keepsMem

theorem execArmWrite_keepsMem {s0 : State} {m : Master} {v : Word} {s : State} (h_s : KeepsMem s0 s) :
    AnswerKeepsMem s0 (execArmWrite m v s) := by
  unfold execArmWrite
  repeat' first
    | with_reducible assumption | with_reducible apply effect_keepsMem | with_reducible apply gated_keepsMem
    | with_reducible apply wrFailCtrl_keepsMem | with_reducible apply effect_keepsMem | with_reducible apply ifOk_keepsMem
    | with_reducible apply next_keepsMem | split | intro _

theorem execCfgPartnerAbsent_keepsMem {s0 : State} {s : State} (h_s : KeepsMem s0 s) :
    AnswerKeepsMem s0 (execCfgPartnerAbsent s) := by
  unfold execCfgPartnerAbsent
  repeat' first
    | with_reducible assumption | with_reducible apply effect_keepsMem | with_reducible apply partnerAbsent_keepsMem

theorem execUnprotected_keepsMem {s0 : State} {i : ℕ} {s : State} (h_s : KeepsMem s0 s) :
    AnswerKeepsMem s0 (execUnprotected i s) := by
  unfold execUnprotected
  repeat' first
    | with_reducible assumption | with_reducible apply effect_keepsMem | with_reducible apply unprotected_keepsMem

theorem execSelfFenced_keepsMem {s0 : State} {s : State} (h_s : KeepsMem s0 s) :
    AnswerKeepsMem s0 (execSelfFenced s) := by
  unfold execSelfFenced
  repeat' first
    | with_reducible assumption | with_reducible apply effect_keepsMem | with_reducible apply selfFence_keepsMem

theorem execGemmaClaim_keepsMem {s0 : State} {s : State} (h_s : KeepsMem s0 s) :
    AnswerKeepsMem s0 (execGemmaClaim s) := by
  unfold execGemmaClaim
  repeat' first
    | with_reducible assumption | with_reducible apply effect_keepsMem | with_reducible apply claimGemma_keepsMem

theorem execGemmaFillDone_keepsMem {s0 : State} {s : State} (h_s : KeepsMem s0 s) :
    AnswerKeepsMem s0 (execGemmaFillDone s) := by
  unfold execGemmaFillDone
  repeat' first
    | with_reducible assumption | with_reducible apply effect_keepsMem | with_reducible apply fillDone_keepsMem

theorem execHostBarRead_keepsMem {s0 : State} {p : Fin 2} {bar : Bar} {o : ℕ} {len : ℕ} {s : State} (h_s : KeepsMem s0 s) :
    AnswerKeepsMem s0 (execHostBarRead p bar o len s) := by
  unfold execHostBarRead
  repeat' first
    | with_reducible assumption | with_reducible apply ifOk_keepsMem | with_reducible apply barRead_keepsMem

theorem execTileSuspendDiscard_keepsMem {s0 : State} {f : FrondRef} {s : State} (h_s : KeepsMem s0 s) :
    AnswerKeepsMem s0 (execTileSuspendDiscard f s) := by
  unfold execTileSuspendDiscard
  repeat' first
    | with_reducible assumption | with_reducible apply effect_keepsMem | with_reducible apply pendAt_keepsMem
    | with_reducible apply advanceTo_keepsMem | with_reducible apply effect_keepsMem | with_reducible apply ifOk_keepsMem
    | with_reducible apply next_keepsMem | split

theorem ofKind_keepsMem {s0 : State} {k : ℕ} {f : FrondRef} {s : State} {a : Answer} (h_s : KeepsMem s0 s) (h_a : AnswerKeepsMem s0 a) :
    AnswerKeepsMem s0 (ofKind k f s a) := by
  unfold ofKind
  repeat' first
    | with_reducible assumption | with_reducible apply effect_keepsMem | with_reducible apply ifOk_keepsMem
    | with_reducible apply next_keepsMem | split

theorem execBarrier_keepsMem {s0 : State} {f : FrondRef} {n : ℕ} {s : State} (h_s : KeepsMem s0 s) :
    AnswerKeepsMem s0 (execBarrier f n s) := by
  unfold execBarrier
  repeat' first
    | with_reducible assumption | with_reducible apply effect_keepsMem | with_reducible apply barrierUnit_keepsMem
    | with_reducible apply effect_keepsMem | with_reducible apply ifOk_keepsMem | with_reducible apply next_keepsMem | split

theorem execHandoffAccessGrant_keepsMem {s0 : State} {f : FrondRef} {s : State} (h_s : KeepsMem s0 s) :
    AnswerKeepsMem s0 (execHandoffAccessGrant f s) := by
  unfold execHandoffAccessGrant
  repeat' first
    | with_reducible assumption | with_reducible apply effect_keepsMem | with_reducible apply presentAgain_keepsMem

theorem execHandoffTimeout_keepsMem {s0 : State} {f : FrondRef} {s : State} (h_s : KeepsMem s0 s) :
    AnswerKeepsMem s0 (execHandoffTimeout f s) := by
  unfold execHandoffTimeout
  repeat' first
    | with_reducible assumption | with_reducible apply effect_keepsMem | with_reducible apply waitExpires_keepsMem

theorem execCircAccessGrant_keepsMem {s0 : State} {f : FrondRef} {s : State} (h_s : KeepsMem s0 s) :
    AnswerKeepsMem s0 (execCircAccessGrant f s) := by
  unfold execCircAccessGrant
  repeat' first
    | with_reducible assumption | with_reducible apply effect_keepsMem | with_reducible apply presentAgain_keepsMem

theorem execCircTimeout_keepsMem {s0 : State} {f : FrondRef} {s : State} (h_s : KeepsMem s0 s) :
    AnswerKeepsMem s0 (execCircTimeout f s) := by
  unfold execCircTimeout
  repeat' first
    | with_reducible assumption | with_reducible apply effect_keepsMem | with_reducible apply waitExpires_keepsMem

theorem execFrondDecode_keepsMem {s0 : State} {r : Fin 8} {s : State} (h_s : KeepsMem s0 s) :
    AnswerKeepsMem s0 (execFrondDecode r s) := by
  unfold execFrondDecode
  repeat' first
    | with_reducible assumption | with_reducible apply effect_keepsMem | with_reducible apply decodeStep_keepsMem

theorem execRunAhead_keepsMem {s0 : State} {f : FrondRef} {slot : Fin 4} {n : ℕ} {s : State} (h_s : KeepsMem s0 s) :
    AnswerKeepsMem s0 (execRunAhead f slot n s) := by
  unfold execRunAhead
  repeat' first
    | with_reducible assumption | with_reducible apply effect_keepsMem | with_reducible apply runAhead_keepsMem

end Sys2Proof.Machine
end

