-- ==== Sys2Proof/Laws/PinsBase.lean ====
section
/-! SUPPORT. The rules by which a meaning is shown to leave the power and strap pins, and the start-up measurements, as
they were. -/

namespace Sys2Proof.Machine
open Sys2Proof

/-- PWRGOOD, RESET_N, the sampled straps and the start-up measurements are in `t` what they are in `s0`. -/
structure KeepsPins (s0 t : State) : Prop where
  pwrgood : t.pins.pwrgood = s0.pins.pwrgood
  resetN : t.pins.resetN = s0.pins.resetN
  testEn : t.pins.testEn = s0.pins.testEn
  domid : t.pins.domid = s0.pins.domid
  mbusSel : t.pins.mbusSel = s0.pins.mbusSel
  start : t.start = s0.start

theorem KeepsPins.rfl {s : State} : KeepsPins s s :=
  ⟨Eq.refl _, Eq.refl _, Eq.refl _, Eq.refl _, Eq.refl _, Eq.refl _⟩

/-- A change of anything else keeps them. -/
theorem congr_keepsPins {s0 s t : State} (h : KeepsPins s0 s) (h1 : t.pins.pwrgood = s.pins.pwrgood)
    (h2 : t.pins.resetN = s.pins.resetN) (h3 : t.pins.testEn = s.pins.testEn) (h4 : t.pins.domid = s.pins.domid)
    (h5 : t.pins.mbusSel = s.pins.mbusSel) (h6 : t.start = s.start) : KeepsPins s0 t :=
  ⟨h1 ▸ h.pwrgood, h2 ▸ h.resetN, h3 ▸ h.testEn, h4 ▸ h.domid, h5 ▸ h.mbusSel, h6 ▸ h.start⟩

/-- So it is in both states of a progress unit in hand. -/
structure RunKeepsPins (s0 : State) (r : Run) : Prop where
  st : KeepsPins s0 r.st
  base : KeepsPins s0 r.base

/-- So it is in whatever next state an answer names. -/
def AnswerKeepsPins (s0 : State) (a : Answer) : Prop := ∀ t, a = .next t → KeepsPins s0 t

theorem effect_keepsPins {s0 s t : State} (h : KeepsPins s0 t) : AnswerKeepsPins s0 (effect s t) := by
  intro u hu
  cases hu
  exact ⟨h.pwrgood, h.resetN, h.testEn, h.domid, h.mbusSel, h.start⟩

theorem ifOk_keepsPins {s0 s t : State} {b : Bool} (h : KeepsPins s0 t) : AnswerKeepsPins s0 (ifOk s b t) := by
  unfold ifOk
  split
  · exact effect_keepsPins h
  · intro u hu; cases hu

theorem next_keepsPins {s0 s : State} (h : KeepsPins s0 s) : AnswerKeepsPins s0 (.next s) := by
  intro u hu; cases hu; exact h

theorem setReg_keepsPins {s0 s : State} {o : Nat} {v : Word} (h : KeepsPins s0 s) : KeepsPins s0 (setReg s o v) :=
  ⟨h.pwrgood, h.resetN, h.testEn, h.domid, h.mbusSel, h.start⟩

end Sys2Proof.Machine
end

