-- ==== Sys2Proof/Laws/PinsState.lean ====
section
/-! SUPPORT. Operations that leave the sampled straps, the power pins and the start-up measurements as they were: registers, memory, the event log, queues and links. -/

namespace Sys2Proof.Machine
open Sys2Proof

/-! ### Ops -/

theorem setF_keepsPins {s0 : State} {s : State} {o : ℕ} {lo : ℕ} {n : ℕ} {v : ℕ} (h_s : KeepsPins s0 s) :
    KeepsPins s0 (setF s o lo n v) := by
  unfold setF
  repeat' first
    | with_reducible assumption | with_reducible apply setReg_keepsPins

theorem setB_keepsPins {s0 : State} {s : State} {o : ℕ} {i : ℕ} {b : Bool} (h_s : KeepsPins s0 s) :
    KeepsPins s0 (setB s o i b) := by
  unfold setB
  repeat' first
    | with_reducible assumption | with_reducible apply setF_keepsPins

theorem bump_keepsPins {s0 : State} {s : State} {o : ℕ} {k : ℕ} (h_s : KeepsPins s0 s) :
    KeepsPins s0 (bump s o k) := by
  unfold bump
  repeat' first
    | with_reducible assumption | with_reducible apply setReg_keepsPins

theorem bump32_keepsPins {s0 : State} {s : State} {o : ℕ} {k : ℕ} (h_s : KeepsPins s0 s) :
    KeepsPins s0 (bump32 s o k) := by
  unfold bump32
  repeat' first
    | with_reducible assumption | with_reducible apply setF_keepsPins

theorem bumpUnits_keepsPins {s0 : State} {s : State} {o : ℕ} {u : ℕ} {k : ℕ} (h_s : KeepsPins s0 s) :
    KeepsPins s0 (bumpUnits s o u k) := by
  unfold bumpUnits
  repeat' first
    | with_reducible assumption | with_reducible apply bump_keepsPins | dsimp only | with_reducible apply KeepsPins.pwrgood
    | with_reducible apply KeepsPins.resetN | with_reducible apply KeepsPins.testEn
    | with_reducible apply KeepsPins.domid | with_reducible apply KeepsPins.mbusSel
    | with_reducible apply KeepsPins.start | (refine KeepsPins.mk ?_ ?_ ?_ ?_ ?_ ?_ <;> dsimp only)

theorem takeFree_keepsPins {s0 : State} {s : State} (h_s : KeepsPins s0 s) :
    KeepsPins s0 ((takeFree s).2) := by
  unfold takeFree
  repeat' first
    | with_reducible assumption | dsimp only | with_reducible apply KeepsPins.pwrgood
    | with_reducible apply KeepsPins.resetN | with_reducible apply KeepsPins.testEn
    | with_reducible apply KeepsPins.domid | with_reducible apply KeepsPins.mbusSel
    | with_reducible apply KeepsPins.start | (refine KeepsPins.mk ?_ ?_ ?_ ?_ ?_ ?_ <;> dsimp only)

theorem advanceTo_keepsPins {s0 : State} {s : State} {b : ℕ} (h_s : KeepsPins s0 s) :
    KeepsPins s0 (advanceTo s b) := by
  unfold advanceTo
  repeat' first
    | with_reducible assumption | with_reducible apply setReg_keepsPins | with_reducible apply bump_keepsPins | split

theorem countNd_keepsPins {s0 : State} {s : State} {o : ℕ} {k : ℕ} (h_s : KeepsPins s0 s) :
    KeepsPins s0 (countNd s o k) := by
  unfold countNd
  repeat' first
    | with_reducible assumption | with_reducible apply bump_keepsPins

theorem setPort_keepsPins {s0 : State} {s : State} {p : ℕ} {x : PortState} (h_s : KeepsPins s0 s) :
    KeepsPins s0 (setPort s p x) := by
  unfold setPort
  repeat' first
    | with_reducible assumption | split | dsimp only | with_reducible apply KeepsPins.pwrgood
    | with_reducible apply KeepsPins.resetN | with_reducible apply KeepsPins.testEn
    | with_reducible apply KeepsPins.domid | with_reducible apply KeepsPins.mbusSel
    | with_reducible apply KeepsPins.start | (refine KeepsPins.mk ?_ ?_ ?_ ?_ ?_ ?_ <;> dsimp only)

theorem emit_keepsPins {s0 : State} {s : State} {x : HostOut} (h_s : KeepsPins s0 s) :
    KeepsPins s0 (emit s x) := by
  unfold emit
  repeat' first
    | with_reducible assumption | dsimp only | with_reducible apply KeepsPins.pwrgood
    | with_reducible apply KeepsPins.resetN | with_reducible apply KeepsPins.testEn
    | with_reducible apply KeepsPins.domid | with_reducible apply KeepsPins.mbusSel
    | with_reducible apply KeepsPins.start | (refine KeepsPins.mk ?_ ?_ ?_ ?_ ?_ ?_ <;> dsimp only)

theorem sendVector_keepsPins {s0 : State} {s : State} {p : ℕ} {v : ℕ} (h_s : KeepsPins s0 s) :
    KeepsPins s0 (sendVector s p v) := by
  unfold sendVector
  repeat' first
    | with_reducible assumption | with_reducible apply emit_keepsPins | split | dsimp only
    | with_reducible apply KeepsPins.pwrgood | with_reducible apply KeepsPins.resetN
    | with_reducible apply KeepsPins.testEn | with_reducible apply KeepsPins.domid
    | with_reducible apply KeepsPins.mbusSel | with_reducible apply KeepsPins.start
    | (refine KeepsPins.mk ?_ ?_ ?_ ?_ ?_ ?_ <;> dsimp only)

theorem raiseOn_keepsPins {s0 : State} {s : State} {p : ℕ} {src : ℕ} (h_s : KeepsPins s0 s) :
    KeepsPins s0 (raiseOn s p src) := by
  unfold raiseOn
  repeat' first
    | with_reducible assumption | with_reducible apply sendVector_keepsPins | with_reducible apply setB_keepsPins | split

theorem raiseIrq_keepsPins {s0 : State} {s : State} {src : ℕ} (h_s : KeepsPins s0 s) :
    KeepsPins s0 (raiseIrq s src) := by
  unfold raiseIrq
  repeat' first
    | with_reducible assumption | with_reducible apply raiseOn_keepsPins

theorem logEntry_keepsPins {s0 : State} {s : State} {e : LogEntry} (h_s : KeepsPins s0 s) :
    KeepsPins s0 (logEntry s e) := by
  unfold logEntry
  dsimp only
  split
  · exact congr_keepsPins h_s rfl rfl rfl rfl rfl rfl
  · split
    · split
      · exact congr_keepsPins h_s rfl rfl rfl rfl rfl rfl
      · exact h_s
    · split
      · exact bump32_keepsPins (congr_keepsPins h_s rfl rfl rfl rfl rfl rfl)
      · exact congr_keepsPins h_s rfl rfl rfl rfl rfl rfl

theorem logEv_keepsPins {s0 : State} {s : State} {code : ℕ} {cls : ℕ} {idx : ℕ} {pay : ℕ} (h_s : KeepsPins s0 s) :
    KeepsPins s0 (logEv s code cls idx pay) := by
  unfold logEv
  repeat' first
    | with_reducible assumption | with_reducible apply logEntry_keepsPins

theorem logQueue_keepsPins {s0 : State} {s : State} {code : ℕ} {r : ℕ} {pay : ℕ} (h_s : KeepsPins s0 s) :
    KeepsPins s0 (logQueue s code r pay) := by
  unfold logQueue
  repeat' first
    | with_reducible assumption | with_reducible apply logEv_keepsPins

theorem logChip_keepsPins {s0 : State} {s : State} {code : ℕ} {pay : ℕ} (h_s : KeepsPins s0 s) :
    KeepsPins s0 (logChip s code pay) := by
  unfold logChip
  repeat' first
    | with_reducible assumption | with_reducible apply logEv_keepsPins

theorem logMaster_keepsPins {s0 : State} {s : State} {code : ℕ} {m : Master} {addr : ℕ} (h_s : KeepsPins s0 s) :
    KeepsPins s0 (logMaster s code m addr) := by
  unfold logMaster
  repeat' first
    | with_reducible assumption | with_reducible apply logEv_keepsPins

/-! ### Mem -/

theorem memSet_keepsPins {s0 : State} {s : State} {k : ℕ} {v : Byte} (h_s : KeepsPins s0 s) :
    KeepsPins s0 (memSet s k v) := by
  unfold memSet
  repeat' first
    | with_reducible assumption | dsimp only | with_reducible apply KeepsPins.pwrgood
    | with_reducible apply KeepsPins.resetN | with_reducible apply KeepsPins.testEn
    | with_reducible apply KeepsPins.domid | with_reducible apply KeepsPins.mbusSel
    | with_reducible apply KeepsPins.start | (refine KeepsPins.mk ?_ ?_ ?_ ?_ ?_ ?_ <;> dsimp only)

theorem putByte_keepsPins {s0 : State} {s : State} {a : ℕ} {v : Byte} (h_s : KeepsPins s0 s) :
    KeepsPins s0 (putByte s a v) := by
  unfold putByte
  repeat' first
    | with_reducible assumption | with_reducible apply memSet_keepsPins | split

theorem putBytes_keepsPins {s0 : State} {s : State} {a : ℕ} {x2 : List Byte} (h_s : KeepsPins s0 s) :
    KeepsPins s0 (putBytes s a x2) := by
  revert h_s
  fun_induction putBytes s a x2
  all_goals
    try rename_i ih
    intro h_s
    repeat' first
      | with_reducible assumption | with_reducible apply ih | with_reducible apply putByte_keepsPins

theorem countMatPoison_keepsPins {s0 : State} {s : State} {r : ℕ} {up : Bool} (h_s : KeepsPins s0 s) :
    KeepsPins s0 (countMatPoison s r up) := by
  unfold countMatPoison
  repeat' first
    | with_reducible assumption | with_reducible apply setF_keepsPins

theorem countTowPoison_keepsPins {s0 : State} {s : State} {t : ℕ} {up : Bool} (h_s : KeepsPins s0 s) :
    KeepsPins s0 (countTowPoison s t up) := by
  unfold countTowPoison
  repeat' first
    | with_reducible assumption | with_reducible apply setReg_keepsPins

theorem poisonLine_keepsPins {s0 : State} {s : State} {l : ℕ} (h_s : KeepsPins s0 s) :
    KeepsPins s0 (poisonLine s l) := by
  unfold poisonLine
  repeat' first
    | with_reducible assumption | with_reducible apply countMatPoison_keepsPins | split | dsimp only
    | with_reducible apply KeepsPins.pwrgood | with_reducible apply KeepsPins.resetN
    | with_reducible apply KeepsPins.testEn | with_reducible apply KeepsPins.domid
    | with_reducible apply KeepsPins.mbusSel | with_reducible apply KeepsPins.start
    | (refine KeepsPins.mk ?_ ?_ ?_ ?_ ?_ ?_ <;> dsimp only)

theorem clearLine_keepsPins {s0 : State} {s : State} {l : ℕ} (h_s : KeepsPins s0 s) :
    KeepsPins s0 (clearLine s l) := by
  unfold clearLine
  repeat' first
    | with_reducible assumption | with_reducible apply countMatPoison_keepsPins | split | dsimp only
    | with_reducible apply KeepsPins.pwrgood | with_reducible apply KeepsPins.resetN
    | with_reducible apply KeepsPins.testEn | with_reducible apply KeepsPins.domid
    | with_reducible apply KeepsPins.mbusSel | with_reducible apply KeepsPins.start
    | (refine KeepsPins.mk ?_ ?_ ?_ ?_ ?_ ?_ <;> dsimp only)

theorem poisonGranule_keepsPins {s0 : State} {s : State} {g : ℕ} (h_s : KeepsPins s0 s) :
    KeepsPins s0 (poisonGranule s g) := by
  unfold poisonGranule
  repeat' first
    | with_reducible assumption | with_reducible apply countTowPoison_keepsPins | split | dsimp only
    | with_reducible apply KeepsPins.pwrgood | with_reducible apply KeepsPins.resetN
    | with_reducible apply KeepsPins.testEn | with_reducible apply KeepsPins.domid
    | with_reducible apply KeepsPins.mbusSel | with_reducible apply KeepsPins.start
    | (refine KeepsPins.mk ?_ ?_ ?_ ?_ ?_ ?_ <;> dsimp only)

theorem clearGranule_keepsPins {s0 : State} {s : State} {g : ℕ} (h_s : KeepsPins s0 s) :
    KeepsPins s0 (clearGranule s g) := by
  unfold clearGranule
  repeat' first
    | with_reducible assumption | with_reducible apply countTowPoison_keepsPins | split | dsimp only
    | with_reducible apply KeepsPins.pwrgood | with_reducible apply KeepsPins.resetN
    | with_reducible apply KeepsPins.testEn | with_reducible apply KeepsPins.domid
    | with_reducible apply KeepsPins.mbusSel | with_reducible apply KeepsPins.start
    | (refine KeepsPins.mk ?_ ?_ ?_ ?_ ?_ ?_ <;> dsimp only)

theorem poisonAt_keepsPins {s0 : State} {s : State} {a : ℕ} (h_s : KeepsPins s0 s) :
    KeepsPins s0 (poisonAt s a) := by
  unfold poisonAt
  repeat' first
    | with_reducible assumption | with_reducible apply poisonGranule_keepsPins | with_reducible apply poisonLine_keepsPins
    | split

theorem matReport_keepsPins {s0 : State} {s : State} {r : ℕ} {o : ℕ} {kind : ℕ} {code : ℕ} (h_s : KeepsPins s0 s) :
    KeepsPins s0 (matReport s r o kind code) := by
  unfold matReport
  repeat' first
    | with_reducible assumption | with_reducible apply logEv_keepsPins | with_reducible apply setF_keepsPins

theorem towReport_keepsPins {s0 : State} {s : State} {h : ℕ} {kind : ℕ} {code : ℕ} (h_s : KeepsPins s0 s) :
    KeepsPins s0 (towReport s h kind code) := by
  unfold towReport
  repeat' first
    | with_reducible assumption | with_reducible apply logEv_keepsPins | with_reducible apply setF_keepsPins

theorem matArrival_keepsPins {s0 : State} {s : State} {r : ℕ} {o : ℕ} (h_s : KeepsPins s0 s) :
    KeepsPins s0 (matArrival s r o) := setF_keepsPins (bump32_keepsPins h_s)

theorem towArrival_keepsPins {s0 : State} {s : State} {h : ℕ} (h_s : KeepsPins s0 s) :
    KeepsPins s0 (towArrival s h) := setF_keepsPins (bump_keepsPins h_s)

theorem dropUpset_keepsPins {s0 : State} {s : State} {k : ℕ} (h_s : KeepsPins s0 s) :
    KeepsPins s0 (dropUpset s k) := by
  unfold dropUpset
  repeat' first
    | with_reducible assumption | intro _ | dsimp only | with_reducible apply KeepsPins.pwrgood
    | with_reducible apply KeepsPins.resetN | with_reducible apply KeepsPins.testEn
    | with_reducible apply KeepsPins.domid | with_reducible apply KeepsPins.mbusSel
    | with_reducible apply KeepsPins.start | (refine KeepsPins.mk ?_ ?_ ?_ ?_ ?_ ?_ <;> dsimp only)

theorem readHbm_keepsPins {s0 : State} {s : State} {h : ℕ} {res : Bool} (h_s : KeepsPins s0 s) :
    KeepsPins s0 (readHbm s h res) := by
  unfold readHbm
  repeat' first
    | with_reducible assumption | with_reducible apply poisonGranule_keepsPins | with_reducible apply towReport_keepsPins
    | with_reducible apply bump_keepsPins | split | dsimp only

theorem readMat_keepsPins {s0 : State} {s : State} {r : ℕ} {o : ℕ} {producer : Bool} (h_s : KeepsPins s0 s) :
    KeepsPins s0 (readMat s r o producer) := by
  unfold readMat
  repeat' first
    | with_reducible assumption | with_reducible apply poisonLine_keepsPins | with_reducible apply matReport_keepsPins
    | with_reducible apply bump32_keepsPins | with_reducible apply dropUpset_keepsPins | with_reducible apply countNd_keepsPins
    | split | dsimp only

theorem noteRead_keepsPins {s0 : State} {s : State} {a : ℕ} {res : Bool} {producer : Bool} (h_s : KeepsPins s0 s) :
    KeepsPins s0 (noteRead s a res producer) := by
  unfold noteRead
  repeat' first
    | with_reducible assumption | with_reducible apply readHbm_keepsPins | with_reducible apply readMat_keepsPins | split

theorem externalWrite_keepsPins {s0 : State} {s : State} {a : ℕ} {data : List Byte} (h_s : KeepsPins s0 s) :
    KeepsPins s0 (externalWrite s a data) := by
  unfold externalWrite
  repeat' first
    | with_reducible assumption | with_reducible apply forRange_keeps | with_reducible apply clearLine_keepsPins
    | with_reducible apply dropUpset_keepsPins | with_reducible apply putBytes_keepsPins | intro _ | split | dsimp only

/-! ### Tables -/

theorem snapshotDone_keepsPins {s0 : State} {s : State} (h_s : KeepsPins s0 s) :
    KeepsPins s0 (snapshotDone s) := by
  unfold snapshotDone
  repeat' first
    | with_reducible assumption | with_reducible apply forRange_keeps | with_reducible apply setB_keepsPins
    | with_reducible apply setF_keepsPins | with_reducible apply logEv_keepsPins | intro _ | split | dsimp only | exact rfl
    | with_reducible apply KeepsPins.pwrgood | with_reducible apply KeepsPins.resetN
    | with_reducible apply KeepsPins.testEn | with_reducible apply KeepsPins.domid
    | with_reducible apply KeepsPins.mbusSel | with_reducible apply KeepsPins.start
    | (refine KeepsPins.mk ?_ ?_ ?_ ?_ ?_ ?_ <;> dsimp only)

theorem restoreDone_keepsPins {s0 : State} {s : State} (h_s : KeepsPins s0 s) :
    KeepsPins s0 (restoreDone s) := by
  unfold restoreDone
  repeat' first
    | with_reducible assumption | with_reducible apply setReg_keepsPins | dsimp only
    | with_reducible apply KeepsPins.pwrgood | with_reducible apply KeepsPins.resetN
    | with_reducible apply KeepsPins.testEn | with_reducible apply KeepsPins.domid
    | with_reducible apply KeepsPins.mbusSel | with_reducible apply KeepsPins.start
    | (refine KeepsPins.mk ?_ ?_ ?_ ?_ ?_ ?_ <;> dsimp only)

/-! ### Fronds -/

theorem putFrond_keepsPins {s0 : State} {s : State} {f : Frond} (h_s : KeepsPins s0 s) :
    KeepsPins s0 (putFrond s f) := by
  unfold putFrond
  repeat' first
    | with_reducible assumption | intro _ | split | dsimp only | with_reducible apply KeepsPins.pwrgood
    | with_reducible apply KeepsPins.resetN | with_reducible apply KeepsPins.testEn
    | with_reducible apply KeepsPins.domid | with_reducible apply KeepsPins.mbusSel
    | with_reducible apply KeepsPins.start | (refine KeepsPins.mk ?_ ?_ ?_ ?_ ?_ ?_ <;> dsimp only)

theorem dropFrond_keepsPins {s0 : State} {s : State} {f : Frond} (h_s : KeepsPins s0 s) :
    KeepsPins s0 (dropFrond s f) := by
  unfold dropFrond
  repeat' first
    | with_reducible assumption | intro _ | dsimp only | with_reducible apply KeepsPins.pwrgood
    | with_reducible apply KeepsPins.resetN | with_reducible apply KeepsPins.testEn
    | with_reducible apply KeepsPins.domid | with_reducible apply KeepsPins.mbusSel
    | with_reducible apply KeepsPins.start | (refine KeepsPins.mk ?_ ?_ ?_ ?_ ?_ ?_ <;> dsimp only)

theorem consumeWaits_keepsPins {s0 : State} {s : State} {f : Frond} (h_s : KeepsPins s0 s) :
    KeepsPins s0 (consumeWaits s f) := by
  unfold consumeWaits
  repeat' first
    | with_reducible assumption | with_reducible apply foldl_keeps | with_reducible apply setF_keepsPins | intro _

theorem noteSignal_keepsPins {s0 : State} {s : State} {o : ℕ} {n : ℕ} (h_s : KeepsPins s0 s) :
    KeepsPins s0 (noteSignal s o n) := by
  unfold noteSignal
  repeat' first
    | with_reducible assumption | dsimp only | with_reducible apply KeepsPins.pwrgood
    | with_reducible apply KeepsPins.resetN | with_reducible apply KeepsPins.testEn
    | with_reducible apply KeepsPins.domid | with_reducible apply KeepsPins.mbusSel
    | with_reducible apply KeepsPins.start | (refine KeepsPins.mk ?_ ?_ ?_ ?_ ?_ ?_ <;> dsimp only)

theorem signal_keepsPins {s0 : State} {s : State} {r : ℕ} {t : TokWord} (h_s : KeepsPins s0 s) :
    KeepsPins s0 (signal s r t) := by
  unfold signal
  repeat' first
    | with_reducible assumption | with_reducible apply noteSignal_keepsPins | with_reducible apply setF_keepsPins
    | with_reducible apply logQueue_keepsPins | with_reducible apply logChip_keepsPins | split | dsimp only

theorem applySignals_keepsPins {s0 : State} {s : State} {f : Frond} (h_s : KeepsPins s0 s) :
    KeepsPins s0 (applySignals s f) := by
  unfold applySignals
  repeat' first
    | with_reducible assumption | with_reducible apply foldl_keeps | with_reducible apply signal_keepsPins | intro _

theorem logFrondAt_keepsPins {s0 : State} {s : State} {f : Frond} {b : ℕ} {code : ℕ} {pay : ℕ} (h_s : KeepsPins s0 s) :
    KeepsPins s0 (logFrondAt s f b code pay) := by
  unfold logFrondAt
  repeat' first
    | with_reducible assumption | with_reducible apply logEntry_keepsPins

theorem logFrond_keepsPins {s0 : State} {s : State} {f : Frond} {code : ℕ} {pay : ℕ} (h_s : KeepsPins s0 s) :
    KeepsPins s0 (logFrond s f code pay) := by
  unfold logFrond
  repeat' first
    | with_reducible assumption | with_reducible apply logFrondAt_keepsPins

theorem logUnit_keepsPins {s0 : State} {s : State} {f : Frond} {code : ℕ} {cls : ℕ} {idx : ℕ} {pay : ℕ} (h_s : KeepsPins s0 s) :
    KeepsPins s0 (logUnit s f code cls idx pay) := by
  unfold logUnit
  repeat' first
    | with_reducible assumption | with_reducible apply logEntry_keepsPins

theorem unpend_keepsPins {s0 : State} {s : State} {f : Frond} (h_s : KeepsPins s0 s) :
    KeepsPins s0 (unpend s f) := by
  unfold unpend
  repeat' first
    | with_reducible assumption | with_reducible apply foldl_keeps | with_reducible apply setB_keepsPins | intro _ | split
    | dsimp only | with_reducible apply KeepsPins.pwrgood | with_reducible apply KeepsPins.resetN
    | with_reducible apply KeepsPins.testEn | with_reducible apply KeepsPins.domid
    | with_reducible apply KeepsPins.mbusSel | with_reducible apply KeepsPins.start
    | (refine KeepsPins.mk ?_ ?_ ?_ ?_ ?_ ?_ <;> dsimp only)

theorem pendAt_keepsPins {s0 : State} {s : State} {f : Frond} (h_s : KeepsPins s0 s) :
    KeepsPins s0 (pendAt s f) := by
  unfold pendAt
  repeat' first
    | with_reducible assumption | with_reducible apply putFrond_keepsPins | with_reducible apply foldl_keeps
    | with_reducible apply setB_keepsPins | with_reducible apply setF_keepsPins | intro _

theorem noteServed_keepsPins {s0 : State} {s : State} {f : Frond} (h_s : KeepsPins s0 s) :
    KeepsPins s0 (noteServed s f) := by
  unfold noteServed
  repeat' first
    | with_reducible assumption | with_reducible apply foldl_keeps | with_reducible apply setReg_keepsPins | intro _
    | split

theorem poisonUnit_keepsPins {s0 : State} {s : State} {d : Slot} {p : ℤ} (h_s : KeepsPins s0 s) :
    KeepsPins s0 (poisonUnit s d p) := by
  unfold poisonUnit
  repeat' first
    | with_reducible assumption | with_reducible apply forRange_keeps | with_reducible apply poisonAt_keepsPins | intro _
    | split

theorem poisonSlot_keepsPins {s0 : State} {s : State} {f : Frond} {i : ℕ} (h_s : KeepsPins s0 s) :
    KeepsPins s0 (poisonSlot s f i) := by
  unfold poisonSlot
  repeat' first
    | with_reducible assumption | with_reducible apply forRange_keeps | with_reducible apply poisonUnit_keepsPins | intro _
    | split | dsimp only

theorem poisonTile_keepsPins {s0 : State} {s : State} {k : ℕ} {b : Bool} (h_s : KeepsPins s0 s) :
    KeepsPins s0 (poisonTile s k b) := by
  unfold poisonTile
  repeat' first
    | with_reducible assumption | with_reducible apply setB_keepsPins

theorem poisonCtd_keepsPins {s0 : State} {s : State} {d : Slot} (h_s : KeepsPins s0 s) :
    KeepsPins s0 (poisonCtd s d) := by
  unfold poisonCtd
  repeat' first
    | with_reducible assumption | with_reducible apply putByte_keepsPins | split

theorem poisonDests_keepsPins {s0 : State} {s : State} {f : Frond} {x : Status} (h_s : KeepsPins s0 s) :
    KeepsPins s0 (poisonDests s f x) := by
  unfold poisonDests
  repeat' first
    | with_reducible assumption | with_reducible apply foldl_keeps | with_reducible apply poisonTile_keepsPins
    | with_reducible apply forRange_keeps | with_reducible apply poisonAt_keepsPins | with_reducible apply poisonCtd_keepsPins
    | with_reducible apply poisonSlot_keepsPins | with_reducible apply poisonLine_keepsPins | intro _ | split

theorem poisonWritten_keepsPins {s0 : State} {s : State} {f : Frond} (h_s : KeepsPins s0 s) :
    KeepsPins s0 (poisonWritten s f) := by
  unfold poisonWritten
  repeat' first
    | with_reducible assumption | with_reducible apply foldl_keeps | with_reducible apply poisonTile_keepsPins
    | with_reducible apply poisonGranule_keepsPins | with_reducible apply poisonLine_keepsPins
    | with_reducible apply poisonCtd_keepsPins | intro _ | split

theorem clearWhole_keepsPins {s0 : State} {s : State} {f : Frond} (h_s : KeepsPins s0 s) :
    KeepsPins s0 (clearWhole s f) := by
  unfold clearWhole
  repeat' first
    | with_reducible assumption | with_reducible apply foldl_keeps | with_reducible apply clearGranule_keepsPins
    | with_reducible apply poisonTile_keepsPins | with_reducible apply clearLine_keepsPins | intro _ | split

theorem settlePoison_keepsPins {s0 : State} {s : State} {f : Frond} (h_s : KeepsPins s0 s) :
    KeepsPins s0 (settlePoison s f) := by
  unfold settlePoison
  repeat' first
    | with_reducible assumption | with_reducible apply clearWhole_keepsPins | with_reducible apply poisonWritten_keepsPins
    | with_reducible apply poisonDests_keepsPins | split | dsimp only

theorem openEp_keepsPins {s0 : State} {s : State} {k : ℕ} (h_s : KeepsPins s0 s) :
    KeepsPins s0 (openEp s k) := by
  unfold openEp
  repeat' first
    | with_reducible assumption | dsimp only | with_reducible apply KeepsPins.pwrgood
    | with_reducible apply KeepsPins.resetN | with_reducible apply KeepsPins.testEn
    | with_reducible apply KeepsPins.domid | with_reducible apply KeepsPins.mbusSel
    | with_reducible apply KeepsPins.start | (refine KeepsPins.mk ?_ ?_ ?_ ?_ ?_ ?_ <;> dsimp only)

theorem closeEp_keepsPins {s0 : State} {s : State} {k : ℕ} (h_s : KeepsPins s0 s) :
    KeepsPins s0 (closeEp s k) := by
  unfold closeEp
  repeat' first
    | with_reducible assumption | dsimp only | with_reducible apply KeepsPins.pwrgood
    | with_reducible apply KeepsPins.resetN | with_reducible apply KeepsPins.testEn
    | with_reducible apply KeepsPins.domid | with_reducible apply KeepsPins.mbusSel
    | with_reducible apply KeepsPins.start | (refine KeepsPins.mk ?_ ?_ ?_ ?_ ?_ ?_ <;> dsimp only)

theorem oncePer_keepsPins {s0 : State} {s : State} {k : ℕ} {ev : State → State} (h_s : KeepsPins s0 s) (h_ev : (∀ y0, KeepsPins s0 y0 → KeepsPins s0 (ev y0))) :
    KeepsPins s0 (oncePer s k ev) := by
  unfold oncePer
  repeat' first
    | with_reducible assumption | with_reducible apply h_ev | with_reducible apply openEp_keepsPins | split

theorem storeRecord_keepsPins {s0 : State} {s : State} {f : Frond} {bits : ℕ} (h_s : KeepsPins s0 s) :
    KeepsPins s0 (storeRecord s f bits) := by
  unfold storeRecord
  repeat' first
    | with_reducible assumption | with_reducible apply setF_keepsPins | with_reducible apply closeEp_keepsPins
    | with_reducible apply putBytes_keepsPins | with_reducible apply oncePer_keepsPins | with_reducible apply logQueue_keepsPins
    | intro _ | split

theorem writeRecord_keepsPins {s0 : State} {s : State} {f : Frond} {b : ℕ} (h_s : KeepsPins s0 s) :
    KeepsPins s0 (writeRecord s f b) := by
  unfold writeRecord
  repeat' first
    | with_reducible assumption | with_reducible apply storeRecord_keepsPins | with_reducible apply closeEp_keepsPins
    | with_reducible apply oncePer_keepsPins | with_reducible apply setF_keepsPins | with_reducible apply logQueue_keepsPins
    | intro _ | split

theorem noteMiss_keepsPins {s0 : State} {s : State} {f : Frond} {b : ℕ} (h_s : KeepsPins s0 s) :
    KeepsPins s0 (noteMiss s f b) := by
  unfold noteMiss
  repeat' first
    | with_reducible assumption | with_reducible apply bump_keepsPins | with_reducible apply logFrondAt_keepsPins
    | with_reducible apply raiseIrq_keepsPins | split | dsimp only

theorem advanceHead_keepsPins {s0 : State} {s : State} {r : ℕ} {q : ℕ} {x3 : ℕ} (h_s : KeepsPins s0 s) :
    KeepsPins s0 (advanceHead s r q x3) := by
  revert h_s
  fun_induction advanceHead s r q x3
  all_goals
    try rename_i ih
    intro h_s
    repeat' first
      | with_reducible assumption | with_reducible apply ih | with_reducible apply setF_keepsPins | split | dsimp only
      | dsimp +zetaDelta only | with_reducible apply KeepsPins.pwrgood | with_reducible apply KeepsPins.resetN
      | with_reducible apply KeepsPins.testEn | with_reducible apply KeepsPins.domid
      | with_reducible apply KeepsPins.mbusSel | with_reducible apply KeepsPins.start
      | (refine KeepsPins.mk ?_ ?_ ?_ ?_ ?_ ?_ <;> dsimp only)

theorem imageStep_keepsPins {s0 : State} {s : State} {r : ℕ} {q : ℕ} (h_s : KeepsPins s0 s) :
    KeepsPins s0 (imageStep s r q) := by
  unfold imageStep
  repeat' first
    | with_reducible assumption | with_reducible apply logQueue_keepsPins | with_reducible apply setB_keepsPins
    | with_reducible apply setF_keepsPins | intro _ | split | dsimp only | with_reducible apply KeepsPins.pwrgood
    | with_reducible apply KeepsPins.resetN | with_reducible apply KeepsPins.testEn
    | with_reducible apply KeepsPins.domid | with_reducible apply KeepsPins.mbusSel
    | with_reducible apply KeepsPins.start | (refine KeepsPins.mk ?_ ?_ ?_ ?_ ?_ ?_ <;> dsimp only)

theorem tileRelease_keepsPins {s0 : State} {s : State} {f : Frond} (h_s : KeepsPins s0 s) :
    KeepsPins s0 (tileRelease s f) := by
  unfold tileRelease
  repeat' first
    | with_reducible assumption | with_reducible apply setReg_keepsPins | intro _ | split | dsimp only
    | with_reducible apply KeepsPins.pwrgood | with_reducible apply KeepsPins.resetN
    | with_reducible apply KeepsPins.testEn | with_reducible apply KeepsPins.domid
    | with_reducible apply KeepsPins.mbusSel | with_reducible apply KeepsPins.start
    | (refine KeepsPins.mk ?_ ?_ ?_ ?_ ?_ ?_ <;> dsimp only)

theorem failRelease_keepsPins {s0 : State} {s : State} {f : Frond} (h_s : KeepsPins s0 s) :
    KeepsPins s0 (failRelease s f) := by
  unfold failRelease
  repeat' first
    | with_reducible assumption | with_reducible apply restoreDone_keepsPins | with_reducible apply snapshotDone_keepsPins
    | intro _ | split | dsimp only | exact rfl | with_reducible apply KeepsPins.pwrgood
    | with_reducible apply KeepsPins.resetN | with_reducible apply KeepsPins.testEn
    | with_reducible apply KeepsPins.domid | with_reducible apply KeepsPins.mbusSel
    | with_reducible apply KeepsPins.start | (refine KeepsPins.mk ?_ ?_ ?_ ?_ ?_ ?_ <;> dsimp only)

theorem countSwitch_keepsPins {s0 : State} {s : State} {f : Frond} (h_s : KeepsPins s0 s) :
    KeepsPins s0 (countSwitch s f) := by
  unfold countSwitch
  repeat' first
    | with_reducible assumption | with_reducible apply bump_keepsPins | split

theorem releaseNow_keepsPins {s0 : State} {s : State} {f : Frond} {b : ℕ} (h_s : KeepsPins s0 s) :
    KeepsPins s0 (releaseNow s f b) := by
  unfold releaseNow
  extract_lets s1 s2 s3 s4 s5 s6
  have h1 : KeepsPins s0 s1 := noteServed_keepsPins (unpend_keepsPins (settlePoison_keepsPins (noteMiss_keepsPins (countSwitch_keepsPins h_s))))
  have h2 : KeepsPins s0 s2 := applySignals_keepsPins (failRelease_keepsPins (tileRelease_keepsPins h1))
  have h3 : KeepsPins s0 s3 := by
    unfold s3; split
    · exact writeRecord_keepsPins h2
    · exact h2
  have h4 : KeepsPins s0 s4 := by
    unfold s4; split
    · exact raiseIrq_keepsPins h3
    · exact h3
  have h5 : KeepsPins s0 s5 := dropFrond_keepsPins h4
  exact imageStep_keepsPins (advanceHead_keepsPins (congr_keepsPins h5 rfl rfl rfl rfl rfl rfl))

theorem release_keepsPins {s0 : State} {s : State} {f : Frond} (h_s : KeepsPins s0 s) :
    KeepsPins s0 (release s f) := by
  unfold release
  repeat' first
    | with_reducible assumption | with_reducible apply releaseNow_keepsPins | with_reducible apply oncePer_keepsPins
    | with_reducible apply dropFrond_keepsPins | with_reducible apply logQueue_keepsPins | intro _ | split | dsimp only
    | with_reducible apply KeepsPins.pwrgood | with_reducible apply KeepsPins.resetN
    | with_reducible apply KeepsPins.testEn | with_reducible apply KeepsPins.domid
    | with_reducible apply KeepsPins.mbusSel | with_reducible apply KeepsPins.start
    | (refine KeepsPins.mk ?_ ?_ ?_ ?_ ?_ ?_ <;> dsimp only)

theorem releaseHeld_keepsPins {s0 : State} {s : State} {r : ℕ} {q : ℕ} {x3 : ℕ} (h_s : KeepsPins s0 s) :
    KeepsPins s0 (releaseHeld s r q x3) := by
  revert h_s
  fun_induction releaseHeld s r q x3
  all_goals
    try rename_i ih
    intro h_s
    repeat' first
      | with_reducible assumption | with_reducible apply ih | with_reducible apply releaseNow_keepsPins
      | with_reducible apply closeEp_keepsPins

/-! ### Gate -/

theorem gated_keepsPins {s0 : State} {s : State} {m : Master} {o : ℕ} {eff : State → State} (h_s : KeepsPins s0 s) (h_eff : (∀ y0, KeepsPins s0 y0 → KeepsPins s0 (eff y0))) :
    KeepsPins s0 (gated s m o eff) := by
  unfold gated
  repeat' first
    | with_reducible assumption | with_reducible apply h_eff | with_reducible apply logMaster_keepsPins | split

/-! ### QueueRegs -/

theorem logQueueReg_keepsPins {s0 : State} {s : State} {code : ℕ} {r : ℕ} {q : ℕ} {o : ℕ} (h_s : KeepsPins s0 s) :
    KeepsPins s0 (logQueueReg s code r q o) := by
  unfold logQueueReg
  repeat' first
    | with_reducible assumption | with_reducible apply logQueue_keepsPins

theorem wrQtail_keepsPins {s0 : State} {s : State} {r : ℕ} {q : ℕ} {t : ℕ} (h_s : KeepsPins s0 s) :
    KeepsPins s0 (wrQtail s r q t) := by
  unfold wrQtail
  repeat' first
    | with_reducible assumption | with_reducible apply setF_keepsPins | with_reducible apply logQueueReg_keepsPins | intro _
    | split | dsimp only | with_reducible apply KeepsPins.pwrgood | with_reducible apply KeepsPins.resetN
    | with_reducible apply KeepsPins.testEn | with_reducible apply KeepsPins.domid
    | with_reducible apply KeepsPins.mbusSel | with_reducible apply KeepsPins.start
    | (refine KeepsPins.mk ?_ ?_ ?_ ?_ ?_ ?_ <;> dsimp only)

theorem wrCrtail_keepsPins {s0 : State} {s : State} {r : ℕ} {q : ℕ} {t : ℕ} (h_s : KeepsPins s0 s) :
    KeepsPins s0 (wrCrtail s r q t) := by
  unfold wrCrtail
  repeat' first
    | with_reducible assumption | with_reducible apply releaseHeld_keepsPins | with_reducible apply setF_keepsPins

theorem fetchBad_keepsPins {s0 : State} {s : State} {r : ℕ} {q : ℕ} {a : ℕ} (h_s : KeepsPins s0 s) :
    KeepsPins s0 (fetchBad s r q a) := by
  unfold fetchBad
  repeat' first
    | with_reducible assumption | with_reducible apply logQueue_keepsPins | with_reducible apply setB_keepsPins | split

theorem startImage_keepsPins {s0 : State} {s : State} {r : ℕ} {q : ℕ} (h_s : KeepsPins s0 s) :
    KeepsPins s0 (startImage s r q) := by
  unfold startImage
  repeat' first
    | with_reducible assumption | with_reducible apply setF_keepsPins | with_reducible apply logQueue_keepsPins
    | with_reducible apply setB_keepsPins | with_reducible apply fetchBad_keepsPins | split | dsimp only
    | with_reducible apply KeepsPins.pwrgood | with_reducible apply KeepsPins.resetN
    | with_reducible apply KeepsPins.testEn | with_reducible apply KeepsPins.domid
    | with_reducible apply KeepsPins.mbusSel | with_reducible apply KeepsPins.start
    | (refine KeepsPins.mk ?_ ?_ ?_ ?_ ?_ ?_ <;> dsimp only)

theorem wrEnable_keepsPins {s0 : State} {s : State} {r : ℕ} {q : ℕ} {en : Bool} (h_s : KeepsPins s0 s) :
    KeepsPins s0 (wrEnable s r q en) := by
  unfold wrEnable
  repeat' first
    | with_reducible assumption | with_reducible apply setB_keepsPins | with_reducible apply startImage_keepsPins | split
    | dsimp only

theorem wrRestart_keepsPins {s0 : State} {s : State} {r : ℕ} {q : ℕ} (h_s : KeepsPins s0 s) :
    KeepsPins s0 (wrRestart s r q) := by
  unfold wrRestart
  repeat' first
    | with_reducible assumption | with_reducible apply startImage_keepsPins | with_reducible apply setB_keepsPins | split

theorem wrQueueBase_keepsPins {s0 : State} {s : State} {r : ℕ} {q : ℕ} {o : ℕ} {v : Word} (h_s : KeepsPins s0 s) :
    KeepsPins s0 (wrQueueBase s r q o v) := by
  unfold wrQueueBase
  repeat' first
    | with_reducible assumption | with_reducible apply logQueueReg_keepsPins | with_reducible apply setF_keepsPins | split

theorem wrCrcfg_keepsPins {s0 : State} {s : State} {r : ℕ} {q : ℕ} {v : Word} (h_s : KeepsPins s0 s) :
    KeepsPins s0 (wrCrcfg s r q v) := by
  unfold wrCrcfg
  repeat' first
    | with_reducible assumption | with_reducible apply logQueueReg_keepsPins | with_reducible apply setF_keepsPins | split

theorem wrQctrl_keepsPins {s0 : State} {s : State} {r : ℕ} {q : ℕ} {v : Word} (h_s : KeepsPins s0 s) :
    KeepsPins s0 (wrQctrl s r q v) := by
  unfold wrQctrl
  repeat' first
    | with_reducible assumption | with_reducible apply wrEnable_keepsPins | with_reducible apply logQueueReg_keepsPins
    | with_reducible apply setB_keepsPins | with_reducible apply wrRestart_keepsPins | split

theorem wrQueueCfg_keepsPins {s0 : State} {s : State} {r : ℕ} {q : ℕ} {k : QueueCfg} {v : Word} (h_s : KeepsPins s0 s) :
    KeepsPins s0 (wrQueueCfg s r q k v) := by
  unfold wrQueueCfg
  repeat' first
    | with_reducible assumption | with_reducible apply wrQueueBase_keepsPins | with_reducible apply closeEp_keepsPins
    | with_reducible apply wrCrcfg_keepsPins | with_reducible apply wrQctrl_keepsPins | split

/-! ### Abort -/

theorem withdrawArrival_keepsPins {s0 : State} {s : State} {f : Frond} (h_s : KeepsPins s0 s) :
    KeepsPins s0 (withdrawArrival s f) := by
  unfold withdrawArrival
  repeat' first
    | with_reducible assumption | intro _ | dsimp only | with_reducible apply KeepsPins.pwrgood
    | with_reducible apply KeepsPins.resetN | with_reducible apply KeepsPins.testEn
    | with_reducible apply KeepsPins.domid | with_reducible apply KeepsPins.mbusSel
    | with_reducible apply KeepsPins.start | (refine KeepsPins.mk ?_ ?_ ?_ ?_ ?_ ?_ <;> dsimp only)

theorem abortFrond_keepsPins {s0 : State} {s : State} {f : Frond} (h_s : KeepsPins s0 s) :
    KeepsPins s0 (abortFrond s f) := by
  unfold abortFrond
  repeat' first
    | with_reducible assumption | with_reducible apply withdrawArrival_keepsPins | with_reducible apply putFrond_keepsPins
    | split

theorem abortOne_keepsPins {s0 : State} {s : State} {r : ℕ} {q : ℕ} {k : ℕ} (h_s : KeepsPins s0 s) :
    KeepsPins s0 (abortOne s r q k) := by
  unfold abortOne
  repeat' first
    | with_reducible assumption | with_reducible apply abortFrond_keepsPins | intro _ | split | dsimp only
    | with_reducible apply KeepsPins.pwrgood | with_reducible apply KeepsPins.resetN
    | with_reducible apply KeepsPins.testEn | with_reducible apply KeepsPins.domid
    | with_reducible apply KeepsPins.mbusSel | with_reducible apply KeepsPins.start
    | (refine KeepsPins.mk ?_ ?_ ?_ ?_ ?_ ?_ <;> dsimp only)

theorem wrAbort_keepsPins {s0 : State} {s : State} {r : ℕ} {q : ℕ} {seq : ℕ} {scope : ℕ} (h_s : KeepsPins s0 s) :
    KeepsPins s0 (wrAbort s r q seq scope) := by
  unfold wrAbort
  repeat' first
    | with_reducible assumption | with_reducible apply foldl_keeps | with_reducible apply abortOne_keepsPins
    | with_reducible apply logEntry_keepsPins | intro _

theorem wrPreempt_keepsPins {s0 : State} {s : State} {r : ℕ} {q : ℕ} {mode : ℕ} (h_s : KeepsPins s0 s) :
    KeepsPins s0 (wrPreempt s r q mode) := by
  unfold wrPreempt
  repeat' first
    | with_reducible assumption | with_reducible apply setB_keepsPins | intro _ | split | dsimp only
    | with_reducible apply KeepsPins.pwrgood | with_reducible apply KeepsPins.resetN
    | with_reducible apply KeepsPins.testEn | with_reducible apply KeepsPins.domid
    | with_reducible apply KeepsPins.mbusSel | with_reducible apply KeepsPins.start
    | (refine KeepsPins.mk ?_ ?_ ?_ ?_ ?_ ?_ <;> dsimp only)

theorem wrResume_keepsPins {s0 : State} {s : State} {r : ℕ} {q : ℕ} (h_s : KeepsPins s0 s) :
    KeepsPins s0 (wrResume s r q) := by
  unfold wrResume
  repeat' first
    | with_reducible assumption | with_reducible apply setB_keepsPins | intro _ | split | dsimp only
    | with_reducible apply KeepsPins.pwrgood | with_reducible apply KeepsPins.resetN
    | with_reducible apply KeepsPins.testEn | with_reducible apply KeepsPins.domid
    | with_reducible apply KeepsPins.mbusSel | with_reducible apply KeepsPins.start
    | (refine KeepsPins.mk ?_ ?_ ?_ ?_ ?_ ?_ <;> dsimp only)

theorem undecode_keepsPins {s0 : State} {s : State} {r : ℕ} {q : ℕ} (h_s : KeepsPins s0 s) :
    KeepsPins s0 (undecode s r q) := by
  unfold undecode
  repeat' first
    | with_reducible assumption | with_reducible apply setF_keepsPins | intro _ | dsimp only
    | with_reducible apply KeepsPins.pwrgood | with_reducible apply KeepsPins.resetN
    | with_reducible apply KeepsPins.testEn | with_reducible apply KeepsPins.domid
    | with_reducible apply KeepsPins.mbusSel | with_reducible apply KeepsPins.start
    | (refine KeepsPins.mk ?_ ?_ ?_ ?_ ?_ ?_ <;> dsimp only)

theorem preemptDone_keepsPins {s0 : State} {s : State} {r : ℕ} {q : ℕ} (h_s : KeepsPins s0 s) :
    KeepsPins s0 (preemptDone s r q) := by
  unfold preemptDone
  repeat' first
    | with_reducible assumption | with_reducible apply logQueue_keepsPins | with_reducible apply setB_keepsPins
    | with_reducible apply undecode_keepsPins | intro _ | split | dsimp only | with_reducible apply KeepsPins.pwrgood
    | with_reducible apply KeepsPins.resetN | with_reducible apply KeepsPins.testEn
    | with_reducible apply KeepsPins.domid | with_reducible apply KeepsPins.mbusSel
    | with_reducible apply KeepsPins.start | (refine KeepsPins.mk ?_ ?_ ?_ ?_ ?_ ?_ <;> dsimp only)

/-! ### Primes -/

theorem primeBad_keepsPins {s0 : State} {s : State} {k : ℕ} {cause : ℕ} (h_s : KeepsPins s0 s) :
    KeepsPins s0 (primeBad s k cause) := by
  unfold primeBad
  repeat' first
    | with_reducible assumption | with_reducible apply logEv_keepsPins | with_reducible apply setF_keepsPins

theorem loadPrime_keepsPins {s0 : State} {s : State} {k : ℕ} {q : ℕ} {root : ℕ} (h_s : KeepsPins s0 s) :
    KeepsPins s0 (loadPrime s k q root) := by
  unfold loadPrime
  repeat' first
    | with_reducible assumption | with_reducible apply setF_keepsPins | with_reducible apply setReg_keepsPins
    | with_reducible apply primeBad_keepsPins | intro _ | split

theorem loadPrimes_keepsPins {s0 : State} {s : State} {table : List Byte} (h_s : KeepsPins s0 s) :
    KeepsPins s0 (loadPrimes s table) := by
  unfold loadPrimes
  repeat' first
    | with_reducible assumption | with_reducible apply logEv_keepsPins | with_reducible apply setB_keepsPins
    | with_reducible apply forRange_keeps | with_reducible apply loadPrime_keepsPins | intro _

/-! ### Link -/

theorem setLinkPort_keepsPins {s0 : State} {s : State} {p : ℕ} {x : LinkPort} (h_s : KeepsPins s0 s) :
    KeepsPins s0 (setLinkPort s p x) := by
  unfold setLinkPort
  repeat' first
    | with_reducible assumption | dsimp only | with_reducible apply KeepsPins.pwrgood
    | with_reducible apply KeepsPins.resetN | with_reducible apply KeepsPins.testEn
    | with_reducible apply KeepsPins.domid | with_reducible apply KeepsPins.mbusSel
    | with_reducible apply KeepsPins.start | (refine KeepsPins.mk ?_ ?_ ?_ ?_ ?_ ?_ <;> dsimp only)

theorem logLink_keepsPins {s0 : State} {s : State} {code : ℕ} {p : ℕ} {reason : ℕ} {addr : ℕ} (h_s : KeepsPins s0 s) :
    KeepsPins s0 (logLink s code p reason addr) := by
  unfold logLink
  repeat' first
    | with_reducible assumption | with_reducible apply logEv_keepsPins

theorem transmit_keepsPins {s0 : State} {s : State} {p : ℕ} {k : Packet} (h_s : KeepsPins s0 s) :
    KeepsPins s0 (transmit s p k) := by
  unfold transmit
  repeat' first
    | with_reducible assumption | with_reducible apply setLinkPort_keepsPins | with_reducible apply bump_keepsPins | intro _
    | dsimp only | with_reducible apply KeepsPins.pwrgood | with_reducible apply KeepsPins.resetN
    | with_reducible apply KeepsPins.testEn | with_reducible apply KeepsPins.domid
    | with_reducible apply KeepsPins.mbusSel | with_reducible apply KeepsPins.start
    | (refine KeepsPins.mk ?_ ?_ ?_ ?_ ?_ ?_ <;> dsimp only)

theorem drainPort_keepsPins {s0 : State} {s : State} {p : ℕ} {x2 : ℕ} (h_s : KeepsPins s0 s) :
    KeepsPins s0 (drainPort s p x2) := by
  revert h_s
  fun_induction drainPort s p x2
  all_goals
    try rename_i ih
    intro h_s
    repeat' first
      | with_reducible assumption | with_reducible apply ih | with_reducible apply transmit_keepsPins
      | with_reducible apply setLinkPort_keepsPins

theorem sendOn_keepsPins {s0 : State} {s : State} {p : ℕ} {k : Packet} (h_s : KeepsPins s0 s) :
    KeepsPins s0 (sendOn s p k) := by
  unfold sendOn
  repeat' first
    | with_reducible assumption | with_reducible apply drainPort_keepsPins | with_reducible apply setLinkPort_keepsPins | split

theorem routeOut_keepsPins {s0 : State} {s : State} {k : Packet} {die : ℕ} (h_s : KeepsPins s0 s) :
    KeepsPins s0 (routeOut s k die) := by
  unfold routeOut
  repeat' first
    | with_reducible assumption | with_reducible apply logChip_keepsPins | with_reducible apply bump_keepsPins
    | with_reducible apply sendOn_keepsPins | with_reducible apply countNd_keepsPins | split

theorem inject_keepsPins {s0 : State} {s : State} {k : Packet} (h_s : KeepsPins s0 s) :
    KeepsPins s0 (inject s k) := by
  unfold inject
  repeat' first
    | with_reducible assumption | with_reducible apply routeOut_keepsPins | split | dsimp only
    | with_reducible apply KeepsPins.pwrgood | with_reducible apply KeepsPins.resetN
    | with_reducible apply KeepsPins.testEn | with_reducible apply KeepsPins.domid
    | with_reducible apply KeepsPins.mbusSel | with_reducible apply KeepsPins.start
    | (refine KeepsPins.mk ?_ ?_ ?_ ?_ ?_ ?_ <;> dsimp only)

theorem sendAll_keepsPins {s0 : State} {s : State} {k : Packet} {except : Option ℕ} (h_s : KeepsPins s0 s) :
    KeepsPins s0 (sendAll s k except) := by
  unfold sendAll
  repeat' first
    | with_reducible assumption | with_reducible apply forRange_keeps | with_reducible apply sendOn_keepsPins | intro _
    | split

theorem commitAlias_keepsPins {s0 : State} {s : State} {i : ℕ} {valid : Bool} {l : ℕ} {p : ℕ} {dead : Bool} (h_s : KeepsPins s0 s) :
    KeepsPins s0 (commitAlias s i valid l p dead) := by
  unfold commitAlias
  repeat' first
    | with_reducible assumption | with_reducible apply logChip_keepsPins | with_reducible apply setReg_keepsPins | intro _
    | split | dsimp only | with_reducible apply KeepsPins.pwrgood | with_reducible apply KeepsPins.resetN
    | with_reducible apply KeepsPins.testEn | with_reducible apply KeepsPins.domid
    | with_reducible apply KeepsPins.mbusSel | with_reducible apply KeepsPins.start
    | (refine KeepsPins.mk ?_ ?_ ?_ ?_ ?_ ?_ <;> dsimp only)

theorem setAlias_keepsPins {s0 : State} {s : State} {l : ℕ} {p : ℕ} {dead : Bool} (h_s : KeepsPins s0 s) :
    (∀ y0, setAlias s l p dead = some y0 → KeepsPins s0 y0) := by
  unfold setAlias
  intro y hy
  split at hy
  · cases hy; exact commitAlias_keepsPins h_s
  · split at hy
    · cases hy; exact commitAlias_keepsPins h_s
    · cases hy

/-! ### ExtMem -/

theorem noteSpan_keepsPins {s0 : State} {s : State} {a : ℕ} {n : ℕ} (h_s : KeepsPins s0 s) :
    KeepsPins s0 (noteSpan s a n) := by
  unfold noteSpan
  repeat' first
    | with_reducible assumption | with_reducible apply forRange_keeps | with_reducible apply readMat_keepsPins
    | with_reducible apply readHbm_keepsPins | intro _ | split | dsimp only

theorem logPoisonRead_keepsPins {s0 : State} {s : State} {a : ℕ} (h_s : KeepsPins s0 s) :
    KeepsPins s0 (logPoisonRead s a) := by
  unfold logPoisonRead
  repeat' first
    | with_reducible assumption | with_reducible apply logEv_keepsPins | split

theorem extRead_keepsPins {s0 : State} {s : State} {a : ℕ} {n : ℕ} (h_s : KeepsPins s0 s) :
    KeepsPins s0 ((extRead s a n).1) := by
  unfold extRead
  repeat' first
    | with_reducible assumption | with_reducible apply noteSpan_keepsPins | with_reducible apply logPoisonRead_keepsPins | split
    | dsimp only

theorem hostMemRead_keepsPins {s0 : State} {s : State} {p : ℕ} {a : ℕ} {n : ℕ} (h_s : KeepsPins s0 s) :
    KeepsPins s0 (hostMemRead s p a n) := by
  unfold hostMemRead
  repeat' first
    | with_reducible assumption | with_reducible apply emit_keepsPins | with_reducible apply logEv_keepsPins
    | with_reducible apply extRead_keepsPins | split

theorem hostMemWrite_keepsPins {s0 : State} {s : State} {p : ℕ} {a : ℕ} {d : List Byte} (h_s : KeepsPins s0 s) :
    KeepsPins s0 (hostMemWrite s p a d) := by
  unfold hostMemWrite
  repeat' first
    | with_reducible assumption | with_reducible apply logEv_keepsPins | with_reducible apply externalWrite_keepsPins | split

theorem mgmtMem_keepsPins {s0 : State} {s : State} {wr : Bool} {a : ℕ} {d : List Byte} {n : ℕ} (h_s : KeepsPins s0 s) :
    KeepsPins s0 (mgmtMem s wr a d n) := by
  unfold mgmtMem
  repeat' first
    | with_reducible assumption | with_reducible apply emit_keepsPins | with_reducible apply logEv_keepsPins
    | with_reducible apply extRead_keepsPins | with_reducible apply externalWrite_keepsPins | split

theorem hold_keepsPins {s0 : State} {s : State} {i : Instr} (h_s : KeepsPins s0 s) :
    KeepsPins s0 (hold s i) := by
  unfold hold
  repeat' first
    | with_reducible assumption | dsimp only | with_reducible apply KeepsPins.pwrgood
    | with_reducible apply KeepsPins.resetN | with_reducible apply KeepsPins.testEn
    | with_reducible apply KeepsPins.domid | with_reducible apply KeepsPins.mbusSel
    | with_reducible apply KeepsPins.start | (refine KeepsPins.mk ?_ ?_ ?_ ?_ ?_ ?_ <;> dsimp only)

theorem performHeld_keepsPins {s0 : State} {s : State} {i : Instr} (h_s : KeepsPins s0 s) :
    KeepsPins s0 (performHeld s i) := by
  unfold performHeld
  repeat' first
    | with_reducible assumption | with_reducible apply hostMemRead_keepsPins | with_reducible apply hostMemWrite_keepsPins
    | with_reducible apply mgmtMem_keepsPins | split

theorem releaseAccesses_keepsPins {s0 : State} {s : State} (h_s : KeepsPins s0 s) :
    KeepsPins s0 (releaseAccesses s) := by
  unfold releaseAccesses
  repeat' first
    | with_reducible assumption | with_reducible apply foldl_keeps | with_reducible apply performHeld_keepsPins | intro _
    | dsimp only | with_reducible apply KeepsPins.pwrgood | with_reducible apply KeepsPins.resetN
    | with_reducible apply KeepsPins.testEn | with_reducible apply KeepsPins.domid
    | with_reducible apply KeepsPins.mbusSel | with_reducible apply KeepsPins.start
    | (refine KeepsPins.mk ?_ ?_ ?_ ?_ ?_ ?_ <;> dsimp only)

end Sys2Proof.Machine
end

