-- ==== Sys2Proof/Laws/PinsCommands.lean ====
section
/-! SUPPORT. Operations that leave the sampled straps, the power pins and the start-up measurements as they were: register writes, packets, events and maintenance. -/

namespace Sys2Proof.Machine
open Sys2Proof

/-! ### MatRegs -/

theorem logMat_keepsPins {s0 : State} {s : State} {code : ℕ} {r : ℕ} {o : ℕ} (h_s : KeepsPins s0 s) :
    KeepsPins s0 (logMat s code r o) := by
  unfold logMat
  repeat' first
    | with_reducible assumption | with_reducible apply logEv_keepsPins

theorem hoffLines_keepsPins {s0 : State} {s : State} {r : ℕ} {old : Word} {new : Word} (h_s : KeepsPins s0 s) :
    KeepsPins s0 (hoffLines s r old new) := by
  unfold hoffLines
  repeat' first
    | with_reducible assumption | with_reducible apply forRange_keeps | with_reducible apply takeFree_keepsPins | intro _
    | split | dsimp only | exact rfl | with_reducible apply KeepsPins.pwrgood | with_reducible apply KeepsPins.resetN
    | with_reducible apply KeepsPins.testEn | with_reducible apply KeepsPins.domid
    | with_reducible apply KeepsPins.mbusSel | with_reducible apply KeepsPins.start
    | (refine KeepsPins.mk ?_ ?_ ?_ ?_ ?_ ?_ <;> dsimp only)

theorem wrMatMode_keepsPins {s0 : State} {s : State} {r : ℕ} {v : Word} (h_s : KeepsPins s0 s) :
    KeepsPins s0 (wrMatMode s r v) := by
  unfold wrMatMode
  repeat' first
    | with_reducible assumption | with_reducible apply setB_keepsPins | with_reducible apply logMat_keepsPins | split

theorem wrHoff_keepsPins {s0 : State} {s : State} {r : ℕ} {h : ℕ} {v : Word} (h_s : KeepsPins s0 s) :
    KeepsPins s0 (wrHoff s r h v) := by
  unfold wrHoff
  repeat' first
    | with_reducible assumption | with_reducible apply hoffLines_keepsPins | with_reducible apply setReg_keepsPins
    | with_reducible apply logMat_keepsPins | split | dsimp only

theorem wrCirc_keepsPins {s0 : State} {s : State} {r : ℕ} {k : ℕ} {v : Word} (h_s : KeepsPins s0 s) :
    KeepsPins s0 (wrCirc s r k v) := by
  unfold wrCirc
  repeat' first
    | with_reducible assumption | with_reducible apply setReg_keepsPins | with_reducible apply logMat_keepsPins | split
    | dsimp only

theorem wrCircPtr_keepsPins {s0 : State} {s : State} {m : Master} {r : ℕ} {k : ℕ} {tail : Bool} {v : Word} (h_s : KeepsPins s0 s) :
    KeepsPins s0 (wrCircPtr s m r k tail v) := by
  unfold wrCircPtr
  repeat' first
    | with_reducible assumption | with_reducible apply setF_keepsPins | with_reducible apply logMaster_keepsPins | split

theorem reencodeLine_keepsPins {s0 : State} {s : State} {cls : ℕ} {l : ℕ} (h_s : KeepsPins s0 s) :
    KeepsPins s0 (reencodeLine s cls l) := by
  unfold reencodeLine
  repeat' first
    | with_reducible assumption | with_reducible apply dropUpset_keepsPins | with_reducible apply poisonLine_keepsPins | split
    | dsimp only

theorem wrPclass_keepsPins {s0 : State} {s : State} {r : ℕ} {k : ℕ} {v : Word} (h_s : KeepsPins s0 s) :
    KeepsPins s0 (wrPclass s r k v) := by
  unfold wrPclass
  repeat' first
    | with_reducible assumption | with_reducible apply forRange_keeps | with_reducible apply setF_keepsPins
    | with_reducible apply reencodeLine_keepsPins | with_reducible apply logMat_keepsPins | intro _ | split | dsimp only

theorem wrChcfg_keepsPins {s0 : State} {s : State} {r : ℕ} {c : ℕ} {v : Word} (h_s : KeepsPins s0 s) :
    KeepsPins s0 (wrChcfg s r c v) := by
  unfold wrChcfg
  repeat' first
    | with_reducible assumption | with_reducible apply setReg_keepsPins | with_reducible apply logEv_keepsPins | intro _ | split
    | dsimp only

/-! ### Rng -/

theorem logRng_keepsPins {s0 : State} {s : State} {code : ℕ} {pay : ℕ} (h_s : KeepsPins s0 s) :
    KeepsPins s0 (logRng s code pay) := by
  unfold logRng
  repeat' first
    | with_reducible assumption | with_reducible apply logEv_keepsPins

theorem fillPool_keepsPins {s0 : State} {s : State} (h_s : KeepsPins s0 s) :
    KeepsPins s0 (fillPool s) := by
  unfold fillPool
  repeat' first
    | with_reducible assumption | with_reducible apply setF_keepsPins | split | dsimp only
    | with_reducible apply KeepsPins.pwrgood | with_reducible apply KeepsPins.resetN
    | with_reducible apply KeepsPins.testEn | with_reducible apply KeepsPins.domid
    | with_reducible apply KeepsPins.mbusSel | with_reducible apply KeepsPins.start
    | (refine KeepsPins.mk ?_ ?_ ?_ ?_ ?_ ?_ <;> dsimp only)

theorem waitPool_keepsPins {s0 : State} {s : State} (h_s : KeepsPins s0 s) :
    KeepsPins s0 (waitPool s) := by
  unfold waitPool
  repeat' first
    | with_reducible assumption | with_reducible apply fillPool_keepsPins | with_reducible apply advanceTo_keepsPins | split
    | dsimp only

theorem takePool_keepsPins {s0 : State} {s : State} (h_s : KeepsPins s0 s) :
    KeepsPins s0 ((takePool s).2) := by
  unfold takePool
  repeat' first
    | with_reducible assumption | with_reducible apply setF_keepsPins | intro _ | dsimp only
    | with_reducible apply KeepsPins.pwrgood | with_reducible apply KeepsPins.resetN
    | with_reducible apply KeepsPins.testEn | with_reducible apply KeepsPins.domid
    | with_reducible apply KeepsPins.mbusSel | with_reducible apply KeepsPins.start
    | (refine KeepsPins.mk ?_ ?_ ?_ ?_ ?_ ?_ <;> dsimp only)

theorem setDrbg_keepsPins {s0 : State} {s : State} {i : ℕ} {d : Drbg} (h_s : KeepsPins s0 s) :
    KeepsPins s0 (setDrbg s i d) := by
  unfold setDrbg
  repeat' first
    | with_reducible assumption | with_reducible apply setReg_keepsPins | dsimp only
    | with_reducible apply KeepsPins.pwrgood | with_reducible apply KeepsPins.resetN
    | with_reducible apply KeepsPins.testEn | with_reducible apply KeepsPins.domid
    | with_reducible apply KeepsPins.mbusSel | with_reducible apply KeepsPins.start
    | (refine KeepsPins.mk ?_ ?_ ?_ ?_ ?_ ?_ <;> dsimp only)

theorem instantiate_keepsPins {s0 : State} {s : State} {i : ℕ} (h_s : KeepsPins s0 s) :
    KeepsPins s0 (instantiate s i) := by
  unfold instantiate
  repeat' first
    | with_reducible assumption | with_reducible apply setDrbg_keepsPins | with_reducible apply takePool_keepsPins

theorem reseed_keepsPins {s0 : State} {s : State} {i : ℕ} (h_s : KeepsPins s0 s) :
    KeepsPins s0 (reseed s i) := by
  unfold reseed
  repeat' first
    | with_reducible assumption | with_reducible apply setDrbg_keepsPins | with_reducible apply bump_keepsPins
    | with_reducible apply takePool_keepsPins

theorem reseedDue_keepsPins {s0 : State} {s : State} {i : ℕ} (h_s : KeepsPins s0 s) :
    KeepsPins s0 (reseedDue s i) := by
  unfold reseedDue
  repeat' first
    | with_reducible assumption | with_reducible apply fillPool_keepsPins | with_reducible apply reseed_keepsPins | split
    | dsimp only

theorem drbgRequest_keepsPins {s0 : State} {s : State} {i : ℕ} {len : ℕ} (h_s : KeepsPins s0 s) :
    KeepsPins s0 ((drbgRequest s i len).2) := by
  unfold drbgRequest
  repeat' first
    | with_reducible assumption | with_reducible apply reseedDue_keepsPins | with_reducible apply setDrbg_keepsPins
    | with_reducible apply countNd_keepsPins | with_reducible apply bump_keepsPins | split | dsimp only

theorem drbgDraw_keepsPins {s0 : State} {s : State} {i : ℕ} {x2 : ℕ} {x3 : ℕ} (h_s : KeepsPins s0 s) :
    KeepsPins s0 ((drbgDraw s i x2 x3).2) := by
  revert h_s
  fun_induction drbgDraw s i x2 x3
  all_goals
    try rename_i ih
    intro h_s
    repeat' first
      | with_reducible assumption | with_reducible apply ih | with_reducible apply drbgRequest_keepsPins

theorem logDraw_keepsPins {s0 : State} {s : State} {i : ℕ} {x2 : Draw} (h_s : KeepsPins s0 s) :
    KeepsPins s0 (logDraw s i x2) := by
  unfold logDraw
  repeat' first
    | with_reducible assumption | with_reducible apply logEv_keepsPins | split

theorem seedAll_keepsPins {s0 : State} {s : State} {wait : Bool} (h_s : KeepsPins s0 s) :
    KeepsPins s0 (seedAll s wait) := by
  unfold seedAll
  repeat' first
    | with_reducible assumption | with_reducible apply forRange_keeps | with_reducible apply fillPool_keepsPins
    | with_reducible apply instantiate_keepsPins | with_reducible apply reseed_keepsPins | with_reducible apply waitPool_keepsPins
    | intro _ | split | dsimp only

theorem sourceGood_keepsPins {s0 : State} {s : State} (h_s : KeepsPins s0 s) :
    KeepsPins s0 (sourceGood s) := by
  unfold sourceGood
  repeat' first
    | with_reducible assumption | with_reducible apply setF_keepsPins | with_reducible apply setB_keepsPins | dsimp only
    | with_reducible apply KeepsPins.pwrgood | with_reducible apply KeepsPins.resetN
    | with_reducible apply KeepsPins.testEn | with_reducible apply KeepsPins.domid
    | with_reducible apply KeepsPins.mbusSel | with_reducible apply KeepsPins.start
    | (refine KeepsPins.mk ?_ ?_ ?_ ?_ ?_ ?_ <;> dsimp only)

theorem sourceBad_keepsPins {s0 : State} {s : State} (h_s : KeepsPins s0 s) :
    KeepsPins s0 (sourceBad s) := by
  unfold sourceBad
  repeat' first
    | with_reducible assumption | with_reducible apply setF_keepsPins | with_reducible apply setB_keepsPins
    | with_reducible apply fillPool_keepsPins | with_reducible apply logRng_keepsPins | split | dsimp only
    | with_reducible apply KeepsPins.pwrgood | with_reducible apply KeepsPins.resetN
    | with_reducible apply KeepsPins.testEn | with_reducible apply KeepsPins.domid
    | with_reducible apply KeepsPins.mbusSel | with_reducible apply KeepsPins.start
    | (refine KeepsPins.mk ?_ ?_ ?_ ?_ ?_ ?_ <;> dsimp only)

theorem startTest_keepsPins {s0 : State} {s : State} {x1 : List Bool} (h_s : KeepsPins s0 s) :
    KeepsPins s0 (startTest s x1) := by
  revert h_s
  fun_induction startTest s x1
  all_goals
    try rename_i ih
    intro h_s
    repeat' first
      | with_reducible assumption | with_reducible apply ih | with_reducible apply sourceGood_keepsPins
      | with_reducible apply sourceBad_keepsPins

theorem healthFail_keepsPins {s0 : State} {s : State} {apt : Bool} {rerun : Bool} (h_s : KeepsPins s0 s) :
    KeepsPins s0 (healthFail s apt rerun) := by
  unfold healthFail
  repeat' first
    | with_reducible assumption | with_reducible apply sourceBad_keepsPins | with_reducible apply setB_keepsPins
    | with_reducible apply logRng_keepsPins | with_reducible apply bump_keepsPins | with_reducible apply sourceGood_keepsPins | split
    | dsimp only

theorem recovered_keepsPins {s0 : State} {s : State} (h_s : KeepsPins s0 s) :
    KeepsPins s0 (recovered s) := by
  unfold recovered
  repeat' first
    | with_reducible assumption | with_reducible apply seedAll_keepsPins | with_reducible apply sourceGood_keepsPins
    | with_reducible apply logRng_keepsPins | split

theorem rngRetry_keepsPins {s0 : State} {s : State} {pass : Bool} (h_s : KeepsPins s0 s) :
    KeepsPins s0 (rngRetry s pass) := by
  unfold rngRetry
  repeat' first
    | with_reducible assumption | with_reducible apply sourceBad_keepsPins | with_reducible apply setF_keepsPins
    | with_reducible apply setB_keepsPins | with_reducible apply seedAll_keepsPins | with_reducible apply sourceGood_keepsPins
    | split

/-! ### Errors -/

theorem stopFrond_keepsPins {s0 : State} {s : State} {f : Frond} {st : Status} (h_s : KeepsPins s0 s) :
    KeepsPins s0 (stopFrond s f st) := by
  unfold stopFrond
  repeat' first
    | with_reducible assumption | with_reducible apply putFrond_keepsPins | with_reducible apply unpend_keepsPins

theorem stopInFlight_keepsPins {s0 : State} {s : State} {here : ℕ → Bool} (h_s : KeepsPins s0 s) :
    KeepsPins s0 (stopInFlight s here) := by
  unfold stopInFlight
  repeat' first
    | with_reducible assumption | with_reducible apply foldl_keeps | with_reducible apply stopFrond_keepsPins | intro _

theorem stopPorts_keepsPins {s0 : State} {s : State} (h_s : KeepsPins s0 s) :
    KeepsPins s0 (stopPorts s) := by
  unfold stopPorts
  repeat' first
    | with_reducible assumption | with_reducible apply forRange_keeps | with_reducible apply setB_keepsPins | intro _

theorem declareSelf_keepsPins {s0 : State} {s : State} (h_s : KeepsPins s0 s) :
    KeepsPins s0 (declareSelf s) := by
  unfold declareSelf
  repeat' first
    | with_reducible assumption | with_reducible apply stopPorts_keepsPins | with_reducible apply logChip_keepsPins
    | with_reducible apply sendAll_keepsPins

theorem moduleFault_keepsPins {s0 : State} {s : State} {cause : ℕ} (h_s : KeepsPins s0 s) :
    KeepsPins s0 (moduleFault s cause) := by
  unfold moduleFault
  repeat' first
    | with_reducible assumption | with_reducible apply stopInFlight_keepsPins | with_reducible apply logChip_keepsPins
    | with_reducible apply declareSelf_keepsPins | intro _ | split | dsimp only | with_reducible apply KeepsPins.pwrgood
    | with_reducible apply KeepsPins.resetN | with_reducible apply KeepsPins.testEn
    | with_reducible apply KeepsPins.domid | with_reducible apply KeepsPins.mbusSel
    | with_reducible apply KeepsPins.start | (refine KeepsPins.mk ?_ ?_ ?_ ?_ ?_ ?_ <;> dsimp only)

theorem faultDecoded_keepsPins {s0 : State} {s : State} {r : ℕ} (h_s : KeepsPins s0 s) :
    KeepsPins s0 (faultDecoded s r) := by
  unfold faultDecoded
  repeat' first
    | with_reducible assumption | intro _ | split | dsimp only | with_reducible apply KeepsPins.pwrgood
    | with_reducible apply KeepsPins.resetN | with_reducible apply KeepsPins.testEn
    | with_reducible apply KeepsPins.domid | with_reducible apply KeepsPins.mbusSel
    | with_reducible apply KeepsPins.start | (refine KeepsPins.mk ?_ ?_ ?_ ?_ ?_ ?_ <;> dsimp only)

theorem regionFault_keepsPins {s0 : State} {s : State} {r : ℕ} {cause : ℕ} (h_s : KeepsPins s0 s) :
    KeepsPins s0 (regionFault s r cause) := by
  unfold regionFault
  repeat' first
    | with_reducible assumption | with_reducible apply faultDecoded_keepsPins | with_reducible apply stopInFlight_keepsPins
    | with_reducible apply logQueue_keepsPins | with_reducible apply moduleFault_keepsPins | split | dsimp only
    | with_reducible apply KeepsPins.pwrgood | with_reducible apply KeepsPins.resetN
    | with_reducible apply KeepsPins.testEn | with_reducible apply KeepsPins.domid
    | with_reducible apply KeepsPins.mbusSel | with_reducible apply KeepsPins.start
    | (refine KeepsPins.mk ?_ ?_ ?_ ?_ ?_ ?_ <;> dsimp only)

theorem cellReplayAt_keepsPins {s0 : State} {s : State} {f : Frond} {e : ℕ} {cell : ℕ} (h_s : KeepsPins s0 s) :
    KeepsPins s0 (cellReplayAt s f e cell) := by
  unfold cellReplayAt
  repeat' first
    | with_reducible assumption | with_reducible apply putFrond_keepsPins | with_reducible apply logUnit_keepsPins
    | with_reducible apply bump_keepsPins | with_reducible apply countNd_keepsPins | split

theorem countCellFault_keepsPins {s0 : State} {s : State} {e : ℕ} {cell : ℕ} (h_s : KeepsPins s0 s) :
    KeepsPins s0 (countCellFault s e cell) := by
  unfold countCellFault
  repeat' first
    | with_reducible assumption | with_reducible apply regionFault_keepsPins | intro _ | split | dsimp only
    | with_reducible apply KeepsPins.pwrgood | with_reducible apply KeepsPins.resetN
    | with_reducible apply KeepsPins.testEn | with_reducible apply KeepsPins.domid
    | with_reducible apply KeepsPins.mbusSel | with_reducible apply KeepsPins.start
    | (refine KeepsPins.mk ?_ ?_ ?_ ?_ ?_ ?_ <;> dsimp only)

theorem cellFaultAt_keepsPins {s0 : State} {s : State} {f : Frond} {e : ℕ} {cell : ℕ} (h_s : KeepsPins s0 s) :
    KeepsPins s0 (cellFaultAt s f e cell) := by
  unfold cellFaultAt
  repeat' first
    | with_reducible assumption | with_reducible apply countCellFault_keepsPins | with_reducible apply stopFrond_keepsPins
    | with_reducible apply logUnit_keepsPins

theorem cellReplay_keepsPins {s0 : State} {s : State} {x : FrondRef} {u : UnitSel} {cell : Fin 8} (h_s : KeepsPins s0 s) :
    KeepsPins s0 (cellReplay s x u cell) := by
  unfold cellReplay
  repeat' first
    | with_reducible assumption | with_reducible apply cellReplayAt_keepsPins | split

theorem cellFault_keepsPins {s0 : State} {s : State} {x : FrondRef} {u : UnitSel} {cell : Fin 8} (h_s : KeepsPins s0 s) :
    KeepsPins s0 (cellFault s x u cell) := by
  unfold cellFault
  repeat' first
    | with_reducible assumption | with_reducible apply cellFaultAt_keepsPins | split

theorem blockFault_keepsPins {s0 : State} {s : State} {x : FrondRef} (h_s : KeepsPins s0 s) :
    KeepsPins s0 (blockFault s x) := by
  unfold blockFault
  repeat' first
    | with_reducible assumption | with_reducible apply stopFrond_keepsPins | with_reducible apply logUnit_keepsPins | split

theorem periParity_keepsPins {s0 : State} {s : State} {x : FrondRef} (h_s : KeepsPins s0 s) :
    KeepsPins s0 (periParity s x) := by
  unfold periParity
  repeat' first
    | with_reducible assumption | with_reducible apply putFrond_keepsPins | with_reducible apply countNd_keepsPins
    | with_reducible apply bump_keepsPins | with_reducible apply logUnit_keepsPins | with_reducible apply stopFrond_keepsPins | split
    | dsimp only

theorem sporeReplay_keepsPins {s0 : State} {s : State} {x : FrondRef} {cell : Fin 8} (h_s : KeepsPins s0 s) :
    KeepsPins s0 (sporeReplay s x cell) := by
  unfold sporeReplay
  repeat' first
    | with_reducible assumption | with_reducible apply cellReplayAt_keepsPins | split

theorem bridgeReplay_keepsPins {s0 : State} {s : State} {d : ℕ} (h_s : KeepsPins s0 s) :
    KeepsPins s0 (bridgeReplay s d) := by
  unfold bridgeReplay
  repeat' first
    | with_reducible assumption | with_reducible apply countNd_keepsPins | with_reducible apply moduleFault_keepsPins
    | with_reducible apply logEv_keepsPins | intro _ | split | dsimp only | with_reducible apply KeepsPins.pwrgood
    | with_reducible apply KeepsPins.resetN | with_reducible apply KeepsPins.testEn
    | with_reducible apply KeepsPins.domid | with_reducible apply KeepsPins.mbusSel
    | with_reducible apply KeepsPins.start | (refine KeepsPins.mk ?_ ?_ ?_ ?_ ?_ ?_ <;> dsimp only)

/-! ### Coll -/

theorem dropClash_keepsPins {s0 : State} {c : Coll} {s : State} (h_s : KeepsPins s0 s) :
    KeepsPins s0 (dropClash c s) := by
  unfold dropClash
  repeat' first
    | with_reducible assumption | intro _ | dsimp only | with_reducible apply KeepsPins.pwrgood
    | with_reducible apply KeepsPins.resetN | with_reducible apply KeepsPins.testEn
    | with_reducible apply KeepsPins.domid | with_reducible apply KeepsPins.mbusSel
    | with_reducible apply KeepsPins.start | (refine KeepsPins.mk ?_ ?_ ?_ ?_ ?_ ?_ <;> dsimp only)

theorem resendStep_keepsPins {s0 : State} {s : State} {f : Frond} {dest : ℕ} (h_s : KeepsPins s0 s) :
    KeepsPins s0 (resendStep s f dest) := by
  unfold resendStep
  repeat' first
    | with_reducible assumption | with_reducible apply foldl_keeps | with_reducible apply inject_keepsPins | intro _
    | split

theorem landBytes_keepsPins {s0 : State} {s : State} {f : Frond} {off : ℕ} {d : List Byte} {poison : Bool} (h_s : KeepsPins s0 s) :
    KeepsPins s0 (landBytes s f off d poison) := by
  unfold landBytes
  repeat' first
    | with_reducible assumption | with_reducible apply putFrond_keepsPins | with_reducible apply putBytes_keepsPins

theorem ghostWrite_keepsPins {s0 : State} {s : State} {c : Coll} (h_s : KeepsPins s0 s) :
    (∀ y0, ghostWrite s c = some y0 → KeepsPins s0 y0) := by
  unfold ghostWrite
  intro y hy
  dsimp only at hy
  split at hy
  · cases hy
  · cases hy; exact landBytes_keepsPins h_s

theorem keepGhost_keepsPins {s0 : State} {s : State} {c : Coll} (h_s : KeepsPins s0 s) :
    KeepsPins s0 (keepGhost s c) := by
  unfold keepGhost
  repeat' first
    | with_reducible assumption | dsimp only | with_reducible apply KeepsPins.pwrgood
    | with_reducible apply KeepsPins.resetN | with_reducible apply KeepsPins.testEn
    | with_reducible apply KeepsPins.domid | with_reducible apply KeepsPins.mbusSel
    | with_reducible apply KeepsPins.start | (refine KeepsPins.mk ?_ ?_ ?_ ?_ ?_ ?_ <;> dsimp only)

theorem runGhost_keepsPins {s0 : State} {s : State} {c : Coll} {x2 : ℕ} (h_s : KeepsPins s0 s) :
    KeepsPins s0 (runGhost s c x2) := by
  revert h_s
  fun_induction runGhost s c x2
  all_goals
    try rename_i ih
    intro h_s
    repeat' first
      | with_reducible assumption | with_reducible apply ih | with_reducible apply keepGhost_keepsPins
      | with_reducible apply foldl_keeps | with_reducible apply inject_keepsPins | with_reducible apply getD_keeps
      | exact ghostWrite_keepsPins ‹_› _ ‹_› | intro _ | split | dsimp only | dsimp +zetaDelta only
      | with_reducible apply KeepsPins.pwrgood | with_reducible apply KeepsPins.resetN
      | with_reducible apply KeepsPins.testEn | with_reducible apply KeepsPins.domid
      | with_reducible apply KeepsPins.mbusSel | with_reducible apply KeepsPins.start
      | (refine KeepsPins.mk ?_ ?_ ?_ ?_ ?_ ?_ <;> dsimp only)

theorem runGhosts_keepsPins {s0 : State} {s : State} (h_s : KeepsPins s0 s) :
    KeepsPins s0 (runGhosts s) := by
  unfold runGhosts
  repeat' first
    | with_reducible assumption | with_reducible apply foldl_keeps | with_reducible apply runGhost_keepsPins | intro _
    | dsimp only | exact rfl | with_reducible apply KeepsPins.pwrgood | with_reducible apply KeepsPins.resetN
    | with_reducible apply KeepsPins.testEn | with_reducible apply KeepsPins.domid
    | with_reducible apply KeepsPins.mbusSel | with_reducible apply KeepsPins.start
    | (refine KeepsPins.mk ?_ ?_ ?_ ?_ ?_ ?_ <;> dsimp only)

theorem startGhost_keepsPins {s0 : State} {s : State} {c : Coll} (h_s : KeepsPins s0 s) :
    KeepsPins s0 (startGhost s c) := by
  unfold startGhost
  repeat' first
    | with_reducible assumption | intro _ | split | dsimp only | with_reducible apply KeepsPins.pwrgood
    | with_reducible apply KeepsPins.resetN | with_reducible apply KeepsPins.testEn
    | with_reducible apply KeepsPins.domid | with_reducible apply KeepsPins.mbusSel
    | with_reducible apply KeepsPins.start | (refine KeepsPins.mk ?_ ?_ ?_ ?_ ?_ ?_ <;> dsimp only)

theorem ghostFor_keepsPins {s0 : State} {s : State} {c : Coll} (h_s : KeepsPins s0 s) :
    KeepsPins s0 (ghostFor s c) := by
  unfold ghostFor
  repeat' first
    | with_reducible assumption | with_reducible apply startGhost_keepsPins | split

theorem ghostFrom_keepsPins {s0 : State} {s : State} {k : Packet} (h_s : KeepsPins s0 s) :
    KeepsPins s0 (ghostFrom s k) := by
  unfold ghostFrom
  repeat' first
    | with_reducible assumption | with_reducible apply startGhost_keepsPins | intro _ | split

/-! ### Maint -/

theorem logMaint_keepsPins {s0 : State} {s : State} {code : ℕ} {pay : ℕ} (h_s : KeepsPins s0 s) :
    KeepsPins s0 (logMaint s code pay) := by
  unfold logMaint
  repeat' first
    | with_reducible assumption | with_reducible apply logEv_keepsPins

theorem maintStat_keepsPins {s0 : State} {s : State} (h_s : KeepsPins s0 s) :
    KeepsPins s0 (maintStat s) := by
  unfold maintStat
  repeat' first
    | with_reducible assumption | with_reducible apply setReg_keepsPins

theorem scrubSector_keepsPins {s0 : State} {s : State} {h : ℕ} (h_s : KeepsPins s0 s) :
    KeepsPins s0 ((scrubSector s h).1) := by
  unfold scrubSector
  repeat' first
    | with_reducible assumption | with_reducible apply readHbm_keepsPins | with_reducible apply takeFree_keepsPins
    | with_reducible apply dropUpset_keepsPins | split | dsimp only

theorem logPass_keepsPins {s0 : State} {s : State} {tower : ℕ} {fixed : ℕ} {bad : ℕ} (h_s : KeepsPins s0 s) :
    KeepsPins s0 (logPass s tower fixed bad) := by
  unfold logPass
  repeat' first
    | with_reducible assumption | with_reducible apply logMaint_keepsPins

theorem scrubGranule_keepsPins {s0 : State} {s : State} {t : ℕ} {g : ℕ} (h_s : KeepsPins s0 s) :
    KeepsPins s0 (scrubGranule s t g) := by
  unfold scrubGranule
  repeat' first
    | with_reducible assumption | with_reducible apply forRange_keeps | with_reducible apply scrubSector_keepsPins
    | intro _ | dsimp only | with_reducible apply KeepsPins.pwrgood | with_reducible apply KeepsPins.resetN
    | with_reducible apply KeepsPins.testEn | with_reducible apply KeepsPins.domid
    | with_reducible apply KeepsPins.mbusSel | with_reducible apply KeepsPins.start
    | (refine KeepsPins.mk ?_ ?_ ?_ ?_ ?_ ?_ <;> dsimp only)

theorem scrubRun_keepsPins {s0 : State} {s : State} {t : ℕ} {g : ℕ} (h_s : KeepsPins s0 s) :
    KeepsPins s0 (scrubRun s t g) := by
  unfold scrubRun
  repeat' first
    | with_reducible assumption | with_reducible apply forRange_keeps | with_reducible apply scrubGranule_keepsPins
    | intro _

theorem endPass_keepsPins {s0 : State} {s : State} {t : ℕ} (h_s : KeepsPins s0 s) :
    KeepsPins s0 (endPass s t) := by
  unfold endPass
  repeat' first
    | with_reducible assumption | with_reducible apply setF_keepsPins | dsimp only | with_reducible apply KeepsPins.pwrgood
    | with_reducible apply KeepsPins.resetN | with_reducible apply KeepsPins.testEn
    | with_reducible apply KeepsPins.domid | with_reducible apply KeepsPins.mbusSel
    | with_reducible apply KeepsPins.start | (refine KeepsPins.mk ?_ ?_ ?_ ?_ ?_ ?_ <;> dsimp only)

theorem scrubStepOf_keepsPins {s0 : State} {s : State} {t : ℕ} (h_s : KeepsPins s0 s) :
    KeepsPins s0 (scrubStepOf s t) := by
  unfold scrubStepOf
  repeat' first
    | with_reducible assumption | with_reducible apply endPass_keepsPins | with_reducible apply logPass_keepsPins
    | with_reducible apply scrubRun_keepsPins | with_reducible apply setF_keepsPins | split | dsimp only

theorem drainFrom_keepsPins {s0 : State} {s : State} {x1 : ℕ} (h_s : KeepsPins s0 s) :
    KeepsPins s0 (drainFrom s x1) := by
  revert h_s
  fun_induction drainFrom s x1
  all_goals
    try rename_i ih
    intro h_s
    repeat' first
      | with_reducible assumption | with_reducible apply ih | with_reducible apply logMaint_keepsPins
      | with_reducible apply setF_keepsPins | with_reducible apply putBytes_keepsPins | split | dsimp only
      | dsimp +zetaDelta only | with_reducible apply KeepsPins.pwrgood | with_reducible apply KeepsPins.resetN
      | with_reducible apply KeepsPins.testEn | with_reducible apply KeepsPins.domid
      | with_reducible apply KeepsPins.mbusSel | with_reducible apply KeepsPins.start
      | (refine KeepsPins.mk ?_ ?_ ?_ ?_ ?_ ?_ <;> dsimp only)

theorem degradeFronds_keepsPins {s0 : State} {s : State} (h_s : KeepsPins s0 s) :
    KeepsPins s0 (degradeFronds s) := by
  unfold degradeFronds
  repeat' first
    | with_reducible assumption | intro _ | split | dsimp only | with_reducible apply KeepsPins.pwrgood
    | with_reducible apply KeepsPins.resetN | with_reducible apply KeepsPins.testEn
    | with_reducible apply KeepsPins.domid | with_reducible apply KeepsPins.mbusSel
    | with_reducible apply KeepsPins.start | (refine KeepsPins.mk ?_ ?_ ?_ ?_ ?_ ?_ <;> dsimp only)

theorem takePortDown_keepsPins {s0 : State} {s : State} {p : ℕ} (h_s : KeepsPins s0 s) :
    KeepsPins s0 (takePortDown s p) := by
  unfold takePortDown
  repeat' first
    | with_reducible assumption | with_reducible apply setLinkPort_keepsPins | with_reducible apply degradeFronds_keepsPins
    | with_reducible apply logLink_keepsPins | with_reducible apply setB_keepsPins | with_reducible apply foldl_keeps
    | with_reducible apply sendOn_keepsPins | intro _ | split | dsimp only

theorem beginAct_keepsPins {s0 : State} {s : State} {q : MaintReq} (h_s : KeepsPins s0 s) :
    KeepsPins s0 (beginAct s q) := by
  unfold beginAct
  repeat' first
    | with_reducible assumption | with_reducible apply scrubStepOf_keepsPins | with_reducible apply setB_keepsPins
    | with_reducible apply setLinkPort_keepsPins | with_reducible apply takePortDown_keepsPins
    | with_reducible apply drainFrom_keepsPins | split

theorem startAct_keepsPins {s0 : State} {s : State} {q : MaintReq} (h_s : KeepsPins s0 s) :
    KeepsPins s0 (startAct s q) := by
  unfold startAct
  repeat' first
    | with_reducible assumption | with_reducible apply beginAct_keepsPins | with_reducible apply logMaint_keepsPins | dsimp only
    | with_reducible apply KeepsPins.pwrgood | with_reducible apply KeepsPins.resetN
    | with_reducible apply KeepsPins.testEn | with_reducible apply KeepsPins.domid
    | with_reducible apply KeepsPins.mbusSel | with_reducible apply KeepsPins.start
    | (refine KeepsPins.mk ?_ ?_ ?_ ?_ ?_ ?_ <;> dsimp only)

theorem requestAct_keepsPins {s0 : State} {s : State} {act : Activity} {scope : ℕ} {frond : Option (ℕ × ℕ × ℕ)} (h_s : KeepsPins s0 s) :
    KeepsPins s0 (requestAct s act scope frond) := by
  unfold requestAct
  repeat' first
    | with_reducible assumption | with_reducible apply maintStat_keepsPins | with_reducible apply startAct_keepsPins
    | with_reducible apply logMaint_keepsPins | intro _ | split | dsimp only | with_reducible apply KeepsPins.pwrgood
    | with_reducible apply KeepsPins.resetN | with_reducible apply KeepsPins.testEn
    | with_reducible apply KeepsPins.domid | with_reducible apply KeepsPins.mbusSel
    | with_reducible apply KeepsPins.start | (refine KeepsPins.mk ?_ ?_ ?_ ?_ ?_ ?_ <;> dsimp only)

theorem startNext_keepsPins {s0 : State} {s : State} (h_s : KeepsPins s0 s) :
    KeepsPins s0 (startNext s) := by
  unfold startNext
  repeat' first
    | with_reducible assumption | with_reducible apply maintStat_keepsPins | with_reducible apply startAct_keepsPins | intro _
    | split | dsimp only | with_reducible apply KeepsPins.pwrgood | with_reducible apply KeepsPins.resetN
    | with_reducible apply KeepsPins.testEn | with_reducible apply KeepsPins.domid
    | with_reducible apply KeepsPins.mbusSel | with_reducible apply KeepsPins.start
    | (refine KeepsPins.mk ?_ ?_ ?_ ?_ ?_ ?_ <;> dsimp only)

theorem endAct_keepsPins {s0 : State} {s : State} {act : Activity} {scope : ℕ} {lost : Bool} (h_s : KeepsPins s0 s) :
    KeepsPins s0 (endAct s act scope lost) := by
  unfold endAct
  repeat' first
    | with_reducible assumption | with_reducible apply maintStat_keepsPins | with_reducible apply logMaint_keepsPins | intro _
    | split | dsimp only | with_reducible apply KeepsPins.pwrgood | with_reducible apply KeepsPins.resetN
    | with_reducible apply KeepsPins.testEn | with_reducible apply KeepsPins.domid
    | with_reducible apply KeepsPins.mbusSel | with_reducible apply KeepsPins.start
    | (refine KeepsPins.mk ?_ ?_ ?_ ?_ ?_ ?_ <;> dsimp only)

theorem logTherm_keepsPins {s0 : State} {s : State} {die : ℕ} {corr : BitVec 16} (h_s : KeepsPins s0 s) :
    KeepsPins s0 (logTherm s die corr) := by
  unfold logTherm
  repeat' first
    | with_reducible assumption | with_reducible apply logMaint_keepsPins

theorem maintDone_keepsPins {s0 : State} {s : State} {act : Activity} {scope : ℕ} {corr : BitVec 16} (h_s : KeepsPins s0 s) :
    KeepsPins s0 (maintDone s act scope corr) := by
  unfold maintDone
  repeat' first
    | with_reducible assumption | with_reducible apply endAct_keepsPins | with_reducible apply logTherm_keepsPins | intro _
    | split

theorem ringWrite_keepsPins {s0 : State} {s : State} {e : LogEntry} (h_s : KeepsPins s0 s) :
    KeepsPins s0 (ringWrite s e) := by
  unfold ringWrite
  repeat' first
    | with_reducible assumption | with_reducible apply setF_keepsPins | with_reducible apply bump32_keepsPins | split
    | dsimp only | with_reducible apply KeepsPins.pwrgood | with_reducible apply KeepsPins.resetN
    | with_reducible apply KeepsPins.testEn | with_reducible apply KeepsPins.domid
    | with_reducible apply KeepsPins.mbusSel | with_reducible apply KeepsPins.start
    | (refine KeepsPins.mk ?_ ?_ ?_ ?_ ?_ ?_ <;> dsimp only)

theorem logIrq_keepsPins {s0 : State} {s : State} {e : LogEntry} (h_s : KeepsPins s0 s) :
    KeepsPins s0 (logIrq s e) := by
  unfold logIrq
  repeat' first
    | with_reducible assumption | with_reducible apply raiseIrq_keepsPins | with_reducible apply setB_keepsPins | split
    | dsimp only

theorem ringEnter_keepsPins {s0 : State} {s : State} (h_s : KeepsPins s0 s) :
    KeepsPins s0 (ringEnter s) := by
  unfold ringEnter
  repeat' first
    | with_reducible assumption | with_reducible apply logIrq_keepsPins | with_reducible apply ringWrite_keepsPins
    | with_reducible apply advanceTo_keepsPins | with_reducible apply requestAct_keepsPins | split | dsimp only | exact rfl
    | with_reducible apply KeepsPins.pwrgood | with_reducible apply KeepsPins.resetN
    | with_reducible apply KeepsPins.testEn | with_reducible apply KeepsPins.domid
    | with_reducible apply KeepsPins.mbusSel | with_reducible apply KeepsPins.start
    | (refine KeepsPins.mk ?_ ?_ ?_ ?_ ?_ ?_ <;> dsimp only)

theorem wrRdSel_keepsPins {s0 : State} {s : State} {v : Word} (h_s : KeepsPins s0 s) :
    KeepsPins s0 (wrRdSel s v) := by
  unfold wrRdSel
  repeat' first
    | with_reducible assumption | with_reducible apply forRange_keeps | with_reducible apply setReg_keepsPins | intro _

theorem wrLogTail_keepsPins {s0 : State} {s : State} {v : Word} (h_s : KeepsPins s0 s) :
    KeepsPins s0 (wrLogTail s v) := by
  unfold wrLogTail
  repeat' first
    | with_reducible assumption | with_reducible apply setF_keepsPins

theorem wrDrainTail_keepsPins {s0 : State} {s : State} {v : Word} (h_s : KeepsPins s0 s) :
    KeepsPins s0 (wrDrainTail s v) := by
  unfold wrDrainTail
  repeat' first
    | with_reducible assumption | with_reducible apply setF_keepsPins | split | dsimp only
    | with_reducible apply KeepsPins.pwrgood | with_reducible apply KeepsPins.resetN
    | with_reducible apply KeepsPins.testEn | with_reducible apply KeepsPins.domid
    | with_reducible apply KeepsPins.mbusSel | with_reducible apply KeepsPins.start
    | (refine KeepsPins.mk ?_ ?_ ?_ ?_ ?_ ?_ <;> dsimp only)

theorem wrMaintReq_keepsPins {s0 : State} {s : State} {act : ℕ} {scope : ℕ} (h_s : KeepsPins s0 s) :
    KeepsPins s0 (wrMaintReq s act scope) := by
  unfold wrMaintReq
  repeat' first
    | with_reducible assumption | with_reducible apply requestAct_keepsPins | split

/-! ### KeySet -/

theorem logKset_keepsPins {s0 : State} {s : State} {code : ℕ} {r : ℕ} {k : ℕ} {reason : ℕ} (h_s : KeepsPins s0 s) :
    KeepsPins s0 (logKset s code r k reason) := by
  unfold logKset
  repeat' first
    | with_reducible assumption | with_reducible apply logEv_keepsPins

theorem ksetGo_keepsPins {s0 : State} {s : State} {r : ℕ} {k : ℕ} (h_s : KeepsPins s0 s) :
    KeepsPins s0 (ksetGo s r k) := by
  unfold ksetGo
  repeat' first
    | with_reducible assumption | with_reducible apply setB_keepsPins | with_reducible apply logKset_keepsPins | split

theorem ksetDone_keepsPins {s0 : State} {s : State} {r : ℕ} {k : ℕ} (h_s : KeepsPins s0 s) :
    KeepsPins s0 (ksetDone s r k) := by
  unfold ksetDone
  repeat' first
    | with_reducible assumption | with_reducible apply logKset_keepsPins | with_reducible apply setReg_keepsPins
    | with_reducible apply setF_keepsPins | with_reducible apply setB_keepsPins | with_reducible apply noteSpan_keepsPins | split
    | dsimp only

theorem ksetClear_keepsPins {s0 : State} {s : State} {r : ℕ} {k : ℕ} (h_s : KeepsPins s0 s) :
    KeepsPins s0 (ksetClear s r k) := by
  unfold ksetClear
  repeat' first
    | with_reducible assumption | with_reducible apply setReg_keepsPins | with_reducible apply setF_keepsPins
    | with_reducible apply setB_keepsPins | with_reducible apply logKset_keepsPins | intro _ | split

theorem wrKsetBase_keepsPins {s0 : State} {s : State} {r : ℕ} {k : ℕ} {v : Word} (h_s : KeepsPins s0 s) :
    KeepsPins s0 (wrKsetBase s r k v) := by
  unfold wrKsetBase
  repeat' first
    | with_reducible assumption | with_reducible apply setF_keepsPins | with_reducible apply logEv_keepsPins | split

/-! ### Tower -/

theorem logTow_keepsPins {s0 : State} {s : State} {code : ℕ} {t : ℕ} (h_s : KeepsPins s0 s) :
    KeepsPins s0 (logTow s code t) := by
  unfold logTow
  repeat' first
    | with_reducible assumption | with_reducible apply logEv_keepsPins

theorem logTowReg_keepsPins {s0 : State} {s : State} {code : ℕ} {t : ℕ} {o : ℕ} (h_s : KeepsPins s0 s) :
    KeepsPins s0 (logTowReg s code t o) := by
  unfold logTowReg
  repeat' first
    | with_reducible assumption | with_reducible apply logEv_keepsPins

theorem refresh_keepsPins {s0 : State} {s : State} {t : ℕ} {b : Word} {hits : List FrondRef} (h_s : KeepsPins s0 s) :
    KeepsPins s0 (refresh s t b hits) := by
  unfold refresh
  repeat' first
    | with_reducible assumption | with_reducible apply foldl_keeps | with_reducible apply putFrond_keepsPins
    | with_reducible apply bump_keepsPins | with_reducible apply advanceTo_keepsPins | intro _ | split

theorem setRate_keepsPins {s0 : State} {s : State} {t : ℕ} {twice : Bool} (h_s : KeepsPins s0 s) :
    KeepsPins s0 (setRate s t twice) := by
  unfold setRate
  repeat' first
    | with_reducible assumption | with_reducible apply logTow_keepsPins | with_reducible apply setF_keepsPins
    | with_reducible apply setB_keepsPins | split

theorem tempSample_keepsPins {s0 : State} {s : State} {t : ℕ} {temp : ℕ} (h_s : KeepsPins s0 s) :
    KeepsPins s0 (tempSample s t temp) := by
  unfold tempSample
  repeat' first
    | with_reducible assumption | with_reducible apply setF_keepsPins | with_reducible apply setRate_keepsPins | split
    | dsimp only

theorem wrRfsh_keepsPins {s0 : State} {s : State} {t : ℕ} {v : Word} (h_s : KeepsPins s0 s) :
    KeepsPins s0 (wrRfsh s t v) := by
  unfold wrRfsh
  repeat' first
    | with_reducible assumption | with_reducible apply setF_keepsPins | with_reducible apply setRate_keepsPins
    | with_reducible apply logTowReg_keepsPins | split | dsimp only

theorem endQuiesce_keepsPins {s0 : State} {s : State} {t : ℕ} (h_s : KeepsPins s0 s) :
    KeepsPins s0 (endQuiesce s t) := by
  unfold endQuiesce
  repeat' first
    | with_reducible assumption | with_reducible apply releaseAccesses_keepsPins | with_reducible apply setB_keepsPins | intro _
    | dsimp only | with_reducible apply KeepsPins.pwrgood | with_reducible apply KeepsPins.resetN
    | with_reducible apply KeepsPins.testEn | with_reducible apply KeepsPins.domid
    | with_reducible apply KeepsPins.mbusSel | with_reducible apply KeepsPins.start
    | (refine KeepsPins.mk ?_ ?_ ?_ ?_ ?_ ?_ <;> dsimp only)

theorem wrQuiesce_keepsPins {s0 : State} {s : State} {t : ℕ} {v : Word} (h_s : KeepsPins s0 s) :
    KeepsPins s0 (wrQuiesce s t v) := by
  unfold wrQuiesce
  repeat' first
    | with_reducible assumption | with_reducible apply logTowReg_keepsPins | with_reducible apply endQuiesce_keepsPins
    | with_reducible apply setB_keepsPins | split | dsimp only | with_reducible apply KeepsPins.pwrgood
    | with_reducible apply KeepsPins.resetN | with_reducible apply KeepsPins.testEn
    | with_reducible apply KeepsPins.domid | with_reducible apply KeepsPins.mbusSel
    | with_reducible apply KeepsPins.start | (refine KeepsPins.mk ?_ ?_ ?_ ?_ ?_ ?_ <;> dsimp only)

theorem towerIdle_keepsPins {s0 : State} {s : State} {t : ℕ} (h_s : KeepsPins s0 s) :
    KeepsPins s0 (towerIdle s t) := by
  unfold towerIdle
  repeat' first
    | with_reducible assumption | with_reducible apply setB_keepsPins | split

theorem quiesceTimeout_keepsPins {s0 : State} {s : State} {t : ℕ} (h_s : KeepsPins s0 s) :
    KeepsPins s0 (quiesceTimeout s t) := by
  unfold quiesceTimeout
  repeat' first
    | with_reducible assumption | with_reducible apply endQuiesce_keepsPins | with_reducible apply logTow_keepsPins
    | with_reducible apply advanceTo_keepsPins | with_reducible apply endAct_keepsPins | with_reducible apply setB_keepsPins | split

theorem wrMargin_keepsPins {s0 : State} {s : State} {t : ℕ} {v : Word} (h_s : KeepsPins s0 s) :
    KeepsPins s0 (wrMargin s t v) := by
  unfold wrMargin
  repeat' first
    | with_reducible assumption | with_reducible apply requestAct_keepsPins | with_reducible apply setF_keepsPins
    | with_reducible apply logTowReg_keepsPins | with_reducible apply setB_keepsPins | split | dsimp only

theorem recordMargins_keepsPins {s0 : State} {s : State} {t : ℕ} {kind : ℕ} {rec : List MarginRec} (h_s : KeepsPins s0 s) :
    KeepsPins s0 (recordMargins s t kind rec) := by
  unfold recordMargins
  repeat' first
    | with_reducible assumption | with_reducible apply setReg_keepsPins | with_reducible apply forRange_keeps
    | with_reducible apply logTow_keepsPins | with_reducible apply setB_keepsPins | intro _ | split

theorem marginDone_keepsPins {s0 : State} {s : State} {t : ℕ} {rec : List MarginRec} (h_s : KeepsPins s0 s) :
    KeepsPins s0 (marginDone s t rec) := by
  unfold marginDone
  repeat' first
    | with_reducible assumption | with_reducible apply endAct_keepsPins | with_reducible apply setB_keepsPins
    | with_reducible apply recordMargins_keepsPins | split | dsimp only

theorem wrPoisonOp_keepsPins {s0 : State} {s : State} {t : ℕ} {g : ℕ} {op : ℕ} (h_s : KeepsPins s0 s) :
    KeepsPins s0 (wrPoisonOp s t g op) := by
  unfold wrPoisonOp
  repeat' first
    | with_reducible assumption | with_reducible apply setB_keepsPins | with_reducible apply setF_keepsPins
    | with_reducible apply clearGranule_keepsPins | with_reducible apply poisonGranule_keepsPins | split

/-! ### Pke -/

theorem logPke_keepsPins {s0 : State} {s : State} {code : ℕ} {pay : ℕ} (h_s : KeepsPins s0 s) :
    KeepsPins s0 (logPke s code pay) := by
  unfold logPke
  repeat' first
    | with_reducible assumption | with_reducible apply logEv_keepsPins

theorem fillSlot_keepsPins {s0 : State} {s : State} {type : ℕ} {origin : ℕ} {part : KeyPart} (h_s : KeepsPins s0 s) :
    KeepsPins s0 (fillSlot s type origin part) := by
  unfold fillSlot
  repeat' first
    | with_reducible assumption | with_reducible apply logPke_keepsPins | with_reducible apply setReg_keepsPins | intro _
    | split | dsimp only | with_reducible apply KeepsPins.pwrgood | with_reducible apply KeepsPins.resetN
    | with_reducible apply KeepsPins.testEn | with_reducible apply KeepsPins.domid
    | with_reducible apply KeepsPins.mbusSel | with_reducible apply KeepsPins.start
    | (refine KeepsPins.mk ?_ ?_ ?_ ?_ ?_ ?_ <;> dsimp only)

theorem emptySlot_keepsPins {s0 : State} {s : State} {k : ℕ} (h_s : KeepsPins s0 s) :
    KeepsPins s0 (emptySlot s k) := by
  unfold emptySlot
  repeat' first
    | with_reducible assumption | with_reducible apply logPke_keepsPins | with_reducible apply setReg_keepsPins | intro _
    | split | dsimp only | with_reducible apply KeepsPins.pwrgood | with_reducible apply KeepsPins.resetN
    | with_reducible apply KeepsPins.testEn | with_reducible apply KeepsPins.domid
    | with_reducible apply KeepsPins.mbusSel | with_reducible apply KeepsPins.start
    | (refine KeepsPins.mk ?_ ?_ ?_ ?_ ?_ ?_ <;> dsimp only)

theorem freeBytes_keepsPins {s0 : State} {s : State} {x1 : ℕ} (h_s : KeepsPins s0 s) :
    KeepsPins s0 ((freeBytes s x1).2) := by
  revert h_s
  fun_induction freeBytes s x1
  all_goals
    try rename_i ih
    intro h_s
    repeat' first
      | with_reducible assumption | with_reducible apply ih | with_reducible apply takeFree_keepsPins

theorem pkeRead_keepsPins {s0 : State} {s : State} {a : ℕ} {n : ℕ} (h_s : KeepsPins s0 s) :
    KeepsPins s0 (((pkeRead s a n).2).2) := by
  unfold pkeRead
  repeat' first
    | with_reducible assumption | with_reducible apply freeBytes_keepsPins | with_reducible apply noteSpan_keepsPins | split

theorem withOperands_keepsPins {s0 : State} {s : State} {pre : List ℕ} {spans : List (ℕ × ℕ)} {f : State → List (List Byte) → PkeResult × State} (h_s : KeepsPins s0 s) (h_f : (∀ y0, KeepsPins s0 y0 → (∀ y1, KeepsPins s0 ((f y0 y1).2)))) :
    KeepsPins s0 ((withOperands s pre spans f).2) := by
  unfold withOperands
  dsimp only
  split
  · exact h_s
  · have h := foldl_snd_snd_keeps (f := fun (a : List (List Byte) × Bool × State) (p : Nat × Nat) =>
      (a.1 ++ [(pkeRead a.2.2 p.1 p.2).1], a.2.1 || (pkeRead a.2.2 p.1 p.2).2.1, (pkeRead a.2.2 p.1 p.2).2.2))
      (l := spans) (s := ([], false, s)) (fun _ _ hx => pkeRead_keepsPins hx) h_s
    split
    · exact h
    · exact h_f _ h _

theorem pkeShake_keepsPins {s0 : State} {s : State} (h_s : KeepsPins s0 s) :
    KeepsPins s0 ((pkeShake s).2) := by
  unfold pkeShake
  repeat' first
    | with_reducible assumption | with_reducible apply withOperands_keepsPins | intro _

theorem pkeVerify_keepsPins {s0 : State} {s : State} (h_s : KeepsPins s0 s) :
    KeepsPins s0 ((pkeVerify s).2) := by
  unfold pkeVerify
  repeat' first
    | with_reducible assumption | with_reducible apply withOperands_keepsPins | intro _

theorem pkeSign_keepsPins {s0 : State} {s : State} (h_s : KeepsPins s0 s) :
    KeepsPins s0 ((pkeSign s).2) := by
  unfold pkeSign
  repeat' first
    | with_reducible assumption | with_reducible apply withOperands_keepsPins | intro _

theorem pkeX448_keepsPins {s0 : State} {s : State} (h_s : KeepsPins s0 s) :
    KeepsPins s0 ((pkeX448 s).2) := by
  unfold pkeX448
  repeat' first
    | with_reducible assumption | with_reducible apply withOperands_keepsPins | intro _ | split | dsimp only

theorem pkeKeygen_keepsPins {s0 : State} {s : State} (h_s : KeepsPins s0 s) :
    KeepsPins s0 ((pkeKeygen s).2) := by
  unfold pkeKeygen
  repeat' first
    | with_reducible assumption | with_reducible apply withOperands_keepsPins | with_reducible apply drbgRequest_keepsPins
    | with_reducible apply logDraw_keepsPins | intro _ | split | dsimp only

theorem pkePubkey_keepsPins {s0 : State} {s : State} (h_s : KeepsPins s0 s) :
    KeepsPins s0 ((pkePubkey s).2) := by
  unfold pkePubkey
  repeat' first
    | with_reducible assumption | with_reducible apply withOperands_keepsPins | intro _

theorem pkeKdf_keepsPins {s0 : State} {s : State} (h_s : KeepsPins s0 s) :
    KeepsPins s0 ((pkeKdf s).2) := by
  unfold pkeKdf
  repeat' first
    | with_reducible assumption | with_reducible apply withOperands_keepsPins | intro _

theorem pkeMac_keepsPins {s0 : State} {s : State} (h_s : KeepsPins s0 s) :
    KeepsPins s0 ((pkeMac s).2) := by
  unfold pkeMac
  repeat' first
    | with_reducible assumption | with_reducible apply withOperands_keepsPins | intro _

theorem pkeClear_keepsPins {s0 : State} {s : State} (h_s : KeepsPins s0 s) :
    KeepsPins s0 ((pkeClear s).2) := by
  unfold pkeClear
  repeat' first
    | with_reducible assumption | with_reducible apply withOperands_keepsPins | intro _

theorem pkeAttest_keepsPins {s0 : State} {s : State} (h_s : KeepsPins s0 s) :
    KeepsPins s0 ((pkeAttest s).2) := by
  unfold pkeAttest
  repeat' first
    | with_reducible assumption | with_reducible apply withOperands_keepsPins | intro _

theorem pkeCompute_keepsPins {s0 : State} {s : State} {op : ℕ} (h_s : KeepsPins s0 s) :
    KeepsPins s0 ((pkeCompute s op).2) := by
  unfold pkeCompute
  repeat' first
    | with_reducible assumption | with_reducible apply pkeAttest_keepsPins | with_reducible apply pkeClear_keepsPins
    | with_reducible apply pkeMac_keepsPins | with_reducible apply pkeKdf_keepsPins | with_reducible apply pkePubkey_keepsPins
    | with_reducible apply pkeKeygen_keepsPins | with_reducible apply pkeX448_keepsPins | with_reducible apply pkeSign_keepsPins
    | with_reducible apply pkeVerify_keepsPins | with_reducible apply pkeShake_keepsPins | split

theorem pkeGo_keepsPins {s0 : State} {s : State} {op : ℕ} {v : Word} (h_s : KeepsPins s0 s) :
    KeepsPins s0 (pkeGo s op v) := by
  unfold pkeGo
  repeat' first
    | with_reducible assumption | with_reducible apply setB_keepsPins | with_reducible apply pkeCompute_keepsPins
    | with_reducible apply setReg_keepsPins | with_reducible apply logPke_keepsPins | intro _ | split | dsimp only
    | with_reducible apply KeepsPins.pwrgood | with_reducible apply KeepsPins.resetN
    | with_reducible apply KeepsPins.testEn | with_reducible apply KeepsPins.domid
    | with_reducible apply KeepsPins.mbusSel | with_reducible apply KeepsPins.start
    | (refine KeepsPins.mk ?_ ?_ ?_ ?_ ?_ ?_ <;> dsimp only)

theorem settleSlots_keepsPins {s0 : State} {s : State} {keys : List KeyPart} {how : List (ℕ × ℕ)} (h_s : KeepsPins s0 s) :
    KeepsPins s0 (settleSlots s keys how) := by
  unfold settleSlots
  repeat' first
    | with_reducible assumption | with_reducible apply foldl_keeps | with_reducible apply emptySlot_keepsPins
    | with_reducible apply fillSlot_keepsPins | intro _

theorem settleOut_keepsPins {s0 : State} {s : State} {outs : List (ℕ × List Byte)} (h_s : KeepsPins s0 s) :
    KeepsPins s0 (settleOut s outs) := by
  unfold settleOut
  repeat' first
    | with_reducible assumption | with_reducible apply foldl_keeps | with_reducible apply externalWrite_keepsPins | intro _
    | split

theorem pkeComplete_keepsPins {s0 : State} {s : State} {beats : ℕ} (h_s : KeepsPins s0 s) :
    KeepsPins s0 (pkeComplete s beats) := by
  unfold pkeComplete
  repeat' first
    | with_reducible assumption | with_reducible apply raiseIrq_keepsPins | with_reducible apply setB_keepsPins
    | with_reducible apply logPke_keepsPins | with_reducible apply bump_keepsPins | with_reducible apply setF_keepsPins
    | with_reducible apply setReg_keepsPins | with_reducible apply advanceTo_keepsPins | with_reducible apply settleOut_keepsPins
    | with_reducible apply settleSlots_keepsPins | split | dsimp only | exact rfl | with_reducible apply KeepsPins.pwrgood
    | with_reducible apply KeepsPins.resetN | with_reducible apply KeepsPins.testEn
    | with_reducible apply KeepsPins.domid | with_reducible apply KeepsPins.mbusSel
    | with_reducible apply KeepsPins.start | (refine KeepsPins.mk ?_ ?_ ?_ ?_ ?_ ?_ <;> dsimp only)

/-! ### Power -/

theorem bootStop_keepsPins {s0 : State} {s : State} {reason : ℕ} (h_s : KeepsPins s0 s) :
    KeepsPins s0 (bootStop s reason) := by
  unfold bootStop
  repeat' first
    | with_reducible assumption | with_reducible apply raiseIrq_keepsPins | with_reducible apply stopPorts_keepsPins
    | with_reducible apply logEv_keepsPins | with_reducible apply setF_keepsPins | with_reducible apply setB_keepsPins | split
    | dsimp only | with_reducible apply KeepsPins.pwrgood | with_reducible apply KeepsPins.resetN
    | with_reducible apply KeepsPins.testEn | with_reducible apply KeepsPins.domid
    | with_reducible apply KeepsPins.mbusSel | with_reducible apply KeepsPins.start
    | (refine KeepsPins.mk ?_ ?_ ?_ ?_ ?_ ?_ <;> dsimp only)

theorem logCanary_keepsPins {s0 : State} {s : State} {code : ℕ} {d : ℕ} {pay : ℕ} (h_s : KeepsPins s0 s) :
    KeepsPins s0 (logCanary s code d pay) := by
  unfold logCanary
  repeat' first
    | with_reducible assumption | with_reducible apply logEv_keepsPins

theorem suspendPromises_keepsPins {s0 : State} {s : State} (h_s : KeepsPins s0 s) :
    KeepsPins s0 (suspendPromises s) := by
  unfold suspendPromises
  repeat' first
    | with_reducible assumption | intro _ | split | dsimp only | with_reducible apply KeepsPins.pwrgood
    | with_reducible apply KeepsPins.resetN | with_reducible apply KeepsPins.testEn
    | with_reducible apply KeepsPins.domid | with_reducible apply KeepsPins.mbusSel
    | with_reducible apply KeepsPins.start | (refine KeepsPins.mk ?_ ?_ ?_ ?_ ?_ ?_ <;> dsimp only)

theorem changeLevel_keepsPins {s0 : State} {s : State} {d : ℕ} {new : ℕ} {cause : ℕ} (h_s : KeepsPins s0 s) :
    KeepsPins s0 (changeLevel s d new cause) := by
  unfold changeLevel
  repeat' first
    | with_reducible assumption | with_reducible apply setF_keepsPins | with_reducible apply logCanary_keepsPins | split
    | dsimp only | with_reducible apply KeepsPins.pwrgood | with_reducible apply KeepsPins.resetN
    | with_reducible apply KeepsPins.testEn | with_reducible apply KeepsPins.domid
    | with_reducible apply KeepsPins.mbusSel | with_reducible apply KeepsPins.start
    | (refine KeepsPins.mk ?_ ?_ ?_ ?_ ?_ ?_ <;> dsimp only)

theorem stretch_keepsPins {s0 : State} {s : State} {d : ℕ} {cause : ℕ} (h_s : KeepsPins s0 s) :
    KeepsPins s0 (stretch s d cause) := by
  unfold stretch
  repeat' first
    | with_reducible assumption | with_reducible apply suspendPromises_keepsPins | with_reducible apply changeLevel_keepsPins
    | with_reducible apply setF_keepsPins | with_reducible apply moduleFault_keepsPins | with_reducible apply logCanary_keepsPins
    | split | dsimp only

theorem unstretch_keepsPins {s0 : State} {s : State} {d : ℕ} (h_s : KeepsPins s0 s) :
    KeepsPins s0 (unstretch s d) := by
  unfold unstretch
  repeat' first
    | with_reducible assumption | with_reducible apply changeLevel_keepsPins | with_reducible apply advanceTo_keepsPins | split
    | dsimp only

theorem stepRail_keepsPins {s0 : State} {s : State} {lo : ℕ} {up : Bool} (h_s : KeepsPins s0 s) :
    KeepsPins s0 (stepRail s lo up) := by
  unfold stepRail
  repeat' first
    | with_reducible assumption | with_reducible apply setF_keepsPins | split | dsimp only

theorem stepRails_keepsPins {s0 : State} {s : State} {up : Bool} (h_s : KeepsPins s0 s) :
    KeepsPins s0 (stepRails s up) := by
  unfold stepRails
  repeat' first
    | with_reducible assumption | with_reducible apply stepRail_keepsPins

theorem voltageTick_keepsPins {s0 : State} {s : State} {slack : ℕ} {full : Bool} (h_s : KeepsPins s0 s) :
    KeepsPins s0 (voltageTick s slack full) := by
  unfold voltageTick
  repeat' first
    | with_reducible assumption | with_reducible apply setF_keepsPins | with_reducible apply stepRails_keepsPins | split
    | dsimp only

theorem powerEstimate_keepsPins {s0 : State} {s : State} {watts : ℕ} (h_s : KeepsPins s0 s) :
    KeepsPins s0 (powerEstimate s watts) := by
  unfold powerEstimate
  repeat' first
    | with_reducible assumption | with_reducible apply setB_keepsPins | with_reducible apply stepRails_keepsPins | split
    | dsimp only | with_reducible apply KeepsPins.pwrgood | with_reducible apply KeepsPins.resetN
    | with_reducible apply KeepsPins.testEn | with_reducible apply KeepsPins.domid
    | with_reducible apply KeepsPins.mbusSel | with_reducible apply KeepsPins.start
    | (refine KeepsPins.mk ?_ ?_ ?_ ?_ ?_ ?_ <;> dsimp only)

theorem wrCapW_keepsPins {s0 : State} {s : State} {w : ℕ} (h_s : KeepsPins s0 s) :
    KeepsPins s0 (wrCapW s w) := by
  unfold wrCapW
  repeat' first
    | with_reducible assumption | with_reducible apply setF_keepsPins

theorem noteTemp_keepsPins {s0 : State} {s : State} {d : ℕ} {t : ℕ} (h_s : KeepsPins s0 s) :
    KeepsPins s0 (noteTemp s d t) := by
  unfold noteTemp
  repeat' first
    | with_reducible assumption | with_reducible apply setF_keepsPins

theorem throttle_keepsPins {s0 : State} {s : State} {d : ℕ} {t : ℕ} (h_s : KeepsPins s0 s) :
    KeepsPins s0 (throttle s d t) := by
  unfold throttle
  repeat' first
    | with_reducible assumption | with_reducible apply noteTemp_keepsPins | with_reducible apply setB_keepsPins | split

theorem hotClear_keepsPins {s0 : State} {s : State} {t0 : ℕ} {t1 : ℕ} (h_s : KeepsPins s0 s) :
    KeepsPins s0 (hotClear s t0 t1) := by
  unfold hotClear
  repeat' first
    | with_reducible assumption | with_reducible apply noteTemp_keepsPins | with_reducible apply setB_keepsPins | split

theorem thermTrip_keepsPins {s0 : State} {s : State} {d : ℕ} {t : ℕ} (h_s : KeepsPins s0 s) :
    KeepsPins s0 (thermTrip s d t) := by
  unfold thermTrip
  repeat' first
    | with_reducible assumption | with_reducible apply throttle_keepsPins | with_reducible apply moduleFault_keepsPins
    | with_reducible apply logCanary_keepsPins | with_reducible apply setB_keepsPins | split | dsimp only
    | with_reducible apply KeepsPins.pwrgood | with_reducible apply KeepsPins.resetN
    | with_reducible apply KeepsPins.testEn | with_reducible apply KeepsPins.domid
    | with_reducible apply KeepsPins.mbusSel | with_reducible apply KeepsPins.start
    | (refine KeepsPins.mk ?_ ?_ ?_ ?_ ?_ ?_ <;> dsimp only)

theorem loseLog_keepsPins {s0 : State} {s : State} (h_s : KeepsPins s0 s) :
    KeepsPins s0 (loseLog s) := by
  unfold loseLog
  repeat' first
    | with_reducible assumption | with_reducible apply setReg_keepsPins | dsimp only
    | with_reducible apply KeepsPins.pwrgood | with_reducible apply KeepsPins.resetN
    | with_reducible apply KeepsPins.testEn | with_reducible apply KeepsPins.domid
    | with_reducible apply KeepsPins.mbusSel | with_reducible apply KeepsPins.start
    | (refine KeepsPins.mk ?_ ?_ ?_ ?_ ?_ ?_ <;> dsimp only)

theorem unspecify_keepsPins {s0 : State} {s : State} (h_s : KeepsPins s0 s) :
    KeepsPins s0 (unspecify s) := by
  unfold unspecify
  repeat' first
    | with_reducible assumption | intro _ | split | dsimp only | with_reducible apply KeepsPins.pwrgood
    | with_reducible apply KeepsPins.resetN | with_reducible apply KeepsPins.testEn
    | with_reducible apply KeepsPins.domid | with_reducible apply KeepsPins.mbusSel
    | with_reducible apply KeepsPins.start | (refine KeepsPins.mk ?_ ?_ ?_ ?_ ?_ ?_ <;> dsimp only)

theorem railOut_keepsPins {s0 : State} {s : State} {x1 : Rail} (h_s : KeepsPins s0 s) :
    KeepsPins s0 (railOut s x1) := by
  unfold railOut
  repeat' first
    | with_reducible assumption | with_reducible apply stretch_keepsPins | with_reducible apply loseLog_keepsPins
    | with_reducible apply unspecify_keepsPins | split

theorem wrMemcfg_keepsPins {s0 : State} {s : State} {m : Master} {v : Word} (h_s : KeepsPins s0 s) :
    KeepsPins s0 (wrMemcfg s m v) := by
  unfold wrMemcfg
  repeat' first
    | with_reducible assumption | with_reducible apply setB_keepsPins | with_reducible apply setF_keepsPins
    | with_reducible apply logMaster_keepsPins | split

theorem clearNd_keepsPins {s0 : State} {s : State} (h_s : KeepsPins s0 s) :
    KeepsPins s0 (clearNd s) := by
  unfold clearNd
  repeat' first
    | with_reducible assumption | with_reducible apply forRange_keeps | with_reducible apply setReg_keepsPins | intro _

/-! ### Host -/

theorem logPort_keepsPins {s0 : State} {s : State} {code : ℕ} {p : ℕ} {addr : ℕ} (h_s : KeepsPins s0 s) :
    KeepsPins s0 (logPort s code p addr) := by
  unfold logPort
  repeat' first
    | with_reducible assumption | with_reducible apply logEv_keepsPins

theorem atcPut_keepsPins {s0 : State} {s : State} {p : ℕ} {u : ℕ} {log2 : ℕ} (h_s : KeepsPins s0 s) :
    KeepsPins s0 (atcPut s p u log2) := by
  unfold atcPut
  repeat' first
    | with_reducible assumption | intro _ | split | dsimp only | with_reducible apply KeepsPins.pwrgood
    | with_reducible apply KeepsPins.resetN | with_reducible apply KeepsPins.testEn
    | with_reducible apply KeepsPins.domid | with_reducible apply KeepsPins.mbusSel
    | with_reducible apply KeepsPins.start | (refine KeepsPins.mk ?_ ?_ ?_ ?_ ?_ ?_ <;> dsimp only)

theorem countOut_keepsPins {s0 : State} {s : State} {p : ℕ} (h_s : KeepsPins s0 s) :
    KeepsPins s0 (countOut s p) := by
  unfold countOut
  repeat' first
    | with_reducible assumption | with_reducible apply setF_keepsPins

theorem sendPages_keepsPins {s0 : State} {s : State} {p : ℕ} {x2 : ℕ} (h_s : KeepsPins s0 s) :
    KeepsPins s0 (sendPages s p x2) := by
  revert h_s
  fun_induction sendPages s p x2
  all_goals
    try rename_i ih
    intro h_s
    repeat' first
      | with_reducible assumption | with_reducible apply ih | with_reducible apply countOut_keepsPins
      | with_reducible apply emit_keepsPins | with_reducible apply bump_keepsPins | with_reducible apply countNd_keepsPins | intro _
      | split | dsimp only | dsimp +zetaDelta only | with_reducible apply KeepsPins.pwrgood
      | with_reducible apply KeepsPins.resetN | with_reducible apply KeepsPins.testEn
      | with_reducible apply KeepsPins.domid | with_reducible apply KeepsPins.mbusSel
      | with_reducible apply KeepsPins.start | (refine KeepsPins.mk ?_ ?_ ?_ ?_ ?_ ?_ <;> dsimp only)

theorem denyPage_keepsPins {s0 : State} {s : State} {p : ℕ} {u : ℕ} {code : ℕ} (h_s : KeepsPins s0 s) :
    KeepsPins s0 (denyPage s p u code) := by
  unfold denyPage
  repeat' first
    | with_reducible assumption | with_reducible apply sendPages_keepsPins | with_reducible apply foldl_keeps
    | with_reducible apply stopFrond_keepsPins | with_reducible apply logPort_keepsPins | with_reducible apply bump_keepsPins
    | intro _ | dsimp only | with_reducible apply KeepsPins.pwrgood | with_reducible apply KeepsPins.resetN
    | with_reducible apply KeepsPins.testEn | with_reducible apply KeepsPins.domid
    | with_reducible apply KeepsPins.mbusSel | with_reducible apply KeepsPins.start
    | (refine KeepsPins.mk ?_ ?_ ?_ ?_ ?_ ?_ <;> dsimp only)

theorem freePage_keepsPins {s0 : State} {s : State} {p : ℕ} {u : ℕ} {log2 : ℕ} {asked : Bool} (h_s : KeepsPins s0 s) :
    KeepsPins s0 (freePage s p u log2 asked) := by
  unfold freePage
  repeat' first
    | with_reducible assumption | intro _ | split | dsimp only | with_reducible apply KeepsPins.pwrgood
    | with_reducible apply KeepsPins.resetN | with_reducible apply KeepsPins.testEn
    | with_reducible apply KeepsPins.domid | with_reducible apply KeepsPins.mbusSel
    | with_reducible apply KeepsPins.start | (refine KeepsPins.mk ?_ ?_ ?_ ?_ ?_ ?_ <;> dsimp only)

theorem pendRows_keepsPins {s0 : State} {s : State} {p : ℕ} {u : ℕ} (h_s : KeepsPins s0 s) :
    KeepsPins s0 (pendRows s p u) := by
  unfold pendRows
  repeat' first
    | with_reducible assumption | with_reducible apply foldl_keeps | with_reducible apply pendAt_keepsPins

theorem atsAnswer_keepsPins {s0 : State} {s : State} {p : ℕ} {u : ℕ} {res : AtsResult} (h_s : KeepsPins s0 s) :
    KeepsPins s0 (atsAnswer s p u res) := by
  unfold atsAnswer
  repeat' first
    | with_reducible assumption | with_reducible apply freePage_keepsPins | with_reducible apply atcPut_keepsPins
    | with_reducible apply denyPage_keepsPins | with_reducible apply countOut_keepsPins | with_reducible apply emit_keepsPins
    | with_reducible apply bump_keepsPins | with_reducible apply countNd_keepsPins | with_reducible apply sendPages_keepsPins
    | intro _ | split | dsimp only | with_reducible apply KeepsPins.pwrgood | with_reducible apply KeepsPins.resetN
    | with_reducible apply KeepsPins.testEn | with_reducible apply KeepsPins.domid
    | with_reducible apply KeepsPins.mbusSel | with_reducible apply KeepsPins.start
    | (refine KeepsPins.mk ?_ ?_ ?_ ?_ ?_ ?_ <;> dsimp only)

theorem atsDone_keepsPins {s0 : State} {s : State} {p : ℕ} {u : ℕ} {res : AtsResult} (h_s : KeepsPins s0 s) :
    KeepsPins s0 (atsDone s p u res) := by
  unfold atsDone
  repeat' first
    | with_reducible assumption | with_reducible apply pendRows_keepsPins | with_reducible apply atsAnswer_keepsPins | split

theorem pageResponse_keepsPins {s0 : State} {s : State} {p : ℕ} {u : ℕ} {code : PageResp} (h_s : KeepsPins s0 s) :
    KeepsPins s0 (pageResponse s p u code) := by
  unfold pageResponse
  repeat' first
    | with_reducible assumption | with_reducible apply emit_keepsPins | with_reducible apply sendPages_keepsPins
    | with_reducible apply denyPage_keepsPins | with_reducible apply setPort_keepsPins | intro _ | split | dsimp only
    | with_reducible apply KeepsPins.pwrgood | with_reducible apply KeepsPins.resetN
    | with_reducible apply KeepsPins.testEn | with_reducible apply KeepsPins.domid
    | with_reducible apply KeepsPins.mbusSel | with_reducible apply KeepsPins.start
    | (refine KeepsPins.mk ?_ ?_ ?_ ?_ ?_ ?_ <;> dsimp only)

theorem pageTimeout_keepsPins {s0 : State} {s : State} {p : ℕ} {u : ℕ} (h_s : KeepsPins s0 s) :
    KeepsPins s0 (pageTimeout s p u) := by
  unfold pageTimeout
  repeat' first
    | with_reducible assumption | with_reducible apply denyPage_keepsPins | with_reducible apply advanceTo_keepsPins | intro _
    | split | dsimp only

theorem invalidate_keepsPins {s0 : State} {s : State} {p : ℕ} {u : ℕ} {log2 : ℕ} (h_s : KeepsPins s0 s) :
    KeepsPins s0 (invalidate s p u log2) := by
  unfold invalidate
  repeat' first
    | with_reducible assumption | with_reducible apply emit_keepsPins | intro _ | dsimp only
    | with_reducible apply KeepsPins.pwrgood | with_reducible apply KeepsPins.resetN
    | with_reducible apply KeepsPins.testEn | with_reducible apply KeepsPins.domid
    | with_reducible apply KeepsPins.mbusSel | with_reducible apply KeepsPins.start
    | (refine KeepsPins.mk ?_ ?_ ?_ ?_ ?_ ?_ <;> dsimp only)

theorem cplErr_keepsPins {s0 : State} {s : State} {x : FrondRef} {ep : Bool} (h_s : KeepsPins s0 s) :
    KeepsPins s0 (cplErr s x ep) := by
  unfold cplErr
  repeat' first
    | with_reducible assumption | with_reducible apply stopFrond_keepsPins | with_reducible apply logPort_keepsPins
    | with_reducible apply bump_keepsPins | with_reducible apply putFrond_keepsPins | split

theorem zeroPort_keepsPins {s0 : State} {s : State} {p : ℕ} (h_s : KeepsPins s0 s) :
    KeepsPins s0 (zeroPort s p) := by
  unfold zeroPort
  repeat' first
    | with_reducible assumption | with_reducible apply foldl_keeps | with_reducible apply setReg_keepsPins | intro _

theorem portReset_keepsPins {s0 : State} {s : State} {p : ℕ} (h_s : KeepsPins s0 s) :
    KeepsPins s0 (portReset s p) := by
  unfold portReset
  extract_lets s1 h s2
  have h1 : KeepsPins s0 s1 := zeroPort_keepsPins h_s
  clear_value s1
  have h2 : KeepsPins s0 s2 := ⟨h1.pwrgood, h1.resetN, h1.testEn, h1.domid, h1.mbusSel, h1.start⟩
  clear_value s2
  exact setPort_keepsPins h2

theorem freeSems_keepsPins {s0 : State} {s : State} {p : ℕ} (h_s : KeepsPins s0 s) :
    KeepsPins s0 (freeSems s p) := by
  unfold freeSems
  repeat' first
    | with_reducible assumption | with_reducible apply forRange_keeps | with_reducible apply logPort_keepsPins
    | with_reducible apply setF_keepsPins | intro _ | split

theorem portLost_keepsPins {s0 : State} {s : State} {p : ℕ} (h_s : KeepsPins s0 s) :
    KeepsPins s0 (portLost s p) := by
  unfold portLost
  repeat' first
    | with_reducible assumption | with_reducible apply raiseOn_keepsPins | with_reducible apply setF_keepsPins
    | with_reducible apply foldl_keeps | with_reducible apply stopFrond_keepsPins | with_reducible apply logPort_keepsPins
    | with_reducible apply freeSems_keepsPins | with_reducible apply portReset_keepsPins | intro _

theorem perst_keepsPins {s0 : State} {s : State} {p : ℕ} (h_s : KeepsPins s0 s) :
    KeepsPins s0 (perst s p) := by
  unfold perst
  repeat' first
    | with_reducible assumption | with_reducible apply portLost_keepsPins | split | dsimp only
    | with_reducible apply KeepsPins.pwrgood | with_reducible apply KeepsPins.resetN
    | with_reducible apply KeepsPins.testEn | with_reducible apply KeepsPins.domid
    | with_reducible apply KeepsPins.mbusSel | with_reducible apply KeepsPins.start
    | (refine KeepsPins.mk ?_ ?_ ?_ ?_ ?_ ?_ <;> dsimp only)

theorem portUpNow_keepsPins {s0 : State} {s : State} {p : ℕ} {speed : ℕ} {width : ℕ} (h_s : KeepsPins s0 s) :
    KeepsPins s0 (portUpNow s p speed width) := by
  unfold portUpNow
  repeat' first
    | with_reducible assumption | with_reducible apply raiseOn_keepsPins | with_reducible apply logPort_keepsPins
    | with_reducible apply setF_keepsPins | with_reducible apply setB_keepsPins | split | dsimp only
    | with_reducible apply KeepsPins.pwrgood | with_reducible apply KeepsPins.resetN
    | with_reducible apply KeepsPins.testEn | with_reducible apply KeepsPins.domid
    | with_reducible apply KeepsPins.mbusSel | with_reducible apply KeepsPins.start
    | (refine KeepsPins.mk ?_ ?_ ?_ ?_ ?_ ?_ <;> dsimp only)

theorem sendPending_keepsPins {s0 : State} {s : State} {p : ℕ} (h_s : KeepsPins s0 s) :
    KeepsPins s0 (sendPending s p) := by
  unfold sendPending
  repeat' first
    | with_reducible assumption | with_reducible apply forRange_keeps | with_reducible apply emit_keepsPins | intro _
    | split | dsimp only | with_reducible apply KeepsPins.pwrgood | with_reducible apply KeepsPins.resetN
    | with_reducible apply KeepsPins.testEn | with_reducible apply KeepsPins.domid
    | with_reducible apply KeepsPins.mbusSel | with_reducible apply KeepsPins.start
    | (refine KeepsPins.mk ?_ ?_ ?_ ?_ ?_ ?_ <;> dsimp only)

theorem maskMwin_keepsPins {s0 : State} {s : State} {p : ℕ} {v : ℕ} (h_s : KeepsPins s0 s) :
    KeepsPins s0 (maskMwin s p v) := by
  unfold maskMwin
  repeat' first
    | with_reducible assumption | with_reducible apply setReg_keepsPins

theorem configWrite_keepsPins {s0 : State} {s : State} {p : ℕ} {k : PcieCfg} {v : Word} (h_s : KeepsPins s0 s) :
    KeepsPins s0 (configWrite s p k v) := by
  unfold configWrite
  repeat' first
    | with_reducible assumption | with_reducible apply setB_keepsPins | with_reducible apply sendPages_keepsPins
    | with_reducible apply setPort_keepsPins | with_reducible apply sendPending_keepsPins | with_reducible apply maskMwin_keepsPins
    | split | dsimp only

theorem wrSem_keepsPins {s0 : State} {s : State} {m : Master} {k : ℕ} {v : Word} (h_s : KeepsPins s0 s) :
    KeepsPins s0 (wrSem s m k v) := by
  unfold wrSem
  repeat' first
    | with_reducible assumption | with_reducible apply setF_keepsPins | split | dsimp only

theorem wrMboxCtl_keepsPins {s0 : State} {s : State} {m : Master} {d : ℕ} (h_s : KeepsPins s0 s) :
    KeepsPins s0 (wrMboxCtl s m d) := by
  unfold wrMboxCtl
  repeat' first
    | with_reducible assumption | with_reducible apply raiseOn_keepsPins | with_reducible apply setF_keepsPins
    | with_reducible apply setB_keepsPins | with_reducible apply emit_keepsPins | split | dsimp only

theorem wrMboxData_keepsPins {s0 : State} {s : State} {m : Master} {d : ℕ} {j : ℕ} {v : Word} (h_s : KeepsPins s0 s) :
    KeepsPins s0 (wrMboxData s m d j v) := by
  unfold wrMboxData
  repeat' first
    | with_reducible assumption | with_reducible apply setReg_keepsPins | with_reducible apply logMaster_keepsPins | split

theorem flashPut_keepsPins {s0 : State} {s : State} {a : ℕ} {x2 : List Byte} (h_s : KeepsPins s0 s) :
    KeepsPins s0 (flashPut s a x2) := by
  revert h_s
  fun_induction flashPut s a x2
  all_goals
    try rename_i ih
    intro h_s
    repeat' first
      | with_reducible assumption | with_reducible apply ih | dsimp only | exact rfl
      | with_reducible apply KeepsPins.pwrgood | with_reducible apply KeepsPins.resetN
      | with_reducible apply KeepsPins.testEn | with_reducible apply KeepsPins.domid
      | with_reducible apply KeepsPins.mbusSel | with_reducible apply KeepsPins.start
      | (refine KeepsPins.mk ?_ ?_ ?_ ?_ ?_ ?_ <;> dsimp only)

theorem nvCommand_keepsPins {s0 : State} {s : State} {m : Master} {op : ℕ} {len : ℕ} (h_s : KeepsPins s0 s) :
    KeepsPins s0 (nvCommand s m op len) := by
  unfold nvCommand
  repeat' first
    | with_reducible assumption | with_reducible apply setF_keepsPins | with_reducible apply logMaster_keepsPins
    | with_reducible apply setB_keepsPins | split | dsimp only | with_reducible apply KeepsPins.pwrgood
    | with_reducible apply KeepsPins.resetN | with_reducible apply KeepsPins.testEn
    | with_reducible apply KeepsPins.domid | with_reducible apply KeepsPins.mbusSel
    | with_reducible apply KeepsPins.start | (refine KeepsPins.mk ?_ ?_ ?_ ?_ ?_ ?_ <;> dsimp only)

theorem setNvBuffer_keepsPins {s0 : State} {s : State} {b : List Byte} (h_s : KeepsPins s0 s) :
    KeepsPins s0 (setNvBuffer s b) := by
  unfold setNvBuffer
  repeat' first
    | with_reducible assumption | with_reducible apply forRange_keeps | with_reducible apply setReg_keepsPins | intro _

theorem nvEffect_keepsPins {s0 : State} {s : State} {op : ℕ} {a : ℕ} {len : ℕ} (h_s : KeepsPins s0 s) :
    KeepsPins s0 (nvEffect s op a len) := by
  unfold nvEffect
  repeat' first
    | with_reducible assumption | with_reducible apply flashPut_keepsPins | with_reducible apply setNvBuffer_keepsPins | intro _
    | split | dsimp only | with_reducible apply KeepsPins.pwrgood | with_reducible apply KeepsPins.resetN
    | with_reducible apply KeepsPins.testEn | with_reducible apply KeepsPins.domid
    | with_reducible apply KeepsPins.mbusSel | with_reducible apply KeepsPins.start
    | (refine KeepsPins.mk ?_ ?_ ?_ ?_ ?_ ?_ <;> dsimp only)

theorem nvSpoil_keepsPins {s0 : State} {s : State} {op : ℕ} {a : ℕ} {len : ℕ} (h_s : KeepsPins s0 s) :
    KeepsPins s0 (nvSpoil s op a len) := by
  unfold nvSpoil
  repeat' first
    | with_reducible assumption | with_reducible apply forRange_keeps | with_reducible apply flashPut_keepsPins
    | with_reducible apply takeFree_keepsPins | intro _ | split

theorem nvDone_keepsPins {s0 : State} {s : State} {err : FlashErr} (h_s : KeepsPins s0 s) :
    KeepsPins s0 (nvDone s err) := by
  unfold nvDone
  repeat' first
    | with_reducible assumption | with_reducible apply raiseIrq_keepsPins | with_reducible apply setF_keepsPins
    | with_reducible apply setB_keepsPins | with_reducible apply nvSpoil_keepsPins | with_reducible apply nvEffect_keepsPins | split
    | dsimp only | with_reducible apply KeepsPins.pwrgood | with_reducible apply KeepsPins.resetN
    | with_reducible apply KeepsPins.testEn | with_reducible apply KeepsPins.domid
    | with_reducible apply KeepsPins.mbusSel | with_reducible apply KeepsPins.start
    | (refine KeepsPins.mk ?_ ?_ ?_ ?_ ?_ ?_ <;> dsimp only)

theorem fwExpiry_keepsPins {s0 : State} {s : State} (h_s : KeepsPins s0 s) :
    KeepsPins s0 (fwExpiry s) := by
  unfold fwExpiry
  repeat' first
    | with_reducible assumption | with_reducible apply logEv_keepsPins | with_reducible apply setF_keepsPins
    | with_reducible apply moduleFault_keepsPins | with_reducible apply bootStop_keepsPins | split | dsimp only
    | with_reducible apply KeepsPins.pwrgood | with_reducible apply KeepsPins.resetN
    | with_reducible apply KeepsPins.testEn | with_reducible apply KeepsPins.domid
    | with_reducible apply KeepsPins.mbusSel | with_reducible apply KeepsPins.start
    | (refine KeepsPins.mk ?_ ?_ ?_ ?_ ?_ ?_ <;> dsimp only)

theorem fillRestart_keepsPins {s0 : State} {s : State} (h_s : KeepsPins s0 s) :
    KeepsPins s0 (fillRestart s) := by
  unfold fillRestart
  repeat' first
    | with_reducible assumption | with_reducible apply logChip_keepsPins | intro _ | split

theorem watchdog_keepsPins {s0 : State} {s : State} (h_s : KeepsPins s0 s) :
    KeepsPins s0 (watchdog s) := by
  unfold watchdog
  repeat' first
    | with_reducible assumption | with_reducible apply fillRestart_keepsPins | with_reducible apply fwExpiry_keepsPins
    | with_reducible apply advanceTo_keepsPins

theorem mctp_keepsPins {s0 : State} {s : State} {x1 : MctpReq} (h_s : KeepsPins s0 s) :
    KeepsPins s0 (mctp s x1) := by
  unfold mctp
  repeat' first
    | with_reducible assumption | with_reducible apply emit_keepsPins | with_reducible apply wrCapW_keepsPins | split

/-! ### LinkCmd -/

theorem sendIdle_keepsPins {s0 : State} {s : State} {p : ℕ} (h_s : KeepsPins s0 s) :
    KeepsPins s0 (sendIdle s p) := by
  unfold sendIdle
  repeat' first
    | with_reducible assumption | with_reducible apply setLinkPort_keepsPins | intro _ | split | dsimp only
    | with_reducible apply KeepsPins.pwrgood | with_reducible apply KeepsPins.resetN
    | with_reducible apply KeepsPins.testEn | with_reducible apply KeepsPins.domid
    | with_reducible apply KeepsPins.mbusSel | with_reducible apply KeepsPins.start
    | (refine KeepsPins.mk ?_ ?_ ?_ ?_ ?_ ?_ <;> dsimp only)

theorem takeHeader_keepsPins {s0 : State} {s : State} {p : ℕ} {h : LinkHdr} (h_s : KeepsPins s0 s) :
    KeepsPins s0 (takeHeader s p h) := by
  unfold takeHeader
  repeat' first
    | with_reducible assumption | with_reducible apply setLinkPort_keepsPins

theorem countRetry_keepsPins {s0 : State} {s : State} {k : Packet} (h_s : KeepsPins s0 s) :
    KeepsPins s0 (countRetry s k) := by
  unfold countRetry
  repeat' first
    | with_reducible assumption | intro _ | split | dsimp only | with_reducible apply KeepsPins.pwrgood
    | with_reducible apply KeepsPins.resetN | with_reducible apply KeepsPins.testEn
    | with_reducible apply KeepsPins.domid | with_reducible apply KeepsPins.mbusSel
    | with_reducible apply KeepsPins.start | (refine KeepsPins.mk ?_ ?_ ?_ ?_ ?_ ?_ <;> dsimp only)

theorem replayPort_keepsPins {s0 : State} {s : State} {p : ℕ} (h_s : KeepsPins s0 s) :
    KeepsPins s0 (replayPort s p) := by
  unfold replayPort
  repeat' first
    | with_reducible assumption | with_reducible apply setF_keepsPins | with_reducible apply setLinkPort_keepsPins
    | with_reducible apply countRetry_keepsPins | with_reducible apply countNd_keepsPins | with_reducible apply requestAct_keepsPins
    | with_reducible apply takePortDown_keepsPins | with_reducible apply logLink_keepsPins | intro _ | split | dsimp only
    | exact rfl | with_reducible apply KeepsPins.pwrgood | with_reducible apply KeepsPins.resetN
    | with_reducible apply KeepsPins.testEn | with_reducible apply KeepsPins.domid
    | with_reducible apply KeepsPins.mbusSel | with_reducible apply KeepsPins.start
    | (refine KeepsPins.mk ?_ ?_ ?_ ?_ ?_ ?_ <;> dsimp only)

theorem onHeader_keepsPins {s0 : State} {s : State} {p : ℕ} {h : LinkHdr} {nak : Bool} (h_s : KeepsPins s0 s) :
    KeepsPins s0 (onHeader s p h nak) := by
  unfold onHeader
  repeat' first
    | with_reducible assumption | with_reducible apply drainPort_keepsPins | with_reducible apply takeHeader_keepsPins
    | with_reducible apply replayPort_keepsPins | split

theorem refusePacket_keepsPins {s0 : State} {s : State} {p : ℕ} (h_s : KeepsPins s0 s) :
    KeepsPins s0 (refusePacket s p) := by
  unfold refusePacket
  repeat' first
    | with_reducible assumption | with_reducible apply sendIdle_keepsPins | with_reducible apply setLinkPort_keepsPins

theorem receive_keepsPins {s0 : State} {s : State} {p : ℕ} {k : Packet} {deliver : State → State} (h_s : KeepsPins s0 s) (h_deliver : (∀ y0, KeepsPins s0 y0 → KeepsPins s0 (deliver y0))) :
    KeepsPins s0 (receive s p k deliver) := by
  unfold receive
  repeat' first
    | with_reducible assumption | with_reducible apply h_deliver | with_reducible apply routeOut_keepsPins
    | with_reducible apply sendIdle_keepsPins | with_reducible apply bump_keepsPins | with_reducible apply setLinkPort_keepsPins
    | with_reducible apply onHeader_keepsPins | with_reducible apply logLink_keepsPins | with_reducible apply refusePacket_keepsPins
    | split | dsimp only

theorem keepEarly_keepsPins {s0 : State} {k : Packet} {s : State} (h_s : KeepsPins s0 s) :
    KeepsPins s0 (keepEarly k s) := by
  unfold keepEarly
  repeat' first
    | with_reducible assumption | dsimp only | with_reducible apply KeepsPins.pwrgood
    | with_reducible apply KeepsPins.resetN | with_reducible apply KeepsPins.testEn
    | with_reducible apply KeepsPins.domid | with_reducible apply KeepsPins.mbusSel
    | with_reducible apply KeepsPins.start | (refine KeepsPins.mk ?_ ?_ ?_ ?_ ?_ ?_ <;> dsimp only)

theorem reply_keepsPins {s0 : State} {s : State} {type : ℕ} {vc : ℕ} {len : ℕ} {destL : ℕ} {tag : ℕ} {offset : ℕ} {body : Body} (h_s : KeepsPins s0 s) :
    KeepsPins s0 (reply s type vc len destL tag offset body) := by
  unfold reply
  repeat' first
    | with_reducible assumption | with_reducible apply inject_keepsPins

theorem takeData_keepsPins {s0 : State} {k : Packet} {s : State} (h_s : KeepsPins s0 s) :
    KeepsPins s0 (takeData k s) := by
  unfold takeData
  repeat' first
    | with_reducible assumption | with_reducible apply reply_keepsPins | with_reducible apply putBytes_keepsPins
    | with_reducible apply forRange_keeps | with_reducible apply poisonAt_keepsPins | with_reducible apply keepEarly_keepsPins
    | intro _ | split | dsimp only

theorem takeRts_keepsPins {s0 : State} {k : Packet} {s : State} (h_s : KeepsPins s0 s) :
    KeepsPins s0 (takeRts k s) := by
  unfold takeRts
  repeat' first
    | with_reducible assumption | split | dsimp only | with_reducible apply KeepsPins.pwrgood
    | with_reducible apply KeepsPins.resetN | with_reducible apply KeepsPins.testEn
    | with_reducible apply KeepsPins.domid | with_reducible apply KeepsPins.mbusSel
    | with_reducible apply KeepsPins.start | (refine KeepsPins.mk ?_ ?_ ?_ ?_ ?_ ?_ <;> dsimp only)

theorem takeCts_keepsPins {s0 : State} {k : Packet} {s : State} (h_s : KeepsPins s0 s) :
    KeepsPins s0 (takeCts k s) := by
  unfold takeCts
  repeat' first
    | with_reducible assumption | with_reducible apply keepEarly_keepsPins | intro _ | split | dsimp only
    | with_reducible apply KeepsPins.pwrgood | with_reducible apply KeepsPins.resetN
    | with_reducible apply KeepsPins.testEn | with_reducible apply KeepsPins.domid
    | with_reducible apply KeepsPins.mbusSel | with_reducible apply KeepsPins.start
    | (refine KeepsPins.mk ?_ ?_ ?_ ?_ ?_ ?_ <;> dsimp only)

theorem takeTee_keepsPins {s0 : State} {k : Packet} {s : State} (h_s : KeepsPins s0 s) :
    KeepsPins s0 (takeTee k s) := by
  unfold takeTee
  repeat' first
    | with_reducible assumption | with_reducible apply keepEarly_keepsPins | with_reducible apply reply_keepsPins | split

theorem takeMaint_keepsPins {s0 : State} {k : Packet} {s : State} (h_s : KeepsPins s0 s) :
    KeepsPins s0 (takeMaint k s) := by
  unfold takeMaint
  repeat' first
    | with_reducible assumption | with_reducible apply emit_keepsPins | dsimp only | with_reducible apply KeepsPins.pwrgood
    | with_reducible apply KeepsPins.resetN | with_reducible apply KeepsPins.testEn
    | with_reducible apply KeepsPins.domid | with_reducible apply KeepsPins.mbusSel
    | with_reducible apply KeepsPins.start | (refine KeepsPins.mk ?_ ?_ ?_ ?_ ?_ ?_ <;> dsimp only)

theorem refMismatch_keepsPins {s0 : State} {s : State} {p : ℕ} (h_s : KeepsPins s0 s) :
    KeepsPins s0 (refMismatch s p) := by
  unfold refMismatch
  repeat' first
    | with_reducible assumption | with_reducible apply setB_keepsPins | with_reducible apply logEv_keepsPins | split
    | dsimp only | with_reducible apply KeepsPins.pwrgood | with_reducible apply KeepsPins.resetN
    | with_reducible apply KeepsPins.testEn | with_reducible apply KeepsPins.domid
    | with_reducible apply KeepsPins.mbusSel | with_reducible apply KeepsPins.start
    | (refine KeepsPins.mk ?_ ?_ ?_ ?_ ?_ ?_ <;> dsimp only)

theorem raisePort_keepsPins {s0 : State} {s : State} {p : ℕ} {t : TrainInfo} (h_s : KeepsPins s0 s) :
    KeepsPins s0 (raisePort s p t) := by
  unfold raisePort
  repeat' first
    | with_reducible assumption | with_reducible apply drainPort_keepsPins | with_reducible apply endAct_keepsPins
    | with_reducible apply logLink_keepsPins | with_reducible apply setLinkPort_keepsPins | with_reducible apply setB_keepsPins
    | with_reducible apply setReg_keepsPins | with_reducible apply refMismatch_keepsPins | split

theorem linkUp_keepsPins {s0 : State} {s : State} {p : ℕ} {t : TrainInfo} (h_s : KeepsPins s0 s) :
    KeepsPins s0 (linkUp s p t) := by
  unfold linkUp
  repeat' first
    | with_reducible assumption | with_reducible apply raisePort_keepsPins | with_reducible apply setReg_keepsPins
    | with_reducible apply setF_keepsPins | with_reducible apply logLink_keepsPins | with_reducible apply setB_keepsPins | split
    | dsimp only

theorem wrLinkEnable_keepsPins {s0 : State} {s : State} {p : ℕ} {en : Bool} (h_s : KeepsPins s0 s) :
    KeepsPins s0 (wrLinkEnable s p en) := by
  unfold wrLinkEnable
  repeat' first
    | with_reducible assumption | with_reducible apply setLinkPort_keepsPins | with_reducible apply takePortDown_keepsPins
    | with_reducible apply setB_keepsPins | split

theorem wrGroup_keepsPins {s0 : State} {s : State} {g : ℕ} {b : Bool} {v : Word} (h_s : KeepsPins s0 s) :
    KeepsPins s0 (wrGroup s g b v) := by
  unfold wrGroup
  repeat' first
    | with_reducible assumption | with_reducible apply setReg_keepsPins | with_reducible apply logLink_keepsPins | intro _
    | split | dsimp only

theorem collTimeout_keepsPins {s0 : State} {s : State} {x : FrondRef} (h_s : KeepsPins s0 s) :
    KeepsPins s0 (collTimeout s x) := by
  unfold collTimeout
  repeat' first
    | with_reducible assumption | with_reducible apply withdrawArrival_keepsPins | with_reducible apply stopFrond_keepsPins
    | with_reducible apply logFrond_keepsPins | intro _ | split | dsimp only | with_reducible apply KeepsPins.pwrgood
    | with_reducible apply KeepsPins.resetN | with_reducible apply KeepsPins.testEn
    | with_reducible apply KeepsPins.domid | with_reducible apply KeepsPins.mbusSel
    | with_reducible apply KeepsPins.start | (refine KeepsPins.mk ?_ ?_ ?_ ?_ ?_ ?_ <;> dsimp only)

theorem teeFail_keepsPins {s0 : State} {s : State} {r : ℕ} {k : ℕ} (h_s : KeepsPins s0 s) :
    KeepsPins s0 (teeFail s r k) := by
  unfold teeFail
  repeat' first
    | with_reducible assumption | with_reducible apply logQueue_keepsPins | intro _ | split | dsimp only
    | with_reducible apply KeepsPins.pwrgood | with_reducible apply KeepsPins.resetN
    | with_reducible apply KeepsPins.testEn | with_reducible apply KeepsPins.domid
    | with_reducible apply KeepsPins.mbusSel | with_reducible apply KeepsPins.start
    | (refine KeepsPins.mk ?_ ?_ ?_ ?_ ?_ ?_ <;> dsimp only)

theorem takeColl_keepsPins {s0 : State} {k : Packet} {s : State} (h_s : KeepsPins s0 s) :
    KeepsPins s0 (takeColl k s) := by
  unfold takeColl
  repeat' first
    | with_reducible assumption | with_reducible apply runGhosts_keepsPins | with_reducible apply ghostFrom_keepsPins
    | with_reducible apply keepEarly_keepsPins

/-! ### Barrier -/

theorem giveBeat_keepsPins {s0 : State} {s : State} {f : Frond} {t : ℕ} (h_s : KeepsPins s0 s) :
    KeepsPins s0 (giveBeat s f t) := by
  unfold giveBeat
  repeat' first
    | with_reducible assumption | with_reducible apply putFrond_keepsPins | with_reducible apply logFrond_keepsPins | split

theorem checkLocal_keepsPins {s0 : State} {s : State} {key : ℕ} (h_s : KeepsPins s0 s) :
    KeepsPins s0 (checkLocal s key) := by
  unfold checkLocal
  repeat' first
    | with_reducible assumption | with_reducible apply foldl_keeps | with_reducible apply putFrond_keepsPins | intro _
    | split | dsimp only | with_reducible apply KeepsPins.pwrgood | with_reducible apply KeepsPins.resetN
    | with_reducible apply KeepsPins.testEn | with_reducible apply KeepsPins.domid
    | with_reducible apply KeepsPins.mbusSel | with_reducible apply KeepsPins.start
    | (refine KeepsPins.mk ?_ ?_ ?_ ?_ ?_ ?_ <;> dsimp only)

theorem arriveLocal_keepsPins {s0 : State} {s : State} {f : Frond} (h_s : KeepsPins s0 s) :
    KeepsPins s0 (arriveLocal s f) := by
  unfold arriveLocal
  repeat' first
    | with_reducible assumption | with_reducible apply checkLocal_keepsPins | with_reducible apply putFrond_keepsPins
    | dsimp only | with_reducible apply KeepsPins.pwrgood | with_reducible apply KeepsPins.resetN
    | with_reducible apply KeepsPins.testEn | with_reducible apply KeepsPins.domid
    | with_reducible apply KeepsPins.mbusSel | with_reducible apply KeepsPins.start
    | (refine KeepsPins.mk ?_ ?_ ?_ ?_ ?_ ?_ <;> dsimp only)

theorem jobLost_keepsPins {s0 : State} {s : State} (h_s : KeepsPins s0 s) :
    KeepsPins s0 (jobLost s) := by
  unfold jobLost
  repeat' first
    | with_reducible assumption | with_reducible apply logChip_keepsPins | split | dsimp only
    | with_reducible apply KeepsPins.pwrgood | with_reducible apply KeepsPins.resetN
    | with_reducible apply KeepsPins.testEn | with_reducible apply KeepsPins.domid
    | with_reducible apply KeepsPins.mbusSel | with_reducible apply KeepsPins.start
    | (refine KeepsPins.mk ?_ ?_ ?_ ?_ ?_ ?_ <;> dsimp only)

theorem takeRelease_keepsPins {s0 : State} {s : State} {id : ℕ} {t : ℕ} {drops : List ℕ} (h_s : KeepsPins s0 s) :
    KeepsPins s0 (takeRelease s id t drops) := by
  unfold takeRelease
  repeat' first
    | with_reducible assumption | with_reducible apply foldl_keeps | with_reducible apply giveBeat_keepsPins | intro _
    | split | dsimp only | with_reducible apply KeepsPins.pwrgood | with_reducible apply KeepsPins.resetN
    | with_reducible apply KeepsPins.testEn | with_reducible apply KeepsPins.domid
    | with_reducible apply KeepsPins.mbusSel | with_reducible apply KeepsPins.start
    | (refine KeepsPins.mk ?_ ?_ ?_ ?_ ?_ ?_ <;> dsimp only)

theorem checkRoot_keepsPins {s0 : State} {s : State} {g : ℕ} {id : ℕ} (h_s : KeepsPins s0 s) :
    KeepsPins s0 (checkRoot s g id) := by
  unfold checkRoot
  repeat' first
    | with_reducible assumption | with_reducible apply takeRelease_keepsPins | with_reducible apply foldl_keeps
    | with_reducible apply reply_keepsPins | with_reducible apply jobLost_keepsPins | intro _ | split | dsimp only
    | with_reducible apply KeepsPins.pwrgood | with_reducible apply KeepsPins.resetN
    | with_reducible apply KeepsPins.testEn | with_reducible apply KeepsPins.domid
    | with_reducible apply KeepsPins.mbusSel | with_reducible apply KeepsPins.start
    | (refine KeepsPins.mk ?_ ?_ ?_ ?_ ?_ ?_ <;> dsimp only)

theorem putArrival_keepsPins {s0 : State} {s : State} {id : ℕ} {rank : ℕ} {lvl : ℕ} {fresh : Bool} (h_s : KeepsPins s0 s) :
    KeepsPins s0 (putArrival s id rank lvl fresh) := by
  unfold putArrival
  repeat' first
    | with_reducible assumption | intro _ | dsimp only | with_reducible apply KeepsPins.pwrgood
    | with_reducible apply KeepsPins.resetN | with_reducible apply KeepsPins.testEn
    | with_reducible apply KeepsPins.domid | with_reducible apply KeepsPins.mbusSel
    | with_reducible apply KeepsPins.start | (refine KeepsPins.mk ?_ ?_ ?_ ?_ ?_ ?_ <;> dsimp only)

theorem arriveRank_keepsPins {s0 : State} {s : State} {g : ℕ} {id : ℕ} {rank : ℕ} {fresh : Bool} (h_s : KeepsPins s0 s) :
    KeepsPins s0 (arriveRank s g id rank fresh) := by
  unfold arriveRank
  repeat' first
    | with_reducible assumption | with_reducible apply reply_keepsPins | with_reducible apply putArrival_keepsPins | split
    | dsimp only

theorem arriveFor_keepsPins {s0 : State} {s : State} {g : ℕ} {id : ℕ} {f : Frond} (h_s : KeepsPins s0 s) :
    KeepsPins s0 (arriveFor s g id f) := by
  unfold arriveFor
  repeat' first
    | with_reducible assumption | with_reducible apply arriveRank_keepsPins | split

theorem arriveGroup_keepsPins {s0 : State} {s : State} {f : Frond} (h_s : KeepsPins s0 s) :
    KeepsPins s0 (arriveGroup s f) := by
  unfold arriveGroup
  repeat' first
    | with_reducible assumption | with_reducible apply arriveFor_keepsPins | with_reducible apply checkRoot_keepsPins | split
    | dsimp only

theorem barrierArrive_keepsPins {s0 : State} {s : State} {f : Frond} (h_s : KeepsPins s0 s) :
    KeepsPins s0 (barrierArrive s f) := by
  unfold barrierArrive
  repeat' first
    | with_reducible assumption | with_reducible apply arriveGroup_keepsPins | with_reducible apply putFrond_keepsPins
    | with_reducible apply arriveLocal_keepsPins | split

theorem resendArrivals_keepsPins {s0 : State} {s : State} (h_s : KeepsPins s0 s) :
    KeepsPins s0 (resendArrivals s) := by
  unfold resendArrivals
  repeat' first
    | with_reducible assumption | with_reducible apply foldl_keeps | with_reducible apply arriveGroup_keepsPins

theorem takeArrive_keepsPins {s0 : State} {k : Packet} {s : State} (h_s : KeepsPins s0 s) :
    KeepsPins s0 (takeArrive k s) := by
  unfold takeArrive
  repeat' first
    | with_reducible assumption | with_reducible apply putArrival_keepsPins | with_reducible apply checkRoot_keepsPins | split
    | dsimp only

theorem takeBarRelease_keepsPins {s0 : State} {k : Packet} {s : State} (h_s : KeepsPins s0 s) :
    KeepsPins s0 (takeBarRelease k s) := by
  unfold takeBarRelease
  repeat' first
    | with_reducible assumption | with_reducible apply takeRelease_keepsPins | split

theorem wrAliasF_keepsPins {s0 : State} {s : State} {i : ℕ} {v : Word} (h_s : KeepsPins s0 s) :
    KeepsPins s0 (wrAliasF s i v) := by
  unfold wrAliasF
  repeat' first
    | with_reducible assumption | with_reducible apply setReg_keepsPins | with_reducible apply resendArrivals_keepsPins
    | with_reducible apply commitAlias_keepsPins | split

/-! ### Sync -/

theorem phaseNow_keepsPins {s0 : State} {s : State} (h_s : KeepsPins s0 s) :
    KeepsPins s0 ((phaseNow s).2) := by
  unfold phaseNow
  repeat' first
    | with_reducible assumption | with_reducible apply takeFree_keepsPins

theorem heartbeatSend_keepsPins {s0 : State} {s : State} (h_s : KeepsPins s0 s) :
    KeepsPins s0 (heartbeatSend s) := by
  unfold heartbeatSend
  repeat' first
    | with_reducible assumption | with_reducible apply sendAll_keepsPins | with_reducible apply phaseNow_keepsPins
    | with_reducible apply advanceTo_keepsPins

theorem setAligned_keepsPins {s0 : State} {s : State} (h_s : KeepsPins s0 s) :
    KeepsPins s0 (setAligned s) := by
  unfold setAligned
  repeat' first
    | with_reducible assumption | with_reducible apply setB_keepsPins | split

theorem judgeError_keepsPins {s0 : State} {s : State} {p : ℕ} {err : ℤ} (h_s : KeepsPins s0 s) :
    KeepsPins s0 (judgeError s p err) := by
  unfold judgeError
  repeat' first
    | with_reducible assumption | with_reducible apply setAligned_keepsPins | with_reducible apply setB_keepsPins
    | with_reducible apply logCanary_keepsPins | split

theorem takeHeartbeat_keepsPins {s0 : State} {p : ℕ} {k : Packet} {err : ℤ} {s : State} (h_s : KeepsPins s0 s) :
    KeepsPins s0 (takeHeartbeat p k err s) := by
  unfold takeHeartbeat
  repeat' first
    | with_reducible assumption | with_reducible apply setLinkPort_keepsPins | with_reducible apply judgeError_keepsPins | split
    | dsimp only

theorem alignOut_keepsPins {s0 : State} {s : State} {from_ : Option ℕ} (h_s : KeepsPins s0 s) :
    KeepsPins s0 (alignOut s from_) := by
  unfold alignOut
  repeat' first
    | with_reducible assumption | with_reducible apply forRange_keeps | with_reducible apply sendOn_keepsPins
    | with_reducible apply phaseNow_keepsPins | intro _ | split | dsimp only

theorem takeAlign_keepsPins {s0 : State} {p : ℕ} {k : Packet} {s : State} (h_s : KeepsPins s0 s) :
    KeepsPins s0 (takeAlign p k s) := by
  unfold takeAlign
  repeat' first
    | with_reducible assumption | with_reducible apply alignOut_keepsPins | with_reducible apply setAligned_keepsPins
    | with_reducible apply setF_keepsPins | with_reducible apply setReg_keepsPins | split

/-! ### Fail -/

theorem setFailState_keepsPins {s0 : State} {s : State} {n : ℕ} (h_s : KeepsPins s0 s) :
    KeepsPins s0 (setFailState s n) := by
  unfold setFailState
  repeat' first
    | with_reducible assumption | with_reducible apply raiseIrq_keepsPins | with_reducible apply setF_keepsPins | split

theorem sendReady_keepsPins {s0 : State} {s : State} {dest : ℕ} {kind : ℕ} {value : ℕ} {value2 : ℕ} {domain : ℕ} {board : ℕ} (h_s : KeepsPins s0 s) :
    KeepsPins s0 (sendReady s dest kind value value2 domain board) := by
  unfold sendReady
  repeat' first
    | with_reducible assumption | with_reducible apply reply_keepsPins

theorem refusePair_keepsPins {s0 : State} {s : State} {refused : ℕ} {code : ℕ} {pay : ℕ} (h_s : KeepsPins s0 s) :
    KeepsPins s0 (refusePair s refused code pay) := by
  unfold refusePair
  repeat' first
    | with_reducible assumption | with_reducible apply setFailState_keepsPins | with_reducible apply logChip_keepsPins
    | with_reducible apply setF_keepsPins

theorem judgeSync_keepsPins {s0 : State} {s : State} {sender : ℕ} {value : ℕ} {value2 : ℕ} {domain : ℕ} {board : ℕ} (h_s : KeepsPins s0 s) :
    KeepsPins s0 (judgeSync s sender value value2 domain board) := by
  unfold judgeSync
  repeat' first
    | with_reducible assumption | with_reducible apply setFailState_keepsPins | with_reducible apply logChip_keepsPins
    | with_reducible apply setF_keepsPins | with_reducible apply refusePair_keepsPins | with_reducible apply setB_keepsPins
    | with_reducible apply takeFree_keepsPins | split | dsimp only | with_reducible apply KeepsPins.pwrgood
    | with_reducible apply KeepsPins.resetN | with_reducible apply KeepsPins.testEn
    | with_reducible apply KeepsPins.domid | with_reducible apply KeepsPins.mbusSel
    | with_reducible apply KeepsPins.start | (refine KeepsPins.mk ?_ ?_ ?_ ?_ ?_ ?_ <;> dsimp only)

theorem takeSync_keepsPins {s0 : State} {k : Packet} {s : State} (h_s : KeepsPins s0 s) :
    KeepsPins s0 (takeSync k s) := by
  unfold takeSync
  repeat' first
    | with_reducible assumption | with_reducible apply keepEarly_keepsPins | with_reducible apply judgeSync_keepsPins | split

theorem armTables_keepsPins {s0 : State} {s : State} (h_s : KeepsPins s0 s) :
    KeepsPins s0 (armTables s) := by
  unfold armTables
  repeat' first
    | with_reducible assumption | with_reducible apply forRange_keeps | with_reducible apply setB_keepsPins | intro _

theorem armNow_keepsPins {s0 : State} {s : State} (h_s : KeepsPins s0 s) :
    KeepsPins s0 (armNow s) := by
  unfold armNow
  repeat' first
    | with_reducible assumption | with_reducible apply setFailState_keepsPins | with_reducible apply armTables_keepsPins
    | with_reducible apply foldl_keeps | with_reducible apply takeSync_keepsPins | with_reducible apply sendReady_keepsPins
    | intro _ | split | dsimp only | with_reducible apply KeepsPins.pwrgood | with_reducible apply KeepsPins.resetN
    | with_reducible apply KeepsPins.testEn | with_reducible apply KeepsPins.domid
    | with_reducible apply KeepsPins.mbusSel | with_reducible apply KeepsPins.start
    | (refine KeepsPins.mk ?_ ?_ ?_ ?_ ?_ ?_ <;> dsimp only)

theorem wrFailCtrl_keepsPins {s0 : State} {s : State} {m : Master} {v : Word} (h_s : KeepsPins s0 s) :
    KeepsPins s0 (wrFailCtrl s m v) := by
  unfold wrFailCtrl
  repeat' first
    | with_reducible assumption | with_reducible apply setB_keepsPins | with_reducible apply logMaster_keepsPins
    | with_reducible apply setFailState_keepsPins | with_reducible apply armNow_keepsPins | split | dsimp only

theorem partnerAbsent_keepsPins {s0 : State} {s : State} (h_s : KeepsPins s0 s) :
    KeepsPins s0 (partnerAbsent s) := by
  unfold partnerAbsent
  repeat' first
    | with_reducible assumption | with_reducible apply refusePair_keepsPins | with_reducible apply advanceTo_keepsPins | split
    | dsimp only | with_reducible apply KeepsPins.pwrgood | with_reducible apply KeepsPins.resetN
    | with_reducible apply KeepsPins.testEn | with_reducible apply KeepsPins.domid
    | with_reducible apply KeepsPins.mbusSel | with_reducible apply KeepsPins.start
    | (refine KeepsPins.mk ?_ ?_ ?_ ?_ ?_ ?_ <;> dsimp only)

theorem takeColdDirty_keepsPins {s0 : State} {k : Packet} {s : State} (h_s : KeepsPins s0 s) :
    KeepsPins s0 (takeColdDirty k s) := by
  unfold takeColdDirty
  repeat' first
    | with_reducible assumption | with_reducible apply sendReady_keepsPins | with_reducible apply setB_keepsPins | split
    | dsimp only

theorem dirtyNow_keepsPins {s0 : State} {s : State} {i : ℕ} (h_s : KeepsPins s0 s) :
    KeepsPins s0 (dirtyNow s i) := by
  unfold dirtyNow
  repeat' first
    | with_reducible assumption | with_reducible apply setB_keepsPins | intro _ | dsimp only
    | with_reducible apply KeepsPins.pwrgood | with_reducible apply KeepsPins.resetN
    | with_reducible apply KeepsPins.testEn | with_reducible apply KeepsPins.domid
    | with_reducible apply KeepsPins.mbusSel | with_reducible apply KeepsPins.start
    | (refine KeepsPins.mk ?_ ?_ ?_ ?_ ?_ ?_ <;> dsimp only)

theorem takeDirtyAck_keepsPins {s0 : State} {k : Packet} {s : State} (h_s : KeepsPins s0 s) :
    KeepsPins s0 (takeDirtyAck k s) := by
  unfold takeDirtyAck
  repeat' first
    | with_reducible assumption | with_reducible apply bump_keepsPins | with_reducible apply dirtyNow_keepsPins | split

theorem unprotected_keepsPins {s0 : State} {s : State} {i : ℕ} (h_s : KeepsPins s0 s) :
    KeepsPins s0 (unprotected s i) := by
  unfold unprotected
  repeat' first
    | with_reducible assumption | with_reducible apply logChip_keepsPins | with_reducible apply dirtyNow_keepsPins
    | with_reducible apply advanceTo_keepsPins | split | dsimp only | with_reducible apply KeepsPins.pwrgood
    | with_reducible apply KeepsPins.resetN | with_reducible apply KeepsPins.testEn
    | with_reducible apply KeepsPins.domid | with_reducible apply KeepsPins.mbusSel
    | with_reducible apply KeepsPins.start | (refine KeepsPins.mk ?_ ?_ ?_ ?_ ?_ ?_ <;> dsimp only)

theorem judgeDigest_keepsPins {s0 : State} {s : State} {own : ℕ} {shadow : ℕ} (h_s : KeepsPins s0 s) :
    KeepsPins s0 (judgeDigest s own shadow) := by
  unfold judgeDigest
  repeat' first
    | with_reducible assumption | with_reducible apply setFailState_keepsPins | with_reducible apply logChip_keepsPins | split
    | dsimp only | with_reducible apply KeepsPins.pwrgood | with_reducible apply KeepsPins.resetN
    | with_reducible apply KeepsPins.testEn | with_reducible apply KeepsPins.domid
    | with_reducible apply KeepsPins.mbusSel | with_reducible apply KeepsPins.start
    | (refine KeepsPins.mk ?_ ?_ ?_ ?_ ?_ ?_ <;> dsimp only)

theorem takeDigest_keepsPins {s0 : State} {k : Packet} {s : State} (h_s : KeepsPins s0 s) :
    KeepsPins s0 (takeDigest k s) := by
  unfold takeDigest
  repeat' first
    | with_reducible assumption | with_reducible apply judgeDigest_keepsPins | with_reducible apply keepEarly_keepsPins | split

theorem fence_keepsPins {s0 : State} {s : State} (h_s : KeepsPins s0 s) :
    KeepsPins s0 (fence s) := by
  unfold fence
  repeat' first
    | with_reducible assumption | with_reducible apply stopInFlight_keepsPins | with_reducible apply logChip_keepsPins
    | with_reducible apply setFailState_keepsPins | intro _ | split

theorem noteSeen_keepsPins {s0 : State} {s : State} {k : ℕ × ℕ × ℕ} (h_s : KeepsPins s0 s) :
    KeepsPins s0 (noteSeen s k) := by
  unfold noteSeen
  repeat' first
    | with_reducible assumption | dsimp only | with_reducible apply KeepsPins.pwrgood
    | with_reducible apply KeepsPins.resetN | with_reducible apply KeepsPins.testEn
    | with_reducible apply KeepsPins.domid | with_reducible apply KeepsPins.mbusSel
    | with_reducible apply KeepsPins.start | (refine KeepsPins.mk ?_ ?_ ?_ ?_ ?_ ?_ <;> dsimp only)

theorem lossAliases_keepsPins {s0 : State} {s : State} {deadL : ℕ} {deadP : ℕ} {standin : ℕ} (h_s : KeepsPins s0 s) :
    (∀ y0, lossAliases s deadL deadP standin = some y0 → KeepsPins s0 y0) := by
  unfold lossAliases
  intro y hy
  split at hy
  · cases hy
  · split at hy
    · cases hy; exact setAlias_keepsPins h_s _ ‹_›
    · exact setAlias_keepsPins (setAlias_keepsPins h_s _ ‹_›) _ hy

theorem restartCollectives_keepsPins {s0 : State} {s : State} {deadL : ℕ} (h_s : KeepsPins s0 s) :
    KeepsPins s0 (restartCollectives s deadL) := by
  unfold restartCollectives
  repeat' first
    | with_reducible assumption | with_reducible apply foldl_keeps | with_reducible apply resendStep_keepsPins
    | with_reducible apply putFrond_keepsPins | with_reducible apply logFrond_keepsPins | with_reducible apply runGhosts_keepsPins
    | intro _

theorem startStandin_keepsPins {s0 : State} {s : State} {deadL : ℕ} {deadP : ℕ} {origin : ℕ} (h_s : KeepsPins s0 s) :
    KeepsPins s0 (startStandin s deadL deadP origin) := by
  unfold startStandin
  extract_lets s1 s2 f3 s3
  have h1 : KeepsPins s0 s1 := setReg_keepsPins h_s
  have h2 : KeepsPins s0 s2 := logChip_keepsPins (logChip_keepsPins (setFailState_keepsPins h1))
  have h3 : KeepsPins s0 s3 := congr_keepsPins h2 rfl rfl rfl rfl rfl rfl
  clear_value s3
  split
  · exact sendAll_keepsPins (noteSeen_keepsPins (congr_keepsPins h3 rfl rfl rfl rfl rfl rfl))
  · exact h3

theorem firstLoss_keepsPins {s0 : State} {s : State} {deadL : ℕ} {deadP : ℕ} {standin : ℕ} {origin : ℕ} {code : ℕ} (h_s : KeepsPins s0 s) :
    KeepsPins s0 (firstLoss s deadL deadP standin origin code) := by
  unfold firstLoss
  repeat' first
    | with_reducible assumption | with_reducible apply fence_keepsPins | with_reducible apply logChip_keepsPins
    | with_reducible apply resendArrivals_keepsPins | with_reducible apply restartCollectives_keepsPins
    | exact lossAliases_keepsPins ‹_› _ ‹_› | with_reducible apply setReg_keepsPins | with_reducible apply startStandin_keepsPins
    | with_reducible apply jobLost_keepsPins | split

theorem applyLoss_keepsPins {s0 : State} {s : State} {deadL : ℕ} {deadP : ℕ} {standin : ℕ} {origin : ℕ} {code : ℕ} {confirm : Bool} {rollback : Bool} (h_s : KeepsPins s0 s) :
    KeepsPins s0 (applyLoss s deadL deadP standin origin code confirm rollback) := by
  unfold applyLoss
  repeat' first
    | with_reducible assumption | with_reducible apply bump_keepsPins | with_reducible apply noteSeen_keepsPins
    | with_reducible apply firstLoss_keepsPins | with_reducible apply fence_keepsPins | intro _ | split | dsimp only
    | with_reducible apply KeepsPins.pwrgood | with_reducible apply KeepsPins.resetN
    | with_reducible apply KeepsPins.testEn | with_reducible apply KeepsPins.domid
    | with_reducible apply KeepsPins.mbusSel | with_reducible apply KeepsPins.start
    | (refine KeepsPins.mk ?_ ?_ ?_ ?_ ?_ ?_ <;> dsimp only)

theorem takeLoss_keepsPins {s0 : State} {p : ℕ} {k : Packet} {s : State} (h_s : KeepsPins s0 s) :
    KeepsPins s0 (takeLoss p k s) := by
  unfold takeLoss
  repeat' first
    | with_reducible assumption | with_reducible apply applyLoss_keepsPins | with_reducible apply sendAll_keepsPins | split

theorem declareLoss_keepsPins {s0 : State} {s : State} {p : ℕ} (h_s : KeepsPins s0 s) :
    KeepsPins s0 (declareLoss s p) := by
  unfold declareLoss
  repeat' first
    | with_reducible assumption | with_reducible apply applyLoss_keepsPins | with_reducible apply sendAll_keepsPins
    | with_reducible apply advanceTo_keepsPins | intro _ | split | dsimp only

theorem selfFence_keepsPins {s0 : State} {s : State} (h_s : KeepsPins s0 s) :
    KeepsPins s0 (selfFence s) := by
  unfold selfFence
  repeat' first
    | with_reducible assumption | with_reducible apply fence_keepsPins | with_reducible apply advanceTo_keepsPins | split

theorem claimGemma_keepsPins {s0 : State} {s : State} (h_s : KeepsPins s0 s) :
    KeepsPins s0 (claimGemma s) := by
  unfold claimGemma
  repeat' first
    | with_reducible assumption | with_reducible apply logChip_keepsPins | with_reducible apply inject_keepsPins | split
    | dsimp only | with_reducible apply KeepsPins.pwrgood | with_reducible apply KeepsPins.resetN
    | with_reducible apply KeepsPins.testEn | with_reducible apply KeepsPins.domid
    | with_reducible apply KeepsPins.mbusSel | with_reducible apply KeepsPins.start
    | (refine KeepsPins.mk ?_ ?_ ?_ ?_ ?_ ?_ <;> dsimp only)

theorem takeClaim_keepsPins {s0 : State} {k : Packet} {s : State} (h_s : KeepsPins s0 s) :
    KeepsPins s0 (takeClaim k s) := by
  unfold takeClaim
  repeat' first
    | with_reducible assumption | with_reducible apply sendReady_keepsPins | with_reducible apply setFailState_keepsPins | split
    | dsimp only | with_reducible apply KeepsPins.pwrgood | with_reducible apply KeepsPins.resetN
    | with_reducible apply KeepsPins.testEn | with_reducible apply KeepsPins.domid
    | with_reducible apply KeepsPins.mbusSel | with_reducible apply KeepsPins.start
    | (refine KeepsPins.mk ?_ ?_ ?_ ?_ ?_ ?_ <;> dsimp only)

theorem takeAccept_keepsPins {s0 : State} {k : Packet} {s : State} (h_s : KeepsPins s0 s) :
    KeepsPins s0 (takeAccept k s) := by
  unfold takeAccept
  repeat' first
    | with_reducible assumption | with_reducible apply logChip_keepsPins | with_reducible apply setReg_keepsPins
    | with_reducible apply setB_keepsPins | split | dsimp only | with_reducible apply KeepsPins.pwrgood
    | with_reducible apply KeepsPins.resetN | with_reducible apply KeepsPins.testEn
    | with_reducible apply KeepsPins.domid | with_reducible apply KeepsPins.mbusSel
    | with_reducible apply KeepsPins.start | (refine KeepsPins.mk ?_ ?_ ?_ ?_ ?_ ?_ <;> dsimp only)

theorem takeBusy_keepsPins {s0 : State} {k : Packet} {s : State} (h_s : KeepsPins s0 s) :
    KeepsPins s0 (takeBusy k s) := by
  unfold takeBusy
  repeat' first
    | with_reducible assumption | with_reducible apply claimGemma_keepsPins | with_reducible apply setB_keepsPins | split
    | dsimp only | with_reducible apply KeepsPins.pwrgood | with_reducible apply KeepsPins.resetN
    | with_reducible apply KeepsPins.testEn | with_reducible apply KeepsPins.domid
    | with_reducible apply KeepsPins.mbusSel | with_reducible apply KeepsPins.start
    | (refine KeepsPins.mk ?_ ?_ ?_ ?_ ?_ ?_ <;> dsimp only)

theorem fillDone_keepsPins {s0 : State} {s : State} (h_s : KeepsPins s0 s) :
    KeepsPins s0 (fillDone s) := by
  unfold fillDone
  repeat' first
    | with_reducible assumption | with_reducible apply logChip_keepsPins | with_reducible apply setB_keepsPins | split

theorem completeHandover_keepsPins {s0 : State} {s : State} {l : ℕ} {g : ℕ} (h_s : KeepsPins s0 s) :
    KeepsPins s0 (completeHandover s l g) := by
  unfold completeHandover
  extract_lets dead s1 s2
  have h1 : KeepsPins s0 s1 := getD_keeps (setAlias_keepsPins h_s) h_s
  have h2 : KeepsPins s0 s2 := by
    with_reducible apply forRange_keeps
    · intro i x hx
      split
      · exact setB_keepsPins hx
      · exact hx
    · exact h1
  exact resendArrivals_keepsPins (congr_keepsPins h2 rfl rfl rfl rfl rfl rfl)

theorem becomeMember_keepsPins {s0 : State} {s : State} {symbiontP : ℕ} (h_s : KeepsPins s0 s) :
    KeepsPins s0 (becomeMember s symbiontP) := by
  unfold becomeMember
  repeat' first
    | with_reducible assumption | with_reducible apply forRange_keeps | with_reducible apply wrEnable_keepsPins
    | with_reducible apply logChip_keepsPins | with_reducible apply setFailState_keepsPins | with_reducible apply setReg_keepsPins
    | intro _ | split | dsimp only | with_reducible apply KeepsPins.pwrgood | with_reducible apply KeepsPins.resetN
    | with_reducible apply KeepsPins.testEn | with_reducible apply KeepsPins.domid
    | with_reducible apply KeepsPins.mbusSel | with_reducible apply KeepsPins.start
    | (refine KeepsPins.mk ?_ ?_ ?_ ?_ ?_ ?_ <;> dsimp only)

theorem takeAdopt_keepsPins {s0 : State} {p : ℕ} {k : Packet} {s : State} (h_s : KeepsPins s0 s) :
    KeepsPins s0 (takeAdopt p k s) := by
  unfold takeAdopt
  repeat' first
    | with_reducible assumption | with_reducible apply noteSeen_keepsPins | with_reducible apply sendAll_keepsPins
    | with_reducible apply completeHandover_keepsPins | with_reducible apply becomeMember_keepsPins | split | dsimp only
    | with_reducible apply KeepsPins.pwrgood | with_reducible apply KeepsPins.resetN
    | with_reducible apply KeepsPins.testEn | with_reducible apply KeepsPins.domid
    | with_reducible apply KeepsPins.mbusSel | with_reducible apply KeepsPins.start
    | (refine KeepsPins.mk ?_ ?_ ?_ ?_ ?_ ?_ <;> dsimp only)

/-! ### RegWrite -/

theorem readAs_keepsPins {s0 : State} {s : State} {m : Master} {o : ℕ} {len : ℕ} (h_s : KeepsPins s0 s) :
    KeepsPins s0 ((readAs s m o len).1) := by
  unfold readAs
  repeat' first
    | with_reducible assumption | with_reducible apply logMaster_keepsPins | split

theorem plainWrite_keepsPins {s0 : State} {s : State} {row : RegRow} {o : ℕ} {x : RegWr} (h_s : KeepsPins s0 s) :
    KeepsPins s0 (plainWrite s row o x) := by
  unfold plainWrite
  repeat' first
    | with_reducible assumption | with_reducible apply setReg_keepsPins

theorem wrSys_keepsPins {s0 : State} {s : State} {m : Master} {row : RegRow} {k : ℕ} {x : RegWr} (h_s : KeepsPins s0 s) :
    KeepsPins s0 (wrSys s m row k x) := by
  unfold wrSys
  repeat' first
    | with_reducible assumption | with_reducible apply plainWrite_keepsPins | with_reducible apply rngRetry_keepsPins
    | with_reducible apply takeFree_keepsPins | with_reducible apply wrCapW_keepsPins | with_reducible apply setF_keepsPins
    | with_reducible apply wrMemcfg_keepsPins | split

theorem wrBeat_keepsPins {s0 : State} {s : State} {row : RegRow} {o : ℕ} {x : RegWr} (h_s : KeepsPins s0 s) :
    KeepsPins s0 (wrBeat s row o x) := by
  unfold wrBeat
  repeat' first
    | with_reducible assumption | with_reducible apply plainWrite_keepsPins | with_reducible apply setReg_keepsPins
    | with_reducible apply clearNd_keepsPins | split

theorem wrLog_keepsPins {s0 : State} {s : State} {row : RegRow} {o : ℕ} {x : RegWr} (h_s : KeepsPins s0 s) :
    KeepsPins s0 (wrLog s row o x) := by
  unfold wrLog
  repeat' first
    | with_reducible assumption | with_reducible apply plainWrite_keepsPins | with_reducible apply wrDrainTail_keepsPins
    | with_reducible apply wrRdSel_keepsPins | with_reducible apply wrLogTail_keepsPins | split

theorem wrMaint_keepsPins {s0 : State} {s : State} {row : RegRow} {o : ℕ} {x : RegWr} (h_s : KeepsPins s0 s) :
    KeepsPins s0 (wrMaint s row o x) := by
  unfold wrMaint
  repeat' first
    | with_reducible assumption | with_reducible apply plainWrite_keepsPins | with_reducible apply setF_keepsPins
    | with_reducible apply wrMaintReq_keepsPins | split

theorem wrFail_keepsPins {s0 : State} {s : State} {m : Master} {row : RegRow} {o : ℕ} {x : RegWr} (h_s : KeepsPins s0 s) :
    KeepsPins s0 (wrFail s m row o x) := by
  unfold wrFail
  repeat' first
    | with_reducible assumption | with_reducible apply plainWrite_keepsPins | with_reducible apply logMaster_keepsPins
    | with_reducible apply wrFailCtrl_keepsPins | split

theorem wrPke_keepsPins {s0 : State} {s : State} {row : RegRow} {o : ℕ} {x : RegWr} (h_s : KeepsPins s0 s) :
    KeepsPins s0 (wrPke s row o x) := by
  unfold wrPke
  repeat' first
    | with_reducible assumption | with_reducible apply plainWrite_keepsPins | with_reducible apply logPke_keepsPins
    | with_reducible apply pkeGo_keepsPins | split

theorem wrMgmt_keepsPins {s0 : State} {s : State} {m : Master} {row : RegRow} {o : ℕ} {x : RegWr} (h_s : KeepsPins s0 s) :
    KeepsPins s0 (wrMgmt s m row o x) := by
  unfold wrMgmt
  repeat' first
    | with_reducible assumption | with_reducible apply wrMboxData_keepsPins | with_reducible apply wrMboxCtl_keepsPins
    | with_reducible apply plainWrite_keepsPins | with_reducible apply wrSem_keepsPins | with_reducible apply setReg_keepsPins
    | split | dsimp only | with_reducible apply KeepsPins.pwrgood | with_reducible apply KeepsPins.resetN
    | with_reducible apply KeepsPins.testEn | with_reducible apply KeepsPins.domid
    | with_reducible apply KeepsPins.mbusSel | with_reducible apply KeepsPins.start
    | (refine KeepsPins.mk ?_ ?_ ?_ ?_ ?_ ?_ <;> dsimp only)

theorem wrNv_keepsPins {s0 : State} {s : State} {m : Master} {row : RegRow} {o : ℕ} {x : RegWr} (h_s : KeepsPins s0 s) :
    KeepsPins s0 (wrNv s m row o x) := by
  unfold wrNv
  repeat' first
    | with_reducible assumption | with_reducible apply plainWrite_keepsPins | with_reducible apply nvCommand_keepsPins | split

theorem wrTorus_keepsPins {s0 : State} {s : State} {m : Master} {v : Word} (h_s : KeepsPins s0 s) :
    KeepsPins s0 (wrTorus s m v) := by
  unfold wrTorus
  repeat' first
    | with_reducible assumption | with_reducible apply setF_keepsPins | with_reducible apply setB_keepsPins
    | with_reducible apply logMaster_keepsPins | split | dsimp only

theorem wrLink_keepsPins {s0 : State} {s : State} {m : Master} {row : RegRow} {n : ℕ} {o : ℕ} {x : RegWr} (h_s : KeepsPins s0 s) :
    KeepsPins s0 (wrLink s m row n o x) := by
  unfold wrLink
  repeat' first
    | with_reducible assumption | with_reducible apply plainWrite_keepsPins | with_reducible apply wrAliasF_keepsPins
    | with_reducible apply wrGroup_keepsPins | with_reducible apply setF_keepsPins | with_reducible apply wrTorus_keepsPins
    | with_reducible apply logMaster_keepsPins | with_reducible apply requestAct_keepsPins
    | with_reducible apply wrLinkEnable_keepsPins | split

theorem wrPcie_keepsPins {s0 : State} {s : State} {row : RegRow} {n : ℕ} {o : ℕ} {x : RegWr} (h_s : KeepsPins s0 s) :
    KeepsPins s0 (wrPcie s row n o x) := by
  unfold wrPcie
  repeat' first
    | with_reducible assumption | with_reducible apply plainWrite_keepsPins | with_reducible apply maskMwin_keepsPins | split

theorem wrTow_keepsPins {s0 : State} {s : State} {row : RegRow} {t : ℕ} {k : ℕ} {x : RegWr} (h_s : KeepsPins s0 s) :
    KeepsPins s0 (wrTow s row t k x) := by
  unfold wrTow
  repeat' first
    | with_reducible assumption | with_reducible apply plainWrite_keepsPins | with_reducible apply wrMargin_keepsPins
    | with_reducible apply wrPoisonOp_keepsPins | with_reducible apply wrRfsh_keepsPins | with_reducible apply wrQuiesce_keepsPins
    | split

theorem wrSeq_keepsPins {s0 : State} {s : State} {row : RegRow} {r : ℕ} {k : ℕ} {x : RegWr} (h_s : KeepsPins s0 s) :
    KeepsPins s0 (wrSeq s row r k x) := by
  unfold wrSeq
  repeat' first
    | with_reducible assumption | with_reducible apply plainWrite_keepsPins | with_reducible apply wrPreempt_keepsPins
    | with_reducible apply wrResume_keepsPins | with_reducible apply wrAbort_keepsPins | with_reducible apply wrCrtail_keepsPins
    | with_reducible apply wrQueueCfg_keepsPins | with_reducible apply wrQtail_keepsPins | split

theorem wrMat_keepsPins {s0 : State} {s : State} {m : Master} {row : RegRow} {r : ℕ} {k : ℕ} {x : RegWr} (h_s : KeepsPins s0 s) :
    KeepsPins s0 (wrMat s m row r k x) := by
  unfold wrMat
  repeat' first
    | with_reducible assumption | with_reducible apply plainWrite_keepsPins | with_reducible apply wrPclass_keepsPins
    | with_reducible apply wrCircPtr_keepsPins | with_reducible apply wrCirc_keepsPins | with_reducible apply wrHoff_keepsPins
    | with_reducible apply setF_keepsPins | with_reducible apply wrMatMode_keepsPins | split

theorem wrPeri_keepsPins {s0 : State} {s : State} {row : RegRow} {r : ℕ} {k : ℕ} {x : RegWr} (h_s : KeepsPins s0 s) :
    KeepsPins s0 (wrPeri s row r k x) := by
  unfold wrPeri
  repeat' first
    | with_reducible assumption | with_reducible apply plainWrite_keepsPins | with_reducible apply wrKsetBase_keepsPins
    | with_reducible apply ksetGo_keepsPins | with_reducible apply ksetClear_keepsPins | split

theorem writeReg_keepsPins {s0 : State} {s : State} {m : Master} {row : RegRow} {b : Blk} {o : ℕ} {x : RegWr} (h_s : KeepsPins s0 s) :
    KeepsPins s0 (writeReg s m row b o x) := by
  unfold writeReg
  repeat' first
    | with_reducible assumption | with_reducible apply wrSys_keepsPins | with_reducible apply wrBeat_keepsPins
    | with_reducible apply wrLog_keepsPins | with_reducible apply wrMaint_keepsPins | with_reducible apply wrFail_keepsPins
    | with_reducible apply wrPke_keepsPins | with_reducible apply wrMgmt_keepsPins | with_reducible apply wrNv_keepsPins
    | with_reducible apply wrLink_keepsPins | with_reducible apply wrPcie_keepsPins | with_reducible apply wrTow_keepsPins
    | with_reducible apply wrSeq_keepsPins | with_reducible apply wrMat_keepsPins | with_reducible apply plainWrite_keepsPins
    | with_reducible apply wrChcfg_keepsPins | with_reducible apply wrPeri_keepsPins | split | dsimp only

theorem writeAs_keepsPins {s0 : State} {s : State} {m : Master} {o : ℕ} {len : ℕ} {v : ℕ} (h_s : KeepsPins s0 s) :
    KeepsPins s0 (writeAs s m o len v) := by
  unfold writeAs
  repeat' first
    | with_reducible assumption | with_reducible apply writeReg_keepsPins | with_reducible apply logMaster_keepsPins | split

theorem hostRead_keepsPins {s0 : State} {s : State} {p : Fin 2} {bar : Bar} {a : ℕ} {n : ℕ} (h_s : KeepsPins s0 s) :
    KeepsPins s0 (hostRead s p bar a n) := by
  unfold hostRead
  repeat' first
    | with_reducible assumption | with_reducible apply emit_keepsPins | with_reducible apply readAs_keepsPins
    | with_reducible apply hostMemRead_keepsPins | with_reducible apply hold_keepsPins | split

theorem hostWrite_keepsPins {s0 : State} {s : State} {p : Fin 2} {bar : Bar} {a : ℕ} {d : List Byte} (h_s : KeepsPins s0 s) :
    KeepsPins s0 (hostWrite s p bar a d) := by
  unfold hostWrite
  repeat' first
    | with_reducible assumption | with_reducible apply gated_keepsPins | with_reducible apply writeAs_keepsPins
    | with_reducible apply hostMemWrite_keepsPins | with_reducible apply hold_keepsPins | with_reducible apply logMaster_keepsPins
    | intro _ | split

theorem doorbellRead_keepsPins {s0 : State} {s : State} {p : Fin 2} {o : ℕ} {n : ℕ} (h_s : KeepsPins s0 s) :
    KeepsPins s0 (doorbellRead s p o n) := by
  unfold doorbellRead
  repeat' first
    | with_reducible assumption | with_reducible apply hostRead_keepsPins | with_reducible apply emit_keepsPins | split

theorem doorbellWrite_keepsPins {s0 : State} {s : State} {p : Fin 2} {o : ℕ} {d : List Byte} (h_s : KeepsPins s0 s) :
    KeepsPins s0 (doorbellWrite s p o d) := by
  unfold doorbellWrite
  repeat' first
    | with_reducible assumption | with_reducible apply hostWrite_keepsPins | with_reducible apply sendPending_keepsPins
    | intro _ | split | dsimp only | with_reducible apply KeepsPins.pwrgood | with_reducible apply KeepsPins.resetN
    | with_reducible apply KeepsPins.testEn | with_reducible apply KeepsPins.domid
    | with_reducible apply KeepsPins.mbusSel | with_reducible apply KeepsPins.start
    | (refine KeepsPins.mk ?_ ?_ ?_ ?_ ?_ ?_ <;> dsimp only)

theorem barRead_keepsPins {s0 : State} {s : State} {p : Fin 2} {bar : Bar} {o : ℕ} {n : ℕ} (h_s : KeepsPins s0 s) :
    KeepsPins s0 (barRead s p bar o n) := by
  unfold barRead
  repeat' first
    | with_reducible assumption | with_reducible apply hostRead_keepsPins | with_reducible apply emit_keepsPins
    | with_reducible apply doorbellRead_keepsPins | split

theorem barWrite_keepsPins {s0 : State} {s : State} {p : Fin 2} {bar : Bar} {o : ℕ} {d : List Byte} (h_s : KeepsPins s0 s) :
    KeepsPins s0 (barWrite s p bar o d) := by
  unfold barWrite
  repeat' first
    | with_reducible assumption | with_reducible apply hostWrite_keepsPins | with_reducible apply doorbellWrite_keepsPins
    | split

theorem mgmtAccess_keepsPins {s0 : State} {s : State} {wr : Bool} {a : BitVec 40} {d : List Byte} {n : ℕ} (h_s : KeepsPins s0 s) :
    KeepsPins s0 (mgmtAccess s wr a d n) := by
  unfold mgmtAccess
  repeat' first
    | with_reducible assumption | with_reducible apply emit_keepsPins | with_reducible apply readAs_keepsPins
    | with_reducible apply writeAs_keepsPins | with_reducible apply mgmtMem_keepsPins | with_reducible apply hold_keepsPins | split

end Sys2Proof.Machine
end

