-- ==== Sys2Proof/Laws/PinsUnits.lean ====
section
/-! SUPPORT. Operations that leave the sampled straps, the power pins and the start-up measurements as they were: the progress units of the streaming, tile, tensor and polynomial opcodes. -/

namespace Sys2Proof.Machine
open Sys2Proof

/-! ### Access -/

theorem Run.st_keepsPins {s0 : State} {self : Run} (h_self : RunKeepsPins s0 self) :
    KeepsPins s0 (Run.st self) := by
  unfold Run.st
  repeat' first
    | with_reducible assumption | with_reducible apply RunKeepsPins.st

theorem Run.base_keepsPins {s0 : State} {self : Run} (h_self : RunKeepsPins s0 self) :
    KeepsPins s0 (Run.base self) := by
  unfold Run.base
  repeat' first
    | with_reducible assumption | with_reducible apply RunKeepsPins.base

theorem Run.halt_keepsPins {s0 : State} {r : Run} {x : Status} (h_r : RunKeepsPins s0 r) :
    RunKeepsPins s0 (Run.halt r x) := by
  unfold Run.halt
  repeat' first
    | with_reducible assumption | with_reducible apply Run.st_keepsPins | with_reducible apply Run.base_keepsPins | split
    | dsimp only | (refine RunKeepsPins.mk ?_ ?_ <;> dsimp only)

theorem Run.both_keepsPins {s0 : State} {r : Run} {f : State → State} (h_r : RunKeepsPins s0 r) (h_f : (∀ y0, KeepsPins s0 y0 → KeepsPins s0 (f y0))) :
    RunKeepsPins s0 (Run.both r f) := by
  unfold Run.both
  repeat' first
    | with_reducible assumption | with_reducible apply h_f | with_reducible apply Run.st_keepsPins
    | with_reducible apply Run.base_keepsPins | dsimp only | (refine RunKeepsPins.mk ?_ ?_ <;> dsimp only)

theorem Run.up_keepsPins {s0 : State} {r : Run} {f : State → State} (h_r : RunKeepsPins s0 r) (h_f : (∀ y0, KeepsPins s0 y0 → KeepsPins s0 (f y0))) :
    RunKeepsPins s0 (Run.up r f) := by
  unfold Run.up
  repeat' first
    | with_reducible assumption | with_reducible apply h_f | with_reducible apply Run.st_keepsPins
    | with_reducible apply Run.base_keepsPins | split | dsimp only | (refine RunKeepsPins.mk ?_ ?_ <;> dsimp only)

theorem Run.flag_keepsPins {s0 : State} {r : Run} {m : ℕ} (h_r : RunKeepsPins s0 r) :
    RunKeepsPins s0 (Run.flag r m) := by
  unfold Run.flag
  repeat' first
    | with_reducible assumption | with_reducible apply Run.st_keepsPins | with_reducible apply Run.base_keepsPins | split
    | dsimp only | (refine RunKeepsPins.mk ?_ ?_ <;> dsimp only)

theorem Run.taint_keepsPins {s0 : State} {r : Run} {b : Bool} (h_r : RunKeepsPins s0 r) :
    RunKeepsPins s0 (Run.taint r b) := by
  unfold Run.taint
  repeat' first
    | with_reducible assumption | with_reducible apply Run.st_keepsPins | with_reducible apply Run.base_keepsPins | split
    | dsimp only | (refine RunKeepsPins.mk ?_ ?_ <;> dsimp only)

theorem Run.when_keepsPins {s0 : State} {r : Run} {b : Bool} {f : Run → Run} (h_r : RunKeepsPins s0 r) (h_f : (∀ y0, RunKeepsPins s0 y0 → RunKeepsPins s0 (f y0))) :
    RunKeepsPins s0 (Run.when r b f) := by
  unfold Run.when
  repeat' first
    | with_reducible assumption | with_reducible apply h_f | split

theorem Run.park_keepsPins {s0 : State} {r : Run} {id : ℕ} {line : ℕ} {write : Bool} {circ : Option ℕ} (h_r : RunKeepsPins s0 r) :
    RunKeepsPins s0 (Run.park r id line write circ) := by
  unfold Run.park
  repeat' first
    | with_reducible assumption | with_reducible apply Run.st_keepsPins | with_reducible apply Run.base_keepsPins | dsimp only
    | (refine RunKeepsPins.mk ?_ ?_ <;> dsimp only)

theorem Run.take_keepsPins {s0 : State} {r : Run} {g : Grant} (h_r : RunKeepsPins s0 r) :
    RunKeepsPins s0 (Run.take r g) := by
  unfold Run.take
  repeat' first
    | with_reducible assumption | with_reducible apply Run.st_keepsPins | with_reducible apply Run.base_keepsPins | intro _
    | dsimp only | (refine RunKeepsPins.mk ?_ ?_ <;> dsimp only)

theorem swapLine_keepsPins {s0 : State} {line : ℕ} {write : Bool} {s : State} (h_s : KeepsPins s0 s) :
    KeepsPins s0 (swapLine line write s) := by
  unfold swapLine
  repeat' first
    | with_reducible assumption | split | dsimp only | with_reducible apply KeepsPins.pwrgood
    | with_reducible apply KeepsPins.resetN | with_reducible apply KeepsPins.testEn
    | with_reducible apply KeepsPins.domid | with_reducible apply KeepsPins.mbusSel
    | with_reducible apply KeepsPins.start | (refine KeepsPins.mk ?_ ?_ ?_ ?_ ?_ ?_ <;> dsimp only)

theorem recomputeLine_keepsPins {s0 : State} {s : State} {a : ℕ} (h_s : KeepsPins s0 s) :
    KeepsPins s0 (recomputeLine s a) := by
  unfold recomputeLine
  repeat' first
    | with_reducible assumption | intro _ | split | dsimp only | with_reducible apply KeepsPins.pwrgood
    | with_reducible apply KeepsPins.resetN | with_reducible apply KeepsPins.testEn
    | with_reducible apply KeepsPins.domid | with_reducible apply KeepsPins.mbusSel
    | with_reducible apply KeepsPins.start | (refine KeepsPins.mk ?_ ?_ ?_ ?_ ?_ ?_ <;> dsimp only)

theorem checkRead_keepsPins {s0 : State} {s : State} {a : ℕ} {res : Bool} (h_s : KeepsPins s0 s) :
    KeepsPins s0 ((checkRead s a res).1) := by
  unfold checkRead
  repeat' first
    | with_reducible assumption | with_reducible apply noteRead_keepsPins | with_reducible apply recomputeLine_keepsPins | split

theorem grantLine_keepsPins {s0 : State} {s : State} {line : ℕ} {write : Bool} {res : Bool} (h_s : KeepsPins s0 s) :
    KeepsPins s0 ((grantLine s line write res).1) := by
  unfold grantLine
  repeat' first
    | with_reducible assumption | with_reducible apply checkRead_keepsPins | split

theorem Run.openLine_keepsPins {s0 : State} {r : Run} {id : ℕ} {line : ℕ} {write : Bool} {res : Bool} (h_r : RunKeepsPins s0 r) :
    RunKeepsPins s0 (Run.openLine r id line write res) := by
  unfold Run.openLine
  repeat' first
    | with_reducible assumption | with_reducible apply Run.st_keepsPins | with_reducible apply Run.take_keepsPins
    | with_reducible apply Run.base_keepsPins | with_reducible apply Run.taint_keepsPins | with_reducible apply Run.both_keepsPins
    | with_reducible apply grantLine_keepsPins | with_reducible apply swapLine_keepsPins | with_reducible apply Run.park_keepsPins
    | intro _ | split | dsimp only | (refine RunKeepsPins.mk ?_ ?_ <;> dsimp only)

theorem circMove_keepsPins {s0 : State} {rg : ℕ} {k : ℕ} {write : Bool} {s : State} (h_s : KeepsPins s0 s) :
    KeepsPins s0 (circMove rg k write s) := by
  unfold circMove
  repeat' first
    | with_reducible assumption | with_reducible apply setF_keepsPins

theorem Run.openCirc_keepsPins {s0 : State} {r : Run} {id : ℕ} {k : ℕ} {n : ℕ} {write : Bool} {res : Bool} (h_r : RunKeepsPins s0 r) :
    RunKeepsPins s0 (Run.openCirc r id k n write res) := by
  unfold Run.openCirc
  repeat' first
    | with_reducible assumption | with_reducible apply Run.st_keepsPins | with_reducible apply Run.take_keepsPins
    | with_reducible apply Run.base_keepsPins | with_reducible apply Run.taint_keepsPins | with_reducible apply Run.both_keepsPins
    | with_reducible apply grantLine_keepsPins | with_reducible apply circMove_keepsPins | with_reducible apply Run.park_keepsPins
    | split | dsimp only | (refine RunKeepsPins.mk ?_ ?_ <;> dsimp only)

theorem Run.window_keepsPins {s0 : State} {r : Run} {p : ℕ} {o : ℕ} (h_r : RunKeepsPins s0 r) :
    RunKeepsPins s0 (Run.window r p o) := by
  unfold Run.window
  repeat' first
    | with_reducible assumption | with_reducible apply Run.st_keepsPins | with_reducible apply Run.both_keepsPins
    | with_reducible apply emit_keepsPins | with_reducible apply bump_keepsPins | with_reducible apply Run.base_keepsPins
    | with_reducible apply Run.halt_keepsPins | intro _ | split | dsimp only
    | (refine RunKeepsPins.mk ?_ ?_ <;> dsimp only)

theorem Run.touchRead_keepsPins {s0 : State} {r : Run} {id : ℕ} {a : ℕ} {res : Bool} (h_r : RunKeepsPins s0 r) :
    RunKeepsPins s0 (Run.touchRead r id a res) := by
  unfold Run.touchRead
  repeat' first
    | with_reducible assumption | with_reducible apply Run.window_keepsPins | with_reducible apply Run.taint_keepsPins
    | with_reducible apply checkRead_keepsPins | with_reducible apply Run.st_keepsPins | with_reducible apply Run.base_keepsPins
    | with_reducible apply Run.openLine_keepsPins | split | dsimp only | (refine RunKeepsPins.mk ?_ ?_ <;> dsimp only)

theorem Run.regRead_keepsPins {s0 : State} {r : Run} {o : ℕ} {n : ℕ} (h_r : RunKeepsPins s0 r) :
    RunKeepsPins s0 ((Run.regRead r o n).2) := by
  unfold Run.regRead
  repeat' first
    | with_reducible assumption | with_reducible apply readAs_keepsPins | with_reducible apply Run.st_keepsPins
    | with_reducible apply Run.base_keepsPins | dsimp only | (refine RunKeepsPins.mk ?_ ?_ <;> dsimp only)

theorem Run.rdBytes_keepsPins {s0 : State} {r : Run} {id : ℕ} {a : ℕ} {n : ℕ} {res : Bool} (h_r : RunKeepsPins s0 r) :
    RunKeepsPins s0 ((Run.rdBytes r id a n res).2) := by
  unfold Run.rdBytes
  repeat' first
    | with_reducible assumption | with_reducible apply Run.regRead_keepsPins | with_reducible apply Run.touchRead_keepsPins
    | split | dsimp only

theorem Run.touchWrite_keepsPins {s0 : State} {r : Run} {id : ℕ} {a : ℕ} (h_r : RunKeepsPins s0 r) :
    RunKeepsPins s0 (Run.touchWrite r id a) := by
  unfold Run.touchWrite
  repeat' first
    | with_reducible assumption | with_reducible apply Run.window_keepsPins | with_reducible apply Run.openLine_keepsPins
    | with_reducible apply Run.st_keepsPins | with_reducible apply Run.base_keepsPins | split | dsimp only
    | (refine RunKeepsPins.mk ?_ ?_ <;> dsimp only)

theorem settleUpset_keepsPins {s0 : State} {s : State} {a : ℕ} {whole : ℕ → ℕ → Bool} (h_s : KeepsPins s0 s) :
    KeepsPins s0 ((settleUpset s a whole).1) := by
  unfold settleUpset
  repeat' first
    | with_reducible assumption | with_reducible apply dropUpset_keepsPins | with_reducible apply readHbm_keepsPins | split

theorem Run.redo_keepsPins {s0 : State} {r : Run} (h_r : RunKeepsPins s0 r) : RunKeepsPins s0 (Run.redo r) := by
  unfold Run.redo
  repeat' first
    | with_reducible assumption | with_reducible apply countNd_keepsPins | with_reducible apply Run.st_keepsPins
    | with_reducible apply Run.base_keepsPins | dsimp only | (refine RunKeepsPins.mk ?_ ?_ <;> dsimp only)

theorem Run.meetArrival_keepsPins {s0 : State} {r : Run} {key : ℕ} {count : State → State} (h_r : RunKeepsPins s0 r)
    (h_count : ∀ s, KeepsPins s0 s → KeepsPins s0 (count s)) :
    RunKeepsPins s0 (Run.meetArrival r key count) := by
  unfold Run.meetArrival
  repeat' first
    | with_reducible assumption | with_reducible apply Run.halt_keepsPins | with_reducible apply Run.redo_keepsPins
    | with_reducible apply dropUpset_keepsPins | with_reducible apply Run.st_keepsPins | with_reducible apply Run.base_keepsPins
    | apply h_count | split | dsimp only | (refine RunKeepsPins.mk ?_ ?_ <;> dsimp only)

theorem Run.arrives_keepsPins {s0 : State} {r : Run} {a : ℕ} {res : Bool} (h_r : RunKeepsPins s0 r) :
    RunKeepsPins s0 (Run.arrives r a res) := by
  unfold Run.arrives
  repeat' first
    | with_reducible assumption | with_reducible apply Run.meetArrival_keepsPins | with_reducible apply matArrival_keepsPins
    | with_reducible apply towArrival_keepsPins | intro _ | split

theorem Run.wrBytes_keepsPins {s0 : State} {r : Run} {id : ℕ} {a : ℕ} {d : List Byte} {whole : ℕ → ℕ → Bool} (h_r : RunKeepsPins s0 r) :
    RunKeepsPins s0 (Run.wrBytes r id a d whole) := by
  unfold Run.wrBytes
  repeat' first
    | with_reducible assumption | with_reducible apply Run.arrives_keepsPins | with_reducible apply writeAs_keepsPins | with_reducible apply Run.st_keepsPins
    | with_reducible apply Run.base_keepsPins | with_reducible apply settleUpset_keepsPins
    | with_reducible apply Run.touchWrite_keepsPins | with_reducible apply putBytes_keepsPins | split | dsimp only
    | (refine RunKeepsPins.mk ?_ ?_ <;> dsimp only)

theorem Run.place_keepsPins {s0 : State} {r : Run} {d : Slot} {e : ℕ} {write : Bool} (h_r : RunKeepsPins s0 r) :
    RunKeepsPins s0 ((Run.place r d e write).2) := by
  unfold Run.place
  repeat' first
    | with_reducible assumption | with_reducible apply Run.openCirc_keepsPins | intro _ | split | dsimp only

theorem Run.clamp_keepsPins {s0 : State} {r : Run} {d : Slot} {e : ℕ} (h_r : RunKeepsPins s0 r) :
    RunKeepsPins s0 (Run.clamp r d e) := by
  unfold Run.clamp
  repeat' first
    | with_reducible assumption | with_reducible apply Run.st_keepsPins | with_reducible apply Run.base_keepsPins
    | with_reducible apply bump_keepsPins | split | dsimp only | (refine RunKeepsPins.mk ?_ ?_ <;> dsimp only)

theorem Run.rd_keepsPins {s0 : State} {r : Run} {d : Slot} {e : ℕ} (h_r : RunKeepsPins s0 r) :
    RunKeepsPins s0 ((Run.rd r d e).2) := by
  unfold Run.rd
  repeat' first
    | with_reducible assumption | with_reducible apply Run.taint_keepsPins | with_reducible apply Run.clamp_keepsPins
    | with_reducible apply Run.rdBytes_keepsPins | with_reducible apply Run.place_keepsPins | split

theorem Run.flushBuf_keepsPins {s0 : State} {r : Run} {b : SecBuf} (h_r : RunKeepsPins s0 r) :
    RunKeepsPins s0 (Run.flushBuf r b) := by
  unfold Run.flushBuf
  repeat' first
    | with_reducible assumption | with_reducible apply Run.arrives_keepsPins | with_reducible apply Run.touchWrite_keepsPins | with_reducible apply readHbm_keepsPins
    | with_reducible apply Run.st_keepsPins | with_reducible apply Run.base_keepsPins | with_reducible apply Run.wrBytes_keepsPins
    | intro _ | split | dsimp only | (refine RunKeepsPins.mk ?_ ?_ <;> dsimp only)

theorem Run.flush_keepsPins {s0 : State} {r : Run} {keep : SecBuf → Bool} (h_r : RunKeepsPins s0 r) :
    RunKeepsPins s0 (Run.flush r keep) := by
  unfold Run.flush
  repeat' first
    | with_reducible assumption | with_reducible apply Run.st_keepsPins | with_reducible apply foldl_keeps
    | with_reducible apply Run.flushBuf_keepsPins | with_reducible apply Run.base_keepsPins | intro _ | dsimp only
    | (refine RunKeepsPins.mk ?_ ?_ <;> dsimp only)

theorem Run.wrRes_keepsPins {s0 : State} {r : Run} {id : ℕ} {a : ℕ} {w : ℕ} {v : ℕ} (h_r : RunKeepsPins s0 r) :
    RunKeepsPins s0 (Run.wrRes r id a w v) := by
  unfold Run.wrRes
  repeat' first
    | with_reducible assumption | with_reducible apply Run.st_keepsPins | with_reducible apply Run.base_keepsPins
    | with_reducible apply Run.flush_keepsPins | intro _ | split | dsimp only
    | (refine RunKeepsPins.mk ?_ ?_ <;> dsimp only)

theorem Run.wrPlace_keepsPins {s0 : State} {r : Run} {d : Slot} {a : ℕ} {w : ℕ} {v : ℕ} {last : Bool} (h_r : RunKeepsPins s0 r) :
    RunKeepsPins s0 (Run.wrPlace r d a w v last) := by
  unfold Run.wrPlace
  repeat' first
    | with_reducible assumption | with_reducible apply Run.wrBytes_keepsPins | with_reducible apply Run.touchWrite_keepsPins
    | with_reducible apply Run.wrRes_keepsPins | intro _ | split | dsimp only

theorem Run.wr_keepsPins {s0 : State} {r : Run} {d : Slot} {e : ℕ} {v : ℕ} (h_r : RunKeepsPins s0 r) :
    RunKeepsPins s0 (Run.wr r d e v) := by
  unfold Run.wr
  repeat' first
    | with_reducible assumption | with_reducible apply Run.wrPlace_keepsPins | with_reducible apply Run.clamp_keepsPins
    | with_reducible apply Run.place_keepsPins | split

theorem logSkip_keepsPins {s0 : State} {s : State} {f : Frond} {x : Status} (h_s : KeepsPins s0 s) :
    KeepsPins s0 (logSkip s f x) := by
  unfold logSkip
  repeat' first
    | with_reducible assumption | with_reducible apply logFrond_keepsPins | split

theorem haltFrond_keepsPins {s0 : State} {s : State} {f : Frond} {x : Status} (h_s : KeepsPins s0 s) :
    KeepsPins s0 (haltFrond s f x) := by
  unfold haltFrond
  repeat' first
    | with_reducible assumption | with_reducible apply stopFrond_keepsPins | with_reducible apply logSkip_keepsPins
    | with_reducible apply putFrond_keepsPins

theorem Run.close_keepsPins {s0 : State} {r0 : Run} {f : Frond} (h_r0 : RunKeepsPins s0 r0) :
    KeepsPins s0 (Run.close r0 f) := by
  unfold Run.close
  repeat' first
    | with_reducible assumption | with_reducible apply haltFrond_keepsPins | with_reducible apply Run.st_keepsPins
    | with_reducible apply Run.flush_keepsPins | with_reducible apply putFrond_keepsPins | with_reducible apply Run.base_keepsPins
    | intro _ | split | dsimp only

theorem runUnit_keepsPins {s0 : State} {body : Run → Run} {s : State} {f : Frond} (h_body : (∀ y0, RunKeepsPins s0 y0 → RunKeepsPins s0 (body y0))) (h_s : KeepsPins s0 s) :
    KeepsPins s0 (runUnit body s f) := by
  unfold runUnit
  repeat' first
    | with_reducible assumption | with_reducible apply h_body | with_reducible apply Run.close_keepsPins | dsimp only
    | (refine RunKeepsPins.mk ?_ ?_ <;> dsimp only)

theorem runUnits_keepsPins {s0 : State} {op : ℕ} {body : Run → Run} {x : FrondRef} {x3 : ℕ} {x4 : State} (h_body : (∀ y0, RunKeepsPins s0 y0 → RunKeepsPins s0 (body y0))) (h_x4 : KeepsPins s0 x4) :
    KeepsPins s0 (runUnits op body x x3 x4) := by
  revert h_body h_x4
  fun_induction runUnits op body x x3 x4
  all_goals
    try rename_i ih
    intro h_body h_x4
    repeat' first
      | with_reducible assumption | with_reducible apply h_body | with_reducible apply ih
      | with_reducible apply runUnit_keepsPins

theorem Run.each_keepsPins {s0 : State} {r : Run} {size : ℕ} {total : ℕ} {body : ℕ → Run → Run} (h_r : RunKeepsPins s0 r) (h_body : (∀ y0, (∀ y1, RunKeepsPins s0 y1 → RunKeepsPins s0 (body y0 y1)))) :
    RunKeepsPins s0 (Run.each r size total body) := by
  unfold Run.each
  repeat' first
    | with_reducible assumption | with_reducible apply h_body | with_reducible apply forWhile_keeps

/-! ### Collect -/

theorem Run.await_keepsPins {s0 : State} {r : Run} (h_r : RunKeepsPins s0 r) :
    RunKeepsPins s0 (Run.await r) := by
  unfold Run.await
  repeat' first
    | with_reducible assumption | with_reducible apply Run.st_keepsPins | with_reducible apply Run.base_keepsPins | split
    | dsimp only | (refine RunKeepsPins.mk ?_ ?_ <;> dsimp only)

theorem Run.commit_keepsPins {s0 : State} {r : Run} {n : ℕ} (h_r : RunKeepsPins s0 r) :
    RunKeepsPins s0 (Run.commit r n) := by
  unfold Run.commit
  repeat' first
    | with_reducible assumption | with_reducible apply Run.st_keepsPins | split | dsimp only
    | (refine RunKeepsPins.mk ?_ ?_ <;> dsimp only)

theorem Run.sendPackets_keepsPins {s0 : State} {r : Run} {l : List Packet} (h_r : RunKeepsPins s0 r) :
    RunKeepsPins s0 (Run.sendPackets r l) := by
  unfold Run.sendPackets
  repeat' first
    | with_reducible assumption | with_reducible apply Run.halt_keepsPins | with_reducible apply Run.up_keepsPins
    | with_reducible apply logFrond_keepsPins | with_reducible apply runGhosts_keepsPins | with_reducible apply foldl_keeps
    | with_reducible apply inject_keepsPins | intro _ | split

theorem Run.stopWith_keepsPins {s0 : State} {r : Run} {x : Status} {code : ℕ} (h_r : RunKeepsPins s0 r) :
    RunKeepsPins s0 (Run.stopWith r x code) := by
  unfold Run.stopWith
  repeat' first
    | with_reducible assumption | with_reducible apply Run.halt_keepsPins | with_reducible apply Run.up_keepsPins
    | with_reducible apply logFrond_keepsPins | intro _

theorem Run.rdMarked_keepsPins {s0 : State} {r : Run} {d : Slot} {e : ℕ} (h_r : RunKeepsPins s0 r) :
    RunKeepsPins s0 ((Run.rdMarked r d e).2) := by
  unfold Run.rdMarked
  repeat' first
    | with_reducible assumption | with_reducible apply Run.st_keepsPins | with_reducible apply Run.rd_keepsPins
    | with_reducible apply Run.base_keepsPins | dsimp only | (refine RunKeepsPins.mk ?_ ?_ <;> dsimp only)

theorem Run.rdRange_keepsPins {s0 : State} {r : Run} {d : Slot} {lo : ℕ} {n : ℕ} (h_r : RunKeepsPins s0 r) :
    RunKeepsPins s0 ((Run.rdRange r d lo n).2) := by
  unfold Run.rdRange
  repeat' first
    | with_reducible assumption | with_reducible apply forWhile_snd_keeps | with_reducible apply Run.rdMarked_keepsPins
    | intro _ | split

theorem Run.wrRange_keepsPins {s0 : State} {r : Run} {d : Slot} {lo : ℕ} {l : List ℕ} (h_r : RunKeepsPins s0 r) :
    RunKeepsPins s0 (Run.wrRange r d lo l) := by
  unfold Run.wrRange
  repeat' first
    | with_reducible assumption | with_reducible apply foldl_snd_keeps | with_reducible apply Run.taint_keepsPins
    | with_reducible apply Run.wr_keepsPins | intro _

theorem teeTo_keepsPins {s0 : State} {f : Frond} {src : ℕ} {l : List (ℕ × Byte)} {poison : Bool} {s : State} {t : TeeEntry} (h_s : KeepsPins s0 s) :
    KeepsPins s0 (teeTo f src l poison s t) := by
  unfold teeTo
  repeat' first
    | with_reducible assumption | with_reducible apply foldl_keeps | with_reducible apply inject_keepsPins | intro _
    | split | dsimp only | with_reducible apply KeepsPins.pwrgood | with_reducible apply KeepsPins.resetN
    | with_reducible apply KeepsPins.testEn | with_reducible apply KeepsPins.domid
    | with_reducible apply KeepsPins.mbusSel | with_reducible apply KeepsPins.start
    | (refine KeepsPins.mk ?_ ?_ ?_ ?_ ?_ ?_ <;> dsimp only)

theorem Run.teeShard_keepsPins {s0 : State} {r : Run} {c : Coll} {v : List ℕ} (h_r : RunKeepsPins s0 r) :
    RunKeepsPins s0 (Run.teeShard r c v) := by
  unfold Run.teeShard
  repeat' first
    | with_reducible assumption | with_reducible apply Run.up_keepsPins | with_reducible apply foldl_keeps
    | with_reducible apply teeTo_keepsPins | intro _

theorem teeArmUnit_keepsPins {s0 : State} {r : Run} (h_r : RunKeepsPins s0 r) :
    RunKeepsPins s0 (teeArmUnit r) := by
  unfold teeArmUnit
  repeat' first
    | with_reducible assumption | with_reducible apply Run.up_keepsPins | with_reducible apply Run.halt_keepsPins | intro _
    | split | dsimp only | exact rfl | with_reducible apply KeepsPins.pwrgood | with_reducible apply KeepsPins.resetN
    | with_reducible apply KeepsPins.testEn | with_reducible apply KeepsPins.domid
    | with_reducible apply KeepsPins.mbusSel | with_reducible apply KeepsPins.start
    | (refine KeepsPins.mk ?_ ?_ ?_ ?_ ?_ ?_ <;> dsimp only)

theorem ringLoad_keepsPins {s0 : State} {r : Run} (h_r : RunKeepsPins s0 r) :
    RunKeepsPins s0 (ringLoad r) := by
  unfold ringLoad
  repeat' first
    | with_reducible assumption | with_reducible apply Run.st_keepsPins | with_reducible apply Run.rdRange_keepsPins
    | with_reducible apply Run.base_keepsPins | split | dsimp only | (refine RunKeepsPins.mk ?_ ?_ <;> dsimp only)

theorem ringSend_keepsPins {s0 : State} {c : Coll} {st : RingStep} {r : Run} (h_r : RunKeepsPins s0 r) :
    RunKeepsPins s0 (ringSend c st r) := by
  unfold ringSend
  repeat' first
    | with_reducible assumption | with_reducible apply Run.commit_keepsPins | with_reducible apply Run.sendPackets_keepsPins
    | with_reducible apply Run.up_keepsPins | with_reducible apply ghostFor_keepsPins | intro _ | split

theorem ringFinish_keepsPins {s0 : State} {r : Run} {c : Coll} (h_r : RunKeepsPins s0 r) :
    RunKeepsPins s0 (ringFinish r c) := by
  unfold ringFinish
  repeat' first
    | with_reducible assumption | with_reducible apply Run.wrRange_keepsPins | split

theorem ringTake_keepsPins {s0 : State} {c : Coll} {st : RingStep} {r : Run} (h_r : RunKeepsPins s0 r) :
    RunKeepsPins s0 (ringTake c st r) := by
  unfold ringTake
  repeat' first
    | with_reducible assumption | with_reducible apply Run.await_keepsPins | with_reducible apply Run.stopWith_keepsPins
    | with_reducible apply Run.up_keepsPins | with_reducible apply dropClash_keepsPins | with_reducible apply ringFinish_keepsPins
    | with_reducible apply Run.flag_keepsPins | with_reducible apply Run.st_keepsPins | with_reducible apply Run.base_keepsPins
    | with_reducible apply Run.teeShard_keepsPins | split | dsimp only | with_reducible apply KeepsPins.pwrgood
    | with_reducible apply KeepsPins.resetN | with_reducible apply KeepsPins.testEn
    | with_reducible apply KeepsPins.domid | with_reducible apply KeepsPins.mbusSel
    | with_reducible apply KeepsPins.start | (refine KeepsPins.mk ?_ ?_ ?_ ?_ ?_ ?_ <;> dsimp only)
    | (refine RunKeepsPins.mk ?_ ?_ <;> dsimp only)

theorem ringUnit_keepsPins {s0 : State} {r : Run} (h_r : RunKeepsPins s0 r) :
    RunKeepsPins s0 (ringUnit r) := by
  unfold ringUnit
  repeat' first
    | with_reducible assumption | with_reducible apply Run.halt_keepsPins | with_reducible apply ringLoad_keepsPins
    | with_reducible apply ringTake_keepsPins | with_reducible apply ringSend_keepsPins | with_reducible apply ringFinish_keepsPins
    | with_reducible apply Run.teeShard_keepsPins | split | dsimp only

theorem bcastUnit_keepsPins {s0 : State} {r : Run} (h_r : RunKeepsPins s0 r) :
    RunKeepsPins s0 (bcastUnit r) := by
  unfold bcastUnit
  repeat' first
    | with_reducible assumption | with_reducible apply Run.halt_keepsPins | with_reducible apply Run.await_keepsPins
    | with_reducible apply Run.stopWith_keepsPins | with_reducible apply Run.up_keepsPins | with_reducible apply dropClash_keepsPins
    | with_reducible apply Run.wrRange_keepsPins | with_reducible apply Run.sendPackets_keepsPins
    | with_reducible apply Run.st_keepsPins | with_reducible apply Run.base_keepsPins | with_reducible apply Run.taint_keepsPins
    | with_reducible apply Run.rdRange_keepsPins | with_reducible apply Run.commit_keepsPins
    | with_reducible apply runGhosts_keepsPins | with_reducible apply ghostFor_keepsPins | intro _ | split | dsimp only
    | exact rfl | with_reducible apply KeepsPins.pwrgood | with_reducible apply KeepsPins.resetN
    | with_reducible apply KeepsPins.testEn | with_reducible apply KeepsPins.domid
    | with_reducible apply KeepsPins.mbusSel | with_reducible apply KeepsPins.start
    | (refine KeepsPins.mk ?_ ?_ ?_ ?_ ?_ ?_ <;> dsimp only) | (refine RunKeepsPins.mk ?_ ?_ <;> dsimp only)

theorem sendRts_keepsPins {s0 : State} {r : Run} (h_r : RunKeepsPins s0 r) :
    RunKeepsPins s0 (sendRts r) := by
  unfold sendRts
  repeat' first
    | with_reducible assumption | with_reducible apply Run.commit_keepsPins | with_reducible apply Run.sendPackets_keepsPins
    | split

theorem sendGrant_keepsPins {s0 : State} {r : Run} (h_r : RunKeepsPins s0 r) :
    RunKeepsPins s0 (sendGrant r) := by
  unfold sendGrant
  repeat' first
    | with_reducible assumption | with_reducible apply Run.await_keepsPins | with_reducible apply Run.stopWith_keepsPins
    | with_reducible apply Run.up_keepsPins | with_reducible apply Run.commit_keepsPins | intro _ | split | dsimp only
    | with_reducible apply KeepsPins.pwrgood | with_reducible apply KeepsPins.resetN
    | with_reducible apply KeepsPins.testEn | with_reducible apply KeepsPins.domid
    | with_reducible apply KeepsPins.mbusSel | with_reducible apply KeepsPins.start
    | (refine KeepsPins.mk ?_ ?_ ?_ ?_ ?_ ?_ <;> dsimp only)

theorem sendPiece_keepsPins {s0 : State} {r : Run} (h_r : RunKeepsPins s0 r) :
    RunKeepsPins s0 (sendPiece r) := by
  unfold sendPiece
  repeat' first
    | with_reducible assumption | with_reducible apply Run.commit_keepsPins | with_reducible apply Run.sendPackets_keepsPins
    | with_reducible apply Run.taint_keepsPins | with_reducible apply Run.rdRange_keepsPins | intro _ | split

theorem sendUnit_keepsPins {s0 : State} {r : Run} (h_r : RunKeepsPins s0 r) :
    RunKeepsPins s0 (sendUnit r) := by
  unfold sendUnit
  repeat' first
    | with_reducible assumption | with_reducible apply sendPiece_keepsPins | with_reducible apply sendGrant_keepsPins
    | with_reducible apply sendRts_keepsPins | with_reducible apply Run.st_keepsPins | with_reducible apply Run.base_keepsPins
    | split | dsimp only | (refine RunKeepsPins.mk ?_ ?_ <;> dsimp only)

theorem recvMeet_keepsPins {s0 : State} {r : Run} (h_r : RunKeepsPins s0 r) :
    RunKeepsPins s0 (recvMeet r) := by
  unfold recvMeet
  repeat' first
    | with_reducible assumption | with_reducible apply Run.await_keepsPins | with_reducible apply Run.stopWith_keepsPins
    | with_reducible apply Run.sendPackets_keepsPins | with_reducible apply Run.up_keepsPins
    | with_reducible apply Run.commit_keepsPins | intro _ | split | dsimp only | with_reducible apply KeepsPins.pwrgood
    | with_reducible apply KeepsPins.resetN | with_reducible apply KeepsPins.testEn
    | with_reducible apply KeepsPins.domid | with_reducible apply KeepsPins.mbusSel
    | with_reducible apply KeepsPins.start | (refine KeepsPins.mk ?_ ?_ ?_ ?_ ?_ ?_ <;> dsimp only)

theorem recvUnit_keepsPins {s0 : State} {r : Run} (h_r : RunKeepsPins s0 r) :
    RunKeepsPins s0 (recvUnit r) := by
  unfold recvUnit
  repeat' first
    | with_reducible assumption | with_reducible apply Run.await_keepsPins | with_reducible apply recvMeet_keepsPins
    | with_reducible apply Run.wrRange_keepsPins | with_reducible apply Run.taint_keepsPins | with_reducible apply Run.st_keepsPins
    | with_reducible apply Run.base_keepsPins | split | dsimp only | with_reducible apply KeepsPins.pwrgood
    | with_reducible apply KeepsPins.resetN | with_reducible apply KeepsPins.testEn
    | with_reducible apply KeepsPins.domid | with_reducible apply KeepsPins.mbusSel
    | with_reducible apply KeepsPins.start | (refine KeepsPins.mk ?_ ?_ ?_ ?_ ?_ ?_ <;> dsimp only)
    | (refine RunKeepsPins.mk ?_ ?_ <;> dsimp only)

/-! ### Tiles -/

theorem setTileByte_keepsPins {s0 : State} {k : ℕ} {b : ℕ} {v : Byte} {s : State} (h_s : KeepsPins s0 s) :
    KeepsPins s0 (setTileByte k b v s) := by
  unfold setTileByte
  repeat' first
    | with_reducible assumption | dsimp only | with_reducible apply KeepsPins.pwrgood
    | with_reducible apply KeepsPins.resetN | with_reducible apply KeepsPins.testEn
    | with_reducible apply KeepsPins.domid | with_reducible apply KeepsPins.mbusSel
    | with_reducible apply KeepsPins.start | (refine KeepsPins.mk ?_ ?_ ?_ ?_ ?_ ?_ <;> dsimp only)

theorem setTileBytes_keepsPins {s0 : State} {k : ℕ} {b : ℕ} {l : List Byte} {s : State} (h_s : KeepsPins s0 s) :
    KeepsPins s0 (setTileBytes k b l s) := by
  unfold setTileBytes
  repeat' first
    | with_reducible assumption | with_reducible apply foldl_snd_keeps | with_reducible apply setTileByte_keepsPins
    | intro _

theorem zeroTile_keepsPins {s0 : State} {k : ℕ} {s : State} (h_s : KeepsPins s0 s) :
    KeepsPins s0 (zeroTile k s) := by
  unfold zeroTile
  repeat' first
    | with_reducible assumption | intro _ | dsimp only | with_reducible apply KeepsPins.pwrgood
    | with_reducible apply KeepsPins.resetN | with_reducible apply KeepsPins.testEn
    | with_reducible apply KeepsPins.domid | with_reducible apply KeepsPins.mbusSel
    | with_reducible apply KeepsPins.start | (refine KeepsPins.mk ?_ ?_ ?_ ?_ ?_ ?_ <;> dsimp only)

theorem padRow_keepsPins {s0 : State} {s : State} {k : ℕ} {r : ℕ} (h_s : KeepsPins s0 s) :
    KeepsPins s0 (padRow s k r) := by
  unfold padRow
  repeat' first
    | with_reducible assumption | with_reducible apply forRange_keeps | with_reducible apply setTileByte_keepsPins
    | intro _ | split

theorem padAfter_keepsPins {s0 : State} {s : State} {k : ℕ} {e : ℕ} (h_s : KeepsPins s0 s) :
    KeepsPins s0 (padAfter s k e) := by
  unfold padAfter
  repeat' first
    | with_reducible assumption | with_reducible apply padRow_keepsPins | split | dsimp only

theorem setTileElem_keepsPins {s0 : State} {s : State} {k : ℕ} {e : ℕ} {v : ℕ} (h_s : KeepsPins s0 s) :
    KeepsPins s0 (setTileElem s k e v) := by
  unfold setTileElem
  repeat' first
    | with_reducible assumption | with_reducible apply padAfter_keepsPins | with_reducible apply setTileBytes_keepsPins
    | with_reducible apply setTileByte_keepsPins | split

theorem Run.rdTile_keepsPins {s0 : State} {r : Run} {k : ℕ} {e : ℕ} (h_r : RunKeepsPins s0 r) :
    RunKeepsPins s0 ((Run.rdTile r k e).2) := by
  unfold Run.rdTile
  repeat' first
    | with_reducible assumption | with_reducible apply Run.taint_keepsPins | split

theorem Run.noteTile_keepsPins {s0 : State} {r : Run} {k : ℕ} (h_r : RunKeepsPins s0 r) :
    RunKeepsPins s0 (Run.noteTile r k) := by
  unfold Run.noteTile
  repeat' first
    | with_reducible assumption | with_reducible apply Run.st_keepsPins | with_reducible apply Run.base_keepsPins | dsimp only
    | (refine RunKeepsPins.mk ?_ ?_ <;> dsimp only)

theorem Run.wrTile_keepsPins {s0 : State} {r : Run} {k : ℕ} {e : ℕ} {v : ℕ} (h_r : RunKeepsPins s0 r) :
    RunKeepsPins s0 (Run.wrTile r k e v) := by
  unfold Run.wrTile
  repeat' first
    | with_reducible assumption | with_reducible apply Run.noteTile_keepsPins | with_reducible apply Run.up_keepsPins
    | with_reducible apply setTileElem_keepsPins | intro _ | split

theorem Run.skipTile_keepsPins {s0 : State} {r : Run} {k : ℕ} {e : ℕ} (h_r : RunKeepsPins s0 r) :
    RunKeepsPins s0 (Run.skipTile r k e) := by
  unfold Run.skipTile
  repeat' first
    | with_reducible assumption | with_reducible apply Run.st_keepsPins | with_reducible apply Run.up_keepsPins
    | with_reducible apply padAfter_keepsPins | with_reducible apply Run.base_keepsPins | intro _ | split | dsimp only
    | (refine RunKeepsPins.mk ?_ ?_ <;> dsimp only)

theorem Run.gate_keepsPins {s0 : State} {r : Run} {late : State → (ℕ → Word) → Option Status} {waits : Bool} {body : Run → Run} (h_r : RunKeepsPins s0 r) (h_body : (∀ y0, RunKeepsPins s0 y0 → RunKeepsPins s0 (body y0))) :
    RunKeepsPins s0 (Run.gate r late waits body) := by
  unfold Run.gate
  repeat' first
    | with_reducible assumption | with_reducible apply h_body | with_reducible apply Run.st_keepsPins
    | with_reducible apply Run.base_keepsPins | with_reducible apply Run.halt_keepsPins | intro _ | split | dsimp only
    | (refine RunKeepsPins.mk ?_ ?_ <;> dsimp only)

theorem shapeUnit_keepsPins {s0 : State} {r : Run} (h_r : RunKeepsPins s0 r) :
    RunKeepsPins s0 (shapeUnit r) := by
  unfold shapeUnit
  repeat' first
    | with_reducible assumption | with_reducible apply Run.gate_keepsPins | with_reducible apply Run.noteTile_keepsPins
    | with_reducible apply Run.up_keepsPins | with_reducible apply setReg_keepsPins | with_reducible apply zeroTile_keepsPins
    | intro _ | split

theorem Run.fromNextRow_keepsPins {s0 : State} {r : Run} {k : ℕ} (h_r : RunKeepsPins s0 r) :
    RunKeepsPins s0 (Run.fromNextRow r k) := by
  unfold Run.fromNextRow
  repeat' first
    | with_reducible assumption | with_reducible apply Run.st_keepsPins | with_reducible apply Run.base_keepsPins | split
    | dsimp only | (refine RunKeepsPins.mk ?_ ?_ <;> dsimp only)

theorem rowUnit_keepsPins {s0 : State} {elem : ℕ → ℕ → Run → Run} {r : Run} (h_elem : (∀ y0, (∀ y1, (∀ y2, RunKeepsPins s0 y2 → RunKeepsPins s0 (elem y0 y1 y2))))) (h_r : RunKeepsPins s0 r) :
    RunKeepsPins s0 (rowUnit elem r) := by
  unfold rowUnit
  repeat' first
    | with_reducible assumption | with_reducible apply h_elem | with_reducible apply Run.gate_keepsPins
    | with_reducible apply forWhile_keeps | with_reducible apply Run.fromNextRow_keepsPins | intro _

theorem loadElem_keepsPins {s0 : State} {k : ℕ} {e : ℕ} {r : Run} (h_r : RunKeepsPins s0 r) :
    RunKeepsPins s0 (loadElem k e r) := by
  unfold loadElem
  repeat' first
    | with_reducible assumption | with_reducible apply Run.wrTile_keepsPins | with_reducible apply Run.rd_keepsPins

theorem storeElem_keepsPins {s0 : State} {k : ℕ} {e : ℕ} {r : Run} (h_r : RunKeepsPins s0 r) :
    RunKeepsPins s0 (storeElem k e r) := by
  unfold storeElem
  repeat' first
    | with_reducible assumption | with_reducible apply Run.wr_keepsPins | with_reducible apply Run.rdTile_keepsPins

theorem Run.putImage_keepsPins {s0 : State} {r : Run} {e : ℕ} {l : List Byte} (h_r : RunKeepsPins s0 r) :
    RunKeepsPins s0 (Run.putImage r e l) := by
  unfold Run.putImage
  repeat' first
    | with_reducible assumption | with_reducible apply foldl_snd_keeps | with_reducible apply Run.wr_keepsPins | intro _

theorem saveUnit_keepsPins {s0 : State} {r : Run} (h_r : RunKeepsPins s0 r) :
    RunKeepsPins s0 (saveUnit r) := by
  unfold saveUnit
  repeat' first
    | with_reducible assumption | with_reducible apply Run.gate_keepsPins | with_reducible apply Run.putImage_keepsPins
    | with_reducible apply Run.taint_keepsPins | with_reducible apply Run.st_keepsPins | with_reducible apply Run.base_keepsPins
    | intro _ | split | dsimp only | (refine RunKeepsPins.mk ?_ ?_ <;> dsimp only)

theorem Run.getImage_keepsPins {s0 : State} {r : Run} {e : ℕ} {n : ℕ} (h_r : RunKeepsPins s0 r) :
    RunKeepsPins s0 ((Run.getImage r e n).2) := by
  unfold Run.getImage
  repeat' first
    | with_reducible assumption | with_reducible apply forWhile_snd_keeps | with_reducible apply Run.rd_keepsPins | intro _

theorem restoreState_keepsPins {s0 : State} {v : ℕ} {b : List ℕ} {k : ℕ} {s : State} (h_s : KeepsPins s0 s) :
    KeepsPins s0 (restoreState v b k s) := by
  unfold restoreState
  repeat' first
    | with_reducible assumption | with_reducible apply setReg_keepsPins

theorem restoreFirst_keepsPins {s0 : State} {r : Run} (h_r : RunKeepsPins s0 r) :
    RunKeepsPins s0 (restoreFirst r) := by
  unfold restoreFirst
  repeat' first
    | with_reducible assumption | with_reducible apply Run.up_keepsPins | with_reducible apply Run.st_keepsPins
    | with_reducible apply Run.getImage_keepsPins | with_reducible apply Run.base_keepsPins | with_reducible apply foldl_keeps
    | with_reducible apply restoreState_keepsPins | with_reducible apply Run.halt_keepsPins | intro _ | split | dsimp only
    | (refine RunKeepsPins.mk ?_ ?_ <;> dsimp only)

theorem restoreUnit_keepsPins {s0 : State} {r : Run} (h_r : RunKeepsPins s0 r) :
    RunKeepsPins s0 (restoreUnit r) := by
  unfold restoreUnit
  repeat' first
    | with_reducible assumption | with_reducible apply Run.gate_keepsPins | with_reducible apply Run.noteTile_keepsPins
    | with_reducible apply Run.up_keepsPins | with_reducible apply Run.getImage_keepsPins
    | with_reducible apply restoreState_keepsPins | with_reducible apply setTileBytes_keepsPins
    | with_reducible apply restoreFirst_keepsPins | intro _ | split | dsimp only

/-! ### Operand -/

theorem Run.rdOp_keepsPins {s0 : State} {r : Run} {o : Opnd} {e : ℕ} (h_r : RunKeepsPins s0 r) :
    RunKeepsPins s0 ((Run.rdOp r o e).2) := by
  unfold Run.rdOp
  repeat' first
    | with_reducible assumption | with_reducible apply Run.rd_keepsPins | with_reducible apply Run.rdTile_keepsPins | split

theorem Run.rdOps_keepsPins {s0 : State} {r : Run} {o : Opnd} {lo : ℕ} {n : ℕ} (h_r : RunKeepsPins s0 r) :
    RunKeepsPins s0 ((Run.rdOps r o lo n).2) := by
  unfold Run.rdOps
  repeat' first
    | with_reducible assumption | with_reducible apply forWhile_snd_keeps | with_reducible apply Run.rdOp_keepsPins
    | intro _

theorem Run.wrOp_keepsPins {s0 : State} {r : Run} {o : Opnd} {e : ℕ} {v : ℕ} (h_r : RunKeepsPins s0 r) :
    RunKeepsPins s0 (Run.wrOp r o e v) := by
  unfold Run.wrOp
  repeat' first
    | with_reducible assumption | with_reducible apply Run.wr_keepsPins | with_reducible apply Run.wrTile_keepsPins | split

theorem Run.wrOps_keepsPins {s0 : State} {r : Run} {o : Opnd} {lo : ℕ} {l : List ℕ} (h_r : RunKeepsPins s0 r) :
    RunKeepsPins s0 (Run.wrOps r o lo l) := by
  unfold Run.wrOps
  repeat' first
    | with_reducible assumption | with_reducible apply foldl_snd_keeps | with_reducible apply Run.wrOp_keepsPins | intro _

theorem Run.skipOp_keepsPins {s0 : State} {r : Run} {o : Opnd} {e : ℕ} (h_r : RunKeepsPins s0 r) :
    RunKeepsPins s0 (Run.skipOp r o e) := by
  unfold Run.skipOp
  repeat' first
    | with_reducible assumption | with_reducible apply Run.skipTile_keepsPins | split

/-! ### Vec -/

theorem ewElem_keepsPins {s0 : State} {total : ℕ} {fmt : ℕ} {bw : ℕ} {e : ℕ} {r : Run} (h_r : RunKeepsPins s0 r) :
    RunKeepsPins s0 (ewElem total fmt bw e r) := by
  unfold ewElem
  repeat' first
    | with_reducible assumption | with_reducible apply Run.up_keepsPins | with_reducible apply Run.wrOp_keepsPins
    | with_reducible apply Run.flag_keepsPins | with_reducible apply Run.rdOp_keepsPins | with_reducible apply bumpUnits_keepsPins
    | with_reducible apply Run.skipOp_keepsPins | with_reducible apply bump_keepsPins | intro _ | split | dsimp only

theorem ewUnit_keepsPins {s0 : State} {r : Run} (h_r : RunKeepsPins s0 r) :
    RunKeepsPins s0 (ewUnit r) := by
  unfold ewUnit
  repeat' first
    | with_reducible assumption | with_reducible apply Run.gate_keepsPins | with_reducible apply Run.each_keepsPins
    | with_reducible apply ewElem_keepsPins | intro _

theorem lanePlaces_keepsPins {s0 : State} {r : Run} (h_r : RunKeepsPins s0 r) :
    RunKeepsPins s0 ((lanePlaces r).2) := by
  unfold lanePlaces
  repeat' first
    | with_reducible assumption | with_reducible apply Run.up_keepsPins | with_reducible apply Run.st_keepsPins
    | with_reducible apply Run.rdOps_keepsPins | with_reducible apply Run.base_keepsPins | with_reducible apply bump_keepsPins
    | intro _ | split | dsimp only | (refine RunKeepsPins.mk ?_ ?_ <;> dsimp only)

theorem laneGroup_keepsPins {s0 : State} {total : ℕ} {fmt : ℕ} {e : ℕ} {r : Run} (h_r : RunKeepsPins s0 r) :
    RunKeepsPins s0 (laneGroup total fmt e r) := by
  unfold laneGroup
  repeat' first
    | with_reducible assumption | with_reducible apply Run.st_keepsPins | with_reducible apply Run.flag_keepsPins
    | with_reducible apply Run.rdOps_keepsPins | with_reducible apply lanePlaces_keepsPins | with_reducible apply Run.base_keepsPins
    | intro _ | split | dsimp only | (refine RunKeepsPins.mk ?_ ?_ <;> dsimp only)

theorem laneElem_keepsPins {s0 : State} {total : ℕ} {fmt : ℕ} {e : ℕ} {r0 : Run} (h_r0 : RunKeepsPins s0 r0) :
    RunKeepsPins s0 (laneElem total fmt e r0) := by
  unfold laneElem
  repeat' first
    | with_reducible assumption | with_reducible apply Run.up_keepsPins | with_reducible apply Run.wrOp_keepsPins
    | with_reducible apply laneGroup_keepsPins | with_reducible apply bumpUnits_keepsPins | intro _ | split

theorem laneUnit_keepsPins {s0 : State} {r : Run} (h_r : RunKeepsPins s0 r) :
    RunKeepsPins s0 (laneUnit r) := by
  unfold laneUnit
  repeat' first
    | with_reducible assumption | with_reducible apply Run.gate_keepsPins | with_reducible apply Run.each_keepsPins
    | with_reducible apply laneElem_keepsPins | intro _

theorem broadcastElem_keepsPins {s0 : State} {total : ℕ} {src : ℕ} {e : ℕ} {r : Run} (h_r : RunKeepsPins s0 r) :
    RunKeepsPins s0 (broadcastElem total src e r) := by
  unfold broadcastElem
  repeat' first
    | with_reducible assumption | with_reducible apply Run.up_keepsPins | with_reducible apply Run.wrOp_keepsPins
    | with_reducible apply Run.rdOp_keepsPins | with_reducible apply bumpUnits_keepsPins | intro _

theorem broadcastUnit_keepsPins {s0 : State} {r : Run} (h_r : RunKeepsPins s0 r) :
    RunKeepsPins s0 (broadcastUnit r) := by
  unfold broadcastUnit
  repeat' first
    | with_reducible assumption | with_reducible apply Run.gate_keepsPins | with_reducible apply Run.each_keepsPins
    | with_reducible apply broadcastElem_keepsPins | intro _

theorem reduceElem_keepsPins {s0 : State} {total : ℕ} {fmt : ℕ} {s : ℕ} {r : Run} (h_r : RunKeepsPins s0 r) :
    RunKeepsPins s0 (reduceElem total fmt s r) := by
  unfold reduceElem
  repeat' first
    | with_reducible assumption | with_reducible apply Run.up_keepsPins | with_reducible apply Run.wrOp_keepsPins
    | with_reducible apply Run.flag_keepsPins | with_reducible apply Run.rdOps_keepsPins | with_reducible apply bumpUnits_keepsPins
    | intro _

theorem reduceUnit_keepsPins {s0 : State} {r : Run} (h_r : RunKeepsPins s0 r) :
    RunKeepsPins s0 (reduceUnit r) := by
  unfold reduceUnit
  repeat' first
    | with_reducible assumption | with_reducible apply Run.gate_keepsPins | with_reducible apply Run.each_keepsPins
    | with_reducible apply reduceElem_keepsPins | intro _

/-! ### Conv -/

theorem scaleOf_keepsPins {s0 : State} {f : Frond} {strict : Bool} {e : ℕ} {r : Run} (h_r : RunKeepsPins s0 r) :
    RunKeepsPins s0 ((scaleOf f strict e r).2) := by
  unfold scaleOf
  repeat' first
    | with_reducible assumption | with_reducible apply Run.rd_keepsPins | split

theorem convElem_keepsPins {s0 : State} {e : ℕ} {r : Run} (h_r : RunKeepsPins s0 r) :
    RunKeepsPins s0 (convElem e r) := by
  unfold convElem
  repeat' first
    | with_reducible assumption | with_reducible apply Run.up_keepsPins | with_reducible apply Run.wr_keepsPins
    | with_reducible apply Run.flag_keepsPins | with_reducible apply scaleOf_keepsPins | with_reducible apply Run.rd_keepsPins
    | with_reducible apply bumpUnits_keepsPins | intro _ | split

theorem convUnit_keepsPins {s0 : State} {r : Run} (h_r : RunKeepsPins s0 r) :
    RunKeepsPins s0 (convUnit r) := by
  unfold convUnit
  repeat' first
    | with_reducible assumption | with_reducible apply Run.each_keepsPins | with_reducible apply convElem_keepsPins

/-! ### Ctd -/

theorem Run.bytes_keepsPins {s0 : State} {r : Run} {id : ℕ} {a : ℕ} {n : ℕ} (h_r : RunKeepsPins s0 r) :
    RunKeepsPins s0 ((Run.bytes r id a n).2) := by
  unfold Run.bytes
  repeat' first
    | with_reducible assumption | with_reducible apply forWhile_snd_keeps | with_reducible apply Run.rdBytes_keepsPins
    | intro _

theorem Run.loadDescs_keepsPins {s0 : State} {r : Run} {slots : List ℕ} (h_r : RunKeepsPins s0 r) :
    RunKeepsPins s0 (Run.loadDescs r slots) := by
  unfold Run.loadDescs
  repeat' first
    | with_reducible assumption | with_reducible apply Run.st_keepsPins | with_reducible apply foldl_snd_keeps
    | with_reducible apply Run.bytes_keepsPins | with_reducible apply Run.base_keepsPins | intro _ | split | dsimp only
    | (refine RunKeepsPins.mk ?_ ?_ <;> dsimp only)

theorem Run.cost_keepsPins {s0 : State} {r : Run} {fp : ℕ} {code : ℕ} (h_r : RunKeepsPins s0 r) :
    RunKeepsPins s0 ((Run.cost r fp code).2) := by
  unfold Run.cost
  repeat' first
    | with_reducible assumption | with_reducible apply Run.bytes_keepsPins | split

theorem leastBudget_keepsPins {s0 : State} {s : State} {l : List Ctd} (h_s : KeepsPins s0 s) :
    KeepsPins s0 ((leastBudget s l).2) := by
  unfold leastBudget
  repeat' first
    | with_reducible assumption | with_reducible apply takeFree_keepsPins | intro _ | split

theorem budgetOf_keepsPins {s0 : State} {s : State} {r : ℕ} {l : List Ctd} {cost : ℕ} (h_s : KeepsPins s0 s) :
    KeepsPins s0 ((budgetOf s r l cost).2) := by
  unfold budgetOf
  repeat' first
    | with_reducible assumption | with_reducible apply leastBudget_keepsPins | split

theorem Run.rdLimb_keepsPins {s0 : State} {r : Run} {id : ℕ} {a : ℕ} {n : ℕ} (h_r : RunKeepsPins s0 r) :
    RunKeepsPins s0 ((Run.rdLimb r id a n).2) := by
  unfold Run.rdLimb
  repeat' first
    | with_reducible assumption | with_reducible apply forWhile_snd_keeps | with_reducible apply Run.rdBytes_keepsPins
    | intro _

theorem Run.wroteRun_keepsPins {s0 : State} {r : Run} {a : ℕ} {n : ℕ} (h_r : RunKeepsPins s0 r) :
    RunKeepsPins s0 (Run.wroteRun r a n) := by
  unfold Run.wroteRun
  repeat' first
    | with_reducible assumption | with_reducible apply Run.st_keepsPins | with_reducible apply Run.base_keepsPins | split
    | dsimp only | (refine RunKeepsPins.mk ?_ ?_ <;> dsimp only)

theorem Run.wrLimb_keepsPins {s0 : State} {r : Run} {id : ℕ} {a : ℕ} {l : List ℕ} (h_r : RunKeepsPins s0 r) :
    RunKeepsPins s0 (Run.wrLimb r id a l) := by
  unfold Run.wrLimb
  repeat' first
    | with_reducible assumption | with_reducible apply Run.arrives_keepsPins | with_reducible apply Run.wroteRun_keepsPins | with_reducible apply forWhile_keeps
    | with_reducible apply Run.wrBytes_keepsPins | intro _

theorem Run.reduce_keepsPins {s0 : State} {r : Run} {q : ℕ} {cnt : ℕ} {l : List ℕ} (h_r : RunKeepsPins s0 r) :
    RunKeepsPins s0 ((Run.reduce r q cnt l).2) := by
  unfold Run.reduce
  repeat' first
    | with_reducible assumption | with_reducible apply Run.up_keepsPins | with_reducible apply Run.flag_keepsPins
    | with_reducible apply bump_keepsPins | intro _ | split | dsimp only

theorem Run.srcLimb_keepsPins {s0 : State} {r : Run} {slot : ℕ} {c : Ctd} {i : ℕ} {p : ℕ} {j : ℕ} (h_r : RunKeepsPins s0 r) :
    RunKeepsPins s0 ((Run.srcLimb r slot c i p j).2) := by
  unfold Run.srcLimb
  repeat' first
    | with_reducible assumption | with_reducible apply Run.reduce_keepsPins | with_reducible apply Run.rdLimb_keepsPins | split

theorem Run.dstLimb_keepsPins {s0 : State} {r : Run} {slot : ℕ} {c : Ctd} {i : ℕ} {p : ℕ} {j : ℕ} {l : List ℕ} (h_r : RunKeepsPins s0 r) :
    RunKeepsPins s0 (Run.dstLimb r slot c i p j l) := by
  unfold Run.dstLimb
  repeat' first
    | with_reducible assumption | with_reducible apply Run.up_keepsPins | with_reducible apply Run.wrLimb_keepsPins
    | with_reducible apply bump_keepsPins | intro _

theorem Run.putDesc_keepsPins {s0 : State} {r : Run} {i : ℕ} {b : List Byte} (h_r : RunKeepsPins s0 r) :
    RunKeepsPins s0 (Run.putDesc r i b) := by
  unfold Run.putDesc
  repeat' first
    | with_reducible assumption | with_reducible apply Run.wroteRun_keepsPins | with_reducible apply Run.wrBytes_keepsPins

theorem Run.last_keepsPins {s0 : State} {r : Run} (h_r : RunKeepsPins s0 r) :
    RunKeepsPins s0 (Run.last r) := by
  unfold Run.last
  repeat' first
    | with_reducible assumption | with_reducible apply Run.st_keepsPins | with_reducible apply Run.base_keepsPins | dsimp only
    | (refine RunKeepsPins.mk ?_ ?_ <;> dsimp only)

theorem Run.poisonedResult_keepsPins {s0 : State} {r : Run} {ds : List (ℕ × List Byte)} (h_r : RunKeepsPins s0 r) :
    RunKeepsPins s0 (Run.poisonedResult r ds) := by
  unfold Run.poisonedResult
  repeat' first
    | with_reducible assumption | with_reducible apply Run.last_keepsPins | with_reducible apply foldl_keeps
    | with_reducible apply Run.putDesc_keepsPins | with_reducible apply Run.st_keepsPins | with_reducible apply Run.base_keepsPins
    | intro _ | dsimp only | (refine RunKeepsPins.mk ?_ ?_ <;> dsimp only)

/-! ### Matrix -/

theorem Run.rdBlock_keepsPins {s0 : State} {r : Run} {slot : ℕ} {cols : ℕ} {rows : ℕ × ℕ} {cs : ℕ × ℕ} (h_r : RunKeepsPins s0 r) :
    RunKeepsPins s0 ((Run.rdBlock r slot cols rows cs).2) := by
  unfold Run.rdBlock
  repeat' first
    | with_reducible assumption | with_reducible apply forWhile_snd_keeps | with_reducible apply Run.rdOps_keepsPins
    | intro _

theorem countTile_keepsPins {s0 : State} {f : Frond} {t : ℕ} {macs : ℕ} {s : State} (h_s : KeepsPins s0 s) :
    KeepsPins s0 (countTile f t macs s) := by
  unfold countTile
  repeat' first
    | with_reducible assumption | with_reducible apply bumpUnits_keepsPins | with_reducible apply bump_keepsPins

theorem matUnit_keepsPins {s0 : State} {r : Run} (h_r : RunKeepsPins s0 r) :
    RunKeepsPins s0 (matUnit r) := by
  unfold matUnit
  repeat' first
    | with_reducible assumption | with_reducible apply Run.up_keepsPins | with_reducible apply forWhile_keeps
    | with_reducible apply Run.wr_keepsPins | with_reducible apply Run.flag_keepsPins | with_reducible apply Run.rdBlock_keepsPins
    | with_reducible apply Run.rdOps_keepsPins | with_reducible apply countTile_keepsPins | intro _ | split

/-! ### Poly -/

theorem polyBudget_keepsPins {s0 : State} {f : Frond} {src : List Ctd} {r : Run} (h_r : RunKeepsPins s0 r) :
    RunKeepsPins s0 ((polyBudget f src r).2) := by
  unfold polyBudget
  repeat' first
    | with_reducible assumption | with_reducible apply budgetOf_keepsPins | with_reducible apply Run.st_keepsPins
    | with_reducible apply Run.cost_keepsPins | with_reducible apply Run.base_keepsPins | split | dsimp only
    | (refine RunKeepsPins.mk ?_ ?_ <;> dsimp only)

theorem Run.polyLimb_keepsPins {s0 : State} {r : Run} {slot : ℕ} {c : Ctd} {i : ℕ} {p : ℕ} {j : ℕ} (h_r : RunKeepsPins s0 r) :
    RunKeepsPins s0 ((Run.polyLimb r slot c i p j).2) := by
  unfold Run.polyLimb
  repeat' first
    | with_reducible assumption | with_reducible apply Run.srcLimb_keepsPins | with_reducible apply Run.rdLimb_keepsPins
    | with_reducible apply Run.flag_keepsPins | intro _ | split | dsimp only

theorem Run.limbs_keepsPins {s0 : State} {r : Run} {slot : ℕ} {c : Ctd} {l : List (ℕ × ℕ × ℕ)} (h_r : RunKeepsPins s0 r) :
    RunKeepsPins s0 ((Run.limbs r slot c l).2) := by
  unfold Run.limbs
  repeat' first
    | with_reducible assumption | with_reducible apply foldl_snd_keeps | with_reducible apply Run.polyLimb_keepsPins
    | intro _

theorem Run.polyStore_keepsPins {s0 : State} {r : Run} {res : Ctd} {i : ℕ} {p : ℕ} {j : ℕ} {l : List ℕ} (h_r : RunKeepsPins s0 r) :
    RunKeepsPins s0 (Run.polyStore r res i p j l) := by
  unfold Run.polyStore
  repeat' first
    | with_reducible assumption | with_reducible apply Run.dstLimb_keepsPins | with_reducible apply Run.up_keepsPins
    | with_reducible apply Run.wrLimb_keepsPins | with_reducible apply bumpUnits_keepsPins | intro _ | split

theorem polyPosition_keepsPins {s0 : State} {a : Ctd} {b : Ctd} {res : Ctd} {r0 : Run} (h_r0 : RunKeepsPins s0 r0) :
    RunKeepsPins s0 (polyPosition a b res r0) := by
  unfold polyPosition
  repeat' first
    | with_reducible assumption | with_reducible apply foldl_keeps | with_reducible apply Run.polyStore_keepsPins
    | with_reducible apply Run.limbs_keepsPins | with_reducible apply Run.st_keepsPins | with_reducible apply Run.base_keepsPins
    | with_reducible apply Run.putDesc_keepsPins | intro _ | split | dsimp only
    | (refine RunKeepsPins.mk ?_ ?_ <;> dsimp only)

theorem polyStart_keepsPins {s0 : State} {a : Ctd} {b : Ctd} {res : Ctd} {r : Run} (h_r : RunKeepsPins s0 r) :
    RunKeepsPins s0 (polyStart a b res r) := by
  unfold polyStart
  repeat' first
    | with_reducible assumption | with_reducible apply Run.halt_keepsPins | with_reducible apply polyPosition_keepsPins
    | with_reducible apply Run.st_keepsPins | with_reducible apply polyBudget_keepsPins | with_reducible apply Run.base_keepsPins
    | with_reducible apply Run.poisonedResult_keepsPins | intro _ | split | dsimp only
    | (refine RunKeepsPins.mk ?_ ?_ <;> dsimp only)

theorem polyUnit_keepsPins {s0 : State} {r0 : Run} (h_r0 : RunKeepsPins s0 r0) :
    RunKeepsPins s0 (polyUnit r0) := by
  unfold polyUnit
  repeat' first
    | with_reducible assumption | with_reducible apply polyPosition_keepsPins | with_reducible apply Run.loadDescs_keepsPins
    | with_reducible apply polyStart_keepsPins | split | dsimp only

/-! ### Encode -/

theorem fixElem_keepsPins {s0 : State} {c : Ctd} {p : ℕ} {k : ℕ} {r : Run} (h_r : RunKeepsPins s0 r) :
    RunKeepsPins s0 (fixElem c p k r) := by
  unfold fixElem
  repeat' first
    | with_reducible assumption | with_reducible apply Run.up_keepsPins | with_reducible apply Run.touchWrite_keepsPins
    | with_reducible apply Run.flag_keepsPins | with_reducible apply Run.rd_keepsPins | with_reducible apply Run.wrRes_keepsPins
    | with_reducible apply bumpUnits_keepsPins | intro _ | split

theorem fixBack_keepsPins {s0 : State} {c : Ctd} {k : ℕ} {r : Run} (h_r : RunKeepsPins s0 r) :
    RunKeepsPins s0 (fixBack c k r) := by
  unfold fixBack
  repeat' first
    | with_reducible assumption | with_reducible apply Run.up_keepsPins | with_reducible apply Run.wr_keepsPins
    | with_reducible apply Run.flag_keepsPins | with_reducible apply Run.rdBytes_keepsPins | with_reducible apply bumpUnits_keepsPins
    | intro _ | split

theorem fixGo_keepsPins {s0 : State} {c : Ctd} {r : Run} (h_r : RunKeepsPins s0 r) :
    RunKeepsPins s0 (fixGo c r) := by
  unfold fixGo
  repeat' first
    | with_reducible assumption | with_reducible apply forWhile_keeps | with_reducible apply fixBack_keepsPins
    | with_reducible apply Run.wroteRun_keepsPins | with_reducible apply Run.flush_keepsPins | with_reducible apply fixElem_keepsPins
    | with_reducible apply Run.putDesc_keepsPins | intro _ | split | dsimp only

theorem fixUnit_keepsPins {s0 : State} {r0 : Run} (h_r0 : RunKeepsPins s0 r0) :
    RunKeepsPins s0 (fixUnit r0) := by
  unfold fixUnit
  repeat' first
    | with_reducible assumption | with_reducible apply fixGo_keepsPins | with_reducible apply Run.loadDescs_keepsPins
    | with_reducible apply Run.halt_keepsPins | with_reducible apply Run.st_keepsPins | with_reducible apply Run.base_keepsPins
    | with_reducible apply Run.poisonedResult_keepsPins | split | dsimp only
    | (refine RunKeepsPins.mk ?_ ?_ <;> dsimp only)

/-! ### Func -/

theorem Run.rdNum_keepsPins {s0 : State} {r : Run} {o : Opnd} {fmt : ℕ} {strict : Bool} {e : ℕ} (h_r : RunKeepsPins s0 r) :
    RunKeepsPins s0 ((Run.rdNum r o fmt strict e).2) := by
  unfold Run.rdNum
  repeat' first
    | with_reducible assumption | with_reducible apply Run.flag_keepsPins | with_reducible apply Run.rdOp_keepsPins

theorem Run.rdNums_keepsPins {s0 : State} {r : Run} {o : Opnd} {fmt : ℕ} {strict : Bool} {lo : ℕ} {n : ℕ} (h_r : RunKeepsPins s0 r) :
    RunKeepsPins s0 ((Run.rdNums r o fmt strict lo n).2) := by
  unfold Run.rdNums
  repeat' first
    | with_reducible assumption | with_reducible apply forWhile_snd_keeps | with_reducible apply Run.rdNum_keepsPins
    | intro _

theorem Run.counted_keepsPins {s0 : State} {r : Run} {n : ℕ} {k : ℕ} (h_r : RunKeepsPins s0 r) :
    RunKeepsPins s0 (Run.counted r n k) := by
  unfold Run.counted
  repeat' first
    | with_reducible assumption | with_reducible apply Run.up_keepsPins | with_reducible apply bumpUnits_keepsPins | intro _

theorem funcElem_keepsPins {s0 : State} {fmt : ℕ} {e : ℕ} {r : Run} (h_r : RunKeepsPins s0 r) :
    RunKeepsPins s0 (funcElem fmt e r) := by
  unfold funcElem
  repeat' first
    | with_reducible assumption | with_reducible apply Run.counted_keepsPins | with_reducible apply Run.wrOp_keepsPins
    | with_reducible apply Run.flag_keepsPins | with_reducible apply Run.rdOp_keepsPins | with_reducible apply Run.skipOp_keepsPins
    | with_reducible apply Run.up_keepsPins | with_reducible apply bump_keepsPins | intro _ | split | dsimp only

theorem funcUnit_keepsPins {s0 : State} {r : Run} (h_r : RunKeepsPins s0 r) :
    RunKeepsPins s0 (funcUnit r) := by
  unfold funcUnit
  repeat' first
    | with_reducible assumption | with_reducible apply Run.gate_keepsPins | with_reducible apply Run.each_keepsPins
    | with_reducible apply funcElem_keepsPins | intro _

theorem segUnit_keepsPins {s0 : State} {body : ℕ → Run → Run} {r : Run} (h_body : (∀ y0, (∀ y1, RunKeepsPins s0 y1 → RunKeepsPins s0 (body y0 y1)))) (h_r : RunKeepsPins s0 r) :
    RunKeepsPins s0 (segUnit body r) := by
  unfold segUnit
  repeat' first
    | with_reducible assumption | with_reducible apply h_body | with_reducible apply Run.gate_keepsPins
    | with_reducible apply Run.up_keepsPins | with_reducible apply bump_keepsPins | intro _

theorem Run.wrNums_keepsPins {s0 : State} {r : Run} {o : Opnd} {fmt : ℕ} {lo : ℕ} {dr : ℕ} {a : Arith} {l : List Num} (h_r : RunKeepsPins s0 r) :
    RunKeepsPins s0 (Run.wrNums r o fmt lo dr a l) := by
  unfold Run.wrNums
  repeat' first
    | with_reducible assumption | with_reducible apply foldl_snd_keeps | with_reducible apply Run.wrOp_keepsPins
    | with_reducible apply Run.flag_keepsPins | intro _

theorem momentsSeg_keepsPins {s0 : State} {s : ℕ} {r : Run} (h_r : RunKeepsPins s0 r) :
    RunKeepsPins s0 (momentsSeg s r) := by
  unfold momentsSeg
  repeat' first
    | with_reducible assumption | with_reducible apply Run.counted_keepsPins | with_reducible apply Run.wrNums_keepsPins
    | with_reducible apply Run.flag_keepsPins | with_reducible apply Run.rdNums_keepsPins

theorem Run.rdScale_keepsPins {s0 : State} {r : Run} {i : ℕ} {strict : Bool} {none : Num} (h_r : RunKeepsPins s0 r) :
    RunKeepsPins s0 ((Run.rdScale r i strict none).2) := by
  unfold Run.rdScale
  repeat' first
    | with_reducible assumption | with_reducible apply Run.flag_keepsPins | with_reducible apply Run.rdNums_keepsPins | split
    | dsimp only

theorem Run.wrAffine_keepsPins {s0 : State} {r : Run} {s : ℕ} {beta : Bool} {u : List (Flagged Num)} {g : List Num} {b : List Num} (h_r : RunKeepsPins s0 r) :
    RunKeepsPins s0 (Run.wrAffine r s beta u g b) := by
  unfold Run.wrAffine
  repeat' first
    | with_reducible assumption | with_reducible apply Run.counted_keepsPins | with_reducible apply Run.wrNums_keepsPins
    | with_reducible apply Run.flag_keepsPins

theorem layerSeg_keepsPins {s0 : State} {s : ℕ} {r : Run} (h_r : RunKeepsPins s0 r) :
    RunKeepsPins s0 (layerSeg s r) := by
  unfold layerSeg
  repeat' first
    | with_reducible assumption | with_reducible apply Run.wrAffine_keepsPins | with_reducible apply Run.rdScale_keepsPins
    | with_reducible apply Run.flag_keepsPins | with_reducible apply Run.rdNums_keepsPins

theorem rmsSeg_keepsPins {s0 : State} {s : ℕ} {r : Run} (h_r : RunKeepsPins s0 r) :
    RunKeepsPins s0 (rmsSeg s r) := by
  unfold rmsSeg
  repeat' first
    | with_reducible assumption | with_reducible apply Run.wrAffine_keepsPins | with_reducible apply Run.rdScale_keepsPins
    | with_reducible apply Run.flag_keepsPins | with_reducible apply Run.rdNums_keepsPins

theorem Run.wrState_keepsPins {s0 : State} {r : Run} {e : ℕ} {v : Num} (h_r : RunKeepsPins s0 r) :
    RunKeepsPins s0 (Run.wrState r e v) := by
  unfold Run.wrState
  repeat' first
    | with_reducible assumption | with_reducible apply Run.wrOp_keepsPins

theorem stepRow_keepsPins {s0 : State} {k : ℕ} {r : Run} (h_r : RunKeepsPins s0 r) :
    RunKeepsPins s0 (stepRow k r) := by
  unfold stepRow
  repeat' first
    | with_reducible assumption | with_reducible apply Run.wrState_keepsPins | with_reducible apply Run.wrNums_keepsPins
    | with_reducible apply Run.flag_keepsPins | with_reducible apply Run.counted_keepsPins
    | with_reducible apply Run.rdNums_keepsPins

theorem correctRow_keepsPins {s0 : State} {k : ℕ} {r : Run} (h_r : RunKeepsPins s0 r) :
    RunKeepsPins s0 (correctRow k r) := by
  unfold correctRow
  repeat' first
    | with_reducible assumption | with_reducible apply Run.counted_keepsPins | with_reducible apply Run.wrNums_keepsPins
    | with_reducible apply Run.flag_keepsPins | with_reducible apply Run.rdOps_keepsPins | with_reducible apply Run.wrOps_keepsPins
    | intro _ | split | dsimp only

/-! ### Streams -/

theorem copyElem_keepsPins {s0 : State} {f : Frond} {e : ℕ} {r : Run} (h_r : RunKeepsPins s0 r) :
    RunKeepsPins s0 (copyElem f e r) := by
  unfold copyElem
  repeat' first
    | with_reducible assumption | with_reducible apply Run.wr_keepsPins | with_reducible apply Run.rd_keepsPins

theorem copyUnit_keepsPins {s0 : State} {r : Run} (h_r : RunKeepsPins s0 r) :
    RunKeepsPins s0 (copyUnit r) := by
  unfold copyUnit
  repeat' first
    | with_reducible assumption | with_reducible apply Run.each_keepsPins | with_reducible apply copyElem_keepsPins

theorem fillUnit_keepsPins {s0 : State} {r : Run} (h_r : RunKeepsPins s0 r) :
    RunKeepsPins s0 (fillUnit r) := by
  unfold fillUnit
  repeat' first
    | with_reducible assumption | with_reducible apply Run.each_keepsPins | with_reducible apply Run.flag_keepsPins
    | with_reducible apply Run.wr_keepsPins | intro _

theorem transposeElem_keepsPins {s0 : State} {f : Frond} {e : ℕ} {r : Run} (h_r : RunKeepsPins s0 r) :
    RunKeepsPins s0 (transposeElem f e r) := by
  unfold transposeElem
  repeat' first
    | with_reducible assumption | with_reducible apply Run.wrPlace_keepsPins | with_reducible apply Run.clamp_keepsPins
    | with_reducible apply Run.rd_keepsPins

theorem transposeUnit_keepsPins {s0 : State} {r : Run} (h_r : RunKeepsPins s0 r) :
    RunKeepsPins s0 (transposeUnit r) := by
  unfold transposeUnit
  repeat' first
    | with_reducible assumption | with_reducible apply Run.each_keepsPins | with_reducible apply transposeElem_keepsPins

theorem permuteElem_keepsPins {s0 : State} {f : Frond} {e : ℕ} {r : Run} (h_r : RunKeepsPins s0 r) :
    RunKeepsPins s0 (permuteElem f e r) := by
  unfold permuteElem
  repeat' first
    | with_reducible assumption | with_reducible apply Run.wr_keepsPins | with_reducible apply Run.rd_keepsPins

theorem permuteUnit_keepsPins {s0 : State} {r : Run} (h_r : RunKeepsPins s0 r) :
    RunKeepsPins s0 (permuteUnit r) := by
  unfold permuteUnit
  repeat' first
    | with_reducible assumption | with_reducible apply Run.each_keepsPins | with_reducible apply permuteElem_keepsPins

/-! ### Gather -/

theorem readIndex_keepsPins {s0 : State} {f : Frond} {n : ℕ} {r : Run} (h_r : RunKeepsPins s0 r) :
    RunKeepsPins s0 ((readIndex f n r).2) := by
  unfold readIndex
  repeat' first
    | with_reducible assumption | with_reducible apply Run.rd_keepsPins | with_reducible apply bump_keepsPins
    | with_reducible apply Run.st_keepsPins | with_reducible apply Run.base_keepsPins | split | dsimp only
    | (refine RunKeepsPins.mk ?_ ?_ <;> dsimp only)

theorem readWindow_keepsPins {s0 : State} {f : Frond} {r : Run} (h_r : RunKeepsPins s0 r) :
    RunKeepsPins s0 ((readWindow f r).2) := by
  unfold readWindow
  repeat' first
    | with_reducible assumption | with_reducible apply forWhile_snd_keeps | with_reducible apply readIndex_keepsPins
    | intro _

theorem noteSaved_keepsPins {s0 : State} {f : Frond} {l : List (ℕ × ℕ)} {r : Run} (h_r : RunKeepsPins s0 r) :
    RunKeepsPins s0 (noteSaved f l r) := by
  unfold noteSaved
  repeat' first
    | with_reducible assumption | with_reducible apply Run.up_keepsPins | with_reducible apply bump_keepsPins | intro _

theorem readRow_keepsPins {s0 : State} {f : Frond} {slot : ℕ} {x : ℕ} {r : Run} (h_r : RunKeepsPins s0 r) :
    RunKeepsPins s0 ((readRow f slot x r).2) := by
  unfold readRow
  repeat' first
    | with_reducible assumption | with_reducible apply forWhile_snd_keeps | with_reducible apply Run.rd_keepsPins | intro _

theorem writeRow_keepsPins {s0 : State} {f : Frond} {slot : ℕ} {x : ℕ} {l : List ℕ} {r : Run} (h_r : RunKeepsPins s0 r) :
    RunKeepsPins s0 (writeRow f slot x l r) := by
  unfold writeRow
  repeat' first
    | with_reducible assumption | with_reducible apply foldl_snd_keeps | with_reducible apply Run.wr_keepsPins | intro _

theorem gatherUnit_keepsPins {s0 : State} {r : Run} (h_r : RunKeepsPins s0 r) :
    RunKeepsPins s0 (gatherUnit r) := by
  unfold gatherUnit
  repeat' first
    | with_reducible assumption | with_reducible apply foldl_keeps | with_reducible apply writeRow_keepsPins
    | with_reducible apply noteSaved_keepsPins | with_reducible apply foldl_snd_keeps | with_reducible apply readRow_keepsPins
    | with_reducible apply readWindow_keepsPins | intro _

theorem scatterUnit_keepsPins {s0 : State} {r : Run} (h_r : RunKeepsPins s0 r) :
    RunKeepsPins s0 (scatterUnit r) := by
  unfold scatterUnit
  repeat' first
    | with_reducible assumption | with_reducible apply foldl_keeps | with_reducible apply writeRow_keepsPins
    | with_reducible apply readRow_keepsPins | with_reducible apply Run.taint_keepsPins | with_reducible apply noteSaved_keepsPins
    | with_reducible apply readWindow_keepsPins | intro _ | split

theorem addElem_keepsPins {s0 : State} {f : Frond} {n : ℕ} {x : ℕ} {m : ℕ} {p : AddBuf × Run} (h_p : RunKeepsPins s0 ((p).2)) :
    RunKeepsPins s0 ((addElem f n x m p).2) := by
  unfold addElem
  repeat' first
    | with_reducible assumption | with_reducible apply Run.flag_keepsPins | with_reducible apply Run.rd_keepsPins | intro _
    | split

theorem scatterAddUnit_keepsPins {s0 : State} {r : Run} (h_r : RunKeepsPins s0 r) :
    RunKeepsPins s0 (scatterAddUnit r) := by
  unfold scatterAddUnit
  repeat' first
    | with_reducible assumption | with_reducible apply foldl_keeps | with_reducible apply Run.wr_keepsPins
    | with_reducible apply foldl_snd_keeps | with_reducible apply forWhile_snd_keeps
    | with_reducible apply addElem_keepsPins | with_reducible apply noteSaved_keepsPins | with_reducible apply readWindow_keepsPins
    | intro _

end Sys2Proof.Machine
end

