-- ==== Sys2Proof/Laws/PinsSchemes.lean ====
section
/-! SUPPORT. Operations that leave the sampled straps, the power pins and the start-up measurements as they were: the progress units of the key-switching, protection, service and scheme opcodes. -/

namespace Sys2Proof.Machine
open Sys2Proof

/-! ### KSwitch -/

theorem Run.dirEntry_keepsPins {s0 : State} {r : Run} {i : ℕ} (h_r : RunKeepsPins s0 r) :
    RunKeepsPins s0 ((Run.dirEntry r i).2) := by
  unfold Run.dirEntry
  repeat' first
    | with_reducible assumption | with_reducible apply Run.bytes_keepsPins

theorem Run.dirSearch_keepsPins {s0 : State} {t : ℕ} {g : ℕ} {x2 : ℕ} {x3 : ℕ} {x4 : ℕ} {x5 : Run} (h_x5 : RunKeepsPins s0 x5) :
    RunKeepsPins s0 ((Run.dirSearch t g x2 x3 x4 x5).2) := by
  revert h_x5
  fun_induction Run.dirSearch t g x2 x3 x4 x5
  all_goals
    try rename_i ih
    intro h_x5
    repeat' first
      | with_reducible assumption | with_reducible apply ih | with_reducible apply Run.dirEntry_keepsPins

theorem Run.loadKey_keepsPins {s0 : State} {r : Run} {w : KeyWant} (h_r : RunKeepsPins s0 r) :
    RunKeepsPins s0 ((Run.loadKey r w).2) := by
  unfold Run.loadKey
  repeat' first
    | with_reducible assumption | with_reducible apply Run.st_keepsPins | with_reducible apply Run.bytes_keepsPins
    | with_reducible apply Run.base_keepsPins | with_reducible apply Run.dirEntry_keepsPins
    | with_reducible apply Run.dirSearch_keepsPins | intro _ | split | dsimp only
    | (refine RunKeepsPins.mk ?_ ?_ <;> dsimp only)

theorem Run.bindFail_keepsPins {s0 : State} {r : Run} {reason : ℕ} (h_r : RunKeepsPins s0 r) :
    RunKeepsPins s0 (Run.bindFail r reason) := by
  unfold Run.bindFail
  repeat' first
    | with_reducible assumption | with_reducible apply Run.halt_keepsPins | with_reducible apply Run.up_keepsPins
    | with_reducible apply logUnit_keepsPins | intro _

theorem Run.noteScratch_keepsPins {s0 : State} {r : Run} {n : ℕ} (h_r : RunKeepsPins s0 r) :
    RunKeepsPins s0 (Run.noteScratch r n) := by
  unfold Run.noteScratch
  repeat' first
    | with_reducible assumption | with_reducible apply Run.st_keepsPins | with_reducible apply Run.base_keepsPins | split
    | dsimp only | (refine RunKeepsPins.mk ?_ ?_ <;> dsimp only)

theorem Run.fillScratch_keepsPins {s0 : State} {r : Run} {n : ℕ} (h_r : RunKeepsPins s0 r) :
    RunKeepsPins s0 (Run.fillScratch r n) := by
  unfold Run.fillScratch
  repeat' first
    | with_reducible assumption | with_reducible apply forWhile_keeps | with_reducible apply Run.wrBytes_keepsPins
    | with_reducible apply freeBytes_keepsPins | with_reducible apply Run.st_keepsPins | with_reducible apply Run.base_keepsPins
    | intro _ | dsimp only | (refine RunKeepsPins.mk ?_ ?_ <;> dsimp only)

theorem Run.kCost_keepsPins {s0 : State} {r : Run} {h : List ℕ} {a : Ctd} (h_r : RunKeepsPins s0 r) :
    RunKeepsPins s0 ((Run.kCost r h a).2) := by
  unfold Run.kCost
  repeat' first
    | with_reducible assumption | with_reducible apply Run.cost_keepsPins | split

theorem Run.keyLimbs_keepsPins {s0 : State} {r : Run} {h : KsHeader} {e : KsEntry} {a : Ctd} {p : ℕ} {j : ℕ} (h_r : RunKeepsPins s0 r) :
    RunKeepsPins s0 ((Run.keyLimbs r h e a p j).2) := by
  unfold Run.keyLimbs
  repeat' first
    | with_reducible assumption | with_reducible apply Run.up_keepsPins | with_reducible apply Run.rdLimb_keepsPins
    | with_reducible apply Run.flag_keepsPins | with_reducible apply bump_keepsPins | intro _ | split

theorem Run.innerAt_keepsPins {s0 : State} {r : Run} {h : KsHeader} {e : KsEntry} {a : Ctd} {p : ℕ} {ds : List (List ℕ)} (h_r : RunKeepsPins s0 r) :
    RunKeepsPins s0 ((Run.innerAt r h e a p ds).2) := by
  unfold Run.innerAt
  repeat' first
    | with_reducible assumption | with_reducible apply Run.up_keepsPins | with_reducible apply forWhile_snd_keeps
    | with_reducible apply Run.keyLimbs_keepsPins | with_reducible apply bump_keepsPins | intro _

theorem Run.switchDigits_keepsPins {s0 : State} {r : Run} {h : KsHeader} {e : KsEntry} {a : Ctd} {digits : List (List (List ℕ))} (h_r : RunKeepsPins s0 r) :
    RunKeepsPins s0 ((Run.switchDigits r h e a digits).2) := by
  unfold Run.switchDigits
  repeat' first
    | with_reducible assumption | with_reducible apply foldl_snd_keeps | with_reducible apply Run.innerAt_keepsPins
    | intro _

theorem countConv_keepsPins {s0 : State} {f : Frond} {n : ℕ} {limbs : List ℕ} {s : State} (h_s : KeepsPins s0 s) :
    KeepsPins s0 (countConv f n limbs s) := by
  unfold countConv
  repeat' first
    | with_reducible assumption | with_reducible apply foldl_snd_keeps | with_reducible apply bumpUnits_keepsPins | intro _
    | split

theorem Run.polyAll_keepsPins {s0 : State} {r : Run} {a : Ctd} {i : ℕ} (h_r : RunKeepsPins s0 r) :
    RunKeepsPins s0 ((Run.polyAll r a i).2) := by
  unfold Run.polyAll
  repeat' first
    | with_reducible assumption | with_reducible apply foldl_snd_keeps | with_reducible apply Run.srcLimb_keepsPins
    | intro _

theorem Run.digitsIn_keepsPins {s0 : State} {r : Run} {h : KsHeader} {a : Ctd} {b : Ctd} (h_r : RunKeepsPins s0 r) :
    RunKeepsPins s0 ((Run.digitsIn r h a b).2) := by
  unfold Run.digitsIn
  repeat' first
    | with_reducible assumption | with_reducible apply foldl_snd_keeps | with_reducible apply Run.rdLimb_keepsPins
    | with_reducible apply Run.flag_keepsPins | intro _ | split | dsimp only

theorem Run.putPair_keepsPins {s0 : State} {r : Run} {res : Ctd} {x : List (List ℕ)} {y : List (List ℕ)} (h_r : RunKeepsPins s0 r) :
    RunKeepsPins s0 (Run.putPair r res x y) := by
  unfold Run.putPair
  repeat' first
    | with_reducible assumption | with_reducible apply foldl_keeps | with_reducible apply Run.dstLimb_keepsPins | intro _

theorem kWhole_keepsPins {s0 : State} {h : KsHeader} {e : KsEntry} {a : Ctd} {b : Ctd} {res : Ctd} {r : Run} (h_r : RunKeepsPins s0 r) :
    RunKeepsPins s0 (kWhole h e a b res r) := by
  unfold kWhole
  repeat' first
    | with_reducible assumption | with_reducible apply Run.up_keepsPins | with_reducible apply Run.putPair_keepsPins
    | with_reducible apply Run.switchDigits_keepsPins | with_reducible apply Run.polyAll_keepsPins
    | with_reducible apply Run.digitsIn_keepsPins | with_reducible apply countConv_keepsPins | with_reducible apply bump_keepsPins
    | intro _ | split

theorem kDigit_keepsPins {s0 : State} {h : KsHeader} {a : Ctd} {res : Ctd} {r : Run} (h_r : RunKeepsPins s0 r) :
    RunKeepsPins s0 (kDigit h a res r) := by
  unfold kDigit
  repeat' first
    | with_reducible assumption | with_reducible apply Run.up_keepsPins | with_reducible apply foldl_keeps
    | with_reducible apply Run.wrLimb_keepsPins | with_reducible apply bump_keepsPins | with_reducible apply Run.st_keepsPins
    | with_reducible apply Run.polyAll_keepsPins | with_reducible apply Run.base_keepsPins | with_reducible apply countConv_keepsPins
    | intro _ | split | dsimp only | (refine RunKeepsPins.mk ?_ ?_ <;> dsimp only)

theorem kPosition_keepsPins {s0 : State} {a : Ctd} {res : Ctd} {r : Run} (h_r : RunKeepsPins s0 r) :
    RunKeepsPins s0 (kPosition a res r) := by
  unfold kPosition
  repeat' first
    | with_reducible assumption | with_reducible apply Run.up_keepsPins | with_reducible apply foldl_keeps
    | with_reducible apply Run.dstLimb_keepsPins | with_reducible apply Run.limbs_keepsPins | with_reducible apply bump_keepsPins
    | intro _

theorem kGo_keepsPins {s0 : State} {h : KsHeader} {e : KsEntry} {a : Ctd} {b : Ctd} {res : Ctd} {r : Run} (h_r : RunKeepsPins s0 r) :
    RunKeepsPins s0 (kGo h e a b res r) := by
  unfold kGo
  repeat' first
    | with_reducible assumption | with_reducible apply Run.fillScratch_keepsPins | with_reducible apply kWhole_keepsPins
    | with_reducible apply kDigit_keepsPins | with_reducible apply kPosition_keepsPins | with_reducible apply Run.putDesc_keepsPins
    | split | dsimp only

theorem kStart_keepsPins {s0 : State} {h : KsHeader} {e : Option KsEntry} {a : Ctd} {b : Ctd} {res : Ctd} {r0 : Run} (h_r0 : RunKeepsPins s0 r0) :
    RunKeepsPins s0 (kStart h e a b res r0) := by
  unfold kStart
  repeat' first
    | with_reducible assumption | with_reducible apply Run.halt_keepsPins | with_reducible apply Run.noteScratch_keepsPins
    | with_reducible apply kGo_keepsPins | with_reducible apply budgetOf_keepsPins | with_reducible apply Run.st_keepsPins
    | with_reducible apply Run.kCost_keepsPins | with_reducible apply Run.base_keepsPins
    | with_reducible apply Run.poisonedResult_keepsPins | with_reducible apply Run.bindFail_keepsPins | intro _ | split
    | dsimp only | (refine RunKeepsPins.mk ?_ ?_ <;> dsimp only)

theorem kUnit_keepsPins {s0 : State} {r0 : Run} (h_r0 : RunKeepsPins s0 r0) :
    RunKeepsPins s0 (kUnit r0) := by
  unfold kUnit
  repeat' first
    | with_reducible assumption | with_reducible apply kGo_keepsPins | with_reducible apply Run.loadKey_keepsPins
    | with_reducible apply kStart_keepsPins | with_reducible apply Run.loadDescs_keepsPins | split | dsimp only

/-! ### Protect -/

theorem landAll_keepsPins {s0 : State} {x : FrondRef} {x1 : ℕ} {x2 : State} (h_x2 : KeepsPins s0 x2) :
    KeepsPins s0 (landAll x x1 x2) := by
  revert h_x2
  fun_induction landAll x x1 x2
  all_goals
    try rename_i ih
    intro h_x2
    repeat' first
      | with_reducible assumption | with_reducible apply ih | with_reducible apply inject_keepsPins
      | with_reducible apply landBytes_keepsPins | intro _ | split | dsimp only | dsimp +zetaDelta only
      | with_reducible apply KeepsPins.pwrgood | with_reducible apply KeepsPins.resetN
      | with_reducible apply KeepsPins.testEn | with_reducible apply KeepsPins.domid
      | with_reducible apply KeepsPins.mbusSel | with_reducible apply KeepsPins.start
      | (refine KeepsPins.mk ?_ ?_ ?_ ?_ ?_ ?_ <;> dsimp only)

theorem landUnit_keepsPins {s0 : State} {r : Run} (h_r : RunKeepsPins s0 r) :
    RunKeepsPins s0 (landUnit r) := by
  unfold landUnit
  repeat' first
    | with_reducible assumption | with_reducible apply Run.st_keepsPins | with_reducible apply Run.base_keepsPins
    | with_reducible apply Run.wroteRun_keepsPins | split | dsimp only | (refine RunKeepsPins.mk ?_ ?_ <;> dsimp only)

theorem teeApply_keepsPins {s0 : State} {x : FrondRef} {s : State} (h_s : KeepsPins s0 s) :
    KeepsPins s0 (teeApply x s) := by
  unfold teeApply
  repeat' first
    | with_reducible assumption | with_reducible apply landAll_keepsPins | with_reducible apply runGhosts_keepsPins
    | with_reducible apply runUnit_keepsPins | with_reducible apply landUnit_keepsPins | with_reducible apply putFrond_keepsPins
    | split | dsimp only

theorem Run.copySector_keepsPins {s0 : State} {r : Run} {src : ℕ} {dst : ℕ} (h_r : RunKeepsPins s0 r) :
    RunKeepsPins s0 (Run.copySector r src dst) := by
  unfold Run.copySector
  repeat' first
    | with_reducible assumption | with_reducible apply Run.taint_keepsPins | with_reducible apply Run.wrBytes_keepsPins
    | with_reducible apply Run.st_keepsPins | with_reducible apply Run.rdBytes_keepsPins | with_reducible apply Run.base_keepsPins
    | with_reducible apply Run.up_keepsPins | with_reducible apply poisonAt_keepsPins | intro _ | split | dsimp only
    | (refine RunKeepsPins.mk ?_ ?_ <;> dsimp only)

theorem Run.copySpan_keepsPins {s0 : State} {r : Run} {src : ℕ} {dst : ℕ} {n : ℕ} (h_r : RunKeepsPins s0 r) :
    RunKeepsPins s0 (Run.copySpan r src dst n) := by
  unfold Run.copySpan
  repeat' first
    | with_reducible assumption | with_reducible apply Run.wroteRun_keepsPins | with_reducible apply forWhile_keeps
    | with_reducible apply Run.copySector_keepsPins | intro _

theorem Run.sendFill_keepsPins {s0 : State} {r : Run} {src : ℕ} {n : ℕ} {dest : ℕ} {off : ℕ} {addr : ℕ} (h_r : RunKeepsPins s0 r) :
    RunKeepsPins s0 (Run.sendFill r src n dest off addr) := by
  unfold Run.sendFill
  repeat' first
    | with_reducible assumption | with_reducible apply Run.sendPackets_keepsPins | with_reducible apply Run.st_keepsPins
    | with_reducible apply Run.bytes_keepsPins | with_reducible apply Run.base_keepsPins | dsimp only
    | (refine RunKeepsPins.mk ?_ ?_ <;> dsimp only)

theorem Run.awaitAcks_keepsPins {s0 : State} {r : Run} {dest : ℕ} {n : ℕ} (h_r : RunKeepsPins s0 r) :
    RunKeepsPins s0 (Run.awaitAcks r dest n) := by
  unfold Run.awaitAcks
  repeat' first
    | with_reducible assumption | with_reducible apply Run.up_keepsPins | with_reducible apply Run.await_keepsPins | intro _
    | split | dsimp only | with_reducible apply KeepsPins.pwrgood | with_reducible apply KeepsPins.resetN
    | with_reducible apply KeepsPins.testEn | with_reducible apply KeepsPins.domid
    | with_reducible apply KeepsPins.mbusSel | with_reducible apply KeepsPins.start
    | (refine KeepsPins.mk ?_ ?_ ?_ ?_ ?_ ?_ <;> dsimp only)

theorem epochUnit_keepsPins {s0 : State} {r : Run} (h_r : RunKeepsPins s0 r) :
    RunKeepsPins s0 (epochUnit r) := by
  unfold epochUnit
  repeat' first
    | with_reducible assumption | with_reducible apply Run.awaitAcks_keepsPins | with_reducible apply Run.commit_keepsPins
    | with_reducible apply Run.copySpan_keepsPins | with_reducible apply Run.sendFill_keepsPins | split

theorem fillUnitOut_keepsPins {s0 : State} {r : Run} (h_r : RunKeepsPins s0 r) :
    RunKeepsPins s0 (fillUnitOut r) := by
  unfold fillUnitOut
  repeat' first
    | with_reducible assumption | with_reducible apply Run.awaitAcks_keepsPins | with_reducible apply Run.commit_keepsPins
    | with_reducible apply Run.sendFill_keepsPins | split

theorem Run.putRecord_keepsPins {s0 : State} {r : Run} (h_r : RunKeepsPins s0 r) :
    RunKeepsPins s0 (Run.putRecord r) := by
  unfold Run.putRecord
  repeat' first
    | with_reducible assumption | with_reducible apply foldl_keeps | with_reducible apply Run.wr_keepsPins | intro _
    | split

theorem takeDrops_keepsPins {s0 : State} {s : State} {f : Frond} (h_s : KeepsPins s0 s) :
    KeepsPins s0 (takeDrops s f) := by
  unfold takeDrops
  repeat' first
    | with_reducible assumption | with_reducible apply putFrond_keepsPins | intro _ | split | dsimp only | exact rfl
    | with_reducible apply KeepsPins.pwrgood | with_reducible apply KeepsPins.resetN
    | with_reducible apply KeepsPins.testEn | with_reducible apply KeepsPins.domid
    | with_reducible apply KeepsPins.mbusSel | with_reducible apply KeepsPins.start
    | (refine KeepsPins.mk ?_ ?_ ?_ ?_ ?_ ?_ <;> dsimp only)

theorem redoUnit_keepsPins {s0 : State} {s : State} {f : Frond} {g : Frond} (h_s : KeepsPins s0 s) :
    KeepsPins s0 (redoUnit s f g) := by
  unfold redoUnit
  repeat' first
    | with_reducible assumption | with_reducible apply runUnit_keepsPins | with_reducible apply ringUnit_keepsPins
    | with_reducible apply dropFrond_keepsPins | with_reducible apply stopFrond_keepsPins | intro _ | split | dsimp only
    | exact rfl | with_reducible apply KeepsPins.pwrgood | with_reducible apply KeepsPins.resetN
    | with_reducible apply KeepsPins.testEn | with_reducible apply KeepsPins.domid
    | with_reducible apply KeepsPins.mbusSel | with_reducible apply KeepsPins.start
    | (refine KeepsPins.mk ?_ ?_ ?_ ?_ ?_ ?_ <;> dsimp only)

theorem redoNext_keepsPins {s0 : State} {s : State} {f : Frond} {g : Frond} (h_s : KeepsPins s0 s) :
    KeepsPins s0 (redoNext s f g) := by
  unfold redoNext
  repeat' first
    | with_reducible assumption | with_reducible apply clearWhole_keepsPins | with_reducible apply bump_keepsPins
    | with_reducible apply poisonDests_keepsPins | with_reducible apply redoUnit_keepsPins | split | dsimp only
    | with_reducible apply KeepsPins.pwrgood | with_reducible apply KeepsPins.resetN
    | with_reducible apply KeepsPins.testEn | with_reducible apply KeepsPins.domid
    | with_reducible apply KeepsPins.mbusSel | with_reducible apply KeepsPins.start
    | (refine KeepsPins.mk ?_ ?_ ?_ ?_ ?_ ?_ <;> dsimp only)

theorem startRollback_keepsPins {s0 : State} {s : State} {f : Frond} (h_s : KeepsPins s0 s) :
    KeepsPins s0 (startRollback s f) := by
  unfold startRollback
  repeat' first
    | with_reducible assumption | with_reducible apply putFrond_keepsPins | with_reducible apply logFrond_keepsPins
    | with_reducible apply setFailState_keepsPins | split | dsimp only | exact rfl | with_reducible apply KeepsPins.pwrgood
    | with_reducible apply KeepsPins.resetN | with_reducible apply KeepsPins.testEn
    | with_reducible apply KeepsPins.domid | with_reducible apply KeepsPins.mbusSel
    | with_reducible apply KeepsPins.start | (refine KeepsPins.mk ?_ ?_ ?_ ?_ ?_ ?_ <;> dsimp only)

theorem endRollback_keepsPins {s0 : State} {s : State} {f : Frond} (h_s : KeepsPins s0 s) :
    KeepsPins s0 (endRollback s f) := by
  unfold endRollback
  repeat' first
    | with_reducible assumption | with_reducible apply logFrond_keepsPins | with_reducible apply setFailState_keepsPins | split

theorem commitFinish_keepsPins {s0 : State} {s : State} {f : Frond} (h_s : KeepsPins s0 s) :
    KeepsPins s0 (commitFinish s f) := by
  unfold commitFinish
  repeat' first
    | with_reducible assumption | with_reducible apply runUnit_keepsPins | with_reducible apply Run.putRecord_keepsPins
    | with_reducible apply endRollback_keepsPins | intro _ | split | dsimp only

theorem commitStep_keepsPins {s0 : State} {s : State} {f : Frond} (h_s : KeepsPins s0 s) :
    KeepsPins s0 (commitStep s f) := by
  unfold commitStep
  repeat' first
    | with_reducible assumption | with_reducible apply barrierArrive_keepsPins | with_reducible apply redoNext_keepsPins
    | with_reducible apply commitFinish_keepsPins | with_reducible apply takeDrops_keepsPins
    | with_reducible apply startRollback_keepsPins | split

theorem commitRun_keepsPins {s0 : State} {x : FrondRef} {x1 : ℕ} {x2 : State} (h_x2 : KeepsPins s0 x2) :
    KeepsPins s0 (commitRun x x1 x2) := by
  revert h_x2
  fun_induction commitRun x x1 x2
  all_goals
    try rename_i ih
    intro h_x2
    repeat' first
      | with_reducible assumption | with_reducible apply ih | with_reducible apply commitStep_keepsPins

theorem shadowCheck_keepsPins {s0 : State} {s : State} (h_s : KeepsPins s0 s) :
    KeepsPins s0 (shadowCheck s) := by
  unfold shadowCheck
  repeat' first
    | with_reducible assumption | with_reducible apply takeDigest_keepsPins | with_reducible apply sendReady_keepsPins | split
    | dsimp only | with_reducible apply KeepsPins.pwrgood | with_reducible apply KeepsPins.resetN
    | with_reducible apply KeepsPins.testEn | with_reducible apply KeepsPins.domid
    | with_reducible apply KeepsPins.mbusSel | with_reducible apply KeepsPins.start
    | (refine KeepsPins.mk ?_ ?_ ?_ ?_ ?_ ?_ <;> dsimp only)

theorem sendSpans_keepsPins {s0 : State} {s : State} {dest : ℕ} {tag : ℕ} {l : List (ℕ × ℕ × ℕ)} (h_s : KeepsPins s0 s) :
    KeepsPins s0 (sendSpans s dest tag l) := by
  unfold sendSpans
  repeat' first
    | with_reducible assumption | with_reducible apply foldl_keeps | with_reducible apply inject_keepsPins | intro _

theorem reseedShadows_keepsPins {s0 : State} {s : State} {f : Frond} (h_s : KeepsPins s0 s) :
    KeepsPins s0 (reseedShadows s f) := by
  unfold reseedShadows
  repeat' first
    | with_reducible assumption | with_reducible apply logFrond_keepsPins | with_reducible apply setFailState_keepsPins
    | with_reducible apply sendSpans_keepsPins | intro _ | split | dsimp only | with_reducible apply KeepsPins.pwrgood
    | with_reducible apply KeepsPins.resetN | with_reducible apply KeepsPins.testEn
    | with_reducible apply KeepsPins.domid | with_reducible apply KeepsPins.mbusSel
    | with_reducible apply KeepsPins.start | (refine KeepsPins.mk ?_ ?_ ?_ ?_ ?_ ?_ <;> dsimp only)

theorem handOver_keepsPins {s0 : State} {s : State} {f : Frond} (h_s : KeepsPins s0 s) :
    KeepsPins s0 (handOver s f) := by
  unfold handOver
  repeat' first
    | with_reducible assumption | with_reducible apply logFrond_keepsPins | with_reducible apply setFailState_keepsPins
    | with_reducible apply completeHandover_keepsPins | with_reducible apply setReg_keepsPins
    | with_reducible apply sendAll_keepsPins | with_reducible apply noteSeen_keepsPins | with_reducible apply sendSpans_keepsPins
    | intro _ | split | dsimp only | exact rfl | with_reducible apply KeepsPins.pwrgood
    | with_reducible apply KeepsPins.resetN | with_reducible apply KeepsPins.testEn
    | with_reducible apply KeepsPins.domid | with_reducible apply KeepsPins.mbusSel
    | with_reducible apply KeepsPins.start | (refine KeepsPins.mk ?_ ?_ ?_ ?_ ?_ ?_ <;> dsimp only)

theorem handOverDue_keepsPins {s0 : State} {s : State} (h_s : KeepsPins s0 s) :
    KeepsPins s0 (handOverDue s) := by
  unfold handOverDue
  repeat' first
    | with_reducible assumption | with_reducible apply completeHandover_keepsPins | split

theorem startImages_keepsPins {s0 : State} {s : State} {ended : ℕ} (h_s : KeepsPins s0 s) :
    KeepsPins s0 (startImages s ended) := by
  unfold startImages
  repeat' first
    | with_reducible assumption | with_reducible apply forRange_keeps | with_reducible apply wrEnable_keepsPins
    | with_reducible apply setB_keepsPins | with_reducible apply setReg_keepsPins | intro _ | split | dsimp only
    | with_reducible apply KeepsPins.pwrgood | with_reducible apply KeepsPins.resetN
    | with_reducible apply KeepsPins.testEn | with_reducible apply KeepsPins.domid
    | with_reducible apply KeepsPins.mbusSel | with_reducible apply KeepsPins.start
    | (refine KeepsPins.mk ?_ ?_ ?_ ?_ ?_ ?_ <;> dsimp only)

theorem boundary_keepsPins {s0 : State} {f : Frond} {s : State} (h_s : KeepsPins s0 s) :
    KeepsPins s0 (boundary f s) := by
  unfold boundary
  repeat' first
    | with_reducible assumption | with_reducible apply startImages_keepsPins | with_reducible apply handOverDue_keepsPins
    | with_reducible apply handOver_keepsPins | with_reducible apply reseedShadows_keepsPins | with_reducible apply setReg_keepsPins
    | with_reducible apply shadowCheck_keepsPins | split | dsimp only | exact rfl | with_reducible apply KeepsPins.pwrgood
    | with_reducible apply KeepsPins.resetN | with_reducible apply KeepsPins.testEn
    | with_reducible apply KeepsPins.domid | with_reducible apply KeepsPins.mbusSel
    | with_reducible apply KeepsPins.start | (refine KeepsPins.mk ?_ ?_ ?_ ?_ ?_ ?_ <;> dsimp only)

theorem nextStep_keepsPins {s0 : State} {s : State} (h_s : KeepsPins s0 s) :
    KeepsPins s0 (nextStep s) := by
  unfold nextStep
  repeat' first
    | with_reducible assumption | split | dsimp only | with_reducible apply KeepsPins.pwrgood
    | with_reducible apply KeepsPins.resetN | with_reducible apply KeepsPins.testEn
    | with_reducible apply KeepsPins.domid | with_reducible apply KeepsPins.mbusSel
    | with_reducible apply KeepsPins.start | (refine KeepsPins.mk ?_ ?_ ?_ ?_ ?_ ?_ <;> dsimp only)

theorem boundaryUnit_keepsPins {s0 : State} {r : Run} (h_r : RunKeepsPins s0 r) :
    RunKeepsPins s0 (boundaryUnit r) := by
  unfold boundaryUnit
  repeat' first
    | with_reducible assumption | with_reducible apply Run.up_keepsPins | with_reducible apply Run.putRecord_keepsPins
    | with_reducible apply boundary_keepsPins | with_reducible apply nextStep_keepsPins

/-! ### Service -/

theorem barrierUnit_keepsPins {s0 : State} {s : State} {x : FrondRef} (h_s : KeepsPins s0 s) :
    KeepsPins s0 (barrierUnit s x) := by
  unfold barrierUnit
  repeat' first
    | with_reducible assumption | with_reducible apply barrierArrive_keepsPins | split

theorem failCell_keepsPins {s0 : State} {f : Frond} {s : State} {c : CellSel} (h_s : KeepsPins s0 s) :
    KeepsPins s0 (failCell f s c) := by
  unfold failCell
  repeat' first
    | with_reducible assumption | with_reducible apply countCellFault_keepsPins | with_reducible apply logUnit_keepsPins | split

theorem testUnit_keepsPins {s0 : State} {fails : List CellSel} {r : Run} (h_r : RunKeepsPins s0 r) :
    RunKeepsPins s0 (testUnit fails r) := by
  unfold testUnit
  repeat' first
    | with_reducible assumption | with_reducible apply Run.halt_keepsPins | with_reducible apply Run.up_keepsPins
    | with_reducible apply foldl_keeps | with_reducible apply Run.wr_keepsPins | with_reducible apply logMaint_keepsPins
    | with_reducible apply failCell_keepsPins | intro _ | split | dsimp only

theorem scrubUnit_keepsPins {s0 : State} {r : Run} (h_r : RunKeepsPins s0 r) :
    RunKeepsPins s0 (scrubUnit r) := by
  unfold scrubUnit
  repeat' first
    | with_reducible assumption | with_reducible apply forRange_fst_keeps | with_reducible apply scrubSector_keepsPins
    | with_reducible apply Run.st_keepsPins | with_reducible apply Run.base_keepsPins | with_reducible apply Run.up_keepsPins
    | with_reducible apply logPass_keepsPins | intro _ | split | dsimp only | (refine RunKeepsPins.mk ?_ ?_ <;> dsimp only)

theorem markUnit_keepsPins {s0 : State} {r : Run} (h_r : RunKeepsPins s0 r) :
    RunKeepsPins s0 (markUnit r) := by
  unfold markUnit
  repeat' first
    | with_reducible assumption | with_reducible apply Run.up_keepsPins | with_reducible apply logFrondAt_keepsPins | intro _

theorem resumeGranted_keepsPins {s0 : State} {s : State} {f : Frond} {g : Grant} {bad : Bool} (h_s : KeepsPins s0 s) :
    KeepsPins s0 (resumeGranted s f g bad) := by
  unfold resumeGranted
  repeat' first
    | with_reducible assumption | with_reducible apply putFrond_keepsPins

theorem grantTo_keepsPins {s0 : State} {s : State} {f : Frond} {p : Parked} {line : ℕ} {seq : ℕ} (h_s : KeepsPins s0 s) :
    KeepsPins s0 (grantTo s f p line seq) := by
  unfold grantTo
  repeat' first
    | with_reducible assumption | with_reducible apply resumeGranted_keepsPins | with_reducible apply grantLine_keepsPins

theorem presentAgain_keepsPins {s0 : State} {s : State} {x : FrondRef} {circ : Bool} (h_s : KeepsPins s0 s) :
    KeepsPins s0 (presentAgain s x circ) := by
  unfold presentAgain
  repeat' first
    | with_reducible assumption | with_reducible apply swapLine_keepsPins | with_reducible apply grantTo_keepsPins
    | with_reducible apply circMove_keepsPins | split

theorem waitExpires_keepsPins {s0 : State} {s : State} {x : FrondRef} {circ : Bool} (h_s : KeepsPins s0 s) :
    KeepsPins s0 (waitExpires s x circ) := by
  unfold waitExpires
  repeat' first
    | with_reducible assumption | with_reducible apply stopFrond_keepsPins | with_reducible apply logUnit_keepsPins
    | with_reducible apply advanceTo_keepsPins | split

/-! ### Scheme -/

theorem xBudget_keepsPins {s0 : State} {f : Frond} {x : XIn} {r : Run} (h_r : RunKeepsPins s0 r) :
    RunKeepsPins s0 ((xBudget f x r).2) := by
  unfold xBudget
  repeat' first
    | with_reducible assumption | with_reducible apply Run.cost_keepsPins | split | dsimp only

theorem Run.lwe_keepsPins {s0 : State} {r : Run} {w : Lwd} {j : ℕ} (h_r : RunKeepsPins s0 r) :
    RunKeepsPins s0 ((Run.lwe r w j).2) := by
  unfold Run.lwe
  repeat' first
    | with_reducible assumption | with_reducible apply Run.reduce_keepsPins | with_reducible apply Run.rdLimb_keepsPins

theorem Run.lwes_keepsPins {s0 : State} {r : Run} {w : Lwd} {lo : ℕ} {n : ℕ} (h_r : RunKeepsPins s0 r) :
    RunKeepsPins s0 ((Run.lwes r w lo n).2) := by
  unfold Run.lwes
  repeat' first
    | with_reducible assumption | with_reducible apply forWhile_snd_keeps | with_reducible apply Run.lwe_keepsPins
    | intro _

theorem Run.putLwes_keepsPins {s0 : State} {r : Run} {d : Lwd} {lo : ℕ} {l : List (List ℕ)} (h_r : RunKeepsPins s0 r) :
    RunKeepsPins s0 (Run.putLwes r d lo l) := by
  unfold Run.putLwes
  repeat' first
    | with_reducible assumption | with_reducible apply foldl_snd_keeps | with_reducible apply Run.wrLimb_keepsPins
    | intro _

theorem countKey_keepsPins {s0 : State} {f : Frond} {bytes : ℕ} {res : ℕ} {refused : ℕ} {down : ℕ} {up : ℕ} {s : State} (h_s : KeepsPins s0 s) :
    KeepsPins s0 (countKey f bytes res refused down up s) := by
  unfold countKey
  repeat' first
    | with_reducible assumption | with_reducible apply bump_keepsPins

theorem xExtract_keepsPins {s0 : State} {x : XIn} {d : Lwd} {r : Run} (h_r : RunKeepsPins s0 r) :
    RunKeepsPins s0 (xExtract x d r) := by
  unfold xExtract
  repeat' first
    | with_reducible assumption | with_reducible apply Run.putLwes_keepsPins | with_reducible apply Run.st_keepsPins
    | with_reducible apply Run.limbs_keepsPins | with_reducible apply Run.base_keepsPins | intro _ | split | dsimp only
    | (refine RunKeepsPins.mk ?_ ?_ <;> dsimp only)

theorem xSwitch_keepsPins {s0 : State} {x : XIn} {d : Lwd} {r : Run} (h_r : RunKeepsPins s0 r) :
    RunKeepsPins s0 (xSwitch x d r) := by
  unfold xSwitch
  repeat' first
    | with_reducible assumption | with_reducible apply Run.up_keepsPins | with_reducible apply Run.putLwes_keepsPins
    | with_reducible apply Run.rdLimb_keepsPins | with_reducible apply Run.lwes_keepsPins | with_reducible apply Run.flag_keepsPins
    | with_reducible apply countKey_keepsPins | intro _ | split

theorem Run.keyRow_keepsPins {s0 : State} {r : Run} {e : KsEntry} {q : ℕ} {t : ℕ} {tag : ℕ} {n : ℕ} (h_r : RunKeepsPins s0 r) :
    RunKeepsPins s0 (((Run.keyRow r e q t tag n).2).2) := by
  unfold Run.keyRow
  repeat' first
    | with_reducible assumption | with_reducible apply Run.rdLimb_keepsPins | with_reducible apply Run.flag_keepsPins | intro _
    | split | dsimp only

theorem Run.keyRows_keepsPins {s0 : State} {r : Run} {e : KsEntry} {q : ℕ} {lo : ℕ} {k : ℕ} {tag : ℕ} {n : ℕ} (h_r : RunKeepsPins s0 r) :
    RunKeepsPins s0 (((Run.keyRows r e q lo k tag n).2).2) := by
  unfold Run.keyRows
  repeat' first
    | with_reducible assumption | with_reducible apply forWhile_snd_snd_keeps | with_reducible apply Run.keyRow_keepsPins
    | intro _

theorem xRotate_keepsPins {s0 : State} {x : XIn} {d : Lwd} {r : Run} (h_r : RunKeepsPins s0 r) :
    RunKeepsPins s0 (xRotate x d r) := by
  unfold xRotate
  repeat' first
    | with_reducible assumption | with_reducible apply Run.up_keepsPins | with_reducible apply Run.putLwes_keepsPins
    | with_reducible apply forWhile_snd_snd_keeps | with_reducible apply Run.keyRows_keepsPins
    | with_reducible apply Run.lwes_keepsPins | with_reducible apply Run.st_keepsPins | with_reducible apply Run.srcLimb_keepsPins
    | with_reducible apply Run.base_keepsPins | with_reducible apply countKey_keepsPins | intro _ | split | dsimp only
    | (refine RunKeepsPins.mk ?_ ?_ <;> dsimp only)

theorem xRepack_keepsPins {s0 : State} {x : XIn} {d : Ctd} {r : Run} (h_r : RunKeepsPins s0 r) :
    RunKeepsPins s0 (xRepack x d r) := by
  unfold xRepack
  repeat' first
    | with_reducible assumption | with_reducible apply Run.up_keepsPins | with_reducible apply Run.dstLimb_keepsPins
    | with_reducible apply forWhile_snd_snd_keeps | with_reducible apply Run.keyRows_keepsPins
    | with_reducible apply Run.lwes_keepsPins | with_reducible apply countKey_keepsPins | intro _

theorem Run.drawBytes_keepsPins {s0 : State} {r : Run} {len : ℕ} (h_r : RunKeepsPins s0 r) :
    RunKeepsPins s0 ((Run.drawBytes r len).2) := by
  unfold Run.drawBytes
  repeat' first
    | with_reducible assumption | with_reducible apply drbgDraw_keepsPins | with_reducible apply Run.st_keepsPins
    | with_reducible apply Run.base_keepsPins | with_reducible apply Run.halt_keepsPins | with_reducible apply logDraw_keepsPins
    | split | dsimp only | (refine RunKeepsPins.mk ?_ ?_ <;> dsimp only)

theorem xExport_keepsPins {s0 : State} {x : XIn} {own : Ctd} {share : Ctd} {r : Run} (h_r : RunKeepsPins s0 r) :
    RunKeepsPins s0 (xExport x own share r) := by
  unfold xExport
  repeat' first
    | with_reducible assumption | with_reducible apply foldl_keeps | with_reducible apply Run.dstLimb_keepsPins
    | with_reducible apply Run.limbs_keepsPins | with_reducible apply Run.drawBytes_keepsPins | intro _

theorem xImport_keepsPins {s0 : State} {x : XIn} {d : Ctd} {r : Run} (h_r : RunKeepsPins s0 r) :
    RunKeepsPins s0 (xImport x d r) := by
  unfold xImport
  repeat' first
    | with_reducible assumption | with_reducible apply foldl_keeps | with_reducible apply Run.dstLimb_keepsPins
    | with_reducible apply Run.limbs_keepsPins | intro _

theorem xGo_keepsPins {s0 : State} {x : XIn} {r : Run} (h_r : RunKeepsPins s0 r) :
    RunKeepsPins s0 (xGo x r) := by
  unfold xGo
  repeat' first
    | with_reducible assumption | with_reducible apply Run.fillScratch_keepsPins | with_reducible apply xImport_keepsPins
    | with_reducible apply xExport_keepsPins | with_reducible apply xRepack_keepsPins | with_reducible apply xRotate_keepsPins
    | with_reducible apply xSwitch_keepsPins | with_reducible apply xExtract_keepsPins | with_reducible apply foldl_keeps
    | with_reducible apply Run.putDesc_keepsPins | intro _ | split | dsimp only

theorem xStart_keepsPins {s0 : State} {e : Option KsEntry} {r0 : Run} (h_r0 : RunKeepsPins s0 r0) :
    RunKeepsPins s0 (xStart e r0) := by
  unfold xStart
  repeat' first
    | with_reducible assumption | with_reducible apply Run.halt_keepsPins | with_reducible apply Run.noteScratch_keepsPins
    | with_reducible apply xGo_keepsPins | with_reducible apply Run.st_keepsPins | with_reducible apply xBudget_keepsPins
    | with_reducible apply Run.base_keepsPins | with_reducible apply Run.poisonedResult_keepsPins
    | with_reducible apply Run.bindFail_keepsPins | intro _ | split | dsimp only
    | (refine RunKeepsPins.mk ?_ ?_ <;> dsimp only)

theorem xUnit_keepsPins {s0 : State} {r0 : Run} (h_r0 : RunKeepsPins s0 r0) :
    RunKeepsPins s0 (xUnit r0) := by
  unfold xUnit
  repeat' first
    | with_reducible assumption | with_reducible apply xGo_keepsPins | with_reducible apply Run.loadDescs_keepsPins
    | with_reducible apply xStart_keepsPins | with_reducible apply Run.loadKey_keepsPins | split | dsimp only

/-! ### Share -/

theorem Run.drawTo_keepsPins {s0 : State} {r : Run} {n : ℕ} {x2 : ℕ} (h_r : RunKeepsPins s0 r) :
    RunKeepsPins s0 (Run.drawTo r n x2) := by
  induction x2 generalizing r with
  | zero => exact h_r
  | succ k ih =>
    unfold Run.drawTo
    change RunKeepsPins s0 (if n ≤ r.fr.buf.length then r else _)
    split
    · exact h_r
    · have h1 := Run.drawBytes_keepsPins (len := min 65536 (drawTotal r.fr - r.fr.buf.length)) h_r
      generalize r.drawBytes (min 65536 (drawTotal r.fr - r.fr.buf.length)) = v at h1 ⊢
      dsimp only
      split
      · exact ih ⟨h1.st, h1.base⟩
      · exact ⟨h1.st, h1.base⟩

theorem Run.rdShare_keepsPins {s0 : State} {r : Run} {q : ℕ} {i : ℕ} {e : ℕ} (h_r : RunKeepsPins s0 r) :
    RunKeepsPins s0 ((Run.rdShare r q i e).2) := by
  unfold Run.rdShare
  repeat' first
    | with_reducible assumption | with_reducible apply Run.flag_keepsPins | with_reducible apply Run.rd_keepsPins

theorem beaverElem_keepsPins {s0 : State} {e : ℕ} {r : Run} (h_r : RunKeepsPins s0 r) :
    RunKeepsPins s0 (beaverElem e r) := by
  unfold beaverElem
  repeat' first
    | with_reducible assumption | with_reducible apply Run.wr_keepsPins | with_reducible apply Run.rdShare_keepsPins | split
    | dsimp only

theorem splitElem_keepsPins {s0 : State} {e : ℕ} {r : Run} (h_r : RunKeepsPins s0 r) :
    RunKeepsPins s0 (splitElem e r) := by
  unfold splitElem
  repeat' first
    | with_reducible assumption | with_reducible apply Run.wr_keepsPins | with_reducible apply Run.rdShare_keepsPins

theorem openElem_keepsPins {s0 : State} {e : ℕ} {r : Run} (h_r : RunKeepsPins s0 r) :
    RunKeepsPins s0 (openElem e r) := by
  unfold openElem
  repeat' first
    | with_reducible assumption | with_reducible apply Run.wr_keepsPins | with_reducible apply Run.rdShare_keepsPins

theorem floodElem_keepsPins {s0 : State} {e : ℕ} {r : Run} (h_r : RunKeepsPins s0 r) :
    RunKeepsPins s0 (floodElem e r) := by
  unfold floodElem
  repeat' first
    | with_reducible assumption | with_reducible apply Run.wr_keepsPins | with_reducible apply Run.rdShare_keepsPins

theorem randElem_keepsPins {s0 : State} {e : ℕ} {r : Run} (h_r : RunKeepsPins s0 r) :
    RunKeepsPins s0 (randElem e r) := by
  unfold randElem
  repeat' first
    | with_reducible assumption | with_reducible apply Run.wr_keepsPins

theorem shareUnit_keepsPins {s0 : State} {elem : ℕ → Run → Run} {r : Run} (h_elem : (∀ y0, (∀ y1, RunKeepsPins s0 y1 → RunKeepsPins s0 (elem y0 y1)))) (h_r : RunKeepsPins s0 r) :
    RunKeepsPins s0 (shareUnit elem r) := by
  unfold shareUnit
  repeat' first
    | with_reducible assumption | with_reducible apply h_elem | with_reducible apply Run.each_keepsPins
    | with_reducible apply Run.drawTo_keepsPins | split

theorem openAnnounce_keepsPins {s0 : State} {r : Run} (h_r : RunKeepsPins s0 r) :
    RunKeepsPins s0 (openAnnounce r) := by
  unfold openAnnounce
  repeat' first
    | with_reducible assumption | with_reducible apply Run.commit_keepsPins | with_reducible apply Run.sendPackets_keepsPins
    | split

theorem openMeet_keepsPins {s0 : State} {r : Run} (h_r : RunKeepsPins s0 r) :
    RunKeepsPins s0 (openMeet r) := by
  unfold openMeet
  repeat' first
    | with_reducible assumption | with_reducible apply Run.await_keepsPins | with_reducible apply Run.stopWith_keepsPins
    | with_reducible apply Run.sendPackets_keepsPins | with_reducible apply Run.up_keepsPins
    | with_reducible apply Run.commit_keepsPins | intro _ | split | dsimp only | with_reducible apply KeepsPins.pwrgood
    | with_reducible apply KeepsPins.resetN | with_reducible apply KeepsPins.testEn
    | with_reducible apply KeepsPins.domid | with_reducible apply KeepsPins.mbusSel
    | with_reducible apply KeepsPins.start | (refine KeepsPins.mk ?_ ?_ ?_ ?_ ?_ ?_ <;> dsimp only)

theorem openSend_keepsPins {s0 : State} {r : Run} (h_r : RunKeepsPins s0 r) :
    RunKeepsPins s0 (openSend r) := by
  unfold openSend
  repeat' first
    | with_reducible assumption | with_reducible apply Run.await_keepsPins | with_reducible apply Run.commit_keepsPins
    | with_reducible apply Run.sendPackets_keepsPins | with_reducible apply Run.taint_keepsPins
    | with_reducible apply Run.rdRange_keepsPins | with_reducible apply Run.up_keepsPins | intro _ | split | dsimp only
    | with_reducible apply KeepsPins.pwrgood | with_reducible apply KeepsPins.resetN
    | with_reducible apply KeepsPins.testEn | with_reducible apply KeepsPins.domid
    | with_reducible apply KeepsPins.mbusSel | with_reducible apply KeepsPins.start
    | (refine KeepsPins.mk ?_ ?_ ?_ ?_ ?_ ?_ <;> dsimp only)

theorem openTake_keepsPins {s0 : State} {r : Run} (h_r : RunKeepsPins s0 r) :
    RunKeepsPins s0 (openTake r) := by
  unfold openTake
  repeat' first
    | with_reducible assumption | with_reducible apply Run.await_keepsPins | with_reducible apply Run.commit_keepsPins
    | with_reducible apply Run.flush_keepsPins | with_reducible apply Run.wrRange_keepsPins
    | with_reducible apply Run.taint_keepsPins | with_reducible apply Run.st_keepsPins | with_reducible apply Run.base_keepsPins
    | intro _ | split | dsimp only | with_reducible apply KeepsPins.pwrgood | with_reducible apply KeepsPins.resetN
    | with_reducible apply KeepsPins.testEn | with_reducible apply KeepsPins.domid
    | with_reducible apply KeepsPins.mbusSel | with_reducible apply KeepsPins.start
    | (refine KeepsPins.mk ?_ ?_ ?_ ?_ ?_ ?_ <;> dsimp only) | (refine RunKeepsPins.mk ?_ ?_ <;> dsimp only)

theorem openUnit_keepsPins {s0 : State} {r : Run} (h_r : RunKeepsPins s0 r) :
    RunKeepsPins s0 (openUnit r) := by
  unfold openUnit
  repeat' first
    | with_reducible assumption | with_reducible apply shareUnit_keepsPins | with_reducible apply openElem_keepsPins
    | with_reducible apply openTake_keepsPins | with_reducible apply openSend_keepsPins | with_reducible apply openMeet_keepsPins
    | with_reducible apply openAnnounce_keepsPins | split | dsimp only

end Sys2Proof.Machine
end

