-- ==== Sys2Proof/Laws/PinsSequencer.lean ====
section
/-! SUPPORT. Operations that leave the sampled straps, the power pins and the start-up measurements as they were: decode, acceptance, release, start-up and the step. -/

namespace Sys2Proof.Machine
open Sys2Proof

/-! ### Queue -/

theorem noteUnmapped_keepsPins {s0 : State} {s : State} {f : Frond} {p : Option OpSpec} (h_s : KeepsPins s0 s) :
    KeepsPins s0 (noteUnmapped s f p) := by
  unfold noteUnmapped
  repeat' first
    | with_reducible assumption | with_reducible apply logFrond_keepsPins | split

theorem enterFrond_keepsPins {s0 : State} {s : State} {f0 : Frond} (h_s : KeepsPins s0 s) :
    KeepsPins s0 (enterFrond s f0) := by
  unfold enterFrond
  repeat' first
    | with_reducible assumption | with_reducible apply noteUnmapped_keepsPins | intro _ | split | dsimp only
    | with_reducible apply KeepsPins.pwrgood | with_reducible apply KeepsPins.resetN
    | with_reducible apply KeepsPins.testEn | with_reducible apply KeepsPins.domid
    | with_reducible apply KeepsPins.mbusSel | with_reducible apply KeepsPins.start
    | (refine KeepsPins.mk ?_ ?_ ?_ ?_ ?_ ?_ <;> dsimp only)

theorem decodeOne_keepsPins {s0 : State} {s : State} {r : ℕ} {q : ℕ} (h_s : KeepsPins s0 s) :
    KeepsPins s0 (decodeOne s r q) := by
  unfold decodeOne
  repeat' first
    | with_reducible assumption | with_reducible apply enterFrond_keepsPins | with_reducible apply setF_keepsPins
    | with_reducible apply noteSpan_keepsPins | with_reducible apply fetchBad_keepsPins | split | dsimp only
    | with_reducible apply KeepsPins.pwrgood | with_reducible apply KeepsPins.resetN
    | with_reducible apply KeepsPins.testEn | with_reducible apply KeepsPins.domid
    | with_reducible apply KeepsPins.mbusSel | with_reducible apply KeepsPins.start
    | (refine KeepsPins.mk ?_ ?_ ?_ ?_ ?_ ?_ <;> dsimp only)

theorem decodeStep_keepsPins {s0 : State} {s : State} {r : ℕ} (h_s : KeepsPins s0 s) :
    KeepsPins s0 (decodeStep s r) := by
  unfold decodeStep
  repeat' first
    | with_reducible assumption | with_reducible apply decodeOne_keepsPins | with_reducible apply advanceTo_keepsPins | split

theorem askActivity_keepsPins {s0 : State} {s : State} {f : Frond} (h_s : KeepsPins s0 s) :
    KeepsPins s0 (askActivity s f) := by
  unfold askActivity
  repeat' first
    | with_reducible assumption | with_reducible apply requestAct_keepsPins | intro _ | split

theorem endActivity_keepsPins {s0 : State} {s : State} {f : Frond} (h_s : KeepsPins s0 s) :
    KeepsPins s0 (endActivity s f) := by
  unfold endActivity
  repeat' first
    | with_reducible assumption | with_reducible apply endAct_keepsPins | with_reducible apply maintStat_keepsPins | intro _
    | split | dsimp only | with_reducible apply KeepsPins.pwrgood | with_reducible apply KeepsPins.resetN
    | with_reducible apply KeepsPins.testEn | with_reducible apply KeepsPins.domid
    | with_reducible apply KeepsPins.mbusSel | with_reducible apply KeepsPins.start
    | (refine KeepsPins.mk ?_ ?_ ?_ ?_ ?_ ?_ <;> dsimp only)

theorem pickFrond_keepsPins {s0 : State} {s : State} {r : ℕ} (h_s : KeepsPins s0 s) :
    KeepsPins s0 ((pickFrond s r).2) := by
  unfold pickFrond
  repeat' first
    | with_reducible assumption | with_reducible apply foldl_snd_keeps | with_reducible apply askActivity_keepsPins
    | intro _ | split | dsimp only

theorem nameTile_keepsPins {s0 : State} {s : State} {k : ℕ} {source : Bool} (h_s : KeepsPins s0 s) :
    KeepsPins s0 (nameTile s k source) := by
  unfold nameTile
  repeat' first
    | with_reducible assumption | with_reducible apply forRange_keeps | with_reducible apply bump_keepsPins | intro _
    | split | dsimp only | exact rfl | with_reducible apply KeepsPins.pwrgood | with_reducible apply KeepsPins.resetN
    | with_reducible apply KeepsPins.testEn | with_reducible apply KeepsPins.domid
    | with_reducible apply KeepsPins.mbusSel | with_reducible apply KeepsPins.start
    | (refine KeepsPins.mk ?_ ?_ ?_ ?_ ?_ ?_ <;> dsimp only)

theorem projectShapes_keepsPins {s0 : State} {s : State} {f : Frond} (h_s : KeepsPins s0 s) :
    KeepsPins s0 (projectShapes s f) := by
  unfold projectShapes
  repeat' first
    | with_reducible assumption | intro _ | split | dsimp only | with_reducible apply KeepsPins.pwrgood
    | with_reducible apply KeepsPins.resetN | with_reducible apply KeepsPins.testEn
    | with_reducible apply KeepsPins.domid | with_reducible apply KeepsPins.mbusSel
    | with_reducible apply KeepsPins.start | (refine KeepsPins.mk ?_ ?_ ?_ ?_ ?_ ?_ <;> dsimp only)

theorem touchTensor_keepsPins {s0 : State} {s : State} {i : ℕ} (h_s : KeepsPins s0 s) :
    KeepsPins s0 (touchTensor s i) := by
  unfold touchTensor
  repeat' first
    | with_reducible assumption | with_reducible apply setF_keepsPins | with_reducible apply sendReady_keepsPins | split
    | dsimp only | with_reducible apply KeepsPins.pwrgood | with_reducible apply KeepsPins.resetN
    | with_reducible apply KeepsPins.testEn | with_reducible apply KeepsPins.domid
    | with_reducible apply KeepsPins.mbusSel | with_reducible apply KeepsPins.start
    | (refine KeepsPins.mk ?_ ?_ ?_ ?_ ?_ ?_ <;> dsimp only)

theorem noteTensors_keepsPins {s0 : State} {s : State} {l : List (ℕ × ℕ)} (h_s : KeepsPins s0 s) :
    KeepsPins s0 (noteTensors s l) := by
  unfold noteTensors
  repeat' first
    | with_reducible assumption | with_reducible apply forRange_keeps | with_reducible apply touchTensor_keepsPins
    | intro _ | split

theorem ordered_keepsPins {s0 : State} {s : State} {f : Frond} (h_s : KeepsPins s0 s) :
    KeepsPins s0 ((ordered s f).2) := by
  unfold ordered
  repeat' first
    | with_reducible assumption | dsimp only | with_reducible apply KeepsPins.pwrgood
    | with_reducible apply KeepsPins.resetN | with_reducible apply KeepsPins.testEn
    | with_reducible apply KeepsPins.domid | with_reducible apply KeepsPins.mbusSel
    | with_reducible apply KeepsPins.start | (refine KeepsPins.mk ?_ ?_ ?_ ?_ ?_ ?_ <;> dsimp only)

theorem discardAhead_keepsPins {s0 : State} {s : State} {f : Frond} (h_s : KeepsPins s0 s) :
    KeepsPins s0 (discardAhead s f) := by
  unfold discardAhead
  repeat' first
    | with_reducible assumption | with_reducible apply setF_keepsPins | split

theorem skipAt_keepsPins {s0 : State} {s : State} {f : Frond} {x : Status} {code : ℕ} (h_s : KeepsPins s0 s) :
    KeepsPins s0 (skipAt s f x code) := by
  unfold skipAt
  repeat' first
    | with_reducible assumption | with_reducible apply putFrond_keepsPins | with_reducible apply discardAhead_keepsPins
    | with_reducible apply endActivity_keepsPins | with_reducible apply logFrond_keepsPins | with_reducible apply bump_keepsPins
    | split

theorem refuseAt_keepsPins {s0 : State} {s : State} {f : Frond} {prom : ℕ} (h_s : KeepsPins s0 s) :
    KeepsPins s0 (refuseAt s f prom) := by
  unfold refuseAt
  repeat' first
    | with_reducible assumption | with_reducible apply putFrond_keepsPins | with_reducible apply discardAhead_keepsPins
    | with_reducible apply endActivity_keepsPins | with_reducible apply logFrond_keepsPins

theorem admitFrond_keepsPins {s0 : State} {s : State} {f : Frond} {p : OpSpec} {es : List ℕ} {i : ℕ} {prom : ℕ} (h_s : KeepsPins s0 s) :
    KeepsPins s0 (admitFrond s f p es i prom) := by
  unfold admitFrond
  repeat' first
    | with_reducible assumption | with_reducible apply putFrond_keepsPins | with_reducible apply noteTensors_keepsPins
    | with_reducible apply projectShapes_keepsPins | with_reducible apply foldl_keeps | with_reducible apply nameTile_keepsPins
    | intro _ | split | dsimp only | with_reducible apply KeepsPins.pwrgood | with_reducible apply KeepsPins.resetN
    | with_reducible apply KeepsPins.testEn | with_reducible apply KeepsPins.domid
    | with_reducible apply KeepsPins.mbusSel | with_reducible apply KeepsPins.start
    | (refine KeepsPins.mk ?_ ?_ ?_ ?_ ?_ ?_ <;> dsimp only)

theorem judge_keepsPins {s0 : State} {s : State} {f : Frond} {p : OpSpec} (h_s : KeepsPins s0 s) :
    KeepsPins s0 (judge s f p) := by
  unfold judge
  repeat' first
    | with_reducible assumption | with_reducible apply skipAt_keepsPins | with_reducible apply admitFrond_keepsPins
    | with_reducible apply refuseAt_keepsPins | with_reducible apply putFrond_keepsPins | with_reducible apply bump_keepsPins
    | intro _ | split | dsimp only

theorem acceptOne_keepsPins {s0 : State} {sA : State} {f0 : Frond} (h_sA : KeepsPins s0 sA) :
    KeepsPins s0 (acceptOne sA f0) := by
  unfold acceptOne
  repeat' first
    | with_reducible assumption | with_reducible apply skipAt_keepsPins | with_reducible apply consumeWaits_keepsPins
    | with_reducible apply ordered_keepsPins | with_reducible apply judge_keepsPins | with_reducible apply putFrond_keepsPins
    | with_reducible apply discardAhead_keepsPins | with_reducible apply endActivity_keepsPins | split | dsimp only

theorem acceptStep_keepsPins {s0 : State} {s : State} {r : ℕ} (h_s : KeepsPins s0 s) :
    KeepsPins s0 (acceptStep s r) := by
  unfold acceptStep
  have hp := pickFrond_keepsPins (r := r) h_s
  split
  · exact h_s
  · split <;> rename_i heq <;> rw [heq] at hp
    · exact acceptOne_keepsPins (advanceTo_keepsPins hp)
    · exact hp

theorem fetchElem_keepsPins {s0 : State} {share : ℕ} {i : ℕ} {x : FrondRef} {s : State} (h_s : KeepsPins s0 s) :
    KeepsPins s0 (fetchElem share i x s) := by
  unfold fetchElem
  repeat' first
    | with_reducible assumption | with_reducible apply putFrond_keepsPins | with_reducible apply bump_keepsPins
    | with_reducible apply checkRead_keepsPins | intro _ | split | dsimp only

theorem runAhead_keepsPins {s0 : State} {s : State} {x : FrondRef} {i : ℕ} {n : ℕ} (h_s : KeepsPins s0 s) :
    KeepsPins s0 (runAhead s x i n) := by
  unfold runAhead
  repeat' first
    | with_reducible assumption | with_reducible apply forRange_keeps | with_reducible apply fetchElem_keepsPins | intro _
    | split

theorem openBytes_keepsPins {s0 : State} {s : State} {a : ℕ} {n : ℕ} (h_s : KeepsPins s0 s) :
    KeepsPins s0 (openBytes s a n) := by
  unfold openBytes
  repeat' first
    | with_reducible assumption | with_reducible apply forRange_keeps | with_reducible apply putByte_keepsPins
    | with_reducible apply takeFree_keepsPins | intro _

theorem freeOutputs_keepsPins {s0 : State} {s : State} {f : Frond} (h_s : KeepsPins s0 s) :
    KeepsPins s0 (freeOutputs s f) := by
  unfold freeOutputs
  repeat' first
    | with_reducible assumption | with_reducible apply foldl_keeps | with_reducible apply forRange_keeps
    | with_reducible apply setTileByte_keepsPins | with_reducible apply takeFree_keepsPins | with_reducible apply openBytes_keepsPins
    | intro _ | split | dsimp only

theorem releaseOn_keepsPins {s0 : State} {s : State} {f : Frond} (h_s : KeepsPins s0 s) :
    KeepsPins s0 (releaseOn s f) := by
  unfold releaseOn
  repeat' first
    | with_reducible assumption | with_reducible apply release_keepsPins | with_reducible apply freeOutputs_keepsPins
    | with_reducible apply endActivity_keepsPins

theorem frondComplete_keepsPins {s0 : State} {s : State} {x : FrondRef} {b : ℕ} (h_s : KeepsPins s0 s) :
    KeepsPins s0 (frondComplete s x b) := by
  unfold frondComplete
  repeat' first
    | with_reducible assumption | with_reducible apply releaseOn_keepsPins | with_reducible apply advanceTo_keepsPins
    | with_reducible apply putFrond_keepsPins | split | dsimp only

theorem pacedRelease_keepsPins {s0 : State} {s : State} {x : FrondRef} (h_s : KeepsPins s0 s) :
    KeepsPins s0 (pacedRelease s x) := by
  unfold pacedRelease
  repeat' first
    | with_reducible assumption | with_reducible apply releaseOn_keepsPins | with_reducible apply advanceTo_keepsPins | split

theorem skippedRelease_keepsPins {s0 : State} {s : State} {x : FrondRef} (h_s : KeepsPins s0 s) :
    KeepsPins s0 (skippedRelease s x) := by
  unfold skippedRelease
  repeat' first
    | with_reducible assumption | with_reducible apply releaseOn_keepsPins | with_reducible apply advanceTo_keepsPins | split

theorem barrierRelease_keepsPins {s0 : State} {s : State} {x : FrondRef} (h_s : KeepsPins s0 s) :
    KeepsPins s0 (barrierRelease s x) := by
  unfold barrierRelease
  repeat' first
    | with_reducible assumption | with_reducible apply releaseOn_keepsPins | with_reducible apply advanceTo_keepsPins | split
    | dsimp only

/-! ### Start -/

theorem flushLog_keepsPins {s0 : State} {s : State} (h_s : KeepsPins s0 s) :
    KeepsPins s0 (flushLog s) := by
  unfold flushLog
  repeat' first
    | with_reducible assumption | with_reducible apply foldl_keeps | with_reducible apply ringWrite_keepsPins | intro _
    | split | dsimp only | exact rfl | with_reducible apply KeepsPins.pwrgood | with_reducible apply KeepsPins.resetN
    | with_reducible apply KeepsPins.testEn | with_reducible apply KeepsPins.domid
    | with_reducible apply KeepsPins.mbusSel | with_reducible apply KeepsPins.start
    | (refine KeepsPins.mk ?_ ?_ ?_ ?_ ?_ ?_ <;> dsimp only)

theorem toStep_keepsPins {s0 : State} {s : State} {n : ℕ} (h_s : KeepsPins s0 s) :
    KeepsPins s0 (toStep s n) := by
  unfold toStep
  repeat' first
    | with_reducible assumption | with_reducible apply logEv_keepsPins | with_reducible apply setF_keepsPins

theorem unlessStopped_keepsPins {s0 : State} {f : State → State} {s : State} (h_f : (∀ y0, KeepsPins s0 y0 → KeepsPins s0 (f y0))) (h_s : KeepsPins s0 s) :
    KeepsPins s0 (unlessStopped f s) := by
  unfold unlessStopped
  repeat' first
    | with_reducible assumption | with_reducible apply h_f | split

theorem refuseImage_keepsPins {s0 : State} {s : State} {reason : ℕ} (h_s : KeepsPins s0 s) :
    KeepsPins s0 (refuseImage s reason) := by
  unfold refuseImage
  repeat' first
    | with_reducible assumption | with_reducible apply bootStop_keepsPins | with_reducible apply logEv_keepsPins
    | with_reducible apply setF_keepsPins

theorem stepSignature_keepsPins {s0 : State} {s : State} (h_s : KeepsPins s0 s) :
    KeepsPins s0 (stepSignature s) := by
  unfold stepSignature
  repeat' first
    | with_reducible assumption | with_reducible apply refuseImage_keepsPins | with_reducible apply bootStop_keepsPins
    | with_reducible apply logEv_keepsPins | with_reducible apply setReg_keepsPins | split | dsimp only
    | with_reducible apply KeepsPins.pwrgood | with_reducible apply KeepsPins.resetN
    | with_reducible apply KeepsPins.testEn | with_reducible apply KeepsPins.domid
    | with_reducible apply KeepsPins.mbusSel | with_reducible apply KeepsPins.start
    | (refine KeepsPins.mk ?_ ?_ ?_ ?_ ?_ ?_ <;> dsimp only)

theorem identityFail_keepsPins {s0 : State} {s : State} {reason : ℕ} (h_s : KeepsPins s0 s) :
    KeepsPins s0 (identityFail s reason) := by
  unfold identityFail
  repeat' first
    | with_reducible assumption | with_reducible apply bootStop_keepsPins | with_reducible apply logPke_keepsPins
    | with_reducible apply setF_keepsPins

theorem stepIdentity_keepsPins {s0 : State} {s : State} (h_s : KeepsPins s0 s) :
    KeepsPins s0 (stepIdentity s) := by
  unfold stepIdentity
  repeat' first
    | with_reducible assumption | with_reducible apply logPke_keepsPins | with_reducible apply setReg_keepsPins
    | with_reducible apply fillSlot_keepsPins | with_reducible apply identityFail_keepsPins | split | dsimp only

theorem applyEntry_keepsPins {s0 : State} {s : State} {r : RegEntry} (h_s : KeepsPins s0 s) :
    KeepsPins s0 (applyEntry s r) := by
  unfold applyEntry
  repeat' first
    | with_reducible assumption | with_reducible apply logEv_keepsPins | with_reducible apply readAs_keepsPins
    | with_reducible apply writeAs_keepsPins | split | dsimp only

theorem applyPhase_keepsPins {s0 : State} {s : State} {n : ℕ} (h_s : KeepsPins s0 s) :
    KeepsPins s0 (applyPhase s n) := by
  unfold applyPhase
  repeat' first
    | with_reducible assumption | with_reducible apply foldl_keeps | with_reducible apply applyEntry_keepsPins

theorem applyMaps_keepsPins {s0 : State} {s : State} (h_s : KeepsPins s0 s) :
    KeepsPins s0 (applyMaps s) := by
  unfold applyMaps
  repeat' first
    | with_reducible assumption | with_reducible apply foldl_keeps | with_reducible apply setReg_keepsPins | intro _

theorem trainTower_keepsPins {s0 : State} {e : StartEnv} {t : ℕ} {s : State} (h_s : KeepsPins s0 s) :
    KeepsPins s0 (trainTower e t s) := by
  unfold trainTower
  repeat' first
    | with_reducible assumption | with_reducible apply setReg_keepsPins | with_reducible apply recordMargins_keepsPins
    | with_reducible apply setB_keepsPins | with_reducible apply bootStop_keepsPins | with_reducible apply logTow_keepsPins | intro _
    | split | dsimp only | with_reducible apply KeepsPins.pwrgood | with_reducible apply KeepsPins.resetN
    | with_reducible apply KeepsPins.testEn | with_reducible apply KeepsPins.domid
    | with_reducible apply KeepsPins.mbusSel | with_reducible apply KeepsPins.start
    | (refine KeepsPins.mk ?_ ?_ ?_ ?_ ?_ ?_ <;> dsimp only)

theorem stepSources_keepsPins {s0 : State} {e : StartEnv} {s : State} (h_s : KeepsPins s0 s) :
    KeepsPins s0 (stepSources e s) := by
  unfold stepSources
  repeat' first
    | with_reducible assumption | with_reducible apply seedAll_keepsPins | with_reducible apply startTest_keepsPins
    | with_reducible apply loadPrimes_keepsPins | with_reducible apply setF_keepsPins | dsimp only
    | with_reducible apply KeepsPins.pwrgood | with_reducible apply KeepsPins.resetN
    | with_reducible apply KeepsPins.testEn | with_reducible apply KeepsPins.domid
    | with_reducible apply KeepsPins.mbusSel | with_reducible apply KeepsPins.start
    | (refine KeepsPins.mk ?_ ?_ ?_ ?_ ?_ ?_ <;> dsimp only)

theorem loadSection_keepsPins {s0 : State} {img : List Byte} {s : State} {e : Section} (h_s : KeepsPins s0 s) :
    KeepsPins s0 (loadSection img s e) := by
  unfold loadSection
  repeat' first
    | with_reducible assumption | with_reducible apply putBytes_keepsPins | with_reducible apply setB_keepsPins
    | with_reducible apply setF_keepsPins | with_reducible apply bootStop_keepsPins | split

theorem stepLoad_keepsPins {s0 : State} {s : State} (h_s : KeepsPins s0 s) :
    KeepsPins s0 (stepLoad s) := by
  unfold stepLoad
  repeat' first
    | with_reducible assumption | with_reducible apply foldl_keeps | with_reducible apply loadSection_keepsPins
    | with_reducible apply applyPhase_keepsPins

theorem stepReady_keepsPins {s0 : State} {s : State} (h_s : KeepsPins s0 s) :
    KeepsPins s0 (stepReady s) := by
  unfold stepReady
  repeat' first
    | with_reducible assumption | with_reducible apply foldl_keeps | with_reducible apply wrEnable_keepsPins
    | with_reducible apply raiseIrq_keepsPins | with_reducible apply logEv_keepsPins | with_reducible apply setB_keepsPins
    | with_reducible apply applyPhase_keepsPins | intro _

theorem finish_keepsPins {s0 : State} {s : State} (h_s : KeepsPins s0 s) :
    KeepsPins s0 (finish s) := by
  unfold finish
  repeat' first
    | with_reducible assumption | with_reducible apply unlessStopped_keepsPins | with_reducible apply stepReady_keepsPins
    | with_reducible apply toStep_keepsPins | with_reducible apply stepLoad_keepsPins | intro _

theorem stepAlign_keepsPins {s0 : State} {s : State} (h_s : KeepsPins s0 s) :
    KeepsPins s0 (stepAlign s) := by
  unfold stepAlign
  repeat' first
    | with_reducible assumption | with_reducible apply toStep_keepsPins | with_reducible apply finish_keepsPins
    | with_reducible apply alignOut_keepsPins | with_reducible apply setAligned_keepsPins | split | dsimp only

theorem afterLinks_keepsPins {s0 : State} {s : State} (h_s : KeepsPins s0 s) :
    KeepsPins s0 (afterLinks s) := by
  unfold afterLinks
  repeat' first
    | with_reducible assumption | with_reducible apply stepAlign_keepsPins | split

theorem afterAlign_keepsPins {s0 : State} {s : State} (h_s : KeepsPins s0 s) :
    KeepsPins s0 (afterAlign s) := by
  unfold afterAlign
  repeat' first
    | with_reducible assumption | with_reducible apply finish_keepsPins | split

theorem stepsFromFlash_keepsPins {s0 : State} {e : StartEnv} {s : State} (h_s : KeepsPins s0 s) :
    KeepsPins s0 (stepsFromFlash e s) := by
  unfold stepsFromFlash
  repeat' first
    | with_reducible assumption | with_reducible apply unlessStopped_keepsPins | with_reducible apply afterLinks_keepsPins
    | with_reducible apply toStep_keepsPins | with_reducible apply stepSources_keepsPins | with_reducible apply forRange_keeps
    | with_reducible apply trainTower_keepsPins | with_reducible apply applyMaps_keepsPins
    | with_reducible apply applyPhase_keepsPins | with_reducible apply stepIdentity_keepsPins
    | with_reducible apply stepSignature_keepsPins | with_reducible apply setF_keepsPins | with_reducible apply bootStop_keepsPins
    | intro _ | split

theorem linkTimeout_keepsPins {s0 : State} {s : State} (h_s : KeepsPins s0 s) :
    KeepsPins s0 (linkTimeout s) := by
  unfold linkTimeout
  repeat' first
    | with_reducible assumption | with_reducible apply stepAlign_keepsPins | with_reducible apply advanceTo_keepsPins | split

theorem alignTimeout_keepsPins {s0 : State} {s : State} (h_s : KeepsPins s0 s) :
    KeepsPins s0 (alignTimeout s) := by
  unfold alignTimeout
  repeat' first
    | with_reducible assumption | with_reducible apply finish_keepsPins | with_reducible apply advanceTo_keepsPins | split

/-! ### Tick -/

theorem tick_keepsPins {s0 : State} {s : State} (h_s : KeepsPins s0 s) :
    KeepsPins s0 (tick s) := by
  unfold tick
  repeat' first
    | with_reducible assumption | with_reducible apply advanceTo_keepsPins

/-! ### Step -/

theorem State.withFetchWord_keepsPins {s0 : State} {s : State} {nbits : ℕ} {w : ℕ} (h_s : KeepsPins s0 s) :
    KeepsPins s0 (State.withFetchWord s nbits w) := by
  unfold State.withFetchWord
  repeat' first
    | with_reducible assumption | split | dsimp only | with_reducible apply KeepsPins.pwrgood
    | with_reducible apply KeepsPins.resetN | with_reducible apply KeepsPins.testEn
    | with_reducible apply KeepsPins.domid | with_reducible apply KeepsPins.mbusSel
    | with_reducible apply KeepsPins.start | (refine KeepsPins.mk ?_ ?_ ?_ ?_ ?_ ?_ <;> dsimp only)

end Sys2Proof.Machine
end

