-- ==== Sys2Proof/Laws/PinsExec.lean ====
section
/-! SUPPORT. The commands that leave the straps, the power pins and the start-up measurements as they were, one lemma for each meaning. -/

namespace Sys2Proof.Machine
open Sys2Proof

theorem execQtailWrite_keepsPins {s0 : State} {m : Master} {r : Fin 8} {q : Fin 4} {t : Word32} {s : State} (h_s : KeepsPins s0 s) :
    AnswerKeepsPins s0 (execQtailWrite m r q t s) := by
  unfold execQtailWrite
  repeat' first
    | with_reducible assumption | with_reducible apply effect_keepsPins | with_reducible apply gated_keepsPins
    | with_reducible apply wrQtail_keepsPins | with_reducible apply effect_keepsPins | with_reducible apply ifOk_keepsPins
    | with_reducible apply next_keepsPins | split | intro _

theorem execCrtailWrite_keepsPins {s0 : State} {m : Master} {r : Fin 8} {q : Fin 4} {t : Word32} {s : State} (h_s : KeepsPins s0 s) :
    AnswerKeepsPins s0 (execCrtailWrite m r q t s) := by
  unfold execCrtailWrite
  repeat' first
    | with_reducible assumption | with_reducible apply effect_keepsPins | with_reducible apply gated_keepsPins
    | with_reducible apply wrCrtail_keepsPins | with_reducible apply effect_keepsPins | with_reducible apply ifOk_keepsPins
    | with_reducible apply next_keepsPins | split | intro _

theorem execQueueEnableWrite_keepsPins {s0 : State} {m : Master} {r : Fin 8} {q : Fin 4} {en : Bool} {s : State} (h_s : KeepsPins s0 s) :
    AnswerKeepsPins s0 (execQueueEnableWrite m r q en s) := by
  unfold execQueueEnableWrite
  repeat' first
    | with_reducible assumption | with_reducible apply effect_keepsPins | with_reducible apply gated_keepsPins
    | with_reducible apply wrEnable_keepsPins | with_reducible apply effect_keepsPins | with_reducible apply ifOk_keepsPins
    | with_reducible apply next_keepsPins | split | intro _

theorem execQueueRestart_keepsPins {s0 : State} {m : Master} {r : Fin 8} {q : Fin 4} {s : State} (h_s : KeepsPins s0 s) :
    AnswerKeepsPins s0 (execQueueRestart m r q s) := by
  unfold execQueueRestart
  repeat' first
    | with_reducible assumption | with_reducible apply effect_keepsPins | with_reducible apply gated_keepsPins
    | with_reducible apply wrRestart_keepsPins | with_reducible apply effect_keepsPins | with_reducible apply ifOk_keepsPins
    | with_reducible apply next_keepsPins | split | intro _

theorem execQueueCfgWrite_keepsPins {s0 : State} {m : Master} {r : Fin 8} {q : Fin 4} {k : QueueCfg} {v : Word} {s : State} (h_s : KeepsPins s0 s) :
    AnswerKeepsPins s0 (execQueueCfgWrite m r q k v s) := by
  unfold execQueueCfgWrite
  repeat' first
    | with_reducible assumption | with_reducible apply effect_keepsPins | with_reducible apply gated_keepsPins
    | with_reducible apply wrQueueCfg_keepsPins | with_reducible apply effect_keepsPins | with_reducible apply ifOk_keepsPins
    | with_reducible apply next_keepsPins | split | intro _

theorem execTokenWrite_keepsPins {s0 : State} {m : Master} {t : TokenRef} {v : Word} {s : State} (h_s : KeepsPins s0 s) :
    AnswerKeepsPins s0 (execTokenWrite m t v s) := by
  unfold execTokenWrite
  repeat' first
    | with_reducible assumption | with_reducible apply effect_keepsPins | with_reducible apply gated_keepsPins
    | with_reducible apply setF_keepsPins | with_reducible apply effect_keepsPins | with_reducible apply ifOk_keepsPins
    | with_reducible apply next_keepsPins | split | intro _

theorem execAbortSingle_keepsPins {s0 : State} {m : Master} {r : Fin 8} {q : Fin 4} {seq : Word32} {s : State} (h_s : KeepsPins s0 s) :
    AnswerKeepsPins s0 (execAbortSingle m r q seq s) := by
  unfold execAbortSingle
  repeat' first
    | with_reducible assumption | with_reducible apply effect_keepsPins | with_reducible apply gated_keepsPins
    | with_reducible apply wrAbort_keepsPins | with_reducible apply effect_keepsPins | with_reducible apply ifOk_keepsPins
    | with_reducible apply next_keepsPins | split | intro _

theorem execAbortThrough_keepsPins {s0 : State} {m : Master} {r : Fin 8} {q : Fin 4} {seq : Word32} {s : State} (h_s : KeepsPins s0 s) :
    AnswerKeepsPins s0 (execAbortThrough m r q seq s) := by
  unfold execAbortThrough
  repeat' first
    | with_reducible assumption | with_reducible apply effect_keepsPins | with_reducible apply gated_keepsPins
    | with_reducible apply wrAbort_keepsPins | with_reducible apply effect_keepsPins | with_reducible apply ifOk_keepsPins
    | with_reducible apply next_keepsPins | split | intro _

theorem execAbortQueue_keepsPins {s0 : State} {m : Master} {r : Fin 8} {q : Fin 4} {seq : Word32} {s : State} (h_s : KeepsPins s0 s) :
    AnswerKeepsPins s0 (execAbortQueue m r q seq s) := by
  unfold execAbortQueue
  repeat' first
    | with_reducible assumption | with_reducible apply effect_keepsPins | with_reducible apply gated_keepsPins
    | with_reducible apply wrAbort_keepsPins | with_reducible apply effect_keepsPins | with_reducible apply ifOk_keepsPins
    | with_reducible apply next_keepsPins | split | intro _

theorem execPreemptDrain_keepsPins {s0 : State} {m : Master} {r : Fin 8} {q : Fin 4} {s : State} (h_s : KeepsPins s0 s) :
    AnswerKeepsPins s0 (execPreemptDrain m r q s) := by
  unfold execPreemptDrain
  repeat' first
    | with_reducible assumption | with_reducible apply effect_keepsPins | with_reducible apply gated_keepsPins
    | with_reducible apply wrPreempt_keepsPins | with_reducible apply effect_keepsPins | with_reducible apply ifOk_keepsPins
    | with_reducible apply next_keepsPins | split | intro _

theorem execPreemptSuspend_keepsPins {s0 : State} {m : Master} {r : Fin 8} {q : Fin 4} {s : State} (h_s : KeepsPins s0 s) :
    AnswerKeepsPins s0 (execPreemptSuspend m r q s) := by
  unfold execPreemptSuspend
  repeat' first
    | with_reducible assumption | with_reducible apply effect_keepsPins | with_reducible apply gated_keepsPins
    | with_reducible apply wrPreempt_keepsPins | with_reducible apply effect_keepsPins | with_reducible apply ifOk_keepsPins
    | with_reducible apply next_keepsPins | split | intro _

theorem execPreemptResume_keepsPins {s0 : State} {m : Master} {r : Fin 8} {q : Fin 4} {s : State} (h_s : KeepsPins s0 s) :
    AnswerKeepsPins s0 (execPreemptResume m r q s) := by
  unfold execPreemptResume
  repeat' first
    | with_reducible assumption | with_reducible apply effect_keepsPins | with_reducible apply gated_keepsPins
    | with_reducible apply wrResume_keepsPins | with_reducible apply effect_keepsPins | with_reducible apply ifOk_keepsPins
    | with_reducible apply next_keepsPins | split | intro _

theorem execPreemptDone_keepsPins {s0 : State} {r : Fin 8} {q : Fin 4} {s : State} (h_s : KeepsPins s0 s) :
    AnswerKeepsPins s0 (execPreemptDone r q s) := by
  unfold execPreemptDone
  repeat' first
    | with_reducible assumption | with_reducible apply effect_keepsPins | with_reducible apply preemptDone_keepsPins

theorem execMatModeWrite_keepsPins {s0 : State} {m : Master} {r : Fin 8} {v : Word} {s : State} (h_s : KeepsPins s0 s) :
    AnswerKeepsPins s0 (execMatModeWrite m r v s) := by
  unfold execMatModeWrite
  repeat' first
    | with_reducible assumption | with_reducible apply effect_keepsPins | with_reducible apply gated_keepsPins
    | with_reducible apply wrMatMode_keepsPins | with_reducible apply effect_keepsPins | with_reducible apply ifOk_keepsPins
    | with_reducible apply next_keepsPins | split | intro _

theorem execHoffCfgWrite_keepsPins {s0 : State} {m : Master} {r : Fin 8} {h : Fin 16} {v : Word} {s : State} (h_s : KeepsPins s0 s) :
    AnswerKeepsPins s0 (execHoffCfgWrite m r h v s) := by
  unfold execHoffCfgWrite
  repeat' first
    | with_reducible assumption | with_reducible apply effect_keepsPins | with_reducible apply gated_keepsPins
    | with_reducible apply wrHoff_keepsPins | with_reducible apply effect_keepsPins | with_reducible apply ifOk_keepsPins
    | with_reducible apply next_keepsPins | split | intro _

theorem execCircCfgWrite_keepsPins {s0 : State} {m : Master} {r : Fin 8} {k : Fin 4} {v : Word} {s : State} (h_s : KeepsPins s0 s) :
    AnswerKeepsPins s0 (execCircCfgWrite m r k v s) := by
  unfold execCircCfgWrite
  repeat' first
    | with_reducible assumption | with_reducible apply effect_keepsPins | with_reducible apply gated_keepsPins
    | with_reducible apply wrCirc_keepsPins | with_reducible apply effect_keepsPins | with_reducible apply ifOk_keepsPins
    | with_reducible apply next_keepsPins | split | intro _

theorem execCircPointerWrite_keepsPins {s0 : State} {m : Master} {r : Fin 8} {k : Fin 4} {tail : Bool} {v : Word} {s : State} (h_s : KeepsPins s0 s) :
    AnswerKeepsPins s0 (execCircPointerWrite m r k tail v s) := by
  unfold execCircPointerWrite
  repeat' first
    | with_reducible assumption | with_reducible apply effect_keepsPins | with_reducible apply gated_keepsPins
    | with_reducible apply wrCircPtr_keepsPins | with_reducible apply effect_keepsPins | with_reducible apply ifOk_keepsPins
    | with_reducible apply next_keepsPins | split | intro _

theorem execPclassWrite_keepsPins {s0 : State} {m : Master} {r : Fin 8} {k : Fin 16} {v : Word} {s : State} (h_s : KeepsPins s0 s) :
    AnswerKeepsPins s0 (execPclassWrite m r k v s) := by
  unfold execPclassWrite
  repeat' first
    | with_reducible assumption | with_reducible apply effect_keepsPins | with_reducible apply gated_keepsPins
    | with_reducible apply wrPclass_keepsPins | with_reducible apply effect_keepsPins | with_reducible apply ifOk_keepsPins
    | with_reducible apply next_keepsPins | split | intro _

theorem execChcfgWrite_keepsPins {s0 : State} {m : Master} {r : Fin 8} {c : Fin 32} {v : Word} {s : State} (h_s : KeepsPins s0 s) :
    AnswerKeepsPins s0 (execChcfgWrite m r c v s) := by
  unfold execChcfgWrite
  repeat' first
    | with_reducible assumption | with_reducible apply effect_keepsPins | with_reducible apply gated_keepsPins
    | with_reducible apply wrChcfg_keepsPins | with_reducible apply effect_keepsPins | with_reducible apply ifOk_keepsPins
    | with_reducible apply next_keepsPins | split | intro _

theorem execEntropyHealthFail_keepsPins {s0 : State} {apt : Bool} {rerun : Bool} {s : State} (h_s : KeepsPins s0 s) :
    AnswerKeepsPins s0 (execEntropyHealthFail apt rerun s) := by
  unfold execEntropyHealthFail
  repeat' first
    | with_reducible assumption | with_reducible apply effect_keepsPins | with_reducible apply healthFail_keepsPins

theorem execEntropyRecovered_keepsPins {s0 : State} {s : State} (h_s : KeepsPins s0 s) :
    AnswerKeepsPins s0 (execEntropyRecovered s) := by
  unfold execEntropyRecovered
  repeat' first
    | with_reducible assumption | with_reducible apply effect_keepsPins | with_reducible apply recovered_keepsPins

theorem execRngRetry_keepsPins {s0 : State} {m : Master} {pass : Bool} {s : State} (h_s : KeepsPins s0 s) :
    AnswerKeepsPins s0 (execRngRetry m pass s) := by
  unfold execRngRetry
  repeat' first
    | with_reducible assumption | with_reducible apply effect_keepsPins | with_reducible apply gated_keepsPins
    | with_reducible apply rngRetry_keepsPins | with_reducible apply effect_keepsPins | with_reducible apply ifOk_keepsPins
    | with_reducible apply next_keepsPins | split | intro _

theorem execDrbgReseed_keepsPins {s0 : State} {i : Fin 9} {s : State} (h_s : KeepsPins s0 s) :
    AnswerKeepsPins s0 (execDrbgReseed i s) := by
  unfold execDrbgReseed
  repeat' first
    | with_reducible assumption | with_reducible apply effect_keepsPins | with_reducible apply reseedDue_keepsPins

theorem execInstantiateUnseeded_keepsPins {s0 : State} {s : State} (h_s : KeepsPins s0 s) :
    AnswerKeepsPins s0 (execInstantiateUnseeded s) := by
  unfold execInstantiateUnseeded
  repeat' first
    | with_reducible assumption | with_reducible apply effect_keepsPins | with_reducible apply seedAll_keepsPins
    | with_reducible apply effect_keepsPins | with_reducible apply ifOk_keepsPins | with_reducible apply next_keepsPins | split

theorem execCellReplay_keepsPins {s0 : State} {f : FrondRef} {u : UnitSel} {cell : Fin 8} {s : State} (h_s : KeepsPins s0 s) :
    AnswerKeepsPins s0 (execCellReplay f u cell s) := by
  unfold execCellReplay
  repeat' first
    | with_reducible assumption | with_reducible apply effect_keepsPins | with_reducible apply cellReplay_keepsPins

theorem execCellFault_keepsPins {s0 : State} {f : FrondRef} {u : UnitSel} {cell : Fin 8} {s : State} (h_s : KeepsPins s0 s) :
    AnswerKeepsPins s0 (execCellFault f u cell s) := by
  unfold execCellFault
  repeat' first
    | with_reducible assumption | with_reducible apply effect_keepsPins | with_reducible apply cellFault_keepsPins

theorem execSequencerParity_keepsPins {s0 : State} {r : Fin 8} {s : State} (h_s : KeepsPins s0 s) :
    AnswerKeepsPins s0 (execSequencerParity r s) := by
  unfold execSequencerParity
  repeat' first
    | with_reducible assumption | with_reducible apply effect_keepsPins | with_reducible apply regionFault_keepsPins

theorem execBlockFault_keepsPins {s0 : State} {f : FrondRef} {s : State} (h_s : KeepsPins s0 s) :
    AnswerKeepsPins s0 (execBlockFault f s) := by
  unfold execBlockFault
  repeat' first
    | with_reducible assumption | with_reducible apply effect_keepsPins | with_reducible apply blockFault_keepsPins

theorem execBridgeReplay_keepsPins {s0 : State} {d : Fin 2} {s : State} (h_s : KeepsPins s0 s) :
    AnswerKeepsPins s0 (execBridgeReplay d s) := by
  unfold execBridgeReplay
  repeat' first
    | with_reducible assumption | with_reducible apply effect_keepsPins | with_reducible apply bridgeReplay_keepsPins

theorem execPeriParity_keepsPins {s0 : State} {f : FrondRef} {s : State} (h_s : KeepsPins s0 s) :
    AnswerKeepsPins s0 (execPeriParity f s) := by
  unfold execPeriParity
  repeat' first
    | with_reducible assumption | with_reducible apply effect_keepsPins | with_reducible apply periParity_keepsPins

theorem execSporeExpanderReplay_keepsPins {s0 : State} {f : FrondRef} {cell : Fin 8} {s : State} (h_s : KeepsPins s0 s) :
    AnswerKeepsPins s0 (execSporeExpanderReplay f cell s) := by
  unfold execSporeExpanderReplay
  repeat' first
    | with_reducible assumption | with_reducible apply effect_keepsPins | with_reducible apply sporeReplay_keepsPins

theorem execLogRingEntry_keepsPins {s0 : State} {s : State} (h_s : KeepsPins s0 s) :
    AnswerKeepsPins s0 (execLogRingEntry s) := by
  unfold execLogRingEntry
  repeat' first
    | with_reducible assumption | with_reducible apply effect_keepsPins | with_reducible apply ringEnter_keepsPins

theorem execLogRdSelWrite_keepsPins {s0 : State} {m : Master} {v : Word} {s : State} (h_s : KeepsPins s0 s) :
    AnswerKeepsPins s0 (execLogRdSelWrite m v s) := by
  unfold execLogRdSelWrite
  repeat' first
    | with_reducible assumption | with_reducible apply effect_keepsPins | with_reducible apply gated_keepsPins
    | with_reducible apply wrRdSel_keepsPins | with_reducible apply effect_keepsPins | with_reducible apply ifOk_keepsPins
    | with_reducible apply next_keepsPins | split | intro _

theorem execLogTailWrite_keepsPins {s0 : State} {m : Master} {v : Word} {s : State} (h_s : KeepsPins s0 s) :
    AnswerKeepsPins s0 (execLogTailWrite m v s) := by
  unfold execLogTailWrite
  repeat' first
    | with_reducible assumption | with_reducible apply effect_keepsPins | with_reducible apply gated_keepsPins
    | with_reducible apply wrLogTail_keepsPins | with_reducible apply effect_keepsPins | with_reducible apply ifOk_keepsPins
    | with_reducible apply next_keepsPins | split | intro _

theorem execDrainTailWrite_keepsPins {s0 : State} {m : Master} {v : Word} {s : State} (h_s : KeepsPins s0 s) :
    AnswerKeepsPins s0 (execDrainTailWrite m v s) := by
  unfold execDrainTailWrite
  repeat' first
    | with_reducible assumption | with_reducible apply effect_keepsPins | with_reducible apply gated_keepsPins
    | with_reducible apply wrDrainTail_keepsPins | with_reducible apply effect_keepsPins | with_reducible apply ifOk_keepsPins
    | with_reducible apply next_keepsPins | split | intro _

theorem execMaintReqScrub_keepsPins {s0 : State} {m : Master} {scope : BitVec 8} {s : State} (h_s : KeepsPins s0 s) :
    AnswerKeepsPins s0 (execMaintReqScrub m scope s) := by
  unfold execMaintReqScrub
  repeat' first
    | with_reducible assumption | with_reducible apply effect_keepsPins | with_reducible apply gated_keepsPins
    | with_reducible apply wrMaintReq_keepsPins | with_reducible apply effect_keepsPins | with_reducible apply ifOk_keepsPins
    | with_reducible apply next_keepsPins | split | intro _

theorem execMaintReqRetrain_keepsPins {s0 : State} {m : Master} {scope : BitVec 8} {s : State} (h_s : KeepsPins s0 s) :
    AnswerKeepsPins s0 (execMaintReqRetrain m scope s) := by
  unfold execMaintReqRetrain
  repeat' first
    | with_reducible assumption | with_reducible apply effect_keepsPins | with_reducible apply gated_keepsPins
    | with_reducible apply wrMaintReq_keepsPins | with_reducible apply effect_keepsPins | with_reducible apply ifOk_keepsPins
    | with_reducible apply next_keepsPins | split | intro _

theorem execMaintReqDrain_keepsPins {s0 : State} {m : Master} {scope : BitVec 8} {s : State} (h_s : KeepsPins s0 s) :
    AnswerKeepsPins s0 (execMaintReqDrain m scope s) := by
  unfold execMaintReqDrain
  repeat' first
    | with_reducible assumption | with_reducible apply effect_keepsPins | with_reducible apply gated_keepsPins
    | with_reducible apply wrMaintReq_keepsPins | with_reducible apply effect_keepsPins | with_reducible apply ifOk_keepsPins
    | with_reducible apply next_keepsPins | split | intro _

theorem execMaintReqThermal_keepsPins {s0 : State} {m : Master} {scope : BitVec 8} {s : State} (h_s : KeepsPins s0 s) :
    AnswerKeepsPins s0 (execMaintReqThermal m scope s) := by
  unfold execMaintReqThermal
  repeat' first
    | with_reducible assumption | with_reducible apply effect_keepsPins | with_reducible apply gated_keepsPins
    | with_reducible apply wrMaintReq_keepsPins | with_reducible apply effect_keepsPins | with_reducible apply ifOk_keepsPins
    | with_reducible apply next_keepsPins | split | intro _

theorem execMaintStart_keepsPins {s0 : State} {s : State} (h_s : KeepsPins s0 s) :
    AnswerKeepsPins s0 (execMaintStart s) := by
  unfold execMaintStart
  repeat' first
    | with_reducible assumption | with_reducible apply effect_keepsPins | with_reducible apply startNext_keepsPins

theorem execMaintDone_keepsPins {s0 : State} {act : Activity} {scope : ℕ} {corr : BitVec 16} {s : State} (h_s : KeepsPins s0 s) :
    AnswerKeepsPins s0 (execMaintDone act scope corr s) := by
  unfold execMaintDone
  repeat' first
    | with_reducible assumption | with_reducible apply effect_keepsPins | with_reducible apply maintDone_keepsPins

theorem execThermalRecalibration_keepsPins {s0 : State} {d : Fin 2} {s : State} (h_s : KeepsPins s0 s) :
    AnswerKeepsPins s0 (execThermalRecalibration d s) := by
  unfold execThermalRecalibration
  repeat' first
    | with_reducible assumption | with_reducible apply effect_keepsPins | with_reducible apply requestAct_keepsPins

theorem execScrubStep_keepsPins {s0 : State} {t : Fin 8} {s : State} (h_s : KeepsPins s0 s) :
    AnswerKeepsPins s0 (execScrubStep t s) := by
  unfold execScrubStep
  repeat' first
    | with_reducible assumption | with_reducible apply effect_keepsPins | with_reducible apply requestAct_keepsPins
    | with_reducible apply effect_keepsPins | with_reducible apply ifOk_keepsPins | with_reducible apply next_keepsPins | split

theorem execRefresh_keepsPins {s0 : State} {t : Fin 8} {b : Word} {hits : List FrondRef} {s : State} (h_s : KeepsPins s0 s) :
    AnswerKeepsPins s0 (execRefresh t b hits s) := by
  unfold execRefresh
  repeat' first
    | with_reducible assumption | with_reducible apply effect_keepsPins | with_reducible apply refresh_keepsPins

theorem execDramTempSample_keepsPins {s0 : State} {t : Fin 8} {temp : BitVec 8} {s : State} (h_s : KeepsPins s0 s) :
    AnswerKeepsPins s0 (execDramTempSample t temp s) := by
  unfold execDramTempSample
  repeat' first
    | with_reducible assumption | with_reducible apply effect_keepsPins | with_reducible apply tempSample_keepsPins

theorem execRfshModeWrite_keepsPins {s0 : State} {m : Master} {t : Fin 8} {v : Word} {s : State} (h_s : KeepsPins s0 s) :
    AnswerKeepsPins s0 (execRfshModeWrite m t v s) := by
  unfold execRfshModeWrite
  repeat' first
    | with_reducible assumption | with_reducible apply effect_keepsPins | with_reducible apply gated_keepsPins
    | with_reducible apply wrRfsh_keepsPins | with_reducible apply effect_keepsPins | with_reducible apply ifOk_keepsPins
    | with_reducible apply next_keepsPins | split | intro _

theorem execQuiesceWrite_keepsPins {s0 : State} {m : Master} {t : Fin 8} {v : Word} {s : State} (h_s : KeepsPins s0 s) :
    AnswerKeepsPins s0 (execQuiesceWrite m t v s) := by
  unfold execQuiesceWrite
  repeat' first
    | with_reducible assumption | with_reducible apply effect_keepsPins | with_reducible apply gated_keepsPins
    | with_reducible apply wrQuiesce_keepsPins | with_reducible apply effect_keepsPins | with_reducible apply ifOk_keepsPins
    | with_reducible apply next_keepsPins | split | intro _

theorem execTowerQuiesced_keepsPins {s0 : State} {t : Fin 8} {s : State} (h_s : KeepsPins s0 s) :
    AnswerKeepsPins s0 (execTowerQuiesced t s) := by
  unfold execTowerQuiesced
  repeat' first
    | with_reducible assumption | with_reducible apply effect_keepsPins | with_reducible apply towerIdle_keepsPins

theorem execTowQuiesceTimeout_keepsPins {s0 : State} {t : Fin 8} {s : State} (h_s : KeepsPins s0 s) :
    AnswerKeepsPins s0 (execTowQuiesceTimeout t s) := by
  unfold execTowQuiesceTimeout
  repeat' first
    | with_reducible assumption | with_reducible apply effect_keepsPins | with_reducible apply quiesceTimeout_keepsPins

theorem execMarginGo_keepsPins {s0 : State} {m : Master} {t : Fin 8} {v : Word} {s : State} (h_s : KeepsPins s0 s) :
    AnswerKeepsPins s0 (execMarginGo m t v s) := by
  unfold execMarginGo
  repeat' first
    | with_reducible assumption | with_reducible apply effect_keepsPins | with_reducible apply gated_keepsPins
    | with_reducible apply wrMargin_keepsPins | with_reducible apply effect_keepsPins | with_reducible apply ifOk_keepsPins
    | with_reducible apply next_keepsPins | split | intro _

theorem execMarginDone_keepsPins {s0 : State} {t : Fin 8} {rec : List MarginRec} {s : State} (h_s : KeepsPins s0 s) :
    AnswerKeepsPins s0 (execMarginDone t rec s) := by
  unfold execMarginDone
  repeat' first
    | with_reducible assumption | with_reducible apply effect_keepsPins | with_reducible apply marginDone_keepsPins

theorem execPoisonOpQuery_keepsPins {s0 : State} {m : Master} {t : Fin 8} {g : BitVec 24} {s : State} (h_s : KeepsPins s0 s) :
    AnswerKeepsPins s0 (execPoisonOpQuery m t g s) := by
  unfold execPoisonOpQuery
  repeat' first
    | with_reducible assumption | with_reducible apply effect_keepsPins | with_reducible apply gated_keepsPins
    | with_reducible apply wrPoisonOp_keepsPins | with_reducible apply effect_keepsPins | with_reducible apply ifOk_keepsPins
    | with_reducible apply next_keepsPins | split | intro _

theorem execPoisonOpSet_keepsPins {s0 : State} {m : Master} {t : Fin 8} {g : BitVec 24} {s : State} (h_s : KeepsPins s0 s) :
    AnswerKeepsPins s0 (execPoisonOpSet m t g s) := by
  unfold execPoisonOpSet
  repeat' first
    | with_reducible assumption | with_reducible apply effect_keepsPins | with_reducible apply gated_keepsPins
    | with_reducible apply wrPoisonOp_keepsPins | with_reducible apply effect_keepsPins | with_reducible apply ifOk_keepsPins
    | with_reducible apply next_keepsPins | split | intro _

theorem execPoisonOpClear_keepsPins {s0 : State} {m : Master} {t : Fin 8} {g : BitVec 24} {s : State} (h_s : KeepsPins s0 s) :
    AnswerKeepsPins s0 (execPoisonOpClear m t g s) := by
  unfold execPoisonOpClear
  repeat' first
    | with_reducible assumption | with_reducible apply effect_keepsPins | with_reducible apply gated_keepsPins
    | with_reducible apply wrPoisonOp_keepsPins | with_reducible apply effect_keepsPins | with_reducible apply ifOk_keepsPins
    | with_reducible apply next_keepsPins | split | intro _

theorem execKsetGo_keepsPins {s0 : State} {m : Master} {r : Fin 8} {k : Fin 16} {s : State} (h_s : KeepsPins s0 s) :
    AnswerKeepsPins s0 (execKsetGo m r k s) := by
  unfold execKsetGo
  repeat' first
    | with_reducible assumption | with_reducible apply effect_keepsPins | with_reducible apply gated_keepsPins
    | with_reducible apply ksetGo_keepsPins | with_reducible apply effect_keepsPins | with_reducible apply ifOk_keepsPins
    | with_reducible apply next_keepsPins | split | intro _

theorem execKsetRegistered_keepsPins {s0 : State} {r : Fin 8} {k : Fin 16} {s : State} (h_s : KeepsPins s0 s) :
    AnswerKeepsPins s0 (execKsetRegistered r k s) := by
  unfold execKsetRegistered
  repeat' first
    | with_reducible assumption | with_reducible apply effect_keepsPins | with_reducible apply ksetDone_keepsPins

theorem execKsetClear_keepsPins {s0 : State} {m : Master} {r : Fin 8} {k : Fin 16} {s : State} (h_s : KeepsPins s0 s) :
    AnswerKeepsPins s0 (execKsetClear m r k s) := by
  unfold execKsetClear
  repeat' first
    | with_reducible assumption | with_reducible apply effect_keepsPins | with_reducible apply gated_keepsPins
    | with_reducible apply ksetClear_keepsPins | with_reducible apply effect_keepsPins | with_reducible apply ifOk_keepsPins
    | with_reducible apply next_keepsPins | split | intro _

theorem execKsetBaseWrite_keepsPins {s0 : State} {m : Master} {r : Fin 8} {k : Fin 16} {v : Word} {s : State} (h_s : KeepsPins s0 s) :
    AnswerKeepsPins s0 (execKsetBaseWrite m r k v s) := by
  unfold execKsetBaseWrite
  repeat' first
    | with_reducible assumption | with_reducible apply effect_keepsPins | with_reducible apply gated_keepsPins
    | with_reducible apply wrKsetBase_keepsPins | with_reducible apply effect_keepsPins | with_reducible apply ifOk_keepsPins
    | with_reducible apply next_keepsPins | split | intro _

theorem execRailOutOfTolerance_keepsPins {s0 : State} {rail : Rail} {s : State} (h_s : KeepsPins s0 s) :
    AnswerKeepsPins s0 (execRailOutOfTolerance rail s) := by
  unfold execRailOutOfTolerance
  repeat' first
    | with_reducible assumption | with_reducible apply effect_keepsPins | with_reducible apply railOut_keepsPins
    | with_reducible apply effect_keepsPins | with_reducible apply ifOk_keepsPins | with_reducible apply next_keepsPins | split

theorem execVmgmtLoss_keepsPins {s0 : State} {s : State} (h_s : KeepsPins s0 s) :
    AnswerKeepsPins s0 (execVmgmtLoss s) := by
  unfold execVmgmtLoss
  repeat' first
    | with_reducible assumption | with_reducible apply effect_keepsPins | with_reducible apply loseLog_keepsPins

theorem execSysrefLockTimeout_keepsPins {s0 : State} {s : State} (h_s : KeepsPins s0 s) :
    AnswerKeepsPins s0 (execSysrefLockTimeout s) := by
  unfold execSysrefLockTimeout
  repeat' first
    | with_reducible assumption | with_reducible apply effect_keepsPins | with_reducible apply bootStop_keepsPins
    | with_reducible apply advanceTo_keepsPins | with_reducible apply effect_keepsPins | with_reducible apply ifOk_keepsPins
    | with_reducible apply next_keepsPins | split

theorem execRefLoss_keepsPins {s0 : State} {s : State} (h_s : KeepsPins s0 s) :
    AnswerKeepsPins s0 (execRefLoss s) := by
  unfold execRefLoss
  repeat' first
    | with_reducible assumption | with_reducible apply effect_keepsPins | with_reducible apply setB_keepsPins
    | with_reducible apply logCanary_keepsPins | with_reducible apply effect_keepsPins | with_reducible apply ifOk_keepsPins
    | with_reducible apply next_keepsPins | split

theorem execThermalThrottle_keepsPins {s0 : State} {d : Fin 2} {t : BitVec 8} {s : State} (h_s : KeepsPins s0 s) :
    AnswerKeepsPins s0 (execThermalThrottle d t s) := by
  unfold execThermalThrottle
  repeat' first
    | with_reducible assumption | with_reducible apply effect_keepsPins | with_reducible apply throttle_keepsPins

theorem execHotClear_keepsPins {s0 : State} {t0 : BitVec 8} {t1 : BitVec 8} {s : State} (h_s : KeepsPins s0 s) :
    AnswerKeepsPins s0 (execHotClear t0 t1 s) := by
  unfold execHotClear
  repeat' first
    | with_reducible assumption | with_reducible apply effect_keepsPins | with_reducible apply hotClear_keepsPins

theorem execThermtrip_keepsPins {s0 : State} {d : Fin 2} {t : BitVec 8} {s : State} (h_s : KeepsPins s0 s) :
    AnswerKeepsPins s0 (execThermtrip d t s) := by
  unfold execThermtrip
  repeat' first
    | with_reducible assumption | with_reducible apply effect_keepsPins | with_reducible apply thermTrip_keepsPins

theorem execVoltageLoopTick_keepsPins {s0 : State} {slack : BitVec 8} {full : Bool} {s : State} (h_s : KeepsPins s0 s) :
    AnswerKeepsPins s0 (execVoltageLoopTick slack full s) := by
  unfold execVoltageLoopTick
  repeat' first
    | with_reducible assumption | with_reducible apply effect_keepsPins | with_reducible apply voltageTick_keepsPins

theorem execPowerEstimate_keepsPins {s0 : State} {watts : ℕ} {s : State} (h_s : KeepsPins s0 s) :
    AnswerKeepsPins s0 (execPowerEstimate watts s) := by
  unfold execPowerEstimate
  repeat' first
    | with_reducible assumption | with_reducible apply effect_keepsPins | with_reducible apply powerEstimate_keepsPins

theorem execBeatStretch_keepsPins {s0 : State} {d : Fin 2} {cause : StretchCause} {s : State} (h_s : KeepsPins s0 s) :
    AnswerKeepsPins s0 (execBeatStretch d cause s) := by
  unfold execBeatStretch
  repeat' first
    | with_reducible assumption | with_reducible apply effect_keepsPins | with_reducible apply stretch_keepsPins

theorem execBeatUnstretch_keepsPins {s0 : State} {d : Fin 2} {s : State} (h_s : KeepsPins s0 s) :
    AnswerKeepsPins s0 (execBeatUnstretch d s) := by
  unfold execBeatUnstretch
  repeat' first
    | with_reducible assumption | with_reducible apply effect_keepsPins | with_reducible apply unstretch_keepsPins

theorem execPwrcapWrite_keepsPins {s0 : State} {m : Master} {w : BitVec 16} {s : State} (h_s : KeepsPins s0 s) :
    AnswerKeepsPins s0 (execPwrcapWrite m w s) := by
  unfold execPwrcapWrite
  repeat' first
    | with_reducible assumption | with_reducible apply effect_keepsPins | with_reducible apply gated_keepsPins
    | with_reducible apply wrCapW_keepsPins | with_reducible apply effect_keepsPins | with_reducible apply ifOk_keepsPins
    | with_reducible apply next_keepsPins | split | intro _

theorem execMemcfgWrite_keepsPins {s0 : State} {m : Master} {v : Word} {s : State} (h_s : KeepsPins s0 s) :
    AnswerKeepsPins s0 (execMemcfgWrite m v s) := by
  unfold execMemcfgWrite
  repeat' first
    | with_reducible assumption | with_reducible apply effect_keepsPins | with_reducible apply gated_keepsPins
    | with_reducible apply wrMemcfg_keepsPins | with_reducible apply effect_keepsPins | with_reducible apply ifOk_keepsPins
    | with_reducible apply next_keepsPins | split | intro _

theorem execNdClr_keepsPins {s0 : State} {m : Master} {s : State} (h_s : KeepsPins s0 s) :
    AnswerKeepsPins s0 (execNdClr m s) := by
  unfold execNdClr
  repeat' first
    | with_reducible assumption | with_reducible apply effect_keepsPins | with_reducible apply gated_keepsPins
    | with_reducible apply clearNd_keepsPins

theorem execMissClr_keepsPins {s0 : State} {m : Master} {s : State} (h_s : KeepsPins s0 s) :
    AnswerKeepsPins s0 (execMissClr m s) := by
  unfold execMissClr
  repeat' first
    | with_reducible assumption | with_reducible apply effect_keepsPins | with_reducible apply gated_keepsPins
    | with_reducible apply setReg_keepsPins | with_reducible apply effect_keepsPins | with_reducible apply ifOk_keepsPins
    | with_reducible apply next_keepsPins | split | intro _

theorem execShake256_keepsPins {s0 : State} {m : Master} {v : Word} {s : State} (h_s : KeepsPins s0 s) :
    AnswerKeepsPins s0 (execShake256 m v s) := by
  unfold execShake256
  repeat' first
    | with_reducible assumption | with_reducible apply effect_keepsPins | with_reducible apply gated_keepsPins
    | with_reducible apply pkeGo_keepsPins | with_reducible apply effect_keepsPins | with_reducible apply ifOk_keepsPins
    | with_reducible apply next_keepsPins | split | intro _

theorem execEd448Verify_keepsPins {s0 : State} {m : Master} {v : Word} {s : State} (h_s : KeepsPins s0 s) :
    AnswerKeepsPins s0 (execEd448Verify m v s) := by
  unfold execEd448Verify
  repeat' first
    | with_reducible assumption | with_reducible apply effect_keepsPins | with_reducible apply gated_keepsPins
    | with_reducible apply pkeGo_keepsPins | with_reducible apply effect_keepsPins | with_reducible apply ifOk_keepsPins
    | with_reducible apply next_keepsPins | split | intro _

theorem execEd448Sign_keepsPins {s0 : State} {m : Master} {v : Word} {s : State} (h_s : KeepsPins s0 s) :
    AnswerKeepsPins s0 (execEd448Sign m v s) := by
  unfold execEd448Sign
  repeat' first
    | with_reducible assumption | with_reducible apply effect_keepsPins | with_reducible apply gated_keepsPins
    | with_reducible apply pkeGo_keepsPins | with_reducible apply effect_keepsPins | with_reducible apply ifOk_keepsPins
    | with_reducible apply next_keepsPins | split | intro _

theorem execX448_keepsPins {s0 : State} {m : Master} {v : Word} {s : State} (h_s : KeepsPins s0 s) :
    AnswerKeepsPins s0 (execX448 m v s) := by
  unfold execX448
  repeat' first
    | with_reducible assumption | with_reducible apply effect_keepsPins | with_reducible apply gated_keepsPins
    | with_reducible apply pkeGo_keepsPins | with_reducible apply effect_keepsPins | with_reducible apply ifOk_keepsPins
    | with_reducible apply next_keepsPins | split | intro _

theorem execKeygen_keepsPins {s0 : State} {m : Master} {v : Word} {s : State} (h_s : KeepsPins s0 s) :
    AnswerKeepsPins s0 (execKeygen m v s) := by
  unfold execKeygen
  repeat' first
    | with_reducible assumption | with_reducible apply effect_keepsPins | with_reducible apply gated_keepsPins
    | with_reducible apply pkeGo_keepsPins | with_reducible apply effect_keepsPins | with_reducible apply ifOk_keepsPins
    | with_reducible apply next_keepsPins | split | intro _

theorem execPubkey_keepsPins {s0 : State} {m : Master} {v : Word} {s : State} (h_s : KeepsPins s0 s) :
    AnswerKeepsPins s0 (execPubkey m v s) := by
  unfold execPubkey
  repeat' first
    | with_reducible assumption | with_reducible apply effect_keepsPins | with_reducible apply gated_keepsPins
    | with_reducible apply pkeGo_keepsPins | with_reducible apply effect_keepsPins | with_reducible apply ifOk_keepsPins
    | with_reducible apply next_keepsPins | split | intro _

theorem execKdf_keepsPins {s0 : State} {m : Master} {v : Word} {s : State} (h_s : KeepsPins s0 s) :
    AnswerKeepsPins s0 (execKdf m v s) := by
  unfold execKdf
  repeat' first
    | with_reducible assumption | with_reducible apply effect_keepsPins | with_reducible apply gated_keepsPins
    | with_reducible apply pkeGo_keepsPins | with_reducible apply effect_keepsPins | with_reducible apply ifOk_keepsPins
    | with_reducible apply next_keepsPins | split | intro _

theorem execMac_keepsPins {s0 : State} {m : Master} {v : Word} {s : State} (h_s : KeepsPins s0 s) :
    AnswerKeepsPins s0 (execMac m v s) := by
  unfold execMac
  repeat' first
    | with_reducible assumption | with_reducible apply effect_keepsPins | with_reducible apply gated_keepsPins
    | with_reducible apply pkeGo_keepsPins | with_reducible apply effect_keepsPins | with_reducible apply ifOk_keepsPins
    | with_reducible apply next_keepsPins | split | intro _

theorem execClear_keepsPins {s0 : State} {m : Master} {v : Word} {s : State} (h_s : KeepsPins s0 s) :
    AnswerKeepsPins s0 (execClear m v s) := by
  unfold execClear
  repeat' first
    | with_reducible assumption | with_reducible apply effect_keepsPins | with_reducible apply gated_keepsPins
    | with_reducible apply pkeGo_keepsPins | with_reducible apply effect_keepsPins | with_reducible apply ifOk_keepsPins
    | with_reducible apply next_keepsPins | split | intro _

theorem execAttest_keepsPins {s0 : State} {m : Master} {v : Word} {s : State} (h_s : KeepsPins s0 s) :
    AnswerKeepsPins s0 (execAttest m v s) := by
  unfold execAttest
  repeat' first
    | with_reducible assumption | with_reducible apply effect_keepsPins | with_reducible apply gated_keepsPins
    | with_reducible apply pkeGo_keepsPins | with_reducible apply effect_keepsPins | with_reducible apply ifOk_keepsPins
    | with_reducible apply next_keepsPins | split | intro _

theorem execPkeComplete_keepsPins {s0 : State} {beats : Word32} {s : State} (h_s : KeepsPins s0 s) :
    AnswerKeepsPins s0 (execPkeComplete beats s) := by
  unfold execPkeComplete
  repeat' first
    | with_reducible assumption | with_reducible apply effect_keepsPins | with_reducible apply pkeComplete_keepsPins

theorem execPerstAssert_keepsPins {s0 : State} {p : Fin 2} {s : State} (h_s : KeepsPins s0 s) :
    AnswerKeepsPins s0 (execPerstAssert p s) := by
  unfold execPerstAssert
  repeat' first
    | with_reducible assumption | with_reducible apply effect_keepsPins | with_reducible apply perst_keepsPins

theorem execAtsTranslationCompletion_keepsPins {s0 : State} {p : Fin 2} {u : Word} {res : AtsResult} {s : State} (h_s : KeepsPins s0 s) :
    AnswerKeepsPins s0 (execAtsTranslationCompletion p u res s) := by
  unfold execAtsTranslationCompletion
  repeat' first
    | with_reducible assumption | with_reducible apply effect_keepsPins | with_reducible apply atsDone_keepsPins

theorem execAtsInvalidation_keepsPins {s0 : State} {p : Fin 2} {u : Word} {log2 : ℕ} {s : State} (h_s : KeepsPins s0 s) :
    AnswerKeepsPins s0 (execAtsInvalidation p u log2 s) := by
  unfold execAtsInvalidation
  repeat' first
    | with_reducible assumption | with_reducible apply ifOk_keepsPins | with_reducible apply invalidate_keepsPins

theorem execPageResponse_keepsPins {s0 : State} {p : Fin 2} {u : Word} {code : PageResp} {s : State} (h_s : KeepsPins s0 s) :
    AnswerKeepsPins s0 (execPageResponse p u code s) := by
  unfold execPageResponse
  repeat' first
    | with_reducible assumption | with_reducible apply effect_keepsPins | with_reducible apply pageResponse_keepsPins

theorem execPageReqTimeout_keepsPins {s0 : State} {p : Fin 2} {u : Word} {s : State} (h_s : KeepsPins s0 s) :
    AnswerKeepsPins s0 (execPageReqTimeout p u s) := by
  unfold execPageReqTimeout
  repeat' first
    | with_reducible assumption | with_reducible apply effect_keepsPins | with_reducible apply pageTimeout_keepsPins

theorem execHostCplErr_keepsPins {s0 : State} {f : FrondRef} {ep : Bool} {s : State} (h_s : KeepsPins s0 s) :
    AnswerKeepsPins s0 (execHostCplErr f ep s) := by
  unfold execHostCplErr
  repeat' first
    | with_reducible assumption | with_reducible apply effect_keepsPins | with_reducible apply cplErr_keepsPins

theorem execPcieLinkDown_keepsPins {s0 : State} {p : Fin 2} {s : State} (h_s : KeepsPins s0 s) :
    AnswerKeepsPins s0 (execPcieLinkDown p s) := by
  unfold execPcieLinkDown
  repeat' first
    | with_reducible assumption | with_reducible apply effect_keepsPins | with_reducible apply portLost_keepsPins
    | with_reducible apply effect_keepsPins | with_reducible apply ifOk_keepsPins | with_reducible apply next_keepsPins | split

theorem execPcieLinkUp_keepsPins {s0 : State} {p : Fin 2} {speed : BitVec 4} {width : BitVec 5} {s : State} (h_s : KeepsPins s0 s) :
    AnswerKeepsPins s0 (execPcieLinkUp p speed width s) := by
  unfold execPcieLinkUp
  repeat' first
    | with_reducible assumption | with_reducible apply effect_keepsPins | with_reducible apply portUpNow_keepsPins
    | with_reducible apply effect_keepsPins | with_reducible apply ifOk_keepsPins | with_reducible apply next_keepsPins | split

theorem execPcieConfigWrite_keepsPins {s0 : State} {p : Fin 2} {k : PcieCfg} {v : Word} {s : State} (h_s : KeepsPins s0 s) :
    AnswerKeepsPins s0 (execPcieConfigWrite p k v s) := by
  unfold execPcieConfigWrite
  repeat' first
    | with_reducible assumption | with_reducible apply effect_keepsPins | with_reducible apply configWrite_keepsPins

theorem execSemAcquire_keepsPins {s0 : State} {m : Master} {k : Fin 16} {s : State} (h_s : KeepsPins s0 s) :
    AnswerKeepsPins s0 (execSemAcquire m k s) := by
  unfold execSemAcquire
  repeat' first
    | with_reducible assumption | with_reducible apply effect_keepsPins | with_reducible apply wrSem_keepsPins

theorem execSemRelease_keepsPins {s0 : State} {m : Master} {k : Fin 16} {s : State} (h_s : KeepsPins s0 s) :
    AnswerKeepsPins s0 (execSemRelease m k s) := by
  unfold execSemRelease
  repeat' first
    | with_reducible assumption | with_reducible apply effect_keepsPins | with_reducible apply wrSem_keepsPins

theorem execMboxDataWrite_keepsPins {s0 : State} {m : Master} {d : Fin 3} {j : Fin 8} {v : Word} {s : State} (h_s : KeepsPins s0 s) :
    AnswerKeepsPins s0 (execMboxDataWrite m d j v s) := by
  unfold execMboxDataWrite
  repeat' first
    | with_reducible assumption | with_reducible apply effect_keepsPins | with_reducible apply wrMboxData_keepsPins

theorem execMboxSend_keepsPins {s0 : State} {m : Master} {d : Fin 3} {s : State} (h_s : KeepsPins s0 s) :
    AnswerKeepsPins s0 (execMboxSend m d s) := by
  unfold execMboxSend
  repeat' first
    | with_reducible assumption | with_reducible apply effect_keepsPins | with_reducible apply wrMboxCtl_keepsPins

theorem execMboxClear_keepsPins {s0 : State} {m : Master} {d : Fin 3} {s : State} (h_s : KeepsPins s0 s) :
    AnswerKeepsPins s0 (execMboxClear m d s) := by
  unfold execMboxClear
  repeat' first
    | with_reducible assumption | with_reducible apply effect_keepsPins | with_reducible apply wrMboxCtl_keepsPins

theorem execNvcfgRead_keepsPins {s0 : State} {m : Master} {len : BitVec 9} {s : State} (h_s : KeepsPins s0 s) :
    AnswerKeepsPins s0 (execNvcfgRead m len s) := by
  unfold execNvcfgRead
  repeat' first
    | with_reducible assumption | with_reducible apply ifOk_keepsPins | with_reducible apply nvCommand_keepsPins

theorem execNvcfgProgram_keepsPins {s0 : State} {m : Master} {len : BitVec 9} {s : State} (h_s : KeepsPins s0 s) :
    AnswerKeepsPins s0 (execNvcfgProgram m len s) := by
  unfold execNvcfgProgram
  repeat' first
    | with_reducible assumption | with_reducible apply ifOk_keepsPins | with_reducible apply nvCommand_keepsPins

theorem execNvcfgErase_keepsPins {s0 : State} {m : Master} {len : BitVec 9} {s : State} (h_s : KeepsPins s0 s) :
    AnswerKeepsPins s0 (execNvcfgErase m len s) := by
  unfold execNvcfgErase
  repeat' first
    | with_reducible assumption | with_reducible apply ifOk_keepsPins | with_reducible apply nvCommand_keepsPins

theorem execNvcfgDone_keepsPins {s0 : State} {err : FlashErr} {s : State} (h_s : KeepsPins s0 s) :
    AnswerKeepsPins s0 (execNvcfgDone err s) := by
  unfold execNvcfgDone
  repeat' first
    | with_reducible assumption | with_reducible apply effect_keepsPins | with_reducible apply nvDone_keepsPins

theorem execWdtKick_keepsPins {s0 : State} {m : Master} {s : State} (h_s : KeepsPins s0 s) :
    AnswerKeepsPins s0 (execWdtKick m s) := by
  unfold execWdtKick
  repeat' first
    | with_reducible assumption | with_reducible apply effect_keepsPins | with_reducible apply gated_keepsPins
    | with_reducible apply effect_keepsPins | with_reducible apply ifOk_keepsPins | with_reducible apply next_keepsPins | split
    | intro _ | dsimp only | with_reducible apply KeepsPins.pwrgood | with_reducible apply KeepsPins.resetN
    | with_reducible apply KeepsPins.testEn | with_reducible apply KeepsPins.domid
    | with_reducible apply KeepsPins.mbusSel | with_reducible apply KeepsPins.start
    | (refine KeepsPins.mk ?_ ?_ ?_ ?_ ?_ ?_ <;> dsimp only)

theorem execFwWatchdog_keepsPins {s0 : State} {s : State} (h_s : KeepsPins s0 s) :
    AnswerKeepsPins s0 (execFwWatchdog s) := by
  unfold execFwWatchdog
  repeat' first
    | with_reducible assumption | with_reducible apply effect_keepsPins | with_reducible apply watchdog_keepsPins

theorem execFwTrap_keepsPins {s0 : State} {cause : Word} {s : State} (h_s : KeepsPins s0 s) :
    AnswerKeepsPins s0 (execFwTrap cause s) := by
  unfold execFwTrap
  repeat' first
    | with_reducible assumption | with_reducible apply effect_keepsPins | with_reducible apply fillRestart_keepsPins
    | with_reducible apply fwExpiry_keepsPins | with_reducible apply logEv_keepsPins

theorem execMctpMessage_keepsPins {s0 : State} {q : MctpReq} {s : State} (h_s : KeepsPins s0 s) :
    AnswerKeepsPins s0 (execMctpMessage q s) := by
  unfold execMctpMessage
  repeat' first
    | with_reducible assumption | with_reducible apply effect_keepsPins | with_reducible apply mctp_keepsPins

theorem execLinkEnableWrite_keepsPins {s0 : State} {m : Master} {p : Fin 16} {en : Bool} {s : State} (h_s : KeepsPins s0 s) :
    AnswerKeepsPins s0 (execLinkEnableWrite m p en s) := by
  unfold execLinkEnableWrite
  repeat' first
    | with_reducible assumption | with_reducible apply effect_keepsPins | with_reducible apply gated_keepsPins
    | with_reducible apply wrLinkEnable_keepsPins | with_reducible apply effect_keepsPins | with_reducible apply ifOk_keepsPins
    | with_reducible apply next_keepsPins | split | intro _

theorem execLinkRetrainWrite_keepsPins {s0 : State} {m : Master} {p : Fin 16} {s : State} (h_s : KeepsPins s0 s) :
    AnswerKeepsPins s0 (execLinkRetrainWrite m p s) := by
  unfold execLinkRetrainWrite
  repeat' first
    | with_reducible assumption | with_reducible apply effect_keepsPins | with_reducible apply gated_keepsPins
    | with_reducible apply requestAct_keepsPins | with_reducible apply effect_keepsPins | with_reducible apply ifOk_keepsPins
    | with_reducible apply next_keepsPins | split | intro _

theorem execCrcFailure_keepsPins {s0 : State} {p : Fin 16} {badCrc : Bool} {s : State} (h_s : KeepsPins s0 s) :
    AnswerKeepsPins s0 (execCrcFailure p badCrc s) := by
  unfold execCrcFailure
  repeat' first
    | with_reducible assumption | with_reducible apply effect_keepsPins | with_reducible apply refusePacket_keepsPins
    | with_reducible apply bump_keepsPins | with_reducible apply effect_keepsPins | with_reducible apply ifOk_keepsPins
    | with_reducible apply next_keepsPins | split

theorem execLinkReplay_keepsPins {s0 : State} {p : Fin 16} {k : Packet} {s : State} (h_s : KeepsPins s0 s) :
    AnswerKeepsPins s0 (execLinkReplay p k s) := by
  unfold execLinkReplay
  repeat' first
    | with_reducible assumption | with_reducible apply ifOk_keepsPins | with_reducible apply onHeader_keepsPins
    | with_reducible apply effect_keepsPins | with_reducible apply ifOk_keepsPins | with_reducible apply next_keepsPins | split

theorem execLinkBadType_keepsPins {s0 : State} {p : Fin 16} {k : Packet} {s : State} (h_s : KeepsPins s0 s) :
    AnswerKeepsPins s0 (execLinkBadType p k s) := by
  unfold execLinkBadType
  repeat' first
    | with_reducible assumption | with_reducible apply ifOk_keepsPins | with_reducible apply receive_keepsPins
    | with_reducible apply effect_keepsPins | with_reducible apply ifOk_keepsPins | with_reducible apply next_keepsPins | split
    | intro _

theorem execIdle_keepsPins {s0 : State} {p : Fin 16} {k : Packet} {s : State} (h_s : KeepsPins s0 s) :
    AnswerKeepsPins s0 (execIdle p k s) := by
  unfold execIdle
  repeat' first
    | with_reducible assumption | with_reducible apply ifOk_keepsPins | with_reducible apply onHeader_keepsPins
    | with_reducible apply effect_keepsPins | with_reducible apply ifOk_keepsPins | with_reducible apply next_keepsPins | split

theorem execData_keepsPins {s0 : State} {p : Fin 16} {k : Packet} {s : State} (h_s : KeepsPins s0 s) :
    AnswerKeepsPins s0 (execData p k s) := by
  unfold execData
  repeat' first
    | with_reducible assumption | with_reducible apply ifOk_keepsPins | with_reducible apply receive_keepsPins
    | with_reducible apply takeData_keepsPins

theorem execRts_keepsPins {s0 : State} {p : Fin 16} {k : Packet} {s : State} (h_s : KeepsPins s0 s) :
    AnswerKeepsPins s0 (execRts p k s) := by
  unfold execRts
  repeat' first
    | with_reducible assumption | with_reducible apply ifOk_keepsPins | with_reducible apply receive_keepsPins
    | with_reducible apply takeRts_keepsPins

theorem execCts_keepsPins {s0 : State} {p : Fin 16} {k : Packet} {s : State} (h_s : KeepsPins s0 s) :
    AnswerKeepsPins s0 (execCts p k s) := by
  unfold execCts
  repeat' first
    | with_reducible assumption | with_reducible apply ifOk_keepsPins | with_reducible apply receive_keepsPins
    | with_reducible apply takeCts_keepsPins

theorem execColl_keepsPins {s0 : State} {p : Fin 16} {k : Packet} {s : State} (h_s : KeepsPins s0 s) :
    AnswerKeepsPins s0 (execColl p k s) := by
  unfold execColl
  repeat' first
    | with_reducible assumption | with_reducible apply ifOk_keepsPins | with_reducible apply receive_keepsPins
    | with_reducible apply takeColl_keepsPins

theorem execTee_keepsPins {s0 : State} {p : Fin 16} {k : Packet} {s : State} (h_s : KeepsPins s0 s) :
    AnswerKeepsPins s0 (execTee p k s) := by
  unfold execTee
  repeat' first
    | with_reducible assumption | with_reducible apply ifOk_keepsPins | with_reducible apply receive_keepsPins
    | with_reducible apply takeTee_keepsPins

theorem execMaint_keepsPins {s0 : State} {p : Fin 16} {k : Packet} {s : State} (h_s : KeepsPins s0 s) :
    AnswerKeepsPins s0 (execMaint p k s) := by
  unfold execMaint
  repeat' first
    | with_reducible assumption | with_reducible apply ifOk_keepsPins | with_reducible apply receive_keepsPins
    | with_reducible apply takeMaint_keepsPins

theorem execGroupWrite_keepsPins {s0 : State} {m : Master} {g : Fin 64} {b : Bool} {v : Word} {s : State} (h_s : KeepsPins s0 s) :
    AnswerKeepsPins s0 (execGroupWrite m g b v s) := by
  unfold execGroupWrite
  repeat' first
    | with_reducible assumption | with_reducible apply effect_keepsPins | with_reducible apply gated_keepsPins
    | with_reducible apply wrGroup_keepsPins | with_reducible apply effect_keepsPins | with_reducible apply ifOk_keepsPins
    | with_reducible apply next_keepsPins | split | intro _

theorem execCollTimeout_keepsPins {s0 : State} {f : FrondRef} {s : State} (h_s : KeepsPins s0 s) :
    AnswerKeepsPins s0 (execCollTimeout f s) := by
  unfold execCollTimeout
  repeat' first
    | with_reducible assumption | with_reducible apply effect_keepsPins | with_reducible apply collTimeout_keepsPins

theorem execTeeFail_keepsPins {s0 : State} {r : Fin 8} {k : ℕ} {s : State} (h_s : KeepsPins s0 s) :
    AnswerKeepsPins s0 (execTeeFail r k s) := by
  unfold execTeeFail
  repeat' first
    | with_reducible assumption | with_reducible apply effect_keepsPins | with_reducible apply teeFail_keepsPins

theorem execBarArrive_keepsPins {s0 : State} {p : Fin 16} {k : Packet} {s : State} (h_s : KeepsPins s0 s) :
    AnswerKeepsPins s0 (execBarArrive p k s) := by
  unfold execBarArrive
  repeat' first
    | with_reducible assumption | with_reducible apply ifOk_keepsPins | with_reducible apply receive_keepsPins
    | with_reducible apply takeArrive_keepsPins

theorem execBarRelease_keepsPins {s0 : State} {p : Fin 16} {k : Packet} {s : State} (h_s : KeepsPins s0 s) :
    AnswerKeepsPins s0 (execBarRelease p k s) := by
  unfold execBarRelease
  repeat' first
    | with_reducible assumption | with_reducible apply ifOk_keepsPins | with_reducible apply receive_keepsPins
    | with_reducible apply takeBarRelease_keepsPins

theorem execAliasCommit_keepsPins {s0 : State} {m : Master} {i : BitVec 8} {v : Word} {s : State} (h_s : KeepsPins s0 s) :
    AnswerKeepsPins s0 (execAliasCommit m i v s) := by
  unfold execAliasCommit
  repeat' first
    | with_reducible assumption | with_reducible apply effect_keepsPins | with_reducible apply gated_keepsPins
    | with_reducible apply wrAliasF_keepsPins | with_reducible apply effect_keepsPins | with_reducible apply ifOk_keepsPins
    | with_reducible apply next_keepsPins | split | intro _

theorem execHeartbeatSend_keepsPins {s0 : State} {s : State} (h_s : KeepsPins s0 s) :
    AnswerKeepsPins s0 (execHeartbeatSend s) := by
  unfold execHeartbeatSend
  repeat' first
    | with_reducible assumption | with_reducible apply effect_keepsPins | with_reducible apply heartbeatSend_keepsPins

theorem execHeartbeat_keepsPins {s0 : State} {p : Fin 16} {k : Packet} {err : ℤ} {s : State} (h_s : KeepsPins s0 s) :
    AnswerKeepsPins s0 (execHeartbeat p k err s) := by
  unfold execHeartbeat
  repeat' first
    | with_reducible assumption | with_reducible apply ifOk_keepsPins | with_reducible apply receive_keepsPins
    | with_reducible apply takeHeartbeat_keepsPins

theorem execArmWrite_keepsPins {s0 : State} {m : Master} {v : Word} {s : State} (h_s : KeepsPins s0 s) :
    AnswerKeepsPins s0 (execArmWrite m v s) := by
  unfold execArmWrite
  repeat' first
    | with_reducible assumption | with_reducible apply effect_keepsPins | with_reducible apply gated_keepsPins
    | with_reducible apply wrFailCtrl_keepsPins | with_reducible apply effect_keepsPins | with_reducible apply ifOk_keepsPins
    | with_reducible apply next_keepsPins | split | intro _

theorem execReadySync_keepsPins {s0 : State} {p : Fin 16} {k : Packet} {s : State} (h_s : KeepsPins s0 s) :
    AnswerKeepsPins s0 (execReadySync p k s) := by
  unfold execReadySync
  repeat' first
    | with_reducible assumption | with_reducible apply ifOk_keepsPins | with_reducible apply receive_keepsPins
    | with_reducible apply takeSync_keepsPins

theorem execCfgPartnerAbsent_keepsPins {s0 : State} {s : State} (h_s : KeepsPins s0 s) :
    AnswerKeepsPins s0 (execCfgPartnerAbsent s) := by
  unfold execCfgPartnerAbsent
  repeat' first
    | with_reducible assumption | with_reducible apply effect_keepsPins | with_reducible apply partnerAbsent_keepsPins

theorem execReadyColdDirty_keepsPins {s0 : State} {p : Fin 16} {k : Packet} {s : State} (h_s : KeepsPins s0 s) :
    AnswerKeepsPins s0 (execReadyColdDirty p k s) := by
  unfold execReadyColdDirty
  repeat' first
    | with_reducible assumption | with_reducible apply ifOk_keepsPins | with_reducible apply receive_keepsPins
    | with_reducible apply takeColdDirty_keepsPins

theorem execReadyDirtyAck_keepsPins {s0 : State} {p : Fin 16} {k : Packet} {s : State} (h_s : KeepsPins s0 s) :
    AnswerKeepsPins s0 (execReadyDirtyAck p k s) := by
  unfold execReadyDirtyAck
  repeat' first
    | with_reducible assumption | with_reducible apply ifOk_keepsPins | with_reducible apply receive_keepsPins
    | with_reducible apply takeDirtyAck_keepsPins

theorem execUnprotected_keepsPins {s0 : State} {i : ℕ} {s : State} (h_s : KeepsPins s0 s) :
    AnswerKeepsPins s0 (execUnprotected i s) := by
  unfold execUnprotected
  repeat' first
    | with_reducible assumption | with_reducible apply effect_keepsPins | with_reducible apply unprotected_keepsPins

theorem execReadyDigest_keepsPins {s0 : State} {p : Fin 16} {k : Packet} {s : State} (h_s : KeepsPins s0 s) :
    AnswerKeepsPins s0 (execReadyDigest p k s) := by
  unfold execReadyDigest
  repeat' first
    | with_reducible assumption | with_reducible apply ifOk_keepsPins | with_reducible apply receive_keepsPins
    | with_reducible apply takeDigest_keepsPins

theorem execLossDeclared_keepsPins {s0 : State} {p : Fin 16} {s : State} (h_s : KeepsPins s0 s) :
    AnswerKeepsPins s0 (execLossDeclared p s) := by
  unfold execLossDeclared
  repeat' first
    | with_reducible assumption | with_reducible apply effect_keepsPins | with_reducible apply declareLoss_keepsPins

theorem execSelfFenced_keepsPins {s0 : State} {s : State} (h_s : KeepsPins s0 s) :
    AnswerKeepsPins s0 (execSelfFenced s) := by
  unfold execSelfFenced
  repeat' first
    | with_reducible assumption | with_reducible apply effect_keepsPins | with_reducible apply selfFence_keepsPins

theorem execLossReceived_keepsPins {s0 : State} {p : Fin 16} {k : Packet} {s : State} (h_s : KeepsPins s0 s) :
    AnswerKeepsPins s0 (execLossReceived p k s) := by
  unfold execLossReceived
  repeat' first
    | with_reducible assumption | with_reducible apply ifOk_keepsPins | with_reducible apply receive_keepsPins
    | with_reducible apply takeLoss_keepsPins

theorem execGemmaClaim_keepsPins {s0 : State} {s : State} (h_s : KeepsPins s0 s) :
    AnswerKeepsPins s0 (execGemmaClaim s) := by
  unfold execGemmaClaim
  repeat' first
    | with_reducible assumption | with_reducible apply effect_keepsPins | with_reducible apply claimGemma_keepsPins

theorem execAdoptClaim_keepsPins {s0 : State} {p : Fin 16} {k : Packet} {s : State} (h_s : KeepsPins s0 s) :
    AnswerKeepsPins s0 (execAdoptClaim p k s) := by
  unfold execAdoptClaim
  repeat' first
    | with_reducible assumption | with_reducible apply ifOk_keepsPins | with_reducible apply receive_keepsPins
    | with_reducible apply takeClaim_keepsPins

theorem execReadyAccept_keepsPins {s0 : State} {p : Fin 16} {k : Packet} {s : State} (h_s : KeepsPins s0 s) :
    AnswerKeepsPins s0 (execReadyAccept p k s) := by
  unfold execReadyAccept
  repeat' first
    | with_reducible assumption | with_reducible apply ifOk_keepsPins | with_reducible apply receive_keepsPins
    | with_reducible apply takeAccept_keepsPins

theorem execReadyBusy_keepsPins {s0 : State} {p : Fin 16} {k : Packet} {s : State} (h_s : KeepsPins s0 s) :
    AnswerKeepsPins s0 (execReadyBusy p k s) := by
  unfold execReadyBusy
  repeat' first
    | with_reducible assumption | with_reducible apply ifOk_keepsPins | with_reducible apply receive_keepsPins
    | with_reducible apply takeBusy_keepsPins

theorem execGemmaFillDone_keepsPins {s0 : State} {s : State} (h_s : KeepsPins s0 s) :
    AnswerKeepsPins s0 (execGemmaFillDone s) := by
  unfold execGemmaFillDone
  repeat' first
    | with_reducible assumption | with_reducible apply effect_keepsPins | with_reducible apply fillDone_keepsPins

theorem execAdoptCommit_keepsPins {s0 : State} {p : Fin 16} {k : Packet} {s : State} (h_s : KeepsPins s0 s) :
    AnswerKeepsPins s0 (execAdoptCommit p k s) := by
  unfold execAdoptCommit
  repeat' first
    | with_reducible assumption | with_reducible apply ifOk_keepsPins | with_reducible apply receive_keepsPins
    | with_reducible apply takeAdopt_keepsPins

theorem execAdoptRelease_keepsPins {s0 : State} {p : Fin 16} {k : Packet} {s : State} (h_s : KeepsPins s0 s) :
    AnswerKeepsPins s0 (execAdoptRelease p k s) := by
  unfold execAdoptRelease
  repeat' first
    | with_reducible assumption | with_reducible apply ifOk_keepsPins | with_reducible apply receive_keepsPins
    | with_reducible apply effect_keepsPins | with_reducible apply ifOk_keepsPins | with_reducible apply next_keepsPins | split
    | intro _

theorem execHostBarRead_keepsPins {s0 : State} {p : Fin 2} {bar : Bar} {o : ℕ} {len : ℕ} {s : State} (h_s : KeepsPins s0 s) :
    AnswerKeepsPins s0 (execHostBarRead p bar o len s) := by
  unfold execHostBarRead
  repeat' first
    | with_reducible assumption | with_reducible apply ifOk_keepsPins | with_reducible apply barRead_keepsPins

theorem execHostBarWrite_keepsPins {s0 : State} {p : Fin 2} {bar : Bar} {o : ℕ} {data : List Byte} {s : State} (h_s : KeepsPins s0 s) :
    AnswerKeepsPins s0 (execHostBarWrite p bar o data s) := by
  unfold execHostBarWrite
  repeat' first
    | with_reducible assumption | with_reducible apply ifOk_keepsPins | with_reducible apply barWrite_keepsPins

theorem execMgmtCoreAccess_keepsPins {s0 : State} {wr : Bool} {a : BitVec 40} {data : List Byte} {len : ℕ} {s : State} (h_s : KeepsPins s0 s) :
    AnswerKeepsPins s0 (execMgmtCoreAccess wr a data len s) := by
  unfold execMgmtCoreAccess
  repeat' first
    | with_reducible assumption | with_reducible apply ifOk_keepsPins | with_reducible apply mgmtAccess_keepsPins

theorem execRegisterWrite_keepsPins {s0 : State} {m : Master} {a : BitVec 40} {len : ℕ} {v : Word} {s : State} (h_s : KeepsPins s0 s) :
    AnswerKeepsPins s0 (execRegisterWrite m a len v s) := by
  unfold execRegisterWrite
  repeat' first
    | with_reducible assumption | with_reducible apply ifOk_keepsPins | with_reducible apply gated_keepsPins
    | with_reducible apply writeAs_keepsPins | with_reducible apply effect_keepsPins | with_reducible apply ifOk_keepsPins
    | with_reducible apply next_keepsPins | split | intro _

theorem runFrond_keepsPins {s0 : State} {op : ℕ} {body : Run → Run} {x : FrondRef} {n : ℕ} {s : State} (h_body : (∀ y0, RunKeepsPins s0 y0 → RunKeepsPins s0 (body y0))) (h_s : KeepsPins s0 s) :
    AnswerKeepsPins s0 (runFrond op body x n s) := by
  unfold runFrond
  repeat' first
    | with_reducible assumption | with_reducible apply h_body | with_reducible apply effect_keepsPins
    | with_reducible apply runUnits_keepsPins | with_reducible apply effect_keepsPins | with_reducible apply ifOk_keepsPins
    | with_reducible apply next_keepsPins | split

theorem execSend_keepsPins {s0 : State} {f : FrondRef} {n : ℕ} {s : State} (h_s : KeepsPins s0 s) :
    AnswerKeepsPins s0 (execSend f n s) := by
  unfold execSend
  repeat' first
    | with_reducible assumption | with_reducible apply runFrond_keepsPins | with_reducible apply sendUnit_keepsPins

theorem execRecv_keepsPins {s0 : State} {f : FrondRef} {n : ℕ} {s : State} (h_s : KeepsPins s0 s) :
    AnswerKeepsPins s0 (execRecv f n s) := by
  unfold execRecv
  repeat' first
    | with_reducible assumption | with_reducible apply runFrond_keepsPins | with_reducible apply recvUnit_keepsPins

theorem execReduceScatter_keepsPins {s0 : State} {f : FrondRef} {n : ℕ} {s : State} (h_s : KeepsPins s0 s) :
    AnswerKeepsPins s0 (execReduceScatter f n s) := by
  unfold execReduceScatter
  repeat' first
    | with_reducible assumption | with_reducible apply runFrond_keepsPins | with_reducible apply ringUnit_keepsPins

theorem execAllGather_keepsPins {s0 : State} {f : FrondRef} {n : ℕ} {s : State} (h_s : KeepsPins s0 s) :
    AnswerKeepsPins s0 (execAllGather f n s) := by
  unfold execAllGather
  repeat' first
    | with_reducible assumption | with_reducible apply runFrond_keepsPins | with_reducible apply ringUnit_keepsPins

theorem execAllReduce_keepsPins {s0 : State} {f : FrondRef} {n : ℕ} {s : State} (h_s : KeepsPins s0 s) :
    AnswerKeepsPins s0 (execAllReduce f n s) := by
  unfold execAllReduce
  repeat' first
    | with_reducible assumption | with_reducible apply runFrond_keepsPins | with_reducible apply ringUnit_keepsPins

theorem execBcast_keepsPins {s0 : State} {f : FrondRef} {n : ℕ} {s : State} (h_s : KeepsPins s0 s) :
    AnswerKeepsPins s0 (execBcast f n s) := by
  unfold execBcast
  repeat' first
    | with_reducible assumption | with_reducible apply runFrond_keepsPins | with_reducible apply bcastUnit_keepsPins

theorem execTeeArm_keepsPins {s0 : State} {f : FrondRef} {n : ℕ} {s : State} (h_s : KeepsPins s0 s) :
    AnswerKeepsPins s0 (execTeeArm f n s) := by
  unfold execTeeArm
  repeat' first
    | with_reducible assumption | with_reducible apply runFrond_keepsPins | with_reducible apply teeArmUnit_keepsPins

theorem execTileShape_keepsPins {s0 : State} {f : FrondRef} {n : ℕ} {s : State} (h_s : KeepsPins s0 s) :
    AnswerKeepsPins s0 (execTileShape f n s) := by
  unfold execTileShape
  repeat' first
    | with_reducible assumption | with_reducible apply runFrond_keepsPins | with_reducible apply shapeUnit_keepsPins

theorem execTileLoad_keepsPins {s0 : State} {f : FrondRef} {n : ℕ} {s : State} (h_s : KeepsPins s0 s) :
    AnswerKeepsPins s0 (execTileLoad f n s) := by
  unfold execTileLoad
  repeat' first
    | with_reducible assumption | with_reducible apply runFrond_keepsPins | with_reducible apply rowUnit_keepsPins
    | with_reducible apply loadElem_keepsPins | with_reducible apply effect_keepsPins | with_reducible apply ifOk_keepsPins
    | with_reducible apply next_keepsPins | split | intro _

theorem execTileStore_keepsPins {s0 : State} {f : FrondRef} {n : ℕ} {s : State} (h_s : KeepsPins s0 s) :
    AnswerKeepsPins s0 (execTileStore f n s) := by
  unfold execTileStore
  repeat' first
    | with_reducible assumption | with_reducible apply runFrond_keepsPins | with_reducible apply rowUnit_keepsPins
    | with_reducible apply storeElem_keepsPins | with_reducible apply effect_keepsPins | with_reducible apply ifOk_keepsPins
    | with_reducible apply next_keepsPins | split | intro _

theorem execTileSave_keepsPins {s0 : State} {f : FrondRef} {n : ℕ} {s : State} (h_s : KeepsPins s0 s) :
    AnswerKeepsPins s0 (execTileSave f n s) := by
  unfold execTileSave
  repeat' first
    | with_reducible assumption | with_reducible apply runFrond_keepsPins | with_reducible apply saveUnit_keepsPins

theorem execTileRestore_keepsPins {s0 : State} {f : FrondRef} {n : ℕ} {s : State} (h_s : KeepsPins s0 s) :
    AnswerKeepsPins s0 (execTileRestore f n s) := by
  unfold execTileRestore
  repeat' first
    | with_reducible assumption | with_reducible apply runFrond_keepsPins | with_reducible apply restoreUnit_keepsPins

theorem execTileSuspendDiscard_keepsPins {s0 : State} {f : FrondRef} {s : State} (h_s : KeepsPins s0 s) :
    AnswerKeepsPins s0 (execTileSuspendDiscard f s) := by
  unfold execTileSuspendDiscard
  repeat' first
    | with_reducible assumption | with_reducible apply effect_keepsPins | with_reducible apply pendAt_keepsPins
    | with_reducible apply advanceTo_keepsPins | with_reducible apply effect_keepsPins | with_reducible apply ifOk_keepsPins
    | with_reducible apply next_keepsPins | split

theorem execAdd_keepsPins {s0 : State} {f : FrondRef} {n : ℕ} {s : State} (h_s : KeepsPins s0 s) :
    AnswerKeepsPins s0 (execAdd f n s) := by
  unfold execAdd
  repeat' first
    | with_reducible assumption | with_reducible apply runFrond_keepsPins | with_reducible apply ewUnit_keepsPins

theorem execSub_keepsPins {s0 : State} {f : FrondRef} {n : ℕ} {s : State} (h_s : KeepsPins s0 s) :
    AnswerKeepsPins s0 (execSub f n s) := by
  unfold execSub
  repeat' first
    | with_reducible assumption | with_reducible apply runFrond_keepsPins | with_reducible apply ewUnit_keepsPins

theorem execMul_keepsPins {s0 : State} {f : FrondRef} {n : ℕ} {s : State} (h_s : KeepsPins s0 s) :
    AnswerKeepsPins s0 (execMul f n s) := by
  unfold execMul
  repeat' first
    | with_reducible assumption | with_reducible apply runFrond_keepsPins | with_reducible apply ewUnit_keepsPins

theorem execFma_keepsPins {s0 : State} {f : FrondRef} {n : ℕ} {s : State} (h_s : KeepsPins s0 s) :
    AnswerKeepsPins s0 (execFma f n s) := by
  unfold execFma
  repeat' first
    | with_reducible assumption | with_reducible apply runFrond_keepsPins | with_reducible apply ewUnit_keepsPins

theorem execMin_keepsPins {s0 : State} {f : FrondRef} {n : ℕ} {s : State} (h_s : KeepsPins s0 s) :
    AnswerKeepsPins s0 (execMin f n s) := by
  unfold execMin
  repeat' first
    | with_reducible assumption | with_reducible apply runFrond_keepsPins | with_reducible apply ewUnit_keepsPins

theorem execMax_keepsPins {s0 : State} {f : FrondRef} {n : ℕ} {s : State} (h_s : KeepsPins s0 s) :
    AnswerKeepsPins s0 (execMax f n s) := by
  unfold execMax
  repeat' first
    | with_reducible assumption | with_reducible apply runFrond_keepsPins | with_reducible apply ewUnit_keepsPins

theorem execAbs_keepsPins {s0 : State} {f : FrondRef} {n : ℕ} {s : State} (h_s : KeepsPins s0 s) :
    AnswerKeepsPins s0 (execAbs f n s) := by
  unfold execAbs
  repeat' first
    | with_reducible assumption | with_reducible apply runFrond_keepsPins | with_reducible apply ewUnit_keepsPins

theorem execNeg_keepsPins {s0 : State} {f : FrondRef} {n : ℕ} {s : State} (h_s : KeepsPins s0 s) :
    AnswerKeepsPins s0 (execNeg f n s) := by
  unfold execNeg
  repeat' first
    | with_reducible assumption | with_reducible apply runFrond_keepsPins | with_reducible apply ewUnit_keepsPins

theorem execDiv_keepsPins {s0 : State} {f : FrondRef} {n : ℕ} {s : State} (h_s : KeepsPins s0 s) :
    AnswerKeepsPins s0 (execDiv f n s) := by
  unfold execDiv
  repeat' first
    | with_reducible assumption | with_reducible apply runFrond_keepsPins | with_reducible apply ewUnit_keepsPins

theorem execSqrt_keepsPins {s0 : State} {f : FrondRef} {n : ℕ} {s : State} (h_s : KeepsPins s0 s) :
    AnswerKeepsPins s0 (execSqrt f n s) := by
  unfold execSqrt
  repeat' first
    | with_reducible assumption | with_reducible apply runFrond_keepsPins | with_reducible apply ewUnit_keepsPins

theorem execCmp_keepsPins {s0 : State} {f : FrondRef} {n : ℕ} {s : State} (h_s : KeepsPins s0 s) :
    AnswerKeepsPins s0 (execCmp f n s) := by
  unfold execCmp
  repeat' first
    | with_reducible assumption | with_reducible apply runFrond_keepsPins | with_reducible apply ewUnit_keepsPins

theorem execSelect_keepsPins {s0 : State} {f : FrondRef} {n : ℕ} {s : State} (h_s : KeepsPins s0 s) :
    AnswerKeepsPins s0 (execSelect f n s) := by
  unfold execSelect
  repeat' first
    | with_reducible assumption | with_reducible apply runFrond_keepsPins | with_reducible apply ewUnit_keepsPins

theorem execLogic_keepsPins {s0 : State} {f : FrondRef} {n : ℕ} {s : State} (h_s : KeepsPins s0 s) :
    AnswerKeepsPins s0 (execLogic f n s) := by
  unfold execLogic
  repeat' first
    | with_reducible assumption | with_reducible apply runFrond_keepsPins | with_reducible apply ewUnit_keepsPins

theorem execShift_keepsPins {s0 : State} {f : FrondRef} {n : ℕ} {s : State} (h_s : KeepsPins s0 s) :
    AnswerKeepsPins s0 (execShift f n s) := by
  unfold execShift
  repeat' first
    | with_reducible assumption | with_reducible apply runFrond_keepsPins | with_reducible apply ewUnit_keepsPins

theorem execRadd_keepsPins {s0 : State} {f : FrondRef} {n : ℕ} {s : State} (h_s : KeepsPins s0 s) :
    AnswerKeepsPins s0 (execRadd f n s) := by
  unfold execRadd
  repeat' first
    | with_reducible assumption | with_reducible apply runFrond_keepsPins | with_reducible apply ewUnit_keepsPins

theorem execRsub_keepsPins {s0 : State} {f : FrondRef} {n : ℕ} {s : State} (h_s : KeepsPins s0 s) :
    AnswerKeepsPins s0 (execRsub f n s) := by
  unfold execRsub
  repeat' first
    | with_reducible assumption | with_reducible apply runFrond_keepsPins | with_reducible apply ewUnit_keepsPins

theorem execRmul_keepsPins {s0 : State} {f : FrondRef} {n : ℕ} {s : State} (h_s : KeepsPins s0 s) :
    AnswerKeepsPins s0 (execRmul f n s) := by
  unfold execRmul
  repeat' first
    | with_reducible assumption | with_reducible apply runFrond_keepsPins | with_reducible apply ewUnit_keepsPins

theorem execLanePermute_keepsPins {s0 : State} {f : FrondRef} {n : ℕ} {s : State} (h_s : KeepsPins s0 s) :
    AnswerKeepsPins s0 (execLanePermute f n s) := by
  unfold execLanePermute
  repeat' first
    | with_reducible assumption | with_reducible apply runFrond_keepsPins | with_reducible apply laneUnit_keepsPins

theorem execBroadcast_keepsPins {s0 : State} {f : FrondRef} {n : ℕ} {s : State} (h_s : KeepsPins s0 s) :
    AnswerKeepsPins s0 (execBroadcast f n s) := by
  unfold execBroadcast
  repeat' first
    | with_reducible assumption | with_reducible apply runFrond_keepsPins | with_reducible apply broadcastUnit_keepsPins

theorem execRsum_keepsPins {s0 : State} {f : FrondRef} {n : ℕ} {s : State} (h_s : KeepsPins s0 s) :
    AnswerKeepsPins s0 (execRsum f n s) := by
  unfold execRsum
  repeat' first
    | with_reducible assumption | with_reducible apply runFrond_keepsPins | with_reducible apply reduceUnit_keepsPins

theorem execRmax_keepsPins {s0 : State} {f : FrondRef} {n : ℕ} {s : State} (h_s : KeepsPins s0 s) :
    AnswerKeepsPins s0 (execRmax f n s) := by
  unfold execRmax
  repeat' first
    | with_reducible assumption | with_reducible apply runFrond_keepsPins | with_reducible apply reduceUnit_keepsPins

theorem execRmin_keepsPins {s0 : State} {f : FrondRef} {n : ℕ} {s : State} (h_s : KeepsPins s0 s) :
    AnswerKeepsPins s0 (execRmin f n s) := by
  unfold execRmin
  repeat' first
    | with_reducible assumption | with_reducible apply runFrond_keepsPins | with_reducible apply reduceUnit_keepsPins

theorem execRargmax_keepsPins {s0 : State} {f : FrondRef} {n : ℕ} {s : State} (h_s : KeepsPins s0 s) :
    AnswerKeepsPins s0 (execRargmax f n s) := by
  unfold execRargmax
  repeat' first
    | with_reducible assumption | with_reducible apply runFrond_keepsPins | with_reducible apply reduceUnit_keepsPins

theorem execConvert_keepsPins {s0 : State} {f : FrondRef} {n : ℕ} {s : State} (h_s : KeepsPins s0 s) :
    AnswerKeepsPins s0 (execConvert f n s) := by
  unfold execConvert
  repeat' first
    | with_reducible assumption | with_reducible apply runFrond_keepsPins | with_reducible apply convUnit_keepsPins

theorem execPackInt4_keepsPins {s0 : State} {f : FrondRef} {n : ℕ} {s : State} (h_s : KeepsPins s0 s) :
    AnswerKeepsPins s0 (execPackInt4 f n s) := by
  unfold execPackInt4
  repeat' first
    | with_reducible assumption | with_reducible apply runFrond_keepsPins | with_reducible apply convUnit_keepsPins

theorem execUnpackInt4_keepsPins {s0 : State} {f : FrondRef} {n : ℕ} {s : State} (h_s : KeepsPins s0 s) :
    AnswerKeepsPins s0 (execUnpackInt4 f n s) := by
  unfold execUnpackInt4
  repeat' first
    | with_reducible assumption | with_reducible apply runFrond_keepsPins | with_reducible apply convUnit_keepsPins

theorem execMatmul_keepsPins {s0 : State} {f : FrondRef} {n : ℕ} {s : State} (h_s : KeepsPins s0 s) :
    AnswerKeepsPins s0 (execMatmul f n s) := by
  unfold execMatmul
  repeat' first
    | with_reducible assumption | with_reducible apply runFrond_keepsPins | with_reducible apply matUnit_keepsPins

theorem execMatmulAcc_keepsPins {s0 : State} {f : FrondRef} {n : ℕ} {s : State} (h_s : KeepsPins s0 s) :
    AnswerKeepsPins s0 (execMatmulAcc f n s) := by
  unfold execMatmulAcc
  repeat' first
    | with_reducible assumption | with_reducible apply runFrond_keepsPins | with_reducible apply matUnit_keepsPins

theorem execMatmulEpi_keepsPins {s0 : State} {f : FrondRef} {n : ℕ} {s : State} (h_s : KeepsPins s0 s) :
    AnswerKeepsPins s0 (execMatmulEpi f n s) := by
  unfold execMatmulEpi
  repeat' first
    | with_reducible assumption | with_reducible apply runFrond_keepsPins | with_reducible apply matUnit_keepsPins

theorem execResMatmul_keepsPins {s0 : State} {f : FrondRef} {n : ℕ} {s : State} (h_s : KeepsPins s0 s) :
    AnswerKeepsPins s0 (execResMatmul f n s) := by
  unfold execResMatmul
  repeat' first
    | with_reducible assumption | with_reducible apply runFrond_keepsPins | with_reducible apply matUnit_keepsPins

theorem execNtt_keepsPins {s0 : State} {f : FrondRef} {n : ℕ} {s : State} (h_s : KeepsPins s0 s) :
    AnswerKeepsPins s0 (execNtt f n s) := by
  unfold execNtt
  repeat' first
    | with_reducible assumption | with_reducible apply runFrond_keepsPins | with_reducible apply polyUnit_keepsPins

theorem execIntt_keepsPins {s0 : State} {f : FrondRef} {n : ℕ} {s : State} (h_s : KeepsPins s0 s) :
    AnswerKeepsPins s0 (execIntt f n s) := by
  unfold execIntt
  repeat' first
    | with_reducible assumption | with_reducible apply runFrond_keepsPins | with_reducible apply polyUnit_keepsPins

theorem execPadd_keepsPins {s0 : State} {f : FrondRef} {n : ℕ} {s : State} (h_s : KeepsPins s0 s) :
    AnswerKeepsPins s0 (execPadd f n s) := by
  unfold execPadd
  repeat' first
    | with_reducible assumption | with_reducible apply runFrond_keepsPins | with_reducible apply polyUnit_keepsPins

theorem execPsub_keepsPins {s0 : State} {f : FrondRef} {n : ℕ} {s : State} (h_s : KeepsPins s0 s) :
    AnswerKeepsPins s0 (execPsub f n s) := by
  unfold execPsub
  repeat' first
    | with_reducible assumption | with_reducible apply runFrond_keepsPins | with_reducible apply polyUnit_keepsPins

theorem execPmul_keepsPins {s0 : State} {f : FrondRef} {n : ℕ} {s : State} (h_s : KeepsPins s0 s) :
    AnswerKeepsPins s0 (execPmul f n s) := by
  unfold execPmul
  repeat' first
    | with_reducible assumption | with_reducible apply runFrond_keepsPins | with_reducible apply polyUnit_keepsPins

theorem execPmulPlain_keepsPins {s0 : State} {f : FrondRef} {n : ℕ} {s : State} (h_s : KeepsPins s0 s) :
    AnswerKeepsPins s0 (execPmulPlain f n s) := by
  unfold execPmulPlain
  repeat' first
    | with_reducible assumption | with_reducible apply runFrond_keepsPins | with_reducible apply polyUnit_keepsPins

theorem execPneg_keepsPins {s0 : State} {f : FrondRef} {n : ℕ} {s : State} (h_s : KeepsPins s0 s) :
    AnswerKeepsPins s0 (execPneg f n s) := by
  unfold execPneg
  repeat' first
    | with_reducible assumption | with_reducible apply runFrond_keepsPins | with_reducible apply polyUnit_keepsPins

theorem execRescale_keepsPins {s0 : State} {f : FrondRef} {n : ℕ} {s : State} (h_s : KeepsPins s0 s) :
    AnswerKeepsPins s0 (execRescale f n s) := by
  unfold execRescale
  repeat' first
    | with_reducible assumption | with_reducible apply runFrond_keepsPins | with_reducible apply polyUnit_keepsPins

theorem execModraise_keepsPins {s0 : State} {f : FrondRef} {n : ℕ} {s : State} (h_s : KeepsPins s0 s) :
    AnswerKeepsPins s0 (execModraise f n s) := by
  unfold execModraise
  repeat' first
    | with_reducible assumption | with_reducible apply runFrond_keepsPins | with_reducible apply polyUnit_keepsPins

theorem execBaseconvP_keepsPins {s0 : State} {f : FrondRef} {n : ℕ} {s : State} (h_s : KeepsPins s0 s) :
    AnswerKeepsPins s0 (execBaseconvP f n s) := by
  unfold execBaseconvP
  repeat' first
    | with_reducible assumption | with_reducible apply runFrond_keepsPins | with_reducible apply polyUnit_keepsPins

theorem execModdrop_keepsPins {s0 : State} {f : FrondRef} {n : ℕ} {s : State} (h_s : KeepsPins s0 s) :
    AnswerKeepsPins s0 (execModdrop f n s) := by
  unfold execModdrop
  repeat' first
    | with_reducible assumption | with_reducible apply runFrond_keepsPins | with_reducible apply polyUnit_keepsPins

theorem execTensor_keepsPins {s0 : State} {f : FrondRef} {n : ℕ} {s : State} (h_s : KeepsPins s0 s) :
    AnswerKeepsPins s0 (execTensor f n s) := by
  unfold execTensor
  repeat' first
    | with_reducible assumption | with_reducible apply runFrond_keepsPins | with_reducible apply polyUnit_keepsPins

theorem execBaseconvM_keepsPins {s0 : State} {f : FrondRef} {n : ℕ} {s : State} (h_s : KeepsPins s0 s) :
    AnswerKeepsPins s0 (execBaseconvM f n s) := by
  unfold execBaseconvM
  repeat' first
    | with_reducible assumption | with_reducible apply runFrond_keepsPins | with_reducible apply polyUnit_keepsPins

theorem execFixToRes_keepsPins {s0 : State} {f : FrondRef} {n : ℕ} {s : State} (h_s : KeepsPins s0 s) :
    AnswerKeepsPins s0 (execFixToRes f n s) := by
  unfold execFixToRes
  repeat' first
    | with_reducible assumption | with_reducible apply runFrond_keepsPins | with_reducible apply fixUnit_keepsPins

theorem execResToFix_keepsPins {s0 : State} {f : FrondRef} {n : ℕ} {s : State} (h_s : KeepsPins s0 s) :
    AnswerKeepsPins s0 (execResToFix f n s) := by
  unfold execResToFix
  repeat' first
    | with_reducible assumption | with_reducible apply runFrond_keepsPins | with_reducible apply fixUnit_keepsPins

theorem execFunc_keepsPins {s0 : State} {f : FrondRef} {n : ℕ} {s : State} (h_s : KeepsPins s0 s) :
    AnswerKeepsPins s0 (execFunc f n s) := by
  unfold execFunc
  repeat' first
    | with_reducible assumption | with_reducible apply runFrond_keepsPins | with_reducible apply funcUnit_keepsPins

theorem execMoments_keepsPins {s0 : State} {f : FrondRef} {n : ℕ} {s : State} (h_s : KeepsPins s0 s) :
    AnswerKeepsPins s0 (execMoments f n s) := by
  unfold execMoments
  repeat' first
    | with_reducible assumption | with_reducible apply runFrond_keepsPins | with_reducible apply segUnit_keepsPins
    | with_reducible apply momentsSeg_keepsPins | with_reducible apply effect_keepsPins | with_reducible apply ifOk_keepsPins
    | with_reducible apply next_keepsPins | split | intro _

theorem execLayernorm_keepsPins {s0 : State} {f : FrondRef} {n : ℕ} {s : State} (h_s : KeepsPins s0 s) :
    AnswerKeepsPins s0 (execLayernorm f n s) := by
  unfold execLayernorm
  repeat' first
    | with_reducible assumption | with_reducible apply runFrond_keepsPins | with_reducible apply segUnit_keepsPins
    | with_reducible apply layerSeg_keepsPins | with_reducible apply effect_keepsPins | with_reducible apply ifOk_keepsPins
    | with_reducible apply next_keepsPins | split | intro _

theorem execRmsnorm_keepsPins {s0 : State} {f : FrondRef} {n : ℕ} {s : State} (h_s : KeepsPins s0 s) :
    AnswerKeepsPins s0 (execRmsnorm f n s) := by
  unfold execRmsnorm
  repeat' first
    | with_reducible assumption | with_reducible apply runFrond_keepsPins | with_reducible apply segUnit_keepsPins
    | with_reducible apply rmsSeg_keepsPins | with_reducible apply effect_keepsPins | with_reducible apply ifOk_keepsPins
    | with_reducible apply next_keepsPins | split | intro _

theorem execSoftmaxStep_keepsPins {s0 : State} {f : FrondRef} {n : ℕ} {s : State} (h_s : KeepsPins s0 s) :
    AnswerKeepsPins s0 (execSoftmaxStep f n s) := by
  unfold execSoftmaxStep
  repeat' first
    | with_reducible assumption | with_reducible apply runFrond_keepsPins | with_reducible apply segUnit_keepsPins
    | with_reducible apply stepRow_keepsPins | with_reducible apply effect_keepsPins | with_reducible apply ifOk_keepsPins
    | with_reducible apply next_keepsPins | split | intro _

theorem execSoftmaxCorrect_keepsPins {s0 : State} {f : FrondRef} {n : ℕ} {s : State} (h_s : KeepsPins s0 s) :
    AnswerKeepsPins s0 (execSoftmaxCorrect f n s) := by
  unfold execSoftmaxCorrect
  repeat' first
    | with_reducible assumption | with_reducible apply runFrond_keepsPins | with_reducible apply segUnit_keepsPins
    | with_reducible apply correctRow_keepsPins | with_reducible apply effect_keepsPins | with_reducible apply ifOk_keepsPins
    | with_reducible apply next_keepsPins | split | intro _

theorem execMove_keepsPins {s0 : State} {f : FrondRef} {n : ℕ} {s : State} (h_s : KeepsPins s0 s) :
    AnswerKeepsPins s0 (execMove f n s) := by
  unfold execMove
  repeat' first
    | with_reducible assumption | with_reducible apply runFrond_keepsPins | with_reducible apply copyUnit_keepsPins

theorem execFill_keepsPins {s0 : State} {f : FrondRef} {n : ℕ} {s : State} (h_s : KeepsPins s0 s) :
    AnswerKeepsPins s0 (execFill f n s) := by
  unfold execFill
  repeat' first
    | with_reducible assumption | with_reducible apply runFrond_keepsPins | with_reducible apply fillUnit_keepsPins

theorem execPrefetch_keepsPins {s0 : State} {f : FrondRef} {n : ℕ} {s : State} (h_s : KeepsPins s0 s) :
    AnswerKeepsPins s0 (execPrefetch f n s) := by
  unfold execPrefetch
  repeat' first
    | with_reducible assumption | with_reducible apply runFrond_keepsPins | with_reducible apply copyUnit_keepsPins

theorem execCopy_keepsPins {s0 : State} {f : FrondRef} {n : ℕ} {s : State} (h_s : KeepsPins s0 s) :
    AnswerKeepsPins s0 (execCopy f n s) := by
  unfold execCopy
  repeat' first
    | with_reducible assumption | with_reducible apply runFrond_keepsPins | with_reducible apply copyUnit_keepsPins

theorem execRelayout_keepsPins {s0 : State} {f : FrondRef} {n : ℕ} {s : State} (h_s : KeepsPins s0 s) :
    AnswerKeepsPins s0 (execRelayout f n s) := by
  unfold execRelayout
  repeat' first
    | with_reducible assumption | with_reducible apply runFrond_keepsPins | with_reducible apply copyUnit_keepsPins

theorem execTranspose_keepsPins {s0 : State} {f : FrondRef} {n : ℕ} {s : State} (h_s : KeepsPins s0 s) :
    AnswerKeepsPins s0 (execTranspose f n s) := by
  unfold execTranspose
  repeat' first
    | with_reducible assumption | with_reducible apply runFrond_keepsPins | with_reducible apply transposeUnit_keepsPins

theorem execPermute_keepsPins {s0 : State} {f : FrondRef} {n : ℕ} {s : State} (h_s : KeepsPins s0 s) :
    AnswerKeepsPins s0 (execPermute f n s) := by
  unfold execPermute
  repeat' first
    | with_reducible assumption | with_reducible apply runFrond_keepsPins | with_reducible apply permuteUnit_keepsPins

theorem execGather_keepsPins {s0 : State} {f : FrondRef} {n : ℕ} {s : State} (h_s : KeepsPins s0 s) :
    AnswerKeepsPins s0 (execGather f n s) := by
  unfold execGather
  repeat' first
    | with_reducible assumption | with_reducible apply runFrond_keepsPins | with_reducible apply gatherUnit_keepsPins

theorem execScatter_keepsPins {s0 : State} {f : FrondRef} {n : ℕ} {s : State} (h_s : KeepsPins s0 s) :
    AnswerKeepsPins s0 (execScatter f n s) := by
  unfold execScatter
  repeat' first
    | with_reducible assumption | with_reducible apply runFrond_keepsPins | with_reducible apply scatterUnit_keepsPins

theorem execScatterAdd_keepsPins {s0 : State} {f : FrondRef} {n : ℕ} {s : State} (h_s : KeepsPins s0 s) :
    AnswerKeepsPins s0 (execScatterAdd f n s) := by
  unfold execScatterAdd
  repeat' first
    | with_reducible assumption | with_reducible apply runFrond_keepsPins | with_reducible apply scatterAddUnit_keepsPins

theorem execKeyswitch_keepsPins {s0 : State} {f : FrondRef} {n : ℕ} {s : State} (h_s : KeepsPins s0 s) :
    AnswerKeepsPins s0 (execKeyswitch f n s) := by
  unfold execKeyswitch
  repeat' first
    | with_reducible assumption | with_reducible apply runFrond_keepsPins | with_reducible apply kUnit_keepsPins

theorem execRelin_keepsPins {s0 : State} {f : FrondRef} {n : ℕ} {s : State} (h_s : KeepsPins s0 s) :
    AnswerKeepsPins s0 (execRelin f n s) := by
  unfold execRelin
  repeat' first
    | with_reducible assumption | with_reducible apply runFrond_keepsPins | with_reducible apply kUnit_keepsPins

theorem execRotate_keepsPins {s0 : State} {f : FrondRef} {n : ℕ} {s : State} (h_s : KeepsPins s0 s) :
    AnswerKeepsPins s0 (execRotate f n s) := by
  unfold execRotate
  repeat' first
    | with_reducible assumption | with_reducible apply runFrond_keepsPins | with_reducible apply kUnit_keepsPins

theorem execConj_keepsPins {s0 : State} {f : FrondRef} {n : ℕ} {s : State} (h_s : KeepsPins s0 s) :
    AnswerKeepsPins s0 (execConj f n s) := by
  unfold execConj
  repeat' first
    | with_reducible assumption | with_reducible apply runFrond_keepsPins | with_reducible apply kUnit_keepsPins

theorem execHoistDecomp_keepsPins {s0 : State} {f : FrondRef} {n : ℕ} {s : State} (h_s : KeepsPins s0 s) :
    AnswerKeepsPins s0 (execHoistDecomp f n s) := by
  unfold execHoistDecomp
  repeat' first
    | with_reducible assumption | with_reducible apply runFrond_keepsPins | with_reducible apply kUnit_keepsPins

theorem execHoistRotate_keepsPins {s0 : State} {f : FrondRef} {n : ℕ} {s : State} (h_s : KeepsPins s0 s) :
    AnswerKeepsPins s0 (execHoistRotate f n s) := by
  unfold execHoistRotate
  repeat' first
    | with_reducible assumption | with_reducible apply runFrond_keepsPins | with_reducible apply kUnit_keepsPins

theorem execAutomorph_keepsPins {s0 : State} {f : FrondRef} {n : ℕ} {s : State} (h_s : KeepsPins s0 s) :
    AnswerKeepsPins s0 (execAutomorph f n s) := by
  unfold execAutomorph
  repeat' first
    | with_reducible assumption | with_reducible apply runFrond_keepsPins | with_reducible apply kUnit_keepsPins

theorem ofKind_keepsPins {s0 : State} {k : ℕ} {f : FrondRef} {s : State} {a : Answer} (h_s : KeepsPins s0 s) (h_a : AnswerKeepsPins s0 a) :
    AnswerKeepsPins s0 (ofKind k f s a) := by
  unfold ofKind
  repeat' first
    | with_reducible assumption | with_reducible apply effect_keepsPins | with_reducible apply ifOk_keepsPins
    | with_reducible apply next_keepsPins | split

theorem execTeeApply_keepsPins {s0 : State} {f : FrondRef} {n : ℕ} {s : State} (h_s : KeepsPins s0 s) :
    AnswerKeepsPins s0 (execTeeApply f n s) := by
  unfold execTeeApply
  repeat' first
    | with_reducible assumption | with_reducible apply effect_keepsPins | with_reducible apply teeApply_keepsPins
    | with_reducible apply effect_keepsPins | with_reducible apply ifOk_keepsPins | with_reducible apply next_keepsPins | split

theorem execEpochSnapshot_keepsPins {s0 : State} {f : FrondRef} {n : ℕ} {s : State} (h_s : KeepsPins s0 s) :
    AnswerKeepsPins s0 (execEpochSnapshot f n s) := by
  unfold execEpochSnapshot
  repeat' first
    | with_reducible assumption | with_reducible apply ofKind_keepsPins | with_reducible apply runFrond_keepsPins
    | with_reducible apply epochUnit_keepsPins

theorem execEpochRestore_keepsPins {s0 : State} {f : FrondRef} {n : ℕ} {s : State} (h_s : KeepsPins s0 s) :
    AnswerKeepsPins s0 (execEpochRestore f n s) := by
  unfold execEpochRestore
  repeat' first
    | with_reducible assumption | with_reducible apply ofKind_keepsPins | with_reducible apply runFrond_keepsPins
    | with_reducible apply epochUnit_keepsPins

theorem execGemmaFill_keepsPins {s0 : State} {f : FrondRef} {n : ℕ} {s : State} (h_s : KeepsPins s0 s) :
    AnswerKeepsPins s0 (execGemmaFill f n s) := by
  unfold execGemmaFill
  repeat' first
    | with_reducible assumption | with_reducible apply runFrond_keepsPins | with_reducible apply fillUnitOut_keepsPins

theorem execStandinMarkCommit_keepsPins {s0 : State} {f : FrondRef} {n : ℕ} {s : State} (h_s : KeepsPins s0 s) :
    AnswerKeepsPins s0 (execStandinMarkCommit f n s) := by
  unfold execStandinMarkCommit
  repeat' first
    | with_reducible assumption | with_reducible apply effect_keepsPins | with_reducible apply commitRun_keepsPins

theorem execStandinMarkBoundary_keepsPins {s0 : State} {f : FrondRef} {n : ℕ} {s : State} (h_s : KeepsPins s0 s) :
    AnswerKeepsPins s0 (execStandinMarkBoundary f n s) := by
  unfold execStandinMarkBoundary
  repeat' first
    | with_reducible assumption | with_reducible apply ofKind_keepsPins | with_reducible apply runFrond_keepsPins
    | with_reducible apply boundaryUnit_keepsPins

theorem execNop_keepsPins {s0 : State} {f : FrondRef} {n : ℕ} {s : State} (h_s : KeepsPins s0 s) :
    AnswerKeepsPins s0 (execNop f n s) := by
  unfold execNop
  repeat' first
    | with_reducible assumption | with_reducible apply runFrond_keepsPins | with_reducible apply effect_keepsPins
    | with_reducible apply ifOk_keepsPins | with_reducible apply next_keepsPins | split | intro _

theorem execWait_keepsPins {s0 : State} {f : FrondRef} {n : ℕ} {s : State} (h_s : KeepsPins s0 s) :
    AnswerKeepsPins s0 (execWait f n s) := by
  unfold execWait
  repeat' first
    | with_reducible assumption | with_reducible apply runFrond_keepsPins | with_reducible apply effect_keepsPins
    | with_reducible apply ifOk_keepsPins | with_reducible apply next_keepsPins | split | intro _

theorem execSignal_keepsPins {s0 : State} {f : FrondRef} {n : ℕ} {s : State} (h_s : KeepsPins s0 s) :
    AnswerKeepsPins s0 (execSignal f n s) := by
  unfold execSignal
  repeat' first
    | with_reducible assumption | with_reducible apply runFrond_keepsPins | with_reducible apply effect_keepsPins
    | with_reducible apply ifOk_keepsPins | with_reducible apply next_keepsPins | split | intro _

theorem execFence_keepsPins {s0 : State} {f : FrondRef} {n : ℕ} {s : State} (h_s : KeepsPins s0 s) :
    AnswerKeepsPins s0 (execFence f n s) := by
  unfold execFence
  repeat' first
    | with_reducible assumption | with_reducible apply runFrond_keepsPins | with_reducible apply effect_keepsPins
    | with_reducible apply ifOk_keepsPins | with_reducible apply next_keepsPins | split | intro _

theorem execBarrier_keepsPins {s0 : State} {f : FrondRef} {n : ℕ} {s : State} (h_s : KeepsPins s0 s) :
    AnswerKeepsPins s0 (execBarrier f n s) := by
  unfold execBarrier
  repeat' first
    | with_reducible assumption | with_reducible apply effect_keepsPins | with_reducible apply barrierUnit_keepsPins
    | with_reducible apply effect_keepsPins | with_reducible apply ifOk_keepsPins | with_reducible apply next_keepsPins | split

theorem execSelftest_keepsPins {s0 : State} {f : FrondRef} {n : ℕ} {fails : List CellSel} {s : State} (h_s : KeepsPins s0 s) :
    AnswerKeepsPins s0 (execSelftest f n fails s) := by
  unfold execSelftest
  repeat' first
    | with_reducible assumption | with_reducible apply runFrond_keepsPins | with_reducible apply testUnit_keepsPins

theorem execScrubRange_keepsPins {s0 : State} {f : FrondRef} {n : ℕ} {s : State} (h_s : KeepsPins s0 s) :
    AnswerKeepsPins s0 (execScrubRange f n s) := by
  unfold execScrubRange
  repeat' first
    | with_reducible assumption | with_reducible apply runFrond_keepsPins | with_reducible apply scrubUnit_keepsPins

theorem execLogMark_keepsPins {s0 : State} {f : FrondRef} {n : ℕ} {s : State} (h_s : KeepsPins s0 s) :
    AnswerKeepsPins s0 (execLogMark f n s) := by
  unfold execLogMark
  repeat' first
    | with_reducible assumption | with_reducible apply runFrond_keepsPins | with_reducible apply markUnit_keepsPins

theorem execHandoffAccessGrant_keepsPins {s0 : State} {f : FrondRef} {s : State} (h_s : KeepsPins s0 s) :
    AnswerKeepsPins s0 (execHandoffAccessGrant f s) := by
  unfold execHandoffAccessGrant
  repeat' first
    | with_reducible assumption | with_reducible apply effect_keepsPins | with_reducible apply presentAgain_keepsPins

theorem execHandoffTimeout_keepsPins {s0 : State} {f : FrondRef} {s : State} (h_s : KeepsPins s0 s) :
    AnswerKeepsPins s0 (execHandoffTimeout f s) := by
  unfold execHandoffTimeout
  repeat' first
    | with_reducible assumption | with_reducible apply effect_keepsPins | with_reducible apply waitExpires_keepsPins

theorem execCircAccessGrant_keepsPins {s0 : State} {f : FrondRef} {s : State} (h_s : KeepsPins s0 s) :
    AnswerKeepsPins s0 (execCircAccessGrant f s) := by
  unfold execCircAccessGrant
  repeat' first
    | with_reducible assumption | with_reducible apply effect_keepsPins | with_reducible apply presentAgain_keepsPins

theorem execCircTimeout_keepsPins {s0 : State} {f : FrondRef} {s : State} (h_s : KeepsPins s0 s) :
    AnswerKeepsPins s0 (execCircTimeout f s) := by
  unfold execCircTimeout
  repeat' first
    | with_reducible assumption | with_reducible apply effect_keepsPins | with_reducible apply waitExpires_keepsPins

theorem execSampleExtract_keepsPins {s0 : State} {f : FrondRef} {n : ℕ} {s : State} (h_s : KeepsPins s0 s) :
    AnswerKeepsPins s0 (execSampleExtract f n s) := by
  unfold execSampleExtract
  repeat' first
    | with_reducible assumption | with_reducible apply runFrond_keepsPins | with_reducible apply xUnit_keepsPins

theorem execLweKeyswitch_keepsPins {s0 : State} {f : FrondRef} {n : ℕ} {s : State} (h_s : KeepsPins s0 s) :
    AnswerKeepsPins s0 (execLweKeyswitch f n s) := by
  unfold execLweKeyswitch
  repeat' first
    | with_reducible assumption | with_reducible apply runFrond_keepsPins | with_reducible apply xUnit_keepsPins

theorem execBlindRotate_keepsPins {s0 : State} {f : FrondRef} {n : ℕ} {s : State} (h_s : KeepsPins s0 s) :
    AnswerKeepsPins s0 (execBlindRotate f n s) := by
  unfold execBlindRotate
  repeat' first
    | with_reducible assumption | with_reducible apply runFrond_keepsPins | with_reducible apply xUnit_keepsPins

theorem execRepack_keepsPins {s0 : State} {f : FrondRef} {n : ℕ} {s : State} (h_s : KeepsPins s0 s) :
    AnswerKeepsPins s0 (execRepack f n s) := by
  unfold execRepack
  repeat' first
    | with_reducible assumption | with_reducible apply runFrond_keepsPins | with_reducible apply xUnit_keepsPins

theorem execMaskedExport_keepsPins {s0 : State} {f : FrondRef} {n : ℕ} {s : State} (h_s : KeepsPins s0 s) :
    AnswerKeepsPins s0 (execMaskedExport f n s) := by
  unfold execMaskedExport
  repeat' first
    | with_reducible assumption | with_reducible apply runFrond_keepsPins | with_reducible apply xUnit_keepsPins

theorem execMaskedImport_keepsPins {s0 : State} {f : FrondRef} {n : ℕ} {s : State} (h_s : KeepsPins s0 s) :
    AnswerKeepsPins s0 (execMaskedImport f n s) := by
  unfold execMaskedImport
  repeat' first
    | with_reducible assumption | with_reducible apply runFrond_keepsPins | with_reducible apply xUnit_keepsPins

theorem execShareSplit_keepsPins {s0 : State} {f : FrondRef} {n : ℕ} {s : State} (h_s : KeepsPins s0 s) :
    AnswerKeepsPins s0 (execShareSplit f n s) := by
  unfold execShareSplit
  repeat' first
    | with_reducible assumption | with_reducible apply runFrond_keepsPins | with_reducible apply shareUnit_keepsPins
    | with_reducible apply splitElem_keepsPins | with_reducible apply effect_keepsPins | with_reducible apply ifOk_keepsPins
    | with_reducible apply next_keepsPins | split | intro _

theorem execBeaverMul_keepsPins {s0 : State} {f : FrondRef} {n : ℕ} {s : State} (h_s : KeepsPins s0 s) :
    AnswerKeepsPins s0 (execBeaverMul f n s) := by
  unfold execBeaverMul
  repeat' first
    | with_reducible assumption | with_reducible apply runFrond_keepsPins | with_reducible apply shareUnit_keepsPins
    | with_reducible apply beaverElem_keepsPins | with_reducible apply effect_keepsPins | with_reducible apply ifOk_keepsPins
    | with_reducible apply next_keepsPins | split | intro _

theorem execShareOpen_keepsPins {s0 : State} {f : FrondRef} {n : ℕ} {s : State} (h_s : KeepsPins s0 s) :
    AnswerKeepsPins s0 (execShareOpen f n s) := by
  unfold execShareOpen
  repeat' first
    | with_reducible assumption | with_reducible apply runFrond_keepsPins | with_reducible apply openUnit_keepsPins

theorem execRandError_keepsPins {s0 : State} {f : FrondRef} {n : ℕ} {s : State} (h_s : KeepsPins s0 s) :
    AnswerKeepsPins s0 (execRandError f n s) := by
  unfold execRandError
  repeat' first
    | with_reducible assumption | with_reducible apply runFrond_keepsPins | with_reducible apply shareUnit_keepsPins
    | with_reducible apply randElem_keepsPins | with_reducible apply effect_keepsPins | with_reducible apply ifOk_keepsPins
    | with_reducible apply next_keepsPins | split | intro _

theorem execRandUniform_keepsPins {s0 : State} {f : FrondRef} {n : ℕ} {s : State} (h_s : KeepsPins s0 s) :
    AnswerKeepsPins s0 (execRandUniform f n s) := by
  unfold execRandUniform
  repeat' first
    | with_reducible assumption | with_reducible apply runFrond_keepsPins | with_reducible apply shareUnit_keepsPins
    | with_reducible apply randElem_keepsPins | with_reducible apply effect_keepsPins | with_reducible apply ifOk_keepsPins
    | with_reducible apply next_keepsPins | split | intro _

theorem execFlood_keepsPins {s0 : State} {f : FrondRef} {n : ℕ} {s : State} (h_s : KeepsPins s0 s) :
    AnswerKeepsPins s0 (execFlood f n s) := by
  unfold execFlood
  repeat' first
    | with_reducible assumption | with_reducible apply runFrond_keepsPins | with_reducible apply shareUnit_keepsPins
    | with_reducible apply floodElem_keepsPins | with_reducible apply effect_keepsPins | with_reducible apply ifOk_keepsPins
    | with_reducible apply next_keepsPins | split | intro _

theorem execMask_keepsPins {s0 : State} {f : FrondRef} {n : ℕ} {s : State} (h_s : KeepsPins s0 s) :
    AnswerKeepsPins s0 (execMask f n s) := by
  unfold execMask
  repeat' first
    | with_reducible assumption | with_reducible apply runFrond_keepsPins | with_reducible apply shareUnit_keepsPins
    | with_reducible apply randElem_keepsPins | with_reducible apply effect_keepsPins | with_reducible apply ifOk_keepsPins
    | with_reducible apply next_keepsPins | split | intro _

theorem execFrondDecode_keepsPins {s0 : State} {r : Fin 8} {s : State} (h_s : KeepsPins s0 s) :
    AnswerKeepsPins s0 (execFrondDecode r s) := by
  unfold execFrondDecode
  repeat' first
    | with_reducible assumption | with_reducible apply effect_keepsPins | with_reducible apply decodeStep_keepsPins

theorem execFrondAccept_keepsPins {s0 : State} {r : Fin 8} {s : State} (h_s : KeepsPins s0 s) :
    AnswerKeepsPins s0 (execFrondAccept r s) := by
  unfold execFrondAccept
  repeat' first
    | with_reducible assumption | with_reducible apply effect_keepsPins | with_reducible apply acceptStep_keepsPins

theorem execSkippedFrondRelease_keepsPins {s0 : State} {f : FrondRef} {s : State} (h_s : KeepsPins s0 s) :
    AnswerKeepsPins s0 (execSkippedFrondRelease f s) := by
  unfold execSkippedFrondRelease
  repeat' first
    | with_reducible assumption | with_reducible apply effect_keepsPins | with_reducible apply skippedRelease_keepsPins

theorem execFrondComplete_keepsPins {s0 : State} {f : FrondRef} {b : Word} {s : State} (h_s : KeepsPins s0 s) :
    AnswerKeepsPins s0 (execFrondComplete f b s) := by
  unfold execFrondComplete
  repeat' first
    | with_reducible assumption | with_reducible apply effect_keepsPins | with_reducible apply frondComplete_keepsPins

theorem execPacedRelease_keepsPins {s0 : State} {f : FrondRef} {s : State} (h_s : KeepsPins s0 s) :
    AnswerKeepsPins s0 (execPacedRelease f s) := by
  unfold execPacedRelease
  repeat' first
    | with_reducible assumption | with_reducible apply effect_keepsPins | with_reducible apply pacedRelease_keepsPins

theorem execRunAhead_keepsPins {s0 : State} {f : FrondRef} {slot : Fin 4} {n : ℕ} {s : State} (h_s : KeepsPins s0 s) :
    AnswerKeepsPins s0 (execRunAhead f slot n s) := by
  unfold execRunAhead
  repeat' first
    | with_reducible assumption | with_reducible apply effect_keepsPins | with_reducible apply runAhead_keepsPins

theorem execBarrierReleaseAtT_keepsPins {s0 : State} {f : FrondRef} {s : State} (h_s : KeepsPins s0 s) :
    AnswerKeepsPins s0 (execBarrierReleaseAtT f s) := by
  unfold execBarrierReleaseAtT
  repeat' first
    | with_reducible assumption | with_reducible apply effect_keepsPins | with_reducible apply barrierRelease_keepsPins

theorem execLinkUp_keepsPins {s0 : State} {p : Fin 16} {t : TrainInfo} {s : State} (h_s : KeepsPins s0 s) :
    AnswerKeepsPins s0 (execLinkUp p t s) := by
  unfold execLinkUp
  repeat' first
    | with_reducible assumption | with_reducible apply effect_keepsPins | with_reducible apply afterLinks_keepsPins
    | with_reducible apply linkUp_keepsPins

theorem execLinkTrainingTimeout_keepsPins {s0 : State} {s : State} (h_s : KeepsPins s0 s) :
    AnswerKeepsPins s0 (execLinkTrainingTimeout s) := by
  unfold execLinkTrainingTimeout
  repeat' first
    | with_reducible assumption | with_reducible apply effect_keepsPins | with_reducible apply linkTimeout_keepsPins

theorem execAlign_keepsPins {s0 : State} {p : Fin 16} {k : Packet} {s : State} (h_s : KeepsPins s0 s) :
    AnswerKeepsPins s0 (execAlign p k s) := by
  unfold execAlign
  repeat' first
    | with_reducible assumption | with_reducible apply ifOk_keepsPins | with_reducible apply afterAlign_keepsPins
    | with_reducible apply receive_keepsPins | with_reducible apply takeAlign_keepsPins

theorem execAlignTimeout_keepsPins {s0 : State} {s : State} (h_s : KeepsPins s0 s) :
    AnswerKeepsPins s0 (execAlignTimeout s) := by
  unfold execAlignTimeout
  repeat' first
    | with_reducible assumption | with_reducible apply effect_keepsPins | with_reducible apply alignTimeout_keepsPins

end Sys2Proof.Machine
end

