-- ==== Sys2Proof/Tests/Slice0.lean ====
section
/-! SUPPORT. Small tests of the model, and for each statement of the certificate states and operands that meet its
hypotheses. Expected results come from the manual's rules, tables and examples. -/

namespace Sys2Proof.Tests
open Sys2Proof Sys2Proof.Machine Sys2Proof.Claims

/-! ### Helpers -/

/-- The canonical form, as a Bool. -/
def canonB (s : State) : Bool :=
  mwf regReset s.regs && mwf memDefault s.mem && mwf memDefault s.tiles && swf s.matPoison && swf s.towPoison && swf s.full

theorem canon {s : State} (h : canonB s = true) : s.Canonical := by
  simp only [canonB, Bool.and_eq_true] at h
  exact ⟨h.1.1.1.1.1, h.1.1.1.1.2, h.1.1.1.2, h.1.1.2, h.1.2, h.2⟩

theorem served (s : State) (o : Nat) : Served s .mgmt o := Or.inl (by decide)

/-- The state that a command answers, or the state itself where it stops. -/
def run (c : Instr) (s : State) : State :=
  match exec c s with
  | .next t => t
  | _ => s

/-- The frond of 64 words with the given words set. -/
def words (l : List (Nat × Nat)) : List Word32 := (List.range 64).map (fun k => BitVec.ofNat 32 (agetN l k))

abbrev r0 : State := State.reset
/-- MEMCFG locked. -/
def lk : State := setB State.reset rMemcfg 63 true
/-- READY. -/
def rd : State := setB lk rBoot 5 true

/-- A decoded frond of region 0, queue 0, count `k`, with full windows. -/
def fr (k : Nat) (l : List (Nat × Nat)) : Frond :=
  { newFrond State.reset 0 0 k (words l) with pairs := [(0, 0x6000000000), (0, 0x6000000000), (0, 0x6000000000), (0x8000000000, 0x2000000)] }
/-- The same at work, at its first unit. -/
def wk (k : Nat) (l : List (Nat × Nat)) : Frond := { fr k l with phase := .working, acc := 1, issue := 2, prom := 100, order := 1 }
/-- A state with one frond. -/
def one (f : Frond) : State := { lk with fronds := [f] }
/-- The reference of a frond of region 0, queue 0. -/
def ref0 (k : Nat) : FrondRef := ⟨0, 0, BitVec.ofNat 32 k⟩

/-! ### Commands outside the ranges of their rows are refused by `wellFormed` -/

set_option maxRecDepth 100000
set_option Elab.async false

def hdr0 (t : Nat) (len : Nat) : LinkHdr := newHdr t 0 len 0 0 0 0

theorem test_bad_packet_type : wellFormed (.data 0 ⟨hdr0 2 32, .bytes (List.replicate 32 0)⟩) = false := by decide +kernel
theorem test_bad_packet_length : wellFormed (.data 0 ⟨hdr0 1 31, .bytes (List.replicate 31 0)⟩) = false := by decide +kernel
theorem test_packet_length_limit : wellFormed (.data 0 ⟨hdr0 1 544, .bytes (List.replicate 544 0)⟩) = false ∧
    wellFormed (.data 0 ⟨hdr0 1 512, .bytes (List.replicate 512 0)⟩) = true := by decide +kernel
theorem test_bad_body : wellFormed (.rts 0 ⟨hdr0 2 0, .cts 4⟩) = false ∧ wellFormed (.cts 0 ⟨hdr0 3 0, .rts 4⟩) = false := by decide +kernel
theorem test_bad_drops : wellFormed (.barRelease 0 ⟨hdr0 0x13 96, .barRelease 1 0 (List.replicate 17 0)⟩) = false ∧
    wellFormed (.barRelease 0 ⟨hdr0 0x13 96, .barRelease 1 0 (List.replicate 16 0)⟩) = true := by decide +kernel
theorem test_bad_ready_kind : wellFormed (.readySync 0 ⟨hdr0 0x22 32, .ready 1 0 0 0 0 0⟩) = false ∧
    wellFormed (.readyAccept 0 ⟨hdr0 0x22 32, .ready 1 0 0 0 0 0⟩) = true := by decide +kernel
theorem test_bad_access : wellFormed (.hostBarRead 0 .memory 0 0) = false ∧ wellFormed (.hostBarRead 0 .memory 0 65) = false ∧
    wellFormed (.hostBarRead 0 .memory 0 64) = true ∧ wellFormed (.hostBarWrite 0 .memory 0 []) = false := by decide +kernel
theorem test_bad_register_address : wellFormed (.registerWrite .mgmt 0x8FFFFFFFFF 8 0) = false ∧
    wellFormed (.registerWrite .mgmt 0x9000000000 8 0) = true ∧ wellFormed (.registerWrite .mgmt 0x9010000000 8 0) = false := by decide +kernel
theorem test_bad_invalidation : wellFormed (.atsInvalidation 0 0 11) = false ∧ wellFormed (.atsInvalidation 0 0 64) = true ∧
    wellFormed (.atsInvalidation 0 0 65) = false := by decide +kernel
theorem test_bad_nvcfg : wellFormed (.nvcfgRead .mgmt 0) = false ∧ wellFormed (.nvcfgProgram .mgmt 257) = false ∧
    wellFormed (.nvcfgErase .mgmt 257) = false ∧ wellFormed (.nvcfgErase .mgmt 0) = true := by decide +kernel
theorem test_bad_environment :
    wellFormed (.powerGoodRise { testEn := false, domid := 0, mbusSel := false, refOk := true, flashOk := true, towers := [], entropyRuns := [] }) = false := by
  decide +kernel
theorem test_ill_formed_faults : exec (.hostBarRead 0 .memory 0 0) State.reset = .fault .illFormedCommand := rfl

/-! ### Witnesses: states and operands that meet the hypotheses of the statements

Each theorem gives, for one statement or part of one, a state and operands for every clause, at the limits of the ranges that the
clauses divide. -/

theorem wit_canonical : r0.Canonical ∧ lk.Canonical ∧ rd.Canonical :=
  ⟨canon (by decide +kernel), canon (by decide +kernel), canon (by decide +kernel)⟩

theorem wit_AnEmptyQueueIsOneBeat : r0.Canonical ∧ r0.pending = [] ∧ beat r0 + 1 < 2 ^ 64 :=
  ⟨canon (by decide +kernel), rfl, by decide +kernel⟩

theorem wit_TheQueueIsFirstInFirstOut :
    ∃ t, stepsFrom 2 { r0 with pending := [.ndClr .mgmt, .missClr .mgmt, .ndClr .mgmt] } = some t :=
  ⟨_, rfl⟩

theorem wit_EveryStep : ∃ t, step { r0 with pending := [.ndClr .mgmt] } = .next t := ⟨_, rfl⟩

theorem wit_OnlyResetEdges : ∃ t, exec (.ndClr .mgmt) r0 = .next t := ⟨_, rfl⟩

theorem wit_CommandsThatStoreNothing : storesNothing (.ndClr .mgmt) = true ∧ ∃ t, exec (.ndClr .mgmt) r0 = .next t := ⟨rfl, _, rfl⟩

/-- A queue whose source is host software, one whose source is an image, and tails at the limits of R77. -/
def q0 : State := setF (setF (setF r0 (rQtail 0 0) 0 32 8) (rQfetch 0 0) 0 32 4) (rQhead 0 0) 0 32 2

theorem wit_QueueTailWrite : q0.Canonical ∧ Served q0 .mgmt (rQtail 0 0) ∧
    regB (setB q0 (rQctrl 0 0) 1 true) (rQctrl 0 0) 1 = true ∧ regB q0 (rQctrl 0 0) 1 = false ∧
    countDiff 3 (regF q0 (rQfetch 0 0) 0 32) < 0 ∧
    0 ≤ countDiff 4 (regF q0 (rQfetch 0 0) 0 32) ∧ countDiff 4 (regF q0 (rQhead 0 0) 0 32) ≤ 512 ∧
    0 ≤ countDiff 514 (regF q0 (rQfetch 0 0) 0 32) ∧ countDiff 514 (regF q0 (rQhead 0 0) 0 32) = 512 ∧
    512 < countDiff 515 (regF q0 (rQhead 0 0) 0 32) :=
  ⟨canon (by decide +kernel), served _ _, by decide +kernel⟩

theorem wit_QueueRegisterWrites : q0.Canonical ∧ Served q0 .mgmt (rCrtail 0 0) ∧ Served q0 .mgmt (rQctrl 0 0) ∧
    (∀ g ∈ q0.fronds, ¬(g.region = 0 ∧ g.queue = 0 ∧ g.phase = .finished ∧ g.held = true)) ∧
    queueIdle r0 0 0 = true ∧ queueIdle (setB q0 (rQctrl 0 0) 0 true) 0 0 = false ∧ regB q0 (rQctrl 0 0) 1 = false ∧
    (let a := setF (setF r0 (rCrhead 0 0) 0 32 9) (rCrtail 0 0) 0 32 5
     countDiff 4 (regF a (rCrtail 0 0) 0 32) < 0 ∧ 0 < countDiff 10 (regF a (rCrhead 0 0) 0 32) ∧
     countDiff 9 (regF a (rCrhead 0 0) 0 32) = 0) :=
  ⟨canon (by decide +kernel), served _ _, served _ _, by decide +kernel⟩

/-- A program image at 0x1000 of queue 0: the magic word, version 1, three fronds, two runs; or with another version. -/
def im (version : Nat) : State :=
  setB (setReg (putBytes r0 0x1000 (leBytes 4 0x49505A43 ++ leBytes 4 version ++ leBytes 4 3 ++ leBytes 4 2)) (rQbase 0 0) 0x1000)
    (rQctrl 0 0) 1 true
/-- The state of RESTART's first effect. -/
def on (s : State) : State := setB s (rQctrl 0 0) 0 true

theorem wit_AnImageRestarts : (im 1).Canonical ∧ Served (im 1) .mgmt (rQctrl 0 0) ∧ regB (im 1) (rQctrl 0 0) 1 = true ∧
    imageRunning (im 1) 0 0 = false ∧ fetchable (on (im 1)) (reg (on (im 1)) (rQbase 0 0)).toNat 64 = true ∧
    imageHeaderOk (natAt (on (im 1)) (reg (on (im 1)) (rQbase 0 0)).toNat 64) = true ∧
    imageHeaderOk (natAt (on (im 2)) (reg (on (im 2)) (rQbase 0 0)).toNat 64) = false ∧
    fetchable (setReg r0 (rQbase 0 0) 0x6000000000) 0x6000000000 64 = false ∧
    resolve r0 0x6000000000 = .unmapped :=
  ⟨canon (by decide +kernel), served _ _, by decide +kernel⟩

theorem wit_TokenWrite : r0.Canonical ∧ Served r0 .mgmt (tokenReg (.region 7 255)) ∧ Served r0 .mgmt (tokenReg (.global 1023)) :=
  ⟨canon (by decide +kernel), served _ _, served _ _⟩

theorem wit_HostWritesWaitForReady : registerWrite (.qtailWrite (.pcie 1) 7 3 0) = some (.pcie 1, rQtail 7 3) ∧
    isReady r0 = false ∧ earlyWritable (rQtail 7 3) = false := by decide +kernel

/-- An event that never folds into another, and a full hold buffer. -/
def ev0 : LogEntry := event r0 0x1034 1 0 0
theorem wit_EventsAreHeldInKeyOrder : InKeyOrder r0.log.hold ∧ coalesces ev0.code = false ∧ r0.log.hold.length < 256 ∧
    256 ≤ ({ r0 with log := { r0.log with hold := List.replicate 256 ev0 } } : State).log.hold.length :=
  ⟨List.Pairwise.nil, by decide +kernel⟩

theorem wit_AnEventEntersTheRing :
    let s : State := { r0 with log := { r0.log with hold := [ev0] } }
    s.Canonical ∧ s.log.hold = [ev0] ∧ regB s rLogCtrl (ev0.code / 4096) = false ∧ regB s rLogCtrl 16 = false ∧
      ev0.beat + 65 < 2 ^ 64 ∧ s.log.inBeat + 1 < 2 ^ 64 ∧ beat s + 1 < 2 ^ 64 :=
  ⟨canon (by decide +kernel), by decide +kernel⟩

/-- A log ring with one entry at count 0, HEAD 1. -/
def lg : State := setF { r0 with log := { r0.log with ring := [(0, ev0)] } } rLogHead 0 32 1
theorem wit_LogRegisterWrites : lg.Canonical ∧ Served lg .mgmt rLogRdSel ∧ Served lg .mgmt rLogTail ∧ Served lg .mgmt rDrainTail ∧
    0 < countGap (fld 0 0 32) (regF lg rLogHead 0 32) ∧ countGap (fld 0 0 32) (regF lg rLogHead 0 32) ≤ 8192 ∧
    aget lg.log.ring (fld 0 0 32 % 8192) = some ev0 ∧ countGap (fld 1 0 32) (regF lg rLogHead 0 32) = 0 ∧
    countDiff (fld 0xFFFFFFFF 0 32) (regF lg rLogTail 0 32) < 0 ∧ 0 < countDiff (fld 2 0 32) (regF lg rLogHead 0 32) ∧
    countDiff (fld 1 0 32) (regF lg rLogHead 0 32) = 0 :=
  ⟨canon (by decide +kernel), served _ _, served _ _, served _ _, by decide +kernel⟩

/-- Two written fronds in queue 0: one decoded, with SEQNO 7, one undecoded, with SEQNO 9. -/
def ab : State :=
  setF (setF (putBytes { r0 with fronds := [fr 0 [(1, 7)]] } (256 + 4) (leBytes 4 9)) (rQtail 0 0) 0 32 2) (rQfetch 0 0) 0 32 1
theorem wit_AnAbortNamesItsFronds : abortCands ab 0 0 = [0, 1] ∧ candSeqno ab 0 0 0 = some 7 ∧ candSeqno ab 0 0 1 = some 9 ∧
    abortSet ab 0 0 7 1 = [] ++ [0] ∧ abortSet ab 0 0 9 1 = [0] ++ [1] ∧ abortSet ab 0 0 8 1 = [] := by decide +kernel

theorem wit_AbortsFindTheirFronds : ab.Canonical ∧ Served ab .mgmt (rAbort 0) ∧ abortSet ab 0 0 8 0 = [] ∧
    abortSet ab 0 0 9 0 = [1] ∧ ab.fronds.find? (fun f => f.is 0 0 1) = none ∧ abortSet ab 0 0 7 0 = [0] ∧
    ab.fronds.find? (fun f => f.is 0 0 0) = some (fr 0 [(1, 7)]) ∧ (fr 0 [(1, 7)]).phase = .decoded ∧ (fr 0 [(1, 7)]).skip = none ∧
    ({ fr 0 [] with skip := some .skipShape } : Frond).skip ≠ none ∧
    committed (wk 0 []) = false ∧ midSpan (wk 0 []) = false ∧ (wk 0 []).phase ≠ .decoded ∧
    committed { wk 0 [(0, 0xC01)] with abort := false } = true ∧
    committed { wk 0 [(0, 0x101)] with units := 131072, group := 1, unit := 1 } = false ∧
    midSpan { wk 0 [(0, 0x101)] with units := 131072, group := 1, unit := 1 } = true ∧
    opcodeOf (wk 0 [(0, 0x101)]) ≠ 0x004 :=
  ⟨canon (by decide +kernel), served _ _, by decide +kernel⟩

theorem wit_PreemptionOfAQueue :
    let s : State := setB { one (fr 0 []) with suspends := [(0, 0)] } (rPstat 0) 0 true
    s.Canonical ∧ Served s .mgmt (rPreempt 0) ∧ preemptSettled s 0 0 = true ∧ preemptSettled r0 0 0 = false :=
  ⟨canon (by decide +kernel), served _ _, by decide +kernel⟩

/-- MODE 1 in region 7, and a decoded frond there. -/
def m7 : State := { r0 with fronds := [{ fr 0 [] with region := 7 }] }
theorem wit_MatModeAndPointers : m7.Canonical ∧ Served m7 .mgmt (rMat 7 0) ∧ bitOf 0 0 = regB m7 (rMat 7 0) 0 ∧
    bitOf 1 0 ≠ regB m7 (rMat 7 0) 0 ∧ decodedCount m7 7 ≠ 0 ∧ decodedCount m7 6 = 0 ∧ Served m7 .mgmt (rCircTail 7 3) ∧
    regB (setB m7 (rCircCfg 7 3) 0 true) (rCircCfg 7 3) 0 = true ∧ regB m7 (rCircCfg 7 3) 0 = false :=
  ⟨canon (by decide +kernel), served _ _, by decide +kernel, by decide +kernel, by decide +kernel, by decide +kernel, served _ _,
   by decide +kernel⟩

/-- A handoff configuration: ENABLE, INIT_FULL, the first page and one page. -/
def hcfg : Word := 0x100000003
theorem wit_HandoffRegionWrites :
    let old := reg r0 (rHoffCfg 0 15)
    r0.Canonical ∧ Served r0 .mgmt (rHoffCfg 0 15) ∧ cfgBusy r0 0 old (hoffBits hcfg) = false ∧
      bitOf (hoffBits hcfg) 0 = true ∧ bitOf old 0 = false ∧ bitOf (hoffBits hcfg) 1 = true ∧
      cfgBusy { r0 with fronds := [{ wk 0 [(8, 0), (9, 0x0400)] with pairs := [(0x8000000000, 0x2000000), (0, 0), (0, 0), (0, 0)] }] } 0 old (hoffBits hcfg) = true ∧
      spanGood r0 0 (rHoffCfg 0 15) (hoffBits hcfg) = true ∧ spanGood r0 0 (rHoffCfg 0 15) (hoffBits 0xFFFFFFFFFFFFFFFF) = false ∧
      bitOf (hoffBits 0) 0 = false ∧ bitOf (reg (setReg r0 (rHoffCfg 0 15) hcfg) (rHoffCfg 0 15)) 0 = true :=
  ⟨canon (by decide +kernel), served _ _, by decide +kernel⟩

theorem wit_CircularAndChannelWrites :
    let busy : State := { r0 with fronds := [{ wk 0 [(8, 0), (9, 0x0400)] with
      pairs := [(0x8000000000, 0x2000000), (0, 0), (0, 0), (0, 0)], chans := [(0, 31)] }] }
    r0.Canonical ∧ Served r0 .mgmt (rCircCfg 0 3) ∧ Served r0 .mgmt (rChcfg 0 31) ∧
      cfgBusy busy 0 (reg r0 (rCircCfg 0 3)) (circBits hcfg) = true ∧ cfgBusy r0 0 (reg r0 (rCircCfg 0 3)) (circBits hcfg) = false ∧
      spanGood r0 0 (rCircCfg 0 3) (circBits hcfg) = true ∧ spanGood r0 0 (rCircCfg 0 3) (circBits 0x200001FFF001) = false ∧
      channelBusy busy 0 31 = true ∧ channelBusy r0 0 31 = false :=
  ⟨canon (by decide +kernel), served _ _, served _ _, by decide +kernel⟩

/-- Class 2's cap of 1,568 bytes a beat is 196 units of 8: met by 196, passed by 197. -/
theorem wit_ChannelCaps :
    let t (n : Nat) : State := setReg r0 (rChcfg 0 31) (BitVec.ofNat 64 (5 + n * 256) &&& 0xFF07)
    (∀ k < 4, allotSum (t 196) k ≤ allotCap k ∨ allotSum (t 196) k ≤ allotSum r0 k) ∨
    (∃ k < 4, allotCap k < allotSum (t 255) k ∧ allotSum r0 k < allotSum (t 255) k) := by decide +kernel

theorem wit_PageClassWrites : r0.Canonical ∧ Served r0 .mgmt (rPclass 7 15) ∧ fld 0xC000000000000001 62 2 = 3 ∧
    fld 0xC000000000000001 0 2 ≠ 3 :=
  ⟨canon (by decide +kernel), served _ _, by decide +kernel⟩

/-- A MATMUL at work on M-block 0, a switching frond on the network, a copy. -/
def mm : Frond := { wk 0 [(0, 0x200)] with engines := [0] }
theorem wit_ADetectionReplays : findFrond (one mm) (ref0 0) = some mm ∧ mm.phase = .working ∧ mm.noWork = false ∧
    (cellUnits mm)[0]? = some 0 ∧
    ({ wk 0 [(0, 0x900)] with engines := [14, 16] } : Frond).engines.contains (0 * 64 + 16) = true ∧
    ({ wk 0 [(0, 0x900)] with engines := [14, 16] } : Frond).engines.contains (0 * 64 + 14) = true ∧
    (wk 0 [(0, 0x900)]).replays.contains (14, 0xF, unitNo (wk 0 [(0, 0x900)])) = false ∧
    ({ wk 0 [(0, 0x900)] with replays := [(14, 0xF, unitNo (wk 0 [(0, 0x900)]))] } : Frond).replays.contains
      (14, 0xF, unitNo (wk 0 [(0, 0x900)])) = true ∧ opcodeOf (wk 0 [(0, 0x900)]) ≠ 0xE00 := by decide +kernel

theorem wit_ASecondDetectionFaults :
    let f : Frond := { mm with replays := [(0, 7, unitNo mm)] }
    findFrond (one f) (ref0 0) = some f ∧ (cellUnits f)[0]? = some 0 ∧ f.replays.contains (0, 7, unitNo f) = true ∧
      ({ wk 0 [(0, 0x110)] with engines := [15] } : Frond).engines.contains (0 * 64 + 15) = true ∧
      max 1 (regF r0 rEscCtrl 8 4) ≤ max 1 (regF r0 rEscCtrl 8 4) ∧
      (let s := setF (one f) rEscCtrl 8 4 2; 1 < max 1 (regF s rEscCtrl 8 4)) := by decide +kernel

theorem wit_RegionsAndTheModuleFault :
    let gone : State := { r0 with maint := { r0.maint with faultedRegions := [7] } }
    let iso : State := setB r0 rEscCtrl 0 true
    r0.Canonical ∧ gone.maint.faultedRegions.contains 7 = true ∧ r0.maint.faultedRegions.contains 7 = false ∧
      regB iso rFailCtrl 0 = false ∧ regB iso rEscCtrl 0 = true ∧ regB (setB r0 rEscCtrl 0 false) rEscCtrl 0 = false ∧
      r0.maint.moduleFault = false :=
  ⟨canon (by decide +kernel), by decide +kernel⟩

theorem wit_AStopEndsTheFrondsInFlight :
    [wk 0 [], wk 1 []].Pairwise (fun f g => ¬(f.region = g.region ∧ f.queue = g.queue ∧ f.idx = g.idx)) := by decide +kernel

/-- Seven replays in a row, the last 16 beats ago, or 17. -/
theorem wit_BridgeReplays :
    let s (b : Nat) : State := setReg { r0 with maint := { r0.maint with bridgeRow := [(0, 7), (2, 4)] } } rBeatCount (BitVec.ofNat 64 b)
    (0 < agetN (s 20).maint.bridgeRow 0 ∧ beat (s 20) ≤ agetN (s 20).maint.bridgeRow 2 + 16) ∧
      ¬(beat (s 21) ≤ agetN (s 21).maint.bridgeRow 2 + 16) := by decide +kernel

/-! Towers, keys and random numbers -/

theorem wit_RefreshesDelayFronds : (one mm).Canonical ∧ findFrond (one mm) (ref0 0) = some mm ∧ mm.phase = .working ∧
    findFrond (one (fr 0 [])) (ref0 0) = some (fr 0 []) ∧ (fr 0 []).phase ≠ .working :=
  ⟨canon (by decide +kernel), by decide +kernel⟩

theorem wit_RefreshRate :
    let two : State := setB r0 (rTow 7 8) 2 true
    r0.Canonical ∧ two.Canonical ∧ regF r0 (rTow 7 0x10) 0 2 = 0 ∧ ¬regF (setF r0 (rTow 7 0x10) 0 2 1) (rTow 7 0x10) 0 2 = 0 ∧
      (80 ≤ (84 : BitVec 8).toNat ∧ (84 : BitVec 8).toNat < 85) ∧ 85 ≤ (85 : BitVec 8).toNat ∧ (79 : BitVec 8).toNat < 80 ∧
      regB r0 (rTow 7 8) 2 = false ∧ regB two (rTow 7 8) 2 = true ∧ Served r0 .mgmt (rTow 7 0x10) ∧
      fld 3 0 2 = 3 ∧ fld 2 0 2 = 2 ∧ (one mm).fronds ≠ [] ∧ r0.fronds = [] ∧ fld 1 0 2 = 1 ∧ fld 0 0 2 = 0 :=
  ⟨canon (by decide +kernel), canon (by decide +kernel), by decide +kernel, by decide +kernel, by decide +kernel, by decide +kernel,
   by decide +kernel, by decide +kernel, by decide +kernel, served _ _, by decide +kernel⟩

theorem wit_QuiesceAndMargining :
    let q : State := { setB (setB r0 (rTow 0 0) 0 true) (rTow 0 8) 1 true with quiesced := [(0, 5)] }
    r0.Canonical ∧ q.Canonical ∧ Served r0 .mgmt (rTow 0 0) ∧ Served r0 .mgmt (rTow 0 0x50) ∧
      bitOf 0 0 = regB r0 (rTow 0 0) 0 ∧ bitOf 1 0 = true ∧ (one mm).fronds ≠ [] ∧ r0.fronds = [] ∧
      regB (one mm) (rTow 0 0) 0 = false ∧ regB q (rTow 0 0) 0 = true ∧ q.heldAccess = [] ∧ bitOf 0 0 = false ∧
      regB r0 (rTow 0 0) 0 = false ∧ aget q.quiesced 0 = some 5 ∧ regB q (rTow 0 0x50) 3 = false ∧ aget r0.quiesced 0 = none ∧
      regB r0 (rTow 0 8) 1 = false ∧ regB q (rTow 0 8) 1 = true ∧ regB (setB q (rTow 0 0x50) 3 true) (rTow 0 0x50) 3 = true :=
  ⟨canon (by decide +kernel), canon (by decide +kernel), served _ _, served _ _, by decide +kernel⟩

/-- The last granule of a tower is 12,582,911. -/
theorem wit_PoisonOperations : r0.Canonical ∧ Served r0 .mgmt (rTow 7 0x48) ∧ (12582911 : BitVec 24).toNat < granules ∧
    granules ≤ (12582912 : BitVec 24).toNat :=
  ⟨canon (by decide +kernel), served _ _, by decide +kernel⟩

theorem wit_KeySetsAreRegistered :
    let p : State := setB r0 (rKsetCtl 7 15) 3 true
    r0.Canonical ∧ p.Canonical ∧ Served r0 .mgmt (rKsetCtl 7 15) ∧ regB p (rKsetCtl 7 15) 3 = true ∧
      regB (setB r0 (rKsetCtl 7 15) 2 true) (rKsetCtl 7 15) 2 = true ∧ regB r0 (rKsetCtl 7 15) 3 = false ∧
      regB r0 (rKsetCtl 7 15) 2 = false ∧ ksetCheck p 7 (ksetBase p 7 15) ≠ 0 :=
  ⟨canon (by decide +kernel), canon (by decide +kernel), served _ _, by decide +kernel⟩

theorem wit_KeySetsAreCleared :
    let f : Frond := { wk 0 [(0, 0x900), (33, 0x0400)] with region := 7 }
    r0.Canonical ∧ Served r0 .mgmt (rKsetCtl 7 15) ∧ Served r0 .mgmt (rKsetBase 7 15) ∧
      (r0.fronds.any (fun g => g.region == 7 && namesKeySet g (ksetBase r0 7 15))) = false ∧
      (({ r0 with fronds := [f] } : State).fronds.any (fun g => g.region == 7 && namesKeySet g (ksetBase r0 7 15))) = true ∧
      regB (setB r0 (rKsetCtl 7 15) 3 true) (rKsetCtl 7 15) 3 = true ∧ regB r0 (rKsetCtl 7 15) 3 = false ∧
      regB r0 (rKsetCtl 7 15) 2 = false :=
  ⟨canon (by decide +kernel), served _ _, served _ _, by decide +kernel⟩

theorem wit_TheEntropySource :
    let latched : State := setB r0 rRngStat 1 true
    let good : State := setB r0 rRngStat 0 true
    r0.Canonical ∧ regB latched rRngStat 1 = true ∧ regB r0 rRngStat 1 = false ∧ regF r0 rRngStat 4 4 < 2 ∧
      2 ≤ regF (setF r0 rRngStat 4 4 2) rRngStat 4 4 ∧ regB good rRngStat 0 = true ∧ regB r0 rRngStat 0 = false ∧
      Served latched .mgmt rRngCtrl :=
  ⟨canon (by decide +kernel), by decide +kernel, by decide +kernel, by decide +kernel, by decide +kernel, by decide +kernel,
   by decide +kernel, served _ _⟩

/-- Instance 8 seeded and due, at 2^19 requests, or one short of it; 64 bytes in the pool, or 63. -/
def dr (n pool : Nat) : State :=
  { r0 with rng := { r0.rng with pool := pool, inst := r0.rng.inst.map (fun d => { d with seeded := true, reqs := n }) } }
theorem wit_DrbgsAreSeeded : (dr (2 ^ 19) 64).Canonical ∧ (drbgOf (fillPool (dr (2 ^ 19) 64)) 8).seeded = true ∧
    2 ^ 19 ≤ (drbgOf (fillPool (dr (2 ^ 19) 64)) 8).reqs ∧ 64 ≤ (fillPool (dr (2 ^ 19) 64)).rng.pool ∧
    (dr (2 ^ 19) 64).rng.inst.length = 9 ∧ (drbgOf (fillPool (dr (2 ^ 19 - 1) 64)) 8).reqs < 2 ^ 19 ∧
    (fillPool (dr (2 ^ 19) 63)).rng.pool < 64 ∧ rngHealthy (setB r0 rRngStat 0 true) = true ∧ rngHealthy r0 = false :=
  ⟨canon (by decide +kernel), by decide +kernel⟩

theorem wit_PkeCommandsStart : r0.Canonical ∧ Served r0 .mgmt rPkeCmd ∧ regB r0 rPkeStat 0 = false ∧
    regB (setB r0 rPkeStat 0 true) rPkeStat 0 = true :=
  ⟨canon (by decide +kernel), served _ _, by decide +kernel⟩

theorem wit_PkeResults :
    let s (n k : Nat) : State := setReg (setReg r0 (rPkeArg 1) (BitVec.ofNat 64 n)) (rPkeArg 3) (BitVec.ofNat 64 k)
    (s 8 1).Canonical ∧ pkeArg (s 8 1) 1 < 2 ^ 32 ∧ 1 ≤ pkeArg (s 8 1) 3 ∧ pkeArg (s 8 4096) 3 ≤ 4096 ∧
      spanOk (s 8 1) (pkeAddr (s 8 1) 0) (pkeArg (s 8 1) 1) = true ∧ spanOk (s 8 1) (pkeAddr (s 8 1) 2) (pkeArg (s 8 1) 3) = true ∧
      windowOk (s 8 1) (pkeAddr (s 8 1) 0) = true ∧ (pkeRead (s 8 1) (pkeAddr (s 8 1) 0) (pkeArg (s 8 1) 1)).2.1 = false ∧
      pkeArg r0 3 = 0 ∧ cmdSlot r0 < 2 ∧ 2 ≤ cmdSlot (setF r0 rPkeCmd 16 6 2) :=
  ⟨canon (by decide +kernel), by decide +kernel⟩

theorem wit_PkeCommandsEnd : r0.sec.job = none ∧
    (let s : State := { r0 with sec := { r0.sec with job := some (1, 0x30) } }
     s.Canonical ∧ s.sec.job = some (1, 0x30) ∧ 0x30 < 256 ∧ 0x30 ≠ 0) :=
  ⟨rfl, canon (by decide +kernel), by decide +kernel⟩

/-! Maintenance, power and heat -/

theorem wit_MaintenanceIsRequested : Served r0 .mgmt rMaintReq ∧ Served r0 .mgmt (rLinkCtrl 15) ∧
    (7 : BitVec 8).toNat < 8 ∧ 8 ≤ (8 : BitVec 8).toNat ∧ (15 : BitVec 8).toNat < 16 ∧ 16 ≤ (16 : BitVec 8).toNat ∧
    (1 : BitVec 8).toNat < 2 ∧ 2 ≤ (2 : BitVec 8).toNat ∧ regB (setB r0 rScrubCfg 16 true) rScrubCfg 16 = true ∧
    regB (setB r0 rScrubCfg 16 false) rScrubCfg 16 = false :=
  ⟨served _ _, served _ _, by decide +kernel⟩

/-- A running drain, a scrub of tower 0 waiting. -/
def mq (a b : Activity) : State :=
  { r0 with maint := { r0.maint with running := [⟨a, 0, 0, none⟩], queued := [⟨b, 0, 1, none⟩], order := 2 } }
theorem wit_TheArbiterOrdersActivities :
    conflicts (mq .scrub .margin) ⟨.margin, 0, 1, none⟩ ⟨.scrub, 0, 0, none⟩ = true ∧
    conflicts (mq .scrub .drain) ⟨.drain, 0, 1, none⟩ ⟨.scrub, 0, 0, none⟩ = false ∧
    (mq .scrub .margin).maint.running.find? (fun x => conflicts (mq .scrub .margin) ⟨.margin, 0, 2, none⟩ x) = some ⟨.scrub, 0, 0, none⟩ ∧
    (∃ x ∈ (mq .scrub .margin).maint.queued, x.act = .margin ∧ x.scope = 0) ∧
    (∀ x ∈ (mq .scrub .margin).maint.queued, ¬(x.act = .margin ∧ x.scope = 1)) ∧
    (mq .scrub .drain).maint.running.find? (fun x => x.act == .retrain && x.scope == 0) = none ∧
    (mq .scrub .drain).maint.running.find? (fun x => x.act == .scrub && x.scope == 0) = some ⟨.scrub, 0, 0, none⟩ ∧
    (mq .thermal .drain).maint.running.find? (fun x => x.act == .thermal && x.scope == 0) = some ⟨.thermal, 0, 0, none⟩ := by
  decide +kernel

def lv (n : Nat) : State := setF r0 rBeatStat 0 4 n
theorem wit_StretchLevels : (lv 8).Canonical ∧ (lv 5).Canonical ∧ 4 < level (lv 5) ∧ level (lv 8) = 8 ∧ level (lv 4) ≤ 4 ∧ level (lv 7) < 8 ∧
    thermalRuns (lv 7) = false ∧ thermalRuns (mq .thermal .drain) = true ∧ voltageRoom (lv 7) = true ∨ voltageRoom (lv 7) = false :=
  Or.inl ⟨canon (by decide +kernel), canon (by decide +kernel), by decide +kernel⟩

theorem wit_VoltageAndPower :
    let hot : State := setB r0 rTherm 24 true
    let capped : State := setB r0 rPwrcap 16 true
    let low : State := setF r0 rStretch 0 6 10
    r0.Canonical ∧ thermalRuns (mq .thermal .drain) = true ∧ thermalRuns r0 = false ∧ regB hot rTherm 24 = true ∧
      regB r0 rTherm 24 = false ∧ (9 : BitVec 8).toNat < regF low rStretch 0 6 ∧ ¬((10 : BitVec 8).toNat < regF low rStretch 0 6) ∧
      regB capped rPwrcap 16 = true ∧ regB r0 rPwrcap 16 = false ∧ Served r0 .mgmt rPwrcap :=
  ⟨canon (by decide +kernel), by decide +kernel, by decide +kernel, by decide +kernel, by decide +kernel, by decide +kernel,
   by decide +kernel, by decide +kernel, by decide +kernel, served _ _⟩

theorem wit_HeatResponse : r0.Canonical ∧ (102 : BitVec 8).toNat < 103 ∧ 103 ≤ (103 : BitVec 8).toNat ∧ (100 : BitVec 8).toNat ≤ 100 ∧
    100 < (101 : BitVec 8).toNat ∧ (114 : BitVec 8).toNat < 115 ∧ 115 ≤ (115 : BitVec 8).toNat :=
  ⟨canon (by decide +kernel), by decide +kernel⟩

theorem wit_RailsAndReferences :
    let up : State := { r0 with pins := { r0.pins with pwrgood := true } }
    let lock : State := setB r0 rBeatStat 4 true
    let st : State := { setF r0 rBoot 0 4 1 with start := some ⟨0, false, false, false, true, [], []⟩ }
    r0.Canonical ∧ r0.pins.pwrgood = false ∧ up.pins.pwrgood = true ∧ Rail.vdram ≠ Rail.vcore0 ∧
      regB lock rBeatStat 4 = true ∧ regB r0 rBeatStat 4 = false ∧ st.start.isSome = true ∧ regF st rBoot 0 4 = 1 ∧
      regB st rBoot 4 = false ∧ isReady st = false ∧ r0.start = none ∧ regF (setF r0 rBoot 0 4 2) rBoot 0 4 ≠ 1 :=
  ⟨canon (by decide +kernel), by decide +kernel⟩

theorem wit_MemoryConfiguration : r0.Canonical ∧ Served r0 .mgmt rMemcfg ∧ regB lk rMemcfg 63 = true ∧ regB r0 rMemcfg 63 = false :=
  ⟨canon (by decide +kernel), served _ _, by decide +kernel⟩

theorem wit_CountersAreCleared : r0.Canonical ∧ Served r0 .mgmt rBeatCtrl := ⟨canon (by decide +kernel), served _ _⟩

/-! Hosts -/

/-- Port 0 up, with bus mastering, ATS and page requests. -/
def up0 : State :=
  setPort (setB (setB (setB (setB rd (rPcieStat 0) 0 true) (rPcieStat 0) 11 true) (rPcieStat 0) 12 true) (rPcieStat 0) 10 true) 0
    { portOf rd 0 with priAlloc := 1 }
/-- Port 0 with a page request that has been sent. -/
def pg : State := { up0 with host := { up0.host with pages := [⟨0, 4096, 0, 1, true⟩] } }

theorem wit_TranslationsAndPages :
    let f : Frond := { wk 0 [(0, 0x100), (8, 0), (9, 0x0400)] with pairs := [(0xA000000000, 0x1000), (0, 0), (0, 0), (0, 0)] }
    up0.Canonical ∧ (∀ x ∈ r0.host.pages, ¬(x.port = 0 ∧ x.page = pageOf 0)) ∧ priOpen r0 0 = false ∧ up0.host.pages = [] ∧
      priOpen up0 0 = true ∧ 0 < pageLimit up0 0 ∧
      r0.host.pages.find? (fun x => x.port == 0 && x.page == pageOf 0 && x.sent) = none ∧
      pg.host.pages.find? (fun x => x.port == 0 && x.page == pageOf 4096 && x.sent) = some ⟨0, 4096, 0, 1, true⟩ ∧
      regF (setF pg (rPriCfg 0) 0 32 0) (rPriCfg 0) 0 32 = 0 ∧ regF (setF pg (rPriCfg 0) 0 32 1) (rPriCfg 0) 0 32 ≠ 0 ∧
      findFrond (one f) (ref0 0) = some f ∧ hostSource (one f) f = some 0 :=
  ⟨canon (by decide +kernel), by decide +kernel⟩

theorem wit_HostPorts : up0.Canonical ∧ regB up0 (rPcieStat 0) 0 = true ∧ regB r0 (rPcieStat 0) 0 = false ∧ bitOf 1 0 = true ∧
    bitOf 0 0 = false ∧ (29 : Word).toNat < 30 ∧ 30 ≤ (30 : Word).toNat ∧ (39 : Word).toNat ≤ 39 ∧ 39 < (40 : Word).toNat :=
  ⟨canon (by decide +kernel), by decide +kernel⟩

theorem wit_SemaphoresAndMailboxes :
    let own : State := setF r0 (rSem 15) 0 2 (ownerCode .mgmt)
    let full : State := setB r0 (rMboxCtl 2) 0 true
    r0.Canonical ∧ ownerCode .mgmt ≠ 0 ∧ ownerCode (.seq 0) = 0 ∧ regF r0 (rSem 15) 0 2 = 0 ∧
      regF own (rSem 15) 0 2 = ownerCode .mgmt ∧ regB full (rMboxCtl 2) 0 = true ∧ regB r0 (rMboxCtl 2) 0 = false ∧
      (∃ m d, ownerCode m = mboxTo d) ∧ ownerCode (.seq 0) ≠ mboxTo 0 ∧
      regB (setB r0 (rIrqRoute 1 34) 8 true) (rIrqRoute 1 34) 8 = true :=
  ⟨canon (by decide +kernel), by decide +kernel, by decide +kernel, by decide +kernel, by decide +kernel, by decide +kernel,
   by decide +kernel, ⟨.mgmt, 0, by decide +kernel⟩, by decide +kernel⟩

theorem wit_TheConfigurationStore :
    let s (a : Word) : State := setReg (setF rd (rSem 1) 0 2 (ownerCode .mgmt)) rNvAddr a
    (s 0xFFFF).Canonical ∧ 1 ≤ (1 : BitVec 9).toNat ∧ (256 : BitVec 9).toNat ≤ 256 ∧
      (ownerCode .mgmt ≠ 0 ∧ regF (s 0xFFFF) (rSem 1) 0 2 = ownerCode .mgmt ∧ regB (s 0xFFFF) rNvStat 0 = false ∧
        (isReady (s 0xFFFF) = true ∨ regB (s 0xFFFF) rBoot 4 = true)) ∧
      ¬(regF r0 (rSem 1) 0 2 = ownerCode .mgmt) ∧ (reg (s 0xFFFF) rNvAddr).toNat < 0x10000 ∧
      0x10000 ≤ (reg (s 0x10000) rNvAddr).toNat ∧ r0.host.nvJob = none ∧
      ({ r0 with host := { r0.host with nvJob := some (3, 0x10000, 1) } } : State).host.nvJob = some (3, 0x10000, 1) :=
  ⟨canon (by decide +kernel), by decide +kernel⟩

theorem wit_FirmwareAndTheBoard :
    let last (b : Nat) : State := { rd with host := { rd.host with wdtLast := some b } }
    let late : State := setReg (last 0) rBeatCount 1250000000
    r0.Canonical ∧ Served r0 .mgmt rWdt ∧ isReady r0 = false ∧ isReady rd = true ∧ (∀ q ∈ rd.maint.running, q.act ≠ .fill) ∧
      (last 0).host.wdtLast = some 0 ∧ beat (last 0) < 0 + 1250000000 ∧ 0 + 1250000000 ≤ beat late ∧
      5 ≤ regF (setF r0 rBoot 0 4 5) rBoot 0 4 ∧ regF (setF r0 rBoot 0 4 4) rBoot 0 4 < 5 :=
  ⟨canon (by decide +kernel), served _ _, by decide +kernel⟩

theorem wit_RegistersAreWritten : up0.Canonical ∧ rTask 7 15 3 1 < 2 ^ 28 ∧ Served up0 .mgmt (rTask 7 15 3 1) ∧ 1 ≤ 1 ∧ 64 ≤ 64 ∧
    widthOk (rTask 7 15 3 1) 2 = false ∧ widthOk 0x0FFFFF8 8 = true ∧ rowOf (0x0FFFFF8 / 8 * 8) = none ∧
    regB up0 (rPcieStat 0) 0 = true ∧ isReady up0 = true ∧ 0 + [0].length ≤ 2 ^ 28 :=
  ⟨canon (by decide +kernel), by decide +kernel, served _ _, by decide +kernel⟩

theorem wit_MemoryFromOutside : up0.Canonical ∧ regB r0 (rPcieStat 0) 0 = false ∧ regB up0 (rPcieStat 0) 0 = true ∧
    isReady (setB up0 rBoot 5 false) = false ∧ isReady up0 = true ∧ 0 + 64 ≤ 2 ^ (portOf up0 0).barLog2 ∧
    resolve up0 ((reg up0 (rMwin 0)).toNat + 0) = .hbm 0 ∧ quiescedFor up0 0 64 = false ∧
    quiescedFor { setB (setB up0 (rTow 0 0) 0 true) (rTow 0 8) 1 true with quiesced := [(0, 0)] } 0 64 = true ∧
    mapped up0 0 64 = true ∧ windowOk up0 0 = true ∧ mapped up0 0x6000000000 1 = false ∧ quiescedFor up0 0x6000000000 1 = false ∧
    resolve up0 0x6000000000 = .unmapped :=
  ⟨canon (by decide +kernel), by decide +kernel⟩

/-- A tee entry. -/
def teeE : TeeEntry := ⟨0, 0, 0, [], 0, 0, 0, 0, 0, false, [], 0, 0⟩

/-! Links -/

/-- Port 15 up in a module at physical coordinate 0. -/
def lp : State := setB lk (rLinkStat 15) 0 true
def dpk (v l : Nat) (d : Nat) : Packet := ⟨{ newHdr 1 v 32 d 0 0 0 with lseq := BitVec.ofNat 12 l, destP := BitVec.ofNat 32 d }, .bytes (List.replicate 32 0)⟩

theorem wit_PacketsArrive : wellFormed (.data 15 (dpk 0 0 0)) = true ∧ r0.fail.relay = none ∧ portUp r0 15 = false ∧ portUp lp 15 = true ∧
    (linkPort lp 15).rxSeq = 0 ∧ (dpk 0 1 0).hdr.lseq.toNat ≠ 0 ∧ (dpk 0 0 0).hdr.lseq.toNat = 0 ∧ typeOk (dpk 2 0 0).hdr = false ∧
    typeOk (dpk 1 0 0).hdr = true ∧ (dpk 0 0 0).hdr.destP.toNat = ownPhys (linkTook lp 15 (dpk 0 0 0)) ∧
    everyHop (dpk 0 0 1) = false ∧ (dpk 0 0 1).hdr.destP.toNat ≠ ownPhys (linkTook lp 15 (dpk 0 0 1)) ∧
    wellFormed (.linkBadType 15 (dpk 2 0 0)) = true ∧ typeOk (hdr0 0x11 32) = false ∧ typeOk (newHdr 0x11 2 32 0 0 0 0) = true := by
  decide +kernel

theorem wit_PacketsAreKept :
    let t : TeeEntry := { teeE with target := 7, tag := 3, pending := 65 }
    let s : State := { r0 with links := { r0.links with tees := [t] } }
    let gem (n : Nat) : State := setF r0 rFailStat 0 3 n
    standinFor r0 ≠ some 0 ∧ failState (gem 4) ≠ 5 ∧ failState (gem 5) = 5 ∧ r0.fail.claimant ≠ some (physOf r0 0) ∧
      t ∈ s.links.tees ∧ (∀ x ∈ s.links.tees, x.target = 7 → x.tag = 3 → 0 < x.pending → x = t) ∧ 64 < t.pending := by
  decide +kernel

theorem wit_PortsComeUpAndGoDown :
    let s : State := setB (setF (setF r0 rBoot 0 4 7) rTorus 0 5 2) (rLinkCtrl 0) 0 true
    r0.Canonical ∧ regF r0 rBoot 0 4 ≠ 6 ∧ Served r0 .mgmt (rLinkCtrl 15) ∧ mayTrain r0 0 = false ∧
      (s.Canonical ∧ regF s rBoot 0 4 ≠ 6 ∧ mayTrain s 0 = true) ∧
      (0xFE : BitVec 8) ≠ 0xFF ∧ (0 : Word32).toNat ≠ neighbour s (ownPhys s) 0 false ∧ (1 : BitVec 4).toNat = (0 : Fin 16).val ^^^ 1 ∧
      (BitVec.ofNat 32 (neighbour s (ownPhys s) 0 false) : Word32).toNat = neighbour s (ownPhys s) 0 false ∧
      (40000 : BitVec 16).toNat ≤ 40000 ∧ portUp lp 14 = false ∧ portUp lp 15 = true ∧ fenced lp = false ∧ 15 < lp.links.ports.length :=
  ⟨canon (by decide +kernel), by decide +kernel, served _ _, by decide +kernel, ⟨canon (by decide +kernel), by decide +kernel⟩, by decide +kernel⟩

/-- A reduce-scatter in group 0 that is at work, and its group entry valid. -/
def sd : Frond := wk 0 [(0, 0xC10)]
theorem wit_GroupsAliasesAndTimeouts :
    let busy : State := setB (one sd) (rGroupA 63) 16 true
    let two : State := { setReg r0 (rAliasL 255) 5 with links := { r0.links with coordAlias := [(254, 5, 9, false)] } }
    r0.Canonical ∧ Served r0 .mgmt (rGroupA 63) ∧
      (regB busy (rGroupA 63) 16 && busy.fronds.any (fun f => namesGroup busy f (regF busy (rGroupA 63) 0 16))) = true ∧
      regB r0 (rGroupA 63) 16 = false ∧ (two.Canonical ∧ Served two .mgmt (rAliasF 255) ∧ two.fronds = []) ∧
      (bitOf 1 0 && two.links.coordAlias.any (fun e => e.1 != 255 && e.2.1 == regF two (rAliasL 255) 0 32)) = true ∧
      (bitOf 0 0 && two.links.coordAlias.any (fun e => e.1 != 255 && e.2.1 == regF two (rAliasL 255) 0 32)) = false ∧
      findFrond (one sd) (ref0 0) = some sd ∧ sd.phase = .working ∧ sd.worked = false ∧ sd.wake = none ∧
      opcodeOf sd ∈ [0xC00, 0xC01, 0xC10, 0xC11, 0xC12, 0xC13] ∧
      (let s : State := { r0 with links := { r0.links with tees := [{ teeE with region := 7, pending := 1 }] } }
       (s.links.tees.filter (fun t => t.region == (7 : Fin 8).val))[0]? = some { teeE with region := 7, pending := 1 } ∧
       (s.links.tees.filter (fun t => t.region == (7 : Fin 8).val))[1]? = none) :=
  ⟨canon (by decide +kernel), served _ _, by decide +kernel, by decide +kernel, ⟨canon (by decide +kernel), served _ _, rfl⟩, by decide +kernel⟩

/-! Surviving failures -/

theorem wit_ArmingAndPairing :
    let on : State := setB r0 rFailCtrl 0 true
    let pt : State := setF (setB on rPartner 32 true) rPartner 0 32 9
    let twins : State := setReg (setReg (setReg (setReg pt (rPtCfg 0) 0x10000001) (rPtCfg 1) 0x10000001) (rPtBase 0) 0) (rPtBase 1) 0
    let sent : State := { on with fail := { on.fail with syncSent := some 5 } }
    r0.Canonical ∧ regB r0 rFailCtrl 63 = false ∧ Served r0 .mgmt rFailCtrl ∧ armed r0 = false ∧ bitOf 1 63 = false ∧ bitOf 1 0 = true ∧
      regB r0 rPartner 32 = false ∧ armed on = true ∧ bitOf 0 0 = false ∧ partnerOf on ≠ some 9 ∧ partnerOf pt = some 9 ∧
      tableClash pt = false ∧ tableClash twins = true ∧ (∃ v v2, v = tdigest pt true ∧ v2 = tdigest pt false) ∧ (∃ v, v ≠ tdigest pt true) ∧
      (0 = ownDomain pt ∨ 1 = ownBoard pt) ∧ ¬(1 = ownDomain pt ∨ 1 = ownBoard pt) ∧ regB pt rFailCtrl 2 = false ∧
      regB (setB pt rFailCtrl 2 true) rFailCtrl 2 = true ∧ r0.fail.syncSent = none ∧ sent.Canonical ∧ regB sent rFailCtrl 63 = false ∧
      sent.fail.syncSent = some 5 ∧ sent.fail.syncSeen = false ∧ armed sent = true ∧ 5 + regF sent rRecvWd 0 32 < 2 ^ 64 :=
  ⟨canon (by decide +kernel), by decide +kernel, served _ _, by decide +kernel, by decide +kernel, by decide +kernel, by decide +kernel,
   by decide +kernel,
   by decide +kernel, by decide +kernel, by decide +kernel, by decide +kernel, by decide +kernel, ⟨_, _, rfl, rfl⟩,
   ⟨_, Nat.succ_ne_self _⟩, by decide +kernel, by decide +kernel, by decide +kernel, by decide +kernel, rfl,
   canon (by decide +kernel), by decide +kernel⟩

theorem wit_ColdTensorsAndShadows :
    let wait : State := { r0 with fail := { r0.fail with dirtyWait := [(255, 7)] } }
    let chk : State := { r0 with fail := { r0.fail with digest := some 4 } }
    r0.Canonical ∧ (255 : Word).toNat < 256 ∧ 256 ≤ (256 : Word).toNat ∧ (aget wait.fail.dirtyWait (255 : Word).toNat).isSome = true ∧
      aget wait.fail.dirtyWait 255 = some 7 ∧ aget r0.fail.dirtyWait 255 = none ∧ r0.fail.digest = none ∧
      chk.fail.digest = some (4 : Word).toNat ∧ 4 ≠ (5 : Word).toNat :=
  ⟨canon (by decide +kernel), by decide +kernel⟩

/-- A module that has heard its neighbour 9 at port 15. -/
def nb : State :=
  let s := setB (setF lp (rLinkPeer 15) 0 32 9) (rLinkStat 15) 1 true
  setLinkPort s 15 { linkPort s 15 with heard := some 100, heardCoord := 9 }
theorem wit_LossesAreHandled :
    let seen : State := { r0 with fail := { r0.fail with seen := [(0x20, 9, lossFlags false true)] } }
    r0.Canonical ∧ seen.fail.seen.contains (0x20, (9 : Word32).toNat, lossFlags false true) = true ∧
      seen.fail.seen.contains (0x20, (9 : Word32).toNat, lossFlags true true) = false ∧
      lastHeard r0 (portsTo r0 (behind r0 15)) = none ∧ nb.Canonical ∧ lastHeard nb (portsTo nb (behind nb 15)) = some 100 ∧
      fenced nb = false ∧ isDead nb (behind nb 15) = false ∧ lastHeard r0 (List.range 16) = none ∧ lastHeard nb (List.range 16) = some 100 :=
  ⟨canon (by decide +kernel), by decide +kernel, by decide +kernel, by decide +kernel, canon (by decide +kernel), by decide +kernel⟩

theorem wit_GemmasAreClaimed :
    let st (n : Nat) : State := setF r0 rFailStat 0 3 n
    let sp : State := setReg (setReg (st 3) (rSpare 63) 0x10000000005) (rSpare 62) 0x30000000004
    let cl : State := { sp with fail := { sp.fail with claim := some 63 } }
    let k : Packet := ⟨newHdr 0x22 2 32 0 5 0 0, .ready 1 5 0 0 0 0⟩
    failState r0 ≠ 3 ∧ ((st 3).Canonical ∧ failState (st 3) = 3 ∧ regB (st 3) rGemma 32 = false ∧ (st 3).fail.claim = none ∧
      nearestSpare (st 3) = none) ∧ (sp.Canonical ∧ failState sp = 3 ∧ regB sp rGemma 32 = false ∧ sp.fail.claim = none ∧
      nearestSpare sp = some 63) ∧ failState (st 4) = 4 ∧ failState (st 5) ≠ 4 ∧
      ({ r0 with fail := { r0.fail with seen := [(0x21, 9, 1)] } } : State).fail.seen.contains (0x21, (9 : Word32).toNat, 1) = true ∧
      claimedBy sp k = none ∧ claimedBy cl k = some 63 ∧
      (let g := setB (st 3) rGemma 32 true; regB g rGemma 32 = true ∧ regB g rGemma 33 = false ∧ failState g = 3) :=
  ⟨by decide +kernel, ⟨canon (by decide +kernel), by decide +kernel⟩, ⟨canon (by decide +kernel), by decide +kernel⟩, by decide +kernel⟩

/-! Reset -/

/-- Start-up's surroundings: references, flash and the three towers in order. -/
def env : StartEnv :=
  { domid := 9, mbusSel := true, testEn := false, refOk := true, flashOk := true, entropyRuns := List.replicate 9 true,
    towers := List.replicate 8 ⟨true, List.replicate 64 ⟨0, 0, 0, 0, 0, 0, 0⟩⟩ }
theorem wit_ResetAndStartUp :
    let off : State := { r0 with pins := { r0.pins with pwrgood := false, resetN := false } }
    let on : State := { r0 with pins := { r0.pins with pwrgood := true, resetN := true } }
    r0.Canonical ∧ envOk env = true ∧ envOk { env with testEn := true } = true ∧ envOk { env with refOk := false } = true ∧
      envOk { env with flashOk := false } = true ∧ off.Canonical ∧ on.pins.pwrgood = true ∧ on.pins.resetN = true ∧
      off.pins.pwrgood = false ∧ off.pins.resetN = false ∧ ({ on with pins := { on.pins with vmgmtLost := true } } : State).pins.vmgmtLost = true ∧
      regB r0 rBoot 4 = false ∧ isReady r0 = false ∧ regF (setF r0 rBoot 0 4 6) rBoot 0 4 = 6 ∧ regF (setF r0 rBoot 0 4 7) rBoot 0 4 = 7 ∧
      regB (setF r0 rBoot 0 4 7) rBoot 4 = false ∧ regF r0 rBoot 0 4 ≠ 6 ∧ regF r0 rBoot 0 4 ≠ 7 :=
  ⟨canon (by decide +kernel), by decide +kernel, by decide +kernel, by decide +kernel, by decide +kernel, canon (by decide +kernel), by decide +kernel⟩

/-! The sequencer -/

/-- Queue 3 of region 7, ENABLE, with one undecoded frond, its ring at `a`. -/
def qd (a : Word) : State := setReg (setF (setB lk (rQctrl 7 3) 0 true) (rQtail 7 3) 0 32 1) (rQbase 7 3) a

theorem wit_FrondsAreDecoded :
    let stop : State := { qd 0 with maint := { (qd 0).maint with moduleFault := true } }
    let iso : State := { qd 0 with maint := { (qd 0).maint with isolated := [7] } }
    let b := workFrom (qd 0) (max (beat (qd 0)) (((aget (qd 0).lastDecode 7).map (· + 1)).getD 0))
    (qd 0).Canonical ∧ seqStopped stop 7 = true ∧ (∀ q < 4, undecoded (qd 0) 0 q = false) ∧ seqStopped (qd 0) 7 = false ∧
      undecoded (qd 0) 7 3 = true ∧ entryFree (qd 0) 7 3 = true ∧ (∀ p < 3, undecoded (qd 0) 7 p = false ∨ entryFree (qd 0) 7 p = false) ∧
      aget (qd 0).lastTail (7 * 4 + 3) = none ∧ (∀ x ∈ (qd 0).images, ¬(x.region = 7 ∧ x.queue = 3)) ∧ standinRuns (qd 0) = false ∧
      b < 2 ^ 64 ∧ fetchable (advanceTo (qd 0) b) 0 256 = true ∧ iso.maint.isolated.contains 7 = true ∧ seqStopped iso 7 = false ∧
      undecoded iso 7 3 = true ∧ (qd 0).maint.isolated.contains 7 = false ∧ fetchable (qd 0x6000000000) 0x6000000000 256 = false ∧
      resolve (qd 0x6000000000) 0x6000000000 = .unmapped ∧ undecoded (qd 0x6000000000) 7 3 = true ∧
      (7, 3, 0) ∈ ({ qd 0 with aborts := [(7, 3, 0)] } : State).aborts ∧ (7, 3, 0) ∉ (qd 0).aborts ∧
      specOf r0 (fr 0 [(0, 0xFFF)]) = none ∧ headerForm (fr 0 [(0, 0x30000)]) = false ∧ headerForm (fr 0 []) = true :=
  ⟨canon (by decide +kernel), by decide +kernel⟩

/-- A NOP with a deadline that cannot be met and one that can: DEADLINE_EN, DEADLINE 0 or 1000. -/
def dl (n : Nat) : Frond := fr 0 [(0, 0x2000), (6, n)]
/-- It is accepted next, and its acceptance is looked at in a state `after`. -/
def nextUp (f : Frond) : Bool :=
  let s := one f
  !seqStopped s 0 && !s.maint.isolated.contains 0 && !fenced s && regB s rMemcfg 63 && s.maint.running.isEmpty &&
    s.maint.queued.isEmpty && f.pre.isEmpty && candidate s 0 0 == some f && !regB s (rPstat 0) 0 && mayAccept s f &&
    (f.abort || f.skip.isSome || (activityOf s f).isNone) && decide (acceptBeat s f < 2 ^ 64)
def specd (f : Frond) : Bool := !f.abort && f.skip.isNone && (specOf (one f) f).isSome
def seen (f : Frond) : State := let u := advanceTo (one f) (acceptBeat (one f) f); consumeWaits (inOrder u f) (placed u f)
/-- What the checks of acceptance and the deadline say of it under a promise of 5. -/
def looked (f : Frond) : Option (Bool × Bool × Bool) :=
  (specOf (seen f) (placed (seen f) f)).map (fun p =>
    ((acceptCheck (seen f) (placed (seen f) f) p).isSome, p.noop, refused (seen f) (placed (seen f) f) p 5))
theorem wit_FrondsAreAccepted :
    (one (dl 0)).Canonical ∧ nextUp { dl 0 with abort := true } = true ∧ nextUp { dl 0 with skip := some .skipIllegal } = true ∧
      nextUp (dl 0) = true ∧ nextUp (dl 1000) = true ∧ specd (dl 0) = true ∧ looked (dl 0) = some (false, false, true) ∧
      specd (dl 1000) = true ∧ looked (dl 1000) = some (false, false, false) ∧
      (let f := fr 0 [(0, 0x110), (8, 0), (9, 0x1000400)]
       nextUp f = true ∧ specd f = true ∧ (looked f).map (fun x => x.1) = some true) ∧
      armed (one (dl 1000)) = false ∧ noHorizon (dl 0) = false ∧ keepsHorizon 0 = true ∧
      (one (dl 0)).maint.isolated.contains 1 = false ∧ regB r0 rMemcfg 63 = false ∧ fenced (setF r0 rFailStat 0 3 6) = true :=
  ⟨canon (by decide +kernel), by decide +kernel⟩

/-- A wait, or a signal, of 2 on token 255. -/
def tw : Nat := 2 * 65536 + 2048 + 255
theorem wit_TokensAreCounted :
    let f := fr 0 [(2, tw), (4, tw)]
    r0.Canonical ∧ tokReg 0 ⟨255, false, true, 2⟩ = some (rTok 0 255) ∧ waitsOf f = [⟨255, false, true, 2⟩] ∧ signalsOf f = [⟨255, false, true, 2⟩] ∧
      regF (setF r0 (rTok 0 255) 0 16 65533) (rTok 0 255) 0 16 + 2 ≤ 65535 ∧
      65535 < regF (setF r0 (rTok 0 255) 0 16 65534) (rTok 0 255) 0 16 + 2 :=
  ⟨canon (by decide +kernel), by decide +kernel⟩

/-- A COPY of 8 INT16 elements from the towers to the own mat. -/
def cp : Frond := fr 0 [(0, 0x3000110), (8, 0), (9, 0x900), (11, 0x10007), (44, 0), (45, 0x900), (47, 0x10007)]
theorem wit_RunAheadFetchesElements :
    let x : Frond := { cp with pairs := [(0, 0x6000000000), (0, 0x6000000000), (0, 0x6000000000), (0x8000000000, 0x2000000)],
                               words := words [(0, 0xC0000110), (8, 0), (9, 0x900), (11, 0x10007), (44, 0), (45, 0x900), (47, 0x10007)] }
    let s := one x
    s.Canonical ∧ findFrond s (ref0 1) = none ∧ findFrond s (ref0 0) = some x ∧ x.phase = .decoded ∧ x.skip = none ∧ x.abort = false ∧
      inStore s x = true ∧ seqStopped s 0 = false ∧ (specOf s x).isSome = true ∧
      ((specOf s x).map (fun p => (fetchesAhead s x p 0, fetchesAhead s x p 1,
        decide (storeBytes (slotOf x 0) 1 ≤ 8192 / p.sources.length)))) = some (true, false, true) ∧ s.upsets = [] ∧
      0 < (slotOf x 0).elems ∧ (slotOf x 0).fmt ≠ 0x10 ∧ resolve s ((slotOf x 0).addr ((slotOf x 0).pos 0 0)) = .hbm 0 :=
  ⟨canon (by decide +kernel), by decide +kernel⟩

/-! Completion -/

/-- A NOP whose work has ended, without and with PACED. -/
def dn (p : Bool) : Frond := { wk 0 [(0, if p then 0x1000 else 0)] with worked := true, rep := 1 }
theorem und (f : Frond) (h1 : f.region = 0) (h2 : f.queue = 0) (h3 : heldBefore (one f) f = false)
    (h4 : opcodeOf f / 256 ≠ 0xD) (h5 : f.engines = [] ∧ f.tiles = [] ∧ f.dtiles = [] ∧ f.wroteTiles = [] ∧ f.wroteLines = [] ∧
      f.wroteGrans = []) : Undisturbed (one f) f where
  canonical := canon (show canonB lk = true by decide +kernel)
  region := by omega
  queue := by omega
  first := h3
  room := by rw [h1, h2]; exact (show ringBlocked lk 0 0 = false by decide +kernel)
  maint := ⟨rfl, rfl⟩
  noImage := fun _ h => nomatch h
  cls := h4
  engines := fun e he => by simp [h5.1] at he
  tiles := by simp [h5]
  lines := by simp [h5]

theorem wit_FrondsComplete :
    let p : Frond := { dn true with phase := .finished, ended := 50 }
    r0.Canonical ∧ findFrond r0 (ref0 0) = none ∧ findFrond (one (dn false)) (ref0 0) = some (dn false) ∧
      complete (one (wk 0 [])) (wk 0 []) = false ∧ complete (one (dn false)) (dn false) = true ∧ complete (one (dn true)) (dn true) = true ∧
      paced (dn true) = true ∧ paced (dn false) = false ∧ pacing (dn false) = false ∧ pacing p = true ∧ opcodeOf p / 256 ≠ 0xD ∧
      max (max (99 : Word).toNat (dn true).issue) (beat (one (dn true)) - 1) < (dn true).prom ∧
      (dn true).prom ≤ max (max (100 : Word).toNat (dn true).issue) (beat (one (dn true)) - 1) ∧
      Undisturbed (one (dn false)) (dn false) ∧ Undisturbed (one (dn true)) (dn true) ∧ Undisturbed (one p) p ∧ beat (one p) ≤ p.prom :=
  ⟨canon (by decide +kernel), by decide +kernel, by decide +kernel, by decide +kernel, by decide +kernel, by decide +kernel, by decide +kernel,
   by decide +kernel, by decide +kernel, by decide +kernel, by decide +kernel, by decide +kernel, by decide +kernel,
   und _ rfl rfl (by decide +kernel) (by decide +kernel) (by decide +kernel), und _ rfl rfl (by decide +kernel) (by decide +kernel) (by decide +kernel),
   und _ rfl rfl (by decide +kernel) (by decide +kernel) (by decide +kernel), by decide +kernel⟩

/-- A skipped frond, accepted on beat 0. -/
def sk : Frond := { fr 0 [] with noWork := true, phase := .finished, skip := some .skipIllegal }
/-- A BARRIER that has its release beat. -/
def ba (w : Nat) : Frond := { wk 0 [(0, 0x004)] with wake := some w, work := [1] }
theorem wit_SkippedFrondsAndBarriersAreReleased :
    findFrond (one sk) (ref0 0) = some sk ∧ sk.noWork = true ∧ sk.phase = .finished ∧ sk.held = false ∧ Undisturbed (one sk) sk ∧
      beat (one sk) ≤ workAfter (one sk) sk.acc 4 ∧ workAfter (one sk) sk.acc 4 < 2 ^ 64 ∧ (wk 0 []).noWork = false ∧ (wk 0 []).wake = none ∧
      findFrond (one (ba 28)) (ref0 0) = some (ba 28) ∧ opcodeOf (ba 28) = 0x004 ∧ (ba 28).phase = .working ∧ (ba 28).noWork = false ∧
      (ba 28).wake = some 28 ∧ Undisturbed (one (ba 28)) (ba 28) ∧ workFrom (one (ba 28)) (max (beat (one (ba 28))) 28) < 2 ^ 64 :=
  ⟨by decide +kernel, rfl, rfl, rfl, und _ rfl rfl (by decide +kernel) (by decide +kernel) (by decide +kernel), by decide +kernel, by decide +kernel,
   rfl, rfl, by decide +kernel, by decide +kernel, rfl, rfl, rfl,
   und _ rfl rfl (by decide +kernel) (by decide +kernel) (by decide +kernel), by decide +kernel⟩

theorem wit_AFullRingHoldsReleases :
    let s : State := setF (one sk) (rCrhead 0 0) 0 32 (2 ^ regF r0 (rCrcfg 0 0) 0 5)
    let e : State := { s with episodes := [epKey 0 0 0] }
    s.Canonical ∧ findFrond s (ref0 0) = some sk ∧ sk.unspec = false ∧ s.maint.running = [] ∧ s.maint.queued = [] ∧ quiet sk = false ∧
      ringBlocked s 0 0 = true ∧ opcodeOf sk / 256 ≠ 0xD ∧ smem e.episodes (epKey 0 0 0) = true ∧ smem s.episodes (epKey 0 0 0) = false ∧
      heldBefore { s with fronds := [sk, { sk with idx := 1, held := true }] } sk = true :=
  ⟨canon (by decide +kernel), by decide +kernel⟩

theorem wit_TheRecordCarriesTheFirstStatus : ∀ x, ({ sk with skip := some .notAccepted } : Frond).skip = some x → place x ≤ 4 := by
  rintro x ⟨⟩; decide

theorem wit_TheCompletionRecord :
    let f : Frond := { sk with queue := 3, region := 7, group := 15, prom := 2 ^ 64 - 1, aflags := 65535 }
    f.queue < 4 ∧ f.region < 8 ∧ f.group < 16 ∧ f.prom < 2 ^ 64 ∧ (∀ w ∈ f.wake, w < 2 ^ 64) ∧ (progressOf f).1 < 2 ^ 16 ∧
      (progressOf f).2 < 2 ^ 16 ∧ missCause f < 16 ∧ f.aflags < 2 ^ 16 := by decide +kernel

theorem wit_FailuresPoisonDestinations :
    let x : Frond := { cp with dests := [3], skip := some .fault, pairs := [(0, 0x6000000000), (0, 0), (0, 0), (0x8000000000, 0x2000000)],
                               words := words [(0, 0xC0000110), (8, 0), (9, 0x900), (11, 0x10007), (44, 0), (45, 0x900), (47, 0x10007)] }
    let s := one x
    let o := (slotOf x 3).offset (destPos x 3 0 7) + 0
    let a := ((slotOf x 3).wbase + o.toNat) % 2 ^ 40
    s.Canonical ∧ x.dests = [3] ∧ x.dctds = [] ∧ x.scratch = [] ∧ x.dtiles = [] ∧ (slotOf x 3).empty = false ∧ (slotOf x 3).circ = false ∧
      repeatOf x = 0 ∧ (finalStatus x).poisons = true ∧ 7 < destElems x 3 ∧ 0 ≤ o ∧ o < (slotOf x 3).bound ∧
      (memKey s (resolve s a)).isSome = true ∧ resolve s a = .mat 0 14 ∧
      finalStatus { x with skip := none, abort := true } = .aborted ∧ (finalStatus { x with skip := none }).good = true ∧
      x.wroteLines = [] ∧ x.wroteGrans = [] ∧ x.poisoned = false :=
  ⟨canon (by decide +kernel), by decide +kernel⟩

/-! Parked accesses -/

/-- A frond parked on a line, for a write or a read, of a handoff or a circular region. -/
def pk (w : Bool) (c : Option Nat) (l : Nat) : Frond := { wk 0 [(0, 0x110)] with parked := some ⟨0, l, w, c, 5⟩ }
theorem wit_HandoffLinesAreGranted :
    let f : Frond := pk true none 524287
    let g : Frond := pk false none 524287
    (one f).Canonical ∧ findFrond (one f) (ref0 0) = some f ∧ f.parked = some ⟨0, 524287, true, none, 5⟩ ∧ f.phase = .working ∧ f.held = false ∧
      f.pend = 0 ∧ smem (one f).full 524287 = false ∧
      (let s := { one g with full := [524287] }
       s.Canonical ∧ findFrond s (ref0 0) = some g ∧ g.parked = some ⟨0, 524287, false, none, 5⟩ ∧ smem s.full 524287 = true ∧ s.upsets = [] ∧
       resolve s (lineAddr 524287) = .mat 0 33554368 ∧ resolve s (lineAddr 524287 + 32) = .mat 0 33554400 ∧
       pclass s 0 33554368 ≠ 2 ∧ pclass s 0 33554400 ≠ 2) ∧ ¬((sk).phase = .working) ∧ smem (one g).full 524287 = false :=
  ⟨canon (by decide +kernel), by decide +kernel, rfl, rfl, rfl, rfl, by decide +kernel,
   ⟨canon (by decide +kernel), by decide +kernel, rfl, by decide +kernel⟩, by decide +kernel⟩

/-- One page of circular region 3, one line of it used. -/
def ci (h t : Nat) (f : Frond) : State :=
  setF (setF (setReg (one f) (rCircCfg 0 3) (BitVec.ofNat 64 (1 + 2 ^ 32))) (rCircHead 0 3) 0 32 h) (rCircTail 0 3) 0 32 t
theorem wit_CircularLinesAreGranted :
    let f : Frond := pk true (some 3) 0
    let g : Frond := pk false (some 3) 0
    (ci 0 64 f).Canonical ∧ findFrond (ci 0 64 f) (ref0 0) = some f ∧ f.parked = some ⟨0, 0, true, some 3, 5⟩ ∧ f.region < 8 ∧
      f.phase = .working ∧ f.held = false ∧ f.pend = 0 ∧
      countGap (regF (ci 0 64 f) (rCircHead 0 3) 0 32) (regF (ci 0 64 f) (rCircTail 0 3) 0 32) = fld (reg (ci 0 64 f) (rCircCfg 0 3)) 32 14 * 64 ∧
      countGap (regF (ci 1 64 f) (rCircHead 0 3) 0 32) (regF (ci 1 64 f) (rCircTail 0 3) 0 32) ≠ fld (reg (ci 1 64 f) (rCircCfg 0 3)) 32 14 * 64 ∧
      findFrond (ci 63 64 g) (ref0 0) = some g ∧ regF (ci 64 64 g) (rCircHead 0 3) 0 32 = regF (ci 64 64 g) (rCircTail 0 3) 0 32 ∧
      regF (ci 63 64 g) (rCircHead 0 3) 0 32 ≠ regF (ci 63 64 g) (rCircTail 0 3) 0 32 ∧ (ci 63 64 g).upsets = [] ∧
      pclass (ci 63 64 g) 0 (63 * 64) ≠ 2 ∧ 0 + 63 % 64 < (0 + 1) * 524288 ∧ pk true none 0 ≠ f :=
  ⟨canon (by decide +kernel), by decide +kernel⟩

theorem wit_ASuspendedRowIsDiscarded :
    let f : Frond := { wk 0 [(0, 0x332)] with held := true, tiles := [2047], unit := 255, ended := 7 }
    (one f).Canonical ∧ findFrond r0 (ref0 0) = none ∧ findFrond (one f) (ref0 0) = some f ∧ (wk 0 [(0, 0x332)]).held = false ∧ f.held = true ∧
      f.phase = .working ∧ (opcodeOf f = 0x331 ∨ opcodeOf f = 0x332) ∧ f.pend ≠ 1 ∧ f.tiles = [2047] ∧ f.ended + 4096 < 2 ^ 64 ∧ f.unit < 256 :=
  ⟨canon (by decide +kernel), by decide +kernel⟩

/-! What the engines do -/

/-- A unit of the frond can be run, waits for nothing and fails no check. -/
def goesOn (s : State) (op : Nat) (unit : Run → Run) (x : Frond) : Bool :=
  let r := unitRun unit s x
  canRun s x op && !r.blocked && r.stop.isNone &&
    (r.st.fronds.find? (fun y => y.is x.region x.queue x.idx)).any (fun g => g.phase == .working && !g.abort) &&
    (r.fr.region, r.fr.queue, r.fr.idx) == (x.region, x.queue, x.idx)

/-- A frond of the opcode at its first unit, which its checks have passed. -/
def atFirst (op : Nat) : Frond := { wk 0 [(0, op)] with tested := true, units := 2, buf := List.replicate 16 0 }
/-- One at its second unit, which its checks have passed and whose descriptors are read. -/
def atSecond (op : Nat) : Frond := { wk 0 [(0, op)] with tested := true, unit := 1, units := 2, buf := List.replicate 16 0 }
/-- A module alone in its group 0, with a seeded generator. -/
def grouped (x : Frond) : State :=
  { setReg (setReg (one x) (rGroupA 0) 0x10000) (rGroupB 0) 0x4421 with
    rng := { r0.rng with inst := List.replicate 9 ⟨List.replicate 32 7, 0, 0, true⟩ } }
def firstGoes (row : Nat × (Run → Run)) : Bool := goesOn (grouped (atFirst row.1)) row.1 row.2 (atFirst row.1)
def secondGoes (row : Nat × (Run → Run)) : Bool := goesOn (grouped (atSecond row.1)) row.1 row.2 (atSecond row.1)
theorem wit_ControlAndCopyFrondsWork : ∀ row ∈ ([(0x000, id), (0x001, id), (0x002, id), (0x003, id), (0x100, copyUnit), (0x101, fillUnit),
    (0x102, copyUnit), (0x110, copyUnit), (0x111, copyUnit), (0x112, transposeUnit), (0x113, permuteUnit)] : List (Nat × (Run → Run))),
    firstGoes row = true ∧ 1 * stopSpan (atFirst row.1) = (atFirst row.1).unit % stopSpan (atFirst row.1) + 1 := by decide +kernel

theorem wit_VectorFrondsWork : ∀ row ∈ ([(0x300, ewUnit), (0x301, ewUnit), (0x302, ewUnit), (0x303, ewUnit), (0x304, ewUnit), (0x305, ewUnit),
    (0x306, ewUnit), (0x307, ewUnit), (0x308, ewUnit), (0x309, ewUnit), (0x30A, ewUnit), (0x30B, ewUnit), (0x30C, ewUnit), (0x30D, ewUnit),
    (0x310, ewUnit), (0x311, ewUnit), (0x312, ewUnit), (0x320, laneUnit), (0x321, broadcastUnit), (0x400, reduceUnit), (0x401, reduceUnit),
    (0x402, reduceUnit), (0x403, reduceUnit), (0x404, segUnit momentsSeg), (0x410, segUnit layerSeg), (0x411, segUnit rmsSeg),
    (0x500, funcUnit), (0x510, segUnit stepRow), (0x511, segUnit correctRow)] : List (Nat × (Run → Run))),
    firstGoes row = true ∧ 1 * stopSpan (atFirst row.1) = (atFirst row.1).unit % stopSpan (atFirst row.1) + 1 := by decide +kernel

theorem wit_MatrixTileAndConversionFrondsWork : (∀ row ∈ ([(0x200, matUnit), (0x201, matUnit), (0x202, matUnit), (0x210, matUnit),
    (0x330, shapeUnit), (0x331, rowUnit loadElem), (0x332, rowUnit storeElem), (0x333, saveUnit), (0x600, convUnit), (0x601, convUnit),
    (0x602, convUnit), (0x700, gatherUnit), (0x701, scatterUnit), (0x702, scatterAddUnit)] : List (Nat × (Run → Run))),
    firstGoes row = true ∧ 1 * stopSpan (atFirst row.1) = (atFirst row.1).unit % stopSpan (atFirst row.1) + 1) ∧
    ∀ row ∈ ([(0x211, polyUnit), (0x334, restoreUnit)] : List (Nat × (Run → Run))),
      secondGoes row = true ∧ 1 * stopSpan (atSecond row.1) = (atSecond row.1).unit % stopSpan (atSecond row.1) + 1 := by decide +kernel

/-- Two units of 1,024 residues each. -/
theorem wit_FixFrondsWork : secondGoes (0x610, fixUnit) = true ∧ stopSpan (atSecond 0x610) = 1 ∧ stopSpan (atSecond 0x611) = 1 := by
  decide +kernel

theorem wit_ResToFixWorks : secondGoes (0x611, fixUnit) = true := by decide +kernel

theorem wit_PolynomialAndSchemeFrondsWork : ∀ row ∈ ([(0x800, polyUnit), (0x801, polyUnit), (0x810, polyUnit), (0x811, polyUnit),
    (0x812, polyUnit), (0x813, polyUnit), (0x814, polyUnit), (0x820, polyUnit), (0x821, polyUnit), (0x822, polyUnit), (0x823, polyUnit),
    (0x830, polyUnit), (0x900, kUnit), (0x901, kUnit), (0x902, kUnit), (0x903, kUnit), (0x904, kUnit), (0x905, kUnit), (0x910, kUnit),
    (0xA00, xUnit), (0xA01, xUnit), (0xA02, xUnit), (0xA03, xUnit), (0xA04, xUnit), (0xA05, xUnit)] : List (Nat × (Run → Run))),
    secondGoes row = true ∧ 1 * stopSpan (atSecond row.1) = (atSecond row.1).unit % stopSpan (atSecond row.1) + 1 := by decide +kernel

theorem wit_ShareAndCollectiveFrondsWork : (∀ row ∈ ([(0xB00, shareUnit splitElem), (0xB01, shareUnit beaverElem), (0xB02, openUnit),
    (0xB10, shareUnit randElem), (0xB11, shareUnit randElem), (0xB12, shareUnit floodElem), (0xB13, shareUnit randElem),
    (0xC10, ringUnit), (0xC11, ringUnit), (0xC12, ringUnit), (0xC13, bcastUnit), (0xC20, teeArmUnit)] : List (Nat × (Run → Run))),
    firstGoes row = true ∧ 1 * stopSpan (atFirst row.1) = (atFirst row.1).unit % stopSpan (atFirst row.1) + 1) ∧
    ∀ row ∈ ([(0xC00, sendUnit), (0xC01, recvUnit)] : List (Nat × (Run → Run))),
      secondGoes row = true ∧ 1 * stopSpan (atSecond row.1) = (atSecond row.1).unit % stopSpan (atSecond row.1) + 1 := by decide +kernel

theorem wit_ProtectionAndServiceFrondsWork : (∀ row ∈ ([(0xD01, epochUnit), (0xD02, fillUnitOut), (0xD03, boundaryUnit), (0xE00, testUnit []),
    (0xE01, scrubUnit), (0xE02, markUnit)] : List (Nat × (Run → Run))),
    firstGoes row = true ∧ 1 * stopSpan (atFirst row.1) = (atFirst row.1).unit % stopSpan (atFirst row.1) + 1) ∧
    (parF (fr 0 [(56, 1)]) 0 0 2 == 1) = true ∧ (parF (fr 0 []) 0 0 2 == 0) = true := by decide +kernel

theorem wit_LogMarkLogsItsMark : let x := wk 0 [(0, 0xE02), (57, 1)]
    findFrond (one x) (ref0 0) = some x ∧ opcodeOf x = 0xE02 ∧ canRun (one x) x 0xE02 = true ∧ x.units = 1 ∧ x.unit = 0 ∧ x.group = 0 ∧
      x.abort = false ∧ x.lines = [] ∧ (specOf (one x) x).isSome = true := by decide +kernel

/-- A BARRIER of scope 0 on regions 0 and 7, or of scope 1, at work. -/
def br (r : Nat) (w : Nat) (l : List Nat) : Frond := { wk 0 [(0, 0x004), (58, w), (59, 0x81)] with region := r, work := l }
theorem wit_BarriersArrive :
    let x := br 0 0 []
    let here : Arrival := ⟨false, localKey x, 7, 8, false, 3, 0⟩
    let s : State := { lk with fronds := [x, br 7 0 [1]], links := { r0.links with arrivals := [here] } }
    let y := br 0 1 []
    let g := grouped y
    r0.Canonical ∧ findFrond r0 (ref0 0) = none ∧ (one x).Canonical ∧ findFrond (one x) (ref0 0) = some x ∧ canRun (one x) x 0x004 = true ∧
      x.work = [] ∧ nbit (par x 2) 0 = false ∧
      (List.range 8).all (fun k => !nbit (par x 3) k || k == x.region || (one x).links.arrivals.any (fun a => !a.scope1 && a.group == localKey x && a.rank == k)) = false ∧
      s.Canonical ∧ findFrond s (ref0 0) = some x ∧ canRun s x 0x004 = true ∧
      (List.range 8).all (fun k => !nbit (par x 3) k || k == x.region || s.links.arrivals.any (fun a => !a.scope1 && a.group == localKey x && a.rank == k)) = true ∧
      nbit (par x 3) x.region = true ∧ x.wake = none ∧
      (∀ z ∈ s.fronds, localBarrier z x.region (localKey x) = true → z.is x.region x.queue x.idx = true) ∧ nbit (par x 3) 7 = true ∧
      s.fronds.find? (fun z => localBarrier z 7 (localKey x)) = some (br 7 0 [1]) ∧
      g.Canonical ∧ findFrond g (ref0 0) = some y ∧ canRun g y 0x004 = true ∧ y.work = [] ∧ y.wake = none ∧ nbit (par y 2) 0 = true ∧
      groupIdx g (parF y 0 0 16) = some 0 ∧ groupSize g 0 = 1 ∧ answersTo g (memberOf g 0 0) = true ∧ rankOf g 0 (identOf g y) = some 0 ∧
      standinFor g = none ∧ standinRuns g = false ∧ canRun (one { x with parked := some ⟨0, 0, true, none, 0⟩ }) { x with parked := some ⟨0, 0, true, none, 0⟩ } 0x004 = false :=
  ⟨canon (by decide +kernel), by decide +kernel, canon (by decide +kernel), by decide +kernel, by decide +kernel, by decide +kernel,
   by decide +kernel, by decide +kernel, canon (by decide +kernel), by decide +kernel, by decide +kernel, by decide +kernel, by decide +kernel,
   by decide +kernel, by decide +kernel, by decide +kernel, by decide +kernel, canon (by decide +kernel), by decide +kernel⟩

theorem wit_TeeApplyAndCommitWork :
    let x : Frond := { wk 0 [(0, 0xD00)] with sent := 1 }
    let c (l : List Nat) : Frond := { wk 0 [(0, 0xD03)] with work := l, wake := some 9 }
    let s (d : List Nat) : State := { one (c [1]) with fail := { r0.fail with drops := d } }
    (one x).Canonical ∧ findFrond r0 (ref0 0) = none ∧ findFrond (one x) (ref0 0) = some x ∧ canRun (one x) x 0xD00 = true ∧ x.sent ≠ 0 ∧
      x.unit = 0 ∧ x.units = 1 ∧ x.abort = false ∧ (one x).links.ghosts = [] ∧ (one x).links.early = [] ∧ x.wake.isSome = false ∧
      (one x).fail.commitStep ≠ some (reg (one x) rFailStep).toNat ∧ (∃ y : Frond, landed y = 2 ^ landSize y - 1 ∧ y.wake = none) ∧
      canRun r0 x 0xD00 = true ∧ canRun r0 x 0xD03 = false ∧
      (s []).Canonical ∧ findFrond (s []) (ref0 0) = some (c [1]) ∧ canRun (s []) (c [1]) 0xD03 = true ∧ parF (c [1]) 0 0 2 = 0 ∧
      (s []).fail.lost = false ∧ (c [1]).wake.isSome = true ∧ (s []).fail.rollback = false ∧ (c [1]).work = [1] ∧ (s []).fail.drops = [] ∧
      (s [5]).fail.drops ≠ [] ∧ findFrond (one (c [3])) (ref0 0) = some (c [3]) ∧ canRun (one (c [3])) (c [3]) 0xD03 = true ∧
      (one (c [3])).fail.redo = [] ∧ failState (one (c [3])) ≠ 7 ∧ (slotOf (c [3]) 3).empty = true ∧ (c [3]).unit = 0 ∧ (c [3]).units = 1 :=
  ⟨canon (by decide +kernel), by decide +kernel, by decide +kernel, by decide +kernel, by decide +kernel, by decide +kernel, by decide +kernel,
   by decide +kernel, by decide +kernel, by decide +kernel, by decide +kernel, by decide +kernel, ⟨{ wk 0 [(0, 0xD00)] with work := [1] }, by decide +kernel⟩,
   by decide +kernel, by decide +kernel, canon (by decide +kernel), by decide +kernel⟩

theorem wit_ControlFrondsDoNothing : ∀ o ∈ [0, 1, 2, 3], let x := wk 0 [(0, o)]
    findFrond (one x) (ref0 0) = some x ∧ x.lines = [] ∧ x.grants = [] ∧ x.sent = 0 ∧ x.units = 1 ∧ x.unit = 0 ∧ repeatOf x = x.rep ∧
      x.group = 0 ∧ canRun (one x) x o = true ∧ x.abort = false := by decide +kernel

theorem wit_BoundariesAdvanceTheStep : let x := wk 0 [(0, 0xD03), (56, 1)]
    (one x).Canonical ∧ findFrond (one x) (ref0 0) = some x ∧ canRun (one x) x 0xD03 = true ∧ parF x 0 0 2 = 1 ∧ x.units = 1 ∧ x.unit = 0 ∧
      x.group = 0 ∧ x.abort = false ∧ (slotOf x 3).empty = true ∧ partnerOf (one x) = none ∧ standinFor (one x) = none ∧
      (one x).fail.handover = none ∧ (one x).fail.reseed = false :=
  ⟨canon (by decide +kernel), by decide +kernel⟩

/-- Two INT32 elements, from tower 0 to the region's mat. -/
def two (op : Nat) (l : List (Nat × Nat)) : Frond :=
  { wk 0 ([(0, 0xC0000000 + op), (8, 0), (9, 0x800), (11, 0x10001), (44, 0), (45, 0x800), (47, 0x10001)] ++ l) with
    pairs := [(0, 0x6000000000), (0, 0), (0, 0), (0x8000000000, 0x2000000)], tested := true }

theorem pair {P : Nat → Prop} (h0 : P 0) (h1 : P 1) : ∀ e, 0 ≤ e → e < 0 + 2 → P e := by
  intro e _ h; obtain rfl | rfl : e = 0 ∨ e = 1 := by omega
  exacts [h0, h1]

theorem openTower {s : State} {x : Frond} {a : Nat} (h : ∃ k, resolve s a = .hbm k ∧ coldHeld s k = false) : Open s x a := Or.inl h
theorem openMat {s : State} {x : Frond} {a : Nat} (o : Nat) (h : resolve s a = .mat 0 o) (h1 : inHandoff s 0 o = false)
    (h2 : pclass s 0 o ≠ 2) : Open s x a := Or.inr ⟨0, o, h, fun _ => h1, h2⟩

/-- Its elements can be copied straight through. -/
theorem straightTwo {x : Frond} (l : List Nat) (src : Nat → Nat) (hl : ∀ i ∈ l, i = 0)
    (hf : (slotOf x 0).circ = false ∧ (slotOf x 0).fmt = 8 ∧ (slotOf x 3).circ = false ∧ (slotOf x 3).fmt = 8)
    (hx : x.lines = [] ∧ x.grants = [] ∧ x.pre = [] ∧ x.abort = false)
    (h0 : src 0 = 0 ∧ src 1 = 1)
    (a0 : elemAddr x (slotOf x 0) 0 = 0) (a1 : elemAddr x (slotOf x 0) 1 = 4)
    (d0 : elemAddr x (slotOf x 3) 0 = 0x8000000000) (d1 : elemAddr x (slotOf x 3) 1 = 0x8000000004) : Straight (one x) x l src 0 2 := by
  have rs : ∀ a, resolve (one x) a = resolve lk a := fun _ => rfl
  have k0 : ∀ j < 4, byteKey (one x) j = some j := by
    exact (show ∀ j < 4, byteKey lk j = some j by decide +kernel)
  have k4 : ∀ j < 4, byteKey (one x) (4 + j) = some (4 + j) := by
    exact (show ∀ j < 4, byteKey lk (4 + j) = some (4 + j) by decide +kernel)
  have m0 : ∀ j < 8, byteKey (one x) (0x8000000000 + j) = some (0x8000000000 + j) := by
    exact (show ∀ j < 8, byteKey lk (0x8000000000 + j) = some (0x8000000000 + j) by decide +kernel)
  have m4 : ∀ j < 4, byteKey (one x) (0x8000000004 + j) = some (0x8000000004 + j) := by
    intro j hj; have := m0 (4 + j) (by omega); rw [show 0x8000000004 + j = 0x8000000000 + (4 + j) by omega]; exact this
  have u : fmtUnit 8 = 4 := rfl
  have own : ∀ o, o = 0 ∨ o = 4 → resolve (one x) (0x8000000000 + o) = .mat 0 o ∧ inHandoff (one x) 0 o = false ∧ pclass (one x) 0 o ≠ 2 := by
    rintro o (rfl | rfl)
    · exact (show resolve lk 0x8000000000 = .mat 0 0 ∧ inHandoff lk 0 0 = false ∧ pclass lk 0 0 ≠ 2 by decide +kernel)
    · exact (show resolve lk 0x8000000004 = .mat 0 4 ∧ inHandoff lk 0 4 = false ∧ pclass lk 0 4 ≠ 2 by decide +kernel)
  have low : ∀ a, a = 0 ∨ a = 4 → ∃ k, resolve (one x) a = .hbm k ∧ coldHeld (one x) k = false := by
    rintro a (rfl | rfl)
    · exact ⟨0, (show resolve lk 0 = .hbm 0 ∧ coldHeld lk 0 = false by decide +kernel)⟩
    · exact ⟨4, (show resolve lk 4 = .hbm 4 ∧ coldHeld lk 4 = false by decide +kernel)⟩
  refine ⟨rfl, hx, ?_, ⟨hf.2.2.1, by rw [hf.2.2.2]; rfl⟩, ?_, ?_, ?_, ?_⟩
  · intro i hi; rw [hl i hi, hf.1, hf.2.1]; exact ⟨rfl, by decide⟩
  · intro i hi; rw [hl i hi]
    refine pair ?_ ?_
    · rw [h0.1, a0]; exact openTower (low 0 (.inl rfl))
    · rw [h0.2, a1]; exact openTower (low 4 (.inr rfl))
  · refine pair ?_ ?_
    · rw [d0]; obtain ⟨r, h, p⟩ := own 0 (.inl rfl)
      exact ⟨openMat 0 r h p, fun j hj => by rw [hf.2.2.2, u] at hj; rw [m0 j (by omega)]; rfl⟩
    · rw [d1]; obtain ⟨r, h, p⟩ := own 4 (.inr rfl)
      exact ⟨openMat 4 r h p, fun j hj => by rw [hf.2.2.2, u] at hj; rw [m4 j hj]; rfl⟩
  · intro e e' _ he _ he' hne j hj j' hj'
    rw [hf.2.2.2, u] at hj hj'
    have : (e = 0 ∧ e' = 1) ∨ (e = 1 ∧ e' = 0) := by omega
    rcases this with ⟨rfl, rfl⟩ | ⟨rfl, rfl⟩
    · rw [d0, d1, m0 j (by omega), m4 j' hj']; simp; omega
    · rw [d0, d1, m0 j' (by omega), m4 j hj]; simp; omega
  · intro i hi e e' _ hlt he' j hj j' hj'
    rw [hl i hi] at hj' ⊢
    rw [hf.2.2.2, u] at hj; rw [hf.2.1, u] at hj'
    obtain rfl : e = 0 := by omega
    obtain rfl : e' = 1 := by omega
    rw [h0.2, d0, a1, m0 j (by omega), k4 j' hj']; simp; omega

theorem wit_CopiesMoveTheirElements :
    (∀ o ∈ [0x100, 0x102, 0x110, 0x111, 0x113], let x := two o [(56, 0x2C688)]
      (one x).Canonical ∧ findFrond (one x) (ref0 0) = some x ∧ 1 * stopSpan x = x.unit % stopSpan x + 1 ∧ canRun (one x) x o = true ∧
      (slotOf x 0).fmt = (slotOf x 3).fmt ∧ min (unitElems (slotOf x 3).fmt) ((slotOf x 3).elems - 0) = 2 ∧
      Straight (one x) x [0] (if o = 0x113 then permSource x else fun e => e) 0 2) ∧
    (let x := two 0x101 [(56, 7)]
     (one x).Canonical ∧ findFrond (one x) (ref0 0) = some x ∧ canRun (one x) x 0x101 = true ∧ Straight (one x) x [] id 0 2) := by
  refine ⟨?_, canon (by decide +kernel), by decide +kernel, by decide +kernel,
    straightTwo [] id (by simp) (by decide +kernel) (by decide +kernel) ⟨rfl, rfl⟩ (by decide +kernel) (by decide +kernel)
      (by decide +kernel) (by decide +kernel)⟩
  intro o ho
  fin_cases ho <;>
    exact ⟨canon (by decide +kernel), by decide +kernel, by decide +kernel, by decide +kernel, by decide +kernel, by decide +kernel,
      straightTwo [0] _ (by simp) (by decide +kernel) (by decide +kernel) (by decide +kernel) (by decide +kernel) (by decide +kernel)
        (by decide +kernel) (by decide +kernel)⟩

/-- ADD of two INT32 elements and 1; operands: A slot 0, B immediate, destination slot 3; under a mask from an immediate C. -/
def addTwo (o : Nat) : Frond := two o [(57, 0x4000C040), (59, 1)]
theorem wit_ElementWiseFrondsCompute :
    ∀ o ∈ [0x300, 0x301, 0x302, 0x303, 0x304, 0x305, 0x306, 0x307, 0x308, 0x309, 0x30B, 0x30C, 0x30D], let x := addTwo o
      (one x).Canonical ∧ findFrond (one x) (ref0 0) = some x ∧ 1 * stopSpan x = x.unit % stopSpan x + 1 ∧ canRun (one x) x o = true ∧
      opndOf x 3 = .slot 3 ∧ (∀ k ∈ x.tiles, regB (one x) (rTileStatOf k) 8 = false) ∧ x.tested = true ∧
      min 1024 ((slotOf x 3).elems - 0) = 2 ∧ (opFmt x (some (shapesNow (one x))) 0).getD 0 ≠ 0x10 ∧
      Straight (one x) x (sourceSlots x) id 0 2 := by
  intro o ho
  fin_cases ho <;>
    exact ⟨canon (by decide +kernel), by decide +kernel, by decide +kernel, by decide +kernel, by decide +kernel, by decide +kernel, rfl,
      by decide +kernel, by decide +kernel,
      straightTwo _ id (by decide +kernel) (by decide +kernel) (by decide +kernel) ⟨rfl, rfl⟩ (by decide +kernel) (by decide +kernel)
        (by decide +kernel) (by decide +kernel)⟩

theorem wit_ElementValues : [8, 9, 0xA, 0xB].contains 0xB = true ∧ opcodeOf (fr 0 [(0, 0x30D)]) = 0x30D ∧
    vFunc (fr 0 [(0, 0x30D)]) = 0 ∧ (255 : Nat) < 2 ^ fmtBits 0xB ∧ (0xFFFFFFFFA : Nat) < 0xFFFFFFFFB ∧ 0xFFFFFFFFB ≤ 2 ^ 36 := by
  decide +kernel

theorem wit_LanePermutationsPermute : (∃ k, 1 ≤ k ∧ (2 : Nat) = 2 ^ k) ∧ 1 < 2 := ⟨⟨1, by decide⟩, by decide⟩

theorem wit_FloatsKeepTheirBits : [1, 2, 3, 4, 5].contains 1 = true ∧ (⟨true, 0, true⟩ : Arith).strict = true ∧ 65535 < 2 ^ 16 ∧
    0x7F7FFFFF < 2 ^ fmtBits 1 ∧ (readFloat 1 true 0x7F7FFFFF).1 ≠ .nan ∧ (∀ neg, (readFloat 1 true 0x7F7FFFFF).1 ≠ .inf neg) ∧
    (⟨true, 0, false⟩ : Arith).sat = false ∧ (readFloat 1 true 0x7F800000).1 ≠ .nan := by decide +kernel

/-! ### Results that the manual gives -/

/-- The example after R34: RGN5.VB2's CELLMAP, and RGN1.VB2.TILE_STAT17 of R146. -/
theorem test_register_addresses : absReg (rVb 5 2 0xF8) = 0x9001B200F8 ∧ absReg (rTileStat 1 2 17) = 0x9001320488 := by decide +kernel
/-- The same example: a byte of region 5's mat. -/
theorem test_mat_address : resolve r0 0x800A123440 = .mat 5 0x123440 := by decide +kernel
/-- The example after R165: the tower of an interleaved address. -/
theorem test_tower_of_address : towerOf (setF r0 rMemcfg 0 6 16) 0x12345000 = (1, 0x2468000) := by decide +kernel
/-- The examples after R31 and R165 with L = 16: tower 3's local part and its alias window. -/
theorem test_local_window :
    let s := setF r0 rMemcfg 0 6 16
    resolve s 0xD800001000 = .hbm 0x4C00001000 ∧ resolve s 0xDC00000000 = .unmapped ∧ towerOf s 0x4C00001000 = (3, 0x800001000) := by
  decide +kernel
/-- The example after R168: the check of a RES36 sector, and a flipped bit. -/
theorem test_sector_check :
    let v := 1 + 0x100000000 * 2 ^ 36 + 0x123456789 * 2 ^ 72
    withCheck v = v + 3 * 2 ^ 252 ∧ sectorOk (v + 3 * 2 ^ 252) = true ∧ sectorOk (v + 3 * 2 ^ 252 - 2 ^ 72) = false := by decide +kernel
/-- The example after R124: CONVERT of FP32 to FP8-E4M3 with SAT, in strict mode with RNE. -/
theorem test_convert_strict :
    let c (b : Nat) := convert 1 4 ⟨true, 0, true⟩ 0 0 b 0
    ((c 0x43960000).1, (c 0x43FA0000).1, (c 0x3A83126F).1, (c 0x7FC00000).1) = (0x79, 0x7E, 0x01, 0x7F) ∧
    ((c 0x43960000).2 ||| (c 0x43FA0000).2 ||| (c 0x3A83126F).2 ||| (c 0x7FC00000).2) = 0x458 := by decide +kernel
/-- The same elements in fast mode, and the first under SR with its two draws. -/
theorem test_convert_fast_and_sr :
    let c (b : Nat) := convert 1 4 ⟨false, 0, true⟩ 0 0 b 0
    ((c 0x43960000).1, (c 0x43FA0000).1, (c 0x3A83126F).1, (c 0x7FC00000).1) = (0x79, 0x7E, 0, 0x7F) ∧
    ((c 0x43960000).2 ||| (c 0x43FA0000).2 ||| (c 0x3A83126F).2 ||| (c 0x7FC00000).2) = 0x460 ∧
    (convert 1 4 ⟨true, 4, true⟩ 0 0 0x43960000 0xB2C4).1 = 0x7A ∧ (convert 1 4 ⟨true, 4, true⟩ 0 0 0x43960000 0x3A00).1 = 0x79 := by
  decide +kernel
/-- The examples after R208 and R210: an element of a T16x16 array of 64 × 96 with G = 2, and a clamped one. -/
theorem test_blocked_layout : blockedIndex 16 16 2 6 37 50 = 4434 ∧ blockedIndex 16 16 2 6 0 95 = 2319 := by decide +kernel
/-- The examples after R127: pitches of tile shapes (BF16 is format 2, INT4 0xC, RES36 0x10). -/
theorem test_tile_pitch : pitchOf 80 2 = 160 ∧ pitchOf 100 2 = 224 ∧ pitchOf 1024 0x10 = 8192 ∧ pitchOf 64 0xC = 32 := by decide +kernel
/-- The example after R341: RSUM of five FP32 values in its tree order. -/
theorem test_rsum : (reduceSeg (fr 0 [(0, 0x400), (56, 0)]) 1 0 0 [0x4B800000, 0x3F800000, 0x3F800000, 0xCB800000, 0x3F800000]).1 = 0x40000000 := by
  decide +kernel
/-- The example after R88: 262,144 progress units give G = 3. -/
theorem test_unit_groups : unitShift 262144 16 = 3 := by decide +kernel
/-- ADD of an immediate 1 to two INT32 elements, −1 and 5 (R327, R332). -/
def adding : State := putBytes (one (addTwo 0x300)) 0 [0xFF, 0xFF, 0xFF, 0xFF, 5, 0, 0, 0]
theorem test_add : natAt (run (.add (ref0 0) 1) adding) 0x8000000000 8 = 0x600000000 := by decide +kernel
/-- COPY of the same elements (R211). -/
def copying : State := putBytes (one (two 0x110 [])) 0 [0xFF, 0xFF, 0xFF, 0xFF, 5, 0, 0, 0]
theorem test_copy : natAt (run (.copy (ref0 0) 1) copying) 0x8000000000 8 = 0x5FFFFFFFF := by decide +kernel
/-- Nothing else of memory is written. -/
theorem test_copy_writes_no_more : byteAt (run (.copy (ref0 0) 1) copying) 0x8000000008 = 0 ∧ natAt (run (.copy (ref0 0) 1) copying) 0 8 = 0x5FFFFFFFF := by
  decide +kernel
/-- An empty queue is one counter beat. -/
theorem test_idle_beat : (match step r0 with | .next t => beat t | _ => 0) = beat r0 + 1 := by decide +kernel
/-- A command at the front of the queue is taken. -/
theorem test_step_takes_front : (match step { r0 with pending := [.gemmaClaim, .gemmaFillDone] } with
    | .next t => t.pending | _ => []) = [.gemmaFillDone] := by decide +kernel
/-- QTAIL of a region's queue keeps the word written to it (R74). -/
theorem test_qtail : regF (run (.qtailWrite .mgmt 7 3 5) rd) (rQtail 7 3) 0 32 = 5 := by decide +kernel
/-- The decoded frond has its ring slot's words (R76). -/
theorem test_decode : ((run (.frondDecode 7) (putBytes (qd 0) 0 [2, 0, 0, 0, 9])).fronds.map (fun f => (opcodeOf f, seqnoOf f, f.phase))) =
    [(2, 9, .decoded)] := by decide +kernel
/-- A wait takes from its counter at acceptance and a signal adds at release: two of 5 leave 3 (R78). -/
theorem test_wait : regF (consumeWaits (setF r0 (rTok 0 255) 0 16 5) (fr 0 [(2, tw)])) (rTok 0 255) 0 16 = 3 := by decide +kernel
theorem test_signal : regF (applySignals r0 (fr 0 [(4, tw)])) (rTok 0 255) 0 16 = 2 := by decide +kernel
/-- A skipped frond is released on the fourth work beat after its acceptance, and QHEAD passes it (R90). -/
theorem test_skipped_release :
    let t := run (.skippedFrondRelease (ref0 0)) (one sk)
    t.fronds = [] ∧ regF t (rQhead 0 0) 0 32 = 1 ∧ beat t = workAfter r0 0 4 := by decide +kernel
/-- THERMTRIP_N and the log survive RESET_N; the mats do not (R162, R437). -/
theorem test_reset_clears_mats :
    let s : State := { putBytes lk 0x8000000000 [7] with pins := { r0.pins with pwrgood := true, resetN := true } }
    byteAt s 0x8000000000 = 7 ∧ byteAt (run .resetNFall s) 0x8000000000 = 0 := by decide +kernel
/-- Start-up is held by TEST_EN at BOOT step 1 (R493). -/
theorem test_test_en : regF (run (.powerGoodRise { env with testEn := true }) { r0 with pins := { r0.pins with pwrgood := false, resetN := true } })
    rStrap 0 4 = 9 := by decide +kernel
end Sys2Proof.Tests
end

section
/-! SUPPORT. The machine as a whole: every command keeps the canonical form, every command within its row's ranges answers
a next state, and the listed commands leave memory and tiles alone. -/

namespace Sys2Proof.Proofs
open Sys2Proof Sys2Proof.Machine Sys2Proof.Claims

/-! ### The canonical form (R29, R30, R33, R161) -/

/-- The commands in the order of `Instr`, each by the lemma about its meaning. -/
theorem exec_canon {c : Instr} {s : State} (h : s.Canonical) : AnswerCanonical (exec c s) := by
  cases c
  exacts [
    execPowerGoodRise_canon h, execPowerGoodFall_canon h, execResetNFall_canon h, execResetNRise_canon h,
    execPerstAssert_canon h, execRailOutOfTolerance_canon h, execVmgmtLoss_canon h, execSysrefLockTimeout_canon h,
    execRefLoss_canon h, execThermalThrottle_canon h, execHotClear_canon h, execThermtrip_canon h,
    execLinkTrainingTimeout_canon h, execAlignTimeout_canon h, execVoltageLoopTick_canon h, execPowerEstimate_canon h,
    execBeatStretch_canon h, execBeatUnstretch_canon h, execHeartbeatSend_canon h, execHeartbeat_canon h,
    execAlign_canon h, execQtailWrite_canon h, execCrtailWrite_canon h, execQueueEnableWrite_canon h,
    execQueueRestart_canon h, execQueueCfgWrite_canon h, execTokenWrite_canon h, execFrondDecode_canon h,
    execFrondAccept_canon h, execSkippedFrondRelease_canon h, execFrondComplete_canon h, execPacedRelease_canon h,
    execAbortSingle_canon h, execAbortThrough_canon h, execAbortQueue_canon h, execPreemptDrain_canon h,
    execPreemptSuspend_canon h, execPreemptResume_canon h, execPreemptDone_canon h, execTileSuspendDiscard_canon h,
    execCellReplay_canon h, execCellFault_canon h, execSequencerParity_canon h, execBlockFault_canon h,
    execBridgeReplay_canon h, execPeriParity_canon h, execSporeExpanderReplay_canon h, execHandoffAccessGrant_canon h,
    execHandoffTimeout_canon h, execCircAccessGrant_canon h, execCircTimeout_canon h, execMatModeWrite_canon h,
    execHoffCfgWrite_canon h, execCircCfgWrite_canon h, execCircPointerWrite_canon h, execPclassWrite_canon h,
    execChcfgWrite_canon h, execRunAhead_canon h, execRefresh_canon h, execDramTempSample_canon h,
    execRfshModeWrite_canon h, execQuiesceWrite_canon h, execTowerQuiesced_canon h, execTowQuiesceTimeout_canon h,
    execMarginGo_canon h, execMarginDone_canon h, execPoisonOpQuery_canon h, execPoisonOpSet_canon h,
    execPoisonOpClear_canon h, execScrubStep_canon h, execKsetGo_canon h, execKsetRegistered_canon h,
    execKsetClear_canon h, execKsetBaseWrite_canon h, execEntropyHealthFail_canon h, execEntropyRecovered_canon h,
    execRngRetry_canon h, execDrbgReseed_canon h, execShake256_canon h, execEd448Verify_canon h,
    execEd448Sign_canon h, execX448_canon h, execKeygen_canon h, execPubkey_canon h, execKdf_canon h, execMac_canon h,
    execClear_canon h, execAttest_canon h, execPkeComplete_canon h, execLogRingEntry_canon h,
    execLogRdSelWrite_canon h, execLogTailWrite_canon h, execDrainTailWrite_canon h, execMaintReqScrub_canon h,
    execMaintReqRetrain_canon h, execMaintReqDrain_canon h, execMaintReqThermal_canon h, execMaintStart_canon h,
    execMaintDone_canon h, execThermalRecalibration_canon h, execLinkUp_canon h, execLinkEnableWrite_canon h,
    execLinkRetrainWrite_canon h, execCrcFailure_canon h, execLinkReplay_canon h, execLinkBadType_canon h,
    execIdle_canon h, execData_canon h, execRts_canon h, execCts_canon h, execColl_canon h, execTee_canon h,
    execBarArrive_canon h, execBarRelease_canon h, execBarrierReleaseAtT_canon h, execCollTimeout_canon h,
    execTeeFail_canon h, execMaint_canon h, execAliasCommit_canon h, execGroupWrite_canon h, execArmWrite_canon h,
    execReadySync_canon h, execCfgPartnerAbsent_canon h, execReadyColdDirty_canon h, execReadyDirtyAck_canon h,
    execUnprotected_canon h, execReadyDigest_canon h, execLossDeclared_canon h, execSelfFenced_canon h,
    execLossReceived_canon h, execGemmaClaim_canon h, execAdoptClaim_canon h, execReadyAccept_canon h,
    execReadyBusy_canon h, execGemmaFillDone_canon h, execAdoptCommit_canon h, execAdoptRelease_canon h,
    execHostBarRead_canon h, execHostBarWrite_canon h, execMgmtCoreAccess_canon h,
    execAtsTranslationCompletion_canon h, execAtsInvalidation_canon h, execPageResponse_canon h,
    execPageReqTimeout_canon h, execHostCplErr_canon h, execPcieLinkDown_canon h, execPcieLinkUp_canon h,
    execPcieConfigWrite_canon h, execSemAcquire_canon h, execSemRelease_canon h, execMboxDataWrite_canon h,
    execMboxSend_canon h, execMboxClear_canon h, execNvcfgRead_canon h, execNvcfgProgram_canon h,
    execNvcfgErase_canon h, execNvcfgDone_canon h, execWdtKick_canon h, execFwWatchdog_canon h, execFwTrap_canon h,
    execMctpMessage_canon h, execPwrcapWrite_canon h, execMemcfgWrite_canon h, execNdClr_canon h, execMissClr_canon h,
    execRegisterWrite_canon h, execInstantiateUnseeded_canon h, execNop_canon h, execWait_canon h, execSignal_canon h,
    execFence_canon h, execBarrier_canon h, execMove_canon h, execFill_canon h, execPrefetch_canon h,
    execCopy_canon h, execRelayout_canon h, execTranspose_canon h, execPermute_canon h, execMatmul_canon h,
    execMatmulAcc_canon h, execMatmulEpi_canon h, execResMatmul_canon h, execBaseconvM_canon h, execAdd_canon h,
    execSub_canon h, execMul_canon h, execFma_canon h, execMin_canon h, execMax_canon h, execAbs_canon h,
    execNeg_canon h, execDiv_canon h, execSqrt_canon h, execCmp_canon h, execSelect_canon h, execLogic_canon h,
    execShift_canon h, execRadd_canon h, execRsub_canon h, execRmul_canon h, execLanePermute_canon h,
    execBroadcast_canon h, execTileShape_canon h, execTileLoad_canon h, execTileStore_canon h, execTileSave_canon h,
    execTileRestore_canon h, execRsum_canon h, execRmax_canon h, execRmin_canon h, execRargmax_canon h,
    execMoments_canon h, execLayernorm_canon h, execRmsnorm_canon h, execFunc_canon h, execSoftmaxStep_canon h,
    execSoftmaxCorrect_canon h, execConvert_canon h, execPackInt4_canon h, execUnpackInt4_canon h,
    execFixToRes_canon h, execResToFix_canon h, execGather_canon h, execScatter_canon h, execScatterAdd_canon h,
    execNtt_canon h, execIntt_canon h, execPadd_canon h, execPsub_canon h, execPmul_canon h, execPmulPlain_canon h,
    execPneg_canon h, execTensor_canon h, execRescale_canon h, execModraise_canon h, execBaseconvP_canon h,
    execModdrop_canon h, execKeyswitch_canon h, execRelin_canon h, execRotate_canon h, execConj_canon h,
    execHoistDecomp_canon h, execHoistRotate_canon h, execAutomorph_canon h, execSampleExtract_canon h,
    execLweKeyswitch_canon h, execBlindRotate_canon h, execRepack_canon h, execMaskedExport_canon h,
    execMaskedImport_canon h, execShareSplit_canon h, execBeaverMul_canon h, execShareOpen_canon h,
    execRandError_canon h, execRandUniform_canon h, execFlood_canon h, execMask_canon h, execSend_canon h,
    execRecv_canon h, execReduceScatter_canon h, execAllGather_canon h, execAllReduce_canon h, execBcast_canon h,
    execTeeArm_canon h, execTeeApply_canon h, execEpochSnapshot_canon h, execEpochRestore_canon h,
    execGemmaFill_canon h, execStandinMarkCommit_canon h, execStandinMarkBoundary_canon h, execSelftest_canon h,
    execScrubRange_canon h, execLogMark_canon h]

theorem tick_canon {s : State} (h : s.Canonical) : (tick s).Canonical := advanceTo_canon h

/-- Settles O4: an empty queue is a tick, and any other step is the front command on the state with the rest of the
queue. -/
theorem everyStepKeepsTheCanonicalForm : Obligations.EveryStepKeepsTheCanonicalForm := by
  intro s t hs h
  unfold step at h
  split at h
  · exact next_canon (tick_canon hs) t h
  · rename_i rest _
    have rest_canon : ({ s with pending := rest } : State).Canonical := congr_canon hs rfl rfl rfl rfl rfl rfl
    exact exec_canon rest_canon t h

/-! ### Faults (R35, R77, R89) -/

/-- A command that shares its opcode with another answers a next state whichever of the two the frond asks for. -/
theorem ofKind_answers {k : Nat} {f : FrondRef} {s t : State} : ∃ u, ofKind k f s (effect s t) = effect s u := by
  unfold ofKind
  split
  · split
    · exact ⟨t, rfl⟩
    · exact ⟨s, rfl⟩
  · exact ⟨s, rfl⟩

/-- The one place where a command can stop is the check of its operand ranges. -/
theorem exec_eq_ifOk (c : Instr) (s : State) : ∃ t, exec c s = ifOk s (wellFormed c) t := by
  cases c
  case registerWrite m a n v =>
    have ranges : wellFormed (.registerWrite m a n v) = (accessOk n && inRegRange a.toNat) := Bool.and_assoc ..
    rw [ranges]
    exact ⟨_, rfl⟩
  case epochSnapshot => exact ofKind_answers
  case epochRestore => exact ofKind_answers
  case standinMarkBoundary => exact ofKind_answers
  all_goals exact ⟨_, rfl⟩

/-- Settles O5, by `exec_eq_ifOk`. -/
theorem onlyIllFormedCommandsStop : Obligations.OnlyIllFormedCommandsStop := by
  intro c s
  obtain ⟨t, ht⟩ := exec_eq_ifOk c s
  rw [ht]
  constructor
  · intro ok
    rw [ok]
    exact ⟨_, rfl⟩
  · intro ill
    rw [ill]
    rfl

/-! ### Commands that store nothing (R33, R35, R433) -/

/-- The listed commands in the order of `Instr`, each by the lemma about its meaning. -/
theorem exec_keepsMem {c : Instr} {s0 s : State} (listed : storesNothing c = true) (h : KeepsMem s0 s) :
    AnswerKeepsMem s0 (exec c s) := by
  cases c <;> try exact (Bool.false_ne_true listed).elim
  exacts [
    execPerstAssert_keepsMem h, execRailOutOfTolerance_keepsMem h, execVmgmtLoss_keepsMem h,
    execSysrefLockTimeout_keepsMem h, execRefLoss_keepsMem h, execThermalThrottle_keepsMem h, execHotClear_keepsMem h,
    execThermtrip_keepsMem h, execVoltageLoopTick_keepsMem h, execPowerEstimate_keepsMem h,
    execBeatStretch_keepsMem h, execBeatUnstretch_keepsMem h, execHeartbeatSend_keepsMem h, execQtailWrite_keepsMem h,
    execQueueEnableWrite_keepsMem h, execQueueRestart_keepsMem h, execQueueCfgWrite_keepsMem h,
    execTokenWrite_keepsMem h, execFrondDecode_keepsMem h, execAbortSingle_keepsMem h, execAbortThrough_keepsMem h,
    execAbortQueue_keepsMem h, execPreemptDrain_keepsMem h, execPreemptSuspend_keepsMem h,
    execPreemptResume_keepsMem h, execPreemptDone_keepsMem h, execTileSuspendDiscard_keepsMem h,
    execCellReplay_keepsMem h, execCellFault_keepsMem h, execSequencerParity_keepsMem h, execBlockFault_keepsMem h,
    execBridgeReplay_keepsMem h, execPeriParity_keepsMem h, execSporeExpanderReplay_keepsMem h,
    execHandoffAccessGrant_keepsMem h, execHandoffTimeout_keepsMem h, execCircAccessGrant_keepsMem h,
    execCircTimeout_keepsMem h, execMatModeWrite_keepsMem h, execHoffCfgWrite_keepsMem h, execCircCfgWrite_keepsMem h,
    execCircPointerWrite_keepsMem h, execPclassWrite_keepsMem h, execChcfgWrite_keepsMem h, execRunAhead_keepsMem h,
    execRefresh_keepsMem h, execDramTempSample_keepsMem h, execRfshModeWrite_keepsMem h, execTowerQuiesced_keepsMem h,
    execMarginDone_keepsMem h, execPoisonOpQuery_keepsMem h, execPoisonOpSet_keepsMem h, execPoisonOpClear_keepsMem h,
    execKsetGo_keepsMem h, execKsetRegistered_keepsMem h, execKsetClear_keepsMem h, execKsetBaseWrite_keepsMem h,
    execEntropyHealthFail_keepsMem h, execEntropyRecovered_keepsMem h, execRngRetry_keepsMem h,
    execDrbgReseed_keepsMem h, execShake256_keepsMem h, execEd448Verify_keepsMem h, execEd448Sign_keepsMem h,
    execX448_keepsMem h, execKeygen_keepsMem h, execPubkey_keepsMem h, execKdf_keepsMem h, execMac_keepsMem h,
    execClear_keepsMem h, execAttest_keepsMem h, execLogRdSelWrite_keepsMem h, execLogTailWrite_keepsMem h,
    execDrainTailWrite_keepsMem h, execMaintDone_keepsMem h, execLinkEnableWrite_keepsMem h,
    execCrcFailure_keepsMem h, execCollTimeout_keepsMem h, execTeeFail_keepsMem h, execAliasCommit_keepsMem h,
    execGroupWrite_keepsMem h, execArmWrite_keepsMem h, execCfgPartnerAbsent_keepsMem h, execUnprotected_keepsMem h,
    execSelfFenced_keepsMem h, execGemmaClaim_keepsMem h, execGemmaFillDone_keepsMem h, execHostBarRead_keepsMem h,
    execAtsTranslationCompletion_keepsMem h, execAtsInvalidation_keepsMem h, execPageResponse_keepsMem h,
    execPageReqTimeout_keepsMem h, execHostCplErr_keepsMem h, execPcieLinkDown_keepsMem h, execPcieLinkUp_keepsMem h,
    execPcieConfigWrite_keepsMem h, execSemAcquire_keepsMem h, execSemRelease_keepsMem h,
    execMboxDataWrite_keepsMem h, execMboxSend_keepsMem h, execMboxClear_keepsMem h, execNvcfgRead_keepsMem h,
    execNvcfgProgram_keepsMem h, execNvcfgErase_keepsMem h, execNvcfgDone_keepsMem h, execWdtKick_keepsMem h,
    execFwWatchdog_keepsMem h, execFwTrap_keepsMem h, execMctpMessage_keepsMem h, execPwrcapWrite_keepsMem h,
    execMemcfgWrite_keepsMem h, execNdClr_keepsMem h, execMissClr_keepsMem h, execInstantiateUnseeded_keepsMem h,
    execBarrier_keepsMem h]

theorem sameMemory_of_keepsMem {s t : State} (h : KeepsMem s t) : SameMemory s t := by
  constructor
  · intro k
    rw [memGet, memGet, h.mem]
  · intro k
    rw [h.tiles]

/-- Settles O8. -/
theorem commandsThatStoreNothing : Obligations.CommandsThatStoreNothing := by
  intro c s t listed h
  exact sameMemory_of_keepsMem (exec_keepsMem listed KeepsMem.rfl t h)

end Sys2Proof.Proofs
end

section
/-! SUPPORT. Registers and memory read back what was written (R29, R30); MEMCFG (R38); register writes by address. -/

namespace Sys2Proof.Proofs
open Sys2Proof Sys2Proof.Machine Sys2Proof.Claims

/-! ### Registers and memory (R29, R30) -/

theorem regB_setB_apart {s : State} {o i j : Nat} {b : Bool} (h : s.Canonical) (hj : j < 64) (d : j ≠ i) :
    regB (setB s o i b) o j = regB s o j :=
  regB_setF_apart h.regs hj (by omega)

theorem registersReadBack : Claims.RegistersReadBack := by
  intro s h
  refine ⟨fun o o' v => reg_setReg h.regs, fun o lo n v fits => regF_setF_same h.regs fits, ?_,
    fun o i b hi => regB_setB_same h.regs hi, fun o i j _ _ hj d => regB_setB_apart h hj d, fun o o' k => reg_bump h.regs⟩
  intro o lo n v lo' n' fits apart
  exact regF_setF_apart h.regs fits (Or.inr apart)

theorem putByte_eq (s : State) (a : Nat) (v : Byte) : putByte s a v = { s with mem := (putByte s a v).mem } := by
  unfold putByte
  split <;> rfl

theorem localGib_congr {s t : State} (h : reg t rMemcfg = reg s rMemcfg) : localGib t = localGib s := by
  rw [localGib, regF, h, localGib, regF]

/-- What an address decodes to depends on MEMCFG alone. -/
theorem resolve_congr {s t : State} (h : reg t rMemcfg = reg s rMemcfg) (a : Nat) : resolve t a = resolve s a := by
  unfold resolve localBase
  rw [localGib_congr h]

theorem memKey_congr {s t : State} (h : t.regs = s.regs) (x : Target) : memKey t x = memKey s x := by
  cases x <;> simp only [memKey, hostKey, reg, h]

theorem byteAt_putByte {s : State} {a b : Nat} {v : Byte} (h : s.Canonical) :
    byteAt (putByte s a v) b =
      if memKey s (resolve s b) = memKey s (resolve s a) ∧ (memKey s (resolve s a)).isSome then v else byteAt s b := by
  have regs : (putByte s a v).regs = s.regs := by rw [putByte_eq]
  have target : resolve (putByte s a v) b = resolve s b := resolve_congr (by rw [reg, regs, reg]) b
  unfold byteAt
  rw [memKey_congr regs, target, putByte]
  cases hb : memKey s (resolve s b) with
  | none => cases memKey s (resolve s a) <;> simp
  | some k =>
    cases ha : memKey s (resolve s a) with
    | none => simp
    | some j => simp [memGet, mem_memSet h.mem]

theorem memoryReadsBack : Claims.MemoryReadsBack := fun s a _ v h => ⟨putByte_eq s a v, byteAt_putByte h⟩

/-- Settles O7. -/
theorem registersAndMemoryReadBack : Obligations.RegistersAndMemoryReadBack := ⟨registersReadBack, memoryReadsBack⟩

/-! ### MEMCFG (R38) -/

theorem masterEvent_eq (s : State) (code : Nat) (m : Master) (o : Nat) :
    logEntry s (masterEvent s code m o) = logMaster s code m (absReg o) := rfl

/-- Settles O29: the gate of R479 lets the write through, and then LOCK decides. -/
theorem memoryConfiguration : Obligations.MemoryConfiguration := by
  intro m v s h served
  have write : exec (.memcfgWrite m v) s = effect s (wrMemcfg s m v) := congrArg (effect s) (gated_served served)
  constructor
  · intro locked
    unfold Logs Does
    rw [write, masterEvent_eq, wrMemcfg, if_pos locked]
    rfl
  · intro unlocked
    let field := setF s rMemcfg 0 6 (min 32 (fld v 0 6 / 4 * 4))
    have wf : mwf regReset field.regs = true := setF_regs_wf h.regs
    have stored : wrMemcfg s m v = setB field rMemcfg 63 (bitOf v 63) := by
      rw [wrMemcfg, if_neg (by simp [unlocked])]
    refine ⟨setB field rMemcfg 63 (bitOf v 63), ?_, rfl, ?_, ?_, regB_setB_same wf (by omega), ?_⟩
    · unfold Does
      rw [write, stored]
      rfl
    · intro o apart
      rw [reg_setB wf, if_neg apart, reg_setF h.regs, if_neg apart]
    · have multiple : fld v 0 6 / 4 * 4 = fld v 0 6 - fld v 0 6 % 4 := by omega
      unfold setB
      rw [regF_setF_apart wf (by omega) (by omega), regF_setF_same h.regs (by omega), multiple]
      exact Nat.mod_eq_of_lt (by omega)
    · unfold setB
      rw [regF_setF_apart wf (by omega) (by omega), regF_setF_apart h.regs (by omega) (by omega)]

/-! ### Register writes by address (R32, R35, R36) -/

/-- What has left the block towards its hosts in the state that an answer names. -/
def sentBy : Answer → List HostOut
  | .next t => t.host.out
  | _ => []

theorem sentBy_of_does {c : Instr} {s t : State} (h : Does c s t) : sentBy (exec c s) = t.host.out := by
  rw [h]
  rfl

/-- Refutes O33: offset 0x90000, between NVCFG and LINK0, lies in no block's extent, so that the management core's store there is a store to an
unmapped address, which answers an error (R32); the register write of the same offset logs its event and is answered
without one. -/
theorem not_registersAreWritten : ¬ Obligations.RegistersAreWritten := by
  intro h
  obtain ⟨-, -, -, -, core⟩ := h State.reset 0x90000 reset_canon (by decide)
  obtain ⟨t, register, store⟩ := core (leBytes 8 0) (by decide) (by decide)
  have quiet : t.host.out = [] := by
    rw [← sentBy_of_does register]
    rfl
  have error : (emit t (.mgmt [] false)).host.out = [.mgmt [] true] := by
    rw [← sentBy_of_does store]
    rfl
  simp [emit, quiet] at error

end Sys2Proof.Proofs
end

section
/-! SUPPORT. Memory as hosts and the management core see it (R32, R161, R171, R176, R477, R479): what an access from
outside leaves as it was, and what it answers. -/

namespace Sys2Proof.Proofs
open Sys2Proof Sys2Proof.Machine Sys2Proof.Claims

/-! ### What the checks of a read leave as it was -/

/-- The host side and, of the registers below the towers and the regions, all but the count of dropped events are in `t`
what they are in `s0`. MEMCFG and the host windows are among them, and with them the address map. -/
structure KeepsMap (s0 t : State) : Prop where
  host : t.host = s0.host
  low : ∀ o, o < 0x300000 → o ≠ rLogDrop → reg t o = reg s0 o
  wf : mwf regReset t.regs = true

section
variable {s0 s : State} (h : KeepsMap s0 s)
include h

theorem setReg_keepsMap {o : Nat} {v : Word} (high : 0x300000 ≤ o) : KeepsMap s0 (setReg s o v) where
  host := h.host
  low o' ho' keep := by
    rw [reg_setReg_apart h.wf (by omega)]
    exact h.low o' ho' keep
  wf := setReg_regs_wf h.wf

theorem setF_rMat_keepsMap {r k lo n v : Nat} : KeepsMap s0 (setF s (rMat r k) lo n v) :=
  setReg_keepsMap h (by unfold rMat; omega)

theorem setF_rTow_keepsMap {t k lo n v : Nat} : KeepsMap s0 (setF s (rTow t k) lo n v) :=
  setReg_keepsMap h (by unfold rTow; omega)

theorem bump32_rMat_keepsMap {r k n : Nat} : KeepsMap s0 (bump32 s (rMat r k) n) := setF_rMat_keepsMap h

theorem bump_rTow_keepsMap {t k n : Nat} : KeepsMap s0 (bump s (rTow t k) n) :=
  setReg_keepsMap h (by unfold rTow; omega)

theorem logEntry_keepsMap {e : LogEntry} : KeepsMap s0 (logEntry s e) where
  host := by rw [logEntry_eq]; exact h.host
  low o ho keep := by
    rw [reg_logEntry h.wf keep]
    exact h.low o ho keep
  wf := logEntry_regs_wf h.wf

theorem matReport_keepsMap {r o kind code : Nat} : KeepsMap s0 (matReport s r o kind code) :=
  logEntry_keepsMap (setF_rMat_keepsMap h)

theorem towReport_keepsMap {a kind code : Nat} : KeepsMap s0 (towReport s a kind code) :=
  logEntry_keepsMap (setF_rTow_keepsMap h)

theorem dropUpset_keepsMap {k : Nat} : KeepsMap s0 (dropUpset s k) := ⟨h.host, h.low, h.wf⟩

theorem countMatPoison_keepsMap {r : Nat} {up : Bool} : KeepsMap s0 (countMatPoison s r up) := setF_rMat_keepsMap h

theorem countTowPoison_keepsMap {t : Nat} {up : Bool} : KeepsMap s0 (countTowPoison s t up) :=
  setReg_keepsMap h (by unfold rTow; omega)

theorem poisonLine_keepsMap {l : Nat} : KeepsMap s0 (poisonLine s l) := by
  unfold poisonLine
  split
  · exact h
  · have marked : KeepsMap s0 { s with matPoison := sins s.matPoison l } := ⟨h.host, h.low, h.wf⟩
    exact countMatPoison_keepsMap marked

theorem poisonGranule_keepsMap {g : Nat} : KeepsMap s0 (poisonGranule s g) := by
  unfold poisonGranule
  split
  · exact h
  · have marked : KeepsMap s0 { s with towPoison := sins s.towPoison g } := ⟨h.host, h.low, h.wf⟩
    exact countTowPoison_keepsMap marked

/-- A sector read as anything but RES36 data reports the stored error that it finds, if any. -/
theorem readHbm_keepsMap {a : Nat} : KeepsMap s0 (readHbm s a false) := by
  unfold readHbm
  simp only [Bool.false_and, Bool.false_eq_true, if_false]
  split
  case isTrue corrected =>
    simp only [corrected]
    exact towReport_keepsMap (bump_rTow_keepsMap h)
  case isFalse =>
    split
    case isTrue uncorrectable =>
      simp only [uncorrectable]
      exact poisonGranule_keepsMap (towReport_keepsMap (bump_rTow_keepsMap h))
    case isFalse => exact h

/-- A mat line that no producer can recompute reports the detection that it makes, if any (R159). -/
theorem readMat_keepsMap {r o : Nat} : KeepsMap s0 (readMat s r o false) := by
  unfold readMat
  simp only [Bool.false_and, Bool.false_eq_true, if_false]
  split
  case isTrue ecc =>
    split
    · exact dropUpset_keepsMap (matReport_keepsMap (bump32_rMat_keepsMap h))
    · exact poisonLine_keepsMap (matReport_keepsMap (bump32_rMat_keepsMap h))
    · exact h
  case isFalse checked =>
    split
    · exact poisonLine_keepsMap (matReport_keepsMap (bump32_rMat_keepsMap h))
    · exact h

theorem noteSpan_keepsMap {a n : Nat} : KeepsMap s0 (noteSpan s a n) := by
  unfold noteSpan
  refine forRange_keeps (fun i x hx => ?_) h
  dsimp only
  split
  · split
    · exact readMat_keepsMap hx
    · exact hx
  · exact readHbm_keepsMap hx
  · exact hx

theorem logPoisonRead_keepsMap {a : Nat} : KeepsMap s0 (logPoisonRead s a) := by
  unfold logPoisonRead
  split
  · exact logEntry_keepsMap h
  · exact logEntry_keepsMap h
  · exact h

end

theorem KeepsMap.refl {s : State} (h : s.Canonical) : KeepsMap s s := ⟨rfl, fun _ _ _ => rfl, h.regs⟩

theorem KeepsMap.memcfg {s t : State} (h : KeepsMap s t) : reg t rMemcfg = reg s rMemcfg :=
  h.low rMemcfg (by decide) (by decide)

/-! ### What a read returns -/

/-- There are two host windows. -/
theorem port_lt_two {s : State} {a p o : Nat} (h : resolve s a = .host p o) : p < 2 := by
  unfold resolve at h
  dsimp only at h
  split_ifs at h <;> simp only [Target.host.injEq] at h <;> omega

theorem byteAt_keepsMap {s t : State} (h : KeepsMap s t) (mem : t.mem = s.mem) (a : Nat) : byteAt t a = byteAt s a := by
  have key : memKey t (resolve s a) = memKey s (resolve s a) := by
    cases target : resolve s a with
    | host p o =>
      have port := port_lt_two target
      have window : reg t (rHwin p) = reg s (rHwin p) :=
        h.low _ (by unfold rHwin; omega) (by unfold rHwin rLogDrop; omega)
      simp only [memKey, hostKey, window]
    | _ => rfl
  unfold byteAt memGet
  rw [resolve_congr h.memcfg, key, mem]

theorem bytesAt_keepsMap {s t : State} (h : KeepsMap s t) (mem : t.mem = s.mem) (a n : Nat) :
    bytesAt t a n = bytesAt s a n := by
  induction n generalizing a with
  | zero => rfl
  | succ n ih => rw [bytesAt, bytesAt, byteAt_keepsMap h mem, ih]

/-- Where an HBM address lies depends on MEMCFG alone. -/
theorem granuleOf_congr {s t : State} (h : reg t rMemcfg = reg s rMemcfg) (a : Nat) : granuleOf t a = granuleOf s a := by
  unfold granuleOf towerOf interleavedEnd
  rw [localGib_congr h]

theorem poisonedSpan_congr {s t : State} (h : reg t rMemcfg = reg s rMemcfg) (mat : t.matPoison = s.matPoison)
    (tow : t.towPoison = s.towPoison) (a n : Nat) : poisonedSpan t a n = poisonedSpan s a n := by
  have byte (b : Nat) : poisonedAt t b = poisonedAt s b := by
    unfold poisonedAt poisonedT
    rw [resolve_congr h, mat, tow]
    simp only [granuleOf_congr h]
  unfold poisonedSpan
  simp only [byte]

/-- The event of a read of poisoned data poisons nothing. -/
theorem logPoisonRead_poison (s : State) (a : Nat) :
    (logPoisonRead s a).matPoison = s.matPoison ∧ (logPoisonRead s a).towPoison = s.towPoison := by
  unfold logPoisonRead logEv
  split
  · rw [logEntry_eq]; exact ⟨rfl, rfl⟩
  · rw [logEntry_eq]; exact ⟨rfl, rfl⟩
  · exact ⟨rfl, rfl⟩

/-- A read from outside returns the bytes that memory holds, marked as the poison stands after its checks. -/
theorem extRead_spec {s : State} (h : s.Canonical) (a n : Nat) :
    KeepsMap s (extRead s a n).1 ∧ (extRead s a n).2.1 = bytesAt s a n ∧
      (extRead s a n).2.2 = poisonedSpan (extRead s a n).1 a n := by
  have checked : KeepsMap s (noteSpan s a n) := noteSpan_keepsMap (KeepsMap.refl h)
  have logged : KeepsMap (noteSpan s a n) (logPoisonRead (noteSpan s a n) a) :=
    logPoisonRead_keepsMap ⟨rfl, fun _ _ _ => rfl, checked.wf⟩
  obtain ⟨mat, tow⟩ := logPoisonRead_poison (noteSpan s a n) a
  refine ⟨?_, bytesAt_keepsMap checked (noteSpan_keepsMem KeepsMem.rfl).mem a n, ?_⟩
  · unfold extRead
    dsimp only
    split
    · exact logPoisonRead_keepsMap checked
    · exact checked
  · unfold extRead
    dsimp only
    split
    case isTrue => exact (poisonedSpan_congr logged.memcfg mat tow a n).symm
    case isFalse => rfl

/-- An answer of a read from outside, whoever it goes to. -/
theorem emit_extRead {s : State} (h : s.Canonical) (a n : Nat) (answer : List Byte → Bool → HostOut) :
    let t := emit (extRead s a n).1 (answer (extRead s a n).2.1 (extRead s a n).2.2)
    t.host.out = s.host.out ++ [answer (bytesAt s a n) (poisonedSpan t a n)] ∧ t.mem = s.mem ∧ t.tiles = s.tiles := by
  obtain ⟨map, bytes, poison⟩ := extRead_spec h a n
  have kept : KeepsMem s (extRead s a n).1 := extRead_keepsMem KeepsMem.rfl
  refine ⟨?_, kept.mem, kept.tiles⟩
  have same : poisonedSpan (emit (extRead s a n).1 (answer (extRead s a n).2.1 (extRead s a n).2.2)) a n =
      (extRead s a n).2.2 := by
    rw [poison]
    exact poisonedSpan_congr rfl rfl rfl a n
  rw [same, bytes]
  simp only [emit, map.host]

/-! ### What a write stores -/

theorem putBytes_tiles (s : State) (a : Nat) (d : List Byte) : (putBytes s a d).tiles = s.tiles := by
  induction d generalizing s a with
  | nil => rfl
  | cons b d ih => rw [putBytes, ih, putByte_eq]

/-- Beside its bytes, a write from outside clears poison alone. -/
theorem externalWrite_keepsMem {s : State} {a : Nat} {d : List Byte} :
    KeepsMem (putBytes s a d) (externalWrite s a d) := by
  unfold externalWrite
  refine forRange_keeps (fun i x hx => ?_) KeepsMem.rfl
  dsimp only
  split
  · split
    · exact clearLine_keepsMem (dropUpset_keepsMem hx)
    · exact hx
  · exact hx

/-! ### The accesses (R32, R176, R477, R479) -/

theorem accessOk_of_bounds {n : Nat} (lo : 1 ≤ n) (hi : n ≤ 64) : accessOk n = true := by
  simp [accessOk, lo, hi]

/-- A command whose operands are in range has the effect of its meaning. -/
theorem does_of_ifOk {c : Instr} {s t : State} {b : Bool} (meaning : exec c s = ifOk s b t) (ok : b = true) : Does c s t := by
  subst ok
  exact meaning

theorem does_hostBarRead {p : Fin 2} {bar : Bar} {o n : Nat} {s t : State} (lo : 1 ≤ n) (hi : n ≤ 64)
    (h : barRead s p bar o n = t) : Does (.hostBarRead p bar o n) s t :=
  h ▸ does_of_ifOk rfl (accessOk_of_bounds lo hi)

theorem does_hostBarWrite {p : Fin 2} {bar : Bar} {o : Nat} {d : List Byte} {s t : State} (lo : 1 ≤ d.length)
    (hi : d.length ≤ 64) (h : barWrite s p bar o d = t) : Does (.hostBarWrite p bar o d) s t :=
  h ▸ does_of_ifOk rfl (accessOk_of_bounds lo hi)

theorem does_mgmtRead {a : BitVec 40} {d : List Byte} {n : Nat} {s t : State} (lo : 1 ≤ n) (hi : n ≤ 64)
    (h : mgmtAccess s false a d n = t) : Does (.mgmtCoreAccess false a d n) s t :=
  h ▸ does_of_ifOk rfl (accessOk_of_bounds lo hi)

section
variable {s : State} {p : Fin 2} {o n : Nat} {d : List Byte}

theorem barRead_down {bar : Bar} (down : regB s (rPcieStat p) 0 = false) : barRead s p bar o n = s := by
  simp [barRead, down]

theorem barWrite_down {bar : Bar} (down : regB s (rPcieStat p) 0 = false) : barWrite s p bar o d = s := by
  simp [barWrite, down]

theorem barRead_memory_early (up : regB s (rPcieStat p) 0 = true) (early : isReady s = false)
    (fits : o + n ≤ 2 ^ (portOf s p).barLog2) : barRead s p .memory o n = emit s (.unsupported p) := by
  simp [barRead, up, early, Nat.not_lt.mpr fits]

theorem barRead_memory_ready (up : regB s (rPcieStat p) 0 = true) (ready : isReady s = true)
    (fits : o + n ≤ 2 ^ (portOf s p).barLog2) :
    barRead s p .memory o n = hostRead s p .memory ((reg s (rMwin p)).toNat + o) n := by
  simp [barRead, up, ready, Nat.not_lt.mpr fits]

theorem barWrite_memory_ready (up : regB s (rPcieStat p) 0 = true) (ready : isReady s = true)
    (fits : o + d.length ≤ 2 ^ (portOf s p).barLog2) :
    barWrite s p .memory o d = hostWrite s p .memory ((reg s (rMwin p)).toNat + o) d := by
  simp [barWrite, up, ready, Nat.not_lt.mpr fits]

end

section
variable {s : State} {a n : Nat} (memory : ∀ x, resolve s a ≠ .reg x)
include memory

theorem hostRead_memory {p : Fin 2} :
    hostRead s p .memory a n =
      if quiescedFor s a n then hold s (.hostBarRead p .memory a n) else hostMemRead s p a n := by
  unfold hostRead
  split
  case h_1 x target => exact absurd target (memory x)
  case h_2 => rfl

theorem hostWrite_memory {p : Fin 2} {d : List Byte} :
    hostWrite s p .memory a d =
      if quiescedFor s a d.length then hold s (.hostBarWrite p .memory a d) else hostMemWrite s p a d := by
  unfold hostWrite
  split
  case h_1 x target => exact absurd target (memory x)
  case h_2 => rfl

end

theorem mgmtRead_memory {s : State} {b : BitVec 40} {d : List Byte} {n : Nat} (memory : ∀ x, resolve s b.toNat ≠ .reg x)
    (free : quiescedFor s b.toNat n = false) : mgmtAccess s false b d n = mgmtMem s false b.toNat d n := by
  unfold mgmtAccess
  split
  case h_1 x target => exact absurd target (memory x)
  case h_2 => exact if_neg (by simp [free])

/-- Settles O34. -/
theorem memoryFromOutside : Obligations.MemoryFromOutside := by
  intro p o n d s canonical n_pos n_le d_pos d_le
  refine ⟨?down, ?early, ?quiesced, ?read, ?write, ?core, ?unmapped⟩
  case down =>
    exact fun down bar => ⟨does_hostBarRead n_pos n_le (barRead_down down), does_hostBarWrite d_pos d_le (barWrite_down down)⟩
  case early =>
    exact fun up early fits => does_hostBarRead n_pos n_le (barRead_memory_early up early fits)
  case quiesced =>
    intro up ready fits memory waits
    refine does_hostBarRead n_pos n_le ?_
    rw [barRead_memory_ready up ready fits, hostRead_memory memory, if_pos waits]
    rfl
  case read =>
    intro up ready fits memory free mapped window
    refine ⟨_, does_hostBarRead n_pos n_le ?_, emit_extRead canonical _ n (.cpl p)⟩
    rw [barRead_memory_ready up ready fits, hostRead_memory memory, if_neg (by simp [free]), hostMemRead,
      if_pos (by simp [mapped, window])]
  case write =>
    intro up ready fits memory free mapped window
    refine ⟨does_hostBarWrite d_pos d_le ?_, externalWrite_keepsMem.mem, ?_⟩
    · rw [barWrite_memory_ready up ready fits, hostWrite_memory memory, if_neg (by simp [free]), hostMemWrite,
        if_pos (by simp [mapped, window])]
    · rw [externalWrite_keepsMem.tiles, putBytes_tiles]
  case core =>
    intro b memory free mapped window
    obtain ⟨out, mem, -⟩ := emit_extRead canonical b.toNat n .mgmt
    refine ⟨_, does_mgmtRead n_pos n_le ?_, out, mem⟩
    rw [mgmtRead_memory memory free, mgmtMem, if_neg Bool.false_ne_true, if_pos (by simp [mapped, window])]
  case unmapped =>
    intro b memory unmapped free
    refine does_mgmtRead n_pos n_le ?_
    rw [mgmtRead_memory memory free, mgmtMem, if_neg Bool.false_ne_true, if_neg (by simp [unmapped])]
    rfl

end Sys2Proof.Proofs
end

section
/-! SUPPORT. Registers as the statements list them: what a write adds to the list, what the event log, interrupts and the
stop of the ports leave as it was. -/

namespace Sys2Proof.Proofs
open Sys2Proof Sys2Proof.Machine Sys2Proof.Claims

/-! ### Fields of equal registers -/

section
variable {s t : State}

theorem regF_congr {o lo n : Nat} (h : reg t o = reg s o) : regF t o lo n = regF s o lo n := by rw [regF, h, regF]

theorem regB_congr {o i : Nat} (h : reg t o = reg s o) : regB t o i = regB s o i := by rw [regB, h, regB]

theorem level_congr (h : reg t rBeatStat = reg s rBeatStat) : level t = level s := regF_congr h

theorem beat_congr (h : reg t rBeatCount = reg s rBeatCount) : beat t = beat s := by rw [beat, h, beat]

end

/-! ### What a list of register values says -/

theorem regs_refl (s : State) : Regs s s [] := fun _ => rfl

/-- One more register set stands at the front of the list. -/
theorem regs_setReg {s t : State} {l : List (Nat × Word)} (wf : mwf regReset t.regs = true) (h : Regs s t l) (o : Nat)
    (v : Word) : Regs s (setReg t o v) ((o, v) :: l) := by
  intro o'
  rw [reg_setReg wf, h]
  rfl

theorem regs_swap {s t : State} {l : List (Nat × Word)} {o o' : Nat} {v v' : Word} (apart : o ≠ o')
    (h : Regs s t ((o, v) :: (o', v') :: l)) : Regs s t ((o', v') :: (o, v) :: l) := by
  intro x
  rw [h x, after, after, after, after]
  split_ifs <;> simp_all

/-- Of two values for one register the first counts. -/
theorem regs_cover {s t : State} {l : List (Nat × Word)} {o : Nat} {v v' : Word}
    (h : Regs s t ((o, v) :: (o, v') :: l)) : Regs s t ((o, v) :: l) := by
  intro x
  rw [h x, after, after, after]
  split_ifs <;> rfl

/-- A command whose meaning is an operation answers the state that the operation gives. -/
theorem does_of_effect {c : Instr} {s t : State} (meaning : exec c s = effect s t) : Does c s t := meaning

/-- `t` differs from `s` in registers alone, in those of the list. -/
structure RegsTo (s t : State) (l : List (Nat × Word)) : Prop where
  listed : Regs s t l
  frame : t = { s with regs := t.regs }
  wf : mwf regReset t.regs = true

theorem RegsTo.refl {s : State} (canonical : s.Canonical) : RegsTo s s [] := ⟨regs_refl s, rfl, canonical.regs⟩

section
variable {s t : State} {l : List (Nat × Word)} {o : Nat} {v w : Word} (h : RegsTo s t l)
include h

theorem RegsTo.setReg (o : Nat) (v : Word) : RegsTo s (setReg t o v) ((o, v) :: l) where
  listed := regs_setReg h.wf h.listed o v
  frame := by rw [Machine.setReg, h.frame]
  wf := setReg_regs_wf h.wf

/-- A register that holds a value may be listed with it. -/
theorem RegsTo.note (held : reg t o = v) : RegsTo s t ((o, v) :: l) where
  listed := by
    intro o'
    rw [after]
    split
    case isTrue same => rw [same, held]
    case isFalse => exact h.listed o'
  frame := h.frame
  wf := h.wf

theorem RegsTo.setF (held : reg t o = w) (lo n x : Nat) : RegsTo s (setF t o lo n x) ((o, putFld w lo n x) :: l) :=
  held ▸ h.setReg o (putFld (reg t o) lo n x)

theorem RegsTo.setB (held : reg t o = w) (i : Nat) (b : Bool) : RegsTo s (setB t o i b) ((o, putBit w i b) :: l) :=
  h.setF held i 1 (b2n b)

theorem RegsTo.sets {c : Instr} (meaning : exec c s = effect s t) : Sets c s l := ⟨t, meaning, h.listed, h.frame⟩

end

theorem RegsTo.swap {s t : State} {l : List (Nat × Word)} {o o' : Nat} {v v' : Word}
    (h : RegsTo s t ((o, v) :: (o', v') :: l)) (apart : o ≠ o') : RegsTo s t ((o', v') :: (o, v) :: l) :=
  ⟨regs_swap apart h.listed, h.frame, h.wf⟩

theorem RegsTo.cover {s t : State} {l : List (Nat × Word)} {o : Nat} {v v' : Word}
    (h : RegsTo s t ((o, v) :: (o, v') :: l)) : RegsTo s t ((o, v) :: l) :=
  ⟨regs_cover h.listed, h.frame, h.wf⟩

/-- The list says nothing of what is no register. -/
theorem after_congr {s t : State} (h : ∀ o, reg t o = reg s o) : ∀ (l : List (Nat × Word)) (o : Nat), after t l o = after s l o
  | [], o => h o
  | (a, v) :: l, o => by rw [after, after, after_congr h l o]

/-! ### The event log -/

/-- What an event does to the log depends on the log, LOG.CTRL, LOG.HEAD and LOG.TAIL alone. -/
theorem logEntry_log_congr {s t : State} (log : t.log = s.log) (ctrl : reg t rLogCtrl = reg s rLogCtrl)
    (head : reg t rLogHead = reg s rLogHead) (tail : reg t rLogTail = reg s rLogTail) (e : LogEntry) :
    (logEntry t e).log = (logEntry s e).log := by
  unfold logEntry regB regF
  simp only [log, ctrl, head, tail]
  split
  · rfl
  · split
    · split
      · rfl
      · exact log
    · split <;> rfl

/-! ### Interrupts (R481) -/

section
variable {s : State}

theorem sendVector_regs (p v : Nat) : (sendVector s p v).regs = s.regs := by
  unfold sendVector
  split
  · split <;> rfl
  · rfl

theorem raiseOn_regs_wf {p src : Nat} (wf : mwf regReset s.regs = true) : mwf regReset (raiseOn s p src).regs = true := by
  unfold raiseOn
  split
  · split
    · exact wf
    · rw [sendVector_regs]
      exact setB_regs_wf wf
  · exact wf

theorem reg_raiseOn {p src o : Nat} (wf : mwf regReset s.regs = true) (h : o ≠ rIrqPend p) :
    reg (raiseOn s p src) o = reg s o := by
  unfold raiseOn
  split
  · split
    · rfl
    · rw [reg, sendVector_regs]
      exact reg_setF_apart wf h
  · rfl

theorem raiseIrq_regs_wf {src : Nat} (wf : mwf regReset s.regs = true) : mwf regReset (raiseIrq s src).regs = true :=
  raiseOn_regs_wf (raiseOn_regs_wf wf)

/-- Beside the ports' pending interrupts no register changes. -/
theorem reg_raiseIrq {src o : Nat} (wf : mwf regReset s.regs = true) (h : o ≠ rIrqPend 0) (h' : o ≠ rIrqPend 1) :
    reg (raiseIrq s src) o = reg s o := by
  rw [raiseIrq, reg_raiseOn (raiseOn_regs_wf wf) h', reg_raiseOn wf h]

/-- An interrupt changes registers and the host side alone. -/
theorem raiseOn_eq (s : State) (p src : Nat) :
    raiseOn s p src = { s with regs := (raiseOn s p src).regs, host := (raiseOn s p src).host } := by
  unfold raiseOn sendVector
  split
  · split
    · rfl
    · split
      · split <;> rfl
      · rfl
  · rfl

theorem raiseIrq_eq (s : State) (src : Nat) :
    raiseIrq s src = { s with regs := (raiseIrq s src).regs, host := (raiseIrq s src).host } := by
  unfold raiseIrq
  rw [raiseOn_eq (raiseOn s 0 src), raiseOn_eq s 0 src]

end

/-! ### The stop of the ports (R411, R494) -/

section
variable {s : State}

/-- Bit 0 of the STAT register of `n` ports from port `lo` on is cleared. -/
def portsDown (lo n : Nat) (s : State) : State := forRange lo n (fun p x => setB x (rLinkStat p) 0 false) s

theorem stopPorts_def : stopPorts s = portsDown 0 16 s := rfl

theorem portsDown_succ (lo n : Nat) : portsDown lo (n + 1) s = portsDown (lo + 1) n (setB s (rLinkStat lo) 0 false) := rfl

theorem portsDown_eq (lo n : Nat) (s : State) : portsDown lo n s = { s with regs := (portsDown lo n s).regs } := by
  induction n generalizing lo s with
  | zero => rfl
  | succ n ih => rw [portsDown_succ, ih, setB, setF, setReg]

theorem portsDown_regs_wf {lo n : Nat} (wf : mwf regReset s.regs = true) : mwf regReset (portsDown lo n s).regs = true :=
  forRange_keeps (P := fun x : State => mwf regReset x.regs = true) (fun _ _ h => setB_regs_wf h) wf

theorem reg_portsDown {lo n o : Nat} (wf : mwf regReset s.regs = true) (h : ∀ p, lo ≤ p → p < lo + n → o ≠ rLinkStat p) :
    reg (portsDown lo n s) o = reg s o := by
  induction n generalizing lo s with
  | zero => rfl
  | succ n ih =>
    rw [portsDown_succ, ih (setB_regs_wf wf) (fun p low high => h p (by omega) (by omega))]
    exact reg_setF_apart wf (h lo (by omega) (by omega))

theorem rLinkStat_injective {p q : Nat} (h : rLinkStat p = rLinkStat q) : p = q := by
  unfold rLinkStat at h
  omega

theorem regB_portsDown {lo n p : Nat} (wf : mwf regReset s.regs = true) (low : lo ≤ p) (high : p < lo + n) :
    regB (portsDown lo n s) (rLinkStat p) 0 = false := by
  induction n generalizing lo s with
  | zero => omega
  | succ n ih =>
    rw [portsDown_succ]
    rcases Nat.eq_or_lt_of_le low with first | later
    · have apart : ∀ q, lo + 1 ≤ q → q < lo + 1 + n → rLinkStat p ≠ rLinkStat q := fun q above _ same => by
        have := rLinkStat_injective same
        omega
      rw [regB_congr (reg_portsDown (setB_regs_wf wf) apart), ← first]
      exact regB_setB_same wf (by omega)
    · exact ih (setB_regs_wf wf) (by omega) (by omega)

end

end Sys2Proof.Proofs
end

section
/-! SUPPORT. The beat (R39–R44): work beats, the counter moved on, and the step of an empty queue. -/

namespace Sys2Proof.Proofs
open Sys2Proof Sys2Proof.Machine Sys2Proof.Claims

/-! ### Work beats (R40, R43) -/

/-- One beat more counts itself where it is no work beat. -/
theorem nonWorkBelow_succ (k b : Nat) : nonWorkBelow k (b + 1) = nonWorkBelow k b + if isWorkAt k b then 0 else 1 := by
  obtain ⟨q, r, hr, rfl⟩ : ∃ q r, r < 8 ∧ b = 8 * q + r := ⟨b / 8, b % 8, Nat.mod_lt _ (by omega), by omega⟩
  have place : (8 * q + r) / 8 = q ∧ (8 * q + r) % 8 = r := by omega
  have next : ((8 * q + r + 1) / 8 = q ∧ (8 * q + r + 1) % 8 = r + 1 ∧ r < 7) ∨
      ((8 * q + r + 1) / 8 = q + 1 ∧ (8 * q + r + 1) % 8 = 0 ∧ r = 7) := by omega
  unfold nonWorkBelow isWorkAt nonWork
  rw [place.1, place.2]
  rcases next with ⟨d, m, low⟩ | ⟨d, m, rfl⟩
  · rw [d, m]
    interval_cases r <;> split_ifs <;> simp_all
  · rw [d, m]
    split_ifs <;> simp_all <;> omega

/-- Two non-work beats are never adjacent. -/
theorem isWorkAt_succ {k b : Nat} (h : isWorkAt k b = false) : isWorkAt k (b + 1) = true := by
  unfold isWorkAt nonWork at *
  have : (b + 1) % 8 = if b % 8 = 7 then 0 else b % 8 + 1 := by split <;> omega
  rw [this]
  have low : b % 8 < 8 := Nat.mod_lt _ (by omega)
  generalize b % 8 = r at *
  interval_cases r <;> split_ifs at * <;> simp_all

theorem isWorkAt_workFrom (s : State) (b : Nat) : isWorkAt (level s) (workFrom s b) = true := by
  unfold workFrom
  split
  · assumption
  · exact isWorkAt_succ (Bool.eq_false_of_not_eq_true ‹_›)

theorem le_workFrom (s : State) (b : Nat) : b ≤ workFrom s b := by
  unfold workFrom
  split <;> omega

theorem workFrom_le (s : State) (b : Nat) : workFrom s b ≤ b + 1 := by
  unfold workFrom
  split <;> omega

/-! ### The counter moved on (R39) -/

section
variable {s : State} {b : Nat}

theorem advanceTo_eq (s : State) (b : Nat) : advanceTo s b = { s with regs := (advanceTo s b).regs } := by
  unfold advanceTo
  split <;> rfl

theorem advanceTo_now (h : b ≤ beat s) : advanceTo s b = s := if_pos h

theorem advanceTo_later (h : beat s < b) :
    advanceTo s b = setReg (bump s rStretchBt (nonWorkBelow (level s) (b + 1) - nonWorkBelow (level s) (beat s + 1)))
      rBeatCount (BitVec.ofNat 64 b) := if_neg (by omega)

theorem advanceTo_regs_wf (wf : mwf regReset s.regs = true) : mwf regReset (advanceTo s b).regs = true := by
  unfold advanceTo
  split
  · exact wf
  · exact setReg_regs_wf (bump_regs_wf wf)

/-- Beside the count of beats and that of stretched beats no register changes. -/
theorem reg_advanceTo {o : Nat} (wf : mwf regReset s.regs = true) (h : o ≠ rBeatCount) (h' : o ≠ rStretchBt) :
    reg (advanceTo s b) o = reg s o := by
  unfold advanceTo
  split
  · rfl
  · rw [reg_setReg_apart (bump_regs_wf wf) h, reg_bump wf, if_neg h']

theorem level_advanceTo (wf : mwf regReset s.regs = true) : level (advanceTo s b) = level s :=
  congrArg (fld · 0 4) (reg_advanceTo wf (by decide) (by decide))

theorem beat_advanceTo (wf : mwf regReset s.regs = true) (fits : b < 2 ^ 64) : beat (advanceTo s b) = max (beat s) b := by
  rcases Nat.lt_or_ge (beat s) b with later | now
  · rw [advanceTo_later later, beat, reg_setReg_same (bump_regs_wf wf), BitVec.toNat_ofNat, Nat.mod_eq_of_lt fits]
    omega
  · rw [advanceTo_now now]
    omega

theorem workFrom_advanceTo (wf : mwf regReset s.regs = true) (x : Nat) : workFrom (advanceTo s b) x = workFrom s x := by
  unfold workFrom
  rw [level_advanceTo wf]

end

/-- A counter advanced by nothing holds what it held. -/
theorem satAdd_zero (w : Word) : BitVec.ofNat 64 (satAdd 64 w.toNat 0) = w := by
  have : satAdd 64 w.toNat 0 = w.toNat := by
    unfold satAdd
    omega
  rw [this, BitVec.ofNat_toNat, BitVec.setWidth_eq]

/-- Settles O2: the step is the tick, which moves the counter on by one beat. -/
theorem anEmptyQueueIsOneBeat : Obligations.AnEmptyQueueIsOneBeat := by
  intro s canonical idle fits
  have ticked : step s = .next (tick s) := by
    unfold step
    rw [idle]
  have moved : tick s = setReg (bump s rStretchBt (if isWorkAt (level s) (beat s + 1) then 0 else 1)) rBeatCount
      (BitVec.ofNat 64 (beat s + 1)) := by
    rw [tick, advanceTo_later (Nat.lt_succ_self _), nonWorkBelow_succ _ (beat s + 1), Nat.add_sub_cancel_left]
  refine ⟨tick s, ticked, advanceTo_eq s _, ?_⟩
  rw [moved]
  have listed := regs_setReg (bump_regs_wf canonical.regs) (regs_setReg canonical.regs (regs_refl s) rStretchBt
    (BitVec.ofNat 64 (satAdd 64 (reg s rStretchBt).toNat (if isWorkAt (level s) (beat s + 1) then 0 else 1))))
    rBeatCount (BitVec.ofNat 64 (beat s + 1))
  cases work : isWorkAt (level s) (beat s + 1) with
  | true => simpa [work, satAdd_zero] using listed
  | false => simpa [work] using listed

end Sys2Proof.Proofs
end

section
/-! SUPPORT. The stretch level (R43–R45): what a change of level does, how a stretch drops it and a raise puts it back. -/

namespace Sys2Proof.Proofs
open Sys2Proof Sys2Proof.Machine Sys2Proof.Claims

/-! ### A change of level (R43, R44) -/

section
variable {s : State} {d new cause : Nat}

/-- The event of a change of level. -/
def levelEvent (s : State) (d new cause : Nat) : LogEntry :=
  event s (if new < level s then 0x7001 else 0x7002) 0x13 (srcUnit d 0) (level s + new * 256 + cause * 65536)

theorem changeLevel_def (s : State) (d new cause : Nat) : changeLevel s d new cause =
    { setF (logEntry s (levelEvent s d new cause)) rBeatStat 0 4 new with levelBeat := beat s } := rfl

theorem changeLevel_log : (changeLevel s d new cause).log = (logEntry s (levelEvent s d new cause)).log := by
  rw [changeLevel_def, setF, setReg]

theorem reg_changeLevel_setF (o : Nat) : reg (changeLevel s d new cause) o =
    reg (setF (logEntry s (levelEvent s d new cause)) rBeatStat 0 4 new) o := by
  rw [changeLevel_def, reg, reg]

theorem changeLevel_eq (s : State) (d new cause : Nat) : changeLevel s d new cause =
    { s with regs := (changeLevel s d new cause).regs, log := (changeLevel s d new cause).log, levelBeat := beat s } := by
  rw [changeLevel_def, logEntry_eq]
  rfl

theorem level_changeLevel (wf : mwf regReset s.regs = true) (h : new < 16) : level (changeLevel s d new cause) = new := by
  rw [level_congr (reg_changeLevel_setF rBeatStat), level, regF_setF_same (logEntry_regs_wf wf) (by omega)]
  exact Nat.mod_eq_of_lt h

/-- Beside the level and the count of dropped events no register changes. -/
theorem reg_changeLevel {o : Nat} (wf : mwf regReset s.regs = true) (h : o ≠ rBeatStat) (h' : o ≠ rLogDrop) :
    reg (changeLevel s d new cause) o = reg s o := by
  rw [reg_changeLevel_setF, reg_setF_apart (logEntry_regs_wf wf) h, reg_logEntry wf h']

end

/-! ### The drop (R43, R45) -/

/-- The state before the drop of level: a stretch that leaves level 8 is counted. -/
def stretchCounted (s : State) : State :=
  if level s = 8 then setF s rStretch 32 16 (satAdd 16 (regF s rStretch 32 16) 1) else s

theorem stretch_low {s : State} {d cause : Nat} (h : level s ≤ 4) :
    stretch s d cause = moduleFault (logEntry s (event s 0x7003 0x13 (srcUnit d 0) (payDefault 0 cause 0))) 0x03 := if_pos h

theorem stretch_high {s : State} {d cause : Nat} (h : 4 < level s) :
    stretch s d cause = suspendPromises (changeLevel (stretchCounted s) d (level s - 1) cause) := if_neg (by omega)

section
variable {s : State}

theorem stretchCounted_eq (s : State) : stretchCounted s = { s with regs := (stretchCounted s).regs } := by
  unfold stretchCounted
  split <;> rfl

theorem stretchCounted_log (s : State) : (stretchCounted s).log = s.log := by rw [stretchCounted_eq]

theorem stretchCounted_regs_wf (wf : mwf regReset s.regs = true) : mwf regReset (stretchCounted s).regs = true := by
  unfold stretchCounted
  split
  · exact setF_regs_wf wf
  · exact wf

theorem reg_stretchCounted {o : Nat} (wf : mwf regReset s.regs = true) (h : o ≠ rStretch) :
    reg (stretchCounted s) o = reg s o := by
  unfold stretchCounted
  split
  · exact reg_setF_apart wf h
  · rfl

theorem level_stretchCounted (wf : mwf regReset s.regs = true) : level (stretchCounted s) = level s :=
  level_congr (reg_stretchCounted wf (by decide))

theorem beat_stretchCounted (wf : mwf regReset s.regs = true) : beat (stretchCounted s) = beat s :=
  beat_congr (reg_stretchCounted wf (by decide))

/-- STRETCH_CNT of a state in which a stretch has been counted. -/
theorem regF_stretchCounted (wf : mwf regReset s.regs = true) :
    regF (stretchCounted s) rStretch 32 16 =
      if level s = 8 then min 65535 (regF s rStretch 32 16 + 1) else regF s rStretch 32 16 := by
  unfold stretchCounted
  split
  · rw [regF_setF_same wf (by omega)]
    exact Nat.mod_eq_of_lt (by unfold satAdd; omega)
  · rfl

end

section
variable {s : State}

theorem suspendPromises_eq (s : State) : suspendPromises s = { s with fronds := (suspendPromises s).fronds } := rfl

theorem reg_suspendPromises (o : Nat) : reg (suspendPromises s) o = reg s o := rfl

/-- The fronds whose promises a stretch suspends are the accepted ones whose promise is still to come. -/
theorem suspendPromises_fronds : (suspendPromises s).fronds =
    s.fronds.map (fun f => if f.phase ≠ .decoded ∧ beat s + 1 ≤ f.prom then { f with suspended := true } else f) := by
  unfold suspendPromises Frond.live
  simp only [Bool.and_eq_true, bne_iff_ne, decide_eq_true_eq]

end

/-- A drop of the level by one, by its fields: the counter of stretches, the level, the log and the promises. -/
theorem stretch_drop {s : State} (wf : mwf regReset s.regs = true) {d cause : Nat} (high : 4 < level s) :
    ∃ t, stretch s d cause = t ∧ level t = level s - 1 ∧ t.levelBeat = beat s ∧
      regF t rStretch 32 16 = (if level s = 8 then min 65535 (regF s rStretch 32 16 + 1) else regF s rStretch 32 16) ∧
      t.fronds = s.fronds.map (fun f => if f.phase ≠ .decoded ∧ beat s + 1 ≤ f.prom then { f with suspended := true } else f) ∧
      t.log = (logEntry s (event s 0x7001 0x13 (srcUnit d 0) (level s + (level s - 1) * 256 + cause * 65536))).log ∧
      t = { s with regs := t.regs, log := t.log, fronds := t.fronds, levelBeat := t.levelBeat } := by
  have bounded : level s < 16 := fld_lt
  have counted := stretchCounted_regs_wf wf
  have sameLevel := level_stretchCounted wf
  have sameBeat := beat_stretchCounted wf
  obtain ⟨x, hx⟩ : ∃ x, changeLevel (stretchCounted s) d (level s - 1) cause = x := ⟨_, rfl⟩
  have frame : x = { s with regs := x.regs, log := x.log, levelBeat := beat s } := by
    rw [← hx, changeLevel_eq, sameBeat, stretchCounted_eq]
  have now : beat x = beat s := by
    rw [← hx, beat_congr (reg_changeLevel counted (by decide) (by decide)), sameBeat]
  have fronds : x.fronds = s.fronds := by rw [frame]
  refine ⟨suspendPromises x, by rw [stretch_high high, hx], ?level, ?changed, ?count, ?suspended, ?logged, ?frame⟩
  case level => rw [level_congr (reg_suspendPromises _), ← hx, level_changeLevel counted (by omega)]
  case changed => rw [suspendPromises_eq, frame]
  case count =>
    rw [regF_congr (reg_suspendPromises _), ← hx, regF_congr (reg_changeLevel counted (by decide) (by decide)),
      regF_stretchCounted wf]
  case suspended => rw [suspendPromises_fronds, now, fronds]
  case logged =>
    rw [suspendPromises_eq, ← hx, changeLevel_log, levelEvent, event, sameLevel, sameBeat, if_pos (by omega)]
    exact logEntry_log_congr (stretchCounted_log s) (reg_stretchCounted wf (by decide)) (reg_stretchCounted wf (by decide))
      (reg_stretchCounted wf (by decide)) _
  case frame =>
    rw [suspendPromises_eq, frame]

/-! ### The raise (R44, R447) -/

theorem unstretch_idle {s : State} {d : Nat} (h : 8 ≤ level s ∨ thermalRuns s = true ∨ voltageRoom s = false) :
    unstretch s d = s := if_pos (by simpa [or_assoc] using h)

theorem unstretch_raise {s : State} {d : Nat} (low : level s < 8) (still : thermalRuns s = false) (room : voltageRoom s = true) :
    unstretch s d = changeLevel (advanceTo s (s.levelBeat + regF s rStretch 16 16 * 1250)) d (level s + 1) 1 :=
  if_neg (by simp [low, still, room])

/-- Settles O26: the drop, the trip below level 4, and the two forms of a raise. -/
theorem stretchLevels : Obligations.StretchLevels := by
  intro d s canonical
  have wf := canonical.regs
  refine ⟨fun c high => ?drop, fun c low => ?trip, fun idle => ?idle, fun low still room => ?raise⟩
  case drop =>
    obtain ⟨t, dropped, fields⟩ := stretch_drop wf (d := d) (cause := causeCode c) high
    exact ⟨t, does_of_effect (congrArg (effect s) dropped), fields⟩
  case trip => exact does_of_effect (congrArg (effect s) (stretch_low low))
  case idle => exact does_of_effect (congrArg (effect s) (unstretch_idle idle))
  case raise =>
    intro a
    have moved : mwf regReset a.regs = true := advanceTo_regs_wf wf
    have same : level a = level s := level_advanceTo wf
    have frame : a = { s with regs := a.regs } := advanceTo_eq s _
    refine ⟨changeLevel a d (level s + 1) 1, does_of_effect (congrArg (effect s) (unstretch_raise low still room)),
      level_changeLevel moved (by omega), rfl, beat_congr (reg_changeLevel moved (by decide) (by decide)), ?_, ?_⟩
    · rw [changeLevel_log, levelEvent, same, if_neg (by omega)]
    · rw [changeLevel_eq, frame]

end Sys2Proof.Proofs
end

section
/-! SUPPORT. The voltage loop and the power cap (R42, R447, R511), rails and references (R6, R63, R493, R494, R508). -/

namespace Sys2Proof.Proofs
open Sys2Proof Sys2Proof.Machine Sys2Proof.Claims

/-! ### One step of the requests (R42, R511) -/

/-- A field set to what it holds is the same word. -/
theorem putFld_fld (w : Word) (lo n : Nat) : putFld w lo n (fld w lo n) = w := by
  apply BitVec.eq_of_getLsbD_eq
  intro i hi
  rw [getLsbD_putFld hi]
  split
  case isTrue inside =>
    rw [testBit_fld, Nat.add_sub_cancel' inside.1]
    simp only [Bool.and_eq_right_iff_imp, decide_eq_true_eq]
    omega
  case isFalse => rfl

section
variable {s t : State} {l : List (Nat × Word)} {w : Word} (h : RegsTo s t l)
include h

theorem regsTo_stepRail (held : reg t rPwrcap = w) (lo : Nat) (up : Bool) :
    RegsTo s (stepRail t lo up) ((rPwrcap, putFld w lo 10 (railStep up (fld w lo 10))) :: l) := by
  unfold stepRail
  rw [regF, held]
  dsimp only
  split
  case isTrue none =>
    have same : putFld w lo 10 (railStep up (fld w lo 10)) = w := by
      rw [none, railStep, if_pos rfl, ← none, putFld_fld]
    exact h.note (held.trans same.symm)
  case isFalse requested =>
    rw [railStep, if_neg requested]
    exact h.setF held lo 10 _

/-- Both requests moved one step. -/
theorem regsTo_stepRails (held : reg t rPwrcap = w) (up : Bool) :
    RegsTo s (stepRails t up) ((rPwrcap, railsStepped w up) :: l) := by
  have first := regsTo_stepRail h held 32 up
  have second := (regsTo_stepRail first (first.listed rPwrcap) 42 up).cover
  simp only [after, if_true, fld_putFld_apart (w := w) (lo := 32) (n := 10) (lo' := 42) (n' := 10) (by omega) (by omega)]
    at second
  exact second

end

/-! ### The voltage loop's turn (R42, R447, R513) -/

/-- The conditions of a turn do not depend on the slack that it stores. -/
theorem voltageTick_eq {s : State} (wf : mwf regReset s.regs = true) (slack : Nat) (full : Bool) :
    voltageTick s slack full =
      if thermalRuns s then setF s rStretch 48 8 slack
      else if regB s rTherm 24 then stepRails (setF s rStretch 48 8 slack) false
      else if slack < regF s rStretch 0 6 then
        (if regB s rPwrcap 16 then setF s rStretch 48 8 slack else stepRails (setF s rStretch 48 8 slack) true)
      else if full then stepRails (setF s rStretch 48 8 slack) false
      else setF s rStretch 48 8 slack := by
  have hot : regB (setF s rStretch 48 8 slack) rTherm 24 = regB s rTherm 24 := regB_setF_apart wf (by omega) (by decide)
  have cap : regB (setF s rStretch 48 8 slack) rPwrcap 16 = regB s rPwrcap 16 := regB_setF_apart wf (by omega) (by decide)
  have raiseAt : regF (setF s rStretch 48 8 slack) rStretch 0 6 = regF s rStretch 0 6 :=
    regF_setF_apart wf (by omega) (by omega)
  have thermal : thermalRuns (setF s rStretch 48 8 slack) = thermalRuns s := by
    rw [thermalRuns, setF, setReg_maint, thermalRuns]
  unfold voltageTick
  dsimp only
  rw [hot, cap, raiseAt, thermal]

section
variable {s : State} (canonical : s.Canonical) {slack : BitVec 8} {full : Bool}
include canonical

/-- A turn that moves no request. -/
theorem voltageTick_stays (h : voltageTick s slack.toNat full = setF s rStretch 48 8 slack.toNat) :
    Sets (.voltageLoopTick slack full) s [(rStretch, putFld (reg s rStretch) 48 8 slack.toNat)] :=
  ((RegsTo.refl canonical).setF rfl 48 8 slack.toNat).sets (congrArg (effect s) h)

/-- A turn that moves both requests. -/
theorem voltageTick_steps {up : Bool}
    (h : voltageTick s slack.toNat full = stepRails (setF s rStretch 48 8 slack.toNat) up) :
    Sets (.voltageLoopTick slack full) s [(rStretch, putFld (reg s rStretch) 48 8 slack.toNat),
      (rPwrcap, railsStepped (reg s rPwrcap) up)] := by
  have stored := (RegsTo.refl canonical).setF (o := rStretch) rfl 48 8 slack.toNat
  exact ((regsTo_stepRails stored (stored.listed rPwrcap) up).swap (by decide)).sets (congrArg (effect s) h)

end

/-! ### The power estimate (R511) -/

/-- The power estimate keeps its history, puts the cap in force or lifts it, and steps the requests down while it is in
force. -/
theorem powerEstimate_spec {s : State} (canonical : s.Canonical) (watts : Nat) :
    let h := (watts :: s.powerHist).take 100
    let above := decide (regF s rPwrcap 0 16 < meanOf h)
    let p := putBit (reg s rPwrcap) 16 above
    RegsTo { s with powerHist := h } (powerEstimate s watts)
      [(rPwrcap, if above && !thermalRuns s then railsStepped p false else p)] := by
  intro h above p
  have kept : ({ s with powerHist := h } : State).Canonical := congr_canon canonical rfl rfl rfl rfl rfl rfl
  have capped := (RegsTo.refl kept).setB rfl 16 above (o := rPwrcap)
  have thermal : thermalRuns (setB { s with powerHist := h } rPwrcap 16 above) = thermalRuns s := by
    rw [thermalRuns, setB, setF, setReg_maint, thermalRuns]
  have meaning : powerEstimate s watts = if above && !thermalRuns s then
      stepRails (setB { s with powerHist := h } rPwrcap 16 above) false
      else setB { s with powerHist := h } rPwrcap 16 above := by
    rw [← thermal]
    rfl
  rw [meaning]
  split
  · exact (regsTo_stepRails capped (capped.listed rPwrcap) false).cover
  · exact capped

/-- The voltage loop, the power estimate and CAP_W. -/
theorem voltageAndPower : Claims.VoltageAndPower := by
  intro s canonical
  refine ⟨fun slack full => ?loop, fun w => ?estimate, fun m w served => ?cap⟩
  case loop =>
    have turn := voltageTick_eq canonical.regs slack.toNat full
    refine ⟨fun still => ?_, fun moves hot => ?_, fun moves cool low cap => ?_, fun moves cool low free => ?_,
      fun moves cool high long => ?_, fun moves cool high short => ?_⟩
    · exact voltageTick_stays canonical (by rw [turn, if_pos still])
    · exact voltageTick_steps canonical (turn.trans (by simp [moves, hot]))
    · exact voltageTick_stays canonical (turn.trans (by simp [moves, cool, low, cap]))
    · exact voltageTick_steps canonical (turn.trans (by simp [moves, cool, low, free]))
    · exact voltageTick_steps canonical (turn.trans (by simp [moves, cool, high, long]))
    · exact voltageTick_stays canonical (turn.trans (by simp [moves, cool, high, short]))
  case estimate =>
    have spec := powerEstimate_spec canonical w
    have frame := spec.frame
    refine ⟨powerEstimate s w, does_of_effect rfl, by rw [frame], frame, fun o => ?_⟩
    rw [spec.listed o]
    exact after_congr (fun _ => rfl) _ o
  case cap =>
    exact ((RegsTo.refl canonical).setF rfl 0 16 _).sets (congrArg (effect s) (gated_served served))

/-! ### Rails and references -/

section
variable {s : State}

theorem railOut_unspecify {r : Rail} (h0 : r ≠ .vcore0) (h1 : r ≠ .vcore1) (hm : r ≠ .vmgmt) : railOut s r = unspecify s := by
  cases r with
  | vcore0 => exact absurd rfl h0
  | vcore1 => exact absurd rfl h1
  | vmgmt => exact absurd rfl hm
  | _ => rfl

theorem unspecify_eq (s : State) : unspecify s = { s with fronds := s.fronds.map (fun f =>
    if f.phase = .working ∧ f.noWork = false then { f with unspec := true } else f) } := by
  unfold unspecify atWork
  simp only [Bool.and_eq_true, beq_iff_eq, Bool.not_eq_true']

/-- The loss of VMGMT takes the log's counters first (R508). -/
theorem loseLog_regs (canonical : s.Canonical) :
    Regs s (loseLog s) [(rLogHead, 0), (rLogTail, 0), (rLogOver, 0), (rLogDrop, 0)] := by
  have cleared := (((RegsTo.refl canonical).setReg rLogHead 0).setReg rLogTail 0).setReg rLogOver 0
  have listed := (cleared.setReg rLogDrop 0).listed
  intro o
  refine (listed o).trans ?_
  simp only [after]
  split_ifs <;> rfl

/-- The state that the loss of the reference leaves (R63). -/
def refLost (s : State) : State :=
  setB (setB (logEntry s (event s 0x7006 0x13 (srcUnit 0 0) (payDefault 0 0 0))) rBeatStat 5 false) rBeatStat 4 false

theorem refLost_eq (s : State) : refLost s = { s with regs := (refLost s).regs, log := (refLost s).log } := by
  unfold refLost
  rw [logEntry_eq]
  rfl

theorem reg_refLost {o : Nat} (wf : mwf regReset s.regs = true) (h : o ≠ rBeatStat) (h' : o ≠ rLogDrop) :
    reg (refLost s) o = reg s o := by
  unfold refLost setB
  rw [reg_setF_apart (setF_regs_wf (logEntry_regs_wf wf)) h, reg_setF_apart (logEntry_regs_wf wf) h, reg_logEntry wf h']

theorem refLost_stat (wf : mwf regReset s.regs = true) : regB (refLost s) rBeatStat 4 = false ∧
    regB (refLost s) rBeatStat 5 = false ∧ level (refLost s) = level s := by
  have logged := logEntry_regs_wf (e := event s 0x7006 0x13 (srcUnit 0 0) (payDefault 0 0 0)) wf
  have aligned := setB_regs_wf (o := rBeatStat) (i := 5) (b := false) logged
  refine ⟨regB_setB_same aligned (by omega), (regB_setF_apart aligned (by omega) (by omega)).trans
    (regB_setB_same logged (by omega)), ?_⟩
  exact (regF_setF_apart aligned (by omega) (by omega)).trans
    ((regF_setF_apart logged (by omega) (by omega)).trans (regF_congr (reg_logEntry wf (by decide))))

/-! ### The stop of start-up (R494) -/

/-- The state in which the reason is stored and logged, and FAULT_N asserted. -/
def stopNoted (s : State) (reason : Nat) : State :=
  let a := logEv (setF (setB s rBoot 4 true) rBoot 8 8 reason) 0x8011 0x0E (srcUnit 0 0) (payDefault 0 reason 0)
  { a with pins := { a.pins with faultN := true } }

theorem bootStop_eq {reason : Nat} (early : isReady s = false) (going : regB s rBoot 4 = false) :
    bootStop s reason = raiseIrq (stopPorts (stopNoted s reason)) 36 := if_neg (by simp [early, going])

theorem stopNoted_regs_wf {reason : Nat} (wf : mwf regReset s.regs = true) : mwf regReset (stopNoted s reason).regs = true :=
  logEntry_regs_wf (setF_regs_wf (setB_regs_wf wf))

theorem reg_stopNoted {reason o : Nat} (wf : mwf regReset s.regs = true) (h : o ≠ rLogDrop) :
    reg (stopNoted s reason) o = reg (setF (setB s rBoot 4 true) rBoot 8 8 reason) o :=
  reg_logEntry (setF_regs_wf (setB_regs_wf wf)) h

/-- What a stop leaves of a register that is neither a port's STAT nor a pending interrupt. -/
theorem reg_bootStop {reason o : Nat} (wf : mwf regReset s.regs = true) (early : isReady s = false)
    (going : regB s rBoot 4 = false) (low : o < 0x100000) (h : o ≠ rLogDrop) :
    reg (bootStop s reason) o = reg (setF (setB s rBoot 4 true) rBoot 8 8 reason) o := by
  have noted := stopNoted_regs_wf (reason := reason) wf
  have port : ∀ p, 0 ≤ p → p < 0 + 16 → o ≠ rLinkStat p := fun p _ _ => by
    unfold rLinkStat
    omega
  have irq : o ≠ rIrqPend 0 ∧ o ≠ rIrqPend 1 := by
    unfold rIrqPend
    omega
  rw [bootStop_eq early going, stopPorts_def, reg_raiseIrq (portsDown_regs_wf noted) irq.1 irq.2, reg_portsDown noted port,
    reg_stopNoted wf h]

/-- A stop of start-up: the STOPPED bit and the reason, FAULT_N, and the links idle. -/
theorem bootStop_spec {reason : Nat} (wf : mwf regReset s.regs = true) (early : isReady s = false)
    (going : regB s rBoot 4 = false) (fits : reason < 256) :
    regB (bootStop s reason) rBoot 4 = true ∧ regF (bootStop s reason) rBoot 8 8 = reason ∧
      (bootStop s reason).pins.faultN = true ∧ beat (bootStop s reason) = beat s ∧
      ∀ p < 16, regB (bootStop s reason) (rLinkStat p) 0 = false := by
  have boot := reg_bootStop (reason := reason) wf early going (show rBoot < 0x100000 by decide) (by decide)
  have count := reg_bootStop (reason := reason) wf early going (show rBeatCount < 0x100000 by decide) (by decide)
  have stopped := setB_regs_wf (o := rBoot) (i := 4) (b := true) wf
  refine ⟨?stopped, ?reason, ?pin, ?now, fun p below => ?link⟩
  case stopped => rw [regB_congr boot, regB_setF_apart stopped (by omega) (by omega), regB_setB_same wf (by omega)]
  case reason =>
    rw [regF_congr boot, regF_setF_same stopped (by omega)]
    exact Nat.mod_eq_of_lt fits
  case pin => rw [bootStop_eq early going, raiseIrq_eq, stopPorts_def, portsDown_eq, stopNoted]
  case now => rw [beat, count, reg_setF_apart stopped (by decide), setB, reg_setF_apart wf (by decide), beat]
  case link =>
    have noted := stopNoted_regs_wf (reason := reason) wf
    have irq : rLinkStat p ≠ rIrqPend 0 ∧ rLinkStat p ≠ rIrqPend 1 := by
      unfold rLinkStat rIrqPend
      omega
    rw [bootStop_eq early going, stopPorts_def, regB_congr (reg_raiseIrq (portsDown_regs_wf noted) irq.1 irq.2)]
    exact regB_portsDown noted (by omega) (by omega)

end

/-- Rails that leave their tolerance, the loss of the reference, and a reference that never locks. -/
theorem railsAndReferences : Claims.RailsAndReferences := by
  intro s canonical
  have wf := canonical.regs
  refine ⟨fun off r => ?off, fun on => ⟨?core0, ?core1, ?mgmt, fun r h0 h1 hm => ?other⟩, ?lost, fun free => ?held,
    fun locked => ?unlocked, fun started waits noLock going early => ?timeout, fun other => ?idle⟩
  case off => exact does_of_effect (congrArg (effect s) (if_neg (by simp [off])))
  case core0 => exact congrArg (effect s) (if_pos on)
  case core1 => exact congrArg (effect s) (if_pos on)
  case mgmt => exact congrArg (effect s) (if_pos on)
  case other =>
    exact does_of_effect (congrArg (effect s) ((if_pos on).trans ((railOut_unspecify h0 h1 hm).trans (unspecify_eq s))))
  case lost => exact ⟨loseLog s, does_of_effect rfl, loseLog_regs canonical, rfl, rfl, rfl, rfl⟩
  case held => exact does_of_effect (congrArg (effect s) (if_neg (by simp [free])))
  case unlocked =>
    obtain ⟨lock, aligned, kept⟩ := refLost_stat wf
    exact ⟨refLost s, does_of_effect (congrArg (effect s) (if_pos locked)), lock, aligned, kept,
      beat_congr (reg_refLost wf (by decide) (by decide)), rfl, refLost_eq s⟩
  case timeout =>
    let a := advanceTo s 62500000
    have moved : mwf regReset a.regs = true := advanceTo_regs_wf wf
    have boot : reg a rBoot = reg s rBoot := reg_advanceTo wf (by decide) (by decide)
    have stopped := bootStop_spec (reason := 1) moved ((regB_congr boot).trans early) ((regB_congr boot).trans going)
      (by omega)
    rw [show beat a = max (beat s) 62500000 from beat_advanceTo wf (by omega)] at stopped
    exact ⟨bootStop a 1, does_of_effect (congrArg (effect s) (if_pos (by simp [started, waits, noLock]))), stopped⟩
  case idle =>
    refine does_of_effect (congrArg (effect s) (if_neg ?_))
    rcases other with none | other | locked
    · simp [none]
    · simp [other]
    · simp [locked]

/-- Settles O28. -/
theorem powerAndRails : Obligations.PowerAndRails := ⟨voltageAndPower, railsAndReferences⟩

end Sys2Proof.Proofs
end

section
/-! SUPPORT. The registers of the event log (R441, R442), and the counters that a write clears (R58). -/

namespace Sys2Proof.Proofs
open Sys2Proof Sys2Proof.Machine Sys2Proof.Claims

/-! ### The entry that RD_SEL shows (R441) -/

/-- The entry of a count that the ring still holds. -/
def heldEntry (s : State) (k : Nat) : Option LogEntry :=
  if 0 < countGap k (regF s rLogHead 0 32) ∧ countGap k (regF s rLogHead 0 32) ≤ 8192 then aget s.log.ring (k % 8192) else none

/-- The bits of the entry shown; 0 where none is. -/
def shownBits : Option LogEntry → Nat
  | some e => entryBits e
  | none => 0

/-- Word `j` of the entry shown. -/
def shownWord (x : Option LogEntry) (j : Nat) : Word := BitVec.ofNat 64 (nfld (shownBits x) (64 * j) 64)

/-- RD_SEL with the count, and whether an entry is shown. -/
def selWord (k : Nat) (shown : Bool) : Word := BitVec.ofNat 64 (k + b2n shown <<< 32)

theorem wrRdSel_eq (s : State) (v : Word) : wrRdSel s v =
    (let x := heldEntry s (fld v 0 32)
     setReg (setReg (setReg (setReg (setReg s rLogRdSel (selWord (fld v 0 32) x.isSome))
       (rLogRd 0) (shownWord x 0)) (rLogRd 1) (shownWord x 1)) (rLogRd 2) (shownWord x 2)) (rLogRd 3) (shownWord x 3)) := by
  unfold wrRdSel
  dsimp only
  rw [← heldEntry]
  cases heldEntry s (fld v 0 32) <;> rfl

theorem wrRdSel_regs {s : State} (canonical : s.Canonical) (v : Word) :
    let x := heldEntry s (fld v 0 32)
    RegsTo s (wrRdSel s v) [(rLogRd 3, shownWord x 3), (rLogRd 2, shownWord x 2), (rLogRd 1, shownWord x 1),
      (rLogRd 0, shownWord x 0), (rLogRdSel, selWord (fld v 0 32) x.isSome)] := by
  intro x
  rw [wrRdSel_eq]
  exact (((((RegsTo.refl canonical).setReg _ _).setReg _ _).setReg _ _).setReg _ _).setReg _ _

/-- What RD_SEL and the four words of RD hold after a write. -/
theorem wrRdSel_shows {s : State} (canonical : s.Canonical) (v : Word) :
    reg (wrRdSel s v) rLogRdSel = selWord (fld v 0 32) (heldEntry s (fld v 0 32)).isSome ∧
      ∀ j < 4, reg (wrRdSel s v) (rLogRd j) = shownWord (heldEntry s (fld v 0 32)) j := by
  have listed := (wrRdSel_regs canonical v).listed
  refine ⟨by rw [listed]; rfl, fun j below => ?_⟩
  rw [listed]
  interval_cases j <;> rfl

theorem fld_selWord {k : Nat} (fits : k < 2 ^ 32) (b : Bool) : fld (selWord k b) 0 32 = k := by
  unfold fld nfld selWord
  rw [BitVec.toNat_ofNat]
  cases b <;> simp only [b2n, Bool.false_eq_true, if_false, if_true] <;> omega

theorem bitOf_selWord {k : Nat} (fits : k < 2 ^ 32) (b : Bool) : bitOf (selWord k b) 32 = b := by
  unfold bitOf selWord
  rw [BitVec.getLsbD_ofNat]
  have low : k.testBit 32 = false := Nat.testBit_lt_two_pow fits
  cases b
  · simp [b2n, low]
  · have high : k + 1 <<< 32 = 2 ^ 32 + k := by omega
    simp only [b2n, if_true]
    rw [high, Nat.testBit_two_pow_add_eq, low]
    rfl

theorem shownWord_some (e : LogEntry) (j : Nat) :
    shownWord (some e) j = BitVec.ofNat 64 (entryBits e / 2 ^ (64 * j) % 2 ^ 64) := by
  rw [shownWord, shownBits, nfld, Nat.shiftRight_eq_div_pow]

theorem shownWord_none (j : Nat) : shownWord none j = 0 := by
  rw [shownWord, shownBits, nfld, Nat.zero_shiftRight]
  rfl

/-! ### Room in the drain ring (R442) -/

theorem drainFull_congr {s t : State} (h : t.regs = s.regs) : drainFull t = drainFull s := by
  unfold drainFull drainSize regF reg
  rw [h]

/-- DRAIN_TAIL is stored, and the stall ends unless the ring is still full. -/
theorem wrDrainTail_spec {s : State} (canonical : s.Canonical) (v : Word) :
    Regs s (wrDrainTail s v) [(rDrainTail, putFld (reg s rDrainTail) 0 32 (fld v 0 32))] ∧
      (wrDrainTail s v).log.stalled = (s.log.stalled && drainFull (wrDrainTail s v)) ∧
      wrDrainTail s v = { s with regs := (wrDrainTail s v).regs,
                                 log := { s.log with stalled := (wrDrainTail s v).log.stalled } } := by
  obtain ⟨x, hx⟩ : ∃ x, setF s rDrainTail 0 32 (fld v 0 32) = x := ⟨_, rfl⟩
  have stored : RegsTo s x [(rDrainTail, putFld (reg s rDrainTail) 0 32 (fld v 0 32))] :=
    hx ▸ (RegsTo.refl canonical).setF rfl 0 32 _
  have frame := stored.frame
  have log : x.log = s.log := by rw [frame]
  unfold wrDrainTail
  rw [hx]
  dsimp only
  cases full : drainFull x with
  | true =>
    simp only [if_true, full, Bool.and_true]
    exact ⟨stored.listed, by rw [log], by rw [frame]⟩
  | false =>
    have still : drainFull { x with log := { x.log with stalled := false } } = false := by
      rw [← full]
      exact drainFull_congr rfl
    simp only [Bool.false_eq_true, if_false, still, Bool.and_false]
    refine ⟨stored.listed, trivial, ?_⟩
    rw [log, frame]

/-! ### The commands -/

/-- The writes of RD_SEL, TAIL and DRAIN_TAIL. -/
theorem logRegisterWrites : Claims.LogRegisterWrites := by
  intro m v s canonical
  have fits : fld v 0 32 < 2 ^ 32 := fld_lt
  refine ⟨fun served => ?select, fun served => ?tail, fun served => ?drain⟩
  case select =>
    obtain ⟨sel, words⟩ := wrRdSel_shows canonical v
    have select : regF (wrRdSel s v) rLogRdSel 0 32 = fld v 0 32 ∧
        regB (wrRdSel s v) rLogRdSel 32 = (heldEntry s (fld v 0 32)).isSome := by
      rw [regF, regB, sel]
      exact ⟨fld_selWord fits _, bitOf_selWord fits _⟩
    refine ⟨wrRdSel s v, does_of_effect (congrArg (effect s) (gated_served served)), (wrRdSel_regs canonical v).frame,
      fun e some_back in_ring entry => ?_, fun none_back => ?_⟩
    · have held : heldEntry s (fld v 0 32) = some e := (if_pos ⟨some_back, in_ring⟩).trans entry
      rw [held] at select words
      exact ⟨select.1, select.2, fun j below => (words j below).trans (shownWord_some e j)⟩
    · have held : heldEntry s (fld v 0 32) = none := if_neg (by omega)
      rw [held] at select words
      exact ⟨select.2, fun j below => (words j below).trans (shownWord_none j)⟩
  case tail =>
    exact ((RegsTo.refl canonical).setF rfl 0 32 _).sets (congrArg (effect s) (gated_served served))
  case drain =>
    exact ⟨wrDrainTail s v, does_of_effect (congrArg (effect s) (gated_served served)), wrDrainTail_spec canonical v⟩

theorem clearNd_eq (s : State) : clearNd s = setReg (setReg (setReg (setReg (setReg (setReg s rNdCount 0) rNdRoute 0)
    rNdMutex 0) rNdDrbg 0) rNdRetry 0) rNdPage 0 := by
  rfl

/-- The six counters stand in the list in the order opposite to that in which they are cleared. -/
theorem clearNd_regs {s : State} (canonical : s.Canonical) :
    RegsTo s (clearNd s) [(rNdPage, 0), (rNdRetry, 0), (rNdDrbg, 0), (rNdMutex, 0), (rNdRoute, 0), (rNdCount, 0)] := by
  rw [clearNd_eq]
  exact ((((((RegsTo.refl canonical).setReg _ _).setReg _ _).setReg _ _).setReg _ _).setReg _ _).setReg _ _

/-- ND_CLR and MISS_CLR. -/
theorem countersAreCleared : Claims.CountersAreCleared := by
  intro m s canonical served
  refine ⟨?nd, ?miss⟩
  case nd =>
    have cleared := clearNd_regs canonical
    refine ⟨clearNd s, does_of_effect (congrArg (effect s) (gated_served served)), fun o => ?_, cleared.frame⟩
    rw [cleared.listed o]
    simp only [after]
    split_ifs <;> rfl
  case miss => exact ((RegsTo.refl canonical).setReg _ _).sets (congrArg (effect s) (gated_served served))

/-- Settles O30. -/
theorem logAndCounterRegisters : Obligations.LogAndCounterRegisters := ⟨logRegisterWrites, countersAreCleared⟩

end Sys2Proof.Proofs
end

section
/-! SUPPORT. Acceptance (R46–R51, R90, R94): which frond is taken and on which beat, and what its acceptance does. -/

namespace Sys2Proof.Proofs
open Sys2Proof Sys2Proof.Machine Sys2Proof.Claims

/-! ### The frond that is taken (R46) -/

/-- The turn of one queue, as `pickFrond` takes the queues. -/
def pickTurn (r : Nat) (p : Option Frond × State) (q : Nat) : Option Frond × State :=
  if p.1.isSome || regB p.2 (rPstat r) q then p
  else
    match candidate p.2 r q with
    | none => p
    | some f =>
      if !mayAccept p.2 f then p
      else if f.abort || f.skip.isSome || (activityOf p.2 f).isNone then (some f, p.2)
      else
        let s1 := askActivity p.2 f
        if activityRuns s1 f then (some f, s1) else (none, s1)

theorem pickFrond_eq (s : State) (r : Nat) : pickFrond s r = (List.range 4).foldl (pickTurn r) (none, s) := rfl

section
variable {s : State} {r : Nat}

theorem pickTurn_passes {q : Nat} (h : regB s (rPstat r) q = true ∨ ∀ g, candidate s r q = some g → mayAccept s g = false) :
    pickTurn r (none, s) q = (none, s) := by
  unfold pickTurn
  rcases h with suspended | waits
  · simp [suspended]
  · dsimp only
    split
    · rfl
    · split
      · rfl
      · rename_i f found
        simp [waits f found]

theorem pickTurn_takes {q : Nat} {f : Frond} (found : candidate s r q = some f) (runs : regB s (rPstat r) q = false)
    (may : mayAccept s f = true) (free : f.abort = true ∨ f.skip ≠ none ∨ activityOf s f = none) :
    pickTurn r (none, s) q = (some f, s) := by
  have alone : (f.abort || f.skip.isSome || (activityOf s f).isNone) = true := by
    simpa [Option.isSome_iff_ne_none, or_assoc] using free
  unfold pickTurn
  simp [runs, found, may, alone]

theorem foldl_pickTurn_taken (f : Frond) (l : List Nat) : l.foldl (pickTurn r) (some f, s) = (some f, s) := by
  induction l with
  | nil => rfl
  | cons q l ih => exact ih

theorem foldl_pickTurn_passes {l : List Nat}
    (h : ∀ p ∈ l, regB s (rPstat r) p = true ∨ ∀ g, candidate s r p = some g → mayAccept s g = false) :
    l.foldl (pickTurn r) (none, s) = (none, s) := by
  induction l with
  | nil => rfl
  | cons p l ih =>
    rw [List.foldl_cons, pickTurn_passes (h p (by simp))]
    exact ih (fun p' hp' => h p' (by simp [hp']))

/-- The first queue in priority order with a frond that may be accepted gives it. -/
theorem pickFrond_first {q : Fin 4} {f : Frond} (found : candidate s r q = some f) (runs : regB s (rPstat r) q = false)
    (may : mayAccept s f = true) (free : f.abort = true ∨ f.skip ≠ none ∨ activityOf s f = none)
    (passed : ∀ p < q.val, regB s (rPstat r) p = true ∨ ∀ g, candidate s r p = some g → mayAccept s g = false) :
    pickFrond s r = (some f, s) := by
  have queues : ∀ q : Fin 4, List.range 4 = List.range q ++ q.val :: List.range' (q + 1) (3 - q) := by decide
  rw [pickFrond_eq, queues q, List.foldl_append, foldl_pickTurn_passes (fun p hp => passed p (List.mem_range.mp hp)),
    List.foldl_cons, pickTurn_takes found runs may free, foldl_pickTurn_taken]

/-! ### The beat of acceptance -/

theorem isWorkAt_acceptBeat (f : Frond) : isWorkAt (level s) (acceptBeat s f) = true := by
  unfold acceptBeat
  dsimp only
  split <;> exact isWorkAt_workFrom s _

theorem le_acceptBeat (f : Frond) : beat s ≤ acceptBeat s f := by
  unfold acceptBeat
  dsimp only
  have first := le_workFrom s (max (beat s) ((Option.map (· + 1) (aget s.lastAccept f.region)).getD 0))
  have next := le_workFrom s (workFrom s (max (beat s) ((Option.map (· + 1) (aget s.lastAccept f.region)).getD 0)) + 1)
  split <;> omega

theorem acceptStep_idle (h : seqStopped s r = true ∨ s.maint.isolated.contains r = true ∨ fenced s = true ∨
    regB s rMemcfg 63 = false) : acceptStep s r = s := if_pos (by simpa [or_assoc] using h)

theorem acceptStep_takes {f : Frond} (going : seqStopped s r = false) (within : s.maint.isolated.contains r = false)
    (open_ : fenced s = false) (locked : regB s rMemcfg 63 = true) (picked : pickFrond s r = (some f, s)) :
    acceptStep s r = acceptOne (advanceTo s (acceptBeat s f)) f := by
  have guard : ¬ (seqStopped s r || s.maint.isolated.contains r || fenced s || !regB s rMemcfg 63) = true := by
    rw [going, within, open_, locked]
    decide
  rw [acceptStep, if_neg guard, picked]

end

/-! ### Fronds that are finished as they are accepted (R90, R94) -/

section
variable {s : State} {f : Frond}

/-- No maintenance runs or waits. -/
def Quiet (s : State) : Prop := s.maint.running = [] ∧ s.maint.queued = []

theorem endActivity_quiet (quiet : Quiet s) (f : Frond) : endActivity s f = s := by
  obtain ⟨running, queued⟩ := quiet
  unfold endActivity
  simp [running, queued]

theorem logEntry_quiet (quiet : Quiet s) (e : LogEntry) : Quiet (logEntry s e) := by
  rw [logEntry_eq]
  exact quiet

theorem discardAhead_none (h : f.pre = []) : discardAhead s f = s := by
  simp [discardAhead, h]

/-- The frond finished with no data moved. -/
def finishedAt (f : Frond) (b prom : Nat) : Frond := { f with noWork := true, phase := .finished, prom := prom, ended := b }

theorem noData_eq {b : Nat} (h : f.pre = []) (acc : f.acc = b) (prom : Nat) : noData f prom = finishedAt f b prom := by
  rw [noData, ← h, ← acc, finishedAt]

theorem logFrond_eq (s : State) (f : Frond) (code pay : Nat) : logFrond s f code pay = logEntry s (frondEvent s f code pay) := rfl

theorem skipAt_eq {b : Nat} (quiet : Quiet s) (pre : f.pre = []) (acc : f.acc = b) {x : Status} (h : x ≠ .skipOverlap) :
    skipAt s f x 0 = putFrond (logEntry s (frondEvent s f 0x1001 (payDefault (opcodeOf f) (statusCode x) 0)))
      { finishedAt f b (b + 4) with skip := some x } := by
  have plain : (x == .skipOverlap) = false := by simpa using h
  unfold skipAt
  simp only [plain, Bool.false_and, Bool.false_eq_true, if_true, if_false]
  rw [logFrond_eq, endActivity_quiet (logEntry_quiet quiet _), discardAhead_none pre, noData_eq pre acc, acc]

/-- A status that the frond already has need not be set. -/
theorem finishedAt_skip {x : Status} (h : f.skip = some x) (b prom : Nat) :
    { finishedAt f b prom with skip := some x } = finishedAt f b prom := by
  rw [← h, finishedAt]

theorem refuseAt_eq {b : Nat} (quiet : Quiet s) (pre : f.pre = []) (acc : f.acc = b) (prom : Nat) :
    refuseAt s f prom = putFrond (logEntry s (frondEvent s f 0x1021 (payDefault (opcodeOf f) 0x20 0)))
      { finishedAt f b prom with skip := some .notAccepted } := by
  unfold refuseAt
  dsimp only
  rw [logFrond_eq, endActivity_quiet (logEntry_quiet quiet _), discardAhead_none pre, noData_eq pre acc, statusCode]

end

/-! ### Acceptance on the present beat -/

theorem consumeWaits_eq (s : State) (f : Frond) : consumeWaits s f = { s with regs := (consumeWaits s f).regs } := by
  unfold consumeWaits
  exact foldl_keeps (P := fun x : State => x = { s with regs := x.regs }) (fun x a h => by rw [setF, setReg, h]) rfl

section
variable {u : State} {f : Frond}

theorem acceptOne_aborted {b : Nat} (quiet : Quiet u) (now : beat u = b) (pre : f.pre = []) (abort : f.abort = true) :
    acceptOne u f = putFrond (inOrder u f) (finishedAt (placed u f) b (b + 4)) := by
  have waiting : Quiet (inOrder u f) := quiet
  have none_ahead : (placed u f).pre = [] := pre
  have meaning : acceptOne u f = putFrond (discardAhead (endActivity (inOrder u f) (placed u f)) (placed u f))
      (noData (placed u f) ((placed u f).acc + 4)) := if_pos abort
  have acc : (placed u f).acc = b := now
  rw [meaning, endActivity_quiet waiting, discardAhead_none none_ahead, noData_eq none_ahead acc, acc]

/-- The state in which the waits of the frond have been subtracted. -/
def waited (u : State) (f : Frond) : State := consumeWaits (inOrder u f) (placed u f)

theorem waited_quiet (quiet : Quiet u) : Quiet (waited u f) := by
  rw [waited, consumeWaits_eq]
  exact quiet

theorem acceptOne_going (abort : f.abort = false) : acceptOne u f =
    match (placed u f).skip, specOf (waited u f) (placed u f) with
    | some x, _ => skipAt (waited u f) (placed u f) x 0
    | none, some p => judge (waited u f) (placed u f) p
    | none, none => skipAt (waited u f) (placed u f) .skipIllegal 0 := by
  have going : ¬ (ordered u f).1.abort = true := by
    rw [show (ordered u f).1.abort = f.abort from rfl, abort]
    decide
  exact if_neg going

theorem acceptOne_skipped {x : Status} (abort : f.abort = false) (skip : f.skip = some x) :
    acceptOne u f = skipAt (waited u f) (placed u f) x 0 := by
  rw [acceptOne_going abort, show (placed u f).skip = some x from skip]

theorem acceptOne_judged {p : OpSpec} (abort : f.abort = false) (skip : f.skip = none)
    (spec : specOf (waited u f) (placed u f) = some p) : acceptOne u f = judge (waited u f) (placed u f) p := by
  rw [acceptOne_going abort, show (placed u f).skip = none from skip, spec]

end

/-! ### The checks, the issue bound and the promise (R46–R51) -/

section
variable {w : State} {g : Frond} {p : OpSpec}

/-- The frond with its channels. -/
def channelled (w : State) (g : Frond) (p : OpSpec) : Frond := { g with chans := (assignChannels w g p).getD [] }

/-- The engines that a frond uses: its opcode's and its channels (R48). -/
def enginesOf (w : State) (g : Frond) (p : OpSpec) : List Nat :=
  p.engines ++ (channelled w g p).chans.map (fun c => g.region * 64 + 17 + c.2)

theorem judge_fails {x : Status} {code : Nat} (h : acceptCheck w g p = some (x, code)) : judge w g p = skipAt w g x code := by
  rw [judge, h]

theorem judge_passes (h : acceptCheck w g p = none) (work : p.noop = false) : judge w g p =
    (let bound := issueBound w (enginesOf w g p) g.acc
     let prom := promiseOf w (channelled w g p) p bound
     if refused w (channelled w g p) p prom then refuseAt w g prom
     else admitFrond w (channelled w g p) p (enginesOf w g p) bound prom) := by
  rw [judge, h]
  exact if_neg (by simp [work])

theorem forRange_eq_foldl {α : Type} (f : Nat → α → α) (n lo : Nat) (a : α) :
    forRange lo n f a = (List.range' lo n).foldl (fun x i => f i x) a := by
  induction n generalizing lo a with
  | zero => rfl
  | succ n ih => rw [forRange, ih, List.range'_succ, List.foldl_cons]

/-- The promise is the issue bound and the time of every repetition. -/
theorem promiseOf_eq (w : State) (h : Frond) (p : OpSpec) (i : Nat) : promiseOf w h p i =
    i + (List.range (repeatOf h + 1)).foldl (fun a k =>
      a + repTime w h p (if deadlineEn h && decide (level w < 8) && regB w rBeatCtrl 0 then level w else 8) k) 0 := by
  rw [promiseOf, forRange_eq_foldl, List.range_eq_range']

end

/-! ### A frond that goes to work -/

theorem aget_aset_same {β : Type} (m : List (Nat × β)) (k : Nat) (v : β) : aget (aset m k v) k = some v := by
  induction m with
  | nil => simp [aset, aget]
  | cons x m ih =>
    obtain ⟨a, w⟩ := x
    unfold aset
    split
    · simp [aget]
    · split
      · simp [aget]
      · simp only [aget, ih]
        split <;> simp_all

theorem aget_aset_apart {β : Type} (m : List (Nat × β)) {k j : Nat} (v : β) (d : j ≠ k) : aget (aset m k v) j = aget m j := by
  induction m with
  | nil => simp [aset, aget, d]
  | cons x m ih =>
    obtain ⟨a, w⟩ := x
    unfold aset
    split
    · simp [aget, d]
    · split
      · subst k
        simp [aget, d]
      · simp only [aget, ih]

/-- Every engine of a list has the value that was set for all of them. -/
theorem agetN_foldl_aset {es : List Nat} {v e : Nat} (h : List (Nat × Nat)) (here : e ∈ es ∨ agetN h e = v) :
    agetN (es.foldl (fun m x => aset m x v) h) e = v := by
  induction es generalizing h with
  | nil => simpa using here
  | cons x es ih =>
    apply ih
    by_cases same : e = x
    · right
      rw [agetN, same, aget_aset_same, Option.getD_some]
    · rcases here with member | held
      · exact Or.inl (by simpa [same] using member)
      · right
        rw [agetN, aget_aset_apart _ _ same]
        exact held

/-- What naming tiles and projecting shapes leaves: the horizons, and the arming of the module. -/
structure KeepsHorizons (s0 t : State) : Prop where
  horizons : t.horizons = s0.horizons
  failCtrl : reg t rFailCtrl = reg s0 rFailCtrl
  wf : mwf regReset t.regs = true

section
variable {s0 s : State} (h : KeepsHorizons s0 s)
include h

/-- A change of anything else keeps them. -/
theorem KeepsHorizons.congr {t : State} (horizons : t.horizons = s.horizons) (regs : t.regs = s.regs) :
    KeepsHorizons s0 t :=
  ⟨horizons.trans h.horizons, by rw [reg, regs]; exact h.failCtrl, by rw [regs]; exact h.wf⟩

theorem nameTile_keepsHorizons {k : Nat} {source : Bool} : KeepsHorizons s0 (nameTile s k source) := by
  unfold nameTile
  refine forRange_keeps (fun c x kept => ?_) h
  dsimp only
  cases source with
  | false => exact ⟨kept.horizons, kept.failCtrl, kept.wf⟩
  | true =>
    have apart (o : Nat) : rFailCtrl ≠ rVb (k / 64 / 4) (k / 64 % 4) o := by
      unfold rFailCtrl rVb
      omega
    refine ⟨kept.horizons, Eq.trans ?_ kept.failCtrl, bump_regs_wf kept.wf⟩
    exact (reg_bump kept.wf).trans (if_neg (apart _))

theorem nameTiles_keepsHorizons {l : List Nat} {source : Bool} :
    KeepsHorizons s0 (l.foldl (fun x k => nameTile x k source) s) :=
  foldl_keeps (fun _ _ kept => nameTile_keepsHorizons kept) h

theorem projectShapes_keepsHorizons {f : Frond} : KeepsHorizons s0 (projectShapes s f) := by
  unfold projectShapes
  dsimp only
  split
  · exact h.congr rfl rfl
  · split
    · split
      · exact h.congr rfl rfl
      · exact h.congr rfl rfl
    · exact h

end

theorem noteTensors_unarmed {s : State} (unarmed : armed s = false) (l : List (Nat × Nat)) : noteTensors s l = s :=
  if_pos (by simp [unarmed])

theorem mem_putFrond {s : State} {f y : Frond} (member : y ∈ (putFrond s f).fronds)
    (named : y.is f.region f.queue f.idx = true) : y = f := by
  obtain ⟨x, -, rfl⟩ := List.mem_map.mp member
  by_cases same : x.is f.region f.queue f.idx
  · exact if_pos same
  · rw [if_neg same] at named
    exact absurd named same

/-- The horizons of a frond that goes to work (R48). -/
def horizonsSet (s : State) (f : Frond) (es : List Nat) (prom : Nat) : State :=
  if noHorizon f then s else { s with horizons := (es.filter keepsHorizon).foldl (fun h e => aset h e prom) s.horizons }

theorem horizonsSet_keeps {s : State} (wf : mwf regReset s.regs = true) (f : Frond) (es : List Nat) (prom : Nat) :
    reg (horizonsSet s f es prom) rFailCtrl = reg s rFailCtrl ∧ mwf regReset (horizonsSet s f es prom).regs = true := by
  unfold horizonsSet
  split
  · exact ⟨rfl, wf⟩
  · exact ⟨rfl, wf⟩

section
variable {s : State} {h : Frond} {p : OpSpec} {es : List Nat} {i prom : Nat}

/-- The frond at work. -/
def atWorkNow (s : State) (h : Frond) (p : OpSpec) (es : List Nat) (i prom : Nat) : Frond :=
  let u := p.units s (shapesAhead s)
  { h with phase := .working, issue := i, prom := prom, engines := es, units := u, group := unitShift u 64 }

/-- The state in which a frond that goes to work has set its horizons, named its tiles and left its shapes. -/
def tilesNamed (s : State) (h : Frond) (p : OpSpec) (es : List Nat) (prom : Nat) : State :=
  projectShapes (p.dtiles.foldl (fun x k => nameTile x k false)
    (p.stiles.foldl (fun x k => nameTile x k true) (horizonsSet s h es prom))) h

/-- A reduction of a protected group is kept for replay. -/
def replayNoted (s : State) (h g : Frond) : State :=
  if protectedColl s h then { s with fail := { s.fail with replay := s.fail.replay ++ [g] } } else s

theorem admitFrond_eq : admitFrond s h p es i prom =
    putFrond (replayNoted (noteTensors (tilesNamed s h p es prom) (destExtents (tilesNamed s h p es prom) h p)) h
      (atWorkNow s h p es i prom)) (atWorkNow s h p es i prom) := rfl

theorem tilesNamed_keepsHorizons (wf : mwf regReset s.regs = true) :
    KeepsHorizons (horizonsSet s h es prom) (tilesNamed s h p es prom) :=
  projectShapes_keepsHorizons (nameTiles_keepsHorizons (nameTiles_keepsHorizons
    ⟨rfl, rfl, (horizonsSet_keeps wf h es prom).2⟩))

theorem tilesNamed_unarmed (wf : mwf regReset s.regs = true) (unarmed : armed s = false) :
    armed (tilesNamed s h p es prom) = false :=
  (regB_congr ((tilesNamed_keepsHorizons wf).failCtrl.trans (horizonsSet_keeps wf h es prom).1)).trans unarmed

theorem putFrond_replayNoted_horizons (s : State) (f g : Frond) :
    (putFrond (replayNoted s f g) g).horizons = s.horizons := by
  unfold replayNoted
  split <;> rfl

/-- The module not being armed, acceptance sets the horizons and puts the frond to work. -/
theorem admitFrond_works (wf : mwf regReset s.regs = true) (unarmed : armed s = false) :
    (admitFrond s h p es i prom).horizons = (horizonsSet s h es prom).horizons ∧
      ∀ y ∈ (admitFrond s h p es i prom).fronds, y.is h.region h.queue h.idx = true → y = atWorkNow s h p es i prom := by
  refine ⟨?_, fun y member named => ?_⟩
  · rw [admitFrond_eq, putFrond_replayNoted_horizons, noteTensors_unarmed (tilesNamed_unarmed wf unarmed)]
    exact (tilesNamed_keepsHorizons wf).horizons
  · rw [admitFrond_eq] at member
    exact mem_putFrond member named

end

/-! ### The command -/

section
variable {s u : State} {r : Fin 8} {f : Frond} {b : Nat}

theorem advanceTo_quiet (quiet : Quiet s) (b : Nat) : Quiet (advanceTo s b) := by
  rw [advanceTo_eq]
  exact quiet

theorem waited_canon (canonical : u.Canonical) : (waited u f).Canonical :=
  consumeWaits_canon (congr_canon canonical rfl rfl rfl rfl rfl rfl)

theorem waited_keepsMem (kept : KeepsMem s u) : KeepsMem s (waited u f) :=
  consumeWaits_keepsMem ⟨kept.mem, kept.tiles⟩

/-- A frond that fails a check, on acceptance or before it, takes the check's status with A + 4. -/
theorem skipAt_placed (quiet : Quiet u) (now : beat u = b) (pre : f.pre = []) {x : Status} (apart : x ≠ .skipOverlap) :
    skipAt (waited u f) (placed u f) x 0 =
      putFrond (logEntry (waited u f) (frondEvent (waited u f) (placed u f) 0x1001 (payDefault (opcodeOf f) (statusCode x) 0)))
        { finishedAt (placed u f) b (b + 4) with skip := some x } :=
  skipAt_eq (f := placed u f) (waited_quiet quiet) pre now apart

end

/-- A frond whose checks pass and whose promise is refused, or is not. -/
theorem judge_placed {u : State} {f : Frond} {p : OpSpec} {b : Nat} (now : beat u = b)
    (passes : acceptCheck (waited u f) (placed u f) p = none) (work : p.noop = false) :
    let w := waited u f
    let h := channelled w (placed u f) p
    let bound := ((enginesOf w (placed u f) p).filter keepsHorizon).foldl (fun m e => max m (agetN w.horizons e)) (b + 1)
    let prom := bound + (List.range (repeatOf f + 1)).foldl (fun a k =>
      a + repTime w h p (if deadlineEn f && decide (level w < 8) && regB w rBeatCtrl 0 then level w else 8) k) 0
    judge w (placed u f) p =
      if refused w h p prom then refuseAt w (placed u f) prom
      else admitFrond w h p (enginesOf w (placed u f) p) bound prom := by
  intro w h bound prom
  have issue : issueBound w (enginesOf w (placed u f) p) (placed u f).acc = bound := by
    rw [issueBound, show (placed u f).acc = b from now]
  have promise : promiseOf w h p bound = prom := promiseOf_eq w h p bound
  rw [judge_passes passes work]
  dsimp only
  rw [issue, promise]

/-- Settles O41: the queues in order, then the outcome of the frond that is taken. -/
theorem frondsAreAccepted : Obligations.FrondsAreAccepted := by
  intro r s canonical
  refine ⟨fun stopped => does_of_effect (congrArg (effect s) (acceptStep_idle stopped)), ?_⟩
  intro q f going within unfenced locked running queued pre found runs may free passed b u g v w fits
  have taken : acceptStep s r = acceptOne u f :=
    acceptStep_takes going within unfenced locked (pickFrond_first found runs may free passed)
  have does {t : State} (outcome : acceptOne u f = t) : Does (.frondAccept r) s t :=
    does_of_effect (congrArg (effect s) (taken.trans outcome))
  have now : beat u = b := (beat_advanceTo canonical.regs fits).trans (max_eq_right (le_acceptBeat f))
  have quiet : Quiet u := advanceTo_quiet ⟨running, queued⟩ b
  have later : u.Canonical := advanceTo_canon canonical
  have none_ahead : g.pre = [] := pre
  refine ⟨now, isWorkAt_acceptBeat f, fun abort => does (acceptOne_aborted quiet now pre abort),
    fun noAbort x skip apart => does ?skipped, fun noAbort sound p spec => ⟨fun x fails apart => does ?fails,
      fun passes work => ?passes⟩⟩
  case skipped =>
    have kept : { finishedAt g b (b + 4) with skip := some x } = finishedAt g b (b + 4) :=
      finishedAt_skip (f := g) skip b (b + 4)
    exact (acceptOne_skipped noAbort skip).trans ((skipAt_placed quiet now pre apart).trans (congrArg (putFrond _) kept))
  case fails =>
    exact (acceptOne_judged noAbort sound spec).trans ((judge_fails fails).trans (skipAt_placed quiet now pre apart))
  case passes =>
    intro h es bound prom
    have judged : acceptOne u f = if refused w h p prom then refuseAt w g prom else admitFrond w h p es bound prom :=
      (acceptOne_judged noAbort sound spec).trans (judge_placed now passes work)
    refine ⟨fun isRefused => does ?refused, fun accepted unarmed => ?accepted⟩
    case refused =>
      exact (judged.trans (if_pos isRefused)).trans (refuseAt_eq (f := g) (waited_quiet quiet) none_ahead now prom)
    case accepted =>
      have wf : mwf regReset w.regs = true := (waited_canon later (f := f)).regs
      obtain ⟨horizons, fronds⟩ := admitFrond_works (h := h) (p := p) (es := es) (i := bound) (prom := prom) wf unarmed
      have memory : KeepsMem s (admitFrond w h p es bound prom) :=
        admitFrond_keepsMem (waited_keepsMem (advanceTo_keepsMem KeepsMem.rfl))
      have order : u.accepted = s.accepted := by rw [show u = advanceTo s b from rfl, advanceTo_eq]
      refine ⟨admitFrond w h p es bound prom, does (judged.trans (if_neg (by simp [accepted]))), fun y member named => ?_,
        fun sets e member keeps => ?_, memory.mem, memory.tiles⟩
      · rw [fronds y member named]
        exact ⟨rfl, now, congrArg (· + 1) order, rfl, rfl, rfl, rfl, rfl, rfl, sound⟩
      · have works : ¬ noHorizon h = true := by
          rw [show noHorizon h = noHorizon f from rfl, sets]
          decide
        rw [horizons, horizonsSet, if_neg works]
        exact agetN_foldl_aset _ (Or.inl (List.mem_filter.mpr ⟨member, keeps⟩))

end Sys2Proof.Proofs
end

section
/-! SUPPORT. What a release leaves of the registers of the queues and of the tokens (R52–R56, R91): the miss, the poison of
the destinations, the tiles and engines of the frond. -/

namespace Sys2Proof.Proofs
open Sys2Proof Sys2Proof.Machine Sys2Proof.Claims

/-! ### Registers that are kept -/

/-- The registers of a set, the heads that ran ahead and the images are in `t` what they are in `s0`. -/
structure Keeps (W : Nat → Prop) (s0 t : State) : Prop where
  ahead : t.ahead = s0.ahead
  images : t.images = s0.images
  regs : ∀ o, W o → reg t o = reg s0 o
  wf : mwf regReset t.regs = true

section
variable {W : Nat → Prop} {s0 s t : State}

theorem Keeps.refl (wf : mwf regReset s.regs = true) : Keeps W s s := ⟨rfl, rfl, fun _ _ => rfl, wf⟩

theorem Keeps.trans (h : Keeps W s0 s) (h' : Keeps W s t) : Keeps W s0 t :=
  ⟨h'.ahead.trans h.ahead, h'.images.trans h.images, fun o ho => (h'.regs o ho).trans (h.regs o ho), h'.wf⟩

theorem Keeps.mono {V : Nat → Prop} (h : Keeps W s0 s) (within : ∀ o, V o → W o) : Keeps V s0 s :=
  ⟨h.ahead, h.images, fun o ho => h.regs o (within o ho), h.wf⟩

/-- A change of anything else keeps them. -/
theorem Keeps.congr (h : Keeps W s0 s) (ahead : t.ahead = s.ahead) (images : t.images = s.images) (regs : t.regs = s.regs) :
    Keeps W s0 t :=
  ⟨ahead.trans h.ahead, images.trans h.images, fun o ho => by rw [reg, regs]; exact h.regs o ho, by rw [regs]; exact h.wf⟩

theorem Keeps.setReg (h : Keeps W s0 s) {o : Nat} (free : ¬ W o) (v : Word) : Keeps W s0 (setReg s o v) where
  ahead := h.ahead
  images := h.images
  regs o' ho' := by
    rw [reg_setReg_apart h.wf (fun same : o' = o => free (same ▸ ho'))]
    exact h.regs o' ho'
  wf := setReg_regs_wf h.wf

theorem Keeps.setF (h : Keeps W s0 s) {o : Nat} (free : ¬ W o) (lo n v : Nat) : Keeps W s0 (setF s o lo n v) :=
  h.setReg free _

theorem Keeps.setB (h : Keeps W s0 s) {o : Nat} (free : ¬ W o) (i : Nat) (b : Bool) : Keeps W s0 (setB s o i b) :=
  h.setReg free _

theorem Keeps.bump (h : Keeps W s0 s) {o : Nat} (free : ¬ W o) (k : Nat) : Keeps W s0 (bump s o k) :=
  h.setReg free _

theorem Keeps.logEntry (h : Keeps W s0 s) (free : ¬ W rLogDrop) (e : LogEntry) : Keeps W s0 (logEntry s e) where
  ahead := by rw [logEntry_eq]; exact h.ahead
  images := by rw [logEntry_eq]; exact h.images
  regs o ho := by
    rw [reg_logEntry h.wf (fun same => free (same ▸ ho))]
    exact h.regs o ho
  wf := logEntry_regs_wf h.wf

theorem Keeps.raiseIrq (h : Keeps W s0 s) (free : ¬ W (rIrqPend 0)) (free' : ¬ W (rIrqPend 1)) (src : Nat) :
    Keeps W s0 (raiseIrq s src) where
  ahead := by rw [raiseIrq_eq]; exact h.ahead
  images := by rw [raiseIrq_eq]; exact h.images
  regs o ho := by
    rw [reg_raiseIrq h.wf (fun same => free (same ▸ ho)) (fun same => free' (same ▸ ho))]
    exact h.regs o ho
  wf := raiseIrq_regs_wf h.wf

end

/-! ### The registers of the beat, the tokens and the sequencers -/

/-- BEAT.COUNT, the global tokens, and the sequencers' blocks. -/
def Watched (o : Nat) : Prop := o = rBeatCount ∨ (0x2000 ≤ o ∧ o < 0x4000) ∨ (0x1000000 ≤ o ∧ o % 0x200000 < 0x10000)

theorem logDrop_free : ¬ Watched rLogDrop := by unfold Watched; decide

theorem missCnt_free : ¬ Watched rMissCnt := by unfold Watched; decide

theorem irqPend_free {p : Nat} (h : p < 2) : ¬ Watched (rIrqPend p) := by
  unfold Watched rIrqPend rBeatCount
  omega

theorem rMat_free {r o : Nat} (h : o < 0x10000) : ¬ Watched (rMat r o) := by
  unfold Watched rMat rBeatCount
  omega

theorem rTow_free {t o : Nat} (h : t < 8) (h' : o < 0x10000) : ¬ Watched (rTow t o) := by
  unfold Watched rTow rBeatCount
  omega

theorem rPeri_free {r o : Nat} (h : o < 0x10000) : ¬ Watched (rPeri r o) := by
  unfold Watched rPeri rBeatCount
  omega

theorem rVb_free {r v o : Nat} (h : v < 4) (h' : o < 0x10000) : ¬ Watched (rVb r v o) := by
  unfold Watched rVb rBeatCount
  omega

theorem rTileStatOf_free (k : Nat) : ¬ Watched (rTileStatOf k) := rVb_free (by omega) (by omega)

/-- The STAT registers of the engines that there are. -/
theorem statReg_free {e o : Nat} (h : e < 512) (stat : statReg e = some o) : ¬ Watched o := by
  unfold statReg at stat
  dsimp only at stat
  split_ifs at stat <;> simp only [Option.some.injEq] at stat <;> subst stat <;>
    simp only [Watched, rMb, rVb, rPb, rPeri, rCpy, rTow, rChstat, rStrm, rBeatCount] <;> omega

/-! ### Poison (R91, R161, R170) -/

/-- The HBM range ends at 384 GiB, by whichever window an address reaches it. -/
theorem resolve_hbm_lt {s : State} {a h : Nat} (target : resolve s a = .hbm h) : h < 0x6000000000 := by
  have size : localGib s < 64 := fld_lt
  unfold resolve localBase gib at target
  dsimp only at target
  split_ifs at target <;> simp only [Target.hbm.injEq] at target
  case pos low => omega
  case pos high room =>
    have tower : (a - 0xC000000000) / 0x800000000 < 8 := by omega
    generalize (a - 0xC000000000) / 0x800000000 = t at tower target
    generalize localGib s = l at *
    interval_cases t <;> omega

/-- The granules of the HBM range are those of eight towers. -/
theorem granuleOf_lt (s : State) {a : Nat} (h : a < 0x6000000000) : granuleOf s a < 8 * 2 ^ 24 := by
  have size : localGib s < 64 := fld_lt
  unfold granuleOf towerOf interleavedEnd gib
  split
  case isTrue =>
    dsimp only
    rw [Nat.shiftLeft_eq, Nat.shiftRight_eq_div_pow, Nat.shiftRight_eq_div_pow]
    omega
  case isFalse beyond =>
    dsimp only
    generalize localGib s = l at *
    have some_local : 0 < l * 2 ^ 30 := by omega
    have tower : (a - 8 * (48 - l) * 2 ^ 30) / (l * 2 ^ 30) < 8 := Nat.div_lt_of_lt_mul (by omega)
    have place : (a - 8 * (48 - l) * 2 ^ 30) % (l * 2 ^ 30) < l * 2 ^ 30 := Nat.mod_lt _ some_local
    omega

section
variable {s0 s : State} (h : Keeps Watched s0 s)
include h

theorem poisonLine_keeps (l : Nat) : Keeps Watched s0 (poisonLine s l) := by
  unfold poisonLine
  split
  · exact h
  · exact (h.congr (t := { s with matPoison := sins s.matPoison l }) rfl rfl rfl).setF (rMat_free (by omega)) _ _ _

theorem clearLine_keeps (l : Nat) : Keeps Watched s0 (clearLine s l) := by
  unfold clearLine
  split
  · exact (h.congr (t := { s with matPoison := sdel s.matPoison l }) rfl rfl rfl).setF (rMat_free (by omega)) _ _ _
  · exact h

theorem poisonGranule_keeps {g : Nat} (tower : g < 8 * 2 ^ 24) : Keeps Watched s0 (poisonGranule s g) := by
  unfold poisonGranule
  split
  · exact h
  · exact (h.congr (t := { s with towPoison := sins s.towPoison g }) rfl rfl rfl).setReg (rTow_free (by omega) (by omega)) _

theorem clearGranule_keeps {g : Nat} (tower : g < 8 * 2 ^ 24) : Keeps Watched s0 (clearGranule s g) := by
  unfold clearGranule
  split
  · exact (h.congr (t := { s with towPoison := sdel s.towPoison g }) rfl rfl rfl).setReg (rTow_free (by omega) (by omega)) _
  · exact h

theorem poisonAt_keeps (a : Nat) : Keeps Watched s0 (poisonAt s a) := by
  unfold poisonAt
  split
  case h_1 k target => exact poisonGranule_keeps h (granuleOf_lt s (resolve_hbm_lt target))
  case h_2 => exact poisonLine_keeps h _
  case h_3 => exact h

theorem poisonTile_keeps (k : Nat) (b : Bool) : Keeps Watched s0 (poisonTile s k b) := h.setB (rTileStatOf_free k) 9 b

theorem putByte_keeps (a : Nat) (v : Byte) : Keeps Watched s0 (putByte s a v) := by
  rw [putByte_eq]
  exact h.congr rfl rfl rfl

theorem poisonCtd_keeps (d : Slot) : Keeps Watched s0 (poisonCtd s d) := by
  unfold poisonCtd
  dsimp only
  split
  · exact h
  · exact putByte_keeps h _ _

theorem poisonUnit_keeps (d : Slot) (p : Int) : Keeps Watched s0 (poisonUnit s d p) := by
  unfold poisonUnit
  refine forRange_keeps (fun i x kept => ?_) h
  split
  · exact poisonAt_keeps kept _
  · exact kept

theorem poisonSlot_keeps (f : Frond) (i : Nat) : Keeps Watched s0 (poisonSlot s f i) := by
  unfold poisonSlot
  dsimp only
  split
  · exact h
  · exact forRange_keeps (fun _ _ kept => forRange_keeps (fun _ _ kept' => poisonUnit_keeps kept' _ _) kept) h

theorem poisonDests_keeps (f : Frond) (x : Status) : Keeps Watched s0 (poisonDests s f x) := by
  unfold poisonDests
  refine foldl_keeps (fun _ k kept => poisonTile_keeps kept k true) ?_
  refine foldl_keeps (fun _ _ kept => forRange_keeps (fun _ _ kept' => poisonAt_keeps kept' _) kept) ?_
  refine foldl_keeps (fun _ _ kept => poisonCtd_keeps kept _) (foldl_keeps (fun _ i kept => ?_) h)
  split
  · exact foldl_keeps (fun _ l kept' => poisonLine_keeps kept' l) kept
  · exact poisonSlot_keeps kept f i

section
variable {f : Frond} (grans : ∀ g ∈ f.wroteGrans, g < 8 * 2 ^ 24)
include grans

theorem poisonWritten_keeps : Keeps Watched s0 (poisonWritten s f) := by
  unfold poisonWritten
  split
  · exact foldl_keeps (fun _ _ kept => poisonCtd_keeps kept _) h
  · refine foldl_keeps (fun _ k kept => poisonTile_keeps kept k true) ?_
    refine List.foldlRecOn f.wroteGrans _ ?_ (fun _ kept g member => poisonGranule_keeps kept (grans g member))
    exact foldl_keeps (fun _ l kept => poisonLine_keeps kept l) h

theorem clearWhole_keeps : Keeps Watched s0 (clearWhole s f) := by
  unfold clearWhole
  refine List.foldlRecOn f.wroteGrans _ ?_ (fun x kept g member => ?_)
  · have lines := foldl_keeps (P := Keeps Watched s0) (l := f.wroteLines) (s := s) (f := fun x l =>
      if smem x.matPoison l && wroteAll x f (0x8000000000 + l * 64) 64 then clearLine x l else x) (fun x l kept => by
        split
        · exact clearLine_keeps kept l
        · exact kept) h
    split
    · exact lines
    · refine foldl_keeps (fun x k kept => ?_) lines
      split
      · exact poisonTile_keeps kept k false
      · exact kept
  · split
    · exact clearGranule_keeps kept (grans g member)
    · exact kept

theorem settlePoison_keeps : Keeps Watched s0 (settlePoison s f) := by
  unfold settlePoison
  dsimp only
  split
  · exact poisonDests_keeps h f _
  · split
    · exact poisonWritten_keeps h grans
    · split
      · exact clearWhole_keeps h grans
      · exact h

end

/-! ### The miss, the tiles and the engines -/

theorem noteMiss_keeps (f : Frond) (b : Nat) : Keeps Watched s0 (noteMiss s f b) := by
  have counted (x : State) (kept : Keeps Watched s0 x) : Keeps Watched s0 (bump x rMissCnt 1) := kept.bump missCnt_free 1
  unfold noteMiss
  dsimp only
  split
  · split
    · exact h.logEntry logDrop_free _
    · split
      · exact (counted _ (h.logEntry logDrop_free _)).raiseIrq (irqPend_free (by omega)) (irqPend_free (by omega)) 33
      · exact counted _ (h.logEntry logDrop_free _)
  · exact h

theorem countSwitch_keeps (f : Frond) : Keeps Watched s0 (countSwitch s f) := by
  unfold countSwitch
  split
  · exact h.bump (rPeri_free (by omega)) 1
  · exact h

theorem unpend_keeps (f : Frond) : Keeps Watched s0 (unpend s f) := by
  unfold unpend
  split
  · exact h
  · have cleared : Keeps Watched s0 (f.tiles.foldl (fun x k => setB x (rTileStatOf k) 8 false) s) :=
      foldl_keeps (fun _ k kept => kept.setB (rTileStatOf_free k) 8 false) h
    exact cleared.congr rfl rfl rfl

theorem noteServed_keeps {f : Frond} (engines : ∀ e ∈ f.engines, e < 512) : Keeps Watched s0 (noteServed s f) := by
  unfold noteServed
  refine List.foldlRecOn f.engines _ h (fun x kept e member => ?_)
  split
  case h_1 o stat => exact kept.setReg (statReg_free (engines e member) stat) _
  case h_2 => exact kept

theorem tileRelease_keeps (f : Frond) : Keeps Watched s0 (tileRelease s f) := by
  have block : parF f 0 0 2 < 4 := Nat.mod_lt _ (by omega)
  unfold tileRelease
  dsimp only
  split
  · have live := h.setReg (rVb_free (r := f.region) (o := 0x100) block (by omega))
      (BitVec.ofNat 64 (liveBits s f.region (parF f 0 0 2)))
    split
    · exact live
    · exact live.congr rfl rfl rfl
  · exact h

end

/-- Only the class of protection and epochs does more at its release (R405, R407, R410, R421). -/
theorem failRelease_other {f : Frond} (cls : opcodeOf f / 256 ≠ 0xD) : failRelease s f = s := by
  have epoch : (opcodeOf f == 0xD01) = false := by simp; omega
  have commit : (opcodeOf f == 0xD03) = false := by simp; omega
  unfold failRelease
  simp [epoch, commit]

end Sys2Proof.Proofs
end

section
/-! SUPPORT. The parts of a release that its queue sees (R74, R78, R85–R87): the signals, the record in its ring, the head. -/

namespace Sys2Proof.Proofs
open Sys2Proof Sys2Proof.Machine Sys2Proof.Claims

/-! ### Bytes of the HBM range (R29, R30) -/

section
variable {s : State} {a b : Nat}

theorem resolve_low (h : a < 0x6000000000) : resolve s a = .hbm a := if_pos h

theorem byteAt_low (h : a < 0x6000000000) : byteAt s a = memGet s a := by
  rw [byteAt, resolve_low h, memKey]

theorem putByte_low (h : a < 0x6000000000) (v : Byte) : putByte s a v = memSet s a v := by
  rw [putByte, resolve_low h, memKey]

theorem byteAt_putByte_low (wf : mwf memDefault s.mem = true) (ha : a < 0x6000000000) (hb : b < 0x6000000000) (v : Byte) :
    byteAt (putByte s a v) b = if b = a then v else byteAt s b := by
  rw [putByte_low ha, byteAt_low hb, byteAt_low hb]
  exact mem_memSet wf

theorem putByte_mem_wf (wf : mwf memDefault s.mem = true) (v : Byte) : mwf memDefault (putByte s a v).mem = true := by
  unfold putByte
  split
  · exact mset_wf wf
  · exact wf

/-- Bytes stored further on leave a byte as it was. -/
theorem byteAt_putBytes_above {d : List Byte} (wf : mwf memDefault s.mem = true) (above : b < a)
    (fits : a + d.length ≤ 0x6000000000) : byteAt (putBytes s a d) b = byteAt s b := by
  induction d generalizing s a with
  | nil => rfl
  | cons v d ih =>
    rw [List.length_cons] at fits
    rw [putBytes, ih (putByte_mem_wf wf v) (by omega) (by omega), byteAt_putByte_low wf (by omega) (by omega),
      if_neg (by omega)]

/-- The bytes stored are read back. -/
theorem bytesAt_putBytes {d : List Byte} (wf : mwf memDefault s.mem = true) (fits : a + d.length ≤ 0x6000000000) :
    bytesAt (putBytes s a d) a d.length = d := by
  induction d generalizing s a with
  | nil => rfl
  | cons v d ih =>
    rw [List.length_cons] at fits
    have first : byteAt (putBytes (putByte s a v) (a + 1) d) a = v := by
      rw [byteAt_putBytes_above (putByte_mem_wf wf v) (by omega) (by omega),
        byteAt_putByte_low wf (by omega) (by omega), if_pos rfl]
    rw [List.length_cons, putBytes, bytesAt, first, ih (putByte_mem_wf wf v) (by omega)]

theorem leBytes_length (n v : Nat) : (leBytes n v).length = n := by
  induction n generalizing v with
  | zero => rfl
  | succ n ih => rw [leBytes, List.length_cons, ih]

/-- The bytes of a number spell its low bits. -/
theorem leNat_leBytes (n v : Nat) : leNat (leBytes n v) = v % 256 ^ n := by
  induction n generalizing v with
  | zero => rw [leBytes, leNat, pow_zero, Nat.mod_one]
  | succ n ih => 
    rw [leBytes, leNat, ih, BitVec.toNat_ofNat, pow_succ' 256 n]
    exact Nat.mod_mul.symm

theorem natAt_putBytes {n v : Nat} (wf : mwf memDefault s.mem = true) (fits : a + n ≤ 0x6000000000) :
    natAt (putBytes s a (leBytes n v)) a n = v % 256 ^ n := by
  have back := bytesAt_putBytes (d := leBytes n v) wf (by rw [leBytes_length]; exact fits)
  rw [leBytes_length] at back
  rw [natAt, back, leNat_leBytes]

/-- Bytes of the HBM range depend on memory alone. -/
theorem natAt_congr {t : State} (mem : t.mem = s.mem) {n : Nat} (fits : a + n ≤ 0x6000000000) : natAt t a n = natAt s a n := by
  have bytes : bytesAt t a n = bytesAt s a n := by
    induction n generalizing a with
    | zero => rfl
    | succ n ih =>
      rw [bytesAt, bytesAt, ih (by omega), byteAt_low (by omega), byteAt_low (by omega), memGet, memGet, mem]
  rw [natAt, natAt, bytes]

end

/-! ### Signals (R78) -/

/-- The counters that a frond of a region can name. -/
def TokenOf (r o : Nat) : Prop := (0x2000 ≤ o ∧ o < 0x4000) ∨ (rSeq r 0x800 ≤ o ∧ o < rSeq r 0x1000)

theorem token_of_tokReg {r o : Nat} {y : TokWord} (index : y.index < 1024) (h : tokReg r y = some o) : TokenOf r o := by
  unfold tokReg at h
  unfold TokenOf
  split_ifs at h <;> simp only [Option.some.injEq] at h <;> subst h <;> simp only [rGtok, rTok, rSeq] <;> omega

theorem token_ne_logDrop {r o : Nat} (h : TokenOf r o) : o ≠ rLogDrop := by
  unfold TokenOf rSeq at h
  unfold rLogDrop
  omega

theorem index_of_mem_signalsOf {f : Frond} {y : TokWord} (h : y ∈ signalsOf f) : y.index < 1024 := by
  have word : y = tokWord (fw f 4) ∨ y = tokWord (fw f 5) := by
    simpa using (List.mem_filter.mp h).1
  rcases word with rfl | rfl <;> exact Nat.mod_lt _ (by omega)

/-- The state in which a counter has taken a signal, its event not yet logged. -/
def counted (s : State) (o n : Nat) : State :=
  noteSignal (setF s o 0 16 (min n 65535)) o (min n 65535 - regF s o 0 16)

section
variable {s : State} {r o : Nat} {y : TokWord}

theorem logEv_eq (s : State) (code cls idx pay : Nat) : ∃ e, logEv s code cls idx pay = logEntry s e := ⟨_, rfl⟩

theorem signal_none (h : tokReg r y = none) : signal s r y = s := by rw [signal, h]

theorem signal_some (h : tokReg r y = some o) :
    signal s r y = counted s o (regF s o 0 16 + y.count) ∨
      ∃ e, signal s r y = logEntry (counted s o (regF s o 0 16 + y.count)) e := by
  rw [signal, h]
  dsimp only
  split
  · split
    · exact Or.inr (logEv_eq _ _ _ _ _)
    · exact Or.inr (logEv_eq _ _ _ _ _)
  · exact Or.inl rfl

theorem counted_regs_wf {n : Nat} (wf : mwf regReset s.regs = true) : mwf regReset (counted s o n).regs = true :=
  setF_regs_wf wf

/-- A counter takes a signal, and stops at 65,535. -/
theorem regF_signal (wf : mwf regReset s.regs = true) (index : y.index < 1024) (h : tokReg r y = some o) :
    regF (signal s r y) o 0 16 = min 65535 (regF s o 0 16 + y.count) := by
  have stored : regF (counted s o (regF s o 0 16 + y.count)) o 0 16 = min 65535 (regF s o 0 16 + y.count) := by
    refine (regF_setF_same wf (by omega)).trans ?_
    rw [Nat.min_comm]
    exact Nat.mod_eq_of_lt (by omega)
  rcases signal_some (s := s) h with plain | ⟨e, logged⟩
  · rw [plain, stored]
  · rw [logged, regF_congr (reg_logEntry (counted_regs_wf wf) (token_ne_logDrop (token_of_tokReg index h))), stored]

variable {W : Nat → Prop} {s0 : State} (drop : ¬ W rLogDrop) (apart : ∀ o, TokenOf r o → ¬ W o)
include drop apart

theorem signal_keeps (h : Keeps W s0 s) (index : y.index < 1024) : Keeps W s0 (signal s r y) := by
  cases named : tokReg r y with
  | none => rw [signal_none named]; exact h
  | some o =>
    have stored : Keeps W s0 (counted s o (regF s o 0 16 + y.count)) :=
      (h.setF (apart o (token_of_tokReg index named)) 0 16 _).congr rfl rfl rfl
    rcases signal_some (s := s) named with plain | ⟨e, logged⟩
    · rw [plain]; exact stored
    · rw [logged]; exact stored.logEntry drop e

end

theorem applySignals_keeps {W : Nat → Prop} {s0 s : State} {f : Frond} (drop : ¬ W rLogDrop)
    (apart : ∀ o, TokenOf f.region o → ¬ W o) (h : Keeps W s0 s) : Keeps W s0 (applySignals s f) :=
  List.foldlRecOn (signalsOf f) _ h (fun _ kept _ member => signal_keeps drop apart kept (index_of_mem_signalsOf member))

/-- A frond's only signal. -/
theorem regF_applySignals {s : State} {f : Frond} {y : TokWord} {o : Nat} (wf : mwf regReset s.regs = true)
    (only : signalsOf f = [y]) (named : tokReg f.region y = some o) :
    regF (applySignals s f) o 0 16 = min 65535 (regF s o 0 16 + y.count) := by
  have index : y.index < 1024 := index_of_mem_signalsOf (f := f) (by simp [only])
  rw [applySignals, only]
  exact regF_signal wf index named

/-! ### The record (R85–R87) -/

section
variable {s : State} {r q : Nat}

/-- The ring of a queue before a record is stored: over the oldest record when it is full (R87). -/
def ringTurned (s : State) (r q : Nat) : State :=
  let k := regF s (rCrhead r q) 0 32
  let t := regF s (rCrtail r q) 0 32
  if countGap t k == 2 ^ regF s (rCrcfg r q) 0 5 then
    oncePer (setF (setF s (rCrtail r q) 0 32 (countAdd t 1)) (rCrcfg r q) 32 32 (satAdd 32 (regF s (rCrcfg r q) 32 32) 1))
      (epKey r q 1) (fun y => logQueue y 0x1033 r (payDefault 0 0 (absReg (rCrbase r q))))
  else closeEp s (epKey r q 1)

theorem writeRecord_eq (s : State) (f : Frond) (b : Nat) : writeRecord s f b =
    storeRecord (ringTurned s f.region f.queue) f
      (recordBits f b (regF s (rCrhead f.region f.queue) 0 32) (regF s (rCrcfg f.region f.queue) 0 5)) := by
  simp only [writeRecord, ringTurned]

theorem logQueue_keeps {W : Nat → Prop} {s0 : State} (h : Keeps W s0 s) (drop : ¬ W rLogDrop) (code pay : Nat) :
    Keeps W s0 (logQueue s code r pay) := h.logEntry drop _

theorem oncePer_keeps {W : Nat → Prop} {s0 : State} {k : Nat} {ev : State → State} (h : Keeps W s0 s)
    (event : ∀ x, Keeps W s0 x → Keeps W s0 (ev x)) : Keeps W s0 (oncePer s k ev) := by
  unfold oncePer
  split
  · exact h
  · exact (event s h).congr rfl rfl rfl

theorem ringTurned_keeps {W : Nat → Prop} {s0 : State} (h : Keeps W s0 s) (drop : ¬ W rLogDrop) (tail : ¬ W (rCrtail r q))
    (cfg : ¬ W (rCrcfg r q)) : Keeps W s0 (ringTurned s r q) := by
  unfold ringTurned
  dsimp only
  split
  · exact oncePer_keeps ((h.setF tail 0 32 _).setF cfg 32 32 _) (fun _ kept => logQueue_keeps kept drop _ _)
  · exact h.congr rfl rfl rfl

theorem ringTurned_keepsMem {s0 : State} (h : KeepsMem s0 s) : KeepsMem s0 (ringTurned s r q) := by
  unfold ringTurned
  dsimp only
  split
  · exact oncePer_keepsMem (setF_keepsMem (setF_keepsMem h)) (fun _ kept => logQueue_keepsMem kept)
  · exact closeEp_keepsMem h

/-- Turning the ring leaves its size. -/
theorem ringTurned_log2 (wf : mwf regReset s.regs = true) : regF (ringTurned s r q) (rCrcfg r q) 0 5 = regF s (rCrcfg r q) 0 5 := by
  unfold ringTurned
  dsimp only
  split
  · have apart : rCrcfg r q ≠ rLogDrop := by
      unfold rCrcfg rSeq rLogDrop
      omega
    have tail_wf := setF_regs_wf (o := rCrtail r q) (lo := 0) (n := 32) (v := countAdd (regF s (rCrtail r q) 0 32) 1) wf
    have size : regF (setF (setF s (rCrtail r q) 0 32 (countAdd (regF s (rCrtail r q) 0 32) 1)) (rCrcfg r q) 32 32
        (satAdd 32 (regF s (rCrcfg r q) 32 32) 1)) (rCrcfg r q) 0 5 = regF s (rCrcfg r q) 0 5 := by
      have other : rCrcfg r q ≠ rCrtail r q ∨ 0 + 5 ≤ 0 ∨ 0 + 32 ≤ 0 := by
        unfold rCrcfg rCrtail rSeq
        omega
      rw [regF_setF_apart tail_wf (by omega) (by omega), regF_setF_apart wf (by omega) other]
    unfold oncePer
    split
    · exact size
    · refine Eq.trans (regF_congr ?_) size
      exact reg_logEntry (setF_regs_wf tail_wf) apart
  · rfl

/-- Where the next record of a queue goes. -/
def recordAddr (s : State) (r q : Nat) : Nat :=
  (reg s (rCrbase r q)).toNat + 32 * (regF s (rCrhead r q) 0 32 % 2 ^ regF s (rCrcfg r q) 0 5)

theorem storeRecord_low {f : Frond} {bits : Nat} (low : recordAddr s f.region f.queue < 0x6000000000) :
    storeRecord s f bits =
      setF (closeEp (putBytes s (recordAddr s f.region f.queue) (leBytes 32 bits)) (epKey f.region f.queue 2))
        (rCrhead f.region f.queue) 0 32 (countAdd (regF s (rCrhead f.region f.queue) 0 32) 1) := by
  unfold storeRecord
  dsimp only
  rw [← recordAddr, resolve_low low]

theorem setF_closeEp_mem (s : State) (key o v : Nat) : (setF (closeEp s key) o 0 32 v).mem = s.mem := by
  rw [setF, setReg_mem, closeEp]

theorem putBytes_eq (s : State) (a : Nat) (d : List Byte) : putBytes s a d = { s with mem := (putBytes s a d).mem } := by
  induction d generalizing s a with
  | nil => rfl
  | cons v d ih => rw [putBytes, ih, putByte_eq]

/-- Storing a record, or dropping it, moves CRHEAD alone. -/
theorem storeRecord_keeps {W : Nat → Prop} {s0 : State} {f : Frond} {bits : Nat} (h : Keeps W s0 s) (drop : ¬ W rLogDrop)
    (head : ¬ W (rCrhead f.region f.queue)) : Keeps W s0 (storeRecord s f bits) := by
  have wrote (a : Nat) : Keeps W s0 (closeEp (putBytes s a (leBytes 32 bits)) (epKey f.region f.queue 2)) := by
    rw [putBytes_eq]
    exact h.congr rfl rfl rfl
  unfold storeRecord
  dsimp only
  refine Keeps.setF ?_ head 0 32 _
  split
  · exact wrote _
  · split
    · exact wrote _
    · exact oncePer_keeps h (fun _ kept => logQueue_keeps kept drop _ _)
  · exact oncePer_keeps h (fun _ kept => logQueue_keeps kept drop _ _)

end

/-- The record stands in the entry of CRHEAD, and CRHEAD is one more. -/
theorem writeRecord_stores {s : State} {f : Frond} {b : Nat} (canonical : s.Canonical)
    (fits : recordAddr s f.region f.queue + 32 ≤ 0x6000000000) :
    natAt (writeRecord s f b) (recordAddr s f.region f.queue) 32 =
        recordBits f b (regF s (rCrhead f.region f.queue) 0 32) (regF s (rCrcfg f.region f.queue) 0 5) % 2 ^ 256 ∧
      regF (writeRecord s f b) (rCrhead f.region f.queue) 0 32 = countAdd (regF s (rCrhead f.region f.queue) 0 32) 1 := by
  obtain ⟨x, hx⟩ : ∃ x, ringTurned s f.region f.queue = x := ⟨_, rfl⟩
  have kept : Keeps (fun o => o = rCrbase f.region f.queue ∨ o = rCrhead f.region f.queue) s x := by
    rw [← hx]
    refine ringTurned_keeps (Keeps.refl canonical.regs) ?_ ?_ ?_ <;>
      simp only [rCrbase, rCrhead, rCrtail, rCrcfg, rSeq, rLogDrop] <;> omega
  have mem : x.mem = s.mem := hx ▸ (ringTurned_keepsMem KeepsMem.rfl).mem
  have head : regF x (rCrhead f.region f.queue) 0 32 = regF s (rCrhead f.region f.queue) 0 32 :=
    regF_congr (kept.regs _ (Or.inr rfl))
  have place : recordAddr x f.region f.queue = recordAddr s f.region f.queue := by
    rw [recordAddr, kept.regs _ (Or.inl rfl), head, ← hx, ringTurned_log2 canonical.regs, recordAddr]
  have wf : mwf memDefault x.mem = true := mem ▸ canonical.mem
  have regs (d : List Byte) : mwf regReset (closeEp (putBytes x (recordAddr s f.region f.queue) d)
      (epKey f.region f.queue 2)).regs = true := by
    rw [putBytes_eq]
    exact kept.wf
  rw [writeRecord_eq, hx, storeRecord_low (by omega), place]
  constructor
  · rw [natAt_congr (setF_closeEp_mem _ _ _ _) fits]
    exact natAt_putBytes wf fits
  · rw [regF_setF_same (regs _) (by omega), head]
    exact Nat.mod_eq_of_lt (Nat.mod_lt _ (by omega))

theorem writeRecord_keeps {W : Nat → Prop} {s0 s : State} {f : Frond} {b : Nat} (h : Keeps W s0 s) (drop : ¬ W rLogDrop)
    (tail : ¬ W (rCrtail f.region f.queue)) (cfg : ¬ W (rCrcfg f.region f.queue)) (head : ¬ W (rCrhead f.region f.queue)) :
    Keeps W s0 (writeRecord s f b) := by
  rw [writeRecord_eq]
  exact storeRecord_keeps (ringTurned_keeps h drop tail cfg) drop head

/-! ### The head of the queue (R74) -/

section
variable {s : State} {r q : Nat}

theorem advanceHead_still (h : ∀ y ∈ s.ahead, ¬(y.1 = r ∧ y.2.1 = q)) (n : Nat) : advanceHead s r q n = s := by
  cases n with
  | zero => rfl
  | succ n =>
    have none_there : s.ahead.contains (r, q, regF s (rQhead r q) 0 32) = false := by
      rw [← Bool.not_eq_true, List.contains_iff_mem]
      exact fun member => h _ member ⟨rfl, rfl⟩
    rw [advanceHead]
    simp only [none_there, Bool.false_eq_true, if_false]

/-- The head passes the one released frond that stands at it. -/
theorem advanceHead_passes (wf : mwf regReset s.regs = true) {k n : Nat} (head : regF s (rQhead r q) 0 32 = k)
    (there : (r, q, k) ∈ s.ahead) (alone : ∀ y ∈ s.ahead, y.1 = r ∧ y.2.1 = q → y = (r, q, k)) :
    regF (advanceHead s r q (n + 1)) (rQhead r q) 0 32 = countAdd k 1 := by
  let x : State := { s with ahead := s.ahead.filter (· != (r, q, k)) }
  have passed : ∀ y ∈ (setF x (rQhead r q) 0 32 (countAdd k 1)).ahead, ¬(y.1 = r ∧ y.2.1 = q) := by
    intro y member
    have kept := List.mem_filter.mp member
    intro same
    simp [alone y kept.1 same] at kept
  have wf' : mwf regReset x.regs = true := wf
  rw [advanceHead]
  simp only [head, List.contains_iff_mem, there, if_true]
  rw [advanceHead_still passed, regF_setF_same wf' (by omega)]
  exact Nat.mod_eq_of_lt (Nat.mod_lt _ (by omega))

/-- Moving the head changes no other register, no frond and no memory. -/
structure HeadMoved (s t : State) (r q : Nat) : Prop where
  regs : ∀ o, o ≠ rQhead r q → reg t o = reg s o
  fronds : t.fronds = s.fronds
  images : t.images = s.images
  mem : t.mem = s.mem

theorem advanceHead_moved (wf : mwf regReset s.regs = true) (n : Nat) : HeadMoved s (advanceHead s r q n) r q := by
  induction n generalizing s with
  | zero => exact ⟨fun _ _ => rfl, rfl, rfl, rfl⟩
  | succ n ih =>
    rw [advanceHead]
    split
    · let x : State := { s with ahead := s.ahead.filter (· != (r, q, regF s (rQhead r q) 0 32)) }
      have wf' : mwf regReset x.regs = true := wf
      have rest := ih (s := setF x (rQhead r q) 0 32 (countAdd (regF s (rQhead r q) 0 32) 1)) (setF_regs_wf wf')
      exact ⟨fun o apart => (rest.regs o apart).trans (reg_setF_apart wf' apart), rest.fronds, rest.images, rest.mem⟩
    · exact ⟨fun _ _ => rfl, rfl, rfl, rfl⟩

theorem imageStep_none (h : ∀ i ∈ s.images, ¬(i.region = r ∧ i.queue = q)) : imageStep s r q = s := by
  have none_runs : s.images.find? (fun i => i.region == r && i.queue == q) = none := by
    rw [List.find?_eq_none]
    simpa using h
  rw [imageStep, none_runs]

end

end Sys2Proof.Proofs
end

section
/-! SUPPORT. Completion and release (R52–R56, R64, R73, R90, R93, R94): the stages of a release in their order, and the
commands that release a frond. -/

namespace Sys2Proof.Proofs
open Sys2Proof Sys2Proof.Machine Sys2Proof.Claims

/-! ### Unspecified outputs (R6) -/

/-- Nothing but memory, tiles and the free values differs, as far as a release looks. -/
structure OnlyMemory (s0 t : State) : Prop where
  regs : t.regs = s0.regs
  fronds : t.fronds = s0.fronds
  ahead : t.ahead = s0.ahead
  images : t.images = s0.images

section
variable {s0 s : State} (h : OnlyMemory s0 s)
include h

theorem takeFree_onlyMemory : OnlyMemory s0 (takeFree s).2 := ⟨h.regs, h.fronds, h.ahead, h.images⟩

theorem putByte_onlyMemory (a : Nat) (v : Byte) : OnlyMemory s0 (putByte s a v) := by
  rw [putByte_eq]
  exact ⟨h.regs, h.fronds, h.ahead, h.images⟩

theorem setTileByte_onlyMemory (k b : Nat) (v : Byte) : OnlyMemory s0 (setTileByte k b v s) :=
  ⟨h.regs, h.fronds, h.ahead, h.images⟩

theorem openBytes_onlyMemory (a n : Nat) : OnlyMemory s0 (openBytes s a n) :=
  forRange_keeps (fun _ _ kept => putByte_onlyMemory (takeFree_onlyMemory kept) _ _) h

theorem freeOutputs_onlyMemory (f : Frond) : OnlyMemory s0 (freeOutputs s f) := by
  have slots : OnlyMemory s0 (f.dests.foldl (fun x i =>
      let d := slotOf f i
      if d.empty then x
      else forRange 0 (repeatOf f + 1) (fun r y => forRange 0 (destElems f i) (fun e z =>
        openBytes z (d.addr (destPos f i r e)) (fmtUnit d.fmt)) y) x) s) := by
    refine foldl_keeps (fun x i kept => ?_) h
    dsimp only
    split
    · exact kept
    · exact forRange_keeps (fun _ _ kept' => forRange_keeps (fun _ _ kept'' => openBytes_onlyMemory kept'' _ _) kept') kept
  have descriptors := foldl_keeps (P := OnlyMemory s0) (l := f.dctds)
    (f := fun x i => openBytes x (winAddr f i (slotOf f i).base) 64) (fun _ _ kept => openBytes_onlyMemory kept _ _) slots
  unfold freeOutputs
  split
  · exact h
  · refine foldl_keeps (fun _ k kept => forRange_keeps (fun b _ kept' =>
      setTileByte_onlyMemory (takeFree_onlyMemory kept') k b _) kept) ?_
    split
    · exact foldl_keeps (fun _ _ kept => openBytes_onlyMemory kept _ _) descriptors
    · exact descriptors

end

/-! ### The stages of a release -/

/-- The miss, the poison of the destinations, the tiles and the engines. -/
def settled (s : State) (f : Frond) (b : Nat) : State :=
  noteServed (unpend (settlePoison (noteMiss (countSwitch s f) f b) f) f) f

/-- Then the signals. -/
def signalled (s : State) (f : Frond) (b : Nat) : State :=
  applySignals (failRelease (tileRelease (settled s f b) f) f) f

/-- Then the record, where one is due. -/
def recorded (s : State) (f : Frond) (b : Nat) : State :=
  if recordDue f b then writeRecord (signalled s f b) f b else signalled s f b

/-- Then the interrupt, where the frond asks for one. -/
def announced (s : State) (f : Frond) (b : Nat) : State :=
  if wantsIrq f then raiseIrq (recorded s f b) (f.region * 4 + f.queue) else recorded s f b

/-- Then the frond is gone, and its place in the queue released. -/
def departed (s : State) (f : Frond) (b : Nat) : State :=
  let x := dropFrond (announced s f b) f
  { x with ahead := x.ahead ++ [(f.region, f.queue, f.idx)] }

theorem releaseNow_eq (s : State) (f : Frond) (b : Nat) : releaseNow s f b =
    imageStep (advanceHead (departed s f b) f.region f.queue ((dropFrond (announced s f b) f).ahead.length + 1))
      f.region f.queue := by
  simp only [releaseNow, departed, announced, recorded, signalled, settled]

section
variable (s : State) (f : Frond) (b : Nat)

theorem departed_regs : (departed s f b).regs = (announced s f b).regs := by rw [departed, dropFrond]

theorem departed_ahead : (departed s f b).ahead = (announced s f b).ahead ++ [(f.region, f.queue, f.idx)] := by
  rw [departed, dropFrond]

theorem departed_images : (departed s f b).images = (announced s f b).images := by rw [departed, dropFrond]

theorem departed_fronds : (departed s f b).fronds =
    (announced s f b).fronds.filter (fun g => !g.is f.region f.queue f.idx) := by rw [departed, dropFrond]

theorem departed_mem : (departed s f b).mem = (announced s f b).mem := by rw [departed, dropFrond]

theorem reg_departed (o : Nat) : reg (departed s f b) o = reg (announced s f b) o := by rw [reg, departed_regs, reg]

end

/-! ### The registers that the stages speak of -/

theorem rSeq_watched {r x : Nat} (h : x < 0x10000) : Watched (rSeq r x) := by
  unfold Watched rSeq
  omega

theorem rSeq_no_token {r x : Nat} (h : x < 0x800) : ¬ TokenOf r (rSeq r x) := by
  unfold TokenOf rSeq
  omega

theorem token_watched {r o : Nat} (h : TokenOf r o) : Watched o := by
  unfold TokenOf rSeq at h
  unfold Watched
  omega

theorem beat_no_token (r : Nat) : ¬ TokenOf r rBeatCount := by
  unfold TokenOf rSeq rBeatCount
  omega

/-- The registers of a completion ring that a record may move. -/
def RingReg (r q o : Nat) : Prop := o = rCrhead r q ∨ o = rCrtail r q ∨ o = rCrcfg r q

/-- What the release of a frond rests on, of the frond and of the state. -/
structure Releasing (s : State) (f : Frond) : Prop where
  canonical : s.Canonical
  queue : f.queue < 4
  noImage : ∀ i ∈ s.images, ¬(i.region = f.region ∧ i.queue = f.queue)
  cls : opcodeOf f / 256 ≠ 0xD
  engines : ∀ e ∈ f.engines, e < 512
  grans : ∀ g ∈ f.wroteGrans, g < 8 * 2 ^ 24

section
variable {s : State} {f : Frond} {b : Nat} (h : Releasing s f)
include h

theorem settled_keeps : Keeps Watched s (settled s f b) :=
  noteServed_keeps (unpend_keeps (settlePoison_keeps (noteMiss_keeps (countSwitch_keeps (Keeps.refl h.canonical.regs) f) f b)
    h.grans) f) h.engines

theorem unsignalled_keeps : Keeps Watched s (failRelease (tileRelease (settled s f b) f) f) := by
  rw [failRelease_other h.cls]
  exact tileRelease_keeps (settled_keeps h) f

theorem signalled_canon : (signalled s f b).Canonical :=
  applySignals_canon (failRelease_canon (tileRelease_canon (noteServed_canon (unpend_canon (settlePoison_canon
    (noteMiss_canon (countSwitch_canon h.canonical)))))))

/-- Up to its signals a release keeps the watched registers that are no tokens. -/
theorem signalled_keeps : Keeps (fun o => Watched o ∧ ¬ TokenOf f.region o) s (signalled s f b) :=
  applySignals_keeps (fun watched => logDrop_free watched.1) (fun _ token kept => kept.2 token)
    ((unsignalled_keeps h).mono fun _ kept => kept.1)

omit h in
theorem recorded_keeps (wf : mwf regReset (signalled s f b).regs = true) :
    Keeps (fun o => Watched o ∧ ¬ RingReg f.region f.queue o) (signalled s f b) (recorded s f b) := by
  unfold recorded
  split
  · exact writeRecord_keeps (Keeps.refl wf) (fun kept => logDrop_free kept.1) (fun kept => kept.2 (Or.inr (Or.inl rfl)))
      (fun kept => kept.2 (Or.inr (Or.inr rfl))) (fun kept => kept.2 (Or.inl rfl))
  · exact Keeps.refl wf

omit h in
theorem announced_keeps (wf : mwf regReset (recorded s f b).regs = true) :
    Keeps Watched (recorded s f b) (announced s f b) := by
  unfold announced
  split
  · exact (Keeps.refl wf).raiseIrq (irqPend_free (by omega)) (irqPend_free (by omega)) _
  · exact Keeps.refl wf

omit h in
theorem announced_mem : (announced s f b).mem = (recorded s f b).mem := by
  unfold announced
  split
  · exact (raiseIrq_keepsMem KeepsMem.rfl).mem
  · rfl

/-- From the signals on a release moves the ring's registers alone, the head of the queue still to come. -/
theorem announced_keeps_signalled :
    Keeps (fun o => Watched o ∧ ¬ RingReg f.region f.queue o) (signalled s f b) (announced s f b) := by
  have stored := recorded_keeps (signalled_canon h (b := b)).regs
  exact stored.trans ((announced_keeps stored.wf).mono fun _ kept => kept.1)

/-- What a release keeps, the head of the queue still to come. -/
theorem announced_keeps_start :
    Keeps (fun o => Watched o ∧ ¬ TokenOf f.region o ∧ ¬ RingReg f.region f.queue o) s (announced s f b) :=
  ((signalled_keeps h).mono fun _ kept => ⟨kept.1, kept.2.1⟩).trans
    ((announced_keeps_signalled h).mono fun _ kept => ⟨kept.1, kept.2.2⟩)

theorem departed_regs_wf : mwf regReset (departed s f b).regs = true := by
  rw [departed_regs]
  exact (announced_keeps_start h).wf

/-- The last stage moves the head of the queue, and no image is stepped. -/
theorem releaseNow_head : releaseNow s f b =
    advanceHead (departed s f b) f.region f.queue ((dropFrond (announced s f b) f).ahead.length + 1) := by
  rw [releaseNow_eq]
  refine imageStep_none ?_
  rw [(advanceHead_moved (departed_regs_wf h) _).images, departed_images, (announced_keeps_start h).images]
  exact h.noImage

theorem releaseNow_moved : HeadMoved (departed s f b) (releaseNow s f b) f.region f.queue := by
  rw [releaseNow_head h]
  exact advanceHead_moved (departed_regs_wf h) _

theorem reg_releaseNow {o : Nat} (apart : o ≠ rQhead f.region f.queue) :
    reg (releaseNow s f b) o = reg (announced s f b) o := by
  rw [(releaseNow_moved h).regs o apart, reg_departed]

/-! ### What a release does -/

theorem beat_releaseNow : beat (releaseNow s f b) = beat s := by
  have apart : rBeatCount ≠ rQhead f.region f.queue := by
    unfold rQhead rSeq rBeatCount
    omega
  refine beat_congr ((reg_releaseNow h apart).trans ((announced_keeps_start h).regs _ ⟨Or.inl rfl, beat_no_token _, ?_⟩))
  unfold RingReg rCrhead rCrtail rCrcfg rSeq rBeatCount
  omega

theorem frond_gone : ∀ y ∈ (releaseNow s f b).fronds, y.is f.region f.queue f.idx = false := by
  intro y member
  rw [(releaseNow_moved h).fronds, departed_fronds] at member
  simpa using (List.mem_filter.mp member).2

theorem head_passes (head : regF s (rQhead f.region f.queue) 0 32 = f.idx)
    (alone : ∀ y ∈ s.ahead, ¬(y.1 = f.region ∧ y.2.1 = f.queue)) :
    regF (releaseNow s f b) (rQhead f.region f.queue) 0 32 = countAdd f.idx 1 := by
  have kept := announced_keeps_start h (b := b)
  have queue := h.queue
  have ahead : (departed s f b).ahead = s.ahead ++ [(f.region, f.queue, f.idx)] := by rw [departed_ahead, kept.ahead]
  have ring : ¬ RingReg f.region f.queue (rQhead f.region f.queue) := by
    unfold RingReg rQhead rCrhead rCrtail rCrcfg rSeq
    omega
  have start : reg (departed s f b) (rQhead f.region f.queue) = reg s (rQhead f.region f.queue) := by
    rw [reg_departed]
    exact kept.regs _ ⟨rSeq_watched (by omega), rSeq_no_token (by omega), ring⟩
  rw [releaseNow_head h]
  refine advanceHead_passes (departed_regs_wf h) ((regF_congr start).trans head) (by simp [ahead]) (fun y member named => ?_)
  rw [ahead, List.mem_append, List.mem_singleton] at member
  exact member.resolve_left (fun old => alone y old named)

theorem signal_taken {y : TokWord} {o : Nat} (only : signalsOf f = [y]) (named : tokReg f.region y = some o) :
    regF (releaseNow s f b) o 0 16 = min 65535 (regF s o 0 16 + y.count) := by
  have token : TokenOf f.region o :=
    token_of_tokReg (index_of_mem_signalsOf (f := f) (by rw [only]; exact List.mem_singleton_self y)) named
  have watched := token_watched token
  have queue := h.queue
  have apart : o ≠ rQhead f.region f.queue := fun same => rSeq_no_token (by omega) (same ▸ token)
  have ring : ¬ RingReg f.region f.queue o := by
    rintro (same | same | same) <;> exact rSeq_no_token (by omega) (same ▸ token)
  have before := unsignalled_keeps h (b := b)
  rw [regF_congr (reg_releaseNow h apart), regF_congr ((announced_keeps_signalled h).regs o ⟨watched, ring⟩), signalled,
    regF_applySignals before.wf only named, regF_congr (before.regs o watched)]

/-- The registers of the ring stand as they were when the record is stored. -/
theorem reg_signalled {x : Nat} (queue : x < 0x800) : reg (signalled s f b) (rSeq f.region x) = reg s (rSeq f.region x) :=
  (signalled_keeps h).regs _ ⟨rSeq_watched (by omega), rSeq_no_token queue⟩

theorem ring_signalled :
    regF (signalled s f b) (rCrhead f.region f.queue) 0 32 = regF s (rCrhead f.region f.queue) 0 32 ∧
      regF (signalled s f b) (rCrcfg f.region f.queue) 0 5 = regF s (rCrcfg f.region f.queue) 0 5 ∧
      recordAddr (signalled s f b) f.region f.queue = recordAddr s f.region f.queue := by
  have queue := h.queue
  have head : regF (signalled s f b) (rCrhead f.region f.queue) 0 32 = regF s (rCrhead f.region f.queue) 0 32 :=
    regF_congr (reg_signalled h (by omega))
  have cfg : regF (signalled s f b) (rCrcfg f.region f.queue) 0 5 = regF s (rCrcfg f.region f.queue) 0 5 :=
    regF_congr (reg_signalled h (by omega))
  have base : reg (signalled s f b) (rCrbase f.region f.queue) = reg s (rCrbase f.region f.queue) :=
    reg_signalled h (by omega)
  exact ⟨head, cfg, by rw [recordAddr, base, head, cfg, recordAddr]⟩

theorem crhead_releaseNow : regF (releaseNow s f b) (rCrhead f.region f.queue) 0 32 =
    regF (recorded s f b) (rCrhead f.region f.queue) 0 32 := by
  have queue := h.queue
  have apart : rCrhead f.region f.queue ≠ rQhead f.region f.queue := by
    unfold rCrhead rQhead rSeq
    omega
  rw [regF_congr (reg_releaseNow h apart)]
  exact regF_congr ((announced_keeps (recorded_keeps (signalled_canon h).regs).wf).regs _ (rSeq_watched (by omega)))

theorem record_stored (due : recordDue f b = true) (fits : recordAddr s f.region f.queue + 32 ≤ 0x6000000000) :
    natAt (releaseNow s f b) (recordAddr s f.region f.queue) 32 =
        recordBits f b (regF s (rCrhead f.region f.queue) 0 32) (regF s (rCrcfg f.region f.queue) 0 5) % 2 ^ 256 ∧
      regF (releaseNow s f b) (rCrhead f.region f.queue) 0 32 = countAdd (regF s (rCrhead f.region f.queue) 0 32) 1 := by
  obtain ⟨head, cfg, place⟩ := ring_signalled h (b := b)
  have stored := writeRecord_stores (f := f) (b := b) (signalled_canon h (b := b)) (by rw [place]; exact fits)
  rw [head, cfg, place] at stored
  have mem : (releaseNow s f b).mem = (writeRecord (signalled s f b) f b).mem := by
    rw [(releaseNow_moved h).mem, departed_mem, ← show recorded s f b = writeRecord (signalled s f b) f b from if_pos due]
    exact announced_mem
  rw [natAt_congr mem fits, crhead_releaseNow h, recorded, if_pos due]
  exact stored

theorem record_omitted (due : recordDue f b = false) :
    regF (releaseNow s f b) (rCrhead f.region f.queue) 0 32 = regF s (rCrhead f.region f.queue) 0 32 := by
  rw [crhead_releaseNow h, recorded, if_neg (by simp [due])]
  exact (ring_signalled h).1

end

end Sys2Proof.Proofs
end

section
/-! SUPPORT. The commands that release a frond (R52, R53, R64, R73, R90, R93, R94): the beat of each release, and the
frond released. -/

namespace Sys2Proof.Proofs
open Sys2Proof Sys2Proof.Machine Sys2Proof.Claims

/-! ### The frond as it is released (R45, R73) -/

/-- The frond with its last causes, and the beat that a BARRIER is released on. -/
def releasedFrond (s : State) (f : Frond) : Frond :=
  { f with causes := lastCauses s f,
           wake := if (promisedAtRelease f || (opcodeOf f == 0x004 && f.wake.isNone)) && !f.noWork then some (beat s)
                   else f.wake }

theorem releaseOn_eq (s : State) (f : Frond) : releaseOn s f =
    release (freeOutputs (endActivity s f) (releasedFrond s f)) (releasedFrond s f) := rfl

section
variable {f : Frond} {w : Option Nat} {b : Nat} (late : isLate { f with wake := w } b = isLate f b)
include late

theorem recordDue_wake : recordDue { f with wake := w } b = recordDue f b := by
  unfold recordDue
  rw [late]
  rfl

/-- The record depends on a given beat by the promise that it carries and by being late. -/
theorem recordBits_wake (promised : w.getD f.prom = f.wake.getD f.prom) (k log2 : Nat) :
    recordBits { f with wake := w } b k log2 = recordBits f b k log2 := by
  have status : finalStatus { f with wake := w } = finalStatus f := rfl
  have progress : progressOf { f with wake := w } = progressOf f := rfl
  have cause : missCause { f with wake := w } = missCause f := rfl
  have flags (l : Bool) : recFlags { f with wake := w } l = recFlags f l := rfl
  have opcode : opcodeOf { f with wake := w } = opcodeOf f := rfl
  have task : taskOf { f with wake := w } = taskOf f := rfl
  have seqno : seqnoOf { f with wake := w } = seqnoOf f := rfl
  unfold recordBits
  dsimp only
  rw [late, status, progress, cause, flags, opcode, task, seqno, promised]

end

/-- TEE_APPLY and STANDIN_MARK are of class 0xD. -/
theorem promisedAtRelease_other {f : Frond} (cls : opcodeOf f / 256 ≠ 0xD) : promisedAtRelease f = false := by
  have d00 : opcodeOf f ≠ 0xD00 := fun same => cls (by rw [same])
  have d03 : opcodeOf f ≠ 0xD03 := fun same => cls (by rw [same])
  simp [promisedAtRelease, d00, d03]

/-- A BARRIER that was given no beat carries that of its release, which is its promise. -/
theorem releasedFrond_record {s : State} {f : Frond} {b : Nat} (cls : opcodeOf f / 256 ≠ 0xD) (now : beat s = b)
    (given : opcodeOf f = 0x004 → f.noWork = false → f.wake = none → f.prom = b) :
    let g : Frond := { f with causes := lastCauses s f }
    recordDue (releasedFrond s f) b = recordDue g b ∧
      ∀ k log2, recordBits (releasedFrond s f) b k log2 = recordBits g b k log2 := by
  intro g
  have other := promisedAtRelease_other cls
  obtain ⟨w, hw⟩ : ∃ w, w = (releasedFrond s f).wake := ⟨_, rfl⟩
  have released : releasedFrond s f = { g with wake := w } := by
    rw [hw]
    rfl
  have same : isLate { g with wake := w } b = isLate g b ∧ w.getD g.prom = g.wake.getD g.prom := by
    by_cases bare : opcodeOf f = 0x004 ∧ f.wake = none ∧ f.noWork = false
    · obtain ⟨barrier, none_given, works⟩ := bare
      have promise : g.prom = b := given barrier works none_given
      have here : w = some b := by
        rw [hw, releasedFrond]
        simp [other, barrier, none_given, works, now]
      have before : g.wake = none := none_given
      simp [isLate, here, before, promise]
    · have kept : w = g.wake := by
        rw [hw, releasedFrond]
        simp only [other, Bool.false_or]
        refine if_neg ?_
        simpa [and_assoc] using bare
      rw [kept]
      exact ⟨rfl, rfl⟩
  rw [released]
  exact ⟨recordDue_wake same.1, recordBits_wake same.1 same.2⟩

/-! ### The release of an undisturbed frond -/

section
variable {s : State} {f : Frond} {b : Nat}

/-- Moving the counter on changes no watched register but BEAT.COUNT. -/
theorem reg_advanceTo_watched (wf : mwf regReset s.regs = true) {o : Nat} (watched : Watched o) (apart : o ≠ rBeatCount) :
    reg (advanceTo s b) o = reg s o :=
  reg_advanceTo wf apart (fun same => by
    rw [same] at watched
    exact absurd watched (by unfold Watched; decide))

theorem release_free (first : heldBefore s f = false) (room : ringBlocked s f.region f.queue = false) :
    release s f = releaseNow s f (beat s) := if_neg (by simp [first, room])

theorem heldBefore_congr {t : State} (h : t.fronds = s.fronds) : heldBefore t f = heldBefore s f := by
  rw [heldBefore, h, heldBefore]

theorem ringBlocked_congr {t : State} {r q : Nat} (queue : q < 4) (h : ∀ x < 0x800, reg t (rSeq r x) = reg s (rSeq r x)) :
    ringBlocked t r q = ringBlocked s r q := by
  have cfg : reg t (rCrcfg r q) = reg s (rCrcfg r q) := h _ (by omega)
  have tail : reg t (rCrtail r q) = reg s (rCrtail r q) := h _ (by omega)
  have head : reg t (rCrhead r q) = reg s (rCrhead r q) := h _ (by omega)
  have ctrl : reg t (rQctrl r q) = reg s (rQctrl r q) := h _ (by omega)
  unfold ringBlocked
  rw [regF_congr cfg, regF_congr tail, regF_congr head, regF_congr ctrl]

/-- An undisturbed frond whose release falls on beat `b` is released on it. -/
theorem releaseOn_released (u : Undisturbed s f) (later : beat s ≤ b) (fits : b < 2 ^ 64)
    (given : opcodeOf f = 0x004 → f.noWork = false → f.wake = none → f.prom = b) :
    ReleasedAt s f b (releaseOn (advanceTo s b) f) := by
  have wf := u.canonical.regs
  obtain ⟨x, hx⟩ : ∃ x, freeOutputs (advanceTo s b) (releasedFrond (advanceTo s b) f) = x := ⟨_, rfl⟩
  obtain ⟨g, hg⟩ : ∃ g, releasedFrond (advanceTo s b) f = g := ⟨_, rfl⟩
  have now : beat (advanceTo s b) = b := (beat_advanceTo wf fits).trans (max_eq_right later)
  have frame := advanceTo_eq s b
  have freed : OnlyMemory (advanceTo s b) x := hx ▸ freeOutputs_onlyMemory ⟨rfl, rfl, rfl, rfl⟩ _
  have regs (o : Nat) (watched : Watched o) (apart : o ≠ rBeatCount) : reg x o = reg s o := by
    rw [reg, freed.regs]
    exact reg_advanceTo_watched wf watched apart
  have seq (y : Nat) (below : y < 0x10000) : reg x (rSeq f.region y) = reg s (rSeq f.region y) :=
    regs _ (rSeq_watched below) (by unfold rSeq rBeatCount; omega)
  have fronds : x.fronds = s.fronds := freed.fronds.trans (by rw [frame])
  have ahead : x.ahead = s.ahead := freed.ahead.trans (by rw [frame])
  have images : x.images = s.images := freed.images.trans (by rw [frame])
  have fields : g.region = f.region ∧ g.queue = f.queue ∧ g.idx = f.idx ∧ signalsOf g = signalsOf f := by
    rw [← hg]
    exact ⟨rfl, rfl, rfl, rfl⟩
  have releasing : Releasing x g := by
    rw [← hg]
    exact ⟨hx ▸ freeOutputs_canon (advanceTo_canon u.canonical), u.queue, by rw [images]; exact u.noImage, u.cls, u.engines,
      u.lines.2⟩
  have present : beat x = b := by
    rw [← now, beat, reg, freed.regs]
    rfl
  have released : releaseOn (advanceTo s b) f = releaseNow x g b := by
    have first : heldBefore x g = false := by
      rw [heldBefore_congr fronds, ← hg]
      exact u.first
    have room : ringBlocked x g.region g.queue = false := by
      rw [fields.1, fields.2.1, ringBlocked_congr u.queue (fun y below => seq y (by omega))]
      exact u.room
    rw [releaseOn_eq, endActivity_quiet (advanceTo_quiet u.maint b), hx, hg, release_free first room, present]
  obtain ⟨due, bits⟩ := releasedFrond_record u.cls now given
  rw [hg] at due bits
  obtain ⟨region, queue, idx, signals⟩ := fields
  have below := u.queue
  have qhead : regF x (rQhead f.region f.queue) 0 32 = regF s (rQhead f.region f.queue) 0 32 := regF_congr (seq _ (by omega))
  have crhead : regF x (rCrhead f.region f.queue) 0 32 = regF s (rCrhead f.region f.queue) 0 32 :=
    regF_congr (seq _ (by omega))
  have crcfg : regF x (rCrcfg f.region f.queue) 0 5 = regF s (rCrcfg f.region f.queue) 0 5 := regF_congr (seq _ (by omega))
  have crbase : reg x (rCrbase f.region f.queue) = reg s (rCrbase f.region f.queue) := seq _ (by omega)
  have place : recordAddr x f.region f.queue = recordAddr s f.region f.queue := by
    rw [recordAddr, crbase, crhead, crcfg, recordAddr]
  rw [released]
  refine ⟨(beat_releaseNow releasing).trans present, ?gone, ?head, ?signal, ?stored, ?omitted⟩
  case gone =>
    have gone := frond_gone releasing (b := b)
    rwa [region, queue, idx] at gone
  case head =>
    intro stands alone
    have passes := head_passes releasing (b := b)
    rw [region, queue, idx, qhead, ahead] at passes
    exact passes stands alone
  case signal =>
    intro y o only named
    have token : TokenOf f.region o :=
      token_of_tokReg (index_of_mem_signalsOf (f := f) (by rw [only]; exact List.mem_singleton_self y)) named
    have kept : reg x o = reg s o :=
      regs o (token_watched token) (fun same => beat_no_token f.region (same ▸ token))
    rw [← regF_congr kept]
    exact signal_taken releasing (signals.trans only) (region ▸ named)
  case stored =>
    intro isDue within
    have stored := record_stored releasing (b := b) (due.trans isDue)
    rw [region, queue, place, crhead, crcfg, bits] at stored
    exact stored within
  case omitted =>
    intro notDue
    have omitted := record_omitted releasing (b := b) (due.trans notDue)
    rwa [region, queue, crhead] at omitted

end

/-! ### Completion (R52, R53, R93) -/

section
variable {s : State} {x : FrondRef} {f : Frond}

/-- No command releases a frond that there is not. -/
theorem no_frond_no_release (none_found : findFrond s x = none) (b : Nat) :
    frondComplete s x b = s ∧ pacedRelease s x = s ∧ skippedRelease s x = s ∧ barrierRelease s x = s := by
  unfold frondComplete pacedRelease skippedRelease barrierRelease
  rw [none_found]
  exact ⟨rfl, rfl, rfl, rfl⟩

variable (found : findFrond s x = some f)
include found

theorem frondComplete_incomplete {b : Nat} (h : complete s f = false) : frondComplete s x b = s := by
  unfold frondComplete
  rw [found]
  exact if_pos (by simp [h])

/-- The end of the work, and what follows it. -/
theorem frondComplete_works {b e : Nat} (wf : mwf regReset s.regs = true) (working : f.phase = .working)
    (done : complete s f = true) (ended : e = max (max b f.issue) (beat s - 1)) : frondComplete s x b =
      if f.phase == .working && paced f && decide (e < f.prom) && !promisedAtRelease f then
        putFrond (advanceTo s e) { f with phase := .finished, ended := e }
      else releaseOn (advanceTo s (workFrom s (max (beat s) (e + 1)))) { f with ended := e } := by
  have at_work : (f.phase == .working) = true := by simp [working]
  unfold frondComplete
  rw [found]
  dsimp only
  rw [if_neg (by simp [done]), if_pos at_work, ← ended, workFrom_advanceTo wf]

theorem pacedRelease_idle (h : pacing f = false) : pacedRelease s x = s := by
  unfold pacedRelease
  rw [found]
  exact if_neg (by simp [h])

theorem pacedRelease_due (h : pacing f = true) : pacedRelease s x = releaseOn (advanceTo s f.prom) f := by
  unfold pacedRelease
  rw [found]
  exact if_pos h

theorem skippedRelease_idle (h : f.noWork = false ∨ f.phase ≠ .finished) : skippedRelease s x = s := by
  unfold skippedRelease
  rw [found]
  refine if_neg ?_
  rcases h with works | other
  · simp [works]
  · simp [other]

theorem skippedRelease_due (noWork : f.noWork = true) (finished : f.phase = .finished) (free : f.held = false) :
    skippedRelease s x = releaseOn (advanceTo s (workAfter s f.acc 4)) f := by
  unfold skippedRelease
  rw [found]
  exact if_pos (by simp [noWork, finished, free])

theorem barrierRelease_idle (h : f.wake = none) : barrierRelease s x = s := by
  unfold barrierRelease
  rw [found]
  dsimp only
  rw [h]

theorem barrierRelease_due {w : Nat} (barrier : opcodeOf f = 0x004) (working : f.phase = .working) (works : f.noWork = false)
    (given : f.wake = some w) : barrierRelease s x =
      (let a := advanceTo s (workFrom s (max (beat s) w))
       releaseOn a { f with ended := beat a, worked := true, rep := repeatOf f + 1, unit := 0 }) := by
  unfold barrierRelease
  rw [found]
  dsimp only
  rw [given]
  exact if_pos (by simp [barrier, working, works])

end

/-- The work of a BARRIER does not end by completion. -/
theorem complete_no_barrier {s : State} {f : Frond} (working : f.phase = .working) (done : complete s f = true) :
    opcodeOf f ≠ 0x004 := by
  intro barrier
  simp [complete, working, barrier] at done

/-- A frond without the fields that its end sets is as undisturbed. -/
theorem undisturbed_ended {s : State} {f : Frond} (u : Undisturbed s f) (e : Nat) : Undisturbed s { f with ended := e } :=
  ⟨u.canonical, u.region, u.queue, u.first, u.room, u.maint, u.noImage, u.cls, u.engines, u.tiles, u.lines⟩

theorem undisturbed_barrier {s : State} {f : Frond} (u : Undisturbed s f) (e n : Nat) :
    Undisturbed s { f with ended := e, worked := true, rep := n, unit := 0 } :=
  ⟨u.canonical, u.region, u.queue, u.first, u.room, u.maint, u.noImage, u.cls, u.engines, u.tiles, u.lines⟩

/-- Completion, PROMPT and PACED. -/
theorem frondsComplete : Claims.FrondsComplete := by
  intro x b s canonical
  have wf := canonical.regs
  refine ⟨fun none_found => ?none, fun f found => ⟨fun going => ?going, fun other => ?other, ?ends, ?paced⟩⟩
  case none =>
    obtain ⟨completion, pacedIdle, skippedIdle, barrierIdle⟩ := no_frond_no_release none_found b.toNat
    exact ⟨does_of_effect (congrArg (effect s) completion), does_of_effect (congrArg (effect s) pacedIdle),
      does_of_effect (congrArg (effect s) skippedIdle), does_of_effect (congrArg (effect s) barrierIdle)⟩
  case going => exact does_of_effect (congrArg (effect s) (frondComplete_incomplete found going))
  case other => exact does_of_effect (congrArg (effect s) (pacedRelease_idle found other))
  case ends =>
    intro e working done ended fits cls
    have works := frondComplete_works found wf working done ended
    have other := promisedAtRelease_other cls
    refine ⟨fun isPaced early => ?waits, fun prompt u => ?released⟩
    case waits =>
      exact does_of_effect (congrArg (effect s) (works.trans (if_pos (by simp [working, isPaced, early, other]))))
    case released =>
      have not_waiting : ¬ (f.phase == .working && paced f && decide (e < f.prom) && !promisedAtRelease f) = true := by
        rcases prompt with plain | late
        · simp [plain]
        · simp [Nat.not_lt.mpr late]
      have no_barrier : opcodeOf f ≠ 0x004 := complete_no_barrier working done
      have after_work := workFrom_le s (max (beat s) (e + 1))
      refine ⟨_, does_of_effect (congrArg (effect s) (works.trans (if_neg not_waiting))),
        releaseOn_released (undisturbed_ended u e) (le_trans (le_max_left _ _) (le_workFrom s _)) (by omega) ?_⟩
      exact fun barrier => absurd barrier no_barrier
  case paced =>
    intro waits u early fits
    exact ⟨_, does_of_effect (congrArg (effect s) (pacedRelease_due found waits)),
      releaseOn_released u early fits (fun _ _ _ => rfl)⟩

/-- Fronds with no work, and BARRIERs on their beat T. -/
theorem skippedFrondsAndBarriersAreReleased : Claims.SkippedFrondsAndBarriersAreReleased := by
  intro x s f canonical found
  refine ⟨fun noWork finished free u later fits => ?skipped, fun works => ?works, fun waits => ?waits,
    fun w barrier working works given u => ?barrier⟩
  case skipped =>
    exact ⟨_, does_of_effect (congrArg (effect s) (skippedRelease_due found noWork finished free)),
      releaseOn_released u later fits (fun _ works => absurd (noWork.symm.trans works) (by decide))⟩
  case works => exact does_of_effect (congrArg (effect s) (skippedRelease_idle found works))
  case waits => exact does_of_effect (congrArg (effect s) (barrierRelease_idle found waits))
  case barrier =>
    intro b fits
    have later : beat s ≤ b := le_trans (le_max_left _ _) (le_workFrom s _)
    have now : beat (advanceTo s b) = b := (beat_advanceTo canonical.regs fits).trans (max_eq_right later)
    have released : barrierRelease s x =
        releaseOn (advanceTo s b) { f with ended := b, worked := true, rep := repeatOf f + 1, unit := 0 } := by
      rw [barrierRelease_due found barrier working works given]
      dsimp only
      rw [show advanceTo s (workFrom s (max (beat s) w)) = advanceTo s b from rfl, now]
    exact ⟨_, does_of_effect (congrArg (effect s) released),
      releaseOn_released (undisturbed_barrier u b (repeatOf f + 1)) later fits
        (fun _ _ bare => absurd (given.symm.trans bare) (by simp))⟩

/-- Settles O44. -/
theorem frondsCompleteAndAreReleased : Obligations.FrondsCompleteAndAreReleased :=
  ⟨frondsComplete, skippedFrondsAndBarriersAreReleased⟩

end Sys2Proof.Proofs
end

section
/-! SUPPORT. Accesses that wait for a line of a handoff or circular region (R154–R158), and the row that a suspension
discards (R145). -/

namespace Sys2Proof.Proofs
open Sys2Proof Sys2Proof.Machine Sys2Proof.Claims

/-! ### The frond that a command names -/

theorem is_iff {f : Frond} {r q k : Nat} : f.is r q k = true ↔ (f.region = r ∧ f.queue = q) ∧ f.idx = k := by
  rw [Frond.is, Bool.and_eq_true, Bool.and_eq_true, beq_iff_eq, beq_iff_eq, beq_iff_eq]

/-- Where a search finds an element, it finds what has been put in its place, if that is searched for as well. -/
theorem find?_map_replace {α : Type} {p p' : α → Bool} {a b : α} {l : List α} (same : p' = p) (new : p b = true)
    (found : l.find? p = some a) : (l.map (fun e => if p' e then b else e)).find? p = some b := by
  have kept : p ∘ (fun e => if p' e then b else e) = p := by
    funext e
    by_cases named : p' e = true
    · exact (congrArg p (if_pos named)).trans (new.trans (same ▸ named).symm)
    · exact congrArg p (if_neg named)
  rw [List.find?_map, kept, found]
  exact congrArg some (if_pos (same ▸ List.find?_some found))

/-- Where a name finds a frond, it finds the record that has been put in its place. -/
theorem findFrond_putFrond {s : State} {x : FrondRef} {f g : Frond} (found : findFrond s x = some f)
    (same : g.is = f.is) : findFrond (putFrond s g) x = some g := by
  have new := List.find?_some (p := fun e : Frond => e.is x.region.val x.queue.val x.idx.toNat) found
  rw [← same] at new
  obtain ⟨⟨region, queue⟩, idx⟩ := is_iff.mp new
  exact find?_map_replace (by rw [region, queue, idx]) new found

/-! ### A read that detects nothing (R159, R171) -/

/-- A read at `a` finds no sector of a tower and no page of class K. -/
def NoSectorCheck (s : State) (a : Nat) : Prop :=
  (∀ r o, resolve s a = .mat r o → pclass s r o ≠ 2) ∧ ∀ h, resolve s a ≠ .hbm h

section
variable {s : State} (sound : s.upsets = [])
include sound

theorem readMat_sound {r o : Nat} (page : pclass s r o ≠ 2) (producer : Bool) : readMat s r o producer = s := by
  by_cases zero : pclass s r o = 0
  · refine (if_pos zero).trans ?_
    rw [sound]
    rfl
  · exact (if_neg zero).trans (if_neg (by simp [sound, aget, page]))

theorem recomputeLine_sound (a : Nat) : recomputeLine s a = s := by
  unfold recomputeLine
  induction resolve s a with
  | mat r o => exact if_neg (sound ▸ Bool.false_ne_true)
  | hbm | reg | host | unmapped => exact Eq.refl s

theorem checkRead_sound {a : Nat} (free : NoSectorCheck s a) (res : Bool) : checkRead s a res = (s, poisonedAt s a) := by
  have read : noteRead s a res (producerOf s a) = s := by
    unfold noteRead
    cases target : resolve s a
    case hbm h => exact absurd target (free.2 h)
    case mat r o => exact readMat_sound sound (free.1 r o target) _
    all_goals exact Eq.refl s
  have calm : (if producerOf s a then recomputeLine s a else s) = s := by rw [recomputeLine_sound sound, ite_self]
  calc checkRead s a res
      = (noteRead s a res (producerOf s a), poisonedAt (noteRead s a res (producerOf s a)) a) :=
        congrArg (fun t => (noteRead t a res (producerOf s a), poisonedAt (noteRead t a res (producerOf s a)) a)) calm
    _ = (s, poisonedAt s a) := congrArg (fun t => (t, poisonedAt t a)) read

/-- A line of two such reads is delivered with its poison, and the state stays as it was. -/
theorem grantLine_read_sound {line : Nat} (low : NoSectorCheck s (lineAddr line)) (high : NoSectorCheck s (lineAddr line + 32))
    (res : Bool) :
    grantLine s line false res = (s, poisonedAt s (lineAddr line) || poisonedAt s (lineAddr line + 32)) := by
  rw [grantLine, if_neg Bool.false_ne_true, checkRead_sound sound low]
  dsimp only
  rw [checkRead_sound sound high]

end

/-! ### A wait and its ends -/

/-- The access of `f` waits for a line: of a circular region, or else of a handoff region. -/
def Waits (f : Frond) (p : Parked) (circ : Bool) : Prop := f.phase = .working ∧ f.held = false ∧ p.circ.isSome = circ

/-- The test by which the commands pass over an access that does not wait. -/
theorem skipped_iff {f : Frond} {p : Parked} {circ : Bool} :
    (f.phase != .working || f.held || p.circ.isSome != circ) = true ↔ ¬ Waits f p circ := by
  rw [Waits, Bool.or_eq_true, Bool.or_eq_true, bne_iff_ne, bne_iff_ne, ← Bool.not_eq_false, not_and_or, not_and_or, or_assoc]

section
variable {s : State} {x : FrondRef} {f : Frond} {p : Parked} (found : findFrond s x = some f) (parked : f.parked = some p)
include found parked

/-- `presentAgain` once its frond and the access are found. -/
theorem presentAgain_parked (circ : Bool) : presentAgain s x circ =
    if f.phase != .working || f.held || p.circ.isSome != circ then s
    else p.circ.elim (if smem s.full p.line == p.write then s else swapLine p.line p.write (grantTo s f p p.line 0))
      (fun k => if circReady s f.region k p.write then
        circMove f.region k p.write (grantTo s f p (circNext s f.region k p.write) (nextSeq f p)) else s) := by
  unfold presentAgain
  rw [found]
  dsimp only
  rw [parked]
  refine congrArg (ite _ s) ?_
  cases p.circ <;> rfl

/-- `waitExpires` once its frond and the access are found. -/
theorem waitExpires_parked (circ : Bool) : waitExpires s x circ =
    if f.phase != .working || f.held || p.circ.isSome != circ then s
    else
      let u := advanceTo s (p.since + regF s (rMat f.region 0x8) 0 32)
      stopFrond (logEntry u { frondEvent u f (if circ then 0x2013 else 0x2010)
        (payDefault (opcodeOf f) 0x30 (lineAddr p.line)) with cls := 2 }) f .handoffTimeout := by
  unfold waitExpires
  rw [found]
  dsimp only
  rw [parked]
  rfl

theorem no_wait_no_grant {circ : Bool} (other : ¬ Waits f p circ) : presentAgain s x circ = s :=
  (presentAgain_parked found parked circ).trans (if_pos (skipped_iff.mpr other))

theorem no_wait_no_timeout {circ : Bool} (other : ¬ Waits f p circ) : waitExpires s x circ = s :=
  (waitExpires_parked found parked circ).trans (if_pos (skipped_iff.mpr other))

variable {circ write : Bool} (waits : Waits f p circ)
include waits

/-- A handoff access is granted when its line stands the right way (R157). -/
theorem presentAgain_handoff (kind : p.circ = none) (access : p.write = write) : presentAgain s x circ =
    if smem s.full p.line == write then s else swapLine p.line write (grantTo s f p p.line 0) := by
  rw [presentAgain_parked found parked circ, if_neg (mt skipped_iff.mp (not_not_intro waits)), kind, access]
  rfl

/-- A circular access is granted when its region has a line for it (R154). -/
theorem presentAgain_circ {k : Nat} (kind : p.circ = some k) (access : p.write = write) : presentAgain s x circ =
    if circReady s f.region k write then
      circMove f.region k write (grantTo s f p (circNext s f.region k write) (nextSeq f p))
    else s := by
  rw [presentAgain_parked found parked circ, if_neg (mt skipped_iff.mp (not_not_intro waits)), kind, access]
  rfl

/-- A wait that reaches MAT.HANDOFF_WD ends the frond on that beat (R155, R158). -/
theorem waitExpires_waits : waitExpires s x circ =
    let u := advanceTo s (p.since + regF s (rMat f.region 0x8) 0 32)
    stopFrond (logEntry u { frondEvent u f (if circ then 0x2013 else 0x2010)
      (payDefault (opcodeOf f) 0x30 (lineAddr p.line)) with cls := 2 }) f .handoffTimeout :=
  (waitExpires_parked found parked circ).trans (if_neg (mt skipped_iff.mp (not_not_intro waits)))

end

/-- A frond that holds no tile stops, the event of its end having been logged. -/
theorem does_stopFrond {c : Instr} {s u : State} {e : LogEntry} {f : Frond} {status : Status}
    (meaning : exec c s = effect s (stopFrond (logEntry u e) f status)) (wf : mwf regReset u.regs = true)
    (unheld : f.pend = 0) : Does c s (putFrond (logEntry u e)
      { f with skip := worse f.skip status, phase := .finished, ended := beat u, held := false, parked := none,
               grants := [], page := none }) := by
  have now : beat (logEntry u e) = beat u := beat_congr (reg_logEntry wf (by decide))
  have held : unpend (logEntry u e) f = logEntry u e := if_pos unheld
  exact meaning.trans (congrArg₂ (fun t b => effect s (putFrond t
    { f with skip := worse f.skip status, phase := .finished, ended := b, held := false, parked := none,
             grants := [], page := none })) held now)

section
variable {s : State} {f : Frond} {p : Parked} {line seq : Nat}

theorem grantTo_write (write : p.write = true) : grantTo s f p line seq =
    putFrond s { f with grants := f.grants ++ [{ slot := p.slot, seq := seq, line := line, write := true, data := [] }],
                        parked := none, causes := f.causes ++ [8], wroteLines := sins f.wroteLines line } := by
  unfold grantTo
  rw [write]
  exact congrArg (fun bad => putFrond s { f with
    grants := f.grants ++ [{ slot := p.slot, seq := seq, line := line, write := true, data := [] }],
    parked := none, causes := f.causes ++ [8], poisoned := bad, wroteLines := sins f.wroteLines line }) (Bool.or_false _)

theorem grantTo_read (sound : s.upsets = []) (read : p.write = false) (low : NoSectorCheck s (lineAddr line))
    (high : NoSectorCheck s (lineAddr line + 32)) : grantTo s f p line seq =
    resumeGranted s f { slot := p.slot, seq := seq, line := line, write := false, data := bytesAt s (lineAddr line) 64 }
      (poisonedAt s (lineAddr line) || poisonedAt s (lineAddr line + 32)) := by
  unfold grantTo
  rw [read, grantLine_read_sound sound low high]
  rfl

end

/-! ### Handoff regions (R156–R158) -/

theorem waits_handoff_iff {f : Frond} {p : Parked} :
    f.phase = .working ∧ f.held = false ∧ p.circ = none ↔ Waits f p false := by
  rw [Waits, Option.isSome_eq_false_iff, Option.isNone_iff_eq_none]

theorem handoffLinesAreGranted : Claims.HandoffLinesAreGranted := by
  intro x s f p canonical found parked ready
  refine ⟨fun other => ⟨?ungranted, ?unexpired⟩, fun isReady => ⟨fun wrong => ?wrong, fun write empty => ?write,
    fun read full sound low high lowTower highTower => ?read, fun unheld => ?expires⟩⟩
  case ungranted => exact congrArg (effect s) (no_wait_no_grant found parked (mt waits_handoff_iff.mpr other))
  case unexpired => exact congrArg (effect s) (no_wait_no_timeout found parked (mt waits_handoff_iff.mpr other))
  case wrong =>
    exact congrArg (effect s) ((presentAgain_handoff found parked (waits_handoff_iff.mp isReady) isReady.2.2 rfl).trans
      (if_pos (beq_iff_eq.mpr wrong)))
  case write =>
    exact congrArg (effect s) ((presentAgain_handoff found parked (waits_handoff_iff.mp isReady) isReady.2.2 write).trans
      ((if_neg (empty ▸ Bool.false_ne_true)).trans (congrArg (swapLine p.line true) (grantTo_write write))))
  case read =>
    exact congrArg (effect s) ((presentAgain_handoff found parked (waits_handoff_iff.mp isReady) isReady.2.2 read).trans
      ((if_neg (mt beq_iff_eq.mp (full ▸ Bool.noConfusion))).trans (congrArg (swapLine p.line false)
        (grantTo_read sound read ⟨low, lowTower⟩ ⟨high, highTower⟩))))
  case expires =>
    exact does_stopFrond (congrArg (effect s) (waitExpires_waits found parked (waits_handoff_iff.mp isReady)))
      (advanceTo_regs_wf canonical.regs) unheld

/-! ### Circular regions (R154, R155) -/

/-- Item `c` of `b` in group `a` lies in the first `k` groups, and in group `a`. -/
theorem mul_add_lt_mul {a b c k : Nat} (group : a < k) (item : c < b) : a * b + c < k * b :=
  Nat.mul_comm b a ▸ Nat.mul_add_lt_mul_of_lt_of_lt group item

theorem mul_add_div_of_lt {a b c : Nat} (item : c < b) : (a * b + c) / b = a := by
  rw [Nat.mul_comm, Nat.mul_add_div (Nat.zero_lt_of_lt item), Nat.div_eq_of_lt item, Nat.add_zero]

theorem lineAddr_add (r n j : Nat) :
    lineAddr (r * 524288 + n) + j = 0x8000000000 + (r * 0x2000000 + (n * 64 + j)) := by
  rw [lineAddr, Nat.add_mul, Nat.mul_assoc, Nat.add_assoc, Nat.add_assoc]

theorem resolve_mat {s : State} {r o : Nat} (region : r < 8) (within : o < 0x2000000) :
    resolve s (0x8000000000 + (r * 0x2000000 + o)) = .mat r o := by
  have lower : 0x8000000000 ≤ 0x8000000000 + (r * 0x2000000 + o) := Nat.le_add_right _ _
  have upper : 0x8000000000 + (r * 0x2000000 + o) < 0x8010000000 :=
    Nat.add_lt_add_left (mul_add_lt_mul region within) _
  exact (if_neg (Nat.not_lt_of_le (Nat.le_trans (by decide) lower))).trans ((if_pos ⟨lower, upper⟩).trans
    (by rw [Nat.add_sub_cancel_left, mul_add_div_of_lt within, Nat.mul_add_mod_of_lt within]))

/-- A line of a mat, by its number over all mats, lies at its place in its own mat. -/
theorem resolve_lineAddr {s : State} {r n j : Nat} (region : r < 8) (line : n < 524288) (within : j < 64) :
    resolve s (lineAddr (r * 524288 + n) + j) = .mat r (n * 64 + j) := by
  rw [lineAddr_add, resolve_mat region (mul_add_lt_mul line within)]

/-- The bytes of a line lie in one page. -/
theorem pclass_within (s : State) (r n : Nat) {j : Nat} (within : j < 64) :
    pclass s r (n * 64 + j) = pclass s r (n * 64) := by
  have part (k : Nat) : (n * 64 + j) / (64 * k) = n * 64 / (64 * k) := by
    rw [← Nat.div_div_eq_div_mul, mul_add_div_of_lt within, ← Nat.div_div_eq_div_mul, Nat.mul_div_cancel n (by decide)]
  exact congrArg₂ (fun bank page => regF s (rPclass r bank) (2 * (page % 32)) 2) (part 0x8000) (part 0x400)

section
variable {s : State} {r n j a : Nat} (region : r < 8) (line : n < 524288) (within : j < 64)
  (place : a = lineAddr (r * 524288 + n) + j)
include region line within place

theorem noSectorCheck_line (page : pclass s r (n * 64) ≠ 2) : NoSectorCheck s a := by
  have target : resolve s a = .mat r (n * 64 + j) := place ▸ resolve_lineAddr region line within
  refine ⟨fun r' o same => ?_, fun h same => Target.noConfusion (target.symm.trans same)⟩
  obtain ⟨rfl, rfl⟩ := Target.mat.inj (target.symm.trans same)
  rwa [pclass_within s r n within]

theorem poisonedAt_line : poisonedAt s a = smem s.matPoison (r * 524288 + n) := by
  rw [place, poisonedAt, resolve_lineAddr region line within]
  exact congrArg (fun m => smem s.matPoison (r * 524288 + m)) (mul_add_div_of_lt within)

end

section
variable {s : State} {r k : Nat}

theorem circReady_write : circReady s r k true = true ↔
    countGap (regF s (rCircHead r k) 0 32) (regF s (rCircTail r k) 0 32) ≠ fld (reg s (rCircCfg r k)) 32 14 * 64 :=
  bne_iff_ne

theorem circReady_read : circReady s r k false = true ↔ regF s (rCircHead r k) 0 32 ≠ regF s (rCircTail r k) 0 32 :=
  bne_iff_ne.trans ne_comm

end

section
variable {s : State} {x : FrondRef} {f : Frond} {o : Nat} (canonical : s.Canonical) (found : findFrond s x = some f)
include canonical found

/-- A frond's record is replaced and a pointer of its region moves on. -/
theorem circ_moves {g : Frond}
    (presented : presentAgain s x true = setF (putFrond s g) o 0 32 (countAdd (regF s o 0 32) 1)) (same : g.is = f.is) :
    ∃ t, Does (.circAccessGrant x) s t ∧ Regs s t [(o, putFld (reg s o) 0 32 (countAdd (regF s o 0 32) 1))] ∧
      findFrond t x = some g ∧ t = { s with regs := t.regs, fronds := t.fronds } :=
  ⟨_, congrArg (effect s) presented, regs_setReg canonical.regs (regs_refl s) _ _, findFrond_putFrond found same, rfl⟩

theorem circ_granted {gr : Grant} {bad : Bool}
    (presented : presentAgain s x true = setF (resumeGranted s f gr bad) o 0 32 (countAdd (regF s o 0 32) 1)) :
    ∃ t g, Does (.circAccessGrant x) s t ∧ Regs s t [(o, putFld (reg s o) 0 32 (countAdd (regF s o 0 32) 1))] ∧
      findFrond t x = some g ∧ g.parked = none ∧ g.causes = f.causes ++ [8] ∧ g.grants = f.grants ++ [gr] ∧
      g.poisoned = (f.poisoned || bad) ∧ t = { s with regs := t.regs, fronds := t.fronds } :=
  ⟨_, { f with
      grants := f.grants ++ [gr], parked := none, causes := f.causes ++ [8], poisoned := f.poisoned || bad,
      wroteLines := if gr.write then sins f.wroteLines gr.line else f.wroteLines },
    congrArg (effect s) presented, regs_setReg canonical.regs (regs_refl s) _ _, findFrond_putFrond found rfl,
    rfl, rfl, rfl, rfl, rfl⟩

end

/-- A line of a mat whose page is not of class K is read with its poison. -/
theorem grantTo_line {s : State} {f : Frond} {p : Parked} {r c h seq : Nat} (sound : s.upsets = []) (read : p.write = false)
    (region : r < 8) (within : r * 524288 + c + h < (r + 1) * 524288)
    (page : pclass s r ((r * 524288 + c - r * 524288 + h) * 64) ≠ 2) :
    grantTo s f p (r * 524288 + c + h) seq = resumeGranted s f
      { slot := p.slot, seq := seq, line := r * 524288 + c + h, write := false,
        data := bytesAt s (lineAddr (r * 524288 + c + h)) 64 } (smem s.matPoison (r * 524288 + c + h)) := by
  have inside : c + h < 524288 := by
    rw [Nat.add_assoc, Nat.succ_mul] at within
    exact Nat.lt_of_add_lt_add_left within
  rw [Nat.add_sub_cancel_left] at page
  have low : lineAddr (r * 524288 + c + h) = lineAddr (r * 524288 + (c + h)) + 0 := by rw [Nat.add_assoc, Nat.add_zero]
  have high : lineAddr (r * 524288 + c + h) + 32 = lineAddr (r * 524288 + (c + h)) + 32 := by rw [Nat.add_assoc]
  have poison := (congrArg₂ or (poisonedAt_line (s := s) region inside (by decide) low)
    (poisonedAt_line region inside (by decide) high)).trans (Bool.or_self _)
  rw [← Nat.add_assoc] at poison
  exact (grantTo_read sound read (noSectorCheck_line region inside (by decide) low page)
    (noSectorCheck_line region inside (by decide) high page)).trans (congrArg (resumeGranted s f _) poison)

theorem waits_circ_iff {f : Frond} {p : Parked} :
    f.phase = .working ∧ f.held = false ∧ p.circ ≠ none ↔ Waits f p true := by
  rw [Waits, Option.isSome_iff_ne_none]

theorem circularLinesAreGranted : Claims.CircularLinesAreGranted := by
  intro x s f p canonical found parked region ready
  refine ⟨fun other => ⟨?ungranted, ?unexpired⟩, fun isReady k kind _ => ?ready⟩
  case ungranted => exact congrArg (effect s) (no_wait_no_grant found parked (mt waits_circ_iff.mpr other))
  case unexpired => exact congrArg (effect s) (no_wait_no_timeout found parked (mt waits_circ_iff.mpr other))
  intro head tail lines first
  refine ⟨fun write full => ?full, fun read empty => ?empty, fun write room => ?write,
    fun read filled sound page within => ?read, fun unheld => ?expires⟩
  case full =>
    exact congrArg (effect s) ((presentAgain_circ found parked (waits_circ_iff.mp isReady) kind write).trans
      (if_neg (not_not_intro full ∘ circReady_write.mp)))
  case empty =>
    exact congrArg (effect s) ((presentAgain_circ found parked (waits_circ_iff.mp isReady) kind read).trans
      (if_neg (not_not_intro empty ∘ circReady_read.mp)))
  case write =>
    exact circ_moves canonical found ((presentAgain_circ found parked (waits_circ_iff.mp isReady) kind write).trans
      ((if_pos (circReady_write.mpr room)).trans (congrArg (circMove f.region k true) (grantTo_write write)))) rfl
  case read =>
    exact circ_granted canonical found ((presentAgain_circ found parked (waits_circ_iff.mp isReady) kind read).trans
      ((if_pos (circReady_read.mpr filled)).trans (congrArg (circMove f.region k false)
        (grantTo_line sound read region within page))))
  case expires =>
    exact does_stopFrond (congrArg (effect s) (waitExpires_waits found parked (waits_circ_iff.mp isReady)))
      (advanceTo_regs_wf canonical.regs) unheld

/-! ### The row that a suspension discards (R145) -/

/-- A tile load or store is held at a suspension, with a row in flight. -/
def HeldMidRow (f : Frond) : Prop :=
  f.held = true ∧ f.phase = .working ∧ (opcodeOf f = 0x331 ∨ opcodeOf f = 0x332) ∧ f.pend ≠ 1

theorem heldMidRow_iff {f : Frond} : (f.held && f.phase == .working && (opcodeOf f == 0x331 || opcodeOf f == 0x332) &&
    f.pend != 1) = true ↔ HeldMidRow f := by
  rw [Bool.and_eq_true, Bool.and_eq_true, Bool.and_eq_true, Bool.or_eq_true, beq_iff_eq, beq_iff_eq, beq_iff_eq, bne_iff_ne,
    and_assoc, and_assoc, HeldMidRow]

theorem rTileStatOf_high (k : Nat) : rStretchBt < rTileStatOf k :=
  Nat.lt_of_lt_of_le (m := 0x1100000) (by decide)
    (Nat.le_trans (Nat.le_add_right _ _) (Nat.le_trans (Nat.le_add_right _ _) (Nat.le_add_right _ _)))

theorem pendAt_single {s : State} {f : Frond} {k : Nat} (tiles : f.tiles = [k]) : pendAt s f =
    putFrond (setB (setF s (rTileStatOf k) 0 8 f.unit) (rTileStatOf k) 8 true) { f with pend := 1 } := by
  unfold pendAt
  rw [tiles]
  rfl

section
variable {s : State} {x : FrondRef}

theorem discard_no_frond (none_found : findFrond s x = none) : execTileSuspendDiscard x s = effect s s := by
  unfold execTileSuspendDiscard
  rw [none_found]

variable {f : Frond} (found : findFrond s x = some f)
include found

theorem discard_found : execTileSuspendDiscard x s = effect s
    (if f.held && f.phase == .working && (opcodeOf f == 0x331 || opcodeOf f == 0x332) && f.pend != 1 then
      pendAt (advanceTo s (f.ended + 4096)) { f with grants := [], parked := none, page := none } else s) := by
  unfold execTileSuspendDiscard
  rw [found]

theorem discard_idle (other : ¬ HeldMidRow f) : execTileSuspendDiscard x s = effect s s :=
  (discard_found found).trans (congrArg (effect s) (if_neg (mt heldMidRow_iff.mp other)))

/-- The held frond's tile takes its row as NEXT_ROW, with PENDING, and the frond has no row in flight any more. -/
theorem discard_row {k : Nat} (row : HeldMidRow f) (tiles : f.tiles = [k]) : execTileSuspendDiscard x s = effect s (putFrond
    (setB (setF (advanceTo s (f.ended + 4096)) (rTileStatOf k) 0 8 f.unit) (rTileStatOf k) 8 true)
    { f with grants := [], parked := none, page := none, pend := 1 }) :=
  (discard_found found).trans (congrArg (effect s) ((if_pos (heldMidRow_iff.mpr row)).trans (pendAt_single tiles)))

end

theorem nextRow_set {u : State} (wf : mwf regReset u.regs = true) {o row : Nat} (fits : row < 256) :
    regF (setB (setF u o 0 8 row) o 8 true) o 0 8 = row :=
  calc regF (setB (setF u o 0 8 row) o 8 true) o 0 8
      = regF (setF u o 0 8 row) o 0 8 := regF_setF_apart (setF_regs_wf wf) (by decide) (.inr (.inl (by decide)))
    _ = row % 2 ^ 8 := regF_setF_same wf (by decide)
    _ = row := Nat.mod_eq_of_lt fits

theorem reg_tile_apart {u : State} (wf : mwf regReset u.regs = true) {o o' row : Nat} (apart : o' ≠ o) :
    reg (setB (setF u o 0 8 row) o 8 true) o' = reg u o' :=
  (reg_setF_apart (setF_regs_wf wf) apart).trans (reg_setF_apart wf apart)

theorem advanceTo_frame {s t : State} {b : Nat} (frame : t = { advanceTo s b with regs := t.regs, fronds := t.fronds }) :
    t = { s with regs := t.regs, fronds := t.fronds } :=
  frame.trans (congrArg (fun u : State => { u with regs := t.regs, fronds := t.fronds }) (advanceTo_eq s b))

theorem beat_tile {u : State} (wf : mwf regReset u.regs = true) {k row : Nat} :
    beat (setB (setF u (rTileStatOf k) 0 8 row) (rTileStatOf k) 8 true) = beat u :=
  beat_congr (reg_tile_apart wf (Nat.ne_of_lt (Nat.lt_trans (by decide) (rTileStatOf_high k))))

theorem findFrond_advanceTo {s : State} {x : FrondRef} {f : Frond} {b : Nat} (found : findFrond s x = some f) :
    findFrond (advanceTo s b) x = some f := by
  rw [advanceTo_eq]
  exact found

theorem aSuspendedRowIsDiscarded : Claims.ASuspendedRowIsDiscarded := by
  intro x s canonical
  refine ⟨discard_no_frond, fun f found => ⟨fun other => discard_idle found ?other,
    fun k held working opcode first tiles fits _ row => ⟨_, discard_row found ⟨held, working, opcode, first⟩ tiles,
      ((beat_tile ?wf).trans (beat_advanceTo canonical.regs fits)).symm, nextRow_set ?wf row,
      regB_setB_same (setF_regs_wf ?wf) (by decide),
      fun o tile count stretched => (reg_tile_apart ?wf tile).trans (reg_advanceTo canonical.regs count stretched),
      congrArg (Option.map _) (findFrond_putFrond (g := { f with grants := [], parked := none, page := none, pend := 1 })
        (findFrond_advanceTo found) rfl), advanceTo_frame (b := f.ended + 4096) rfl⟩⟩⟩
  case wf => exact advanceTo_regs_wf canonical.regs
  case other =>
    rintro ⟨held, working, opcode, first⟩
    rcases other with free | idle | other | again
    · exact Bool.false_ne_true (free.symm.trans held)
    · exact idle working
    · exact opcode.elim other.1 other.2
    · exact first again

/-- Settles O49: the grants and ends of both kinds of wait, and the discarded row. -/
theorem parkedAccesses : Obligations.ParkedAccesses :=
  ⟨handoffLinesAreGranted, circularLinesAreGranted, aSuspendedRowIsDiscarded⟩

end Sys2Proof.Proofs
end

section
/-! SUPPORT. The memory towers: refreshes and their rate (R173, R174), and the operations on a granule's poison bit (R170,
R179). -/

namespace Sys2Proof.Proofs
open Sys2Proof Sys2Proof.Machine Sys2Proof.Claims

/-! ### Registers of a tower's block -/

section
variable {s : State} {t b o o' : Nat}

theorem rTow_apart (h : o ≠ o') : rTow t o ≠ rTow t o' := by
  unfold rTow
  omega

theorem reg_tower_advanceTo (wf : mwf regReset s.regs = true) : reg (advanceTo s b) (rTow t o) = reg s (rTow t o) :=
  reg_advanceTo wf (by unfold rTow rBeatCount; omega) (by unfold rTow rStretchBt; omega)

end

/-! ### A frond that a refresh delays (R173, R174) -/

section
variable {s : State} {x : FrondRef} {f : Frond} {t mode : Nat} {b : Word}

theorem meetRefresh_eq : meetRefresh (mode == 2) f = { f with
    refreshes := f.refreshes + 1
    causes := if mode = 2 ∨ 1 ≤ f.refreshes then f.causes ++ [1] else f.causes } := by
  simp only [meetRefresh, Bool.or_eq_true, beq_iff_eq, decide_eq_true_eq]

theorem refresh_frond (found : findFrond s x = some f) : refresh s t b [x] =
    if f.phase == .working then putFrond (bump (advanceTo s b.toNat) (rTow t 0x18) 1)
      (meetRefresh (regF (advanceTo s b.toNat) (rTow t 0x10) 0 2 == 2) f)
    else advanceTo s b.toNat := by
  rw [refresh, List.foldl_cons, List.foldl_nil, findFrond_advanceTo found]

theorem refresh_idle (found : findFrond s x = some f) (idle : f.phase ≠ .working) :
    refresh s t b [x] = advanceTo s b.toNat :=
  (refresh_frond found).trans (if_neg (mt beq_iff_eq.mp idle))

theorem refresh_delays (wf : mwf regReset s.regs = true) (found : findFrond s x = some f) (working : f.phase = .working) :
    refresh s t b [x] = putFrond (bump (advanceTo s b.toNat) (rTow t 0x18) 1) { f with
      refreshes := f.refreshes + 1
      causes := if regF s (rTow t 0x10) 0 2 = 2 ∨ 1 ≤ f.refreshes then f.causes ++ [1] else f.causes } := by
  rw [refresh_frond found, if_pos (beq_iff_eq.mpr working), regF_congr (reg_tower_advanceTo wf), meetRefresh_eq]

end

/-- A counter stands one higher after an event, or at its end. -/
theorem toNat_bump_one {s : State} {o : Nat} (wf : mwf regReset s.regs = true) :
    (reg (bump s o 1) o).toNat = min (2 ^ 64 - 1) ((reg s o).toNat + 1) := by
  rw [reg_bump wf, if_pos rfl, satAdd, BitVec.toNat_ofNat, Nat.mod_eq_of_lt (by omega)]

theorem refreshesDelayFronds : Claims.RefreshesDelayFronds := by
  intro t b s canonical
  refine ⟨does_of_effect rfl, fun x f found => ⟨fun idle => ?idle, fun working => ?working⟩⟩
  case idle => exact does_of_effect (congrArg (effect s) (refresh_idle found idle))
  case working =>
    refine ⟨_, does_of_effect (congrArg (effect s) (refresh_delays canonical.regs found working)), ?hits, ?fronds, ?frame⟩
    case hits => exact (toNat_bump_one (advanceTo_regs_wf canonical.regs)).trans (by rw [reg_tower_advanceTo canonical.regs])
    case fronds => rw [putFrond, bump, setReg, advanceTo_eq]; rfl
    case frame => rw [putFrond, bump, setReg, advanceTo_eq]

/-! ### The refresh rate (R174) -/

/-- The rate of tower `t` as its registers show it. -/
def withRate (s : State) (t : Nat) (twice : Bool) : State :=
  setF (setB s (rTow t 8) 2 twice) (rTow t 0x10) 16 16 (if twice then 2432 else 4864)

section
variable {s : State} {t temp : Nat} {v : Word} {twice : Bool}

theorem setRate_same (h : regB s (rTow t 8) 2 = twice) : setRate s t twice = s := if_pos (beq_iff_eq.mpr h)

theorem setRate_change (h : regB s (rTow t 8) 2 ≠ twice) :
    setRate s t twice = logEntry (withRate s t twice) (towerEvent (withRate s t twice) 0x2034 t) :=
  if_neg (mt beq_iff_eq.mp h)

theorem tempSample_fixed (wf : mwf regReset s.regs = true) (fixed : regF s (rTow t 0x10) 0 2 ≠ 0) :
    tempSample s t temp = setF s (rTow t 8) 8 8 temp :=
  if_neg (by rwa [regF_setF_apart wf (by omega) (.inl (rTow_apart (by decide)))])

theorem tempSample_auto (wf : mwf regReset s.regs = true) (auto : regF s (rTow t 0x10) 0 2 = 0) :
    tempSample s t temp = if 85 ≤ temp then setRate (setF s (rTow t 8) 8 8 temp) t true
      else if temp < 80 then setRate (setF s (rTow t 8) 8 8 temp) t false else setF s (rTow t 8) 8 8 temp :=
  if_pos (by rwa [regF_setF_apart wf (by omega) (.inl (rTow_apart (by decide)))])

theorem sample_keeps_rate (wf : mwf regReset s.regs = true) :
    regB (setF s (rTow t 8) 8 8 temp) (rTow t 8) 2 = regB s (rTow t 8) 2 :=
  regB_setF_apart wf (by omega) (.inr (.inl (by omega)))

theorem mode_keeps_rate {mode : Nat} (wf : mwf regReset s.regs = true) :
    regB (setF s (rTow t 0x10) 0 2 mode) (rTow t 8) 2 = regB s (rTow t 8) 2 :=
  regB_setF_apart wf (by omega) (.inl (rTow_apart (by decide)))

theorem allIdle_eq_false_iff : allIdle s = false ↔ s.fronds ≠ [] := List.isEmpty_eq_false_iff

/-- A write of RFSH: the reserved code is dropped, and so is ALLBANK while fronds are decoded. -/
theorem wrRfsh_eq : wrRfsh s t v =
    if fld v 0 2 = 3 ∨ (fld v 0 2 = 2 ∧ s.fronds ≠ []) then logEntry s (towerRegEvent s 0x2037 t 0x10)
    else if fld v 0 2 = 1 then setRate (setF s (rTow t 0x10) 0 2 (fld v 0 2)) t true
    else setF s (rTow t 0x10) 0 2 (fld v 0 2) := by
  simp only [wrRfsh, Bool.not_eq_true', allIdle_eq_false_iff]
  rfl

end

theorem refreshRate : Claims.RefreshRate := by
  intro m t s canonical two
  refine ⟨fun temp => ⟨?kept, ?doubled, ?halved⟩, fun v served => ?mode⟩
  case kept =>
    intro kept
    refine does_of_effect (congrArg (effect s) ?_)
    by_cases auto : regF s (rTow t 0x10) 0 2 = 0
    case neg => exact tempSample_fixed canonical.regs auto
    rw [tempSample_auto canonical.regs auto]
    rcases kept with fixed | ⟨warm, cool⟩ | ⟨hot, already⟩ | ⟨cold, already⟩
    · exact absurd auto fixed
    · rw [if_neg (by omega), if_neg (by omega)]
    · rw [if_pos hot, setRate_same ((sample_keeps_rate canonical.regs).trans already)]
    · rw [if_neg (by omega), if_pos cold, setRate_same ((sample_keeps_rate canonical.regs).trans already)]
  case doubled =>
    intro auto hot single
    refine does_of_effect (congrArg (effect s) ((tempSample_auto canonical.regs auto).trans ((if_pos hot).trans ?_)))
    exact setRate_change (by rw [sample_keeps_rate canonical.regs, single]; decide)
  case halved =>
    intro auto cold double
    refine does_of_effect (congrArg (effect s) ((tempSample_auto canonical.regs auto).trans
      ((if_neg (by omega)).trans ((if_pos cold).trans ?_))))
    exact setRate_change (by rw [sample_keeps_rate canonical.regs, double]; decide)
  case mode =>
    have meaning : exec (.rfshModeWrite m t v) s = effect s (wrRfsh s t v) := congrArg (effect s) (gated_served served)
    rw [wrRfsh_eq] at meaning
    refine ⟨fun dropped => ?_, fun kept => ?_, fun fixed single => ?_⟩ <;>
      refine does_of_effect (meaning.trans (congrArg (effect s) ?_))
    · exact if_pos dropped
    · rcases kept with auto | ⟨allbank, idle⟩ | ⟨fixed, already⟩
      · rw [if_neg (by omega), if_neg (by omega)]
      · rw [if_neg (by simp [allbank, idle]), if_neg (by omega)]
      · rw [if_neg (by omega), if_pos fixed, setRate_same ((mode_keeps_rate canonical.regs).trans already)]
    · rw [if_neg (by omega), if_pos fixed]
      exact setRate_change (by rw [mode_keeps_rate canonical.regs, single]; decide)

/-- Settles O18: what a refresh does to a frond that it delays, and the rate that a sample or a mode sets. -/
theorem refreshesAndTheirRate : Obligations.RefreshesAndTheirRate := ⟨refreshesDelayFronds, refreshRate⟩

/-! ### One granule's bit (R170) -/

theorem smem_iff_mem_from : ∀ {l : List Nat} {lo k : Nat}, swfFrom lo l = true → (smem l k = true ↔ k ∈ l)
  | [], _, _, _ => by simp [smem]
  | a :: l, lo, k, wf => by
    rw [swfFrom, Bool.and_eq_true] at wf
    have rest : smem l k = true ↔ k ∈ l := smem_iff_mem_from wf.2
    rw [smem, List.mem_cons, ← rest]
    rcases Nat.lt_trichotomy k a with below | same | above
    · rw [if_neg (by omega), if_pos below, smem_of_lt (Nat.lt_succ_of_lt below) wf.2]
      simp [below.ne]
    · simp [same]
    · rw [if_neg (by omega), if_neg (by omega)]
      simp [above.ne']

/-- A canonical set holds what its search finds. -/
theorem smem_iff_mem {l : List Nat} {k : Nat} (wf : swf l = true) : smem l k = true ↔ k ∈ l := smem_iff_mem_from wf

/-- In `u` the bit of granule `key` is `bit`; beside it and the tower's count of poisoned granules all is as in `s`. -/
structure GranuleSet (s : State) (key : Nat) (bit : Bool) (u : State) : Prop where
  bits : ∀ k, k ∈ u.towPoison ↔ if k = key then bit = true else k ∈ s.towPoison
  regs : ∀ o, o ≠ rTow (key / 2 ^ 24) 0x38 → reg u o = reg s o
  frame : u = { s with regs := u.regs, towPoison := u.towPoison }
  canon : u.Canonical

section
variable {s : State} {key : Nat} (canonical : s.Canonical)
include canonical

theorem granuleSet_self {bit : Bool} (held : smem s.towPoison key = bit) : GranuleSet s key bit s where
  bits k := by
    split
    case isTrue same => rw [same, ← smem_iff_mem canonical.towPoison, held]
    case isFalse => rfl
  regs _ _ := rfl
  frame := rfl
  canon := canonical

/-- The set of poisoned granules replaced by one that differs in one granule, and the tower's count with it. -/
theorem granuleSet_count {l : List Nat} {bit : Bool} (wf : swf l = true) (up : Bool)
    (bits : ∀ k, smem l k = if k = key then bit else smem s.towPoison k) :
    GranuleSet s key bit (countTowPoison { s with towPoison := l } (key / 2 ^ 24) up) where
  bits k := by
    rw [countTowPoison, setReg_towPoison, ← smem_iff_mem wf, ← smem_iff_mem canonical.towPoison, bits]
    split <;> rfl
  regs _ apart := reg_setReg_apart canonical.regs apart
  frame := rfl
  canon := setReg_canon ⟨canonical.regs, canonical.mem, canonical.tiles, canonical.matPoison, wf, canonical.full⟩

theorem poisonGranule_set : GranuleSet s key true (poisonGranule s key) := by
  unfold poisonGranule
  split
  case isTrue held => exact granuleSet_self canonical held
  case isFalse =>
    refine granuleSet_count canonical (sins_wf canonical.towPoison) true fun k => ?_
    rw [smem_sins]
    by_cases same : k = key <;> simp [same]

theorem clearGranule_set : GranuleSet s key false (clearGranule s key) := by
  unfold clearGranule
  split
  case isFalse clear => exact granuleSet_self canonical (Bool.eq_false_iff.mpr clear)
  case isTrue =>
    refine granuleSet_count canonical (sdel_wf canonical.towPoison) false fun k => ?_
    rw [smem_sdel canonical.towPoison]
    by_cases same : k = key <;> simp [same]

end

/-! ### POISON_OP (R179) -/

/-- What the statement says of the state after an operation that leaves the granule's bit at `bit`. -/
structure PoisonOpDone (s : State) (t g : Nat) (bit : Bool) (u : State) : Prop where
  granule : regF u (rTow t 0x48) 0 24 = g
  result : regB u (rTow t 0x48) 26 = bit
  bits : ∀ k, k ∈ u.towPoison ↔ if k = t * 2 ^ 24 + g ∧ g < granules then bit = true else k ∈ s.towPoison
  frame : u = { s with regs := u.regs, towPoison := u.towPoison }

section
variable {s u : State} {t g : Nat} {bit : Bool} (canonical : s.Canonical) (fits : g < 2 ^ 24)
include fits

theorem granule_shown (wf : mwf regReset s.regs = true) (wf' : mwf regReset u.regs = true)
    (kept : reg u (rTow t 0x48) = reg (setF s (rTow t 0x48) 0 24 g) (rTow t 0x48)) :
    regF (setB u (rTow t 0x48) 26 bit) (rTow t 0x48) 0 24 = g := by
  rw [setB, regF_setF_apart wf' (by omega) (.inr (.inl (by omega))), regF_congr kept, regF_setF_same wf (by omega),
    Nat.mod_eq_of_lt fits]

include canonical

/-- An operation past the tower's last granule. -/
theorem poisonOp_past {op : Nat} (asked : op ≠ 0) (past : granules ≤ g) : PoisonOpDone s t g false (wrPoisonOp s t g op) := by
  have meaning : wrPoisonOp s t g op = setB (setF s (rTow t 0x48) 0 24 g) (rTow t 0x48) 26 false :=
    (if_neg asked).trans (if_pos past)
  have wf := setF_regs_wf (o := rTow t 0x48) (lo := 0) (n := 24) (v := g) canonical.regs
  rw [meaning]
  exact {
    granule := granule_shown fits canonical.regs wf rfl
    result := regB_setB_same wf (by omega)
    bits := fun k => by rw [if_neg (by omega)]; rfl
    frame := rfl }

/-- An operation on a granule of the tower: what it does to the granule's bit, shown in RESULT. -/
theorem poisonOp_done (within : g < granules)
    (operated : GranuleSet (setF s (rTow t 0x48) 0 24 g) (t * 2 ^ 24 + g) bit u) :
    PoisonOpDone s t g bit (setB u (rTow t 0x48) 26 (smem u.towPoison (t * 2 ^ 24 + g))) := by
  have bit_shown : smem u.towPoison (t * 2 ^ 24 + g) = bit := by
    rw [Bool.eq_iff_iff, smem_iff_mem operated.canon.towPoison, operated.bits, if_pos rfl]
  have count_apart : rTow t 0x48 ≠ rTow ((t * 2 ^ 24 + g) / 2 ^ 24) 0x38 := by
    rw [show (t * 2 ^ 24 + g) / 2 ^ 24 = t by omega]
    exact rTow_apart (by decide)
  rw [bit_shown]
  exact {
    granule := granule_shown fits canonical.regs operated.canon.regs (operated.regs _ count_apart)
    result := regB_setB_same operated.canon.regs (by omega)
    bits := fun k => by simp only [within, and_true]; exact operated.bits k
    frame := by rw [setB, setF, setReg, operated.frame]; rfl }

end

theorem poisonOp_within {s : State} {t g op : Nat} (asked : op ≠ 0) (within : g < granules) : wrPoisonOp s t g op =
    let a := setF s (rTow t 0x48) 0 24 g
    let u := if op = 2 then poisonGranule a (t * 2 ^ 24 + g) else if op = 3 then clearGranule a (t * 2 ^ 24 + g) else a
    setB u (rTow t 0x48) 26 (smem u.towPoison (t * 2 ^ 24 + g)) :=
  (if_neg asked).trans (if_neg (Nat.not_le.mpr within))

/-- Settles O20: query, set and clear, on a granule of the tower and past its last one. -/
theorem poisonOperations : Obligations.PoisonOperations := by
  intro m t g s canonical served key out
  have answers {c : Instr} {op : Nat} {bit : Bool} (meaning : exec c s = effect s (gated s m (rTow t 0x48)
      (fun x => wrPoisonOp x t g.toNat op))) (done : PoisonOpDone s t g.toNat bit (wrPoisonOp s t g.toNat op)) : out c bit :=
    ⟨_, does_of_effect (meaning.trans (congrArg (effect s) (gated_served served))), done.granule, done.result, done.bits,
      done.frame⟩
  have stored : (setF s (rTow t 0x48) 0 24 g.toNat).Canonical := setReg_canon canonical
  refine ⟨fun within => ⟨answers rfl ?query, answers rfl ?setBit, answers rfl ?clearBit⟩, fun past =>
    ⟨answers rfl ?queryPast, answers rfl ?setPast, answers rfl ?clearPast⟩⟩
  case query =>
    rw [poisonOp_within (by decide) within]
    refine poisonOp_done canonical g.isLt within (granuleSet_self stored ?_)
    rw [Bool.eq_iff_iff, decide_eq_true_iff]
    exact smem_iff_mem canonical.towPoison
  case setBit =>
    rw [poisonOp_within (by decide) within]
    exact poisonOp_done canonical g.isLt within (poisonGranule_set stored)
  case clearBit =>
    rw [poisonOp_within (by decide) within]
    exact poisonOp_done canonical g.isLt within (clearGranule_set stored)
  all_goals exact poisonOp_past canonical g.isLt (by decide) past

end Sys2Proof.Proofs
end
